-- ==== Sys2Proof/Word.lean ====
section
/-! DEFINITION. The word types of the ZS-460 model and their plainest arithmetic. -/

namespace Sys2Proof

/-- One byte. -/
abbrev Byte := BitVec 8
/-- One register (00_scope.md, Registers: all registers are 32 bits wide). -/
abbrev Word := BitVec 32
/-- A scalar register, an address or a timestamp. -/
abbrev Dword := BitVec 64
/-- A radio timestamp (R31). -/
abbrev Rts := BitVec 64
/-- A ledger value L128 (R267). -/
abbrev L128 := BitVec 128

/-- A core number, gy·24 + gx (00_scope.md, Names). -/
abbrev CoreId := Fin 576
/-- An instance: 0 is the PF, n is VF n (R69). -/
abbrev InstId := Fin 64

/-- Bits high:low of a word, as a natural number. -/
def bits {w : Nat} (x : BitVec w) (hi lo : Nat) : Nat := (x.toNat >>> lo) % 2 ^ (hi + 1 - lo)

/-- One bit of a word. -/
def bit {w : Nat} (x : BitVec w) (n : Nat) : Bool := x.getLsbD n

/-- A truth value as a number. -/
def b2n (b : Bool) : Nat := if b then 1 else 0

/-- A saturating count of `w` bits (the registers that say "saturating"). -/
def satInc {w : Nat} (x : BitVec w) : BitVec w := if x = BitVec.allOnes w then x else x + 1

/-- A natural number, saturated to `w` bits. -/
def satNat (w n : Nat) : BitVec w := if n < 2 ^ w then BitVec.ofNat w n else BitVec.allOnes w

/-- An integer, saturated to the signed range of `w` bits. -/
def satInt (w : Nat) (n : Int) : BitVec w :=
  if n < -(2 ^ (w - 1) : Int) then BitVec.ofInt w (-(2 ^ (w - 1) : Int))
  else if (2 ^ (w - 1) : Int) ≤ n then BitVec.ofInt w ((2 ^ (w - 1) : Int) - 1)
  else BitVec.ofInt w n

end Sys2Proof
end

