-- ==== Sys2Proof/Syntax.lean ====
section
/-! DEFINITION. The commands the block takes, one constructor per row of spec/opcode_table.json, with
the types of their operands. The rows give no bits, so the operands are the parts the rows' rules name. -/

namespace Sys2Proof

/-- Guard of a core instruction (R189, R190): g_en, g_neg and g_p. -/
structure Guard where
  en : Bool
  neg : Bool
  p : BitVec 3
  deriving DecidableEq, Repr

/-- R format (R192). -/
structure RFmt where
  g : Guard
  d : BitVec 5
  a : BitVec 5
  b : BitVec 5
  c : BitVec 5
  x : BitVec 29
  deriving DecidableEq, Repr

/-- I format (R192). -/
structure IFmt where
  g : Guard
  d : BitVec 5
  a : BitVec 5
  x : BitVec 7
  imm : BitVec 32
  deriving DecidableEq, Repr

/-- B format (R192); `rsv` is the reserved field 38:16. -/
structure BFmt where
  g : Guard
  d : BitVec 5
  a : BitVec 5
  rsv : BitVec 23
  off : BitVec 16
  deriving DecidableEq, Repr

/-- M format (R192). -/
structure MFmt where
  g : Guard
  t : BitVec 5
  a : BitVec 5
  n : BitVec 5
  sp : BitVec 2
  x : BitVec 8
  off : BitVec 24
  deriving DecidableEq, Repr

/-- T format (R192). -/
structure TFmt where
  g : Guard
  acc : BitVec 6
  a : BitVec 5
  b : BitVec 5
  c : BitVec 5
  e : BitVec 5
  x : BitVec 23
  deriving DecidableEq, Repr

/-- The window a register access goes through: PF BAR0, or the page of an instance, which VF n's BAR0
and page n of PF BAR2 both reach (R27, R28). -/
inductive Bar where
  | pf
  | page (i : InstId)
  deriving DecidableEq, Repr

/-- An address inside a register window. -/
structure BarAddr where
  bar : Bar
  off : Nat
  deriving DecidableEq, Repr

/-- How the PCIe side answers a read the device makes of host memory (R107). -/
inductive LinkResult where
  | ok
  | poisonedTlp
  | failed
  deriving DecidableEq, Repr

/-- An error that a stored 64-byte line holds when the command reads it (R387): correctable, or
uncorrectable. `loc` names the issuing core's local memory instead of a device line. -/
structure LineErr where
  loc : Bool
  line : Nat
  unc : Bool
  deriving DecidableEq, Repr

/-- What the read of a mailbox or a work-bin queue meets: its pointers differ (R185, R502), or an error of its memory that
is corrected or not (R386, R387). -/
inductive BoxErr where
  | pointers
  | corrected
  | uncorrectable
  deriving DecidableEq, Repr

/-- An MMAS, and the column whose residue check fails in it, if one does (R264, R309). -/
structure MmasOp where
  w : TFmt
  residue : Option (Fin 16)
  deriving DecidableEq, Repr

/-- A RECV or RECVNB, and what it meets where it reads (R168, R386). -/
structure RecvOp where
  w : RFmt
  met : Option BoxErr
  deriving DecidableEq, Repr

/-- The decoupled queues of a core (R208). -/
inductive QueueId where
  | arr
  | spx
  | hac
  | ocu
  | ni
  deriving DecidableEq, Repr

/-- Core exception causes (R183). -/
inductive Cause where
  | illegal
  | localRange
  | localAlign
  | xlate
  | poison
  | msgRange
  | binRange
  | arrayOff
  | mbxPtr
  | unit
  | fabric
  deriving DecidableEq, Repr

/-- An engine that an escalation may reset (R129, R151). -/
inductive Engine where
  | dma (n : Fin 16)
  | wk (n : Fin 16)
  | htu
  | sp
  | fabric
  deriving DecidableEq, Repr

/-- What a parity error lies in (R418): a buffer pool or a lock bank. -/
inductive ParityUnit where
  | pool (p : Fin 16)
  | bank (b : Fin 64)
  deriving DecidableEq, Repr

/-- A heater loop (R423). -/
abbrev LoopId := Fin 2144

/-- How start-up calibration ended (R426): the lasers and rings that failed, and step 4. -/
structure CalResult where
  lasers : BitVec 32
  rings : BitVec 64
  /-- Transmitters whose modulator bias points were not found, and whether those of the HTU were (step 3). -/
  transmitters : BitVec 32 := 0
  htuBias : Bool := true
  htuOk : Bool
  deriving DecidableEq, Repr

/-- A data flit as a lane receives it (R449, R450, R453, R454): its two control nibbles, whether every
codeword it touches was corrected, and its eight message units. -/
structure Flit where
  nib1 : BitVec 4
  nib2 : BitVec 4
  fecOk : Bool
  fecFixed : Bool
  units : Vector (BitVec 128) 8
  deriving DecidableEq, Repr

/-- A control record (R458), its CRC apart. -/
structure ControlRec where
  hasAck : Bool
  hasNak : Bool
  hasReplay : Bool
  hasCredit : Bool
  hasTrain : Bool
  epoch : BitVec 8
  ackSeq : BitVec 16
  rpSeq : BitVec 16
  node : BitVec 16
  mode : BitVec 8
  lane : BitVec 8
  state : BitVec 8
  credit : Vector Word 3
  deriving DecidableEq, Repr

/-- A fabric message (R459): header and payload. -/
structure Msg where
  type : Byte
  flags : Byte
  dst : BitVec 16
  src : BitVec 16
  hops : Byte
  hopEpoch : Byte
  length : BitVec 16
  domain : Byte
  arg : Byte
  reqId : Word
  addr : Dword
  deadline : Rts
  payload : List Byte
  deriving DecidableEq, Repr

/-- The two command paths of Nucleus (R518). -/
inductive CmdPath where
  | mailbox
  | smbus
  deriving DecidableEq, Repr

/-- A Nucleus request (R520): header fields and the bytes from byte 8. -/
structure NucReq where
  opcode : BitVec 16
  length : BitVec 16
  seq : Word
  body : List Byte
  deriving DecidableEq, Repr

/-- What starts a conventional reset (R549). -/
inductive ConvCause where
  | perst
  | hot
  | linkDown
  deriving DecidableEq, Repr

/-- What a configuration write of a function may set (R65, R152): memory space, bus mastering, MSI-X
enable, MSI-X function mask; the maximum payload size 128·2^mps, the maximum read request size 128·2^mrrs, and Relaxed
Ordering. -/
structure FnConfig where
  memory : Bool
  master : Bool
  msix : Bool
  fnMask : Bool
  mps : Fin 3 := 0
  mrrs : Fin 6 := 2
  relaxed : Bool := true
  deriving DecidableEq, Repr

/-- The board configuration (R553). -/
structure BoardConfig where
  trefSel : BitVec 3
  setpoint : BitVec 2
  fallback : Bool
  force6400 : Bool
  portMode : Vector (BitVec 2) 8
  deriving DecidableEq, Repr

/-- The outcome of verifying an image slot (R554): the check, 1 to 6, that failed, or the image's
advance flag, security version and board configuration. -/
inductive SlotCheck where
  | fail (check : Fin 6)
  | pass (advance : Bool) (secVersion : Word) (cfg : BoardConfig)
  deriving DecidableEq, Repr

/-- The JTAG instructions that are enabled (R579). -/
inductive JtagOp where
  | bypass
  | idcode
  | samplePreload
  | extest
  | highz
  | clamp
  deriving DecidableEq, Repr

/-- The commands. -/
inductive Instr where
  /-- R12: A host write to a register field that has no row of its own takes effect according to its access code (RW, W1C, W1S, RWL, RSV). -/
  | registerWrite (a : BarAddr) (size : Nat) (v : Word)
  /-- R10: A read of the low word of a 64-bit register pair returns the current low word and loads the read latch with the current high word. -/
  | regPairLowRead (a : BarAddr)
  /-- R10: A write of the low word of a 64-bit register pair loads the holding register and has no other effect. -/
  | regPairLowWrite (a : BarAddr) (v : Word)
  /-- R10: A write of the high word of a 64-bit register pair commits the holding register and the new high word at once. -/
  | regPairHighWrite (a : BarAddr) (v : Word)
  /-- R37: A write of 1 to tod_arm in EPH_CTRL arms a time-of-day load of EPH_TOD_NEXT at the next qualified PPS_IN edge. -/
  | todArm
  /-- R37: A write of 1 to tod_cancel in EPH_CTRL cancels an armed load; when tod_arm is written in the same write, no load is left armed. -/
  | todCancel (arm : Bool)
  /-- R35: The Ephemeris PLL acquires lock to a TREF_IN that lies within ±50 ppm of the selected rate, and pll_lock sets. -/
  | pllLock (ppm : Int)
  /-- R35: TREF_IN becomes qualified after the PLL is locked and the measured frequency has stayed within ±20 ppm for 100 consecutive ms. -/
  | trefQualify (ppm : Int)
  /-- R54: TREF_IN loses qualification, either after 1 µs with no edge or when its frequency is more than 50 ppm off over 1 ms; CK_RT continues from the local reference and LOCKED moves to HOLDOVER. -/
  | trefLoss
  /-- R36: A PPS_IN edge, after pps_comp, is judged against its expected boundary for qualification, phase error, armed loads and automatic steps. -/
  | ppsEdge
  /-- R54: PPS_IN loses qualification when no edge arrives by 1 s + 1,024 ticks after the previous edge; LOCKED moves to HOLDOVER. -/
  | ppsLoss
  /-- R40: Slewing brings the phase error to within ±2 ticks, and Ephemeris enters LOCKED once the LOCKED conditions hold. -/
  | phaseSlewDone (residual : Int)
  /-- R39: HOLDOVER has lasted longer than EPH_HOLD_LIMIT, and Ephemeris enters FREE-RUN. -/
  | holdLimitExpiry
  /-- R47: The instruction writes the core's copy of the RTS into sd, and sets pd to 1 if Ephemeris is LOCKED. -/
  | gett (c : CoreId) (w : RFmt)
  /-- R48: The instruction normalises its target RTS and stalls issue until the core's copy of the time reaches it; pd reports whether the target had already passed. -/
  | waitt (c : CoreId) (w : RFmt)
  /-- R48: The core's time copy reaches the WAITT target, and issue resumes within 8 CK_CORE cycles. -/
  | waittWake (c : CoreId)
  /-- R205: The instruction sets pd to 1 if sa is 0 or the time has not passed normalised sa, and to 0 otherwise. -/
  | tchk (c : CoreId) (w : RFmt)
  /-- R51: An EVENT held because its pin's queue was full enters the queue when a slot frees. -/
  | evtEnqueue (pin : Fin 8)
  /-- R51: The action RTS of a held EVENT passes, and the EVENT is shed or stays held for a LATE performance. -/
  | evtHeldExpiry (d : Nat)
  /-- R50: A pin's queued action reaches its RTS, or reaches the head of the queue already late, and is performed or shed under late_policy, enable and min_state. -/
  | evtAction (pin : Fin 8)
  /-- R49: The falling edge of a performed pulse is performed at its RTS, or at once if late, whatever enable and min_state hold; the pulse then completes. -/
  | evtPulseFall (pin : Fin 8)
  /-- R53: A selected edge on an EVTIN input is timestamped into its 8-entry FIFO, or is discarded with overflow when the FIFO is full. -/
  | evtinEdge (n : Fin 4) (rising : Bool)
  /-- R64: A read of EVTIN_TSn_LO removes the oldest timestamp from the FIFO and latches its high word. -/
  | evtinTsRead (n : Fin 4)
  /-- R70: A write of SQ_TAIL_DBq sets the tail of the SQ, or is ignored or puts the ring into ERROR under the size, state and range checks. -/
  | sqTailDoorbell (i : InstId) (q : Fin 16) (size : Nat) (v : Word)
  /-- R71: A write of CQ_HEAD_DBq releases CQ slots; held records are written into the freed space, or the CQ enters ERROR on an out-of-range value. -/
  | cqHeadDoorbell (i : InstId) (q : Fin 16) (size : Nat) (v : Word)
  /-- R76: A fetch of descriptors from an SQ completes: each fetched descriptor is accepted into in-flight slots and is checked for INVALID at acceptance. -/
  | descriptorFetch (i : InstId) (q : Fin 16) (n : Nat) (link : LinkResult)
  /-- R78: The device writes the SQ head to the head shadow address, within 2 µs of the head moving and at least every 32 descriptors. -/
  | headShadowWrite (i : InstId) (q : Fin 16)
  /-- R75: A write of enable 1 to INST_SQ_CTRL in DISABLED with a valid configuration increments the epoch, zeroes head and tail, and makes the SQ ACTIVE. -/
  | sqEnable (i : InstId) (q : Fin 16) (v : Word)
  /-- R75: A write of enable 0 to INST_SQ_CTRL in ACTIVE or ERROR moves the SQ to DRAINING. -/
  | sqDisable (i : InstId) (q : Fin 16) (v : Word)
  /-- R75: The last accepted descriptor of a DRAINING SQ completes, and the SQ becomes DISABLED. -/
  | sqDrainDone (i : InstId) (q : Fin 16)
  /-- R81: A write of enable 1 to INST_CQ_CTRL in DISABLED or ERROR increments the epoch, makes the CQ ACTIVE, and writes any held ABORT_RESET and other records. -/
  | cqEnable (i : InstId) (q : Fin 16) (v : Word)
  /-- R81: A write of enable 0 to INST_CQ_CTRL disables the CQ at once, unless an SQ outside DISABLED names it. -/
  | cqDisable (i : InstId) (q : Fin 16) (v : Word)
  /-- R79: After a descriptor's last effect or decision, the device writes its completion record into its CQ, or holds it while the CQ is full, in ERROR or disabled. -/
  | completionRecord (i : InstId) (q : Fin 16)
  /-- R99: The oldest unsignalled record of a CQ has waited mod_time µs, and the MSI-X message is sent. -/
  | cqModTimer (i : InstId) (q : Fin 16)
  /-- R99: A masked vector with its pending bit set is unmasked, and the pending message is sent. -/
  | msixUnmask (fn : InstId) (vec : Fin 32)
  /-- R43: The time of a held descriptor reaches its release RTS; it becomes ready and is tested by the shed estimator. -/
  | descriptorRelease (d : Nat)
  /-- R140: The deadline of a descriptor passes while it waits or runs, and it is shed or marked late under shed_mode and no_shed. -/
  | deadlineExpiry (d : Nat)
  /-- R137: A ready descriptor has waited age_us µs and becomes aged, so that it is dispatched first. -/
  | descriptorAged (d : Nat)
  /-- R89: A NOP descriptor starts when it is ready and completes with result 0. -/
  | nop (d : Nat)
  /-- R97: A FENCE descriptor completes once every earlier descriptor of its own SQ and of the SQs in ring_mask has a written record. -/
  | fence (d : Nat)
  /-- R158: The CORE dispatcher starts a LAUNCH: it checks the descriptor, sets the cores to RUNNING, loads the image and arguments, initialises registers and starts issue. -/
  | launch (d : Nat)
  /-- R395: A DMA channel copies bytes, or fills them with fill_byte, from source to destination in translated requests of up to 64 bytes. -/
  | dmaCopy (d : Nat) (ch : Fin 16) (err : Option LineErr)
  /-- R396: A DMA channel reads and checks the whole gather list, then copies each entry in order to consecutive destination bytes. -/
  | dmaGather (d : Nat) (ch : Fin 16) (err : Option LineErr)
  /-- R352: A SEARCH is started on its walkers: the parameter and index blocks are checked, and its queries are queued. -/
  | search (d : Nat)
  /-- R356: A walker takes the next query when a query place frees, reads cur_gen and runs the walk. -/
  | searchQueryStart (d : Nat) (wk : Fin 16) (cut : Option Nat)
  /-- R359: In recall mode the query's budget or deadline − reserve expires; the query returns its best k so far, with cut set. -/
  | queryStopTime (d : Nat) (j : Nat)
  /-- R362: A walker applies the insert or delete entries in list order with G' = cur_gen + 1, then advances cur_gen. -/
  | indexUpdate (d : Nat) (wk : Fin 16)
  /-- R430: The HTU optionally loads a matrix, then transforms each input vector into an output vector. -/
  | htuRun (d : Nat)
  /-- R432: A walker's HTU entry request is served, interleaved between vectors or after the current HTU_RUN, with a matrix reload if needed. -/
  | htuWalkerRequest
  /-- R429: The decomposition and settling of a matrix load end; every HTU loop locks and htu_locked sets. -/
  | htuMatrixLocked
  /-- R491: A started CAPTURE enters the sample port's armed queue, ordered by release RTS. -/
  | capture (d : Nat)
  /-- R90: An EVENT descriptor is released and places its action in its pin's queue, or is held while that queue is full. -/
  | event (d : Nat)
  /-- R409: The descriptor queries a lock, recovers an ORPHANED lock or forces a lock free. -/
  | lockAdmin (d : Nat)
  /-- R68: A VF Function Level Reset starts an instance reset of that VF's instance. -/
  | vfFlr (i : InstId)
  /-- R128: A PF Function Level Reset resets every instance that is not OFF, and afterwards returns the INST and MTU configuration to reset values. -/
  | pfFlr
  /-- R129: A write of 1 to reset in INST_CTRL for instances 1 to 63 starts an instance reset: the generation increments, rings are disabled and unstarted descriptors end. -/
  | instanceReset (i : InstId)
  /-- R131: The PF clears VF Enable; every VF instance that is not OFF is reset, its records are discarded, and it ends in OFF. -/
  | vfEnableClear
  /-- R152: The PF sets VF Enable, and VF instances that are OFF become READY with no grant. -/
  | vfEnableSet (numVFs : Fin 64)
  /-- R129: By T0 + 1 µs, the cores of the resetting instance's partitions stop issue. -/
  | resetHalt (i : InstId)
  /-- R129: By T0 + 2 µs, every engine has seen the new generation and stops old work at its boundary. -/
  | resetObserve (i : InstId)
  /-- R129: An old-generation item has no request outstanding and leaves drain_count; at 0, zeroing starts. -/
  | resetDrainItemDone (i : InstId) (d : Nat)
  /-- R129: drain_count is still non-zero 1 ms after T0; each engine still holding an item is reset. -/
  | resetEscalate (i : InstId)
  /-- R151: An escalated engine reset has not brought the engine back within 1 ms; the engine is taken out of service. -/
  | engineResetTimeout (e : Engine)
  /-- R132: Zeroing of the instance ends, and it enters READY, or OFF after VF removal, with reset_done set. -/
  | resetZeroingDone (i : InstId)
  /-- R116: A write of INST_PARTn_HI commits the partition pair, judged as a whole for overlap, range and busy cores. -/
  | partitionCommit (n : Fin 64) (v : Word)
  /-- R138: A 10 µs window ends, and each instance's service rate μt is updated. -/
  | estimatorWindow
  /-- R143: 1 ms has passed since the last SHED_EARLY with no SQ held, and pressure clears. -/
  | pressureTimeout (i : InstId)
  /-- R125: A write of go to MTU_INVAL starts an invalidation of one page or block, or of a whole context, unless busy is set. -/
  | mtuInvalGo (v : Word)
  /-- R125: The invalidation ends: no access uses the old entry and busy clears. -/
  | mtuInvalDone
  /-- R126: A host read through BAR4 or VF BAR2 is translated by the instance's MTU and returns the data, or 0 on a fault. -/
  | barWindowRead (i : InstId) (off : BitVec 33) (len : Nat)
  /-- R126: A host write through BAR4 or VF BAR2 is translated by the instance's MTU, or is discarded on a fault. -/
  | barWindowWrite (i : InstId) (off : BitVec 33) (data : List Byte)
  /-- R194: Scalar add, sd ← sa + sb. -/
  | add (c : CoreId) (w : RFmt)
  /-- R194: Scalar subtract, sd ← sa − sb. -/
  | sub (c : CoreId) (w : RFmt)
  /-- R194: Scalar bitwise and. -/
  | and (c : CoreId) (w : RFmt)
  /-- R194: Scalar bitwise or. -/
  | or (c : CoreId) (w : RFmt)
  /-- R194: Scalar bitwise exclusive or. -/
  | xor (c : CoreId) (w : RFmt)
  /-- R194: Scalar shift left by sb. -/
  | shl (c : CoreId) (w : RFmt)
  /-- R194: Scalar logical shift right by sb. -/
  | shr (c : CoreId) (w : RFmt)
  /-- R194: Scalar arithmetic shift right by sb. -/
  | sra (c : CoreId) (w : RFmt)
  /-- R194: Low 64 bits of the scalar product. -/
  | mul (c : CoreId) (w : RFmt)
  /-- R194: Signed high 64 bits of the scalar product. -/
  | mulh (c : CoreId) (w : RFmt)
  /-- R194: Unsigned high 64 bits of the scalar product. -/
  | mulhu (c : CoreId) (w : RFmt)
  /-- R194: Signed scalar minimum. -/
  | min (c : CoreId) (w : RFmt)
  /-- R194: Signed scalar maximum. -/
  | max (c : CoreId) (w : RFmt)
  /-- R194: Unsigned scalar minimum. -/
  | minu (c : CoreId) (w : RFmt)
  /-- R194: Unsigned scalar maximum. -/
  | maxu (c : CoreId) (w : RFmt)
  /-- R194: Scalar select on predicate bit 0. -/
  | sel (c : CoreId) (w : RFmt)
  /-- R194: Scalar compare into a predicate. -/
  | cmp (c : CoreId) (w : RFmt)
  /-- R194: Logical operation on two predicates. -/
  | plog (c : CoreId) (w : RFmt)
  /-- R194: Predicate to scalar, zero-extended. -/
  | pmov (c : CoreId) (w : RFmt)
  /-- R194: Sets a predicate from sa bits 15:0. -/
  | pset (c : CoreId) (w : RFmt)
  /-- R194: Reads the sticky ledger flags, and clears them when x0 = 1. -/
  | rdf (c : CoreId) (w : RFmt)
  /-- R194: Scalar add of a sign-extended immediate. -/
  | addi (c : CoreId) (w : IFmt)
  /-- R194: Scalar and with an immediate. -/
  | andi (c : CoreId) (w : IFmt)
  /-- R194: Scalar or with an immediate. -/
  | ori (c : CoreId) (w : IFmt)
  /-- R194: Scalar exclusive or with an immediate. -/
  | xori (c : CoreId) (w : IFmt)
  /-- R194: Shift left by an immediate. -/
  | shli (c : CoreId) (w : IFmt)
  /-- R194: Logical shift right by an immediate. -/
  | shri (c : CoreId) (w : IFmt)
  /-- R194: Arithmetic shift right by an immediate. -/
  | srai (c : CoreId) (w : IFmt)
  /-- R194: Loads a sign-extended immediate. -/
  | movi (c : CoreId) (w : IFmt)
  /-- R194: Places an immediate in the high 32 bits and keeps the low 32 bits. -/
  | movhi (c : CoreId) (w : IFmt)
  /-- R194: Compare with an immediate into a predicate. -/
  | cmpi (c : CoreId) (w : IFmt)
  /-- R194: Relative branch. -/
  | b (c : CoreId) (w : BFmt)
  /-- R194: Relative branch with link. -/
  | bl (c : CoreId) (w : BFmt)
  /-- R194: Branch to a register. -/
  | br (c : CoreId) (w : BFmt)
  /-- R194: Branch to a register with link. -/
  | blr (c : CoreId) (w : BFmt)
  /-- R194: Decrements sa and branches while it is not 0. -/
  | loop (c : CoreId) (w : BFmt)
  /-- R196: Zero-extended load from local, global or remote space. -/
  | ld (c : CoreId) (w : MFmt) (err : Option LineErr)
  /-- R196: Sign-extended load. -/
  | lds (c : CoreId) (w : MFmt) (err : Option LineErr)
  /-- R196: Scalar store. -/
  | st (c : CoreId) (w : MFmt)
  /-- R196: 64-byte vector load. -/
  | vld (c : CoreId) (w : MFmt) (err : Option LineErr)
  /-- R196: 64-byte vector store. -/
  | vst (c : CoreId) (w : MFmt)
  /-- R200: Vector add per element. -/
  | vadd (c : CoreId) (w : RFmt)
  /-- R200: Vector subtract per element. -/
  | vsub (c : CoreId) (w : RFmt)
  /-- R200: Vector multiply per element. -/
  | vmul (c : CoreId) (w : RFmt)
  /-- R200: Vector fused multiply-add. -/
  | vfma (c : CoreId) (w : RFmt)
  /-- R200: Vector minimum per element. -/
  | vmin (c : CoreId) (w : RFmt)
  /-- R200: Vector maximum per element. -/
  | vmax (c : CoreId) (w : RFmt)
  /-- R200: Vector bitwise and. -/
  | vand (c : CoreId) (w : RFmt)
  /-- R200: Vector bitwise or. -/
  | vor (c : CoreId) (w : RFmt)
  /-- R200: Vector bitwise exclusive or. -/
  | vxor (c : CoreId) (w : RFmt)
  /-- R200: Vector shift left. -/
  | vshl (c : CoreId) (w : RFmt)
  /-- R200: Vector logical shift right. -/
  | vshr (c : CoreId) (w : RFmt)
  /-- R200: Vector arithmetic shift right. -/
  | vsra (c : CoreId) (w : RFmt)
  /-- R200: Vector compare into predicate lanes. -/
  | vcmp (c : CoreId) (w : RFmt)
  /-- R200: Vector select per lane by a predicate. -/
  | vsel (c : CoreId) (w : RFmt)
  /-- R200: Vector conversion between element types. -/
  | vcvt (c : CoreId) (w : RFmt)
  /-- R200: Broadcasts a scalar to every lane. -/
  | vbc (c : CoreId) (w : RFmt)
  /-- R200: Extracts a lane to a scalar. -/
  | vext (c : CoreId) (w : RFmt)
  /-- R200: Inserts a scalar into a lane. -/
  | vins (c : CoreId) (w : RFmt)
  /-- R200: Permutes lanes. -/
  | vperm (c : CoreId) (w : RFmt)
  /-- R200: Sums the lanes into a scalar. -/
  | vrsum (c : CoreId) (w : RFmt)
  /-- R249: Dense matrix product of the A and B tensors into ledger slot acc. -/
  | mma (c : CoreId) (w : TFmt) (residue : Option (Fin 16))
  /-- R310: Matrix product over tile descriptors, with a dense or sparse path per k-tile, optionally in SDDMM form. -/
  | mmas (c : CoreId) (x : MmasOp)
  /-- R274: Sets the window base of a slot, zeroes its data and resets its form, run and ping-pong state. -/
  | mcfg (c : CoreId) (w : TFmt)
  /-- R284: Converts a slot's ledger entries to the output format into a destination tensor, optionally clearing the slot. -/
  | drain (c : CoreId) (w : TFmt)
  /-- R285: Writes the maximum entry or entries of a slot, with their winner indices. -/
  | redmax (c : CoreId) (w : TFmt)
  /-- R285: Writes the minimum entry or entries of a slot, with their winner indices. -/
  | redmin (c : CoreId) (w : TFmt)
  /-- R286: Saves slots and, optionally, the in-array ledgers as a context image. -/
  | ctxsv (c : CoreId) (w : MFmt)
  /-- R287: Checks a context image and restores its slots and, optionally, the in-array ledgers. -/
  | ctxld (c : CoreId) (w : MFmt)
  /-- R316: The SMU intersects two sorted streams and writes matches, adds products into the HACC, or only counts them. -/
  | isect (c : CoreId) (w : RFmt)
  /-- R317: Adds 16 key-value lanes into the hash accumulator, spilling to the spill ring when a set is full. -/
  | hacc (c : CoreId) (w : RFmt)
  /-- R319: Writes up to sb HACC records in ascending key order and removes those keys. -/
  | hflush (c : CoreId) (w : RFmt)
  /-- R319: Empties the HACC entries and the spill ring. -/
  | hclr (c : CoreId) (w : RFmt)
  /-- R321: The OCU compresses 16 slots into a tile body and descriptor, optionally posts rows to work bins, or seals a bin set. -/
  | cmpr (c : CoreId) (w : TFmt)
  /-- R326: Once the CMPR body and descriptor writes are performed, one entry per row is posted to the queue of its bin. -/
  | wbPost (c : CoreId)
  /-- R330: A post has waited on a full queue for timeout_us; CMPR raises UNIT and wb_timeout sets. -/
  | wbPostTimeout (c : CoreId)
  /-- R164: Copies a message into the send buffer for delivery to a mailbox in the partition, or to a remote node. -/
  | send (c : CoreId) (w : RFmt)
  /-- R168: Takes the oldest whole message of a mailbox, or an entry of a work-bin queue, stalling while it is empty. -/
  | recv (c : CoreId) (x : RecvOp)
  /-- R168: Takes a message or queue entry without stalling, returning not-valid when empty. -/
  | recvnb (c : CoreId) (x : RecvOp)
  /-- R165: A reservation reaches a mailbox and is queued, granted or answered with RETRY. -/
  | mbxReservation (src : CoreId)
  /-- R165: A mailbox grant reaches the sender's NI, which sends the message data. -/
  | mbxGrant (src : CoreId)
  /-- R165: 32 CK_MESH cycles after a RETRY, the NI sends the reservation again. -/
  | mbxRetryTimer (src : CoreId)
  /-- R166: Message data reaches the mailbox Q-block; it is stored whole, or discarded for an old generation or a core that is not RUNNING. -/
  | mbxData (src : CoreId) (ptrMismatch : Bool)
  /-- R179: A write to CORE_MBX_CFGm changes the watermarks at once and re-evaluates open or closed. -/
  | mbxCfgWrite (c : CoreId) (m : Fin 8) (v : Word)
  /-- R205: The SYNC NOP instruction does nothing. -/
  | syncNop (c : CoreId) (w : RFmt)
  /-- R210: The FENCE instruction waits until every earlier instruction of the named queues has completed with its memory effects. -/
  | syncFence (c : CoreId) (w : RFmt)
  /-- R172: The core waits at barrier b until every core of its partition has arrived or is no longer RUNNING. -/
  | bar (c : CoreId) (w : RFmt)
  /-- R162: The core ends its program with an exit word once R163 holds; the LAUNCH completes when no core remains RUNNING. -/
  | exit (c : CoreId) (w : RFmt)
  /-- R403: Requests a lock, which is granted, granted ORPHANED, refused or queued. -/
  | lacq (c : CoreId) (w : RFmt)
  /-- R405: Releases a lock held by the core and grants the first waiter. -/
  | lrel (c : CoreId) (w : RFmt)
  /-- R288: Exact L128 atomic add at the word's home, optionally returning the old value. -/
  | ladd (c : CoreId) (w : MFmt)
  /-- R291: FP32 atomic add at the word's home, optionally returning the old value. -/
  | fadd (c : CoreId) (w : MFmt)
  /-- R288: Adds the 256 L128 values of a slot to 256 consecutive words. -/
  | laddt (c : CoreId) (w : MFmt)
  /-- R213: A decoupled instruction or NI request completes, writes its result register and clears the pending mark. -/
  | decoupledCompletion (c : CoreId) (q : QueueId)
  /-- R184: A core raises an exception, stops issue, enters FAULTED and records the cause. -/
  | coreException (c : CoreId) (cause : Cause) (isGlobal : Bool) (addr : Dword)
  /-- R184: The other cores of the partition stop within 1 µs, queued work is abandoned, locks are orphaned, and the LAUNCH completes. -/
  | partitionStop (n : Fin 64)
  /-- R187: A write of ctr_clear in CORE_CTRL clears every core counter and message count. -/
  | ctrClear (c : CoreId)
  /-- R379: A write of ctr_clear in WK_CTRL clears every walker counter. -/
  | wkCtrClear (w : Fin 16)
  /-- R392: The scrubber reads the next line at its even rate, correcting or poisoning it. -/
  | scrubRead (pool : Bool) (err : Option LineErr)
  /-- R391: Within 10 ms, Nucleus walks the MTU contexts and logs the finding to each instance that maps the line. -/
  | poisonOwnerWalk (line : Nat)
  /-- R417: A periodic LP5X retraining runs; failures are counted, and the third consecutive failure takes the channel OUT. -/
  | lp5xRetrain (ch : Fin 4) (ok : Bool)
  /-- R384: The 128 ms ZQ calibration of an LP5X channel runs. -/
  | zqCalibration (ch : Fin 4)
  /-- R399: A read of a pool's ALLOC port takes the head of the free list and returns its handle, or 0xFFFF_FFFF. -/
  | alloc (i : InstId) (p : Fin 16)
  /-- R400: A write of a pool's FREE port judges the handle and frees the buffer, or counts a rejection. -/
  | free (i : InstId) (p : Fin 16) (h : Word)
  /-- R399: Setting enable in BFM_POOLp_CFG rebuilds the pool's free list in ascending index order. -/
  | poolEnable (p : Fin 16) (v : Word)
  /-- R406: A held lock's lease tick ends without release, and the lock becomes ORPHANED, or passes to a waiter. -/
  | leaseExpiry (n : Fin 4096)
  /-- R418: A parity error in buffer-manager or lock-unit state disables the pool or bank concerned and is logged. -/
  | bfmLkuParityError (what : ParityUnit)
  /-- R423: Every 10 µs, each heater loop updates its heater and margin, and the least margin is reported to Tide. -/
  | heaterLoopUpdate (l : LoopId) (error : BitVec 16) (drive : BitVec 14)
  /-- R426: Boot firmware starts Halo start-up calibration, which runs its four steps in order. -/
  | calibrationStart
  /-- R426: The last calibration step ends, and cal_done sets. -/
  | calibrationDone (r : CalResult)
  /-- R427: Every recal_s, the HTU re-characterises its phase shifters, waiting for idle or a vector boundary. -/
  | htuRecharacterise
  /-- R443: Locker error stays above 2.5 GHz for 3 updates; the port-wavelength goes down and a re-sweep starts. -/
  | laserOffGrid (n : Fin 32)
  /-- R443: A laser monitor falls below 70 % of calibrated power, and the laser is taken out of service. -/
  | laserPowerLow (n : Fin 32)
  /-- R443: A ring loop error reaches e_lock; its port-wavelength goes down and a re-sweep starts. -/
  | ringUnlock (r : Fin 64)
  /-- R443: A heater drive sits at 0 or full for 10 updates, and its loop is treated as unlocked. -/
  | heaterAtLimit (l : LoopId)
  /-- R443: A monitor reading is unchanged under dither for 100 updates; the loop is taken out of service. -/
  | monitorStuck (l : LoopId)
  /-- R443: An HTU loop loses lock; htu_locked clears and HTU_RUN pauses. -/
  | htuLoopUnlock (l : LoopId)
  /-- R443: The HTU has not relocked 20 ms after an unlock; HTU_RUN fails and the HTU is taken out of service. -/
  | htuRelockTimeout
  /-- R443: A re-sweep or relock ends, and the loop and its resource are locked again. -/
  | loopRelock (l : LoopId)
  /-- R443: A laser junction reaches 100 °C; every laser is switched off and all ports and the HTU go down. -/
  | laserOverTemp
  /-- R434: Every 10 µs, Tide estimates die power, re-evaluates the cap and sets pacing duty and ballast. -/
  | tideWindow (power : Vector (BitVec 19) 4) (busy : Vector Bool 4)
  /-- R435: A cap of 0 has held for 20 ms, and C becomes 0.5 W/ms. -/
  | tideHoldTimeout (d : Fin 4)
  /-- R571: A CK_CORE rate change commands the die voltage over PMBus before or after the clock, as its direction requires. -/
  | dvfsChange (d : Fin 4) (mhz : Nat)
  /-- R571: The rail monitor reads the new voltage within tolerance, and the clock change proceeds. -/
  | dvfsVoltageReached (d : Fin 4)
  /-- R585: A regulator does not reach the new voltage within 1 ms; the die stays at its present clock and the event is logged as sensor crit. -/
  | regulatorTimeout (d : Fin 4)
  /-- R585: PM_ALERT_N goes low, and sensor warn is logged for every rail on the PMBus. -/
  | pmAlert
  /-- R455: A data flit is received and checked for pair faults and FEC; in-order flits deliver their message units, and faults send NAK. -/
  | dataFlit (l : Fin 32) (f : Flit)
  /-- R451: After every 168 flits, the lane transmitter sends one bubble burst. -/
  | bubbleSend (l : Fin 32)
  /-- R452: A received bubble is deleted in the elastic buffer or discarded after it, or is a pair fault in second position. -/
  | bubble (l : Fin 32) (nibble : BitVec 4) (afterFirst remoteAhead : Bool)
  /-- R458: A control flit's record is received: ACK, NAK, REPLAY_START, credit and train fields are applied when its CRC is good. -/
  | controlRecord (l : Fin 32) (good : Bool) (r : ControlRec)
  /-- R455: 1 µs has passed with a flit unacknowledged, and the receiver sends a cumulative ACK. -/
  | ackTimer (l : Fin 32)
  /-- R456: No ACK has advanced within replay_timeout, and the transmitter replays from its oldest unacknowledged flit. -/
  | replayTimeout (l : Fin 32)
  /-- R466: A WRITE message arrives and is performed through the bound instance, then answered with WACK. -/
  | fabWrite (p : Fin 8) (m : Msg)
  /-- R466: A READ message arrives and is answered with RDATA. -/
  | fabRead (p : Fin 8) (m : Msg)
  /-- R466: A LADD message arrives, is performed at the word's home, and is answered with ATM_RSP. -/
  | fabLadd (p : Fin 8) (m : Msg)
  /-- R466: An FADD message arrives, is performed at the word's home, and is answered with ATM_RSP. -/
  | fabFadd (p : Fin 8) (m : Msg)
  /-- R466: A LADDT message arrives, and its 256 adds are performed at the home. -/
  | fabLaddt (p : Fin 8) (m : Msg)
  /-- R466: A SEND message is delivered into the destination mailbox and answered with SACK. -/
  | fabSend (p : Fin 8) (m : Msg)
  /-- R468: A barrier arrival is recorded in its slot; when n arrivals are recorded, releases are sent to every recorded core. -/
  | barArrive (p : Fin 8) (m : Msg)
  /-- R470: A QUERY arrives, is copied to the multicast ports and delivered locally, and a merge context opens. -/
  | query (p : Fin 8) (m : Msg)
  /-- R474: A PROBE message is looped back by the peer and counted. -/
  | probe (p : Fin 8) (m : Msg)
  /-- R466: A WACK response reaches the source and ends its WRITE request. -/
  | wack (p : Fin 8) (m : Msg)
  /-- R466: An RDATA response returns the bytes read, raising POISON at the core if poisoned. -/
  | rdata (p : Fin 8) (m : Msg)
  /-- R466: An ATM_RSP response returns the old value and the inf indication. -/
  | atmRsp (p : Fin 8) (m : Msg)
  /-- R466: A SACK response ends an outstanding remote SEND. -/
  | sack (p : Fin 8) (m : Msg)
  /-- R483: A REFUSE response ends a request with its refusal code, raising FABRIC, or resending after EPOCH. -/
  | refuse (p : Fin 8) (m : Msg)
  /-- R472: An ANSWER from a branch is merged into its merge context, which closes when every branch has answered. -/
  | answer (p : Fin 8) (m : Msg)
  /-- R472: shard_wait passes since a merge context opened; the context closes and sends or writes its result. -/
  | mergeTimeout (src : BitVec 16) (req : Word)
  /-- R467: A remote request has no response after resp_timeout; it is abandoned and its core raises FABRIC. -/
  | fabRespTimeout (req : Word)
  /-- R466: 64 CK_MESH cycles after the last store joined, the NI closes and sends a coalesced WRITE. -/
  | writeCoalesceTimeout (c : CoreId)
  /-- R473: Lane training completes with matching mode and epoch, and the lane comes up. -/
  | laneUp (l : Fin 32)
  /-- R473: A lane goes down; its unacknowledged messages are replayed on another up lane of the port. -/
  | laneDown (l : Fin 32)
  /-- R473: A lane that came back up has carried control flits for 1 ms without a fault, and it rejoins lane selection. -/
  | laneRejoin (l : Fin 32)
  /-- R531: A host write of target in FAB_PORTp_CFG is taken as UNIT_SET or UNIT_RECONCILE for that port. -/
  | portTargetWrite (p : Fin 8) (v : Word)
  /-- R531: While a port is in SHADOW, Nucleus sends a PROBE every 10 µs. -/
  | probeSend (p : Fin 8)
  /-- R492: The first beat at or after the head CAPTURE's release, aligned to SP_FRM if set, opens its window. -/
  | windowOpen (frm : Bool)
  /-- R493: The capture window closes at its deadline, when the data region is full, or after clock loss. -/
  | windowClose
  /-- R496: After every data write is performed, the capture header is written and the CAPTURE completes. -/
  | captureHeaderWrite
  /-- R495: A CAPTURE's deadline passes before its window opens; it is completed with SHED and writes nothing. -/
  | captureShed (d : Nat)
  /-- R515: SP_CLK has had no edge for 1 µs; clk_lost sets and an open window closes. -/
  | spClkLoss
  /-- R501: A write of flush in SP_CTRL discards the Q-block contents at once and leaves it open. -/
  | spFlush
  /-- R502: The duplicated sample-port Q-block pointers disagree; the queue is flushed and the reset is reported. -/
  | qblockPtrMismatch
  /-- R513: A write to SP_QB_CFG changes the watermarks at once and re-evaluates open or closed. -/
  | spQbCfgWrite (v : Word)
  /-- R520: Returns the unit state word of a unit. -/
  | unitQuery (path : CmdPath) (q : NucReq)
  /-- R529: Moves a unit to SHADOW, QUARANTINE or OUT after epoch and state checks, closing its tbl bit, with or without force. -/
  | unitSet (path : CmdPath) (q : NucReq)
  /-- R529: The work in progress of a unit under a non-forced UNIT_SET ends, and the command returns. -/
  | unitSetDrainDone
  /-- R529: A non-forced UNIT_SET has waited 1 s for work to end and returns TIMEOUT with the unit fenced. -/
  | unitSetTimeout
  /-- R530: Aligns table, tbl bit and fence on a state, or runs the return-to-service check for IN_SERVICE. -/
  | unitReconcile (path : CmdPath) (q : NucReq)
  /-- R530: The return-to-service check ends; the unit becomes IN_SERVICE on a pass or QUARANTINE on a fail. -/
  | reconcileCheckDone (pass : Bool)
  /-- R521: The Nucleus command writes EPH_TOD_NEXT and arms the time-of-day load. -/
  | todLoad (path : CmdPath) (q : NucReq)
  /-- R537: The Nucleus command carries one SPDM request and returns its response. -/
  | attest (path : CmdPath) (q : NucReq)
  /-- R520: Returns the firmware version and the SHA-384 of the running image. -/
  | fwInfo (path : CmdPath) (q : NucReq)
  /-- R518: The MCTP control command sets the endpoint ID. -/
  | setEndpointId (eid : Byte)
  /-- R518: The MCTP control command returns the endpoint ID. -/
  | getEndpointId
  /-- R518: The MCTP control command returns the supported versions. -/
  | getMctpVersionSupport (msgType : Byte)
  /-- R518: The MCTP control command returns the supported message types. -/
  | getMessageTypeSupport
  /-- R518: A PLDM Base (type 0) command is answered over MCTP. -/
  | pldmBase (cmd : Byte)
  /-- R518: The PLDM Platform Monitoring and Control command returns a sensor reading. -/
  | getSensorReading (sensor : BitVec 16)
  /-- R537: The SPDM request returns the supported SPDM versions. -/
  | getVersion
  /-- R537: The SPDM request returns the responder's capabilities. -/
  | getCapabilities
  /-- R537: The SPDM request negotiates ECDSA P-384 and SHA-384. -/
  | negotiateAlgorithms (asym hash : Word)
  /-- R537: The SPDM request returns the certificate chain digests. -/
  | getDigests
  /-- R537: The SPDM request returns the slot 0 certificate chain. -/
  | getCertificate (slot : Byte) (off len : BitVec 16)
  /-- R537: The SPDM request is answered with a challenge response signed by the device key. -/
  | challenge (slot : Byte) (nonce : BitVec 256)
  /-- R537: The SPDM request returns the five measurements. -/
  | getMeasurements (op : Byte)
  /-- R525: A unit reports a fault; its fence closes in the same cycle and Nucleus sets it OUT and logs the fault. -/
  | unitFault (u : Fin 622) (cause : Byte)
  /-- R526: The fence and tbl bits of a unit disagree without a fault report; the unit stays fenced and the mismatch is recorded. -/
  | stateMismatch (u : Fin 622) (fence : Bool)
  /-- R526: Every 1 ms, Nucleus audits every unit's bits against the table and closes fences where needed. -/
  | nucleusAudit
  /-- R532: Every 1 ms, Nucleus samples the sensors, mirrors them, logs warn and crit events, and drives THERM_N. -/
  | sensorSample (s : Fin 32) (value : BitVec 16)
  /-- R535: The 100 µs suppression interval of a log ring ends, and suppressed entries are signalled together. -/
  | logIrqTimer (i : InstId)
  /-- R533: A write of enable in ERR_LOGi_CFG enables the ring with seq reset to 1, or fails with cfg_invalid. -/
  | errLogEnable (i : InstId) (v : Word)
  /-- R543: The Nucleus watchdog expires after 100 ms without service; Nucleus restarts, or FATAL is logged on a second expiry within 10 s. -/
  | nucleusWatchdog
  /-- R542: Nucleus finishes restarting, audits every unit and serves commands again. -/
  | nucleusRestart
  /-- R549: RST_N goes low and initialises every block; lasers and heaters switch off within 1 ms and bring-up starts when RST_N rises. -/
  | coldReset
  /-- R549: PERST_N low, a PCIe hot reset or link down initialises every block except EPH with EVT and HALO with TIDE. -/
  | conventionalReset (cause : ConvCause)
  /-- R549: A write of warm with key 0xA5 to HUB_RESET starts a warm reset that keeps the PCIe link. -/
  | warmReset (v : Word)
  /-- R558: A PCIe configuration request is answered with CRS before stage 0 ends, and normally afterwards. -/
  | configRequest (fn : InstId) (write : Option FnConfig)
  /-- R555: Fuse load, SRAM test and PLL start end; link training starts and the image is read. -/
  | stage0Done
  /-- R554: Slot verification ends; the board configuration is applied and the stage 3 branches start, or recovery is entered if both slots fail. -/
  | imageVerified (a b : SlotCheck)
  /-- R557: LP5X training ends, with fallback or channels OUT as needed, and zeroing starts. -/
  | lp5xTrainingDone (fail8533 fail6400 : BitVec 4)
  /-- R555: Zeroing of the usable LP5X capacity ends. -/
  | lp5xZeroingDone
  /-- R555: The column map, self-tests and zeroing of the compute dies end. -/
  | computeBringupDone (failed : List (Fin 622))
  /-- R556: After stage 3, the unit state table is built and audited, and ready sets. -/
  | unitsBuilt (ms : Nat)
  /-- R564: Stage 3 has not ended 2 s after T0, not counting temperature waits, and the device enters recovery. -/
  | stage3Timeout
  /-- R562: The laser junction has not fallen to 90 °C within 10 s; calibration fails for every port and the HTU. -/
  | calibrationTempTimeout
  /-- R582: Halo has not warmed to −20 °C within 60 s; calibration fails. -/
  | haloWarmupTimeout
  /-- R567: HUB_FLASH_CTRL go with op read reads 4 KiB of flash into HUB_FLASH_BUF. -/
  | flashRead
  /-- R567: HUB_FLASH_CTRL go with op program writes 4 KiB from HUB_FLASH_BUF to flash. -/
  | flashProgram
  /-- R567: HUB_FLASH_CTRL go with op erase erases a 64 KiB flash sector. -/
  | flashErase
  /-- R567: A flash operation ends; busy clears, and error sets on failure. -/
  | flashOpDone (ok : Bool)
  /-- R586: HREF_IN is missing for 10 µs while RST_N is high; the hub switches to its internal oscillator, stops the data path and logs FATAL. -/
  | hrefLoss
  /-- R489: One SP_CLK beat delivers 2k bits from the enabled lanes, is stamped with its RTS, and is taken into the open window's Q-block word, discarded outside any window, or lost on overflow with SP_LOSS_N and SP_HOLD_N updated. -/
  | sampleBeat (rise fall : BitVec 16) (frm : Bool)
  /-- R496: The capture engine reads a stored 64-byte word from the sample-port Q-block and writes it, translated, to the data region, lowering the fill and reopening the Q-block when fill reaches lw. -/
  | captureWordDrain
  /-- R469: A message whose dst is not this node is routed: hops is decremented and it leaves by the primary or alternate port, or is refused with UNREACH. -/
  | messageRoute (p : Fin 8) (m : Msg)
  /-- R151: An engine reset by escalation comes back within 1 ms and resumes serving other instances' work. -/
  | engineResetDone (e : Engine)
  /-- R443: After a laser over-temperature shutdown, the laser junction falls to 90 °C or less and calibration restarts from step 1. -/
  | laserCooledRecalibration (temp : Int)
  /-- R562: The temperature wait before calibration step 1 ends when the laser junction reaches 90 °C or less, or when the Halo junction has warmed to −20 °C, and step 1 proceeds. -/
  | calibrationTempReady (temp : Int)
  /-- R555: RST_N rises, marking T0, and bring-up stage 0 begins. -/
  | rstNRelease
  /-- R558: PERST_N rises after stage 0 has ended, and the PCIe endpoint starts link training. -/
  | perstNRelease
  /-- R579: A tester drives TCK, TMS and TDI to perform a boundary-scan operation (BYPASS, IDCODE, SAMPLE/PRELOAD, EXTEST, HIGHZ or CLAMP) through the IEEE 1149.1 TAP. -/
  | jtagInstruction (j : JtagOp)
  deriving DecidableEq, Repr

end Sys2Proof
end

