-- ==== Sys2Proof/Decode.lean ====
section
/-! DEFINITION. What a table word spells, and the 64-bit words of the core instructions (R189 to R206). -/

namespace Sys2Proof

/-- The command that a table word spells: no row of spec/opcode_table.json gives bits, so none. -/
def decodeTableWord (_nbits _w : Nat) : Option Instr := none

/-! ### Formats (R189, R192) -/

/-- The common fields and bits 48:0 of an instruction word (R189). -/
def coreWord (fam : BitVec 4) (fn : BitVec 6) (g : Guard) (rest : BitVec 49) : BitVec 64 :=
  (fam ++ (fn ++ (BitVec.ofBool g.en ++ (BitVec.ofBool g.neg ++ (g.p ++ rest))))).cast (by rfl)

/-- The guard of a word. -/
def guardOf (w : BitVec 64) : Guard := { en := w.getLsbD 53, neg := w.getLsbD 52, p := w.extractLsb' 49 3 }

/-- Bits 48:0 of the R format. -/
def bitsR (w : RFmt) : BitVec 49 := w.d ++ (w.a ++ (w.b ++ (w.c ++ w.x)))
/-- Bits 48:0 of the I format. -/
def bitsI (w : IFmt) : BitVec 49 := w.d ++ (w.a ++ (w.x ++ w.imm))
/-- Bits 48:0 of the B format. -/
def bitsB (w : BFmt) : BitVec 49 := w.d ++ (w.a ++ (w.rsv ++ w.off))
/-- Bits 48:0 of the M format. -/
def bitsM (w : MFmt) : BitVec 49 := w.t ++ (w.a ++ (w.n ++ (w.sp ++ (w.x ++ w.off))))
/-- Bits 48:0 of the T format. -/
def bitsT (w : TFmt) : BitVec 49 := w.acc ++ (w.a ++ (w.b ++ (w.c ++ (w.e ++ w.x))))

/-- Read bits 48:0 in the R format. -/
def readR (g : Guard) (r : BitVec 49) : RFmt :=
  { g := g, d := r.extractLsb' 44 5, a := r.extractLsb' 39 5, b := r.extractLsb' 34 5, c := r.extractLsb' 29 5
    x := r.extractLsb' 0 29 }
/-- Read bits 48:0 in the I format. -/
def readI (g : Guard) (r : BitVec 49) : IFmt :=
  { g := g, d := r.extractLsb' 44 5, a := r.extractLsb' 39 5, x := r.extractLsb' 32 7, imm := r.extractLsb' 0 32 }
/-- Read bits 48:0 in the B format. -/
def readB (g : Guard) (r : BitVec 49) : BFmt :=
  { g := g, d := r.extractLsb' 44 5, a := r.extractLsb' 39 5, rsv := r.extractLsb' 16 23, off := r.extractLsb' 0 16 }
/-- Read bits 48:0 in the M format. -/
def readM (g : Guard) (r : BitVec 49) : MFmt :=
  { g := g, t := r.extractLsb' 44 5, a := r.extractLsb' 39 5, n := r.extractLsb' 34 5, sp := r.extractLsb' 32 2
    x := r.extractLsb' 24 8, off := r.extractLsb' 0 24 }
/-- Read bits 48:0 in the T format. -/
def readT (g : Guard) (r : BitVec 49) : TFmt :=
  { g := g, acc := r.extractLsb' 43 6, a := r.extractLsb' 38 5, b := r.extractLsb' 33 5, c := r.extractLsb' 28 5
    e := r.extractLsb' 23 5, x := r.extractLsb' 0 23 }

/-! ### Functions (R193 to R206) -/

/-- The instruction of a core that a family and function name, from its guard and bits 48:0; none where the function is
not listed for its family, or the family is 0xF (R191, R193). What it meets in memory is no part of a word. -/
def coreOp (c : CoreId) (g : Guard) (r : BitVec 49) (fam fn : Nat) : Option Instr :=
  match fam, fn with
  | 0, 0 => some (.add c (readR g r))
  | 0, 1 => some (.sub c (readR g r))
  | 0, 2 => some (.and c (readR g r))
  | 0, 3 => some (.or c (readR g r))
  | 0, 4 => some (.xor c (readR g r))
  | 0, 5 => some (.shl c (readR g r))
  | 0, 6 => some (.shr c (readR g r))
  | 0, 7 => some (.sra c (readR g r))
  | 0, 8 => some (.mul c (readR g r))
  | 0, 9 => some (.mulh c (readR g r))
  | 0, 10 => some (.mulhu c (readR g r))
  | 0, 11 => some (.min c (readR g r))
  | 0, 12 => some (.max c (readR g r))
  | 0, 13 => some (.minu c (readR g r))
  | 0, 14 => some (.maxu c (readR g r))
  | 0, 15 => some (.sel c (readR g r))
  | 0, 16 => some (.cmp c (readR g r))
  | 0, 17 => some (.plog c (readR g r))
  | 0, 18 => some (.pmov c (readR g r))
  | 0, 19 => some (.pset c (readR g r))
  | 0, 20 => some (.rdf c (readR g r))
  | 0, 32 => some (.addi c (readI g r))
  | 0, 33 => some (.andi c (readI g r))
  | 0, 34 => some (.ori c (readI g r))
  | 0, 35 => some (.xori c (readI g r))
  | 0, 36 => some (.shli c (readI g r))
  | 0, 37 => some (.shri c (readI g r))
  | 0, 38 => some (.srai c (readI g r))
  | 0, 39 => some (.movi c (readI g r))
  | 0, 40 => some (.movhi c (readI g r))
  | 0, 41 => some (.cmpi c (readI g r))
  | 1, 0 => some (.b c (readB g r))
  | 1, 1 => some (.bl c (readB g r))
  | 1, 2 => some (.br c (readB g r))
  | 1, 3 => some (.blr c (readB g r))
  | 1, 4 => some (.loop c (readB g r))
  | 2, 0 => some (.ld c (readM g r) none)
  | 2, 1 => some (.lds c (readM g r) none)
  | 2, 2 => some (.st c (readM g r))
  | 2, 3 => some (.vld c (readM g r) none)
  | 2, 4 => some (.vst c (readM g r))
  | 3, 0 => some (.vadd c (readR g r))
  | 3, 1 => some (.vsub c (readR g r))
  | 3, 2 => some (.vmul c (readR g r))
  | 3, 3 => some (.vfma c (readR g r))
  | 3, 4 => some (.vmin c (readR g r))
  | 3, 5 => some (.vmax c (readR g r))
  | 3, 6 => some (.vand c (readR g r))
  | 3, 7 => some (.vor c (readR g r))
  | 3, 8 => some (.vxor c (readR g r))
  | 3, 9 => some (.vshl c (readR g r))
  | 3, 10 => some (.vshr c (readR g r))
  | 3, 11 => some (.vsra c (readR g r))
  | 3, 12 => some (.vcmp c (readR g r))
  | 3, 13 => some (.vsel c (readR g r))
  | 3, 14 => some (.vcvt c (readR g r))
  | 3, 15 => some (.vbc c (readR g r))
  | 3, 16 => some (.vext c (readR g r))
  | 3, 17 => some (.vins c (readR g r))
  | 3, 18 => some (.vperm c (readR g r))
  | 3, 19 => some (.vrsum c (readR g r))
  | 4, 0 => some (.mma c (readT g r) none)
  | 4, 1 => some (.mmas c ⟨readT g r, none⟩)
  | 4, 2 => some (.mcfg c (readT g r))
  | 5, 0 => some (.isect c (readR g r))
  | 6, 0 => some (.hacc c (readR g r))
  | 6, 1 => some (.hflush c (readR g r))
  | 6, 2 => some (.hclr c (readR g r))
  | 7, 0 => some (.drain c (readT g r))
  | 7, 1 => some (.redmax c (readT g r))
  | 7, 2 => some (.redmin c (readT g r))
  | 8, 0 => some (.cmpr c (readT g r))
  | 9, 0 => some (.send c (readR g r))
  | 9, 1 => some (.recv c ⟨readR g r, none⟩)
  | 9, 2 => some (.recvnb c ⟨readR g r, none⟩)
  | 10, 0 => some (.syncNop c (readR g r))
  | 10, 1 => some (.syncFence c (readR g r))
  | 10, 2 => some (.bar c (readR g r))
  | 10, 3 => some (.exit c (readR g r))
  | 11, 0 => some (.gett c (readR g r))
  | 11, 1 => some (.waitt c (readR g r))
  | 11, 2 => some (.tchk c (readR g r))
  | 12, 0 => some (.lacq c (readR g r))
  | 12, 1 => some (.lrel c (readR g r))
  | 13, 0 => some (.ladd c (readM g r))
  | 13, 1 => some (.fadd c (readM g r))
  | 13, 2 => some (.laddt c (readM g r))
  | 14, 0 => some (.ctxsv c (readM g r))
  | 14, 1 => some (.ctxld c (readM g r))
  | _, _ => none

/-- The instruction that a word is at a core; a word whose family and function are not listed raises ILLEGAL
(R191). -/
def coreDecode (c : CoreId) (w : BitVec 64) : Instr :=
  (coreOp c (guardOf w) (w.extractLsb' 0 49) (w.extractLsb' 60 4).toNat (w.extractLsb' 54 6).toNat).getD
    (.coreException c .illegal false 0)

/-- The word of a core instruction; none for a command that is no instruction, or that meets an error. -/
def coreEncode (i : Instr) : Option (CoreId × BitVec 64) :=
  match i with
  | .add c w => some (c, coreWord 0 0 w.g (bitsR w))
  | .sub c w => some (c, coreWord 0 1 w.g (bitsR w))
  | .and c w => some (c, coreWord 0 2 w.g (bitsR w))
  | .or c w => some (c, coreWord 0 3 w.g (bitsR w))
  | .xor c w => some (c, coreWord 0 4 w.g (bitsR w))
  | .shl c w => some (c, coreWord 0 5 w.g (bitsR w))
  | .shr c w => some (c, coreWord 0 6 w.g (bitsR w))
  | .sra c w => some (c, coreWord 0 7 w.g (bitsR w))
  | .mul c w => some (c, coreWord 0 8 w.g (bitsR w))
  | .mulh c w => some (c, coreWord 0 9 w.g (bitsR w))
  | .mulhu c w => some (c, coreWord 0 10 w.g (bitsR w))
  | .min c w => some (c, coreWord 0 11 w.g (bitsR w))
  | .max c w => some (c, coreWord 0 12 w.g (bitsR w))
  | .minu c w => some (c, coreWord 0 13 w.g (bitsR w))
  | .maxu c w => some (c, coreWord 0 14 w.g (bitsR w))
  | .sel c w => some (c, coreWord 0 15 w.g (bitsR w))
  | .cmp c w => some (c, coreWord 0 16 w.g (bitsR w))
  | .plog c w => some (c, coreWord 0 17 w.g (bitsR w))
  | .pmov c w => some (c, coreWord 0 18 w.g (bitsR w))
  | .pset c w => some (c, coreWord 0 19 w.g (bitsR w))
  | .rdf c w => some (c, coreWord 0 20 w.g (bitsR w))
  | .addi c w => some (c, coreWord 0 32 w.g (bitsI w))
  | .andi c w => some (c, coreWord 0 33 w.g (bitsI w))
  | .ori c w => some (c, coreWord 0 34 w.g (bitsI w))
  | .xori c w => some (c, coreWord 0 35 w.g (bitsI w))
  | .shli c w => some (c, coreWord 0 36 w.g (bitsI w))
  | .shri c w => some (c, coreWord 0 37 w.g (bitsI w))
  | .srai c w => some (c, coreWord 0 38 w.g (bitsI w))
  | .movi c w => some (c, coreWord 0 39 w.g (bitsI w))
  | .movhi c w => some (c, coreWord 0 40 w.g (bitsI w))
  | .cmpi c w => some (c, coreWord 0 41 w.g (bitsI w))
  | .b c w => some (c, coreWord 1 0 w.g (bitsB w))
  | .bl c w => some (c, coreWord 1 1 w.g (bitsB w))
  | .br c w => some (c, coreWord 1 2 w.g (bitsB w))
  | .blr c w => some (c, coreWord 1 3 w.g (bitsB w))
  | .loop c w => some (c, coreWord 1 4 w.g (bitsB w))
  | .ld c w none => some (c, coreWord 2 0 w.g (bitsM w))
  | .lds c w none => some (c, coreWord 2 1 w.g (bitsM w))
  | .st c w => some (c, coreWord 2 2 w.g (bitsM w))
  | .vld c w none => some (c, coreWord 2 3 w.g (bitsM w))
  | .vst c w => some (c, coreWord 2 4 w.g (bitsM w))
  | .vadd c w => some (c, coreWord 3 0 w.g (bitsR w))
  | .vsub c w => some (c, coreWord 3 1 w.g (bitsR w))
  | .vmul c w => some (c, coreWord 3 2 w.g (bitsR w))
  | .vfma c w => some (c, coreWord 3 3 w.g (bitsR w))
  | .vmin c w => some (c, coreWord 3 4 w.g (bitsR w))
  | .vmax c w => some (c, coreWord 3 5 w.g (bitsR w))
  | .vand c w => some (c, coreWord 3 6 w.g (bitsR w))
  | .vor c w => some (c, coreWord 3 7 w.g (bitsR w))
  | .vxor c w => some (c, coreWord 3 8 w.g (bitsR w))
  | .vshl c w => some (c, coreWord 3 9 w.g (bitsR w))
  | .vshr c w => some (c, coreWord 3 10 w.g (bitsR w))
  | .vsra c w => some (c, coreWord 3 11 w.g (bitsR w))
  | .vcmp c w => some (c, coreWord 3 12 w.g (bitsR w))
  | .vsel c w => some (c, coreWord 3 13 w.g (bitsR w))
  | .vcvt c w => some (c, coreWord 3 14 w.g (bitsR w))
  | .vbc c w => some (c, coreWord 3 15 w.g (bitsR w))
  | .vext c w => some (c, coreWord 3 16 w.g (bitsR w))
  | .vins c w => some (c, coreWord 3 17 w.g (bitsR w))
  | .vperm c w => some (c, coreWord 3 18 w.g (bitsR w))
  | .vrsum c w => some (c, coreWord 3 19 w.g (bitsR w))
  | .mma c w none => some (c, coreWord 4 0 w.g (bitsT w))
  | .mmas c ⟨w, none⟩ => some (c, coreWord 4 1 w.g (bitsT w))
  | .mcfg c w => some (c, coreWord 4 2 w.g (bitsT w))
  | .isect c w => some (c, coreWord 5 0 w.g (bitsR w))
  | .hacc c w => some (c, coreWord 6 0 w.g (bitsR w))
  | .hflush c w => some (c, coreWord 6 1 w.g (bitsR w))
  | .hclr c w => some (c, coreWord 6 2 w.g (bitsR w))
  | .drain c w => some (c, coreWord 7 0 w.g (bitsT w))
  | .redmax c w => some (c, coreWord 7 1 w.g (bitsT w))
  | .redmin c w => some (c, coreWord 7 2 w.g (bitsT w))
  | .cmpr c w => some (c, coreWord 8 0 w.g (bitsT w))
  | .send c w => some (c, coreWord 9 0 w.g (bitsR w))
  | .recv c ⟨w, none⟩ => some (c, coreWord 9 1 w.g (bitsR w))
  | .recvnb c ⟨w, none⟩ => some (c, coreWord 9 2 w.g (bitsR w))
  | .syncNop c w => some (c, coreWord 10 0 w.g (bitsR w))
  | .syncFence c w => some (c, coreWord 10 1 w.g (bitsR w))
  | .bar c w => some (c, coreWord 10 2 w.g (bitsR w))
  | .exit c w => some (c, coreWord 10 3 w.g (bitsR w))
  | .gett c w => some (c, coreWord 11 0 w.g (bitsR w))
  | .waitt c w => some (c, coreWord 11 1 w.g (bitsR w))
  | .tchk c w => some (c, coreWord 11 2 w.g (bitsR w))
  | .lacq c w => some (c, coreWord 12 0 w.g (bitsR w))
  | .lrel c w => some (c, coreWord 12 1 w.g (bitsR w))
  | .ladd c w => some (c, coreWord 13 0 w.g (bitsM w))
  | .fadd c w => some (c, coreWord 13 1 w.g (bitsM w))
  | .laddt c w => some (c, coreWord 13 2 w.g (bitsM w))
  | .ctxsv c w => some (c, coreWord 14 0 w.g (bitsM w))
  | .ctxld c w => some (c, coreWord 14 1 w.g (bitsM w))
  | _ => none

end Sys2Proof
end

