-- ==== Sys2Proof/Config.lean ====
section
/-! DEFINITION. What an implementation fixes and the spec leaves open, as constants without a body: no
proof can see their values (log entries 5, 6, 7, 8, 28). -/

namespace Sys2Proof.Config

/-- A value the spec calls undefined or does not state (R7), one for each reading of the model's counter
of free values, at the width asked for (log entry 5). -/
opaque freeValue : Nat → (w : Nat) → BitVec w

/-- The set, 0 to 255, that a hash of a key chooses in the HACC (R317 gives no hash; log entry 6). -/
opaque haccSet : Word → Fin 256

/-- The error of the n-th analog HTU output component (R431: it changes from run to run; log entry 7). -/
opaque htuError : Nat → Int

/-- What the meter of SP_CLK shows in kHz at a tick, while the clock is present (SP_CLK_MEAS; log entry 28). -/
opaque spClkKhz : Nat → BitVec 20

/-- Device secrets and built-in texts that the spec names and does not give (R520, R537; log entry 8):
firmware version and image digest, certificate chain, measurements, signatures. -/
opaque fwVersion : Word
opaque fwDigest : BitVec 384
opaque certChain : List Byte
opaque measurement : Fin 5 → BitVec 384
opaque signature : List Byte → BitVec 768
opaque digest384 : List Byte → BitVec 384

/-- The answers whose layouts are in DMTF texts and not in the spec (R518, R537; log entry 8). -/
opaque standardAnswer : String → List Byte → List Byte

end Sys2Proof.Config
end

