-- ==== Sys2Proof/Machine/State.lean ====
section
/-! DEFINITION. The state of the block, as plain data: every register, buffer, queue, mode and pin the
spec names, and the queue of commands that wait. Reset values: the Reset columns and "From reset" rules
of the chapters cited; a value the spec does not give is named in log entry 2. -/

namespace Sys2Proof.Machine

/-- A sparse table: number and entry; a number not listed has the default of its use. -/
abbrev Tab (α : Type) := List (Nat × α)

/-- A byte memory in canonical form: rising addresses, no entry equal to what an unlisted one reads as. -/
abbrev Memory := List Host.Cell

/-! ### Radio time (02_radio_time.md) -/

/-- Ephemeris states (R39). -/
inductive EphState where
  | freeRun
  | holdover
  | locked
  deriving DecidableEq, Repr

/-- The EPH block (R64) and the judging of its references (R35, R36, R39, R40). -/
structure Eph where
  now : Rts := 0
  /-- CK_RT ticks counted since reset, which no step changes (R36: as CK_RT counts them). -/
  ticks : Nat := 0
  cfgLock : Bool := false
  stepAllow : Bool := false
  timeEpoch : BitVec 8 := 0
  todPending : Bool := false
  todValid : Bool := false
  ppsQual : Bool := false
  trefQual : Bool := false
  pllLock : Bool := false
  st : EphState := .freeRun
  ppsComp : BitVec 16 := 0
  trefSel : BitVec 3 := 0
  ppsEdge : Bool := false
  todNext : Dword := 0
  holdLimit : Word := 600
  badCount : BitVec 8 := 0
  phaseErr : BitVec 16 := 0
  stepCnt : Word := 0
  stepLast : Word := 0
  intStatus : BitVec 7 := 0
  intEn : BitVec 7 := 0
  /-- `ticks` at the previous second boundary that a PPS_IN edge marked, less pps_comp; none before the first (R36). -/
  lastEdge : Option Int := none
  /-- Consecutive edges within two ticks of their expected boundary (R36). -/
  goodRun : Nat := 0
  /-- Linear count, modulo one second, of the second boundaries set by the last load (R36). -/
  grid : Nat := 0
  /-- A phase error under R40 that is being removed by slewing. -/
  slewing : Option Int := none
  /-- A phase error of up to 2 ticks that is being removed while LOCKED (R36). -/
  trim : Int := 0
  /-- A step was refused, so the error is left in place (R36, R40). -/
  stepRefused : Bool := false
  /-- A requalification waits for its measurement at a qualified edge (R36, R40). -/
  measure : Bool := false
  /-- The last frequency estimate of TREF_IN (R39). -/
  trefEst : Option Int := none
  /-- Ticks counted in HOLDOVER (R39). -/
  holdTicks : Nat := 0
  deriving DecidableEq, Repr

/-- Kinds of EVT action (R89). -/
inductive EvtKind where
  | high
  | low
  | toggle
  | pulse (width : BitVec 16)
  /-- The falling edge of a performed pulse (R49). -/
  | fall
  deriving DecidableEq, Repr

/-- One pending action of a pin: its RTS, the EVENT it belongs to, and its instance. -/
structure EvtAction where
  rts : Rts
  kind : EvtKind
  item : Nat
  inst : InstId
  /-- For a falling edge: the RTS at which the rising edge was performed, and whether it was late. -/
  rose : Rts := 0
  late : Bool := false
  /-- Held on a full queue, it has been judged at the tick at which its RTS passed (R51). -/
  judged : Bool := false
  deriving DecidableEq, Repr

/-- An EVT pin (R49 to R51, R64). -/
structure EvtPin where
  latePolicy : Bool := true
  minState : BitVec 2 := 1
  idleLevel : Bool := false
  enable : Bool := false
  level : Bool := false
  /-- Ordered by RTS, equal RTS by arrival (R49). -/
  queue : List EvtAction := []
  /-- EVENTs held because the queue was full, oldest first (R51). -/
  held : List EvtAction := []
  deriving DecidableEq, Repr

/-- A timestamp input (R53, R64). -/
structure EvtIn where
  irqEn : Bool := false
  edge : BitVec 2 := 0
  fifo : List Rts := []
  overflow : Bool := false
  deriving DecidableEq, Repr

/-! ### Rings (03_rings.md) -/

/-- Ring states (R75, R81). -/
inductive RingState where
  | disabled
  | active
  | draining
  | error
  deriving DecidableEq, Repr

/-- A submission ring (R74 to R78, R113). -/
structure Sq where
  base : Dword := 0
  shadow : Dword := 0
  cq : Fin 16 := 0
  cls : BitVec 2 := 0
  log2 : BitVec 5 := 6
  st : RingState := .disabled
  epoch : BitVec 16 := 0
  head : Nat := 0
  tail : Nat := 0
  /-- Held by admission (R141, R114 busy). -/
  busy : Bool := false
  /-- Descriptors accepted since the head shadow was last written: an update is due while this is not 0 (R78). -/
  sinceShadow : Nat := 0
  deriving DecidableEq, Repr

/-- A completion record that is due (R91): everything but phase, epoch and the SQ head, which are taken
when it is written. -/
structure Rec where
  tag : Word
  status : BitVec 8
  sq : Fin 16
  cond : BitVec 16
  doneRts : Rts
  result : Dword
  opcode : Byte
  timeEpoch : BitVec 8
  irqNow : Bool
  /-- The in-flight descriptor whose slot the record frees; none for a ring-level record (R107). -/
  item : Option Nat
  /-- Head at T0, for an ABORT_RESET record (R130). -/
  sqHead : Option Nat
  deriving DecidableEq, Repr

/-- A completion ring (R80 to R84, R99, R113). -/
structure Cq where
  base : Dword := 0
  vector : Fin 32 := 0
  irqEn : Bool := false
  log2 : BitVec 5 := 6
  st : RingState := .disabled
  epoch : BitVec 16 := 0
  head : Nat := 0
  /-- Slot the device writes next. -/
  tail : Nat := 0
  /-- Records written and not yet released. -/
  unreleased : Nat := 0
  phase : Bool := true
  modCount : BitVec 8 := 1
  modTime : BitVec 10 := 0
  /-- Records written and not yet covered by a message (R99), and `ticks` when the oldest was written. -/
  unsignalled : Nat := 0
  oldest : Nat := 0
  /-- One of them is of a descriptor that carried irq_now. -/
  urgent : Bool := false
  /-- ABORT_RESET records held for the next epoch, in acceptance order (R81, R130). -/
  aborts : List Rec := []
  /-- Records held because the ring was full, in ERROR or disabled, in order ready (R83, R108, R111). -/
  held : List Rec := []
  /-- Records that are due and have not been attempted, in order ready (R94). -/
  due : List Rec := []
  deriving DecidableEq, Repr

/-- INST_RING_ERR (R113): the two last-ring fields and the error bits 5 to 0. -/
structure RingErr where
  lastIsCq : Bool := false
  lastRing : Fin 16 := 0
  bits : BitVec 6 := 0
  deriving DecidableEq, Repr

/-- What a descriptor's work has met (R92, R93). -/
structure Outcomes where
  engineFault : Bool := false
  fabricUnreach : Bool := false
  invalid : Bool := false
  xlateFault : Bool := false
  align : Bool := false
  coreFault : Bool := false
  shed : Bool := false
  shedEarly : Bool := false
  poison : Bool := false
  orphan : Bool := false
  degraded : Bool := false
  inx : Bool := false
  late : Bool := false
  /-- Any effect took place (the partial bit of R92). -/
  effect : Bool := false
  deriving DecidableEq, Repr

/-- A moment of the device: its RTS, CK_RT ticks since reset, whether Ephemeris was not LOCKED, and time_epoch: what a
record says of its done_rts (R91, R93), and a service time of it (R138). -/
structure Stamp where
  rts : Rts
  ticks : Nat
  unlocked : Bool
  epoch : BitVec 8
  deriving DecidableEq, Repr

/-- The stages of an accepted descriptor. -/
inductive Stage where
  /-- Accepted, its release, order flag, FENCE still holding it. -/
  | waiting
  | ready
  | running
  /-- Its record is due, held or in the making. -/
  | ended
  deriving DecidableEq, Repr

/-- An accepted descriptor, which holds an in-flight slot until its record is written (R76). Numbers rise
in acceptance order. -/
structure Item where
  id : Nat
  inst : InstId
  sq : Fin 16
  cq : Fin 16
  cls : BitVec 2
  raw : BitVec 512
  gen : BitVec 16
  stage : Stage := .waiting
  aged : Bool := false
  /-- `ticks` when it became ready and when it started, and its number in order of readiness (R56, R137). -/
  readyAt : Nat := 0
  readyNo : Nat := 0
  startAt : Nat := 0
  /-- Its release has come (R43, R57). -/
  released : Bool := false
  out : Outcomes := {}
  result : Dword := 0
  /-- Its last effect so far, where an earlier row than the one that ends it had one (R44, R91). -/
  last : Option Stamp := none
  /-- It started (R129). -/
  started : Bool := false
  /-- An instance reset waits for this item to drain (R129). -/
  draining : Bool := false
  /-- The head of its SQ at the T0 of the reset that took it over (R130). -/
  resetHead : Option Nat := none
  deriving DecidableEq, Repr

/-! ### Instances and translation (04_instances.md) -/

/-- Instance states (R129, R131, R153). -/
inductive InstState where
  | ready
  | draining
  | zeroing
  | off
  deriving DecidableEq, Repr

/-- Engine types (R135). -/
inductive EngType where
  | core
  | dma
  | walk
  | htu
  deriving DecidableEq, Repr

/-- One estimator: rate and service time with 8 fraction bits, completions in the window, completions
since READY (R138, R139). -/
structure Estimator where
  rate : BitVec 40 := 0
  svc : BitVec 32 := 0
  inWindow : Nat := 0
  /-- The type had ready or running descriptors in the window (R138). -/
  worked : Bool := false
  sinceReady : Nat := 0
  deriving DecidableEq, Repr

/-- An instance (R113, R119, R129 to R143, R153). -/
structure Inst where
  gen : BitVec 16 := 0
  st : InstState
  resetDone : Bool := false
  doneIrqEn : Bool := false
  weight : BitVec 8 := 16
  ageUs : BitVec 16 := 1000
  wkMask : BitVec 16
  dmaMask : BitVec 16
  spEn : Bool
  fabEn : Bool
  htuEn : Bool
  evtMask : BitVec 8
  shedMode : BitVec 2 := 1
  lw : BitVec 10 := 512
  hw : BitVec 10 := 768
  pressureVec : Fin 32 := 0
  pressureIrqEn : Bool := false
  margin : BitVec 24 := 24576
  pressureSeen : Bool := false
  /-- Set by a SHED_EARLY for 1 ms, and `ticks` at the last one (R143). -/
  shedPressure : Bool := false
  shedAt : Nat := 0
  pressure : Bool := false
  /-- `ticks` of the last pressure entry in the PF log, if any (R143). -/
  pressureLog : Option Nat := none
  drainCount : BitVec 16 := 0
  est : Vector Estimator 4 := Vector.replicate 4 {}
  sq : Vector Sq 16 := Vector.replicate 16 {}
  cq : Vector Cq 16 := Vector.replicate 16 {}
  err : RingErr := {}
  /-- This reset ends in OFF (R131). -/
  removing : Bool := false
  /-- This reset is part of a PF FLR (R128), and its zeroing has ended. -/
  inPfFlr : Bool := false
  zeroed : Bool := false
  /-- `ticks` at T0 of the newest reset (R129, R145). -/
  resetAt : Nat := 0
  /-- DPA pages mapped with shared 0 at T0, as (start, bytes) (R132, R147). -/
  zeroList : List (Nat × Nat) := []
  deriving DecidableEq, Repr

/-- A partition (R115, R116, R153, R159). -/
structure Part where
  gx0 : BitVec 5 := 0
  gy0 : BitVec 5 := 0
  width : BitVec 5 := 0
  height : BitVec 5 := 0
  valid : Bool := false
  owner : InstId := 0
  imageValid : Bool := false
  /-- The LAUNCH whose program runs on the partition. -/
  item : Option Nat := none
  /-- The first core to fault in this program (R162). -/
  firstFault : Option CoreId := none
  /-- `ticks` at that fault. -/
  faultAt : Nat := 0
  fabricFirst : Bool := false
  deriving DecidableEq, Repr

/-- An MTU context (R121 to R126, R153). -/
structure Mtu where
  root : Dword := 0
  enable : Bool := false
  faultAddr : Dword := 0
  faultValid : Bool := false
  faultKind : BitVec 3 := 0
  faultWrite : Bool := false
  faultCount : BitVec 8 := 0
  faultSource : BitVec 10 := 0
  suppressed : Word := 0
  /-- Entries read and kept: the 2 MiB page number, and the leaf entry found (R125). -/
  cache : Tab Dword := []
  deriving DecidableEq, Repr

/-! ### Cores (05_cores.md, 06_isa.md, 08_array.md, 09_ledger.md, 10_sparse.md) -/

/-- Core states (R187 CORE_STATUS). -/
inductive CoreState where
  | idle
  | running
  | exited
  | faulted
  | stopped
  deriving DecidableEq, Repr

/-- What the front end waits on. -/
inductive Stall where
  | none
  | recv (w : RFmt)
  | bar (b : Fin 4)
  | waitt (target : Rts)
  | fence (mask : BitVec 5)
  | exit (word : Word)
  deriving DecidableEq, Repr

/-- A whole message in a mailbox: what sd bits 31:16 report of its sender, and its bytes (R166, R168). -/
structure MboxMsg where
  sender : BitVec 16
  data : List Byte
  deriving DecidableEq, Repr

/-- A reservation or grant at a mailbox: the sending core, or none for the hub's ingress (R165, R466). -/
structure Resv where
  src : Option CoreId
  words : Nat
  deriving DecidableEq, Repr

/-- A mailbox (R165, R166, R187, R500). -/
structure Mbox where
  hw : BitVec 7 := 48
  lw : BitVec 7 := 16
  closed : Bool := false
  msgs : List MboxMsg := []
  granted : List Resv := []
  waiting : List Resv := []
  ptrResets : BitVec 8 := 0
  deriving DecidableEq, Repr

/-- Where an outgoing message stands (R165). -/
inductive SendStep where
  | new
  | reserved
  | retry
  | granted
  deriving DecidableEq, Repr

/-- A message in the send buffer (R164). -/
structure OutMsg where
  dest : CoreId
  mbox : Fin 8
  data : List Byte
  gen : BitVec 16
  step : SendStep := .new
  deriving DecidableEq, Repr

/-- How the bytes of a remote answer become a result (R196, R466, R288). -/
inductive Answered where
  | none
  | scalar (signed : Bool)
  | vector
  /-- The old L128 value, in two registers. -/
  | pair
  /-- A context image: first slot, slots, in-array part (R287). -/
  | image (slot count : Nat) (arrays : Bool)
  deriving DecidableEq, Repr

/-- A decoupled instruction or NI request between issue and completion (R208, R213). -/
structure QEntry where
  /-- Scalar results, in order. -/
  sres : List (BitVec 5 × Dword) := []
  /-- Vector result. -/
  vres : Option (BitVec 5 × BitVec 512) := .none
  /-- Predicate result. -/
  pres : Option (BitVec 3 × Bool) := .none
  /-- The remote requests it has sent, in address order, each with the answer's bytes once it has come
  (R465). -/
  parts : List (Word × Option (List Byte)) := []
  answered : Answered := .none
  /-- The lock that a LACQ waits for (R403). -/
  lock : Option (Fin 4096) := .none
  /-- NI requests it takes (R208: 32 in all). -/
  reqs : Nat := 1
  /-- Its request was discarded for an old generation, so it never completes (R120). -/
  dead : Bool := false
  /-- Local ranges it writes, whether it writes the in-array ledgers, and whether it writes the HACC: what
  holds undefined values when it is abandoned (R217, R260) or raced (R218). -/
  wrote : List (Nat × Nat) := []
  /-- Ranges of IVAs it writes: undefined when it is raced (R218). -/
  gwrote : List (Nat × Nat) := []
  /-- It writes the window base and ping-pong state of its slots, as MCFG and CTXLD do. -/
  config : Bool := false
  /-- It is an MMA or MMAS (R266). -/
  mma : Bool := false
  /-- Updates of the HACC that an ISECT has still to make (R316, R336). -/
  adds : List (Word × L128) := []
  /-- Entries and seals of a CMPR that still wait to be posted (R326, R330). -/
  posts : Nat := 0
  /-- Data-memory ranges it reads (R211), and whether it takes entries out of the HACC (R336). -/
  read : List (Nat × Nat) := []
  clears : Bool := false
  arrays : Bool := false
  hash : Bool := false
  pc : BitVec 17 := 0
  deriving DecidableEq, Repr

/-- A coalescing WRITE of the NI, and the request it will be (R466). -/
structure Coalesce where
  node : BitVec 16
  addr : Nat
  data : List Byte
  req : Word
  deriving DecidableEq, Repr

/-- Slot state (R273). -/
structure SlotSt where
  wBase : Int := -48
  form : BitVec 2 := 0
  run : Word := 0
  ppActive : Bool := false
  fill : Bool := false
  ready : Bool := false
  deriving DecidableEq, Repr

/-- A HACC entry or spill record (R317, R318); the update count is kept beside each. -/
structure HaccEntry where
  key : Word
  value : L128
  count : Word
  deriving DecidableEq, Repr

/-- An entry that waits to be posted to a work bin (R326, R330): die, queue, and the 32 bytes. -/
structure Post where
  die : Fin 4
  queue : Fin 32
  entry : List Byte
  deriving DecidableEq, Repr

/-- A core. -/
structure Core where
  st : CoreState := .idle
  stall : Stall := .none
  pc : BitVec 17 := 0
  s : Vector Dword 32 := Vector.replicate 32 0
  p : Vector (BitVec 16) 8 := Vector.replicate 8 0
  v : Vector (BitVec 512) 32 := Vector.replicate 32 0
  flags : Word := 0
  /-- Every ledger flag the program has set (R162). -/
  everFlags : Word := 0
  /-- An ORPHANED lock was granted to the program (R408). -/
  orphan : Bool := false
  /-- The last memory write or message of the program on this core (R44). -/
  last : Option Stamp := none
  pendS : BitVec 32 := 0
  pendV : BitVec 32 := 0
  pendP : BitVec 8 := 0
  /-- Local memory (R155) and its poisoned lines. -/
  mem : Memory := []
  poisoned : List Nat := []
  /-- Errors that local lines hold and nothing has found yet (R387): line, uncorrectable. -/
  latent : List (Nat × Bool) := []
  arr : List QEntry := []
  spx : List QEntry := []
  hac : List QEntry := []
  ocu : List QEntry := []
  ni : List QEntry := []
  /-- Generation current when the LAUNCH started (R119). -/
  gen : BitVec 16 := 0
  arrived : BitVec 4 := 0
  sendBuf : List OutMsg := []
  mbox : Vector Mbox 8 := Vector.replicate 8 {}
  coalesce : Option Coalesce := none
  exitWord : Word := 0
  faultValid : Bool := false
  faultGlobal : Bool := false
  faultCause : Byte := 0
  faultPc : BitVec 17 := 0
  faultAddr : Dword := 0
  cols : BitVec 5 := 16
  bypassed : Bool := false
  badCol : BitVec 4 := 0
  ctrFreeze : Bool := false
  cnt : Vector Dword 10 := Vector.replicate 10 0
  msgSent : Word := 0
  msgRcvd : Word := 0
  msgDrop : Word := 0
  slots : Vector SlotSt 64 := Vector.replicate 64 {}
  /-- In-array ledgers, and their steps since the last fold (R278, R286). -/
  ledger : Vector L128 256 := Vector.replicate 256 0
  foldSteps : Vector Word 256 := Vector.replicate 256 0
  arrCnt : Vector Dword 7 := Vector.replicate 7 0
  checkFail : Bool := false
  checkCol : BitVec 4 := 0
  checkCount : BitVec 8 := 0
  hacc : List HaccEntry := []
  /-- Records in the spill ring (R318). -/
  spillCount : Nat := 0
  spxCnt : Vector Dword 8 := Vector.replicate 8 0
  spxErr : Bool := false
  spxUnit : BitVec 2 := 0
  spxReason : Byte := 0
  posts : List Post := []
  deriving DecidableEq, Repr

/-- A bin set (R325, R343). -/
structure BinSet where
  valid : Bool := false
  postZero : Bool := false
  owner : Fin 64 := 0
  edges : Vector (BitVec 7) 7 := #v[1, 2, 4, 8, 16, 32, 48]
  isSealed : Bool := false
  sealCount : BitVec 10 := 0
  deriving DecidableEq, Repr

/-- The work-bin region of a compute die (R343) and its clock (R571). -/
structure Die where
  sets : Vector BinSet 4 := Vector.replicate 4 {}
  queues : Vector (List (List Byte)) 32 := Vector.replicate 32 []
  /-- Pulls that wait, in the order in which they arrived: queue and core (R174). -/
  pulls : List (Fin 32 × CoreId) := []
  wbBusy : Bool := false
  edgeInvalid : Bool := false
  wbTimeout : Bool := false
  timeoutUs : BitVec 16 := 1000
  spillBase : Dword := 0
  spillCfg : BitVec 3 := 0
  sramCe : Word := 0
  /-- CK_CORE in MHz, VDD_CDd in fifteenths of a millivolt, and the change in progress (R571). -/
  mhz : Nat := 600
  v15 : Nat := 9000
  change : Option (Nat × Nat) := none
  /-- Its junction sensor has been critical and not yet back at 105 °C (R532). -/
  hot : Bool := false
  deriving DecidableEq, Repr

/-- A query at a walker: of a SEARCH, by item and number, or of another device's QUERY, by its sender, its request and the
instance it works for (R345, R365). -/
inductive QueryKey where
  | own (item query : Nat)
  | remote (src : BitVec 16) (req : Word) (inst : InstId)
  deriving DecidableEq, Repr

/-- A walker (R344, R379). -/
structure Walker where
  /-- Queries in progress, oldest first. -/
  queries : List QueryKey := []
  ctrFreeze : Bool := false
  errValid : Bool := false
  errInst : BitVec 6 := 0
  errReason : Byte := 0
  cnt : Vector Dword 9 := Vector.replicate 9 0
  deriving DecidableEq, Repr

/-- The progress of a SEARCH (R352, R356). -/
structure SearchWork where
  item : Nat
  next : Nat
  done : Nat
  /-- The 64 bytes of its parameter block (R350). -/
  params : List Byte := []
  /-- Queries that must start again on another walker (R375). -/
  redo : List Nat := []
  deriving DecidableEq, Repr

/-! ### Memory, buffers, locks (12_memory.md) -/

/-- The memory system (R380 to R393, R420). -/
structure Mem where
  dpa : Memory := []
  poisoned : List Nat := []
  /-- Errors that stored lines hold and nothing has found yet (R387): line, uncorrectable. -/
  latent : List (Nat × Bool) := []
  /-- Lines found poisoned whose owners Nucleus has not yet walked for, and whether the scrubber found them
  (R391). -/
  found : List (Nat × Bool) := []
  /-- Host memory at PCIe bus addresses, outside the device (log entry 4). -/
  host : Memory := []
  /-- Lines of host memory that were written as poisoned TLPs. -/
  hostPoisoned : List Nat := []
  chOk : BitVec 4 := 0
  ranks : BitVec 2 := 1
  capacity : BitVec 2 := 0
  retrainFail : Vector (BitVec 8) 4 := Vector.replicate 4 0
  ce : Vector (BitVec 24) 4 := Vector.replicate 4 0
  /-- The LP5X region is in the DPA map (R557). -/
  lp5xPresent : Bool := true
  lpEn : Bool := true
  dpEn : Bool := true
  lpPeriod : BitVec 31 := 28800
  dpPeriod : BitVec 31 := 600
  ueCount : BitVec 16 := 0
  ceCount : BitVec 16 := 0
  lag : BitVec 16 := 0
  passes : BitVec 16 := 0
  lastUe : Dword := 0
  /-- The next line of each pass (R392). -/
  lpPos : Nat := 0
  dpPos : Nat := 0
  deriving DecidableEq, Repr

/-- A buffer pool (R397 to R401). -/
structure Pool where
  enable : Bool := false
  sizeLog2 : BitVec 5 := 6
  count : BitVec 20 := 0
  free : List Nat := []
  held : Tab InstId := []
  reuse : Tab Byte := []
  /-- Refused under R418. -/
  broken : Bool := false
  deriving DecidableEq, Repr

/-- The buffer manager (R420). -/
structure Bfm where
  pools : Vector Pool 16 := Vector.replicate 16 {}
  badAccess : Byte := 0
  badHandle : Byte := 0
  foreignFree : Byte := 0
  doubleFree : Byte := 0
  evtValid : Bool := false
  evtKind : BitVec 3 := 0
  evtHolder : BitVec 6 := 0
  evtInst : BitVec 6 := 0
  evtHandle : Word := 0
  deriving DecidableEq, Repr

/-- Lock states (R402). -/
inductive LockState where
  | free
  | held
  | orphaned
  deriving DecidableEq, Repr

/-- A request that waits for a lock (R403). -/
structure LockReq where
  core : CoreId
  inst : InstId
  gen : BitVec 16
  lease : Rts
  deriving DecidableEq, Repr

/-- A lock (R402 to R409). -/
structure Lock where
  st : LockState := .free
  inst : InstId := 0
  core : CoreId := 0
  gen : BitVec 16 := 0
  lease : Rts := 0
  waiters : List LockReq := []
  deriving DecidableEq, Repr

/-- The lock unit (R402, R420). -/
structure Lku where
  locks : Vector Lock 4096 := Vector.replicate 4096 {}
  grants : Vector Dword 64 := Vector.ofFn fun i => if i.val = 0 then BitVec.allOnes 64 else 0
  sel : BitVec 12 := 0
  orphans : BitVec 16 := 0
  badRelease : BitVec 16 := 0
  /-- Banks refused under R418. -/
  broken : BitVec 64 := 0
  deriving DecidableEq, Repr

/-! ### Halo and Tide (13_halo.md) -/

/-- Loop states (R446). -/
inductive LoopState where
  | opened
  | acquiring
  | locked
  | outOfService
  deriving DecidableEq, Repr

/-- A heater loop (R423, R446). -/
structure HLoop where
  st : LoopState := .opened
  drive : BitVec 14 := 0
  error : BitVec 16 := 0
  /-- Its margin in percent (R424). -/
  margin : BitVec 7 := 0
  deriving DecidableEq, Repr

/-- An HTU_RUN in progress: its item and the first vector not written (R443). -/
structure HtuJob where
  item : Nat
  next : Nat
  deriving DecidableEq, Repr

/-- A query at a walker: its SEARCH and number, the instance and generation it works under, its blocks and
vector, where stop_time() would cut the walk, and for one that came over the fabric its QUERY (R345, R356, R365).
The Halo die holds those that wait for the HTU (R359, R432). -/
structure HtuReq where
  item : Nat
  query : Nat
  wk : Fin 16
  inst : InstId
  gen : BitVec 16
  det : Bool
  k : Nat
  params : List Byte
  index : List Byte
  vec : List Byte
  cut : Option Nat
  remote : Option Msg := none
  /-- `ticks` at its start, and the deadline it works to (R359). -/
  start : Nat := 0
  deadline : Rts := 0
  deriving DecidableEq, Repr

/-- The Halo die (R421 to R433, R446). -/
structure Halo where
  loops : Vector HLoop 2144 := Vector.replicate 2144 {}
  laserOn : BitVec 32 := 0
  /-- Lasers taken out of service (R426, R443). -/
  laserOos : BitVec 32 := 0
  /-- Transmitters out of service after calibration (R426). -/
  txOos : BitVec 32 := 0
  calRunning : Bool := false
  /-- Calibration waits for a temperature before step 1 (R562, R582). -/
  calWait : Bool := false
  overTemp : Bool := false
  calDone : Bool := false
  htuLocked : Bool := false
  htuLoaded : Bool := false
  htuOos : Bool := false
  htuOwner : InstId := 0
  htuGen : BitVec 16 := 0
  /-- The loaded image: out_shift and the 4,096 bytes of M (R428). -/
  outShift : Int := 0
  matrix : List Byte := []
  /-- IVA from which a walker's matrix was loaded. -/
  matrixAddr : Option Dword := none
  /-- `ticks` when the HTU lost the lock that it has not regained (R443). -/
  unlockAt : Option Nat := none
  /-- Squares of the analog errors of the last vectors, each summed over a vector, newest first (R431). -/
  errEnergy : List Nat := []
  loading : Bool := false
  worstLoop : BitVec 12 := 0
  margin : BitVec 7 := 0
  heaterMw : BitVec 16 := 0
  laserMax : BitVec 8 := 0
  dieTemp : BitVec 8 := 0
  recalS : BitVec 16 := 1
  rate : BitVec 2 := 1
  intStatus : BitVec 8 := 0
  intEn : BitVec 8 := 0
  loopSel : BitVec 12 := 0
  cnt : Vector Dword 4 := Vector.replicate 4 0
  job : Option HtuJob := none
  reqs : List HtuReq := []
  /-- A re-characterisation has fallen due and waits: `ticks` when it did (R427). -/
  recharAt : Option Nat := none
  deriving DecidableEq, Repr

/-- One die as Tide sees it (R434, R435, R446). -/
structure TideDie where
  /-- Pd of the last window, in mW; the register shows tenths of a watt. -/
  power : BitVec 19 := 0
  duty : BitVec 4 := 0
  /-- The effective cap in 0.1 W/ms as the register shows it, and a half of that unit more (R435). -/
  effCap : BitVec 8 := 30
  effHalf : Bool := false
  ballast : Bool := false
  hold : Bool := false
  /-- The 20 ms of a hold are over (R435), and `ticks` when it began. -/
  holdOver : Bool := false
  holdAt : Nat := 0
  /-- By how many mW Tide has lowered its target (R436). -/
  lowered : Nat := 0
  deriving DecidableEq, Repr

/-- The Tide governor (R446). -/
structure Tide where
  cfgLock : Bool := false
  setpoint : BitVec 2 := 0
  enable : Bool := true
  cap64 : BitVec 8 := 20
  cap : BitVec 8 := 30
  hi : BitVec 7 := 25
  lo : BitVec 7 := 10
  die : Vector TideDie 4 := Vector.replicate 4 {}
  thermal : Bool := false
  /-- `ticks` when the targets were last lowered for the laser junction (R436). -/
  thermalAt : Nat := 0
  /-- The fields of TIDE_CAP as the last window found them (R442). -/
  capNow : BitVec 8 := 30
  cap64Now : BitVec 8 := 20
  /-- By how much the margin reduces the caps: 0 not, 1 by half, 2 to 0.5 W/ms (R435). -/
  level : Nat := 0
  /-- Powers of the four dies together in the last 100 windows, in mW, newest first (R436). -/
  sums : List Nat := []
  intStatus : BitVec 4 := 0
  intEn : BitVec 4 := 0
  viol : Word := 0
  deriving DecidableEq, Repr

/-! ### The Waltik fabric (14_fabric.md) -/

/-- A lane (R451 to R457, R473, R486). -/
structure Lane where
  up : Bool := false
  /-- In lane selection: up, and not waiting to rejoin (R473). -/
  selectable : Bool := false
  peerMismatch : Bool := false
  peerTrained : Bool := false
  /-- E, the next sequence expected (R455). -/
  rxE : BitVec 16 := 0
  /-- Discarding until REPLAY_START (R456). -/
  discarding : Bool := false
  sinceAck : Nat := 0
  /-- Next sequence to send and oldest unacknowledged. -/
  txSeq : BitVec 16 := 0
  txAck : BitVec 16 := 0
  /-- Copies of the flits not yet acknowledged, oldest first (R455, R457). -/
  copies : List (Vector (BitVec 128) 8) := []
  /-- E of the latest replay, while no ACK has passed it (R456, R457). -/
  replaying : Option (BitVec 16) := none
  /-- Replays of one E without an ACK that passes it (R457). -/
  storms : Nat := 0
  /-- Flits sent since the last bubble, as far as rows send them (R451). -/
  flitsSinceBubble : Nat := 0
  /-- Flits that a replay sends again and that have been received (R455, R456). -/
  again : Nat := 0
  /-- The lane went down while its port stayed up, so it waits before it rejoins selection (R473). -/
  rejoin : Bool := false
  /-- Messages sent, with how many of their flits are not yet acknowledged, oldest first (R473). -/
  sentMsgs : List (Nat × Msg) := []
  /-- Units received in order and not yet whole messages. -/
  rx : List (BitVec 128) := []
  cnt : Vector Dword 8 := Vector.replicate 8 0
  deriving DecidableEq, Repr

/-- A port (R461, R469, R474, R486). -/
structure Port where
  target : BitVec 2 := 0
  mode : BitVec 2 := 0
  laneEn : BitVec 4 := 0xF
  window : BitVec 2 := 2
  replayTimeout : BitVec 16 := 500
  peerReady : Bool := false
  peerNode : BitVec 16 := 0xFFFF
  peerEpoch : BitVec 8 := 0
  /-- Credit counts received from the peer, and units sent, per class. -/
  credit : Vector Word 3 := Vector.replicate 3 0
  sent : Vector Word 3 := Vector.replicate 3 0
  /-- Units this port has freed, per class. -/
  freed : Vector Word 3 := Vector.replicate 3 0
  /-- Messages queued for the port, oldest first. -/
  queue : List Msg := []
  /-- Messages received whole and not yet handled. -/
  inbox : List Msg := []
  probes : Nat := 0
  /-- `ticks` when SHADOW was entered, and of the last uncorrectable codeword or pair fault. -/
  shadowAt : Nat := 0
  faultAt : Option Nat := none
  deriving DecidableEq, Repr

/-- Where a remote request came from. -/
inductive ReqOwner where
  | core (c : CoreId) (q : QueueId)
  | search (item query : Nat)
  deriving DecidableEq, Repr

/-- A request that awaits its response (R465 to R467, R474). -/
structure FabReq where
  id : Word
  owner : ReqOwner
  msg : Msg
  /-- EPOCH resends so far. -/
  retries : Nat := 0
  deriving DecidableEq, Repr

/-- An arrival at a barrier slot (R468). -/
structure BarArrival where
  node : BitVec 16
  partIdx : BitVec 16
  mbox : Byte
  domain : Byte
  deriving DecidableEq, Repr

/-- A barrier unit slot (R468, R486). -/
structure BarSlot where
  episode : BitVec 16 := 0
  expected : BitVec 7 := 0
  arrivals : List BarArrival := []
  deriving DecidableEq, Repr

/-- A result entry of a search (R351): 16 score bytes as a number, and the global ID. -/
structure Hit where
  score : BitVec 128
  gid : BitVec 48
  deriving DecidableEq, Repr

/-- A search result in the making (R351, R366). -/
structure Answer where
  kind : Byte := 0
  flags : Byte := 0
  shardsAns : Nat := 0
  hits : List Hit := []
  expansions : Word := 0
  scored : Word := 0
  gen : Word := 0
  deriving DecidableEq, Repr

/-- A merge context (R471, R472). `up` is the arrival port; a root context names its query instead. -/
structure Merge where
  src : BitVec 16
  req : Word
  up : Option (Fin 8)
  root : Option (Nat × Nat)
  group : BitVec 12
  k : Nat
  branches : Nat
  answered : Nat
  /-- The answers merged so far; its kind is the query's own. -/
  ans : Answer
  shardsExp : Nat
  /-- `ticks` when it opened, and the ticks that it waits (R350, R472). -/
  openedAt : Nat := 0
  wait : Nat := 0
  deriving DecidableEq, Repr

/-- The fabric block (R486). -/
structure Fab where
  cfgLock : Bool := false
  hopLimit : Byte := 32
  node : BitVec 16 := 0xFFFF
  respTimeout : BitVec 16 := 200
  adaptThr : BitVec 16 := 4096
  intStatus : BitVec 8 := 0
  intEn : BitVec 8 := 0
  replayBase : Vector Dword 4 := Vector.replicate 4 0
  ports : Vector Port 8 := Vector.replicate 8 {}
  lanes : Vector Lane 32 := Vector.replicate 32 {}
  domain : Vector (Option Byte) 64 := Vector.replicate 64 none
  /-- The domain field of FAB_DOMAINi while valid is 0. -/
  domainField : Vector Byte 64 := Vector.replicate 64 0
  routes : Tab Word := []
  mcast : Tab Word := []
  bars : Vector BarSlot 64 := Vector.replicate 64 {}
  merges : List Merge := []
  reqs : List FabReq := []
  /-- QUERYs of other devices that wait for a query place, oldest first (R344, R345, R365). -/
  queries : List Msg := []
  /-- Inbound SENDs that wait for their mailbox, oldest first (R466). -/
  ingress : List Msg := []
  nextReq : Word := 0
  deriving DecidableEq, Repr

/-! ### Sample port (15_sample_port.md) -/

/-- A window, open or closed and draining (R492 to R497). -/
structure Window where
  item : Nat
  firstRts : Rts := 0
  lastRts : Rts := 0
  /-- Bits taken, but for those that a flush discarded. -/
  bits : Nat := 0
  lost : Word := 0
  flags : Byte := 0
  /-- Bytes written to the data region so far. -/
  written : Nat := 0
  deriving DecidableEq, Repr

/-- The sample port (R487 to R517). -/
structure Sp where
  cfgLock : Bool := false
  align : Bool := false
  enable : Bool := false
  hw : BitVec 13 := 3584
  lw : BitVec 13 := 2048
  intStatus : BitVec 5 := 0
  intEn : BitVec 5 := 0
  cnt : Vector Dword 4 := Vector.replicate 4 0
  /-- Items armed, ordered by release (R491), at most four; and the release each counts with. -/
  armed : List (Nat × Rts) := []
  /-- The open window, of the head of the armed queue. -/
  window : Option Window := none
  /-- Windows that have closed and whose data or header is not yet written, oldest first. -/
  closing : List Window := []
  /-- Stored words of the Q-block, oldest first, each with the item of its window (R499). -/
  words : List (Nat × List Byte) := []
  /-- Bits of the packer's partial word, oldest first. -/
  partialBits : List Bool := []
  closed : Bool := false
  holdN : Bool := true
  lossN : Bool := true
  lossBeats : Nat := 0
  clkPresent : Bool := false
  /-- SP_FRM at the beat before; set where no beat has sampled it low yet (R492). -/
  lastFrm : Bool := true
  /-- Armed items whose opening beat under align came while another window was open (R492). -/
  frmSeen : List Nat := []
  deriving DecidableEq, Repr

/-! ### Nucleus (16_management.md) -/

/-- One unit: its table entry and its two data-path bits (R523, R524). -/
structure UnitSt where
  st : BitVec 2 := 3
  epoch : Byte := 0
  cause : Byte := 0
  faults : Byte := 0
  fence : Bool := true
  tbl : Bool := true
  mismatch : Bool := false
  draining : Bool := false
  /-- The model's own: a UNIT_SET left the fence as it was, so the bits differ without a mismatch (R529). -/
  bySet : Bool := false
  deriving DecidableEq, Repr

/-- An error log ring (R533 to R535, R546). -/
structure LogRing where
  base : Dword := 0
  enable : Bool := false
  vector : Fin 32 := 0
  log2 : BitVec 5 := 6
  seq : Word := 1
  logFault : Bool := false
  cfgInvalid : Bool := false
  /-- Within 100 µs of a message, and entries are suppressed in that time (R535). -/
  quiet : Bool := false
  suppressed : Bool := false
  deriving DecidableEq, Repr

/-- Who sent a command: one of the two paths, or a host write of a port's target (R518, R531). -/
inductive CmdSource where
  | path (p : CmdPath)
  | portWrite
  deriving DecidableEq, Repr

/-- A command that Nucleus has in progress (R519, R529, R530). -/
structure NucJob where
  src : CmdSource
  req : NucReq
  unit : Fin 622
  /-- The unit reported a fault while the return-to-service check ran (R539). -/
  failed : Bool := false
  deriving DecidableEq, Repr

/-- Nucleus (R518 to R546). -/
structure Nuc where
  ready : Bool := false
  busy : Bool := false
  done : Bool := false
  overrun : Bool := false
  cfgLock : Bool := false
  smbusEn : Bool := false
  doneIrqEn : Bool := false
  vec : Fin 32 := 0
  cmd : Word := 0
  reqBuf : Tab Word := []
  rspBuf : Tab Word := []
  units : Vector UnitSt 622 := Vector.replicate 622 {}
  mmValid : Bool := false
  mmCount : BitVec 10 := 0
  mmUnit : BitVec 10 := 0
  sens : Vector (BitVec 16) 32 := Vector.replicate 32 0
  sensWarn : BitVec 32 := 0
  sensCrit : BitVec 32 := 0
  job : Option NucJob := none
  /-- Commands that have arrived and wait for their turn, oldest first (R519). -/
  waiting : List (CmdSource × NucReq) := []
  restarting : Bool := false
  /-- Fault reports that Nucleus has not yet taken because it restarts, oldest first (R525, R542). -/
  pendFaults : List (Fin 622 × Byte) := []
  /-- `ticks` of the last watchdog expiry (R543). -/
  lastExpiry : Option Nat := none
  fatal : Bool := false
  eid : Byte := 0
  /-- SPDM steps done (R537): version, capabilities, algorithms. -/
  spdmStep : Nat := 0
  logs : Vector LogRing 64 := Vector.replicate 64 {}
  deriving DecidableEq, Repr

/-! ### Hub, PCIe, board -/

/-- The HUB block, boot and fuses (00_scope.md R13; 17_startup.md R552 to R567). -/
structure Hub where
  gradeCode : BitVec 4 := 1
  stepping : BitVec 4 := 0
  bypassedArrays : Byte := 0
  fusedArrays : Byte := 0
  /-- The fused column map: core number, and (bypassed, bad_col, cols) where it is not (false, 0, 16). -/
  colMap : Tab (Bool × BitVec 4 × BitVec 5) := []
  fusedVersion : Word := 0
  fusedCapacity : BitVec 2 := 0
  fusedRanks : BitVec 2 := 1
  rstN : Bool := false
  perstN : Bool := false
  /-- Stage 0 has ended since the last reset (R558). -/
  stage0 : Bool := false
  linkUp : Bool := false
  ready : Bool := false
  bootFail : Bool := false
  degraded : Bool := false
  recovery : Bool := false
  stage : BitVec 4 := 0
  zeroDone : Bool := false
  computeDone : Bool := false
  haloDone : Bool := false
  lp5xDone : Bool := false
  rate6400 : Bool := false
  slot : Bool := false
  errA : Byte := 0
  errB : Byte := 0
  stageTimeout : Byte := 0
  cause : BitVec 3 := 0
  bootMs : BitVec 16 := 0
  /-- The running image asks to advance the fused version to this (R552, R554). -/
  advanceTo : Option Word := none
  board : BoardConfig := { trefSel := 0, setpoint := 0, fallback := false, force6400 := false, portMode := Vector.replicate 8 0 }
  /-- The calibration and self-test outcomes that bring-up keeps for the unit table (R556). -/
  cal : CalResult := { lasers := 0, rings := 0, htuOk := true }
  testFailed : List (Fin 622) := []
  chFailed : BitVec 4 := 0
  /-- Units that failed bring-up and are not yet logged as UNIT_FAULT (R565). -/
  unlogged : List (Fin 622) := []
  flashBusy : Bool := false
  flashOp : BitVec 2 := 0
  /-- The op field of HUB_FLASH_CTRL (R567). -/
  opField : BitVec 2 := 0
  flashError : Bool := false
  flashAddr : Word := 0
  /-- Where the operation in progress works. -/
  flashAt : Nat := 0
  flashBuf : Memory := []
  /-- Flash contents; an unlisted byte reads as erased, 0xFF (log entry 4). -/
  flash : Memory := []
  /-- The hub lost HREF_IN and runs on its internal oscillator (R586). -/
  hrefLost : Bool := false
  /-- THERM_N is driven low (R578). -/
  therm : Bool := false
  jtag : JtagOp := .idcode
  deriving DecidableEq, Repr

/-- A PCIe function: memory space, bus mastering and MSI-X (R65, R99); payload and read request sizes as powers of two
over 128 bytes, and Relaxed Ordering (R65; reset values PRESUMED, log entry 56). -/
structure Fn where
  memory : Bool := false
  master : Bool := false
  msix : Bool := false
  fnMask : Bool := false
  mps : Fin 3 := 0
  mrrs : Fin 6 := 2
  relaxed : Bool := true
  masked : BitVec 32 := BitVec.allOnes 32
  pendingBits : BitVec 32 := 0
  deriving DecidableEq, Repr

/-- What configuration space gives of a function (R65): its identity, the SR-IOV capability, and what it is set to. -/
structure ConfigRead where
  deviceId : BitVec 16
  classCode : BitVec 24
  totalVFs : Nat
  firstVfOffset : Nat
  vfStride : Nat
  vfEnable : Bool
  numVFs : Fin 64
  fn : Fn
  deriving DecidableEq, Repr

/-- Error reports the device makes through AER (R107, R389, R543, R586). -/
inductive Aer where
  | poisonedTlp
  | completionError
  | uncorrectableInternal
  deriving DecidableEq, Repr

/-- What the block has sent to the outside, in order. -/
inductive Output where
  | msix (fn : InstId) (vec : Fin 32)
  | aer (a : Aer)
  /-- Data returned for a read, and whether it carries the poisoned bit (R389). -/
  | readData (data : List Byte) (poisoned : Bool)
  /-- A posted write to host memory. -/
  | hostWrite (addr : Nat) (data : List Byte) (poisoned : Bool)
  /-- A configuration request answered with retry status, or normally with what a read gives (R65, R558). -/
  | config (fn : InstId) (crs : Bool) (data : Option ConfigRead)
  | evt (pin : Fin 8) (level : Bool) (rts : Rts)
  | message (port : Fin 8) (lane : Fin 32) (m : Msg)
  | flit (lane : Fin 32) (units : Vector (BitVec 128) 8)
  | control (lane : Fin 32) (r : ControlRec)
  | bubble (lane : Fin 32)
  /-- A Nucleus response: path, opcode, seq, result code, data from byte 12. -/
  | nuc (path : CmdPath) (opcode : BitVec 16) (seq : Word) (result : Byte) (data : List Byte)
  | mctp (data : List Byte)
  /-- VOUT_COMMAND to the regulator of a die, in fifteenths of a millivolt, in which the interpolation of R571
  is exact. -/
  | vout (die : Fin 4) (v15 : Nat)
  | jtag (data : List Bool)
  deriving DecidableEq, Repr

/-- The dispatcher of one engine type: the instance its round stands at, and the starts that instance has
made in this round (R137). -/
structure Dispatcher where
  at_ : InstId := 0
  started : Nat := 0
  deriving DecidableEq, Repr

/-- The state of the block. -/
structure State where
  eph : Eph
  evt : Vector EvtPin 8
  evtin : Vector EvtIn 4
  inst : Vector Inst 64
  parts : Vector Part 64
  mtu : Vector Mtu 64
  /-- The invalidation in progress (R125), and MTU_INVAL (R153). -/
  invalJob : Option (Bool × InstId × Dword)
  invalAll : Bool
  invalInst : InstId
  invalAddr : Dword
  partOverlap : Bool
  partBusy : Bool
  escalations : Byte
  vfEnable : Bool
  numVFs : Fin 64
  fns : Vector Fn 64
  items : List Item
  nextId : Nat
  /-- The number in order of readiness that the next ready descriptor takes. -/
  nextReady : Nat
  disp : Vector Dispatcher 4
  searches : List SearchWork
  /-- Engines that an escalation is resetting (R129, R151). -/
  engReset : List Engine
  cores : Vector Core 576
  dies : Vector Die 4
  thresh : Vector (BitVec 13) 64
  wks : Vector Walker 16
  mem : Mem
  bfm : Bfm
  lku : Lku
  halo : Halo
  tide : Tide
  fab : Fab
  sp : Sp
  nuc : Nuc
  hub : Hub
  /-- Read latches and write holding registers of the 64-bit pairs, by pair (R10). -/
  latch : Tab Word
  hold : Tab Word
  /-- The model's own: readings of free values so far (log entry 5). -/
  free : Nat
  /-- The model's own: what the block has sent. -/
  out : List Output
  /-- Commands that wait, first in, first out. -/
  pending : List Instr
  deriving DecidableEq, Repr

/-- Why the block stops. -/
inductive Fault where
  /-- Raised by step alone, never by a command's meaning: reserved for a queue that is not well formed.
  No definition raises it today. Safe: a stop proves nothing about a state that does not come about. -/
  | none
  deriving DecidableEq, Repr

/-- Why the model declines a command. -/
inductive Refusal where
  /-- The arm of a command that has no meaning yet. Safe: a refusal claims no effect. -/
  | notModelled (mnemonic : String)
  deriving DecidableEq, Repr

/-- Instance i at reset (R152, R153). -/
def Inst.reset (i : InstId) : Inst :=
  { st := if i.val = 0 then .ready else .off
    wkMask := if i.val = 0 then 0xFFFF else 0
    dmaMask := if i.val = 0 then 0xFFFF else 0
    spEn := i.val = 0
    fabEn := i.val = 0
    htuEn := i.val = 0
    evtMask := if i.val = 0 then 0xFF else 0 }

/-- A unit after a reset that initialises the hub, before bring-up has found any failure (R378, R545): ports are in
QUARANTINE, every other unit is IN_SERVICE. -/
def UnitSt.reset (u : Fin 622) : UnitSt :=
  if 0x266 ≤ u.val then { st := 2 } else { st := 0, fence := false, tbl := false }

/-- The units after such a reset. -/
def unitsReset : Vector UnitSt 622 := Vector.ofFn UnitSt.reset

/-- The state right after a cold reset, RST_N low (R549, R555, R566, R587). -/
def State.reset : State :=
  { eph := {}
    evt := Vector.replicate 8 {}
    evtin := Vector.replicate 4 {}
    inst := Vector.ofFn Inst.reset
    parts := Vector.replicate 64 {}
    mtu := Vector.replicate 64 {}
    invalJob := none
    invalAll := false
    invalInst := 0
    invalAddr := 0
    partOverlap := false
    partBusy := false
    escalations := 0
    vfEnable := false
    numVFs := 0
    fns := Vector.replicate 64 {}
    items := []
    nextId := 0
    nextReady := 0
    disp := Vector.replicate 4 {}
    searches := []
    engReset := []
    cores := Vector.replicate 576 {}
    dies := Vector.replicate 4 {}
    thresh := Vector.replicate 64 1024
    wks := Vector.replicate 16 {}
    mem := {}
    bfm := {}
    lku := {}
    halo := {}
    tide := {}
    fab := {}
    sp := {}
    nuc := { units := unitsReset }
    hub := {}
    latch := []
    hold := []
    free := 0
    out := []
    pending := [] }

end Sys2Proof.Machine
end

