-- ==== Sys2Proof/Machine/Tab.lean ====
section
/-! DEFINITION. Vectors by index, sparse tables, byte memories in canonical form, and sets of lines. -/

namespace Sys2Proof.Machine

/-- Replace entry i of a vector by a function of it. -/
def upd {α : Type} {n : Nat} (v : Vector α n) (i : Fin n) (f : α → α) : Vector α n :=
  v.set i.val (f v[i.val]) i.isLt

/-- Entry k of a table, or the default. -/
def Tab.get {α : Type} (d : α) : Tab α → Nat → α
  | [], _ => d
  | (j, x) :: t, k => if k = j then x else Tab.get d t k

/-- Set entry k of a table, keeping numbers rising. -/
def Tab.set {α : Type} : Tab α → Nat → α → Tab α
  | [], k, x => [(k, x)]
  | (j, y) :: t, k, x =>
    if k < j then (k, x) :: (j, y) :: t
    else if k = j then (k, x) :: t
    else (j, y) :: Tab.set t k x

/-- Take entry k away. -/
def Tab.del {α : Type} (t : Tab α) (k : Nat) : Tab α := t.filter fun e => e.1 ≠ k

/-- Entry k of a table, if listed. -/
def Tab.find {α : Type} : Tab α → Nat → Option α
  | [], _ => none
  | (j, x) :: t, k => if k = j then some x else Tab.find t k

/-- The byte at an address; an unlisted address reads as `d`. -/
def Memory.get (d : Byte) : Memory → Nat → Byte
  | [], _ => d
  | (b, v) :: t, a => if a = b then v else if a < b then d else Memory.get d t a

/-- Store one byte, keeping the canonical form. -/
def Memory.set (d : Byte) : Memory → Nat → Byte → Memory
  | [], a, v => if v = d then [] else [(a, v)]
  | (b, w) :: t, a, v =>
    if a < b then (if v = d then (b, w) :: t else (a, v) :: (b, w) :: t)
    else if a = b then (if v = d then t else (a, v) :: t)
    else (b, w) :: Memory.set d t a v

/-- Addresses rise from above `lo`, and no entry equals `d`. -/
def Memory.wfFrom (d : Byte) : Option Nat → Memory → Bool
  | _, [] => true
  | lo, (a, v) :: t =>
    (match lo with
     | none => true
     | some l => l < a) && v != d && Memory.wfFrom d (some a) t

/-- The canonical form: addresses strictly rising, no entry equal to what an unlisted address reads as. -/
def Memory.wf (d : Byte) (m : Memory) : Bool := Memory.wfFrom d none m

/-- `n` bytes from address `a`. -/
def Memory.read (d : Byte) (m : Memory) (a : Nat) : Nat → List Byte
  | 0 => []
  | n + 1 => Memory.get d m a :: Memory.read d m (a + 1) n

/-- Store bytes from address `a` upward. -/
def Memory.write (d : Byte) (m : Memory) (a : Nat) : List Byte → Memory
  | [] => m
  | v :: t => Memory.write d (Memory.set d m a v) (a + 1) t

/-- Fill `n` bytes with one value. -/
def Memory.fill (d : Byte) (m : Memory) (a n : Nat) (v : Byte) : Memory :=
  if v = d then m.filter fun c => c.1 < a || a + n ≤ c.1
  else Memory.write d m a (List.replicate n v)

/-- Bytes as a little-endian number. -/
def leNat : List Byte → Nat
  | [] => 0
  | b :: t => b.toNat + 256 * leNat t

/-- The `n` low bytes of a number, little-endian. -/
def leBytes : Nat → Nat → List Byte
  | 0, _ => []
  | n + 1, x => BitVec.ofNat 8 x :: leBytes n (x / 256)

/-- Cut [a, a + len) at 64-byte line ends (R237, R394): start and length of each request. -/
def chunksAux : Nat → Nat → Nat → List (Nat × Nat)
  | 0, _, _ => []
  | fuel + 1, a, len =>
    if len = 0 then []
    else
      let n := min len (64 - a % 64)
      (a, n) :: chunksAux fuel (a + n) (len - n)

/-- The requests that reach `len` bytes from `a`. -/
def chunks (a len : Nat) : List (Nat × Nat) := chunksAux (len / 64 + 2) a len

/-- Put a line into a rising list of lines. -/
def addLine : List Nat → Nat → List Nat
  | [], l => [l]
  | k :: t, l => if l < k then l :: k :: t else if l = k then k :: t else k :: addLine t l

/-- Take a line out. -/
def delLine (ls : List Nat) (l : Nat) : List Nat := ls.filter (· ≠ l)

/-- Insert by an order that keeps earlier arrivals first among equals. -/
def insertBy {α : Type} (before : α → α → Bool) (x : α) : List α → List α
  | [] => [x]
  | y :: t => if before x y then x :: y :: t else y :: insertBy before x t

/-- Repeat a step on a value. -/
def iter {α : Type} (f : Nat → α → α) : Nat → α → α
  | 0, x => x
  | n + 1, x => f n (iter f n x)

end Sys2Proof.Machine
end

