-- ==== Sys2Proof/Machine/Float.lean ====
section
/-! DEFINITION. Numbers of the formats of 07_formats.md: reading, exact sums and products, and rounding back
into a format (R201, R225 to R227, R270, R283, R284). -/

namespace Sys2Proof.Machine

open Sys2Proof

/-- How a floating-point format encodes infinity and NaN (R226). -/
inductive Specials where
  /-- All-ones exponent: infinity and NaN. -/
  | ieee
  /-- E4M3: no infinity, one NaN per sign. -/
  | e4m3
  /-- The FP6 and FP4 elements: neither. -/
  | none
  deriving DecidableEq, Repr

/-- A floating-point format: exponent bits, mantissa bits, bias (R226). -/
structure FFmt where
  eb : Nat
  mb : Nat
  bias : Nat
  sp : Specials
  deriving DecidableEq, Repr

def fE4M3 : FFmt := ⟨4, 3, 7, .e4m3⟩
def fE5M2 : FFmt := ⟨5, 2, 15, .ieee⟩
def fBF16 : FFmt := ⟨8, 7, 127, .ieee⟩
def fFP16 : FFmt := ⟨5, 10, 15, .ieee⟩
def fFP32 : FFmt := ⟨8, 23, 127, .ieee⟩
def fE3M2 : FFmt := ⟨3, 2, 3, .none⟩
def fE2M3 : FFmt := ⟨2, 3, 1, .none⟩
def fE2M1 : FFmt := ⟨2, 1, 1, .none⟩

/-- A number: (−1)^neg · m · 2^e, an infinity, or NaN. -/
inductive Num where
  | nan
  | inf (neg : Bool)
  | fin (neg : Bool) (m : Nat) (e : Int)
  deriving DecidableEq, Repr

/-- Read an encoding (R226). -/
def decodeF (f : FFmt) (b : Nat) : Num :=
  let neg := b / 2 ^ (f.eb + f.mb) % 2 = 1
  let x := b / 2 ^ f.mb % 2 ^ f.eb
  let m := b % 2 ^ f.mb
  if f.sp = .ieee ∧ x = 2 ^ f.eb - 1 then (if m = 0 then .inf neg else .nan)
  else if f.sp = .e4m3 ∧ x = 2 ^ f.eb - 1 ∧ m = 2 ^ f.mb - 1 then .nan
  else if x = 0 then .fin neg m (1 - (f.bias : Int) - f.mb)
  else .fin neg (2 ^ f.mb + m) ((x : Int) - f.bias - f.mb)

/-- The largest finite encoding, sign apart (R226). -/
def maxFinite (f : FFmt) : Nat :=
  match f.sp with
  | .ieee => (2 ^ f.eb - 1) * 2 ^ f.mb - 1
  | .e4m3 => 2 ^ (f.eb + f.mb) - 2
  | .none => 2 ^ (f.eb + f.mb) - 1

/-- The canonical NaN (R201, R284). -/
def canonNaN (f : FFmt) : Nat :=
  match f.sp with
  | .ieee => (2 ^ f.eb - 1) * 2 ^ f.mb + 2 ^ (f.mb - 1)
  | .e4m3 => 2 ^ (f.eb + f.mb) - 1
  | .none => 0

/-- m · 2^sh rounded to an integer: rnd 0 nearest-even, 1 toward zero, 2 down, 3 up (R202). -/
def roundMag (neg : Bool) (m : Nat) (sh : Int) (rnd : Nat) : Nat :=
  if 0 ≤ sh then m * 2 ^ sh.toNat
  else
    let d := 2 ^ (-sh).toNat
    let q := m / d
    let r := m % d
    let up :=
      if rnd = 0 then d < 2 * r || (2 * r = d && q % 2 = 1)
      else if rnd = 1 then false
      else if rnd = 2 then neg && r != 0
      else !neg && r != 0
    q + b2n up

/-- Round a finite number into a format: the encoding, and whether it lay beyond the largest finite value
(R201, R284). -/
def roundFin (f : FFmt) (neg : Bool) (m : Nat) (e : Int) (rnd : Nat) : Nat × Bool :=
  let s := b2n neg * 2 ^ (f.eb + f.mb)
  if m = 0 then (s, false)
  else
    let l := max ((Nat.log2 m : Int) + e) (1 - (f.bias : Int))
    let n := roundMag neg m (e - (l - f.mb)) rnd
    let b := (l + f.bias - 1).toNat * 2 ^ f.mb + n
    if b ≤ maxFinite f then (s + b, false)
    else if f.sp != .ieee then (s + maxFinite f, true)
    else if rnd = 0 ∨ (rnd = 2 ∧ neg) ∨ (rnd = 3 ∧ !neg) then (s + (2 ^ f.eb - 1) * 2 ^ f.mb, true)
    else (s + maxFinite f, true)

/-- Round a number into a format. -/
def encodeF (f : FFmt) (rnd : Nat) : Num → Nat
  | .nan => canonNaN f
  | .inf neg => b2n neg * 2 ^ (f.eb + f.mb) + (2 ^ f.eb - 1) * 2 ^ f.mb
  | .fin neg m e => (roundFin f neg m e rnd).1

/-- A signed integer as a number; zero is positive. -/
def numOfInt (i : Int) : Num := .fin (i < 0) i.natAbs 0

/-- The exact sum of two numbers, with the sign of zero that nearest-even gives. -/
def addNum : Num → Num → Num
  | .nan, _ => .nan
  | _, .nan => .nan
  | .inf a, .inf b => if a = b then .inf a else .nan
  | .inf a, .fin .. => .inf a
  | .fin .., .inf b => .inf b
  | .fin na ma ea, .fin nb mb eb =>
    let e := min ea eb
    let va := (ma : Int) * 2 ^ (ea - e).toNat
    let vb := (mb : Int) * 2 ^ (eb - e).toNat
    let v := (if na then -va else va) + (if nb then -vb else vb)
    if v = 0 then .fin (na && nb) 0 e else .fin (v < 0) v.natAbs e

/-- The exact product of two numbers. -/
def mulNum : Num → Num → Num
  | .nan, _ => .nan
  | _, .nan => .nan
  | .inf a, .inf b => .inf (a != b)
  | .inf a, .fin nb mb _ => if mb = 0 then .nan else .inf (a != nb)
  | .fin na ma _, .inf b => if ma = 0 then .nan else .inf (na != b)
  | .fin na ma ea, .fin nb mb eb => .fin (na != nb) (ma * mb) (ea + eb)

/-- Negate a number. -/
def negNum : Num → Num
  | .nan => .nan
  | .inf a => .inf (!a)
  | .fin n m e => .fin (!n) m e

/-- Numbers compared: none if one is NaN. -/
def cmpNum (a b : Num) : Option Ordering :=
  match a, b with
  | .nan, _ => none
  | _, .nan => none
  | .inf x, .inf y => some (if x = y then .eq else if x then .lt else .gt)
  | .inf x, .fin .. => some (if x then .lt else .gt)
  | .fin .., .inf y => some (if y then .gt else .lt)
  | .fin na ma ea, .fin nb mb eb =>
    let e := min ea eb
    let va := (ma : Int) * 2 ^ (ea - e).toNat
    let vb := (mb : Int) * 2 ^ (eb - e).toNat
    some (compare (if na then -va else va) (if nb then -vb else vb))

/-- FP32 sum, product and fused multiply-add with nearest-even rounding (R201, R251, R291). -/
def f32Add (a b : Nat) : Nat := encodeF fFP32 0 (addNum (decodeF fFP32 a) (decodeF fFP32 b))

/-- A number rounded to an integer and saturated to a signed range of w bits; NaN is 0 (R201). -/
def numToInt (rnd : Nat) (lo hi : Int) : Num → Int
  | .nan => 0
  | .inf neg => if neg then lo else hi
  | .fin neg m e =>
    let v : Int := if neg then -(roundMag neg m e rnd : Int) else (roundMag neg m e rnd : Int)
    max lo (min hi v)

end Sys2Proof.Machine
end

