-- ==== Sys2Proof/Machine/Flags.lean ====
section
/-! DEFINITION. Conditions of compares, predicate values, and the sticky ledger flags (R188, R194, R200,
R272). -/

namespace Sys2Proof.Machine

open Sys2Proof

/-- The conditions of CMP and CMPI (R194): 0 eq, 1 ne, 2 lt, 3 ge, 4 ltu, 5 geu. -/
def condHolds (cond : Nat) (a b : Dword) : Bool :=
  match cond with
  | 0 => a = b
  | 1 => a != b
  | 2 => a.slt b
  | 3 => !a.slt b
  | 4 => a.ult b
  | _ => !a.ult b

/-- A scalar truth value as a predicate: written to all 16 bits (R188). -/
def truth (b : Bool) : BitVec 16 := if b then 0xFFFF else 0

/-- The logical operations of PLOG (R194). -/
def plogOp (x : Nat) (a b : BitVec 16) : BitVec 16 :=
  match x with
  | 0 => a &&& b
  | 1 => a ||| b
  | 2 => a ^^^ b
  | _ => a &&& ~~~b

/-- Bits of the ledger flags (R272). -/
def flagInx : Word := 1
def flagRange : Word := 2
def flagInf : Word := 4
def flagRun : Word := 8
def flagChunk : Word := 16
def flagSat : Word := 32

/-- The flags that hold, as a word. -/
def flagIf (b : Bool) (f : Word) : Word := if b then f else 0

end Sys2Proof.Machine
end

