-- ==== Sys2Proof/Machine/Ops.lean ====
section
/-! DEFINITION. The operations every family shares: parts of the state by name, free values, radio
time arithmetic, the error log and interrupts, translation, and access to memory by line. -/

namespace Sys2Proof.Machine

open Sys2Proof

/-! ### Parts of the state -/

def modInst (i : InstId) (f : Inst → Inst) (s : State) : State := { s with inst := upd s.inst i f }
def modPart (n : Fin 64) (f : Part → Part) (s : State) : State := { s with parts := upd s.parts n f }
def modMtu (i : InstId) (f : Mtu → Mtu) (s : State) : State := { s with mtu := upd s.mtu i f }
def modCore (c : CoreId) (f : Core → Core) (s : State) : State := { s with cores := upd s.cores c f }
def modDie (d : Fin 4) (f : Die → Die) (s : State) : State := { s with dies := upd s.dies d f }
def modWk (w : Fin 16) (f : Walker → Walker) (s : State) : State := { s with wks := upd s.wks w f }
def modPin (n : Fin 8) (f : EvtPin → EvtPin) (s : State) : State := { s with evt := upd s.evt n f }
def modPort (p : Fin 8) (f : Port → Port) (s : State) : State :=
  { s with fab := { s.fab with ports := upd s.fab.ports p f } }
def modLane (l : Fin 32) (f : Lane → Lane) (s : State) : State :=
  { s with fab := { s.fab with lanes := upd s.fab.lanes l f } }
def modUnit (u : Fin 622) (f : UnitSt → UnitSt) (s : State) : State :=
  { s with nuc := { s.nuc with units := upd s.nuc.units u f } }
def modLog (i : InstId) (f : LogRing → LogRing) (s : State) : State :=
  { s with nuc := { s.nuc with logs := upd s.nuc.logs i f } }
def modSq (i : InstId) (q : Fin 16) (f : Sq → Sq) (s : State) : State :=
  modInst i (fun x => { x with sq := upd x.sq q f }) s
def modCq (i : InstId) (q : Fin 16) (f : Cq → Cq) (s : State) : State :=
  modInst i (fun x => { x with cq := upd x.cq q f }) s
def modLock (n : Fin 4096) (f : Lock → Lock) (s : State) : State :=
  { s with lku := { s.lku with locks := upd s.lku.locks n f } }
def modPool (p : Fin 16) (f : Pool → Pool) (s : State) : State :=
  { s with bfm := { s.bfm with pools := upd s.bfm.pools p f } }
def modMbox (c : CoreId) (m : Fin 8) (f : Mbox → Mbox) (s : State) : State :=
  modCore c (fun k => { k with mbox := upd k.mbox m f }) s

/-- The accepted descriptor numbered d. -/
def findItem (d : Nat) (s : State) : Option Item := s.items.find? fun x => x.id = d

/-- Change the accepted descriptor numbered d. -/
def modItem (d : Nat) (f : Item → Item) (s : State) : State :=
  { s with items := s.items.map fun x => if x.id = d then f x else x }

/-- Add to what the block has sent. -/
def emit (o : Output) (s : State) : State := { s with out := s.out ++ [o] }

/-- A free value of width w, and the state in which it has been taken (R7; log entry 5). -/
def takeFree (w : Nat) (s : State) : BitVec w × State :=
  (Config.freeValue s.free w, { s with free := s.free + 1 })

/-- The device works: it has reported ready, RST_N is high, and HREF_IN has not been lost
(R558, R586). -/
def live (s : State) : Bool := s.hub.ready && s.hub.rstN && !s.hub.hrefLost

/-- The outcome of every command: its effect where its condition holds, no change where it does not
(log entry 3). -/
abbrev Out := Host.Outcome State Fault Refusal

/-- A command: the effect f where c holds (log entry 3). -/
def act (c : Bool) (f : State → State) (s : State) : Out := .next (if c then f s else s)

/-- A core number from a natural number, core 0 if it is none. -/
def coreOf (n : Nat) : CoreId := if h : n < 576 then ⟨n, h⟩ else 0

/-- Column of a core (00_scope.md, Names). -/
def coreX (c : CoreId) : Nat := c.val % 24
/-- Row of a core. -/
def coreY (c : CoreId) : Nat := c.val / 24
/-- Compute die of a core. -/
def coreDie (c : CoreId) : Fin 4 :=
  if coreY c < 12 then (if coreX c < 12 then 0 else 1) else (if coreX c < 12 then 2 else 3)
/-- Local index of a core in its die's window (R30). -/
def coreLocal (c : CoreId) : Nat := coreY c % 12 * 12 + coreX c % 12

/-! ### Radio time (R31 to R34) -/

/-- Ticks of a frame. -/
def frameTicks : Nat := 2457600
/-- Ticks of a second. -/
def secTicks : Nat := 245760000

/-- The linear tick count of an RTS (R31). -/
def rtsLin (a : Rts) : Nat := (bits a 63 32 * 1024 + bits a 31 22) * frameTicks + bits a 21 0

/-- The RTS of a linear tick count, the hyperframe wrapping modulo 2^32 (R31, R32). -/
def rtsOfLin (n : Nat) : Rts :=
  let f := n / frameTicks
  BitVec.ofNat 64 ((f / 1024 % 2 ^ 32) * 2 ^ 32 + f % 1024 * 2 ^ 22 + n % frameTicks)

/-- The normalised RTS (R32). -/
def rtsNorm (a : Rts) : Rts := rtsOfLin (rtsLin a)

/-- The RTS of a linear tick count that may be negative: the hyperframe wraps. -/
def rtsOfInt (n : Int) : Rts := rtsOfLin (n % (2 ^ 32 * 1024 * 2457600)).toNat

/-- Add a duration in ticks. -/
def rtsAdd (a : Rts) (d : Nat) : Rts := rtsOfLin (rtsLin a + d)

/-- The time that a release or deadline field names: none only when it is zero as written (R42). -/
def rtsField (a : Rts) : Option Rts := if a = 0 then none else some (rtsNorm a)

/-- A field's time has been reached (R43). -/
def reached (a : Rts) (now : Rts) : Bool :=
  match rtsField a with
  | none => true
  | some t => t.toNat ≤ now.toNat

/-- A deadline field's time has passed: the tick is later than the deadline (R44). -/
def passed (a : Rts) (now : Rts) : Bool :=
  match rtsField a with
  | none => false
  | some t => t.toNat < now.toNat

/-- Ticks of a number of microseconds, rounded up: the first tick at or after that time. -/
def usTicks (us : Nat) : Nat := (us * 24576 + 99) / 100

/-! ### MSI-X and interrupts (R99, R588) -/

/-- Send an MSI-X message of a function, or set the pending bit of a masked vector (R99). Nothing is sent
before ready (R558) or while the function may not master the bus or use MSI-X (PCIe; log entry 11). -/
def msix (fn : InstId) (vec : Fin 32) (s : State) : State :=
  let f := s.fns[fn.val]
  if live s && f.msix && f.master then
    if f.fnMask || bit f.masked vec.val then
      { s with fns := upd s.fns fn fun g => { g with pendingBits := g.pendingBits ||| (1#32 <<< vec.val) } }
    else emit (.msix fn vec) s
  else s

/-- An interrupt to the PF that names no vector of its own (R588). -/
def pfIrq (s : State) : State := msix 0 s.nuc.logs[0].vector s

/-! ### Device physical addresses (R380 to R383) -/

/-- A region of the DPA map. -/
inductive Region where
  | lp5x (ch : Fin 4)
  | pool (d : Fin 4)
  | aperture (p : Fin 16) (off : Nat)
  | hole
  deriving DecidableEq, Repr

/-- Usable LP5X capacity in bytes: fifteen sixteenths of 32, 64 or 128 GiB (R380, R383). -/
def lpCapacity (s : State) : Nat :=
  if s.mem.capacity = 0 then 30 * 2 ^ 30 else if s.mem.capacity = 1 then 60 * 2 ^ 30 else 120 * 2 ^ 30

/-- The region a DPA lies in (R380, R381, R557). -/
def regionOf (s : State) (a : Nat) : Region :=
  if a < lpCapacity s then
    if s.mem.lp5xPresent then .lp5x (Fin.ofNat 4 (a / 256)) else .hole
  else if 0x2000000000 ≤ a ∧ a < 0x2040000000 then
    let o := a - 0x2000000000
    if o % 0x10000000 < 96 * 2 ^ 20 then .pool (Fin.ofNat 4 (o / 0x10000000)) else .hole
  else if 0x3000000000 ≤ a ∧ a < 0x3000000000 + 16 * 0x200000 then
    let o := a - 0x3000000000
    .aperture (Fin.ofNat 16 (o / 0x200000)) (o % 0x200000)
  else .hole

/-- Unit numbers (R522). -/
def unitCore (c : CoreId) : Fin 622 := ⟨c.val, by omega⟩
def unitWk (w : Fin 16) : Fin 622 := ⟨0x240 + w.val, by omega⟩
def unitDma (n : Fin 16) : Fin 622 := ⟨0x250 + n.val, by omega⟩
def unitHtu : Fin 622 := ⟨0x260, by omega⟩
def unitSp : Fin 622 := ⟨0x261, by omega⟩
def unitLp (c : Fin 4) : Fin 622 := ⟨0x262 + c.val, by omega⟩
def unitPort (p : Fin 8) : Fin 622 := ⟨0x266 + p.val, by omega⟩

/-- A unit is closed to ordinary traffic: its fence or its tbl bit is set (R524). -/
def unitClosed (u : Fin 622) (s : State) : Bool := s.nuc.units[u.val].fence || s.nuc.units[u.val].tbl

/-- A DPA lies on an LP5X channel that is out of service (R417). -/
def channelOut (s : State) (a : Nat) : Bool :=
  match regionOf s a with
  | .lp5x c => unitClosed (unitLp c) s
  | _ => false

/-- A line is poisoned. -/
def linePoisoned (s : State) (a : Nat) : Bool := s.mem.poisoned.contains (a / 64)

/-- A read of a line gives no data: it is poisoned, or holds an uncorrectable error not yet found. -/
def lineBad (s : State) (a : Nat) : Bool := linePoisoned s a || s.mem.latent.any fun e => e.1 = a / 64 && e.2

/-! ### Translation (R120 to R126) -/

/-- Where a request goes. -/
inductive Target where
  | dpa (a : Nat)
  | host (a : Nat)
  deriving DecidableEq, Repr

/-- What a request needs (R123). -/
inductive Access where
  | read
  | write
  | atomic
  deriving DecidableEq, Repr

/-- Why a request is not performed. -/
inductive AccErr where
  /-- A translation fault of the kind that MTU_FAULT_INFO codes (R123, R153). -/
  | mtu (kind : BitVec 3)
  /-- The target is an LP5X channel out of service (R417). -/
  | engine
  /-- The request carries an old generation (R120). -/
  | stale
  deriving DecidableEq, Repr

/-- Eight bytes of a table (R122): kind 4 where the read meets poison, an uncorrectable error or a channel out of service
(R150), kind 0 where no region holds the address (R381). An aperture's ALLOC and FREE read as 0xFFFF_FFFF, its other
offsets as 0 (R398). -/
def tableRead (s : State) (a : Nat) : Except (BitVec 3) Dword :=
  match regionOf s a with
  | .hole => .error 0
  | .aperture _ off => .ok (if off / 8 < 2 then 0xFFFFFFFF else 0)
  | _ => if channelOut s a || lineBad s a then .error 4
         else .ok (BitVec.ofNat 64 (leNat (Memory.read 0 s.mem.dpa a 8)))

/-- A leaf of the walk is well formed: valid, its reserved bits 0, its target not reserved (R122, R123). What bit 4 does in
an L2 entry the spec does not say; the model takes one with it set as invalid (log entry 59). -/
def leafOk (e : Dword) (block : Bool) : Bool :=
  bit e 0 && bits e 63 52 = 0 && bits e 11 8 = 0 && bits e 7 6 < 2 && bit e 4 = block &&
    (if block then bits e 29 12 = 0 else bits e 20 12 = 0)

/-- Walk the table of a context (R122): the leaf that maps the 2 MiB page, in the form of an L2 entry. -/
def walk (m : Mtu) (s : State) (iva : Nat) : Except (BitVec 3) Dword :=
  match tableRead s (bits m.root 63 12 * 4096 + iva / 2 ^ 30 * 8) with
  | .error k => .error k
  | .ok e1 =>
    if bit e1 4 then
      if leafOk e1 true then .ok (e1 + BitVec.ofNat 64 (iva % 2 ^ 30 / 2 ^ 21 * 2 ^ 21)) else .error 0
    else if bit e1 0 && bits e1 63 52 = 0 && bits e1 11 8 = 0 && bits e1 7 6 = 0 then
      match tableRead s (bits e1 51 12 * 4096 + iva % 2 ^ 30 / 2 ^ 21 * 8) with
      | .error k => .error k
      | .ok e2 => if leafOk e2 false then .ok e2 else .error 0
    else .error 0

/-- The addresses of the table entries that a walk reads, as far as they can be read (R122). -/
def tableEntries (m : Mtu) (s : State) (iva : Nat) : List Nat :=
  let a1 := bits m.root 63 12 * 4096 + iva / 2 ^ 30 * 8
  match tableRead s a1 with
  | .error _ => [a1]
  | .ok e1 => if bit e1 0 && !bit e1 4 then [a1, bits e1 51 12 * 4096 + iva % 2 ^ 30 / 2 ^ 21 * 8] else [a1]

/-- A correctable error that a read of the line finds is counted, and the line written back (R387). -/
def fixLine (a : Nat) (s : State) : State :=
  if s.mem.latent.any fun e => e.1 = a / 64 && !e.2 then
    let s := { s with mem := { s.mem with latent := s.mem.latent.filter fun e => e.1 ≠ a / 64 } }
    match regionOf s a with
    | .lp5x c => { s with mem := { s.mem with ce := upd s.mem.ce c satInc } }
    | .pool d => modDie d (fun x => { x with sramCe := satInc x.sramCe }) s
    | _ => s
  else s

/-- A leaf permits an access (R123). -/
def permits (e : Dword) : Access → Bool
  | .read => bit e 1
  | .write => bit e 2
  | .atomic => bit e 1 && bit e 2 && bit e 3

/-- Where a leaf sends an address. -/
def leafTarget (e : Dword) (iva : Nat) : Target :=
  let a := bits e 51 21 * 2 ^ 21 + iva % 2 ^ 21
  if bits e 7 6 = 0 then .dpa a else .host a

/-- The leaves of a page that accesses have used since its last invalidation. -/
def cachedLeaves (m : Mtu) (page : Nat) : List Dword := (m.cache.filter fun e => e.1 = page).map Prod.snd

/-- Keep a leaf among those that accesses have used (R125). -/
def keepLeaf (i : InstId) (page : Nat) (e : Dword) (s : State) : State :=
  modMtu i (fun x => { x with cache := if x.cache.contains (page, e) then x.cache else x.cache ++ [(page, e)] }) s

/-- The leaf an access uses. While an access has used another leaf of the page since the last invalidation than the table
now gives, it is any of those: which is free (R125). A walk of a page that has none kept corrects its table lines (R387).
Answers the leaf and the state with the kept leaves as they then are. -/
def leafFor (i : InstId) (iva : Nat) (s : State) : Except (BitVec 3) Dword × State :=
  let page := iva / 2 ^ 21
  match cachedLeaves s.mtu[i.val] page with
  | [] =>
    let s := (tableEntries s.mtu[i.val] s iva).foldl (fun s a => fixLine a s) s
    (match walk s.mtu[i.val] s iva with
     | .error k => (.error k, s)
     | .ok e => (.ok e, keepLeaf i page e s))
  | old :: olds =>
    let new := walk s.mtu[i.val] s iva
    let same := match new with
      | .ok e => e = old && olds.isEmpty
      | .error _ => false
    if same then (new, s)
    else
      let (b, s) := takeFree 1 s
      let s := match new with
        | .ok e => keepLeaf i page e s
        | .error _ => s
      if b = 1#1 then
        let (n, s) := takeFree 32 s
        (.ok ((old :: olds).getD (n.toNat % (olds.length + 1)) old), s)
      else (new, s)

/-- Translate one request that lies in one line (R121 to R123, R381). -/
def translate (i : InstId) (acc : Access) (iva : Nat) (s : State) : Except (BitVec 3) Target × State :=
  if 2 ^ 40 ≤ iva then (.error 2, s)
  else if !s.mtu[i.val].enable then (.error 3, s)
  else
    match leafFor i iva s with
    | (.error k, s) => (.error k, s)
    | (.ok e, s) =>
      if permits e acc then
        match leafTarget e iva with
        | .host a => (.ok (.host a), s)
        | .dpa a => if regionOf s a = .hole then (.error 0, s) else (.ok (.dpa a), s)
      else (.error 1, s)

/-- Record a fault in MTU_FAULT_INFO: the first in full, later ones by count (R126, R153). -/
def recordFault (i : InstId) (src : Nat) (kind : BitVec 3) (wr : Bool) (iva : Nat) (s : State) : State :=
  modMtu i (fun m =>
    if m.faultValid then { m with faultCount := satInc m.faultCount }
    else { m with faultValid := true, faultKind := kind, faultWrite := wr, faultCount := satInc m.faultCount,
                  faultSource := BitVec.ofNat 10 src, faultAddr := BitVec.ofNat 64 iva }) s

/-! ### Bytes at a target -/

/-- Store bytes at a DPA that lie in one line, without poison or errors being looked at. -/
def putDpa (a : Nat) (data : List Byte) (s : State) : State :=
  { s with mem := { s.mem with dpa := Memory.write 0 s.mem.dpa a data } }

/-- Poison a line (R388). -/
def poisonLine (l : Nat) (s : State) : State :=
  { s with mem := { s.mem with poisoned := addLine s.mem.poisoned l, latent := s.mem.latent.filter fun e => e.1 ≠ l } }

/-- A posted write to host memory (R78, R108). -/
def putHost (a : Nat) (data : List Byte) (pois : Bool) (s : State) : State :=
  let ls := (chunks a data.length).map fun c => c.1 / 64
  let hp := if pois then ls.foldl addLine s.mem.hostPoisoned else ls.foldl delLine s.mem.hostPoisoned
  emit (.hostWrite a data pois)
    { s with mem := { s.mem with host := Memory.write 0 s.mem.host a data, hostPoisoned := hp } }

/-- Severity of an event (R536). -/
def severity (event : Nat) : Byte :=
  if event = 0x0A06 then 3
  else if event = 0x0220 ∨ event = 0x0A02 ∨ event = 0x0A03 ∨ event = 0x0A05 ∨ event = 0x0100 ∨ event = 0x0901 ∨
      event = 0x0523 then 0
  else 2

/-- The 32 bytes of an error log entry (R534). -/
def logBytes (s : State) (seq : Word) (event inst : Nat) (addr : Nat) (detail unit : Nat) : List Byte :=
  leBytes 4 seq.toNat ++ leBytes 2 event ++ [severity event] ++ leBytes 1 inst ++ leBytes 8 s.eph.now.toNat ++
    leBytes 8 addr ++ leBytes 4 detail ++ leBytes 2 unit ++ leBytes 1 s.eph.timeEpoch.toNat ++ [0]

/-- The address of the slot of a log ring that seq names (R534). -/
def logSlot (r : LogRing) : Nat := bits r.base 63 12 * 4096 + (r.seq.toNat - 1) % 2 ^ r.log2.toNat * 32

/-- Lines, of the addresses given, that hold an uncorrectable error not found yet. -/
def badLines (as : List Nat) (s : State) : List Nat :=
  ((as.map fun a => a / 64).filter fun l => s.mem.latent.any fun e => e.1 = l && e.2).dedup

/-- Lines in which a request finds an uncorrectable error are poisoned, and Nucleus will walk for their owners (R388,
R391). -/
def poisonFound (ls : List Nat) (s : State) : State :=
  ls.foldl (fun s l => let s := poisonLine l s
                       { s with mem := { s.mem with found := s.mem.found ++ [(l, false)] } }) s

/-- Count an event of the buffer manager and latch it if none is latched (R398, R400, R420): 1 DOUBLE_FREE, 2 FOREIGN_FREE,
3 BAD_HANDLE, 4 BAD_ACCESS. -/
def bfmCount (kind : BitVec 3) (i holder : InstId) (h : Word) (s : State) : State :=
  let b := s.bfm
  let b :=
    if kind = 1 then { b with doubleFree := satInc b.doubleFree }
    else if kind = 2 then { b with foreignFree := satInc b.foreignFree }
    else if kind = 3 then { b with badHandle := satInc b.badHandle }
    else { b with badAccess := satInc b.badAccess }
  let b := if b.evtValid then b
           else { b with evtValid := true, evtKind := kind, evtHolder := BitVec.ofNat 6 holder.val,
                         evtInst := BitVec.ofNat 6 i.val, evtHandle := h }
  { s with bfm := b }

/-- An entry of an error log ring that is to be made. -/
structure LogItem where
  ring : InstId
  event : Nat
  inst : Nat
  addr : Nat
  detail : Nat
  unit : Nat
  deriving DecidableEq, Repr

/-- The entry of a line found poisoned by a read (R391). -/
def foundItem (l : Nat) : LogItem := ⟨0, 0x0500, 0xFF, 64 * l, 0, 0xFFFF⟩

/-- Write one entry to ring i; answers the MTU fault kind of a failed write, 7 for a channel out of service (R533, R534,
R544), and the entries that the write itself calls for: of lines it finds uncorrectable (R390, R391), and of an access to
a port of an aperture (R398). The message follows under R535. -/
def logWrite (i : InstId) (event inst addr detail unit : Nat) (s : State) : Option (BitVec 3) × List LogItem × State :=
  let r := s.nuc.logs[i.val]
  if !r.enable then (none, [], s)
  else
    let a := logSlot r
    match translate i .write a s with
    | (.error k, s) =>
      let ls := if k = 4 then badLines (tableEntries s.mtu[i.val] s a) s else []
      (some k, ls.map foundItem, recordFault i 610 k true a (poisonFound ls s))
    | (.ok t, s) =>
      let data := logBytes s r.seq event inst addr detail unit
      let go (s : State) : State :=
        let s := modLog i (fun r => { r with seq := if r.seq + 1 = 0 then 1 else r.seq + 1,
                                             suppressed := r.suppressed || r.quiet, quiet := true }) s
        if r.quiet then s else msix i r.vector s
      match t with
      | .host h => (none, [], go (putHost h data false s))
      | .dpa d =>
        (match regionOf s d with
         | .aperture _ off =>
           if off / 8 < 2 then
             (none, (if i.val = 0 then [] else [⟨i, 0x0514, i.val, 0, 0, 0xFFFF⟩]) ++ [⟨0, 0x0514, i.val, 0, 0, 0xFFFF⟩],
               go (bfmCount 4 i 0 (BitVec.allOnes 32) s))
           else (none, [], go s)
         | _ =>
           if channelOut s d then (some 7, [], s)
           else
             let ls := badLines [d] s
             (none, ls.map foundItem, go (putDpa d data (fixLine d (poisonFound ls s)))))

/-- A ring whose write failed sets log_fault; one that is not the PF's is disabled too (R544; log entry 12). -/
def logFails (i : InstId) (s : State) : State :=
  modLog i (fun r => { r with logFault := true, enable := r.enable && i.val = 0 }) s

/-- Make entries, each followed by those that its own write calls for; a failed write to a ring that is not the PF's is
logged to the PF ring (R544). The fuel bounds how many entries come of one. -/
def logItems : Nat → List LogItem → State → State
  | _, [], s => s
  | 0, _ :: _, s => s
  | n + 1, x :: t, s =>
    match logWrite x.ring x.event x.inst x.addr x.detail x.unit s with
    | (none, more, s) => logItems n (more ++ t) s
    | (some k, more, s) =>
      let s := logFails x.ring s
      logItems n ((if x.ring.val = 0 then []
        else [⟨0, 0x0300 + k.toNat, x.ring.val, logSlot s.nuc.logs[x.ring.val], 610, 0xFFFF⟩]) ++ more ++ t) s

/-- Log to the ring of an instance. A write finds at most the errors that lines hold, and at most one entry of each ring
lies on the ports of an aperture. -/
def logOne (i : InstId) (event inst addr detail unit : Nat) (s : State) : State :=
  logItems (s.mem.latent.length + 8) [⟨i, event, inst, addr, detail, unit⟩] s

/-- Log to the PF ring. -/
def logPf (event inst addr detail unit : Nat) (s : State) : State := logOne 0 event inst addr detail unit s

/-- Log to the ring of an instance and to the PF ring; one entry where the instance is 0 (R533). -/
def logBoth (i : InstId) (event addr detail unit : Nat) (s : State) : State :=
  let s := if i.val = 0 then s else logOne i event i.val addr detail unit s
  logPf event i.val addr detail unit s

/-! ### Requests to memory (R237, R387 to R391, R394, R417) -/

/-- What is found in a line that a request reads (R387): a correctable error is counted and written back, an
uncorrectable one poisons the line and is logged (R388, R391). -/
def findErrors (a : Nat) (s : State) : State :=
  match badLines [a] s with
  | [] => fixLine a s
  | ls => logPf 0x0500 0xFF (a / 64 * 64) 0 0xFFFF (poisonFound ls s)

/-- An event of the buffer manager: counted, and logged to the instance and the PF (R398, R400, R420, R536). -/
def bfmEvent (kind : BitVec 3) (i holder : InstId) (h : Word) (s : State) : State :=
  logBoth i (0x0510 + kind.toNat) 0 0 0xFFFF (bfmCount kind i holder h s)

/-- What a walk meets in its table lines when it fails: an error of a line is found (R391), and a port of an aperture that
it read counts as a bad access (R398). -/
def walkMeets (i : InstId) (a : Nat) (s : State) : State :=
  match regionOf s a with
  | .aperture _ off => if off / 8 < 2 then bfmEvent 4 i 0 (BitVec.allOnes 32) s else s
  | .hole => s
  | _ => findErrors a s

/-- A translation fault: recorded and logged to the instance and the PF (R126, R150, R589). -/
def mtuFault (i : InstId) (src : Nat) (kind : BitVec 3) (wr : Bool) (iva : Nat) (s : State) : State :=
  let s := recordFault i src kind wr iva s
  let s := if kind = 4 || kind = 0 then (tableEntries s.mtu[i.val] s iva).foldl (fun s a => walkMeets i a s) s else s
  logBoth i (0x0300 + kind.toNat) iva src 0xFFFF s

/-- What a read of ALLOC or FREE that does not act on the port returns: 0xFFFF_FFFF, in the low half of each where it covers
more (R398). -/
def portOnes (off n : Nat) : List Byte :=
  (List.range n).map fun i => if n ≤ 4 || ((off + i) / 8 < 2 && (off + i) % 8 < 4) then 0xFF else 0

/-- The answer of a read. -/
structure RdRes where
  err : Option AccErr
  data : List Byte
  poison : Bool
  s : State

/-- Read from a target that lies in one line (R389, R398, R417). An aperture answers as R398 says for an
access that is no core load and no BAR window access. -/
def readTarget (i : InstId) (t : Target) (n : Nat) (s : State) : RdRes :=
  match t with
  | .host a => ⟨none, Memory.read 0 s.mem.host a n, s.mem.hostPoisoned.contains (a / 64), s⟩
  | .dpa a =>
    match regionOf s a with
    | .aperture _ off =>
      if off / 8 < 2 then
        ⟨none, portOnes off n, false, bfmEvent 4 i 0 (BitVec.allOnes 32) s⟩
      else ⟨none, List.replicate n 0, false, s⟩
    | _ =>
      if channelOut s a then ⟨some .engine, [], false, s⟩
      else
        let s := findErrors a s
        ⟨none, Memory.read 0 s.mem.dpa a n, linePoisoned s a, s⟩

/-- Write to a target that lies in one line (R390): a whole line clears poison; part of a line keeps it. -/
def writeTarget (i : InstId) (t : Target) (data : List Byte) (pois : Bool) (s : State) : Option AccErr × State :=
  match t with
  | .host a => (none, putHost a data pois s)
  | .dpa a =>
    match regionOf s a with
    | .aperture _ off =>
      (none, if off / 8 < 2 then bfmEvent 4 i 0 (BitVec.allOnes 32) s else s)
    | _ =>
      if channelOut s a then (some .engine, s)
      else
        let l := a / 64
        if data.length = 64 then
          let s := { s with mem := { s.mem with poisoned := delLine s.mem.poisoned l,
                                                latent := s.mem.latent.filter fun e => e.1 ≠ l } }
          let s := putDpa a data s
          (none, if pois then poisonLine l s else s)
        else
          let s := putDpa a data (findErrors a s)
          (none, if pois then poisonLine l s else s)

/-- Who makes a request: the instance whose context it uses, the source number of MTU_FAULT_INFO, and the
generation it carries (R119, R153). -/
structure Who where
  inst : InstId
  src : Nat
  gen : BitVec 16
  deriving DecidableEq, Repr

/-- The request carries the instance's current generation (R120). -/
def current (w : Who) (s : State) : Bool := s.inst[w.inst.val].gen = w.gen

/-- One read request in one line (R120, R121, R126). -/
def readLine (w : Who) (acc : Access) (iva n : Nat) (s : State) : RdRes :=
  if !current w s then ⟨some .stale, [], false, s⟩
  else
    match translate w.inst acc iva s with
    | (.error k, s) => ⟨some (.mtu k), [], false, mtuFault w.inst w.src k (acc != .read) iva s⟩
    | (.ok t, s) => readTarget w.inst t n s

/-- One write request in one line; an old generation is discarded and counted (R120, R126). -/
def writeLine (w : Who) (iva : Nat) (data : List Byte) (pois : Bool) (s : State) : Option AccErr × State :=
  if !current w s then
    (some .stale, modMtu w.inst (fun m => { m with suppressed := m.suppressed + 1 }) s)
  else
    match translate w.inst .write iva s with
    | (.error k, s) => (some (.mtu k), mtuFault w.inst w.src k true iva s)
    | (.ok t, s) => writeTarget w.inst t data pois s

/-- Read the requests of a list in order, stopping at the first that fails (R126, R243). -/
def readChunks (w : Who) : List (Nat × Nat) → RdRes → RdRes
  | [], r => r
  | (a, n) :: t, r =>
    match readLine w .read a n r.s with
    | ⟨some e, _, _, s⟩ => ⟨some e, r.data, r.poison, s⟩
    | ⟨none, d, p, s⟩ => readChunks w t ⟨none, r.data ++ d, r.poison || p, s⟩

/-- Read `len` bytes from an IVA. -/
def readIva (w : Who) (iva len : Nat) (s : State) : RdRes := readChunks w (chunks iva len) ⟨none, [], false, s⟩

/-- Write the requests of a list in order; answers the failure, and how many bytes were written. Of an old generation each
request is discarded and counted (R120). -/
def writeChunks (w : Who) (pois : Bool) : List (Nat × Nat) → List Byte → Nat → State → Option AccErr × Nat × State
  | [], _, done, s => (none, done, s)
  | (a, n) :: t, data, done, s =>
    match writeLine w a (data.take n) pois s with
    | (some .stale, s) => (some .stale, done, (writeChunks w pois t (data.drop n) done s).2.2)
    | (some e, s) => (some e, done, s)
    | (none, s) => writeChunks w pois t (data.drop n) (done + n) s

/-- Write bytes to an IVA. -/
def writeIva (w : Who) (iva : Nat) (data : List Byte) (pois : Bool) (s : State) : Option AccErr × Nat × State :=
  writeChunks w pois (chunks iva data.length) data 0 s

/-- Put an error that the command finds into the line that holds it (log entry 13). -/
def upset (err : Option LineErr) (s : State) : State :=
  match err with
  | some e => if e.loc then s else { s with mem := { s.mem with latent := (e.line, e.unc) :: s.mem.latent.filter fun x => x.1 ≠ e.line } }
  | none => s

/-- An engine works: no escalation is resetting it (R129, R151). -/
def engUp (e : Engine) (s : State) : Bool := !s.engReset.contains e

/-! ### Descriptors and records (R85 to R93) -/

/-- Bytes lo to lo + n − 1 of a descriptor, as a number (R85, R89). -/
def dfield (raw : BitVec 512) (lo n : Nat) : Nat := (raw.toNat >>> (8 * lo)) % 2 ^ (8 * n)

def Item.opcode (x : Item) : Nat := dfield x.raw 0 1
def Item.noShed (x : Item) : Bool := bit x.raw 18
def Item.order (x : Item) : Bool := bit x.raw 17
def Item.irqNow (x : Item) : Bool := bit x.raw 16
def Item.tag (x : Item) : Word := BitVec.ofNat 32 (dfield x.raw 4 4)
def Item.release (x : Item) : Rts := BitVec.ofNat 64 (dfield x.raw 8 8)
def Item.deadline (x : Item) : Rts := BitVec.ofNat 64 (dfield x.raw 16 8)

/-- The engine type of an opcode (R135). -/
def engType (op : Nat) : Option (Fin 4) :=
  if op = 1 then some 0 else if op = 2 ∨ op = 3 then some 1 else if op = 4 ∨ op = 5 then some 2
  else if op = 6 then some 3 else none

/-- The status of the first outcome in the order of R93. -/
def statusOf (o : Outcomes) : BitVec 8 :=
  if o.engineFault then 0x22 else if o.fabricUnreach then 0x21 else if o.invalid then 0x10
  else if o.xlateFault then 0x11 else if o.align then 0x12 else if o.coreFault then 0x14
  else if o.shed then 0x08 else if o.shedEarly then 0x09 else if o.poison then 0x13
  else if o.orphan then 0x04 else if o.degraded then 0x02 else if o.inx then 0x03
  else if o.late then 0x01 else 0x00

/-- The status's Effects column reads None or partial, or Partial (R92). -/
def mayBePartial (st : BitVec 8) : Bool :=
  st = 0x08 || st = 0x11 || st = 0x14 || st = 0x20 || st = 0x21 || st = 0x22

/-- The cond field (R91 to R93). -/
def condOf (o : Outcomes) (st : BitVec 8) (ringLevel holdover : Bool) : BitVec 16 :=
  BitVec.ofNat 16 (b2n o.late + 2 * b2n o.inx + 4 * b2n o.degraded + 8 * b2n o.orphan + 16 * b2n o.poison +
    32 * b2n (mayBePartial st && o.effect) + 64 * b2n ringLevel + 128 * b2n holdover)

/-- The present moment. -/
def stampNow (s : State) : Stamp :=
  { rts := s.eph.now, ticks := s.eph.ticks, unlocked := s.eph.st != .locked, epoch := s.eph.timeEpoch }

/-- The last effect of a descriptor, or the decision now where it has had none (R91). -/
def doneAt (x : Item) (s : State) : Stamp := x.last.getD (stampNow s)

/-- The record of an ended descriptor (R91). -/
def recOf (x : Item) (s : State) : Rec :=
  let st := statusOf x.out
  let t := doneAt x s
  { tag := x.tag, status := st, sq := x.sq, cond := condOf x.out st false t.unlocked
    doneRts := t.rts, result := x.result, opcode := BitVec.ofNat 8 x.opcode, timeEpoch := t.epoch
    irqNow := x.irqNow, item := some x.id, sqHead := none }

/-- The step of an estimator towards a sample: an eighth of the difference, rounded away from zero
(R138). -/
def estStep (v sample : Nat) : Nat :=
  if v ≤ sample then v + (sample - v + 7) / 8 else v - (v - sample + 7) / 8

/-- Count a completion in its type's estimator: completions in the window and service times but for SHED and
SHED_EARLY (R138), completions since READY whatever their status (R139). -/
def estComplete (x : Item) (st : BitVec 8) (s : State) : State :=
  match engType x.opcode with
  | none => s
  | some t =>
    modInst x.inst (fun i => { i with est := upd i.est t fun e =>
      let e := { e with sinceReady := e.sinceReady + 1 }
      if st = 0x08 || st = 0x09 then e
      else
        let e := { e with inWindow := e.inWindow + 1 }
        if x.stage = .running then
          { e with svc := satNat 32 (estStep e.svc.toNat (((doneAt x s).ticks - x.startAt) * 256)) }
        else e }) s

/-- Ready descriptors of an instance: its backlog (04_instances.md, Scheduling). -/
def backlog (i : InstId) (s : State) : Nat :=
  (s.items.filter fun x => x.inst = i ∧ x.stage = .ready).length

/-- Pressure follows the held SQs and the millisecond after a SHED_EARLY; a rise is seen, signalled, and
logged at most once per 100 ms (R143). -/
def pressureUpdate (i : InstId) (s : State) : State :=
  let x := s.inst[i.val]
  let p := x.shedPressure || x.sq.toList.any (fun q => q.busy)
  if p && !x.pressure then
    let s := modInst i (fun x => { x with pressure := true, pressureSeen := true }) s
    let s := if x.pressureIrqEn then msix i x.pressureVec s else s
    let quiet := match x.pressureLog with
      | none => false
      | some t => s.eph.ticks < t + usTicks 100000
    if quiet then s
    else
      logPf 0x0220 i.val 0 (backlog i s) 0xFFFF (modInst i (fun x => { x with pressureLog := some s.eph.ticks }) s)
  else modInst i (fun x => { x with pressure := p }) s

/-- Admission (R141): at hw the SQs of classes 1 to 3 are held, at lw they are let go. -/
def admission (i : InstId) (s : State) : State :=
  let x := s.inst[i.val]
  let n := backlog i s
  let set (b : Bool) (s : State) : State :=
    modInst i (fun x => { x with sq := x.sq.map fun q =>
      { q with busy := if q.st = .disabled || q.cls = 0 then false else b } }) s
  if x.hw.toNat ≤ n then pressureUpdate i (set true s)
  else if n ≤ x.lw.toNat then pressureUpdate i (set false s)
  else pressureUpdate i s

/-- The status's Effects column reads All (R92). -/
def allEffects (st : BitVec 8) : Bool :=
  st = 0x00 || st = 0x01 || st = 0x02 || st = 0x03 || st = 0x04 || st = 0x13

/-- A descriptor's deadline is not later than its release, so that it passes before the start (R45). -/
def beforeRelease (x : Item) : Bool :=
  x.release != 0 && x.deadline != 0 && (rtsNorm x.deadline).toNat ≤ (rtsNorm x.release).toNat

/-- The last effect, if there is one, comes after the deadline (R44, R45, R92). EVENT and CAPTURE do not use the deadline
that way (R90, R495). -/
def endsLate (x : Item) (o : Outcomes) (at_ : Rts) : Bool :=
  x.opcode != 8 && x.opcode != 7 && (o.effect || allEffects (statusOf o)) && (beforeRelease x || passed x.deadline at_)

/-- A descriptor as it ends: its result, the outcomes that `f` adds, and LATE where its last effect was late. -/
def endedItem (x : Item) (result : Dword) (f : Outcomes → Outcomes) (s : State) : Item :=
  let o := f x.out
  { x with out := { o with late := o.late || endsLate x o (doneAt x s).rts }, result := result }

/-- End a descriptor: its work met the outcomes that `f` adds, and its record becomes due (R79, R94). One that an instance
reset has taken over keeps what it met for its ABORT_RESET record (R130). -/
def endItem (d : Nat) (result : Dword) (f : Outcomes → Outcomes) (s : State) : State :=
  match findItem d s with
  | none => s
  | some x =>
    if x.stage = .ended then s
    else
      let x' := endedItem x result f s
      if x.resetHead.isSome then modItem d (fun _ => x') s
      else
        let s := estComplete x' (statusOf x'.out) s
        let s := modItem d (fun _ => { x' with stage := .ended }) s
        admission x.inst (modCq x.inst x.cq (fun q => { q with due := q.due ++ [recOf x' s] }) s)

/-- End a descriptor whose work gave no result: the result stays as acceptance set it (R89). -/
def endEarly (d : Nat) (f : Outcomes → Outcomes) (s : State) : State :=
  match findItem d s with
  | none => s
  | some x => endItem d x.result f s

/-- A request of a descriptor failed: what status that gives (R126, R417); one that carries an old
generation ends nothing, for the reset has taken the descriptor over (R129). -/
def errOutcome (e : AccErr) (o : Outcomes) : Outcomes :=
  match e with
  | .mtu _ => { o with xlateFault := true }
  | .engine => { o with engineFault := true }
  | .stale => o

/-- Mark that an effect of a descriptor took place. -/
def effect (o : Outcomes) : Outcomes := { o with effect := true }

/-- An effect of a descriptor takes place now (R44). -/
def noteEffect (d : Nat) (s : State) : State :=
  modItem d (fun x => { x with out := effect x.out, last := some (stampNow s) }) s

/-! ### Raising status bits -/

/-- An event of Ephemeris (R61): its bit sets, the PF ring gets an entry, an enabled bit interrupts. -/
def ephRaise (n : Nat) (addr detail : Nat) (s : State) : State :=
  let s := { s with eph := { s.eph with intStatus := s.eph.intStatus ||| (1#7 <<< n) } }
  let s := logPf (0x0100 + n) 0xFF addr detail 0xFFFF s
  if bit s.eph.intEn n then pfIrq s else s

/-- A Halo event (R443). -/
def haloRaise (n : Nat) (s : State) : State :=
  let s := { s with halo := { s.halo with intStatus := s.halo.intStatus ||| (1#8 <<< n) } }
  let s := logPf (0x0800 + n) 0xFF 0 0 0xFFFF s
  if bit s.halo.intEn n then pfIrq s else s

/-- A Tide event (R446, R536). -/
def tideRaise (n : Nat) (s : State) : State :=
  let s := { s with tide := { s.tide with intStatus := s.tide.intStatus ||| (1#4 <<< n) } }
  let s := logPf (0x0810 + n) 0xFF 0 0 0xFFFF s
  if bit s.tide.intEn n then pfIrq s else s

/-- A fabric event (R484). -/
def fabRaise (n : Nat) (detail : Nat) (s : State) : State :=
  let s := { s with fab := { s.fab with intStatus := s.fab.intStatus ||| (1#8 <<< n) } }
  let s := logPf (0x0900 + n) 0xFF 0 detail 0xFFFF s
  if bit s.fab.intEn n then pfIrq s else s

/-- A sample-port event, logged to the owner instance and the PF (R515). -/
def spRaise (n : Nat) (owner : Option InstId) (s : State) : State :=
  let s := { s with sp := { s.sp with intStatus := s.sp.intStatus ||| (1#5 <<< n) } }
  let s := match owner with
    | some i => logBoth i (0x0600 + n) 0 0 0xFFFF s
    | none => logPf (0x0600 + n) 0xFF 0 0 0xFFFF s
  if bit s.sp.intEn n then pfIrq s else s

/-- A bit of INST_RING_ERR with the ring it names, logged to the instance and the PF (R110, R113, R589). -/
def ringErr (i : InstId) (n : Nat) (isCq : Bool) (q : Fin 16) (s : State) : State :=
  let s := modInst i (fun x => { x with err := { lastIsCq := isCq, lastRing := q, bits := x.err.bits ||| (1#6 <<< n) } }) s
  logBoth i (0x0200 + n) 0 (q.val + 16 * b2n isCq) 0xFFFF s

/-- Nucleus takes a fault report (R525): the entry becomes OUT, UNIT_FAULT is logged. -/
def faultTaken (u : Fin 622) (cause : Byte) (s : State) : State :=
  let s := modUnit u (fun x => { x with tbl := true, st := 3, cause := cause, faults := satInc x.faults, bySet := false }) s
  logPf 0x0A00 0xFF 0 0 u.val s

/-- A unit reports a fault (R525): its fence closes in the same cycle, whatever Nucleus does; a check of the unit
fails (R539); Nucleus takes the report at once, or once it has restarted (R542). -/
def unitFault (u : Fin 622) (cause : Byte) (s : State) : State :=
  let s := modUnit u (fun x => { x with fence := true }) s
  let s := { s with nuc := { s.nuc with job := s.nuc.job.map fun (j : NucJob) => if j.unit = u then { j with failed := true } else j } }
  if s.nuc.restarting then { s with nuc := { s.nuc with pendFaults := s.nuc.pendFaults ++ [(u, cause)] } }
  else faultTaken u cause s

/-! ### Core exceptions (R183, R184, R220) -/

/-- Cause codes (R183). -/
def causeCode : Cause → Byte
  | .illegal => 1 | .localRange => 2 | .localAlign => 3 | .xlate => 4 | .poison => 5 | .msgRange => 6
  | .binRange => 7 | .arrayOff => 8 | .mbxPtr => 9 | .unit => 10 | .fabric => 11

/-- The partition whose rectangle holds a core (R115). -/
def partOf (c : CoreId) (s : State) : Option (Fin 64) :=
  (List.finRange 64).find? fun n =>
    let p := s.parts[n.val]
    p.valid && p.gx0.toNat ≤ coreX c && coreX c < p.gx0.toNat + p.width.toNat &&
      p.gy0.toNat ≤ coreY c && coreY c < p.gy0.toNat + p.height.toNat

/-- The cores of a partition, in ascending core number. -/
def coresOf (n : Fin 64) (s : State) : List CoreId :=
  let p := s.parts[n.val]
  (List.finRange 576).filter fun c =>
    p.valid && p.gx0.toNat ≤ coreX c && coreX c < p.gx0.toNat + p.width.toNat &&
      p.gy0.toNat ≤ coreY c && coreY c < p.gy0.toNat + p.height.toNat

/-- The instance a core works for: the owner of its partition. -/
def coreInst (c : CoreId) (s : State) : InstId :=
  match partOf c s with
  | some n => s.parts[n.val].owner
  | none => 0

/-! Words, fill, open and closed of a mailbox (R166, R179). -/

/-- Words of 64 bytes that a message occupies. -/
def msgWords (n : Nat) : Nat := (n + 63) / 64

/-- Words held and granted (R166). -/
def mboxFill (m : Mbox) : Nat := (m.msgs.map fun x => msgWords x.data.length).sum + (m.granted.map Resv.words).sum

/-- Closed at hw, open again at lw (R166). -/
def mboxLevel (m : Mbox) : Mbox :=
  let f := mboxFill m
  if m.hw.toNat ≤ f then { m with closed := true } else if f ≤ m.lw.toNat then { m with closed := false } else m

/-- Grant waiting reservations in order while the mailbox is open and has room (R165, R166); a mailbox of a
core that is not RUNNING grants all of them (R171). -/
def mboxGrant (running : Bool) : Nat → Mbox → Mbox
  | 0, m => m
  | n + 1, m =>
    match m.waiting with
    | [] => m
    | r :: t =>
      if !running then mboxGrant running n { m with waiting := t, granted := m.granted ++ [r] }
      else if !m.closed && mboxFill m + r.words ≤ 64 then
        mboxGrant running n (mboxLevel { m with waiting := t, granted := m.granted ++ [r] })
      else m

/-- A core stops issue and enters FAULTED (R184), and its mailboxes grant every reservation (R171). -/
def faultCore (cause : Cause) (pc : BitVec 17) (glob : Bool) (addr : Dword) (k : Core) : Core :=
  { k with st := .faulted, stall := .none, faultValid := true, faultGlobal := glob, faultCause := causeCode cause
           faultPc := pc, faultAddr := addr, mbox := k.mbox.map fun m => mboxGrant false m.waiting.length m }

/-- A fault of a core now is the first of its partition's program: ties in a tick go to the lowest core (R162). -/
def faultsFirst (p : Part) (c : CoreId) (now : Nat) : Bool :=
  match p.firstFault with
  | none => true
  | some o => p.faultAt = now && c.val < o.val

/-- A core raises an exception, as far as itself and the log go (R184): it stops issue, enters FAULTED, and records
cause, pc and address; the event is logged to the owner and the PF. A core that is not RUNNING raises none. -/
def raiseOne (c : CoreId) (cause : Cause) (pc : BitVec 17) (glob : Bool) (addr : Dword) (s : State) : State :=
  if s.cores[c.val].st = .running then
    let s := modCore c (faultCore cause pc glob addr) s
    let s := match partOf c s with
      | none => s
      | some n => modPart n (fun p =>
          if faultsFirst p c s.eph.ticks then
            { p with firstFault := some c, faultAt := s.eph.ticks, fabricFirst := cause = .fabric }
          else p) s
    logBoth (coreInst c s) (0x0400 + (causeCode cause).toNat) addr.toNat 0 c.val s
  else s

/-- The cycle in which an instruction issues is counted in cycles and issue (R176). -/
def countIssue (c : CoreId) (s : State) : State :=
  modCore c (fun k =>
    if k.ctrFreeze then k
    else { k with cnt := upd (upd k.cnt 0 (· + 1)) 1 (· + 1), arrCnt := upd k.arrCnt 4 (· + 1) }) s

/-- The core has arrived at barrier b or no longer runs (R172). -/
def atBarrier (b : Fin 4) (k : Core) : Bool := k.st != .running || bit k.arrived b.val

/-- Release one core that waits at barrier b: it goes on after its BAR (R172, R195). -/
def barRelease (b : Fin 4) (c : CoreId) (s : State) : State :=
  let k := s.cores[c.val]
  if k.stall = .bar b then
    let s := countIssue c (modCore c (fun k => { k with stall := .none, arrived := k.arrived &&& ~~~(1#4 <<< b.val) }) s)
    if k.pc.toNat + 8 < 0x20000 then modCore c (fun k => { k with pc := k.pc + 8 }) s
    else raiseOne c .localRange k.pc false 0x20000 s
  else s

/-- Barrier b releases every core of the partition that waits at it once each has arrived or no longer runs (R172). -/
def barCheck (n : Fin 64) (b : Fin 4) (s : State) : State :=
  let cs := coresOf n s
  if cs.all fun c => atBarrier b s.cores[c.val] then cs.foldl (fun s c => barRelease b c s) s else s

/-- Look at the four barriers of a partition. A core that leaves one may end at the last instruction, and so complete
another: each round but the last releases one at least. -/
def barriers (n : Fin 64) (s : State) : State :=
  (List.range 4).foldl (fun s _ => (List.finRange 4).foldl (fun s b => barCheck n b s) s) s

/-- A core has left RUNNING: the barriers of its partition are looked at (R172). -/
def leftRunning (c : CoreId) (s : State) : State :=
  match partOf c s with
  | some n => barriers n s
  | none => s

/-- A core raises an exception (R184); it is no longer RUNNING, so a barrier may be complete (R172). -/
def raiseAt (c : CoreId) (cause : Cause) (pc : BitVec 17) (glob : Bool) (addr : Dword) (s : State) : State :=
  if s.cores[c.val].st = .running then leftRunning c (raiseOne c cause pc glob addr s) else s

/-- A precise exception: pc names the instruction at the core's pc (R220). -/
def raise (c : CoreId) (cause : Cause) (glob : Bool) (addr : Dword) (s : State) : State :=
  raiseAt c cause s.cores[c.val].pc glob addr s

/-- The identity under which a core makes global requests (R119). -/
def coreWho (c : CoreId) (s : State) : Who :=
  { inst := coreInst c s, src := c.val, gen := s.cores[c.val].gen }

/-- The exception that a failed global request of a core raises, if any (R417, R222). -/
def accCause : AccErr → Option Cause
  | .mtu _ => some .xlate
  | .engine => some .unit
  | .stale => none

end Sys2Proof.Machine
end

