-- ==== Sys2Proof/Machine/Operands.lean ====
section
/-! DEFINITION. Operands of core instructions: registers, guards, when an instruction is legal and may issue,
local memory, and how the pc moves on (05_cores.md, 06_isa.md). -/

namespace Sys2Proof.Machine

open Sys2Proof

/-! ### Registers (R188) -/

/-- Scalar register r; s0 reads 0. -/
def sreg (k : Core) (r : BitVec 5) : Dword := if r = 0 then 0 else k.s[r.toNat]'r.isLt

/-- Vector register r. -/
def vreg (k : Core) (r : BitVec 5) : BitVec 512 := k.v[r.toNat]'r.isLt

/-- Predicate register r. -/
def preg (k : Core) (r : BitVec 3) : BitVec 16 := k.p[r.toNat]'r.isLt

/-- Write scalar register r; a write to s0 is discarded. -/
def setS (c : CoreId) (r : BitVec 5) (v : Dword) (s : State) : State :=
  if r = 0 then s else modCore c (fun k => { k with s := upd k.s ⟨r.toNat, r.isLt⟩ fun _ => v }) s

/-- Write vector register r. -/
def setV (c : CoreId) (r : BitVec 5) (v : BitVec 512) (s : State) : State :=
  modCore c (fun k => { k with v := upd k.v ⟨r.toNat, r.isLt⟩ fun _ => v }) s

/-- Write predicate register r. -/
def setP (c : CoreId) (r : BitVec 3) (v : BitVec 16) (s : State) : State :=
  modCore c (fun k => { k with p := upd k.p ⟨r.toNat, r.isLt⟩ fun _ => v }) s

/-- Set ledger flags; the program's record of them too (R162, R272). -/
def setFlags (c : CoreId) (f : Word) (s : State) : State :=
  modCore c (fun k => { k with flags := k.flags ||| f, everFlags := k.everFlags ||| f }) s

/-! ### The pc and the cycle of issue (R176, R189, R195) -/

/-- Move on to the next instruction; past 0x1_FFF8 the last instruction raises LOCAL_RANGE (R195). -/
def advance (c : CoreId) (s : State) : State :=
  let s := countIssue c s
  if s.cores[c.val].pc.toNat + 8 < 0x20000 then modCore c (fun k => { k with pc := k.pc + 8 }) s
  else raise c .localRange false 0x20000 s

/-- The program of a core writes memory or sends a message (R44). -/
def noteCore (c : CoreId) (s : State) : State := modCore c (fun k => { k with last := some (stampNow s) }) s

/-- Branch to a target: misaligned, or outside instruction memory, it raises (R195, R221). -/
def branchTo (c : CoreId) (t : Int) (link : State → State) (s : State) : State :=
  if t % 8 != 0 then raise c .localAlign false (BitVec.ofInt 64 t) s
  else if t < 0 || (0x20000 : Int) ≤ t then raise c .localRange false (BitVec.ofInt 64 t) s
  else modCore c (fun k => { k with pc := BitVec.ofInt 17 t }) (countIssue c (link s))

/-! ### Guards and issue (R190, R191, R207) -/

/-- A guard field that the encoding allows (R190). -/
def guardOk (g : Guard) : Bool := g.en || (!g.neg && g.p = 0)

/-- The guard lets the instruction execute (R190). -/
def guardPass (g : Guard) (k : Core) : Bool := !g.en || ((preg k g.p).getLsbD 0 != g.neg)

/-- What an instruction needs to issue: registers read or written, a queue with room for so many entries, and the slots
and in-array ledgers that it names (R209). -/
structure Use where
  s : List (BitVec 5) := []
  v : List (BitVec 5) := []
  p : List (BitVec 3) := []
  q : Option QueueId := none
  n : Nat := 1
  slots : List Nat := []
  ledgers : Bool := false
  deriving Repr

/-- The entries of a queue. -/
def queueOf (k : Core) : QueueId → List QEntry
  | .arr => k.arr
  | .spx => k.spx
  | .hac => k.hac
  | .ocu => k.ocu
  | .ni => k.ni

/-- Depth of a queue (R208). -/
def queueDepth : QueueId → Nat
  | .arr => 8
  | .spx => 4
  | .hac => 8
  | .ocu => 4
  | .ni => 32

/-- Places of a queue that are taken: entries, and in the NI requests and messages that it has still to send (R208). -/
def queueUsed (k : Core) : QueueId → Nat
  | .ni => (k.ni.map QEntry.reqs).sum + k.sendBuf.length
  | q => (queueOf k q).length

/-- An instruction before it has still to write one of the slots or ledgers it names: a context image whose answers have
not all come (R209). The other writers and readers of slots do their work as they issue. -/
def slotsAwaited (k : Core) (u : Use) : Bool :=
  k.arr.any fun e =>
    match e.answered with
    | .image f n arrays => (arrays && u.ledgers) || u.slots.any fun i => f ≤ i && i < f + n
    | _ => false

/-- No register has a pending write, the queue has room, and no slot is awaited (R207, R209). -/
def noHazard (k : Core) (u : Use) : Bool :=
  u.s.all (fun r => !bit k.pendS r.toNat) && u.v.all (fun r => !bit k.pendV r.toNat) &&
    u.p.all (fun r => !bit k.pendP r.toNat) &&
    (match u.q with
     | none => true
     | some q => queueUsed k q + u.n ≤ queueDepth q) && !slotsAwaited k u

/-- The front end takes instructions: RUNNING, and not waiting on an earlier one. -/
def canIssue (c : CoreId) (s : State) : Bool :=
  live s && s.cores[c.val].st = .running && s.cores[c.val].stall = .none

/-- The guard predicate has no pending write (R207). -/
def guardReady (g : Guard) (k : Core) : Bool := !g.en || !bit k.pendP g.p.toNat

/-- One core instruction (R190, R191, R207): illegal whatever its guard, a no-op when guarded off, held while
it may not issue, and otherwise its effect. -/
def coreInstr (c : CoreId) (g : Guard) (legal : Bool) (u : Use) (f : State → State) (s : State) : Out :=
  act (canIssue c s) (fun s =>
    let k := s.cores[c.val]
    if !legal || !guardOk g then raise c .illegal false 0 s
    else if !guardReady g k then s
    else if !guardPass g k then advance c s
    else if noHazard k u then f s
    else s) s

/-- Put an entry into a queue and mark its results pending (R207, R213). -/
def enqueue (c : CoreId) (q : QueueId) (e : QEntry) (s : State) : State :=
  modCore c (fun k =>
    let e : QEntry := { e with pc := k.pc }
    let ps := e.sres.foldl (fun (m : BitVec 32) (r : BitVec 5 × Dword) =>
      if r.1 = 0 then m else m ||| (1#32 <<< r.1.toNat)) k.pendS
    let pv := match e.vres with
      | some r => k.pendV ||| (1#32 <<< r.1.toNat)
      | none => k.pendV
    let pp := match e.pres with
      | some r => k.pendP ||| (1#8 <<< r.1.toNat)
      | none => k.pendP
    let k := { k with pendS := ps, pendV := pv, pendP := pp }
    match q with
    | .arr => { k with arr := k.arr ++ [e] }
    | .spx => { k with spx := k.spx ++ [e] }
    | .hac => { k with hac := k.hac ++ [e] }
    | .ocu => { k with ocu := k.ocu ++ [e] }
    | .ni => { k with ni := k.ni ++ [e] }) s

/-- An exception that a unit or the NI reports for the instruction that the front end has just issued
(R220). -/
def raiseUnit (c : CoreId) (cause : Cause) (glob : Bool) (addr : Dword) (s : State) : State :=
  raise c cause glob addr s

/-- Finish the issue of a decoupled instruction: an exception that its unit has raised stops the core at it
(R184, R220). -/
def issued (c : CoreId) (q : QueueId) (e : QEntry) (s : State) : State :=
  if s.cores[c.val].st = .running then advance c (enqueue c q e s) else s

/-! ### Formats (R191, R192) -/

/-- Bits of the control field that may be used; the rest must be 0. -/
def only {w : Nat} (x : BitVec w) (mask : Nat) : Bool := x.toNat &&& mask = x.toNat

/-- A predicate number in a 5-bit field: bits 4:3 must be 0. -/
def isPred (r : BitVec 5) : Bool := bits r 4 3 = 0

/-- The predicate that a 5-bit field names. -/
def predOf (r : BitVec 5) : BitVec 3 := r.truncate 3

/-- The predicate that bits 2:0 of a control field name. -/
def predX {w : Nat} (x : BitVec w) : BitVec 3 := x.truncate 3

/-! ### Local memory (R155 to R157, R198, R387 to R390) -/

/-- Local addresses by region: data memory from 0x2_0000, AccMem from 0x1C_0000. -/
def dataBase : Nat := 0x20000
def accBase : Nat := 0x1C0000
def localEnd : Nat := 0x200000

/-- `n` bytes from a local address. -/
def localBytes (k : Core) (a n : Nat) : List Byte := Memory.read 0 k.mem a n

/-- The lines that a local range touches. -/
def linesOf (a n : Nat) : List Nat := (chunks a n).map fun c => c.1 / 64

/-- A local range holds poison. -/
def localPoison (k : Core) (a n : Nat) : Bool := (linesOf a n).any fun l => k.poisoned.contains l

/-- Write bytes to local memory; a line that is covered whole loses its poison and errors (R390). -/
def localPut (c : CoreId) (a : Nat) (d : List Byte) (s : State) : State :=
  modCore c (fun k =>
    { k with mem := Memory.write 0 k.mem a d
             last := some (stampNow s)
             poisoned := (chunks a d.length).foldl (fun p r => if r.2 = 64 then delLine p (r.1 / 64) else p) k.poisoned
             latent := k.latent.filter fun e => !(chunks a d.length).any fun r => r.2 = 64 && r.1 / 64 = e.1 }) s

/-- A local range lies in data memory. -/
def inData (a n : Nat) : Bool := dataBase ≤ a && a + n ≤ accBase

/-- Put an error into the local line that holds it (log entry 13). -/
def localUpset (c : CoreId) (err : Option LineErr) (s : State) : State :=
  match err with
  | some e =>
    if e.loc then
      modCore c (fun k => { k with latent := (e.line, e.unc) :: k.latent.filter fun x => x.1 ≠ e.line }) s
    else s
  | none => s

/-- A read finds the error of a local line: corrected and counted, or poisoned and logged (R387, R388, R391). -/
def localFound (c : CoreId) (e : Nat × Bool) (s : State) : State :=
  let s := modCore c (fun k => { k with latent := k.latent.filter fun x => x.1 ≠ e.1
                                        poisoned := if e.2 then addLine k.poisoned e.1 else k.poisoned }) s
  if e.2 then logPf 0x0500 0xFF 0 0 c.val s
  else modDie (coreDie c) (fun d => { d with sramCe := satInc d.sramCe }) s

/-- A read of n bytes of local memory at a finds the errors of its lines (R387). -/
def localFind (c : CoreId) (a n : Nat) (s : State) : State :=
  (s.cores[c.val].latent.filter fun e => (linesOf a n).contains e.1).foldl (fun s e => localFound c e s) s

/-! ### What is undefined: abandoned work and data races (R7, R211, R217, R218, R260) -/

/-- Replace the entries of a queue. -/
def setQueue (c : CoreId) (q : QueueId) (es : List QEntry) (s : State) : State :=
  modCore c (fun k =>
    match q with
    | .arr => { k with arr := es }
    | .spx => { k with spx := es }
    | .hac => { k with hac := es }
    | .ocu => { k with ocu := es }
    | .ni => { k with ni := es }) s

/-- Free bytes in a local range (R7, R217). -/
def localUndefined (c : CoreId) (r : Nat × Nat) (s : State) : State :=
  let (v, s) := takeFree (8 * r.2) s
  modCore c (fun k => { k with mem := Memory.write 0 k.mem r.1 (leBytes r.2 v.toNat) }) s

/-- Free values in the in-array ledgers (R260). -/
def arraysUndefined (c : CoreId) (s : State) : State :=
  let (v, s) := takeFree (128 * 256) s
  let (n, s) := takeFree (32 * 256) s
  modCore c (fun k => { k with ledger := Vector.ofFn (fun i : Fin 256 => v.extractLsb' (128 * i.val) 128)
                               foldSteps := Vector.ofFn fun i : Fin 256 => n.extractLsb' (32 * i.val) 32 }) s

/-- Free values in the state of the slots whose data lies in some ranges: run, form and ping-pong, and for one that
configures them the window base (R217). -/
def slotsUndefined (c : CoreId) (config : Bool) (rs : List (Nat × Nat)) (s : State) : State :=
  let (v, s) := takeFree (64 * 64) s
  modCore c (fun k =>
    { k with slots := Vector.ofFn fun n : Fin 64 =>
        let x := k.slots[n.val]
        let f (lo w : Nat) : Nat := (v.extractLsb' (64 * n.val + lo) w).toNat
        if rs.any fun r => r.1 < accBase + 4096 * (n.val + 1) && accBase + 4096 * n.val < r.1 + r.2 then
          { x with run := BitVec.ofNat 32 (f 0 32), form := BitVec.ofNat 2 (f 32 8 % 3), ppActive := f 40 1 = 1
                   fill := f 41 1 = 1, ready := f 42 1 = 1
                   wBase := if config then (f 43 10 : Int) - 512 else x.wBase }
        else x }) s

/-- Free values in the HACC entries (R217). -/
def haccUndefined (c : CoreId) (s : State) : State :=
  let n := s.cores[c.val].hacc.length
  let (v, s) := takeFree (192 * n) s
  modCore c (fun k =>
    { k with hacc := k.hacc.mapIdx fun i (_ : HaccEntry) =>
        ⟨v.extractLsb' (192 * i) 32, v.extractLsb' (192 * i + 32) 128, v.extractLsb' (192 * i + 160) 32⟩ }) s

/-- Instructions that have not completed in queues other than q; for the front end, in every queue. -/
def others (q : Option QueueId) (k : Core) : List QEntry :=
  ([QueueId.arr, .spx, .hac, .ocu, .ni].filter fun x => some x != q).flatMap (queueOf k)

/-- A range shares a byte with n bytes at a. -/
def meets (a n : Nat) (r : Nat × Nat) : Bool := r.1 < a + n && a < r.1 + r.2

/-- An instruction of another queue, not completed, writes some of n bytes of data memory at a (R211). -/
def raced (q : Option QueueId) (k : Core) (a n : Nat) : Bool :=
  (others q k).any fun e => e.wrote.any fun r => r.1 < accBase && meets a n r

/-- An instruction reads some of n bytes of data memory at a. -/
def reads (a n : Nat) (e : QEntry) : Bool := e.read.any (meets a n)

/-- Bytes at a, those that are raced free (R218). -/
def freeRaced (q : Option QueueId) (k : Core) (a : Nat) (d : List Byte) (s : State) : List Byte × State :=
  if raced q k a d.length then
    let (v, s) := takeFree (8 * d.length) s
    (d.mapIdx fun i b => if raced q k (a + i) 1 then BitVec.ofNat 8 (v.toNat >>> (8 * i)) else b, s)
  else (d, s)

/-- A read of n bytes of local memory on behalf of queue q, or of the front end (R211, R218). -/
def localRead (q : Option QueueId) (c : CoreId) (a n : Nat) (s : State) : List Byte × State :=
  freeRaced q s.cores[c.val] a (localBytes s.cores[c.val] a n) s

/-- Free bytes written to global memory on behalf of a core (R7, R218). -/
def globalUndefined (c : CoreId) (r : Nat × Nat) (s : State) : State :=
  let (v, s) := takeFree (8 * r.2) s
  (writeIva (coreWho c s) r.1 (leBytes r.2 v.toNat) false s).2.2

/-- The operands of an instruction that has not completed are overwritten: what it writes and the flags it sets are
undefined (R218). -/
def spoilEntry (c : CoreId) (e : QEntry) (s : State) : QEntry × State :=
  let s := e.wrote.foldl (fun s r => localUndefined c r s) s
  let s := e.gwrote.foldl (fun s r => globalUndefined c r s) s
  let (f, s) := takeFree 6 s
  let s := setFlags c (f.setWidth 32) s
  let s := if e.arrays then arraysUndefined c s else s
  let s := if e.hash then haccUndefined c s else s
  let (v, s) := takeFree (64 * e.sres.length) s
  ({ e with sres := e.sres.mapIdx fun i r => (r.1, v.extractLsb' (64 * i) 64) }, s)

/-- The entries of a queue after those that f names have been spoiled. -/
def spoilList (c : CoreId) (f : QEntry → Bool) : List QEntry → State → List QEntry × State
  | [], s => ([], s)
  | e :: t, s =>
    let p := if f e then spoilEntry c e s else (e, s)
    let r := spoilList c f t p.2
    (p.1 :: r.1, r.2)

/-- Spoil the entries of a queue that f names. -/
def spoilQueue (c : CoreId) (f : QEntry → Bool) (s : State) (q : QueueId) : State :=
  let r := spoilList c f (queueOf s.cores[c.val] q) s
  setQueue c q r.1 r.2

/-- A write to local memory on behalf of queue q, or of the front end: bytes that another queue writes too are free,
and an instruction of another queue that reads some of them is spoiled (R211, R218). -/
def localWrite (q : Option QueueId) (c : CoreId) (a : Nat) (d : List Byte) (s : State) : State :=
  let k := s.cores[c.val]
  let s := if (others q k).any (reads a d.length) then
      ([QueueId.arr, .spx, .hac, .ocu, .ni].filter fun x => some x != q).foldl (spoilQueue c (reads a d.length)) s
    else s
  let r := freeRaced q k a d s
  localPut c a r.1 r.2

end Sys2Proof.Machine
end

