-- ==== Sys2Proof/Machine/Rings.lean ====
section
/-! DEFINITION. Rings, descriptors at acceptance, completion records, readiness and dispatch
(03_rings.md; 04_instances.md, Scheduling). -/

namespace Sys2Proof.Machine

open Sys2Proof

/-! ### Checks at acceptance (R85 to R89) -/

/-- The bytes of the body that each opcode lists (R89); the rest are reserved. -/
def bodyUsed (op : Nat) : Nat :=
  match op with
  | 1 => 53
  | 2 => 47
  | 3 => 45
  | 4 => 55
  | 5 => 45
  | 6 => 53
  | 7 => 39
  | 8 => 36
  | 9 => 26
  | 10 => 27
  | _ => 24

/-- The body fields lie in their ranges (R89, R494). -/
def bodyInRange (inst : InstId) (raw : BitVec 512) : Bool :=
  let f := dfield raw
  match f 0 1 with
  | 0 => true
  | 1 => f 32 4 ≤ 131072 && f 32 4 % 8 = 0 && f 36 4 < 131072 && f 36 4 % 8 = 0 && f 48 4 ≤ 65536 && f 52 1 < 64
  | 2 => 1 ≤ f 40 4 && (f 44 1 < 16 || f 44 1 = 0xFF) && f 45 1 < 2
  | 3 => 1 ≤ f 40 4 && f 40 4 ≤ 65536 && (f 44 1 < 16 || f 44 1 = 0xFF)
  | 4 => 1 ≤ f 48 4 && f 48 4 ≤ 65536 && 1 ≤ f 52 2 && f 52 2 ≤ 256 && f 54 1 < 2
  | 5 => 1 ≤ f 40 4 && f 40 4 ≤ 65536 && f 44 1 < 2
  | 6 => 1 ≤ f 48 4 && 4 ≤ f 52 1 && f 52 1 ≤ 8
  | 7 => 64 ≤ f 32 4 && f 32 4 ≤ 0xFFFFFFC0 && f 32 4 % 64 = 0 && f 36 2 != 0 && f 38 1 < 2 &&
      (f 38 1 = 0 || (f 16 8 != 0 && 128 ≤ f 32 4))
  | 8 => f 24 8 != 0 && f 32 1 < 8 && f 33 1 < 4 && (if f 33 1 = 3 then f 34 2 != 0 else f 34 2 = 0)
  | 9 => true
  | 10 => f 24 2 < 4096 && f 26 1 < 3 && (f 26 1 != 2 || inst.val = 0)
  | _ => false

/-- A descriptor passes the checks made when it is accepted (R87). -/
def descValid (inst : InstId) (raw : BitVec 512) : Bool :=
  dfield raw 0 1 ≤ 10 && dfield raw 1 1 = 1 && dfield raw 2 2 < 8 &&
    raw.toNat >>> (8 * bodyUsed (dfield raw 0 1)) = 0 && bodyInRange inst raw

/-! ### Readiness, admission test, shedding (R96 to R98, R139, R140) -/

/-- The order flag holds a descriptor: an earlier one of its SQ has no record written (R96). -/
def heldByOrder (x : Item) (s : State) : Bool :=
  x.order && s.items.any fun y => y.id < x.id && y.inst = x.inst && y.sq = x.sq

/-- A FENCE holds a descriptor: an earlier one of its SQ has not completed (R97). -/
def heldByFence (x : Item) (s : State) : Bool :=
  s.items.any fun y => y.id < x.id && y.inst = x.inst && y.sq = x.sq && y.opcode = 9 && y.stage != .ended

/-- shed_mode as it applies to a descriptor: no_shed behaves as mode 0, mode 3 as mode 1 (R140). -/
def shedMode (x : Item) (s : State) : Nat :=
  if x.noShed then 0
  else
    let m := s.inst[x.inst.val].shedMode.toNat
    if m = 3 then 1 else m

/-- Other ready descriptors of the type whose class is the same or more urgent: Qt (R139). -/
def queueAhead (x : Item) (s : State) : Nat :=
  (s.items.filter fun y => y.inst = x.inst && y.id != x.id && y.stage = .ready &&
    engType y.opcode == engType x.opcode && y.cls.toNat ≤ x.cls.toNat).length

/-- The predicted finish lies after the deadline: Qt/μt + St + margin, compared exactly (R139). -/
def predictsLate (x : Item) (t : Fin 4) (s : State) : Bool :=
  let i := s.inst[x.inst.val]
  let e := i.est[t.val]
  let r := e.rate.toNat
  let left := rtsLin (rtsNorm x.deadline) - rtsLin s.eph.now
  e.sinceReady ≥ 16 && r != 0 &&
    left * 256 * r < queueAhead x s * secTicks * 256 * 256 + e.svc.toNat * r + i.margin.toNat * 256 * r

/-- A SHED_EARLY sets pressure (R143). -/
def shedEarly (d : Nat) (i : InstId) (s : State) : State :=
  pressureUpdate i (modInst i (fun x => { x with shedPressure := true, shedAt := s.eph.ticks })
    (endEarly d (fun o => { o with shedEarly := true }) s))

/-- A deadline sheds a descriptor that has not started (R98, R135, R140). -/
def shedAtDeadline (x : Item) (s : State) : Bool :=
  (x.stage = .waiting || x.stage = .ready) && x.deadline != 0 && reached x.deadline s.eph.now &&
    shedMode x s != 0 && x.opcode != 7 && x.opcode != 8 && x.opcode != 9 &&
    !(x.stage = .waiting && heldByOrder x s)

/-- A release has come that has not been evaluated (R58). -/
def releasePending (s : State) : Bool :=
  s.items.any fun x => x.stage = .waiting && !x.released && reached x.release s.eph.now

/-- Shed a descriptor at its deadline (R140). -/
def shedNow (d : Nat) (s : State) : State := endEarly d (fun o => { o with shed := true }) s

/-- Once the releases of a tick have been evaluated, the descriptors that became ready in it at or after their deadline
are shed (R58, R139, R146). -/
def shedReady (s : State) : State :=
  if releasePending s then s
  else
    ((s.items.filter fun x => x.stage = .ready && x.readyAt = s.eph.ticks && shedAtDeadline x s).map Item.id).foldl
      (fun s d => shedNow d s) s

/-- The one test of a descriptor that becomes ready (R139, R140); NOP and LOCK_ADMIN, which no estimator serves, are judged
by their deadline alone (R45, R146). -/
def readyTest (d : Nat) (s : State) : State :=
  match findItem d s with
  | none => s
  | some x =>
    if shedAtDeadline x s then shedReady s
    else
      match engType x.opcode with
      | none => s
      | some t =>
        if x.deadline != 0 && !reached x.deadline s.eph.now && shedMode x s = 2 && predictsLate x t s then
          shedEarly d x.inst s
        else s

/-- The estimator of a descriptor's type sees work in its window (R138). -/
def estWork (x : Item) (s : State) : State :=
  match engType x.opcode with
  | none => s
  | some t => modInst x.inst (fun i => { i with est := upd i.est t fun e => { e with worked := true } }) s

/-- A descriptor becomes ready; a FENCE then starts at once (R135). -/
def makeReady (d : Nat) (s : State) : State :=
  match findItem d s with
  | none => s
  | some x =>
    if x.stage = .waiting && x.released && !heldByOrder x s && !heldByFence x s then
      let st := if x.opcode = 9 then Stage.running else Stage.ready
      let s := modItem d (fun x => { x with stage := st, readyAt := s.eph.ticks, readyNo := s.nextReady
                                            startAt := s.eph.ticks, started := x.opcode = 9 }) (estWork x s)
      admission x.inst (readyTest d { s with nextReady := s.nextReady + 1 })
    else s

/-- Every descriptor of an instance that nothing holds any more becomes ready, in order of acceptance. -/
def promote (i : InstId) (s : State) : State :=
  ((s.items.filter fun x => x.inst = i && x.stage = .waiting).map Item.id).foldl (fun s d => makeReady d s) s

/-- A descriptor starts (R138). -/
def startItem (d : Nat) (s : State) : State :=
  match findItem d s with
  | none => s
  | some x =>
    admission x.inst (modItem d (fun x => { x with stage := .running, startAt := s.eph.ticks, started := true }) s)

/-- End a descriptor that its start checks reject (R117). -/
def endInvalid (d : Nat) (s : State) : State := endEarly d (fun o => { o with invalid := true }) s

/-- The check before any effect of a descriptor: the first request at each address that its body names is
translated, and the first that faults is reported (R25). -/
def firstRequests (w : Who) : List (Access × Nat) → State → Option AccErr × State
  | [], s => (none, s)
  | (acc, a) :: t, s =>
    match translate w.inst acc a s with
    | (.error k, s) => (some (.mtu k), mtuFault w.inst w.src k (acc != .read) a s)
    | (.ok _, s) => firstRequests w t s

/-! ### Dispatch by engine type (R135 to R137) -/

/-- A descriptor has been ready for age_us or more, judged with the age_us in force at the dispatch decision (R137). -/
def isAged (x : Item) (s : State) : Bool :=
  x.readyAt + usTicks (max 1 s.inst[x.inst.val].ageUs.toNat) ≤ s.eph.ticks

/-- One descriptor goes before another: by class, then readiness (R137). -/
def classBefore (x y : Item) : Bool := x.cls.toNat < y.cls.toNat || (x.cls = y.cls && x.readyNo < y.readyNo)

/-- One aged descriptor goes before another: the oldest, in the order in which they became ready (R56, R137). -/
def ageBefore (x y : Item) : Bool := x.readyNo < y.readyNo

/-- The least of a list by an order. -/
def leastBy {α : Type} (before : α → α → Bool) : List α → Option α
  | [] => none
  | x :: t =>
    match leastBy before t with
    | none => some x
    | some y => if before y x then some y else some x

/-- The instances in the order in which the round of a dispatcher comes to them. -/
def roundOrder (p : Dispatcher) (weight : Nat) : List InstId :=
  let at_ := p.at_.val
  let rest := (List.range 63).map fun k => Fin.ofNat 64 (at_ + 1 + k)
  if p.started < weight then p.at_ :: rest else rest ++ [p.at_]

/-- The descriptor of an engine type that starts next, among those `ok` lets start, and whether it is aged. One whose deadline
sheds it starts no more (R140). -/
def dispatchPick (t : Fin 4) (ok : Item → Bool) (s : State) : Option (Item × Bool) :=
  let c := s.items.filter fun x => x.stage = .ready && engType x.opcode == some t && ok x && !shedAtDeadline x s
  match leastBy ageBefore (c.filter fun x => isAged x s) with
  | some x => some (x, true)
  | none =>
    let p := s.disp[t.val]
    let w := max 1 s.inst[p.at_.val].weight.toNat
    match (roundOrder p w).find? fun i => c.any fun x => x.inst = i with
    | none => none
    | some i => (leastBy classBefore (c.filter fun x => x.inst = i)).map fun x => (x, false)

/-- Descriptor d is the one its dispatcher starts next (R137). -/
def isNext (d : Nat) (t : Fin 4) (ok : Item → Bool) (s : State) : Bool :=
  match dispatchPick t ok s with
  | some (x, _) => x.id = d
  | none => false

/-- Start the descriptor that dispatch has picked, and count it in the round (R137). -/
def dispatchStart (d : Nat) (t : Fin 4) (ok : Item → Bool) (s : State) : State :=
  match dispatchPick t ok s with
  | some (x, aged) =>
    let s := startItem d s
    if aged then s
    else
      { s with disp := upd s.disp t fun p =>
          if p.at_ = x.inst && p.started < max 1 s.inst[p.at_.val].weight.toNat then { p with started := p.started + 1 }
          else { at_ := x.inst, started := 1 } }
  | none => s

/-! ### Completion records (R79 to R84, R91, R94, R99, R108) -/

/-- The identity of ring accesses (R119, R153). -/
def ringWho (i : InstId) (s : State) : Who := { inst := i, src := 610, gen := s.inst[i.val].gen }

/-- The 32 bytes of a record (R91). -/
def recBytes (r : Rec) (phase : Bool) (head : Nat) (epoch : BitVec 16) : List Byte :=
  leBytes 4 r.tag.toNat ++ [r.status, BitVec.ofNat 8 (128 * b2n phase + r.sq.val)] ++ leBytes 2 r.cond.toNat ++
    leBytes 8 r.doneRts.toNat ++ leBytes 8 r.result.toNat ++ leBytes 4 head ++ leBytes 2 epoch.toNat ++
    [r.opcode, r.timeEpoch]

/-- The conditions of R99 hold for a CQ. -/
def cqSignals (c : Cq) (ticks : Nat) : Bool :=
  c.irqEn && 0 < c.unsignalled &&
    (max 1 c.modCount.toNat ≤ c.unsignalled || c.urgent ||
      (c.modTime != 0 && c.oldest + usTicks c.modTime.toNat ≤ ticks))

/-- Send the message of a CQ if the conditions hold (R99). -/
def cqSignal (i : InstId) (q : Fin 16) (s : State) : State :=
  let c := s.inst[i.val].cq[q.val]
  if cqSignals c s.eph.ticks then
    msix i c.vector (modCq i q (fun c => { c with unsignalled := 0, urgent := false }) s)
  else s

/-- The CQ can take a record now: ACTIVE, with a slot that software has released (R83, R108). -/
def cqRoom (c : Cq) : Bool := c.st = .active && c.unreleased < 2 ^ c.log2.toNat

/-- Write one record into a CQ that has room; false if the write failed, and the CQ is then in ERROR
(R91, R108). A written record frees its descriptor's slot, which may let others become ready (R76, R96). A record that
becomes due after its CQ was made ACTIVE again is written into that later epoch: R79 asks for it and R84 bars it (log
entry 58). -/
def writeRec (i : InstId) (q : Fin 16) (r : Rec) (s : State) : Bool × State :=
  let c := s.inst[i.val].cq[q.val]
  let head := r.sqHead.getD s.inst[i.val].sq[r.sq.val].head
  match writeLine (ringWho i s) (c.base.toNat + c.tail * 32) (recBytes r c.phase head c.epoch) false s with
  | (some _, s) => (false, ringErr i 1 true q (modCq i q (fun c => { c with st := .error }) s))
  | (none, s) =>
    let last := c.tail + 1 = 2 ^ c.log2.toNat
    let s := modCq i q (fun c =>
      { c with tail := if last then 0 else c.tail + 1, phase := if last then !c.phase else c.phase
               unreleased := c.unreleased + 1
               oldest := if c.unsignalled = 0 then s.eph.ticks else c.oldest
               unsignalled := c.unsignalled + 1, urgent := c.urgent || r.irqNow }) s
    let s := cqSignal i q s
    match r.item with
    | none => (true, s)
    | some d => (true, promote i { s with items := s.items.filter fun x => x.id ≠ d })

/-- Write held records while there is room: those of R130 first, then the others in the order in which they
became ready (R81, R83, R111). -/
def flushHeld : Nat → InstId → Fin 16 → State → State
  | 0, _, _, s => s
  | n + 1, i, q, s =>
    let c := s.inst[i.val].cq[q.val]
    if cqRoom c then
      match c.aborts, c.held with
      | r :: t, _ =>
        match writeRec i q r (modCq i q (fun c => { c with aborts := t }) s) with
        | (true, s) => flushHeld n i q s
        | (false, s) => modCq i q (fun c => { c with aborts := r :: c.aborts }) s
      | [], r :: t =>
        match writeRec i q r (modCq i q (fun c => { c with held := t }) s) with
        | (true, s) => flushHeld n i q s
        | (false, s) => modCq i q (fun c => { c with held := r :: c.held }) s
      | [], [] => s
    else s

/-- Write what a CQ holds and has room for. -/
def flushCq (i : InstId) (q : Fin 16) (s : State) : State :=
  let c := s.inst[i.val].cq[q.val]
  flushHeld (c.aborts.length + c.held.length) i q s

/-- COMPLETION_RECORD (R79, R83, R94, R108): the oldest due record is written, or held. -/
def execCompletionRecord (i : InstId) (q : Fin 16) (s : State) : Out :=
  match s.inst[i.val].cq[q.val].due with
  | [] => .next s
  | r :: t =>
    act (live s) (fun s =>
      flushCq i q (modCq i q (fun c => { c with due := t, held := c.held ++ [r] }) s)) s

/-- CQ_MOD_TIMER (R99). -/
def execCqModTimer (i : InstId) (q : Fin 16) (s : State) : Out :=
  let c := s.inst[i.val].cq[q.val]
  act (live s && c.modTime != 0 && c.oldest + usTicks c.modTime.toNat ≤ s.eph.ticks) (cqSignal i q) s

/-- MSIX_UNMASK (R99). -/
def execMsixUnmask (fn : InstId) (vec : Fin 32) (s : State) : Out :=
  act s.hub.rstN (fun s =>
    let p := bit s.fns[fn.val].pendingBits vec.val
    let m : BitVec 32 := 1#32 <<< vec.val
    let s := { s with fns := upd s.fns fn fun f => { f with masked := f.masked &&& ~~~m } }
    if p && !s.fns[fn.val].fnMask then
      msix fn vec { s with fns := upd s.fns fn fun f => { f with pendingBits := f.pendingBits &&& ~~~m } }
    else s) s

/-! ### Fetch and acceptance (R76 to R78, R106, R107) -/

/-- The result of a descriptor until its work gives one: a LAUNCH names no faulting core (R89). -/
def firstResult (raw : BitVec 512) : Dword := if dfield raw 0 1 = 1 then BitVec.ofNat 64 (0xFFFF * 2 ^ 32) else 0

/-- Write the head to the head shadow (R78): a failed write loses the update. A write that fails in device memory is recorded
with a kind that the spec does not state (log entry 15). -/
def shadowWrite (i : InstId) (q : Fin 16) (s : State) : State :=
  let r := s.inst[i.val].sq[q.val]
  let s := modSq i q (fun r => { r with sinceShadow := 0 }) s
  match writeLine (ringWho i s) r.shadow.toNat (leBytes 4 r.head) false s with
  | (some .engine, s) =>
    let (k, s) := takeFree 3 s
    mtuFault i 610 k true r.shadow.toNat s
  | (_, s) => s

/-- The head passes an accepted descriptor; the shadow follows at the latest with each 32nd (R76, R78). -/
def headMoves (i : InstId) (q : Fin 16) (s : State) : State :=
  let s := modSq i q (fun r => { r with head := (r.head + 1) % 2 ^ r.log2.toNat
                                        sinceShadow := if r.shadow = 0 then 0 else r.sinceShadow + 1 }) s
  if 32 ≤ s.inst[i.val].sq[q.val].sinceShadow then shadowWrite i q s else s

/-- Accept one fetched descriptor: it takes its slots, the head passes it, it is checked (R76, R87). -/
def acceptDesc (i : InstId) (q : Fin 16) (raw : BitVec 512) (s : State) : State :=
  let r := s.inst[i.val].sq[q.val]
  let d := s.nextId
  let x : Item := { id := d, inst := i, sq := q, cq := r.cq, cls := r.cls, raw := raw, gen := s.inst[i.val].gen
                    result := firstResult raw, released := reached (BitVec.ofNat 64 (dfield raw 8 8)) s.eph.now }
  let s := headMoves i q { s with items := s.items ++ [x], nextId := d + 1 }
  if descValid i raw then makeReady d s else endInvalid d s

/-- A fetch fails: the SQ enters ERROR, and a ring-level record becomes due (R106, R107). -/
def fetchFail (i : InstId) (q : Fin 16) (status : BitVec 8) (s : State) : State :=
  let r := s.inst[i.val].sq[q.val]
  let s := ringErr i 0 false q (modSq i q (fun r => { r with st := .error }) s)
  let rec_ : Rec :=
    { tag := BitVec.ofNat 32 r.head, status := status, sq := q
      cond := BitVec.ofNat 16 (16 * b2n (status = 0x13) + 64 + 128 * b2n (s.eph.st != .locked))
      doneRts := s.eph.now, result := 0, opcode := 0xFF, timeEpoch := s.eph.timeEpoch, irqNow := false
      item := none, sqHead := some r.head }
  modCq i r.cq (fun c => { c with due := c.due ++ [rec_] }) s

/-- Fetch up to n descriptors in ring order while slots are free (R76, R77). The PCIe side's answer applies to
what lies in host memory, and AER records such a fetch alone: whether it records one that fails in device memory, which
R389 and R417 treat as R107 treats a TLP, the spec leaves open (log entry 58). -/
def fetchLoop (i : InstId) (q : Fin 16) (link : LinkResult) : Nat → State → State
  | 0, s => s
  | n + 1, s =>
    let r := s.inst[i.val].sq[q.val]
    if r.st != .active || r.head = r.tail || 1024 ≤ (s.items.filter fun x => x.inst = i).length ||
        8192 ≤ s.items.length then s
    else
      let a := r.base.toNat + r.head * 64
      match translate i .read a s with
      | (.error k, s) => fetchFail i q 0x11 (mtuFault i 610 k false a s)
      | (.ok t, s) =>
        let res := readTarget i t 64 s
        let host := match t with
          | .host _ => true
          | .dpa _ => false
        if host && link = .poisonedTlp then fetchFail i q 0x13 (emit (.aer .poisonedTlp) res.s)
        else if host && link = .failed then fetchFail i q 0x22 (emit (.aer .completionError) res.s)
        else if res.err.isSome then fetchFail i q 0x22 res.s
        else if res.poison then
          fetchFail i q 0x13 (if host then emit (.aer .poisonedTlp) res.s else res.s)
        else fetchLoop i q link n (acceptDesc i q (BitVec.ofNat 512 (leNat res.data)) res.s)

/-- DESCRIPTOR_FETCH (R76, R77, R100: at most 8 per read). -/
def execDescriptorFetch (i : InstId) (q : Fin 16) (n : Nat) (link : LinkResult) (s : State) : Out :=
  act (live s && s.inst[i.val].sq[q.val].st = .active && !s.inst[i.val].sq[q.val].busy)
    (fetchLoop i q link (min n 8)) s

/-- HEAD_SHADOW_WRITE (R78): an update that is due is written, whatever has become of the ring since. -/
def execHeadShadowWrite (i : InstId) (q : Fin 16) (s : State) : Out :=
  let r := s.inst[i.val].sq[q.val]
  act (live s && r.shadow != 0 && 0 < r.sinceShadow) (shadowWrite i q) s

/-! ### Doorbells (R70, R71, R133) -/

/-- SQ_TAIL_DOORBELL (R70, R71). -/
def sqTailDoorbell (i : InstId) (q : Fin 16) (size : Nat) (v : Word) (s : State) : State :=
  let r := s.inst[i.val].sq[q.val]
  if size != 4 then ringErr i 4 false q s
  else if r.st != .active then ringErr i 3 false q s
  else if 2 ^ r.log2.toNat ≤ v.toNat then ringErr i 2 false q (modSq i q (fun r => { r with st := .error }) s)
  else modSq i q (fun r => { r with tail := v.toNat }) s

def execSqTailDoorbell (i : InstId) (q : Fin 16) (size : Nat) (v : Word) (s : State) : Out :=
  act (live s) (sqTailDoorbell i q size v) s

/-- CQ_HEAD_DOORBELL (R70, R71): released slots take held records (R83). -/
def cqHeadDoorbell (i : InstId) (q : Fin 16) (size : Nat) (v : Word) (s : State) : State :=
  let c := s.inst[i.val].cq[q.val]
  let n := 2 ^ c.log2.toNat
  let dist := (v.toNat + n - c.head) % n
  if size != 4 then ringErr i 4 true q s
  else if c.st != .active then ringErr i 3 true q s
  else if n ≤ v.toNat || c.unreleased < dist then
    ringErr i 2 true q (modCq i q (fun c => { c with st := .error }) s)
  else flushCq i q (modCq i q (fun c => { c with head := v.toNat, unreleased := c.unreleased - dist }) s)

def execCqHeadDoorbell (i : InstId) (q : Fin 16) (size : Nat) (v : Word) (s : State) : Out :=
  act (live s) (cqHeadDoorbell i q size v) s

/-! ### Ring configuration (R75, R81, R133) -/

/-- A write of INST_SQ_CTRL (R75). The head's return to 0 makes no write of the shadow due: R78 speaks of the head's
moves, and whether this is one is open (log entry 58). -/
def sqCtrlWrite (i : InstId) (q : Fin 16) (v : Word) (s : State) : State :=
  let r := s.inst[i.val].sq[q.val]
  let cq : Fin 16 := Fin.ofNat 16 (bits v 19 16)
  let cls := BitVec.ofNat 2 (bits v 13 12)
  let log2 := BitVec.ofNat 5 (bits v 4 0)
  if s.inst[i.val].st != .ready then ringErr i 5 false q s
  else if r.st = .disabled then
    let s := modSq i q (fun r => { r with cq := cq, cls := cls, log2 := log2 }) s
    if bit v 31 then
      if 6 ≤ log2.toNat && log2.toNat ≤ 16 then
        let held := cls != 0 && s.inst[i.val].sq.toList.any (fun x => x.busy)
        admission i (modSq i q (fun r => { r with st := .active, epoch := r.epoch + 1, head := 0, tail := 0, busy := held }) s)
      else ringErr i 5 false q s
    else s
  else if r.cq != cq || r.cls != cls || r.log2 != log2 then ringErr i 5 false q s
  else if bit v 31 then s
  else if r.st = .active || r.st = .error then modSq i q (fun r => { r with st := .draining }) s
  else s

def execSqEnable (i : InstId) (q : Fin 16) (v : Word) (s : State) : Out :=
  act (live s && bit v 31) (sqCtrlWrite i q v) s

def execSqDisable (i : InstId) (q : Fin 16) (v : Word) (s : State) : Out :=
  act (live s && !bit v 31) (sqCtrlWrite i q v) s

/-- SQ_DRAIN_DONE (R75, R149). -/
def execSqDrainDone (i : InstId) (q : Fin 16) (s : State) : Out :=
  act (live s && s.inst[i.val].sq[q.val].st = .draining && !s.items.any (fun x => x.inst = i && x.sq = q))
    (fun s => admission i (modSq i q (fun r => { r with st := .disabled, busy := false }) s)) s

/-- A write of INST_CQ_CTRL (R81). Enable 0 written to a CQ that is DISABLED already changes its state in nothing, and is
taken as configuration though an SQ names the CQ (log entry 58). -/
def cqCtrlWrite (i : InstId) (q : Fin 16) (v : Word) (s : State) : State :=
  let c := s.inst[i.val].cq[q.val]
  let log2 := BitVec.ofNat 5 (bits v 4 0)
  let irqEn := bit v 15
  let vec : Fin 32 := Fin.ofNat 32 (bits v 20 16)
  let named := s.inst[i.val].sq.toList.any fun r => r.st != .disabled && r.cq = q
  if s.inst[i.val].st != .ready then ringErr i 5 true q s
  else if c.st = .active && c.log2 != log2 then ringErr i 5 true q s
  else if !bit v 31 && c.st != .disabled && named then ringErr i 5 true q s
  else
    let s := modCq i q (fun c => { c with log2 := log2, irqEn := irqEn, vector := vec }) s
    let s := if irqEn && !c.irqEn then cqSignal i q s else s
    if bit v 31 then
      if c.st = .active then s
      else if 6 ≤ log2.toNat && log2.toNat ≤ 16 then
        flushCq i q (modCq i q (fun c => { c with st := .active, epoch := c.epoch + 1, head := 0, tail := 0,
                                                  unreleased := 0, phase := true }) s)
      else ringErr i 5 true q s
    else modCq i q (fun c => { c with st := .disabled }) s

def execCqEnable (i : InstId) (q : Fin 16) (v : Word) (s : State) : Out :=
  act (live s && bit v 31) (cqCtrlWrite i q v) s

def execCqDisable (i : InstId) (q : Fin 16) (v : Word) (s : State) : Out :=
  act (live s && !bit v 31) (cqCtrlWrite i q v) s

/-! ### Times of descriptors (R43, R137, R140, R143) -/

/-- No other descriptor whose release has come and has not been evaluated is due before this one (R56). -/
def firstReleased (x : Item) (s : State) : Bool :=
  let t (y : Item) : Nat := (rtsNorm y.release).toNat
  !s.items.any fun y => y.stage = .waiting && !y.released && reached y.release s.eph.now &&
    (t y < t x || (t y = t x && y.id < x.id))

/-- DESCRIPTOR_RELEASE (R43, R56, R58, R139): releases are evaluated in release order, equal ones by acceptance, and
deadlines of the tick after them. -/
def execDescriptorRelease (d : Nat) (s : State) : Out :=
  match findItem d s with
  | none => .next s
  | some x =>
    act (live s && x.stage = .waiting && !x.released && reached x.release s.eph.now && firstReleased x s)
      (fun s => shedReady (makeReady d (modItem d (fun x => { x with released := true }) s))) s

/-- DEADLINE_EXPIRY (R58, R140): after the releases of its tick. One that runs, or that shed_mode or no_shed keeps, is marked
late when its last effect is late (R44). -/
def execDeadlineExpiry (d : Nat) (s : State) : Out :=
  match findItem d s with
  | none => .next s
  | some x => act (live s && shedAtDeadline x s && !releasePending s) (shedNow d) s

/-- DESCRIPTOR_AGED (R137). -/
def execDescriptorAged (d : Nat) (s : State) : Out :=
  match findItem d s with
  | none => .next s
  | some x =>
    act (live s && x.stage = .ready && x.readyAt + usTicks (max 1 s.inst[x.inst.val].ageUs.toNat) ≤ s.eph.ticks)
      (modItem d fun x => { x with aged := true }) s

/-- ESTIMATOR_WINDOW (R138): every type of every instance that had ready or running descriptors in the window. -/
def execEstimatorWindow (s : State) : Out :=
  act (live s) (fun s => { s with inst := Vector.ofFn fun i : Fin 64 =>
    let x := s.inst[i.val]
    { x with est := Vector.ofFn fun t : Fin 4 =>
        let e := x.est[t.val]
        let busy := s.items.any fun y =>
          y.inst = i && engType y.opcode == some t && (y.stage = .ready || y.stage = .running)
        { e with inWindow := 0, worked := busy
                 rate := if e.worked || busy then satNat 40 (estStep e.rate.toNat (e.inWindow * 100000 * 256)) else e.rate } } }) s

/-- PRESSURE_TIMEOUT (R143): 1 ms after the last SHED_EARLY. -/
def execPressureTimeout (i : InstId) (s : State) : Out :=
  act (live s && s.inst[i.val].shedPressure && s.inst[i.val].shedAt + usTicks 1000 ≤ s.eph.ticks)
    (fun s => pressureUpdate i (modInst i (fun x => { x with shedPressure := false }) s)) s

/-! ### Descriptors that start when they are ready (R89, R97, R135) -/

/-- Descriptor d has the opcode and the stage asked for. -/
def isItem (d op : Nat) (st : Stage) (s : State) : Bool :=
  match findItem d s with
  | some x => x.opcode = op && x.stage = st
  | none => false

/-- Descriptor d has the opcode, is ready, and its deadline has not shed it (R45, R140). -/
def mayStart (d op : Nat) (s : State) : Bool :=
  match findItem d s with
  | some x => x.opcode = op && x.stage = .ready && !shedAtDeadline x s
  | none => false

/-- NOP (R89). -/
def execNop (d : Nat) (s : State) : Out :=
  act (live s && mayStart d 0 s) (fun s => endItem d 0 id (startItem d s)) s

/-- The FENCE waits for an earlier descriptor (R97, R103). -/
def fenceWaits (x : Item) (s : State) : Bool :=
  s.items.any fun y => y.id < x.id && y.inst = x.inst && (y.sq = x.sq || bit x.raw (192 + y.sq.val))

/-- FENCE (R97): what it held becomes ready. -/
def execFence (d : Nat) (s : State) : Out :=
  match findItem d s with
  | none => .next s
  | some x =>
    act (live s && isItem d 9 .running s && !fenceWaits x s) (fun s => promote x.inst (endItem d 0 id s)) s

end Sys2Proof.Machine
end

