-- ==== Sys2Proof/Machine/Net.lean ====
section
/-! DEFINITION. Sending messages on the fabric, routing, and responses at the core that waits for them
(R459 to R469, R474, R475, R483). -/

namespace Sys2Proof.Machine

open Sys2Proof

/-! ### Messages as units (R459, R461) -/

/-- The 32 bytes of a header (R459). -/
def headerBytes (m : Msg) : List Byte :=
  [m.type, m.flags] ++ leBytes 2 m.dst.toNat ++ leBytes 2 m.src.toNat ++ [m.hops, m.hopEpoch] ++
    leBytes 2 m.length.toNat ++ [m.domain, m.arg] ++ leBytes 4 m.reqId.toNat ++ leBytes 8 m.addr.toNat ++
    leBytes 8 m.deadline.toNat

/-- Bytes cut into 16-byte units, the last padded with zeros. -/
def unitsOf : Nat → List Byte → List (BitVec 128)
  | 0, _ => []
  | n + 1, d => if d = [] then [] else BitVec.ofNat 128 (leNat (d.take 16)) :: unitsOf n (d.drop 16)

/-- The units of a message. -/
def msgUnits (m : Msg) : List (BitVec 128) :=
  let d := headerBytes m ++ m.payload
  unitsOf (d.length / 16 + 1) d

/-- The credit class of a type: 0 REQ, 1 RSP, 2 MRG (R460). -/
def msgClass (t : Byte) : Fin 3 := if t.toNat < 0x20 then 0 else if t = 0x28 then 2 else 1

/-- The message that header units and payload spell (R459). -/
def msgOf (h : Nat) (payload : List Byte) : Msg :=
  let f (lo n : Nat) : Nat := (h >>> (8 * lo)) % 2 ^ (8 * n)
  { type := BitVec.ofNat 8 (f 0 1), flags := BitVec.ofNat 8 (f 1 1), dst := BitVec.ofNat 16 (f 2 2)
    src := BitVec.ofNat 16 (f 4 2), hops := BitVec.ofNat 8 (f 6 1), hopEpoch := BitVec.ofNat 8 (f 7 1)
    length := BitVec.ofNat 16 (f 8 2), domain := BitVec.ofNat 8 (f 10 1), arg := BitVec.ofNat 8 (f 11 1)
    reqId := BitVec.ofNat 32 (f 12 4), addr := BitVec.ofNat 64 (f 16 8), deadline := BitVec.ofNat 64 (f 24 8)
    payload := payload }

/-! ### Ports and lanes (R447, R455, R459, R461, R474) -/

/-- Lane w of port p. -/
def laneOf (p : Fin 8) (w : Nat) : Fin 32 := Fin.ofNat 32 (4 * p.val + w)

/-- The port of a lane. -/
def portOfLane (l : Fin 32) : Fin 8 := Fin.ofNat 8 (l.val / 4)

/-- A port carries routed traffic: it is IN_SERVICE (R474, R524). -/
def portInService (p : Fin 8) (s : State) : Bool := !unitClosed (unitPort p) s && s.fab.node != 0xFFFF

/-- Units queued at a port. -/
def unitsQueued (p : Fin 8) (s : State) : Nat := (s.fab.ports[p.val].queue.map fun m => (msgUnits m).length).sum

/-- Flits of a port's window (R486). -/
def windowFlits (p : Port) : Nat := 2048 * 2 ^ p.window.toNat

/-- The lane a message leaves on: up, in selection, with room in the window; each lane's units are sent at
once, so the lowest has the fewest queued (R455, R459). -/
def pickLane (p : Fin 8) (flits : Nat) (s : State) : Option (Fin 32) :=
  ((List.range 4).map (laneOf p)).find? fun l =>
    let x := s.fab.lanes[l.val]
    x.up && x.selectable && x.copies.length + flits ≤ windowFlits s.fab.ports[p.val]

/-- Units cut into flits of eight, padded with units of 0. -/
def flitsOf : Nat → List (BitVec 128) → List (Vector (BitVec 128) 8)
  | 0, _ => []
  | n + 1, u => if u = [] then [] else (Vector.ofFn fun i : Fin 8 => u.getD i.val 0) :: flitsOf n (u.drop 8)

/-- Send flits on a lane: numbered, with copies kept until acknowledged (R455). -/
def sendFlits (l : Fin 32) (fs : List (Vector (BitVec 128) 8)) (s : State) : State :=
  fs.foldl (fun s f =>
    emit (.flit l f) (modLane l (fun x => { x with txSeq := x.txSeq + 1, copies := x.copies ++ [f],
                                                   flitsSinceBubble := x.flitsSinceBubble + 1 }) s)) s

/-- The port has credit for a message of so many units in a class: 96 KiB stand at the peer (R461). -/
def hasCredit (p : Port) (k : Fin 3) (units : Nat) : Bool := (p.sent[k.val] - p.credit[k.val]).toNat + units ≤ 6144

/-- Send the oldest message that the credits and the window of the port allow, class by class in the order in
which they were queued; answers none when none may leave. -/
def portSend (p : Fin 8) (s : State) : Option State :=
  let port := s.fab.ports[p.val]
  let firsts := port.queue.find? fun m =>
    let u := (msgUnits m).length
    hasCredit port (msgClass m.type) u && (pickLane p ((u + 7) / 8) s).isSome &&
      (port.queue.find? fun x => msgClass x.type == msgClass m.type) == some m
  match firsts with
  | none => none
  | some m =>
    let u := msgUnits m
    match pickLane p ((u.length + 7) / 8) s with
    | none => none
    | some l =>
      let m := { m with hopEpoch := port.peerEpoch }
      let s := modPort p (fun x => { x with queue := x.queue.erase { m with hopEpoch := 0 }
                                            sent := upd x.sent (msgClass m.type) (· + BitVec.ofNat 32 u.length) }) s
      let s := modLane l (fun x => { x with sentMsgs := x.sentMsgs ++ [((u.length + 7) / 8, m)] }) s
      some (emit (.message p l m) (sendFlits l (flitsOf u.length (msgUnits m)) s))

/-- Send what a port may send: it must carry routed traffic, or be in SHADOW with PROBEs only (R474). -/
def portPump : Nat → Fin 8 → State → State
  | 0, _, s => s
  | n + 1, p, s =>
    match portSend p s with
    | none => s
    | some s => portPump n p s

/-- Queue a message at a port and send what may leave. Messages wait with hop_epoch 0; it is written when they
are sent (R474). -/
def portQueue (p : Fin 8) (m : Msg) (s : State) : State :=
  let s := modPort p (fun x => { x with queue := x.queue ++ [{ m with hopEpoch := 0 }] }) s
  portPump s.fab.ports[p.val].queue.length p s

/-! ### Routing (R469) -/

/-- The port by which a message leaves, if any. With adapt set and the alternate not preferred, the primary
serves while it is IN_SERVICE (log entry 19). -/
def pickPort (dst : BitVec 16) (s : State) : Option (Fin 8) :=
  let r := Tab.get 0 s.fab.routes dst.toNat
  let prim : Fin 8 := Fin.ofNat 8 (bits r 14 12)
  let alt : Fin 8 := Fin.ofNat 8 (bits r 10 8)
  let pOk := bit r 15 && portInService prim s
  let aOk := bit r 11 && portInService alt s
  if pOk then
    if bit r 0 && aOk && s.fab.adaptThr.toNat ≤ unitsQueued prim s && unitsQueued alt s < unitsQueued prim s then some alt
    else some prim
  else if aOk then some alt
  else none

/-- Route a message to another node: queued at a port, or the refusal code (R469). -/
def routeOut (m : Msg) (s : State) : Option Byte × State :=
  let m := { m with hops := m.hops - 1 }
  if m.hops = 0 then (some 1, fabRaise 5 0 s)
  else
    match pickPort m.dst s with
    | none => (some 1, s)
    | some p => (none, portQueue p m s)

/-! ### Instances on the fabric (R118, R462, R463) -/

/-- The instance bound to a domain (R462). -/
def boundTo (dom : Byte) (s : State) : Option InstId :=
  (List.finRange 64).find? fun i => s.fab.domain[i.val] == some dom

/-- The bound instance, if it is READY (R463). -/
def targetInst (dom : Byte) (s : State) : Option InstId :=
  match boundTo dom s with
  | some i => if s.inst[i.val].st = .ready then some i else none
  | none => none

/-- The domain under which an instance issues fabric operations, if it may (R118, R462). -/
def domainOf (i : InstId) (s : State) : Option Byte := if s.inst[i.val].fabEn then s.fab.domain[i.val] else none

/-! ### Responses at the issuing core (R465 to R467, R474, R483) -/

/-- The response type of a request type (R460, R465). -/
def rspType (t : Byte) : Byte :=
  if t = 0x01 then 0x21 else if t = 0x02 then 0x22
  else if t = 0x03 ∨ t = 0x04 ∨ t = 0x05 then 0x23
  else if t = 0x06 ∨ t = 0x07 then 0x24 else 0x28

/-- Put the bytes of an answer into the entry that waits for request r. -/
def fillParts (r : Word) (d : List Byte) (es : List QEntry) : List QEntry :=
  es.map fun e => { e with parts := e.parts.map fun p => if p.1 = r then (p.1, some d) else p }

/-- The pc of the instruction that waits for request r. -/
def waitPc (k : Core) (r : Word) : BitVec 17 :=
  match (k.ni ++ k.arr).find? fun e => e.parts.any fun p => p.1 = r with
  | some e => e.pc
  | none => k.pc

/-- Forget a request. -/
def dropReq (r : Word) (s : State) : State :=
  { s with fab := { s.fab with reqs := s.fab.reqs.filter fun q => q.id ≠ r } }

/-- An instruction of the core still waits for request r: its program has not stopped (R184). -/
def waitsFor (k : Core) (r : Word) : Bool := (k.ni ++ k.arr).any fun e => e.parts.any fun p => p.1 = r

/-- A request of a core fails: FABRIC, with the address (R483). -/
def coreReqFails (c : CoreId) (q : FabReq) (s : State) : State :=
  if waitsFor s.cores[c.val] q.id then
    raiseAt c .fabric (waitPc s.cores[c.val] q.id) true q.msg.addr (dropReq q.id s)
  else dropReq q.id s

/-- A response for a request that a core of this device has made; poison raises POISON (R300, R466, R483). -/
def coreResponse (c : CoreId) (q : FabReq) (m : Msg) (s : State) : State :=
  if !waitsFor s.cores[c.val] q.id then dropReq q.id s
  else if m.type = 0x25 then
    if m.arg = 4 && q.retries < 3 then
      let s := { s with fab := { s.fab with reqs := s.fab.reqs.map fun x =>
        if x.id = q.id then { x with retries := x.retries + 1 } else x } }
      match routeOut q.msg s with
      | (none, s) => s
      | (some _, s) => coreReqFails c q s
    else coreReqFails c q s
  else if bit m.flags 0 then
    raiseAt c .poison (waitPc s.cores[c.val] q.id) true q.msg.addr (dropReq q.id s)
  else
    let s := dropReq q.id s
    let s := modCore c (fun k => { k with ni := fillParts q.id m.payload k.ni, arr := fillParts q.id m.payload k.arr }) s
    if m.type = 0x23 && bit m.arg 0 then setFlags c flagInf s else s

/-- A response reaches the requester: one that fits no outstanding request is discarded (R467). -/
def deliverRsp (m : Msg) (s : State) : State :=
  match s.fab.reqs.find? fun q => q.id = m.reqId with
  | none => s
  | some q =>
    match q.owner with
    | .core c _ => if m.type = 0x25 || m.type = rspType q.msg.type then coreResponse c q m s else s
    | .search _ _ => s

/-- The response to a request (R459, R465). -/
def rspMsg (q : Msg) (type : Byte) (flags arg : Byte) (addr : Dword) (payload : List Byte) (s : State) : Msg :=
  { type := type, flags := flags, dst := q.src, src := s.fab.node, hops := s.fab.hopLimit, hopEpoch := 0
    length := BitVec.ofNat 16 payload.length, domain := q.domain, arg := arg, reqId := q.reqId, addr := addr
    deadline := 0, payload := payload }

/-- Send a response: to this device's own core without leaving the hub, else by routing (R463). -/
def respond (r : Msg) (s : State) : State :=
  if r.dst = s.fab.node then deliverRsp r s else (routeOut r s).2

/-- Refuse a request with a code (R483). -/
def refuse (q : Msg) (code : Byte) (s : State) : State :=
  respond (rspMsg q 0x25 0 code (q.type.setWidth 64) [] s) s

end Sys2Proof.Machine
end

