-- ==== Sys2Proof/Machine/Mailbox.lean ====
section
/-! DEFINITION. Mailboxes: reservations, grants and message data, and RECV with its stalls (R164 to R174,
R178 to R185). -/

namespace Sys2Proof.Machine

open Sys2Proof

/-! ### Lists -/

/-- Take the first reservation that fits a test out of a list. -/
def takeFirst {α : Type} (t : α → Bool) : List α → Option (α × List α)
  | [] => none
  | x :: r => if t x then some (x, r) else (takeFirst t r).map fun p => (p.1, x :: p.2)

/-! ### Partitions and indices (R160) -/

/-- The core of a partition with a given index. -/
def coreAt (p : Part) (idx : Nat) : CoreId :=
  coreOf ((p.gy0.toNat + idx / p.width.toNat) * 24 + p.gx0.toNat + idx % p.width.toNat)

/-- Cores of a partition. -/
def partSize (p : Part) : Nat := p.width.toNat * p.height.toNat

/-- The partition index of a core (R160). -/
def partIndex (p : Part) (c : CoreId) : Nat := (coreY c - p.gy0.toNat) * p.width.toNat + (coreX c - p.gx0.toNat)

/-! ### RECV and RECVNB (R168, R173, R174) -/

/-- Where a RECV takes from: a mailbox, or a queue of a die (R205). -/
inductive Source where
  | mbox (m : Fin 8)
  | queue (d : Fin 4) (q : Fin 32)
  deriving DecidableEq, Repr

/-- The source that the control field names. -/
def recvSource (w : RFmt) : Source :=
  if bit w.x 3 then .queue (Fin.ofNat 4 (bits w.x 8 7)) (Fin.ofNat 32 (bits w.x 13 9)) else .mbox (Fin.ofNat 8 (bits w.x 6 4))

/-- The control field of RECV and RECVNB (R191, R205). -/
def recvLegal (w : RFmt) : Bool :=
  w.b = 0 && w.c = 0 && (if bit w.x 3 then only w.x 0x3F8F else only w.x 0x007F)

/-- The queue is assigned to the core's partition (R173, R325). -/
def queueAssigned (c : CoreId) (d : Fin 4) (q : Fin 32) (s : State) : Bool :=
  let b := (s.dies[d.val].sets)[q.val / 8]'(by omega)
  b.valid && (partOf c s) == some b.owner

/-- The set of a queue is sealed (R174, R328). -/
def queueSealed (d : Fin 4) (q : Fin 32) (s : State) : Bool := ((s.dies[d.val].sets)[q.val / 8]'(by omega)).isSealed

/-- Finish a RECV: the data to its destination, sd and pd, and issue goes on (R168). CORE_MSG_RCVD counts messages taken:
that an entry pulled from a work-bin queue counts too is the model's choice (log entry 58). -/
def recvFinish (c : CoreId) (w : RFmt) (dest : Nat) (data : List Byte) (sender : Nat) (s : State) : State :=
  let s := localWrite none c dest data s
  let s := setS c w.d (BitVec.ofNat 64 (data.length + sender * 65536)) s
  let s := setP c (predX w.x) (truth true) s
  advance c (modCore c (fun k => { k with stall := .none
                                          msgRcvd := if k.ctrFreeze then k.msgRcvd else k.msgRcvd + 1 }) s)

/-- Finish a RECV or RECVNB that finds nothing (R168, R174). -/
def recvNothing (c : CoreId) (w : RFmt) (s : State) : State :=
  let s := setP c (predX w.x) (truth false) (setS c w.d 0 s)
  advance c (modCore c (fun k => { k with stall := .none }) s)

/-- After a mailbox has lost or gained words: open or closed, then grants. -/
def mboxServe (c : CoreId) (m : Fin 8) (s : State) : State :=
  let running := s.cores[c.val].st = .running
  modMbox c m (fun x => let x := mboxLevel x; mboxGrant running x.waiting.length x) s

/-- The oldest message of a mailbox to its destination; one that does not fit raises and stays (R168). -/
def recvMbox (c : CoreId) (w : RFmt) (m : Fin 8) (g : MboxMsg) (rest : List MboxMsg) (s : State) : State :=
  let dest := (sreg s.cores[c.val] w.a).toNat
  if inData dest g.data.length then
    mboxServe c m (recvFinish c w dest g.data g.sender.toNat (modMbox c m (fun x => { x with msgs := rest }) s))
  else raise c .localRange false (BitVec.ofNat 64 dest) s

/-- The oldest entry of a queue to its destination (R174). -/
def recvQueue (c : CoreId) (w : RFmt) (d : Fin 4) (q : Fin 32) (e : List Byte) (rest : List (List Byte)) (s : State) : State :=
  let dest := (sreg s.cores[c.val] w.a).toNat
  if inData dest e.length then
    recvFinish c w dest e 0xFFFF (modDie d (fun x => { x with queues := upd x.queues q fun _ => rest }) s)
  else raise c .localRange false (BitVec.ofNat 64 dest) s

/-- Try a RECV or RECVNB: `wait` says what an empty source does. -/
def recvTry (c : CoreId) (w : RFmt) (wait : State → State) (s : State) : State :=
  match recvSource w with
  | .mbox m =>
    (match (s.cores[c.val].mbox[m.val]).msgs with
     | g :: rest => recvMbox c w m g rest s
     | [] => wait s)
  | .queue d q =>
    (match s.dies[d.val].queues[q.val] with
     | e :: rest => recvQueue c w d q e rest s
     | [] => if queueSealed d q s then recvNothing c w s else wait s)

/-- Stall a RECV (R168, R174). -/
def recvStall (c : CoreId) (w : RFmt) (s : State) : State :=
  let s := modCore c (fun k => { k with stall := .recv w }) s
  match recvSource w with
  | .mbox _ => s
  | .queue d q => modDie d (fun x => { x with pulls := x.pulls ++ [(q, c)] }) s

/-- A RECV that waits on a mailbox looks again. -/
def recvWake (c : CoreId) (m : Fin 8) (s : State) : State :=
  match s.cores[c.val].stall with
  | .recv w => if recvSource w = .mbox m then recvTry c w id s else s
  | _ => s

/-- A read that takes a message or entry meets an error of the memory of die d: corrected and counted, or found, and POISON
(R386 to R389, R391). -/
def boxMet (c : CoreId) (d : Fin 4) (met : Option BoxErr) (go : State → State) (s : State) : State :=
  match met with
  | some .corrected => go (modDie d (fun x => { x with sramCe := satInc x.sramCe }) s)
  | some .uncorrectable => raise c .poison false 0 (logPf 0x0500 0xFF 0 0 0xFFFF s)
  | _ => go s

/-- Pulls that wait on a queue look again, in the order in which they arrived (R174). -/
def pullWake : Nat → Fin 4 → Fin 32 → State → State
  | 0, _, _, s => s
  | n + 1, d, q, s =>
    if s.dies[d.val].queues[q.val] = [] && !queueSealed d q s then s
    else
      match takeFirst (fun p : Fin 32 × CoreId => p.1 = q) s.dies[d.val].pulls with
      | none => s
      | some ((_, c), rest) =>
        let s := modDie d (fun x => { x with pulls := rest }) s
        match s.cores[c.val].stall with
        | .recv w => pullWake n d q (recvTry c w id s)
        | _ => pullWake n d q s

/-! ### Delivery (R165, R166, R170, R171, R185) -/

/-- Count a discarded message (R170, R171). -/
def countDrop (c : CoreId) (s : State) : State :=
  modCore c (fun k => { k with msgDrop := if k.ctrFreeze then k.msgDrop else k.msgDrop + 1 }) s

/-- Message data reaches the mailbox that has granted it: stored whole, or discarded (R166, R170, R171). -/
def mboxStore (c : CoreId) (m : Fin 8) (g : MboxMsg) (stale : Bool) (s : State) : State :=
  if stale || s.cores[c.val].st != .running then mboxServe c m (countDrop c s)
  else recvWake c m (mboxServe c m (modMbox c m (fun x => { x with msgs := x.msgs ++ [g] }) s))

/-- The pointers of a mailbox disagree: it resets, loses its contents, and the core raises MBX_PTR
(R185). -/
def mboxPtrReset (c : CoreId) (m : Fin 8) (s : State) : State :=
  let s := modMbox c m (fun x => { x with msgs := [], closed := false, ptrResets := satInc x.ptrResets }) s
  raise c .mbxPtr false 0 s

/-! ### Inbound SENDs from the fabric (R466) -/

/-- Where an inbound SEND goes: the partition and index that addr names, in a partition that the bound
instance owns (R460, R463, R464). -/
def sendDest (m : Msg) (s : State) : Option CoreId :=
  match targetInst m.domain s with
  | none => none
  | some i =>
    let p := s.parts[bits m.addr 15 10 % 64]'(Nat.mod_lt _ (by decide))
    if p.valid && p.owner = i && bits m.addr 9 0 < partSize p then some (coreAt p (bits m.addr 9 0)) else none

/-- The mailbox an inbound SEND names. -/
def sendBox (m : Msg) : Fin 8 := Fin.ofNat 8 m.arg.toNat

/-- Give inbound SENDs that wait to their mailbox once it has granted them, and answer with SACK (R466). -/
def ingressServe : Nat → CoreId → Fin 8 → State → State
  | 0, _, _, s => s
  | n + 1, c, b, s =>
    match takeFirst (fun r : Resv => r.src.isNone) (s.cores[c.val].mbox[b.val]).granted,
          takeFirst (fun m : Msg => sendDest m s == some c && sendBox m == b) s.fab.ingress with
    | some (_, gs), some (m, rest) =>
      let s := modMbox c b (fun x => { x with granted := gs }) s
      let s := { s with fab := { s.fab with ingress := rest } }
      let s := mboxStore c b { sender := 0xFFFE, data := m.payload } false s
      ingressServe n c b (respond (rspMsg m 0x24 0 0 0 [] s) s)
    | _, _ => s

/-- An inbound SEND reserves its mailbox; while the reservation queue is full it is made again
(R165, R466). -/
def ingressSend (c : CoreId) (m : Msg) (s : State) : State :=
  let b := sendBox m
  let s := { s with fab := { s.fab with ingress := s.fab.ingress ++ [m] } }
  let s := modMbox c b (fun x =>
    if x.waiting.length < 32 then { x with waiting := x.waiting ++ [⟨none, msgWords m.payload.length⟩] } else x) s
  ingressServe s.fab.ingress.length c b (mboxServe c b s)

/-- Inbound SENDs for a mailbox that have no reservation yet make one, and those granted are delivered. The mailbox of a core
that is not RUNNING keeps none waiting (R171). -/
def ingressRetry (c : CoreId) (b : Fin 8) (s : State) : State :=
  let mine := s.fab.ingress.filter fun m => sendDest m s == some c && sendBox m == b
  let x := s.cores[c.val].mbox[b.val]
  let have_ := ((x.waiting ++ x.granted).filter fun r => r.src.isNone).length
  let room := if s.cores[c.val].st = .running then 32 - x.waiting.length else mine.length
  let more := ((mine.drop have_).take room).map fun m => (⟨none, msgWords m.payload.length⟩ : Resv)
  let s := modMbox c b (fun x => { x with waiting := x.waiting ++ more }) s
  ingressServe mine.length c b (mboxServe c b s)

/-- After a core has left RUNNING, its mailboxes grant what waits, and inbound SENDs are discarded (R171, R466). -/
def mboxesEnd (c : CoreId) (s : State) : State := (List.finRange 8).foldl (fun s m => ingressRetry c m s) s

/-- RECV or RECVNB at issue. The pointers are compared at every read (R185, R502); an error is met where something is
taken. -/
def recvInstr (c : CoreId) (w : RFmt) (met : Option BoxErr) (wait : State → State) (s : State) : Out :=
  coreInstr c w.g (recvLegal w) { s := [w.d, w.a], p := [predX w.x] } (fun s =>
    match recvSource w with
    | .queue d q =>
      if !queueAssigned c d q s then raise c .binRange false 0 s
      else if s.dies[d.val].queues[q.val] = [] then recvTry c w wait s
      else boxMet c d met (recvTry c w wait) s
    | .mbox m =>
      ingressRetry c m
        (if met = some .pointers then mboxPtrReset c m s
         else if (s.cores[c.val].mbox[m.val]).msgs = [] then recvTry c w wait s
         else boxMet c (coreDie c) met (recvTry c w wait) s)) s

/-- RECV (R168): waits on an empty mailbox or queue. -/
def execRecv (c : CoreId) (x : RecvOp) (s : State) : Out := recvInstr c x.w x.met (recvStall c x.w) s

/-- RECVNB (R168): finds nothing at once. -/
def execRecvnb (c : CoreId) (x : RecvOp) (s : State) : Out := recvInstr c x.w x.met (recvNothing c x.w) s

/-! ### The journeys of a message (R165) -/

/-- The oldest message that may make its reservation: none of the same core to the same mailbox before it
still awaits its grant (R165). `held` are the mailboxes for which one does. -/
def mayReserve (held : List (CoreId × Fin 8)) : List OutMsg → Option OutMsg
  | [] => none
  | m :: t =>
    if m.step = .granted then mayReserve held t
    else if m.step = .new && !held.contains (m.dest, m.mbox) then some m
    else mayReserve ((m.dest, m.mbox) :: held) t

/-- Change the first entry of a list that fits a test. -/
def modFirst {α : Type} (t : α → Bool) (f : α → α) : List α → List α
  | [] => []
  | x :: r => if t x then f x :: r else x :: modFirst t f r

/-- Give the first message that equals m a new step. -/
def setStep (src : CoreId) (m : OutMsg) (st : SendStep) (s : State) : State :=
  modCore src (fun k => { k with sendBuf := modFirst (· == m) (fun x => { x with step := st }) k.sendBuf }) s

/-- MBX_RESERVATION (R165): queued, and granted as the mailbox allows; with 32 waiting, answered with RETRY. -/
def execMbxReservation (src : CoreId) (s : State) : Out :=
  match mayReserve [] s.cores[src.val].sendBuf with
  | none => .next s
  | some m =>
    act (live s) (fun s =>
      if 32 ≤ (s.cores[m.dest.val].mbox[m.mbox.val]).waiting.length then setStep src m .retry s
      else
        let s := setStep src m .reserved s
        let s := modMbox m.dest m.mbox (fun x =>
          { x with waiting := x.waiting ++ [⟨some src, msgWords m.data.length⟩] }) s
        mboxServe m.dest m.mbox s) s

/-- MBX_RETRY_TIMER (R165). -/
def execMbxRetryTimer (src : CoreId) (s : State) : Out :=
  match s.cores[src.val].sendBuf.find? fun m => m.step = .retry with
  | none => .next s
  | some m => act (live s) (setStep src m .new) s

/-- Grants that a mailbox has given to a core. -/
def grantsTo (src : CoreId) (c : CoreId) (b : Fin 8) (s : State) : Nat :=
  ((s.cores[c.val].mbox[b.val]).granted.filter fun r => r.src == some src).length

/-- Messages of a core to a mailbox that have their grant. -/
def grantedTo (src : CoreId) (c : CoreId) (b : Fin 8) (s : State) : Nat :=
  (s.cores[src.val].sendBuf.filter fun m => m.step = .granted && m.dest = c && m.mbox = b).length

/-- MBX_GRANT (R165): the oldest reserved message whose mailbox has given a grant not yet taken up. -/
def execMbxGrant (src : CoreId) (s : State) : Out :=
  match s.cores[src.val].sendBuf.find? fun m =>
      m.step = .reserved && grantedTo src m.dest m.mbox s < grantsTo src m.dest m.mbox s with
  | none => .next s
  | some m => act (live s) (setStep src m .granted) s

/-- What sd bits 31:16 report of a sender: its partition index (R168). -/
def senderIndex (src : CoreId) (s : State) : Nat :=
  match partOf src s with
  | some n => partIndex s.parts[n.val] src
  | none => 0

/-- The data of a granted message leaves the send buffer and reaches its mailbox (R166). -/
def mbxDeliver (src : CoreId) (m : OutMsg) (mismatch : Bool) (s : State) : State :=
  let s := modCore src (fun k => { k with sendBuf := (k.sendBuf.erase m) }) s
  let s := modMbox m.dest m.mbox (fun x =>
    match takeFirst (fun r : Resv => r.src == some src) x.granted with
    | some (_, g) => { x with granted := g }
    | none => x) s
  let stale := s.inst[(coreInst m.dest s).val].gen != m.gen
  if mismatch then mboxPtrReset m.dest m.mbox s
  else
    ingressRetry m.dest m.mbox
      (mboxStore m.dest m.mbox { sender := BitVec.ofNat 16 (senderIndex src s), data := m.data } stale s)

/-- A write of CORE_MBX_CFGm (R179, R187): a write that leaves lw not below hw is ignored. -/
def mbxCfgWrite (c : CoreId) (m : Fin 8) (v : Word) (s : State) : State :=
  let hw := BitVec.ofNat 7 (bits v 22 16)
  let lw := BitVec.ofNat 7 (bits v 6 0)
  if lw.toNat < hw.toNat then
    ingressRetry c m (mboxServe c m (modMbox c m (fun x => { x with hw := hw, lw := lw }) s))
  else s

/-- MBX_CFG_WRITE (R179). -/
def execMbxCfgWrite (c : CoreId) (m : Fin 8) (v : Word) (s : State) : Out := act (live s) (mbxCfgWrite c m v) s

end Sys2Proof.Machine
end

