-- ==== Sys2Proof/Machine/Remote.lean ====
section
/-! DEFINITION. L128 and FP32 adds at the home of a word, and remote requests: performed at their target, and
sent by a core (R267 to R269, R288 to R291, R462 to R468). -/

namespace Sys2Proof.Machine

open Sys2Proof

/-! ### Ledger adds (R267, R268, R291) -/

/-- The INF encoding of L128 (R267). -/
def infL128 : L128 := 1#128 <<< 127

/-- The sum of two ledger values, and whether INF was produced or met (R268). -/
def addL128 (a b : L128) : L128 × Bool :=
  if a = infL128 || b = infL128 then (infL128, true)
  else
    let v := a.toInt + b.toInt
    if v.natAbs < 2 ^ 127 then (BitVec.ofInt 128 v, false) else (infL128, true)

/-- FADD: the FP32 sum (R291). -/
def addF32 (a b : Word) : Word := BitVec.ofNat 32 (f32Add a.toNat b.toNat)

/-! ### Atomics at their home (R289, R300) -/

/-- The answer of an atomic: a failure, poison, the old bytes and the inf indication. -/
structure AtomRes where
  err : Option AccErr
  poison : Bool
  old : List Byte
  inf : Bool
  s : State

/-- An atomic on n bytes at a target: a poisoned word stays as it is (R300). -/
def atomTarget (i : InstId) (t : Target) (n : Nat) (f : List Byte → List Byte × Bool) (s : State) : AtomRes :=
  let r := readTarget i t n s
  match r.err with
  | some e => ⟨some e, false, [], false, r.s⟩
  | none =>
    if r.poison then ⟨none, true, r.data, false, r.s⟩
    else
      let (d, inf) := f r.data
      match writeTarget i t d false r.s with
      | (some e, s) => ⟨some e, false, r.data, false, s⟩
      | (none, s) => ⟨none, false, r.data, inf, s⟩

/-- An atomic at an IVA: generation first, then translation with read, write and atomic (R120, R123); an old
generation is counted (R120). -/
def atomIva (w : Who) (iva n : Nat) (f : List Byte → List Byte × Bool) (s : State) : AtomRes :=
  if !current w s then
    ⟨some .stale, false, [], false, modMtu w.inst (fun m => { m with suppressed := m.suppressed + 1 }) s⟩
  else
    match translate w.inst .atomic iva s with
    | (.error k, s) => ⟨some (.mtu k), false, [], false, mtuFault w.inst w.src k true iva s⟩
    | (.ok t, s) => atomTarget w.inst t n f s

/-- LADD of a value to 16 bytes. -/
def laddBytes (v : L128) (d : List Byte) : List Byte × Bool :=
  let r := addL128 (BitVec.ofNat 128 (leNat d)) v
  (leBytes 16 r.1.toNat, r.2)

/-- FADD of a value to 4 bytes. -/
def faddBytes (v : Word) (d : List Byte) : List Byte × Bool :=
  (leBytes 4 (addF32 (BitVec.ofNat 32 (leNat d)) v).toNat, false)

/-- LADDs of consecutive values to consecutive words, stopping at the first that fails (R288); of an old generation each is
discarded and counted (R120). -/
def laddEach (w : Who) : Nat → List L128 → AtomRes → AtomRes
  | _, [], r => r
  | a, v :: t, r =>
    let x := atomIva w a 16 (laddBytes v) r.s
    if x.err = some .stale then laddEach w (a + 16) t { x with inf := r.inf } |> fun y => { y with err := some .stale }
    else if x.err.isSome || x.poison then { x with inf := x.inf || r.inf }
    else laddEach w (a + 16) t { x with inf := x.inf || r.inf }

/-- The lines from one on that atomics will touch: whether one is poisoned, up to the first that does not translate or gives
no data (R299). -/
def linesPoisoned (w : Who) (a : Nat) : Nat → State → Bool × State
  | 0, s => (false, s)
  | n + 1, s =>
    if !current w s then (false, s)
    else
      match translate w.inst .atomic a s with
      | (.error _, s) => (false, s)
      | (.ok (.host h), s) => if s.mem.hostPoisoned.contains (h / 64) then (true, s) else linesPoisoned w (a + 64) n s
      | (.ok (.dpa d), s) =>
        (match regionOf s d with
         | .aperture _ _ => linesPoisoned w (a + 64) n s
         | _ =>
           if channelOut s d then (false, s)
           else
             let s := findErrors d s
             if linePoisoned s d then (true, s) else linesPoisoned w (a + 64) n s)

/-- LADDT at an IVA: where a target word is poisoned nothing is written (R288, R299). -/
def laddMany (w : Who) (a : Nat) (vs : List L128) (s : State) : AtomRes :=
  match linesPoisoned w (a / 64 * 64) ((16 * vs.length + 63) / 64) s with
  | (true, s) => ⟨none, true, [], false, s⟩
  | (false, s) => laddEach w a vs ⟨none, false, [], false, s⟩

/-- The L128 values in a list of bytes. -/
def l128sOf : Nat → List Byte → List L128
  | 0, _ => []
  | n + 1, d => BitVec.ofNat 128 (leNat (d.take 16)) :: l128sOf n (d.drop 16)

/-! ### Requests at their target (R460, R463, R466 to R468, R483) -/

/-- A header with a type, length, arg or addr outside its row (R460). A READ that leaves its line is outside
too (R466). -/
def msgBad (m : Msg) : Bool :=
  let n := m.payload.length
  m.length.toNat != n ||
    !(match m.type.toNat with
      | 0x01 => 1 ≤ n && n ≤ 4096 && m.arg = 0
      | 0x02 => n = 0 && m.arg.toNat < 64 && m.addr.toNat % 64 + m.arg.toNat + 1 ≤ 64
      | 0x03 => n = 16 && m.arg = 0 && m.addr.toNat % 16 = 0
      | 0x04 => n = 4 && m.arg = 0 && m.addr.toNat % 4 = 0
      | 0x05 => n = 4096 && m.arg = 0 && m.addr.toNat % 64 = 0
      | 0x06 => 8 ≤ n && n ≤ 512 && m.arg.toNat < 8 && m.addr.toNat < 0x10000
      | 0x07 => n = 8 && m.arg.toNat < 8 && m.addr = 0
      | 0x08 => m.arg.toNat < 8
      | 0x09 => n = 64 && m.arg = 0 && m.addr = 0
      | _ => false)

/-- The refusal code of a failed access (R417, R483). -/
def refusalOf : AccErr → Byte
  | .mtu _ => 3
  | .engine => 6
  | .stale => 2

/-- The identity of inbound accesses of an instance (R119, R153, R463). -/
def inboundWho (i : InstId) (s : State) : Who := { inst := i, src := 609, gen := s.inst[i.val].gen }

/-- The device line that an address of an instance maps to, if any. -/
def dpaLine (i : InstId) (iva : Nat) (s : State) : Option Nat :=
  match (translate i .write iva s).1 with
  | .ok (.dpa a) => some (a / 64)
  | _ => none

/-- Log the lines that a write of poisoned data has poisoned, once (R391). -/
def logSpread (i : InstId) (lines : List Nat) (s : State) : State :=
  match lines with
  | [] => s
  | l :: _ => logPf 0x0503 i.val (l * 64) lines.length 0xFFFF s

/-- The answer of an inbound access. -/
def answerAtom (m : Msg) (ret : Bool) (r : AtomRes) : State :=
  match r.err with
  | some e => refuse m (refusalOf e) r.s
  | none =>
    let old := if ret then r.old ++ List.replicate (16 - r.old.length) 0 else List.replicate 16 0
    respond (rspMsg m 0x23 (if r.poison then 1 else 0) (if r.inf then 1 else 0) 0 old r.s) r.s

/-- An inbound SEND (R466). -/
def performSend (m : Msg) (s : State) : State :=
  match sendDest m s with
  | none => refuse m 2 s
  | some c => ingressSend c m s

/-- The release of one core of a barrier slot (R468). -/
def releaseMsg (b : Nat) (ep : BitVec 16) (a : BarArrival) (s : State) : Msg :=
  { type := 0x06, flags := 0, dst := a.node, src := s.fab.node, hops := s.fab.hopLimit, hopEpoch := 0, length := 8
    domain := a.domain, arg := a.mbox, reqId := s.fab.nextReq, addr := a.partIdx.setWidth 64, deadline := 0
    payload := leBytes 8 (b + ep.toNat * 65536) }

/-- Send one release: nothing waits for its SACK. -/
def releaseSend (m : Msg) (s : State) : State :=
  let s := { s with fab := { s.fab with nextReq := s.fab.nextReq + 1 } }
  if m.dst = s.fab.node then performSend m s else (routeOut m s).2

/-- An arrival at the barrier unit; the last of n releases every recorded core (R468). -/
def barrierArrive (m : Msg) (partIdx : BitVec 16) (s : State) : State :=
  let v := leNat m.payload
  let b : Fin 64 := Fin.ofNat 64 v
  let n := v / 65536 % 65536
  let slot := s.fab.bars[b.val]
  if v / 64 % 1024 != 0 || v / 2 ^ 32 != 0 || n < 2 || 64 < n || (slot.arrivals != [] && slot.expected.toNat != n) then
    refuse m 7 s
  else
    let all := slot.arrivals ++ [{ node := m.src, partIdx := partIdx, mbox := m.arg, domain := m.domain }]
    let setSlot (f : BarSlot → BarSlot) (s : State) : State := { s with fab := { s.fab with bars := upd s.fab.bars b f } }
    let s := respond (rspMsg m 0x24 0 0 0 [] s) s
    if all.length < n then
      setSlot (fun x => { x with expected := BitVec.ofNat 7 n, arrivals := all }) s
    else
      let s := setSlot (fun x => { x with expected := 0, arrivals := [], episode := x.episode + 1 }) s
      all.foldl (fun s a => releaseSend (releaseMsg b.val slot.episode a s) s) s

/-- Perform a request at this device (R463, R466). BAR_ARRIVE names no partition index in its header: of one
from another node it is a free value (log entry 20). -/
def performReq (m : Msg) (s : State) : State :=
  if msgBad m then refuse m 7 s
  else if passed m.deadline s.eph.now then refuse m 5 s
  else if m.type = 0x07 then
    let (idx, s) := takeFree 16 s
    barrierArrive m idx s
  else
    match targetInst m.domain s with
    | none => refuse m 2 s
    | some i =>
      let w := inboundWho i s
      let a := m.addr.toNat
      match m.type.toNat with
      | 0x01 =>
        let lines (n : Nat) (s : State) : List Nat :=
          if bit m.flags 0 then (chunks a n).filterMap fun c => dpaLine i c.1 s else []
        (match writeIva w a m.payload (bit m.flags 0) s with
         | (some e, n, s) => refuse m (refusalOf e) (logSpread i (lines n s) s)
         | (none, n, s) => respond (rspMsg m 0x21 0 0 0 [] s) (logSpread i (lines n s) s))
      | 0x02 =>
        let r := readIva w a (m.arg.toNat + 1) s
        (match r.err with
         | some e => refuse m (refusalOf e) r.s
         | none => respond (rspMsg m 0x22 (if r.poison then 1 else 0) 0 0 r.data r.s) r.s)
      | 0x03 => answerAtom m (bit m.flags 1) (atomIva w a 16 (laddBytes (BitVec.ofNat 128 (leNat m.payload))) s)
      | 0x04 => answerAtom m (bit m.flags 1) (atomIva w a 4 (faddBytes (BitVec.ofNat 32 (leNat m.payload))) s)
      | 0x05 => answerAtom m false (laddMany w a (l128sOf 256 m.payload) s)
      | 0x06 => performSend m s
      | _ => refuse m 7 s

/-! ### Requests of a core (R464 to R467) -/

/-- What a core asks of a remote node. -/
structure RemoteReq where
  node : BitVec 16
  type : Byte
  flags : Byte
  arg : Byte
  addr : Dword
  payload : List Byte
  deriving Repr

/-- The request ids that the next n requests take. -/
def nextIds (n : Nat) (s : State) : List Word := (List.range n).map fun k => s.fab.nextReq + BitVec.ofNat 32 k

/-- The message of a request (R459, R467). -/
def reqMsg (dom : Byte) (id : Word) (r : RemoteReq) (s : State) : Msg :=
  { type := r.type, flags := r.flags, dst := r.node, src := s.fab.node, hops := s.fab.hopLimit, hopEpoch := 0
    length := BitVec.ofNat 16 r.payload.length, domain := dom, arg := r.arg, reqId := id, addr := r.addr
    deadline := 0, payload := r.payload }

/-- Send a registered request: performed here without leaving the hub when it names this node (R463), else
routed; without a route the source refuses it (R469). An arrival of this device's own core carries its
partition and index. -/
def launchReq (c : CoreId) (m : Msg) (s : State) : State :=
  if m.dst = s.fab.node then
    if m.type = 0x07 then
      match partOf c s with
      | some n => barrierArrive m (BitVec.ofNat 16 (n.val * 1024 + partIndex s.parts[n.val] c)) s
      | none => refuse m 2 s
    else performReq m s
  else
    match routeOut m s with
    | (none, s) => s
    | (some code, s) => deliverRsp (rspMsg m 0x25 0 code (m.type.setWidth 64) [] s) s

/-- Register requests of a core, with the ids given, and send them in order. -/
def sendReqs (c : CoreId) (q : QueueId) (dom : Byte) : List (Word × RemoteReq) → State → State
  | [], s => s
  | (id, r) :: t, s =>
    let m := reqMsg dom id r s
    let s := { s with fab := { s.fab with reqs := s.fab.reqs ++ [{ id := id, owner := .core c q, msg := m }], nextReq := id + 1 } }
    sendReqs c q dom t (launchReq c m (if r.type = 0x02 then s else noteCore c s))

/-- Close the coalescing WRITE of a core and send it (R466); an instance that may no longer issue fabric operations reaches
no node (R118). -/
def closeWrite (c : CoreId) (s : State) : State :=
  match s.cores[c.val].coalesce with
  | none => s
  | some w =>
    let s := noteCore c (modCore c (fun k => { k with coalesce := none }) s)
    match domainOf (coreInst c s) s with
    | none => raiseAt c .fabric (waitPc s.cores[c.val] w.req) true (BitVec.ofNat 64 w.addr) s
    | some dom =>
      let r : RemoteReq := { node := w.node, type := 0x01, flags := 0, arg := 0, addr := BitVec.ofNat 64 w.addr, payload := w.data }
      let m := reqMsg dom w.req r s
      launchReq c m { s with fab := { s.fab with reqs := s.fab.reqs ++ [{ id := w.req, owner := .core c .ni, msg := m }] } }

/-- Close the coalescing WRITE, and go on unless its node cannot be reached. -/
def closing (c : CoreId) (f : State → State) (s : State) : State :=
  let s := closeWrite c s
  if s.cores[c.val].st = .running then f s else s

/-- The first line that a request reads or writes, and the one after its last. -/
def reqLines (type arg : Byte) (addr : Dword) (payload : Nat) : Nat × Nat :=
  let n := if type = 0x02 then arg.toNat + 1 else max 1 payload
  (addr.toNat / 64, (addr.toNat + n + 63) / 64)

/-- A request of the core to the same node awaits its response for a line that this one names, or a SEND to the same
mailbox its SACK; the next one waits (R465). -/
def remoteBusy (c : CoreId) (r : RemoteReq) (s : State) : Bool :=
  let mine := reqLines r.type r.arg r.addr r.payload.length
  s.fab.reqs.any fun q =>
    (q.owner == .core c .ni || q.owner == .core c .arr) && q.msg.dst = r.node &&
      (if r.type = 0x06 ∨ r.type = 0x07 then q.msg.type = r.type && q.msg.addr = r.addr && q.msg.arg = r.arg
       else
         let other := reqLines q.msg.type q.msg.arg q.msg.addr q.msg.payload.length
         q.msg.type != 0x06 && q.msg.type != 0x07 && other.1 < mine.2 && mine.1 < other.2)

/-- The core may issue fabric operations, and the address has no bit above 39 (R118, R462, R464). -/
def remoteOk (c : CoreId) (addr : Dword) (s : State) : Option Byte :=
  if addr.toNat < 2 ^ 40 then domainOf (coreInst c s) s else none

/-- WRITE_COALESCE_TIMEOUT (R466). -/
def execWriteCoalesceTimeout (c : CoreId) (s : State) : Out := act (live s) (closeWrite c) s

/-- FAB_RESP_TIMEOUT (R467): the request is abandoned; its core raises FABRIC. -/
def execFabRespTimeout (req : Word) (s : State) : Out :=
  match s.fab.reqs.find? fun q => q.id = req with
  | none => .next s
  | some q =>
    act (live s) (fun s =>
      match q.owner with
      | .core c _ => coreReqFails c q s
      | .search _ _ => dropReq req s) s

end Sys2Proof.Machine
end

