-- ==== Sys2Proof/Machine/Locks.lean ====
section
/-! DEFINITION. The buffer manager and the lock unit (R397 to R409, R413 to R418). -/

namespace Sys2Proof.Machine

open Sys2Proof

/-! ### Buffers (R397 to R401) -/

/-- A pool serves requests: enabled, and not refused under R418. -/
def poolOn (p : Pool) : Bool := p.enable && !p.broken

/-- The handle of a buffer (R397). -/
def handleOf (p : Fin 16) (idx : Nat) (reuse : Byte) : Word := BitVec.ofNat 32 (p.val * 2 ^ 28 + idx * 256 + reuse.toNat)

/-- ALLOC for an instance: the handle, or 0xFFFF_FFFF (R399). -/
def bfmAlloc (i : InstId) (p : Fin 16) (s : State) : Word × State :=
  let x := s.bfm.pools[p.val]
  match x.free with
  | [] => (BitVec.allOnes 32, { s with bfm := { s.bfm with badAccess := satInc s.bfm.badAccess } })
  | b :: t =>
    if poolOn x then
      (handleOf p b (Tab.get 0 x.reuse b), modPool p (fun x => { x with free := t, held := Tab.set x.held b i }) s)
    else (BitVec.allOnes 32, { s with bfm := { s.bfm with badAccess := satInc s.bfm.badAccess } })

/-- Row 4 of R400: the buffer becomes FREE, its reuse count rises, and it joins the tail. -/
def bufferFree (b : Nat) (x : Pool) : Pool :=
  { x with free := x.free ++ [b], held := Tab.del x.held b, reuse := Tab.set x.reuse b (Tab.get 0 x.reuse b + 1) }

/-- A free, judged (R400). A FOREIGN_FREE is also logged to the holder. -/
def bfmFree (i : InstId) (p : Fin 16) (h : Word) (s : State) : State :=
  let x := s.bfm.pools[p.val]
  let b := bits h 27 8
  if bits h 31 28 != p.val || x.count.toNat ≤ b || !poolOn x then bfmEvent 3 i 0 h s
  else
    match Tab.find x.held b with
    | none => bfmEvent 1 i 0 h s
    | some o =>
      if (Tab.get 0 x.reuse b).toNat != bits h 7 0 then bfmEvent 1 i 0 h s
      else if o = i then modPool p (bufferFree b) s
      else
        let s := bfmEvent 2 i o h s
        if o.val = 0 then s else logOne o 0x0512 i.val 0 0 0xFFFF s

/-- INFO (R398). -/
def bfmInfo (p : Fin 16) (s : State) : Dword :=
  let x := s.bfm.pools[p.val]
  BitVec.ofNat 64 (b2n x.enable * 2 ^ 31 + x.sizeLog2.toNat * 2 ^ 24 + p.val * 2 ^ 20 + x.free.length)

/-- An aligned 4-byte or 8-byte read of an aperture by a core or a BAR window (R398). -/
def portRead (i : InstId) (p : Fin 16) (off n : Nat) (s : State) : List Byte × State :=
  if off = 0 then
    let (h, s) := bfmAlloc i p s
    (leBytes n h.toNat, s)
  else if off = 8 then (portOnes off n, bfmEvent 4 i 0 (BitVec.allOnes 32) s)
  else if off = 16 then (leBytes n (bfmInfo p s).toNat, s)
  else (List.replicate n 0, s)

/-- An aligned 4-byte or 8-byte write of an aperture by a core or a BAR window (R398). -/
def portWrite (i : InstId) (p : Fin 16) (off : Nat) (d : List Byte) (s : State) : State :=
  if off = 8 then bfmFree i p (BitVec.ofNat 32 (leNat (d.take 4))) s
  else if off = 0 then bfmEvent 4 i 0 (BitVec.allOnes 32) s
  else s

/-- An access acts on a port: aligned, of 4 or 8 bytes (R398). -/
def portSized (a n : Nat) : Bool := (n = 4 || n = 8) && a % n = 0

/-- A read of one line by a core or a BAR window: ports act where the whole access is sized for one (R398); otherwise as any
read. -/
def readLineP (w : Who) (sized : Bool) (iva n : Nat) (s : State) : RdRes :=
  if !current w s then ⟨some .stale, [], false, s⟩
  else
    match translate w.inst .read iva s with
    | (.error k, s) => ⟨some (.mtu k), [], false, mtuFault w.inst w.src k false iva s⟩
    | (.ok (.dpa a), s) =>
      (match regionOf s a with
       | .aperture p off =>
         if sized then
           let (d, s) := portRead w.inst p off n s
           ⟨none, d, false, s⟩
         else readTarget w.inst (.dpa a) n s
       | _ => readTarget w.inst (.dpa a) n s)
    | (.ok t, s) => readTarget w.inst t n s

/-- A write of one line by a core or a BAR window (R398). -/
def writeLineP (w : Who) (sized : Bool) (iva : Nat) (data : List Byte) (s : State) : Option AccErr × State :=
  if !current w s then writeLine w iva data false s
  else
    match translate w.inst .write iva s with
    | (.error k, s) => (some (.mtu k), mtuFault w.inst w.src k true iva s)
    | (.ok (.dpa a), s) =>
      (match regionOf s a with
       | .aperture p off =>
         if sized then (none, portWrite w.inst p off data s)
         else writeTarget w.inst (.dpa a) data false s
       | _ => writeTarget w.inst (.dpa a) data false s)
    | (.ok t, s) => writeTarget w.inst t data false s

/-- Reads of a core or a BAR window, line by line. -/
def readChunksP (w : Who) (sized : Bool) : List (Nat × Nat) → RdRes → RdRes
  | [], r => r
  | (a, n) :: t, r =>
    match readLineP w sized a n r.s with
    | ⟨some e, _, _, s⟩ => ⟨some e, r.data, r.poison, s⟩
    | ⟨none, d, p, s⟩ => readChunksP w sized t ⟨none, r.data ++ d, r.poison || p, s⟩

/-- Writes of a core or a BAR window, line by line; of an old generation each is discarded and counted (R120). -/
def writeChunksP (w : Who) (sized : Bool) : List (Nat × Nat) → List Byte → State → Option AccErr × State
  | [], _, s => (none, s)
  | (a, n) :: t, d, s =>
    match writeLineP w sized a (d.take n) s with
    | (some .stale, s) => (some .stale, (writeChunksP w sized t (d.drop n) s).2)
    | (some e, s) => (some e, s)
    | (none, s) => writeChunksP w sized t (d.drop n) s

/-- ALLOC (R399). -/
def execAlloc (i : InstId) (p : Fin 16) (s : State) : Out :=
  act (live s) (fun s =>
    let (h, s) := bfmAlloc i p s
    emit (.readData (leBytes 8 h.toNat) false) s) s

/-- FREE (R400). -/
def execFree (i : InstId) (p : Fin 16) (h : Word) (s : State) : Out := act (live s) (bfmFree i p h) s

/-- A write of BFM_POOLp_CFG (R399, R420): enabling rebuilds the free list from the buffers that are FREE
(log entry 18). -/
def poolCfgWrite (p : Fin 16) (v : Word) (s : State) : State :=
  modPool p (fun x =>
    if x.enable then { x with enable := bit v 31 }
    else
      let n := bits v 19 0
      let x := { x with sizeLog2 := BitVec.ofNat 5 (bits v 28 24), count := BitVec.ofNat 20 n }
      if bit v 31 then
        { x with enable := true, free := (List.range n).filter fun b => (Tab.find x.held b).isNone }
      else x) s

/-- POOL_ENABLE (R399). -/
def execPoolEnable (p : Fin 16) (v : Word) (s : State) : Out := act (live s && bit v 31) (poolCfgWrite p v) s

/-- Free every buffer that an instance holds, in ascending pool and index order; the number is logged to the
PF (R401). -/
def freeBuffersOf (i : InstId) (s : State) : State :=
  let mine (x : Pool) : List Nat := (x.held.filter fun e => e.2 = i).map fun e => e.1
  let n := (s.bfm.pools.toList.map fun x => (mine x).length).sum
  let s := { s with bfm := { s.bfm with pools := s.bfm.pools.map fun x => (mine x).foldl (fun x b => bufferFree b x) x } }
  logPf 0x0523 i.val 0 n 0xFFFF s

/-! ### Locks (R402 to R409) -/

/-- An instance may name a lock: its bank is granted and not refused under R418. -/
def lockGranted (i : InstId) (n : Fin 4096) (s : State) : Bool :=
  bit s.lku.grants[i.val] (n.val / 64) && !bit s.lku.broken (n.val / 64)

/-- Answer a LACQ that waits at a core: sd, and pd if granted (R206). -/
def lacqAnswer (c : CoreId) (n : Fin 4096) (sd : Nat) (s : State) : State :=
  let fill (e : QEntry) : QEntry :=
    { e with lock := none, sres := e.sres.map fun r => (r.1, BitVec.ofNat 64 sd)
             pres := e.pres.map fun r => (r.1, sd != 2) }
  let rec go : List QEntry → List QEntry
    | [] => []
    | e :: t => if e.lock = some n then fill e :: t else e :: go t
  modCore c (fun k => { k with ni := go k.ni, orphan := k.orphan || sd = 1 }) s

/-- Grant a lock to a core (R403). -/
def lockTake (n : Fin 4096) (q : LockReq) (s : State) : State :=
  modLock n (fun l => { l with st := .held, inst := q.inst, core := q.core, gen := q.gen, lease := q.lease }) s

/-- Serve the requests that wait for a lock that is FREE or ORPHANED (R404, R406). -/
def lockServe : Nat → Fin 4096 → State → State
  | 0, _, s => s
  | f + 1, n, s =>
    let l := s.lku.locks[n.val]
    match l.st, l.waiters with
    | .held, _ => s
    | _, [] => s
    | st, q :: t =>
      let s := modLock n (fun l => { l with waiters := t }) s
      if passed q.lease s.eph.now then lockServe f n (lacqAnswer q.core n 2 s)
      else lacqAnswer q.core n (if st = .orphaned then 1 else 0) (lockTake n q s)

/-- Serve all requests that wait for a lock. -/
def lockServeAll (n : Fin 4096) (s : State) : State := lockServe (s.lku.locks[n.val].waiters.length + 1) n s

/-- A lock becomes FREE, and a waiter may take it (R404, R405). -/
def lockFree (n : Fin 4096) (s : State) : State :=
  lockServeAll n (modLock n (fun l => { l with st := .free, inst := 0, core := 0, gen := 0, lease := 0 }) s)

/-- A lock becomes ORPHANED: counted, and logged to its owner and the PF (R404, R407). -/
def lockOrphan (n : Fin 4096) (s : State) : State :=
  let l := s.lku.locks[n.val]
  let s := { s with lku := { s.lku with orphans := satInc s.lku.orphans } }
  let s := logBoth l.inst 0x0520 0 0 l.core.val s
  lockServeAll n (modLock n (fun l => { l with st := .orphaned }) s)

/-- Locks whose state satisfies a test, in ascending number. -/
def locksWhere (t : Lock → Bool) (s : State) : List (Fin 4096) :=
  (List.finRange 4096).filter fun n => t s.lku.locks[n.val]

/-- Orphan every lock that satisfies a test (R407). -/
def orphanWhere (t : Lock → Bool) (s : State) : State := (locksWhere t s).foldl (fun s n => lockOrphan n s) s

/-- Remove waiting requests (R404, R407). -/
def dropWaiters (t : LockReq → Bool) (s : State) : State :=
  { s with lku := { s.lku with locks := s.lku.locks.map fun l => { l with waiters := l.waiters.filter fun q => !t q } } }

/-- LACQ (R206, R403): decided at once, or waiting at the lock. -/
def execLacq (c : CoreId) (w : RFmt) (s : State) : Out :=
  coreInstr c w.g (w.c = 0 && only w.x 15) { s := [w.d, w.a, w.b], p := [predX w.x], q := some .ni } (fun s =>
    let k := s.cores[c.val]
    let a := (sreg k w.a).toNat
    if h : a < 4096 then
      let n : Fin 4096 := ⟨a, h⟩
      let i := coreInst c s
      if !lockGranted i n s then raise c .unit false 0 s
      else
        closing c (fun s =>
        let q : LockReq := { core := c, inst := i, gen := k.gen, lease := sreg k w.b }
        let e (sd : Nat) : QEntry := { sres := [(w.d, BitVec.ofNat 64 sd)], pres := some (predX w.x, sd != 2) }
        let l := s.lku.locks[n.val]
        if l.st = .held then
          if l.core = c && l.inst = i then issued c .ni (e 2) (logBoth i 0x0522 0 0 c.val s)
          else if bit w.x 3 then issued c .ni (e 2) s
          else issued c .ni { e 2 with lock := some n } (modLock n (fun l => { l with waiters := l.waiters ++ [q] }) s)
        else if passed q.lease s.eph.now then issued c .ni (e 2) s
        else
          let orph := l.st = .orphaned
          let s := modCore c (fun k => { k with orphan := k.orphan || orph }) (lockTake n q s)
          issued c .ni (e (if orph then 1 else 0)) s) s
    else raise c .unit false 0 s) s

/-- LREL (R405). -/
def execLrel (c : CoreId) (w : RFmt) (s : State) : Out :=
  coreInstr c w.g (w.d = 0 && w.b = 0 && w.c = 0 && w.x = 0) { s := [w.a], q := some .ni } (fun s =>
    let a := (sreg s.cores[c.val] w.a).toNat
    if h : a < 4096 then
      let n : Fin 4096 := ⟨a, h⟩
      closing c (fun s =>
      let l := s.lku.locks[n.val]
      let i := coreInst c s
      if l.st = .held && l.core = c && l.inst = i then issued c .ni {} (lockFree n s)
      else
        let s := { s with lku := { s.lku with badRelease := satInc s.lku.badRelease } }
        issued c .ni {} (logBoth i 0x0521 0 0 c.val s)) s
    else raise c .unit false 0 s) s

/-- LEASE_EXPIRY (R406): the lease tick has come to its end, so an LREL of that tick comes first (R414). -/
def execLeaseExpiry (n : Fin 4096) (s : State) : Out :=
  let l := s.lku.locks[n.val]
  act (live s && l.st = .held && passed l.lease s.eph.now) (lockOrphan n) s

/-- State and owner of a lock as LOCK_ADMIN reports them (R89). -/
def lockResult (l : Lock) : Dword :=
  BitVec.ofNat 64 ((match l.st with
    | .free => 0
    | .held => 1
    | .orphaned => 2) + l.inst.val * 256)

/-- LOCK_ADMIN (R409). -/
def execLockAdmin (d : Nat) (s : State) : Out :=
  match findItem d s with
  | none => .next s
  | some x =>
    act (live s && mayStart d 10 s) (fun s =>
      let n : Fin 4096 := Fin.ofNat 4096 (dfield x.raw 24 2)
      let op := dfield x.raw 26 1
      let s := startItem d s
      if !lockGranted x.inst n s || (op = 2 && x.inst.val != 0) then endInvalid d s
      else
        let orph := s.lku.locks[n.val].st = .orphaned
        let s := if op = 2 || (op = 1 && orph) then noteEffect d (lockFree n s) else s
        endItem d (lockResult s.lku.locks[n.val])
          (fun o => { o with orphan := op = 1 && orph }) s) s

/-- BFM_LKU_PARITY_ERROR (R418). -/
def execBfmLkuParityError (what : ParityUnit) (s : State) : Out :=
  act (live s) (fun s =>
    let s := match what with
      | .pool p => modPool p (fun x => { x with broken := true }) s
      | .bank b => { s with lku := { s.lku with broken := s.lku.broken ||| (1#64 <<< b.val) } }
    logPf 0x0524 0xFF 0 0 0xFFFF s) s

end Sys2Proof.Machine
end

