-- ==== Sys2Proof/Machine/LoadStore.lean ====
section
/-! DEFINITION. The LS family: loads and stores in local, global and remote space (R155 to R157, R196 to R199,
R211, R212, R464 to R466). -/

namespace Sys2Proof.Machine

open Sys2Proof

/-- The address of an M-format access: sa + sext(off) (R197). -/
def mAddr (k : Core) (w : MFmt) : Dword := sreg k w.a + w.off.signExtend 64

/-- The space and node fields are legal (R197). -/
def mSpaceOk (w : MFmt) : Bool := w.sp != 3 && (w.sp = 2 || w.n = 0)

/-- The registers that address an M-format access. -/
def mUse (w : MFmt) : List (BitVec 5) := if w.sp = 2 then [w.a, w.n] else [w.a]

/-- The node of a remote access: sn bits 15:0 (R197). -/
def mNode (k : Core) (w : MFmt) : BitVec 16 := (sreg k w.n).setWidth 16

/-- Check a local access of n bytes: alignment, then region (R157, R198, R221). -/
def localCheck (a : Dword) (n align : Nat) (load : Bool) : Option Cause :=
  let x := a.toNat
  if x % align != 0 then some .localAlign
  else if inData x n || (load && accBase ≤ x && x + n ≤ localEnd) then none
  else some .localRange

/-- Bytes as a scalar, sign-extended or zero-extended (R196). -/
def scalarOf (signed : Bool) (d : List Byte) : Dword :=
  let v := leNat d
  let w := 8 * d.length
  if signed && 2 ^ (w - 1) ≤ v then BitVec.ofInt 64 ((v : Int) - 2 ^ w) else BitVec.ofNat 64 v

/-- An entry whose request was discarded: it never completes (R120). -/
def deadEntry : QEntry := { dead := true }

/-- Requests of an access of n bytes at a: one per line (R198). -/
def lineReqs (a : Dword) (n : Nat) : List (Nat × Nat) := chunks a.toNat n

/-- READ requests of a remote load (R466). -/
def readReqs (node : BitVec 16) (a : Dword) (n : Nat) : List RemoteReq :=
  (lineReqs a n).map fun c =>
    { node := node, type := 0x02, flags := 0, arg := BitVec.ofNat 8 (c.2 - 1), addr := BitVec.ofNat 64 c.1, payload := [] }

/-- Send the requests of an instruction whose entry waits for them (R465); it waits to issue while an earlier
request to a line is outstanding. -/
def issueRemote (c : CoreId) (q : QueueId) (a : Dword) (e : QEntry) (rs : List RemoteReq) (s : State) : State :=
  match remoteOk c a s with
  | none => raise c .fabric true a s
  | some dom =>
    let s := closeWrite c s
    if rs.any fun r => remoteBusy c r s then s
    else
      let ids := nextIds rs.length s
      sendReqs c q dom (ids.zip rs) (issued c q { e with parts := ids.map fun i => (i, none), reqs := rs.length } s)

/-- The result of a load. -/
structure LoadForm where
  /-- Bytes moved, and the alignment of a local access. -/
  n : Nat
  signed : Bool
  vec : Bool

/-- The results of an entry that loads. -/
def loadEntry (f : LoadForm) (t : BitVec 5) (d : List Byte) : QEntry :=
  if f.vec then { vres := some (t, BitVec.ofNat 512 (leNat d)) } else { sres := [(t, scalarOf f.signed d)] }

/-- A load in local space: performed by the front end (R155 to R157, R208). -/
def localLoad (c : CoreId) (w : MFmt) (f : LoadForm) (a : Dword) (err : Option LineErr) (s : State) : State :=
  match localCheck a f.n f.n true with
  | some x => raise c x false a s
  | none =>
    let s := localFind c a.toNat f.n (localUpset c err s)
    let k := s.cores[c.val]
    if localPoison k a.toNat f.n then raise c .poison false a s
    else
      let (d, s) := localRead none c a.toNat f.n s
      advance c (if f.vec then setV c w.t (BitVec.ofNat 512 (leNat d)) s else setS c w.t (scalarOf f.signed d) s)

/-- A load in global space (R121, R222, R389, R417). -/
def globalLoad (c : CoreId) (w : MFmt) (f : LoadForm) (a : Dword) (s : State) : State :=
  closing c (fun s =>
    let r := readChunksP (coreWho c s) (portSized a.toNat f.n) (lineReqs a f.n) ⟨none, [], false, s⟩
    let n := (lineReqs a f.n).length
    match r.err with
    | some .stale => issued c .ni { deadEntry with reqs := n } r.s
    | some (.mtu _) => raise c .xlate true a r.s
    | some .engine => raise c .unit true a r.s
    | none => if r.poison then raise c .poison true a r.s else issued c .ni { loadEntry f w.t r.data with reqs := n } r.s) s

/-- A load in remote space (R464, R466). -/
def remoteLoad (c : CoreId) (w : MFmt) (f : LoadForm) (a : Dword) (s : State) : State :=
  let e := { loadEntry f w.t [] with answered := if f.vec then .vector else .scalar f.signed }
  issueRemote c .ni a e (readReqs (mNode s.cores[c.val] w) a f.n) s

/-- The slots that a load from AccMem reads (R209). -/
def accUse (k : Core) (w : MFmt) (n : Nat) (u : Use) : Use :=
  let a := (mAddr k w).toNat
  if w.sp = 0 && accBase ≤ a && a + n ≤ localEnd then { u with slots := [(a - accBase) / 4096] } else u

/-- The queue places of an access (R208). -/
def mQueue (k : Core) (w : MFmt) (n : Nat) (u : Use) : Use :=
  if w.sp = 0 then u else { u with q := some .ni, n := (lineReqs (mAddr k w) n).length }

/-- A load. -/
def loadInstr (c : CoreId) (w : MFmt) (ok : Bool) (f : LoadForm) (err : Option LineErr) (s : State) : Out :=
  let k := s.cores[c.val]
  let u : Use := if f.vec then { s := mUse w, v := [w.t] } else { s := w.t :: mUse w }
  coreInstr c w.g (ok && mSpaceOk w) (mQueue k w f.n (accUse k w f.n u)) (fun s =>
    let s := upset err s
    let a := mAddr s.cores[c.val] w
    if w.sp = 0 then localLoad c w f a err s else if w.sp = 1 then globalLoad c w f a s else remoteLoad c w f a s) s

/-- Bytes of a scalar access: x1:0 (R196). -/
def scalarSize (w : MFmt) : Nat := 2 ^ bits w.x 1 0

def execLd (c : CoreId) (w : MFmt) (err : Option LineErr) (s : State) : Out :=
  loadInstr c w (only w.x 3) { n := scalarSize w, signed := false, vec := false } err s

def execLds (c : CoreId) (w : MFmt) (err : Option LineErr) (s : State) : Out :=
  loadInstr c w (only w.x 3) { n := scalarSize w, signed := true, vec := false } err s

def execVld (c : CoreId) (w : MFmt) (err : Option LineErr) (s : State) : Out :=
  loadInstr c w (w.x = 0) { n := 64, signed := false, vec := true } err s

/-! ### Stores -/

/-- A store in local space (R155 to R157). -/
def localStore (c : CoreId) (a : Dword) (d : List Byte) (s : State) : State :=
  match localCheck a d.length d.length false with
  | some x => raise c x false a s
  | none => advance c (localWrite none c a.toNat d s)

/-- A store in global space. -/
def globalStore (c : CoreId) (a : Dword) (d : List Byte) (s : State) : State :=
  closing c (fun s =>
    let cs := lineReqs a d.length
    match writeChunksP (coreWho c s) (portSized a.toNat d.length) cs d s with
    | (some (.mtu _), s) => raise c .xlate true a s
    | (some .engine, s) => raise c .unit true a s
    | (some .stale, s) => issued c .ni { reqs := cs.length } s
    | (none, s) => issued c .ni { reqs := cs.length } (noteCore c s)) s

/-- Bytes from a to the end of its 4 KiB block. -/
def blockLeft (a : Nat) : Nat := 4096 - a % 4096

/-- A store of bytes at a continues a coalescing WRITE (R466). -/
def continues (k : Core) (node : BitVec 16) (a : Nat) : Bool :=
  match k.coalesce with
  | some w => w.node = node && w.addr + w.data.length = a && w.addr / 4096 = a / 4096
  | none => false

/-- One part of a remote store, within one 4 KiB block: it joins the coalescing WRITE it continues, or opens
one, whose entry then waits for the WACK (R466). -/
def joinWrite (c : CoreId) (node : BitVec 16) (a : Nat) (d : List Byte) (s : State) : State :=
  let s :=
    if continues s.cores[c.val] node a then
      modCore c (fun k => { k with coalesce := k.coalesce.map fun w => { w with data := w.data ++ d } }) s
    else
      let s := closeWrite c s
      let id := s.fab.nextReq
      let s := { s with fab := { s.fab with nextReq := id + 1 } }
      enqueue c .ni { parts := [(id, none)] } (modCore c (fun k => { k with coalesce := some ⟨node, a, d, id⟩ }) s)
  if d.length = blockLeft a then closeWrite c s else s

/-- A store in remote space (R464 to R466). -/
def remoteStore (c : CoreId) (node : BitVec 16) (a : Dword) (d : List Byte) (s : State) : State :=
  match remoteOk c a s with
  | none => raise c .fabric true a s
  | some _ =>
    let r : RemoteReq := { node := node, type := 0x01, flags := 0, arg := 0, addr := a, payload := d }
    let s := if continues s.cores[c.val] node a.toNat then s else closeWrite c s
    if remoteBusy c r s then s
    else
      let n := min d.length (blockLeft a.toNat)
      let pc := s.cores[c.val].pc
      let s := joinWrite c node a.toNat (d.take n) s
      let s := if d.length = n then s else joinWrite c node (a.toNat + n) (d.drop n) s
      if s.cores[c.val].st = .running && s.cores[c.val].pc = pc then advance c s else s

/-- A store. -/
def storeInstr (c : CoreId) (w : MFmt) (ok : Bool) (n : Nat) (u : Use) (d : Core → List Byte) (s : State) : Out :=
  coreInstr c w.g (ok && mSpaceOk w) (mQueue s.cores[c.val] w n u) (fun s =>
    let k := s.cores[c.val]
    let a := mAddr k w
    if w.sp = 0 then localStore c a (d k) s
    else if w.sp = 1 then globalStore c a (d k) s
    else remoteStore c (mNode k w) a (d k) s) s

def execSt (c : CoreId) (w : MFmt) (s : State) : Out :=
  storeInstr c w (only w.x 3) (scalarSize w) { s := w.t :: mUse w } (fun k => leBytes (scalarSize w) (sreg k w.t).toNat) s

def execVst (c : CoreId) (w : MFmt) (s : State) : Out :=
  storeInstr c w (w.x = 0) 64 { s := mUse w, v := [w.t] } (fun k => leBytes 64 (vreg k w.t).toNat) s

/-! ### BAR windows (R126, R133, R389, R398) -/

/-- The identity of BAR window accesses (R119, R153). -/
def barWho (i : InstId) (s : State) : Who := { inst := i, src := 612, gen := s.inst[i.val].gen }

/-- The offset lies in the window: 8 GiB of the PF, 256 MiB of a VF (R27). -/
def barInside (i : InstId) (off : BitVec 33) : Bool := i.val = 0 || off.toNat < 2 ^ 28

/-- BAR_WINDOW_READ: 0 on a fault or while the instance is not READY; poison is reported (R126, R133,
R389, R417). -/
def execBarWindowRead (i : InstId) (off : BitVec 33) (len : Nat) (s : State) : Out :=
  act (live s && barInside i off) (fun s =>
    if s.inst[i.val].st != .ready then emit (.readData (List.replicate len 0) false) s
    else
      let r := readChunksP (barWho i s) (portSized off.toNat len) (chunks off.toNat len) ⟨none, [], false, s⟩
      if r.err.isSome then emit (.readData (List.replicate len 0) false) r.s
      else if r.poison then emit (.aer .poisonedTlp) (emit (.readData r.data true) r.s)
      else emit (.readData r.data false) r.s) s

/-- BAR_WINDOW_WRITE: discarded on a fault or while the instance is not READY (R126, R133, R417). -/
def execBarWindowWrite (i : InstId) (off : BitVec 33) (data : List Byte) (s : State) : Out :=
  act (live s && s.inst[i.val].st = .ready && barInside i off) (fun s =>
    (writeChunksP (barWho i s) (portSized off.toNat data.length) (chunks off.toNat data.length) data s).2) s

end Sys2Proof.Machine
end

