-- ==== Sys2Proof/Machine/Sync.lean ====
section
/-! DEFINITION. Programs of partitions: LAUNCH, EXIT, barriers, FENCE, waits for time, SEND, the completion of
decoupled instructions, exceptions and the stop of a partition (R47, R48, R158 to R165, R172, R181 to R187, R205, R207
to R223). -/

namespace Sys2Proof.Machine

open Sys2Proof

/-! ### Barriers (R172) -/

/-- BAR (R172). -/
def execBar (c : CoreId) (w : RFmt) (s : State) : Out :=
  coreInstr c w.g (w.d = 0 && w.a = 0 && w.b = 0 && w.c = 0 && only w.x 3) {} (fun s =>
    let b : Fin 4 := Fin.ofNat 4 w.x.toNat
    let s := modCore c (fun k => { k with stall := .bar b, arrived := k.arrived ||| (1#4 <<< b.val) }) s
    leftRunning c s) s

/-! ### The end of a program (R161 to R163, R184, R407, R408) -/

/-- The later of two moments. -/
def laterStamp (a b : Option Stamp) : Option Stamp :=
  match a, b with
  | none, b => b
  | a, none => a
  | some x, some y => if x.ticks ≤ y.ticks then some y else some x

/-- A LAUNCH with what the program of its partition has brought it: the result of R162, inx, orphan and poison (R162, R184,
R408), and its last effect (R44). -/
def launchFold (n : Fin 64) (s : State) (x : Item) : Item :=
  let p := s.parts[n.val]
  let ks := (coresOf n s).map fun c => s.cores[c.val]
  let c0 := s.cores[(coreAt p 0).val]
  let word := if c0.st = .exited then c0.exitWord.toNat else 0
  let last := ks.foldl (fun t k => laterStamp t k.last) x.last
  let o := x.out
  { x with result := BitVec.ofNat 64 (word + p.firstFault.elim 0xFFFF Fin.val * 2 ^ 32)
           last := last
           out := { o with inx := o.inx || ks.any (fun k => k.everFlags != 0)
                           orphan := o.orphan || ks.any Core.orphan
                           poison := o.poison || ks.any (fun k => k.faultValid && k.faultCause = causeCode .poison)
                           effect := o.effect || last.isSome } }

/-- The LAUNCH of a partition takes over what its program has brought it, and the partition runs none. -/
def launchTake (n : Fin 64) (d : Nat) (s : State) : State :=
  modPart n (fun p => { p with item := none }) (modItem d (launchFold n s) s)

/-- Flags that the program of a partition set are reported to the owner and the PF (R26). The spec gives the event no index:
it is free (log entry 45). -/
def logInx (n : Fin 64) (s : State) : State :=
  if (coresOf n s).any fun c => s.cores[c.val].everFlags != 0 then
    let (e, s) := takeFree 8 s
    logBoth s.parts[n.val].owner (0x0400 + e.toNat) 0 0 0xFFFF s
  else s

/-- The LAUNCH of a partition completes with the result of R162. -/
def launchEnd (n : Fin 64) (f : Outcomes → Outcomes) (s : State) : State :=
  match s.parts[n.val].item with
  | none => s
  | some d => endEarly d f (launchTake n d (logInx n s))

/-- Locks held by the cores of a partition become ORPHANED (R407). -/
def orphanCores (n : Fin 64) (s : State) : State :=
  let cs := coresOf n s
  orphanWhere (fun l => l.st = .held && cs.contains l.core) s

/-- After a core has ended: its mailboxes grant and discard (R171), barriers are looked at (R172), and the program ends when
no core of the partition is RUNNING (R162). With a fault in the partition, the stop of R184 ends it. -/
def coreEnded (c : CoreId) (s : State) : State :=
  let s := mboxesEnd c s
  match partOf c s with
  | none => s
  | some n =>
    let s := barriers n s
    if s.parts[n.val].firstFault.isNone && (coresOf n s).all (fun c => s.cores[c.val].st != .running) then
      launchEnd n id (orphanCores n s)
    else s

/-- The queues that a FENCE mask names have completed their instructions; NI with the send buffer (R210). -/
def queuesDone (mask : BitVec 5) (k : Core) : Bool :=
  let m : BitVec 5 := if mask = 0 then 0x1F else mask
  (!bit m 0 || (k.ni.isEmpty && k.sendBuf.isEmpty && k.coalesce.isNone)) &&
    (!bit m 1 || k.arr.isEmpty) && (!bit m 2 || k.spx.isEmpty) && (!bit m 3 || k.hac.isEmpty) &&
    (!bit m 4 || k.ocu.isEmpty)

/-- EXIT completes (R162). -/
def exitNow (c : CoreId) (word : Word) (s : State) : State :=
  coreEnded c (modCore c (fun k => { k with st := .exited, stall := .none, exitWord := word, pc := k.pc + 8 }) (countIssue c s))

/-- A FENCE or EXIT that waits goes on once its condition holds (R163, R210). -/
def resume (c : CoreId) (s : State) : State :=
  let k := s.cores[c.val]
  match k.stall with
  | .fence m => if queuesDone m k then advance c (modCore c (fun k => { k with stall := .none }) s) else s
  | .exit w => if queuesDone 0 k then exitNow c w s else s
  | _ => s

/-- EXIT (R162, R163). -/
def execExit (c : CoreId) (w : RFmt) (s : State) : Out :=
  coreInstr c w.g (w.d = 0 && w.b = 0 && w.c = 0 && w.x = 0) { s := [w.a] } (fun s =>
    let word : Word := (sreg s.cores[c.val] w.a).setWidth 32
    closing c (fun s => resume c (modCore c (fun k => { k with stall := .exit word }) s)) s) s

/-- FENCE (R210): a WRITE that coalesces is closed (R466). -/
def execSyncFence (c : CoreId) (w : RFmt) (s : State) : Out :=
  coreInstr c w.g (w.d = 0 && w.a = 0 && w.b = 0 && w.c = 0 && only w.x 0x1F) {}
    (closing c fun s => resume c (modCore c (fun k => { k with stall := .fence (w.x.setWidth 5) }) s)) s

/-- The SYNC NOP (R205). -/
def execSyncNop (c : CoreId) (w : RFmt) (s : State) : Out :=
  coreInstr c w.g (w.d = 0 && w.a = 0 && w.b = 0 && w.c = 0 && w.x = 0) {} (advance c) s

/-! ### Radio time at a core (R47, R48, R205) -/

/-- GETT (R47). -/
def execGett (c : CoreId) (w : RFmt) (s : State) : Out :=
  coreInstr c w.g (w.a = 0 && w.b = 0 && w.c = 0 && only w.x 7) { s := [w.d], p := [predX w.x] }
    (fun s => advance c (setP c (predX w.x) (truth (s.eph.st = .locked)) (setS c w.d s.eph.now s))) s

/-- WAITT (R48). -/
def execWaitt (c : CoreId) (w : RFmt) (s : State) : Out :=
  coreInstr c w.g (w.d = 0 && w.b = 0 && w.c = 0 && only w.x 7) { s := [w.a], p := [predX w.x] } (fun s =>
    let t := rtsNorm (sreg s.cores[c.val] w.a)
    if t.toNat ≤ s.eph.now.toNat then advance c (setP c (predX w.x) (truth true) s)
    else modCore c (fun k => { k with stall := .waitt t }) (setP c (predX w.x) (truth false) s)) s

/-- The core waits for a time that has come. -/
def waittDue (k : Core) (now : Rts) : Bool :=
  match k.stall with
  | .waitt t => t.toNat ≤ now.toNat
  | _ => false

/-- WAITT_WAKE (R48). -/
def execWaittWake (c : CoreId) (s : State) : Out :=
  act (live s && waittDue s.cores[c.val] s.eph.now) (fun s => advance c (modCore c (fun k => { k with stall := .none }) s)) s

/-- TCHK (R205). -/
def execTchk (c : CoreId) (w : RFmt) (s : State) : Out :=
  coreInstr c w.g (w.d = 0 && w.b = 0 && w.c = 0 && only w.x 7) { s := [w.a], p := [predX w.x] }
    (fun s => advance c (setP c (predX w.x) (truth (!passed (sreg s.cores[c.val] w.a) s.eph.now)) s)) s

/-! ### SEND (R164, R205, R464, R468) -/

/-- Bytes of the send buffer in use. -/
def sendUsed (k : Core) : Nat := (k.sendBuf.map fun m => m.data.length).sum

/-- Count a message sent. -/
def countSent (c : CoreId) (s : State) : State :=
  modCore c (fun k => { k with msgSent := if k.ctrFreeze then k.msgSent else k.msgSent + 1 }) s

/-- A SEND within the partition: it waits while the send buffer lacks room (R164). -/
def sendLocal (c : CoreId) (n : Fin 64) (idx : Nat) (b : Fin 8) (d : List Byte) (s : State) : State :=
  if sendUsed s.cores[c.val] + d.length ≤ 2048 then
    closing c (fun s =>
      advance c (countSent c (noteCore c (modCore c (fun k =>
        { k with sendBuf := k.sendBuf ++ [{ dest := coreAt s.parts[n.val] idx, mbox := b, data := d, gen := k.gen }] }) s)))) s
  else s

/-- A SEND to a remote node: to a mailbox, or to the barrier unit (R464, R468). -/
def sendRemote (c : CoreId) (a : Dword) (b : Fin 8) (d : List Byte) (s : State) : State :=
  let bar := bits a 15 0 = 0xFFFF
  let r : RemoteReq :=
    { node := BitVec.ofNat 16 (bits a 31 16), type := if bar then 0x07 else 0x06, flags := 0, arg := BitVec.ofNat 8 b.val
      addr := if bar then 0 else BitVec.ofNat 64 (bits a 15 0), payload := d }
  let free := (remoteOk c 0 s).isSome && !remoteBusy c r (closeWrite c s)
  issueRemote c .ni (BitVec.ofNat 64 (bits a 15 0)) {} [r] (if free then countSent c s else s)

/-- SEND (R164). -/
def execSend (c : CoreId) (w : RFmt) (s : State) : Out :=
  coreInstr c w.g (w.d = 0 && only w.x 15)
    { s := [w.a, w.b, w.c], q := some .ni } (fun s =>
    let k := s.cores[c.val]
    let a := sreg k w.a
    let src := (sreg k w.b).toNat
    let len := (sreg k w.c).toNat
    let b : Fin 8 := Fin.ofNat 8 (bits w.x 2 0)
    let sized := 8 ≤ len && len ≤ 512 && len % 8 = 0 && inData src len
    match partOf c s with
    | none => raise c .msgRange false 0 s
    | some n =>
      if !sized || (!bit w.x 3 && partSize s.parts[n.val] ≤ a.toNat) then raise c .msgRange false 0 s
      else
        let s := localFind c src len s
        if localPoison s.cores[c.val] src len then raise c .poison false (BitVec.ofNat 64 src) s
        else
        let (d, s) := localRead (some .ni) c src len s
        if bit w.x 3 then sendRemote c a b d s else sendLocal c n a.toNat b d s) s

/-- MBX_DATA (R166): the oldest message that has its grant. The send buffer may then be empty, for a FENCE or EXIT of
the sender. -/
def execMbxData (src : CoreId) (ptrMismatch : Bool) (s : State) : Out :=
  match s.cores[src.val].sendBuf.find? fun m => m.step = .granted with
  | none => .next s
  | some m =>
    act (live s) (fun s =>
      resume src (mbxDeliver src m ptrMismatch s)) s

/-! ### Completion of decoupled instructions (R213, R215) -/

/-- The entry has all that it waits for. -/
def entryDone (e : QEntry) : Bool := !e.dead && e.lock.isNone && e.parts.all fun p => p.2.isSome

/-- The bytes of the answers, in the order of the requests. -/
def answerBytes (e : QEntry) : List Byte := e.parts.flatMap fun p => p.2.getD []

/-- Scalar results of an entry. -/
def entryScalars (e : QEntry) : List (BitVec 5 × Dword) :=
  let d := answerBytes e
  match e.answered with
  | .scalar sg => e.sres.map fun r => (r.1, scalarOf sg d)
  | .pair => (e.sres.zip [scalarOf false (d.take 8), scalarOf false ((d.drop 8).take 8)]).map fun r => (r.1.1, r.2)
  | _ => e.sres

/-- Vector result of an entry. -/
def entryVector (e : QEntry) : Option (BitVec 5 × BitVec 512) :=
  match e.answered with
  | .vector => e.vres.map fun r => (r.1, BitVec.ofNat 512 (leNat (answerBytes e)))
  | _ => e.vres

/-- Write the results of an entry and clear its marks (R213, R215). -/
def writeResults (c : CoreId) (e : QEntry) (s : State) : State :=
  let s := (entryScalars e).foldl (fun s r =>
    setS c r.1 r.2 (modCore c (fun k => { k with pendS := k.pendS &&& ~~~(1#32 <<< r.1.toNat) }) s)) s
  let s := match entryVector e with
    | some r => setV c r.1 r.2 (modCore c (fun k => { k with pendV := k.pendV &&& ~~~(1#32 <<< r.1.toNat) }) s)
    | none => s
  match e.pres with
  | some r => setP c r.1 (truth r.2) (modCore c (fun k => { k with pendP := k.pendP &&& ~~~(1#8 <<< r.1.toNat) }) s)
  | none => s

/-- The entry that completes next: the head of a queue, whose work is done; of the NI, the first that has what it waits
for (R208, R212). A CMPR first posts its rows (R326). -/
def nextDone (q : QueueId) (k : Core) : Option (QEntry × List QEntry) :=
  match q with
  | .ni => takeFirst entryDone k.ni
  | .ocu =>
    (match k.ocu with
     | e :: t => if entryDone e && e.posts = 0 then some (e, t) else none
     | [] => none)
  | q =>
    (match queueOf k q with
     | e :: t => if entryDone e then some (e, t) else none
     | [] => none)

/-! ### Exceptions and the stop of a partition (R184, R217, R260) -/

/-- CORE_EXCEPTION (R184). -/
def execCoreException (c : CoreId) (cause : Cause) (isGlobal : Bool) (addr : Dword) (s : State) : Out :=
  act (live s && s.cores[c.val].st = .running) (raise c cause isGlobal addr) s

/-- Abandon the queued work of a core (R184): what it may have written in part is undefined (R217), slots with their
state. -/
def abandonQueues (c : CoreId) (s : State) : State :=
  let k := s.cores[c.val]
  let es := k.arr ++ k.spx ++ k.hac ++ k.ocu ++ k.ni
  let s := modCore c (fun k => { k with arr := [], spx := [], hac := [], ocu := [], ni := [], posts := [], coalesce := none,
                                        pendS := 0, pendV := 0, pendP := 0, arrived := 0 }) s
  let s := (es.flatMap QEntry.wrote).foldl (fun s r => localUndefined c r s) s
  let s := (es.filter fun e => e.wrote.any fun r => accBase < r.1 + r.2).foldl (fun s e => slotsUndefined c e.config e.wrote s) s
  let s := if es.any QEntry.arrays then arraysUndefined c s else s
  if es.any QEntry.hash then haccUndefined c s else s

/-- Take up the grants that mailboxes have given to a core. -/
def takeGrants : Nat → CoreId → State → State
  | 0, _, s => s
  | n + 1, c, s =>
    match s.cores[c.val].sendBuf.find? fun m =>
        m.step = .reserved && grantedTo c m.dest m.mbox s < grantsTo c m.dest m.mbox s with
    | none => s
    | some m => takeGrants n c (setStep c m .granted s)

/-- Discard the messages of a core that are not granted, and their reservations (R184). -/
def dropUngranted (c : CoreId) (s : State) : State :=
  let s := takeGrants s.cores[c.val].sendBuf.length c s
  let s := { s with cores := s.cores.map fun k =>
    { k with mbox := k.mbox.map fun m => { m with waiting := m.waiting.filter fun r => r.src != some c } } }
  modCore c (fun k => { k with sendBuf := k.sendBuf.filter fun m => m.step = .granted }) s

/-- Stop one core: a RUNNING one enters STOPPED (R181, R184). Its waiting LACQs and pulls are removed (R404), and its
mailboxes grant and discard (R171). -/
def stopCore (c : CoreId) (s : State) : State :=
  let s := dropUngranted c (abandonQueues c s)
  let s := modCore c (fun k => { k with st := if k.st = .running then .stopped else k.st, stall := .none }) s
  let s := { s with dies := s.dies.map fun d => { d with pulls := d.pulls.filter fun p => p.2 ≠ c } }
  mboxesEnd c (dropWaiters (fun q => q.core = c) s)

/-- PARTITION_STOP (R184): after a fault, the other cores stop, locks are orphaned, and the LAUNCH completes. -/
def execPartitionStop (n : Fin 64) (s : State) : Out :=
  act (live s && s.parts[n.val].firstFault.isSome && s.parts[n.val].item.isSome) (fun s =>
    let cs := coresOf n s
    let fabric := s.parts[n.val].fabricFirst
    let s := orphanCores n (cs.foldl (fun s c => stopCore c s) s)
    launchEnd n (fun o => { o with fabricUnreach := o.fabricUnreach || fabric, coreFault := o.coreFault || !fabric }) s) s

/-! ### LAUNCH (R158 to R161, R223) -/

/-- The LAUNCH's partition. -/
def launchPart (x : Item) : Fin 64 := Fin.ofNat 64 (dfield x.raw 52 1)

/-- No program runs on the partition of a LAUNCH (R161). -/
def launchFree (s : State) (x : Item) : Bool := s.parts[(launchPart x).val].item.isNone

/-- Step 1 (R117, R158). -/
def launchOk (x : Item) (s : State) : Bool :=
  let p := s.parts[(launchPart x).val]
  p.valid && p.owner = x.inst && (dfield x.raw 32 4 != 0 || p.imageValid)

/-- Scalar registers at entry (R160). -/
def entryRegs (n : Fin 64) (p : Part) (x : Item) (c : CoreId) : Vector Dword 32 :=
  let px := coreX c - p.gx0.toNat
  let py := coreY c - p.gy0.toNat
  Vector.ofFn fun i : Fin 32 =>
    BitVec.ofNat 64 (match i.val with
      | 1 => py * p.width.toNat + px
      | 2 => px + py * 2 ^ 8 + p.width.toNat * 2 ^ 16 + p.height.toNat * 2 ^ 24
      | 3 => c.val
      | 4 => dfield x.raw 48 4
      | 5 => x.tag.toNat
      | 6 => n.val
      | _ => 0)

/-- Steps 2 and 5 on one core (R158, R160, R223). -/
def launchCore (n : Fin 64) (x : Item) (c : CoreId) (s : State) : State :=
  let p := s.parts[n.val]
  modCore c (fun k =>
    { k with st := .running, stall := .none, pc := BitVec.ofNat 17 (dfield x.raw 36 4), s := entryRegs n p x c
             p := Vector.replicate 8 0, v := Vector.replicate 32 0, flags := 0, everFlags := 0, orphan := false, last := none
             pendS := 0, pendV := 0, pendP := 0, arr := [], spx := [], hac := [], ocu := [], ni := [], posts := []
             coalesce := none, gen := x.gen, arrived := 0
             mbox := k.mbox.map fun m => { m with closed := false, msgs := [], granted := [], waiting := [] }
             sendBuf := [], exitWord := 0, faultValid := false }) s

/-- Write bytes to every core of a partition (steps 3 and 4); poisoned data poisons the lines it fills (R389). -/
def loadCores (cs : List CoreId) (a : Nat) (d : List Byte) (pois : List Nat) (s : State) : State :=
  if d = [] then s
  else cs.foldl (fun s c =>
    modCore c (fun k => { k with poisoned := pois.foldl (fun p l => addLine p (a / 64 + l)) k.poisoned }) (localPut c a d s)) s

/-- Lines of a read that are poisoned, counted from its start, by 64-byte pieces of the destination. -/
def poisonPieces (w : Who) (iva : Nat) : Nat → State → List Nat
  | 0, _ => []
  | n + 1, s =>
    let r := readIva w (iva + 64 * n) 64 s
    if r.poison then poisonPieces w iva n s ++ [n] else poisonPieces w iva n s

/-- Steps 3 and 4: read a block once and write it to every core. -/
def loadBlock (w : Who) (cs : List CoreId) (iva len dest : Nat) (s : State) : Option AccErr × Bool × State :=
  let pieces := poisonPieces w iva ((len + 63) / 64) s
  let r := readIva w iva len s
  match r.err with
  | some e => (some e, r.poison, r.s)
  | none => (none, r.poison, loadCores cs dest r.data (if r.poison then pieces else []) r.s)

/-- The LAUNCH ends because its image or arguments could not be read; its cores run no program. -/
def launchFails (n : Fin 64) (d : Nat) (e : AccErr) (s : State) : State :=
  let s := (coresOf n s).foldl (fun s c => modCore c (fun k => { k with st := .stopped }) s) s
  endEarly d (errOutcome e) (launchTake n d s)

/-- The addresses a LAUNCH names and reads from (R25, R89). -/
def launchNames (x : Item) : List (Access × Nat) :=
  (if dfield x.raw 32 4 = 0 then [] else [(Access.read, dfield x.raw 24 8)]) ++
    (if dfield x.raw 48 4 = 0 then [] else [(Access.read, dfield x.raw 40 8)])

/-- Steps 2 to 6 of R158, for the loader's identity. -/
def launchLoad (n : Fin 64) (x : Item) (w : Who) (s : State) : State :=
  let cs := coresOf n s
  let s := cs.foldl (fun s c => launchCore n x c s) s
  let s := modPart n (fun p => { p with item := some x.id, firstFault := none, fabricFirst := false }) s
  match loadBlock w cs (dfield x.raw 24 8) (dfield x.raw 32 4) 0 s with
  | (some e, _, s) => launchFails n x.id e s
  | (none, p1, s) =>
    let s := if dfield x.raw 32 4 = 0 then s else modPart n (fun p => { p with imageValid := true }) s
    match loadBlock w cs (dfield x.raw 40 8) (dfield x.raw 48 4) dataBase s with
    | (some e, _, s) => launchFails n x.id e s
    | (none, p2, s) => modItem x.id (fun x => { x with out := { x.out with poison := x.out.poison || p1 || p2 } }) s

/-- A LAUNCH that has passed step 1 of R158: the check of R25, then the load. The source number of the loader is
free: MTU_FAULT_INFO lists none for it. -/
def launchRun (n : Fin 64) (x : Item) (s : State) : State :=
  let (src, s) := takeFree 10 s
  let w : Who := { inst := x.inst, src := src.toNat, gen := x.gen }
  match firstRequests w (launchNames x) s with
  | (some e, s) => endEarly x.id (errOutcome e) s
  | (none, s) => launchLoad n x w s

/-- LAUNCH (R158): the partition must be free, its cores open (R528), and step 1 must pass. -/
def execLaunch (d : Nat) (s : State) : Out :=
  match findItem d s with
  | none => .next s
  | some x =>
    act (live s && isItem d 1 .ready s && isNext d 0 (launchFree s) s) (fun s =>
      let n := launchPart x
      let s := dispatchStart d 0 (launchFree s) s
      let closed := (coresOf n s).any fun c => unitClosed (unitCore c) s
      if closed then endEarly d (fun o => { o with engineFault := true, invalid := !launchOk x s }) s
      else if launchOk x s then launchRun n x s
      else endInvalid d s) s

/-- CTR_CLEAR (R187): counters, array counters and message counts (R266). -/
def coreCtrClear (k : Core) : Core :=
  { k with cnt := Vector.replicate 10 0, arrCnt := Vector.replicate 7 0, spxCnt := Vector.replicate 8 0
           msgSent := 0, msgRcvd := 0, msgDrop := 0 }

def execCtrClear (c : CoreId) (s : State) : Out := act (live s) (modCore c coreCtrClear) s

end Sys2Proof.Machine
end

