-- ==== Sys2Proof/Machine/Tensor.lean ====
section
/-! DEFINITION. Tensor descriptors, their checks, and the elements of a tensor (R224 to R245). -/

namespace Sys2Proof.Machine

open Sys2Proof

/-! ### Descriptors (R230 to R234) -/

/-- A tensor descriptor, read. -/
structure Tensor where
  base : Nat
  fmt : Nat
  /-- Bit 1 of mode: the elements lie in local memory. -/
  loc : Bool
  strict : Bool
  /-- 0 natural, 1 interleaved scale, 2 bit-plane. -/
  packing : Nat
  planeBits : Nat
  planeStride : Nat
  /-- Extent and stride of each dimension below rank. -/
  dims : List (Nat × Int)
  deriving DecidableEq, Repr

/-- A signed number of 64 bits. -/
def sgn64 (n : Nat) : Int := (BitVec.ofNat 64 n).toInt

/-- Dimension j of a descriptor. -/
def tdim (f : Nat → Nat → Nat) (j : Nat) : Nat × Int := (f (32 + 16 * j) 4, sgn64 (f (40 + 16 * j) 8))

/-- The descriptor that 128 bytes spell. -/
def tensorOf (d : List Byte) : Tensor :=
  let f (lo n : Nat) : Nat := leNat ((d.drop lo).take n)
  let mode := f 11 1
  { base := f 0 8, fmt := f 9 1 % 16, loc := mode / 2 % 2 = 1, strict := mode % 2 = 1, packing := mode / 4 % 4
    planeBits := f 12 1, planeStride := f 16 8, dims := (List.range (min (f 10 1) 6)).map (tdim f) }

/-- The packing that a format admits (R232). -/
def packingOf (fmt : Nat) : Nat := if fmt ∈ [6, 7, 8, 9] then 1 else if fmt = 10 then 2 else 0

/-- Stride of dimension 0, and the outer dimensions. -/
def Tensor.stride0 (t : Tensor) : Int := (t.dims.headD (1, 0)).2
def Tensor.extent (t : Tensor) (j : Nat) : Nat := (t.dims.getD j (1, 0)).1
def Tensor.stride (t : Tensor) (j : Nat) : Int := (t.dims.getD j (1, 0)).2

/-- Constraints of a packing on strides and extents (R232). -/
def packingOk (t : Tensor) : Bool :=
  let outer (m : Int) : Bool := (t.dims.drop 1).all fun d => d.2 % m = 0
  if t.fmt = 1 then t.stride0 = 1 && outer 2
  else if t.packing = 1 then t.stride0 = 1 && t.extent 0 % 32 = 0 && outer 32
  else if t.packing = 2 then t.stride0 = 1 && outer 8 && t.planeStride % 64 = 0
  else true

/-- The fields lie in the ranges of R230 to R232; `core`: the consumer is a core unit; `fmts`: the formats it takes;
`dest`: the constraints of R238. -/
def tensorFieldsOk (d : List Byte) (core : Bool) (fmts : List Nat) (dest : Bool) : Bool :=
  let f (lo n : Nat) : Nat := leNat ((d.drop lo).take n)
  let t := tensorOf d
  f 8 1 = 1 && f 9 1 < 14 && 1 ≤ f 10 1 && f 10 1 ≤ 6 && f 11 1 < 16 && t.packing = packingOf t.fmt &&
    (if t.packing = 2 then 1 ≤ t.planeBits && t.planeBits ≤ 4 && f 13 1 < 2
     else t.planeBits = 0 && f 13 1 = 0 && t.planeStride = 0) &&
    f 14 2 = 0 && f 24 8 = 0 && t.base < (if t.loc then 2 ^ 21 else 2 ^ 40) &&
    t.dims.all (fun e => 1 ≤ e.1 && e.2.natAbs < 2 ^ 40) &&
    (List.range 6).all (fun j => f (36 + 16 * j) 4 = 0 && (j < f 10 1 || (f (32 + 16 * j) 4 = 0 && f (40 + 16 * j) 8 = 0))) &&
    packingOk t && (core || !t.loc) && fmts.contains t.fmt &&
    (!dest || (t.packing = 0 && (t.dims.drop 1).all fun e => e.2 != 0))

/-- Bytes of an element of a whole-byte format (R224). -/
def elemBytes (fmt : Nat) : Nat :=
  if fmt = 4 ∨ fmt = 5 then 2 else if fmt = 11 ∨ fmt = 12 then 4 else if fmt = 13 then 16 else 1

/-- Bytes of an MX record (R232). -/
def recBytesOf (fmt : Nat) : Nat := if fmt = 6 then 33 else if fmt = 9 then 17 else 25

/-- An outer stride in bytes (R234). -/
def strideBytes (t : Tensor) (st : Int) : Int :=
  if t.packing = 1 then st / 32 * recBytesOf t.fmt
  else if t.packing = 2 then st / 8
  else if t.fmt = 1 then st / 2
  else st * elemBytes t.fmt

/-- The alignment mode holds (R234). -/
def tensorAligned (t : Tensor) : Bool :=
  t.base % 64 = 0 && (!t.strict || (t.stride0 = 1 && (t.dims.drop 1).all fun e => strideBytes t e.2 % 64 = 0))

/-- Why a tensor descriptor is rejected (R236). -/
inductive TensorErr where
  | fetchAlign
  | fetch (e : AccErr)
  | fields (poison : Bool)
  | align
  /-- A local descriptor lies outside data memory. -/
  | localRange
  deriving DecidableEq, Repr

/-- Code of the failed check in an error log entry (R589). -/
def TensorErr.code : TensorErr → Nat
  | .fetchAlign => 0
  | .fetch _ => 1
  | .fields _ => 2
  | .align => 3
  | .localRange => 0

/-- Judge 128 bytes. -/
def tensorJudge (d : List Byte) (poison core : Bool) (fmts : List Nat) (dest : Bool) : Except TensorErr Tensor :=
  if poison then .error (.fields true)
  else if !tensorFieldsOk d core fmts dest then .error (.fields false)
  else if !tensorAligned (tensorOf d) then .error .align
  else .ok (tensorOf d)

/-- Log a rejection to the owner instance (R245), one for alignment to the PF too (R26). -/
def logReject (w : Who) (a : Nat) (e : TensorErr) (s : State) : State :=
  match e with
  | .localRange => s
  | .fetch .stale => s
  | .align => logBoth w.inst 0x0310 a (w.src + e.code * 2 ^ 16) 0xFFFF s
  | e => logOne w.inst 0x0310 w.inst.val a (w.src + e.code * 2 ^ 16) 0xFFFF s

/-- Read a descriptor at an IVA (R235, R236, R244). -/
def tensorGlobal (w : Who) (core : Bool) (fmts : List Nat) (dest : Bool) (a : Nat) (s : State) : Except TensorErr Tensor × State :=
  if a % 64 != 0 then (.error .fetchAlign, logReject w a .fetchAlign s)
  else
    let r := readIva w a 128 s
    match r.err with
    | some e => (.error (.fetch e), logReject w a (.fetch e) r.s)
    | none =>
      match tensorJudge r.data r.poison core fmts dest with
      | .error e => (.error e, logReject w a e r.s)
      | .ok t => (.ok t, r.s)

/-- What a descriptor completes with when a tensor descriptor is rejected (R236, R244, R417). -/
def tensorOutcome (e : TensorErr) (o : Outcomes) : Outcomes :=
  match e with
  | .fetchAlign => { o with invalid := true }
  | .fetch e => errOutcome e o
  | .fields p => { o with invalid := true, poison := o.poison || p }
  | .align => { o with align := true }
  | .localRange => { o with invalid := true }

/-! ### Operand addresses of a core unit (R246) -/

/-- An address operand: bit 63 selects global, and bits 62:40 must be 0. -/
structure OpAddr where
  glob : Bool
  a : Nat
  deriving DecidableEq, Repr

/-- The address that a register names, if it is well formed. -/
def opAddr (v : Dword) : Option OpAddr :=
  if bits v 62 40 != 0 then none
  else if bit v 63 then some ⟨true, bits v 39 0⟩
  else some ⟨false, bits v 20 0⟩

/-- A core raises the exception that a rejected descriptor gives (R236, R244). -/
def tensorRaise (c : CoreId) (o : OpAddr) (e : TensorErr) (s : State) : State :=
  let a := BitVec.ofNat 64 o.a
  match e with
  | .fetchAlign => raise c (if o.glob then .unit else .localAlign) o.glob a s
  | .fetch e =>
    (match accCause e with
     | some x => raise c x o.glob a s
     | none => s)
  | .fields p =>
    let s := match partOf c s with
      | some n =>
        (match s.parts[n.val].item with
         | some d => if p then modItem d (fun x => { x with out := { x.out with poison := true } }) s else s
         | none => s)
      | none => s
    raise c .unit o.glob a s
  | .align => raise c .unit o.glob a s
  | .localRange => raise c .localRange o.glob a s

/-- Read a descriptor that a core unit names. -/
def tensorCore (c : CoreId) (fmts : List Nat) (dest : Bool) (o : OpAddr) (s : State) : Except TensorErr Tensor × State :=
  if o.glob then tensorGlobal (coreWho c s) true fmts dest o.a s
  else if o.a % 64 != 0 then (.error .fetchAlign, logReject (coreWho c s) o.a .fetchAlign s)
  else if !inData o.a 128 then (.error .localRange, s)
  else
    let s := localFind c o.a 128 s
    let pois := localPoison s.cores[c.val] o.a 128
    let (d, s) := localRead (some .arr) c o.a 128 s
    match tensorJudge d pois true fmts dest with
    | .error e => (.error e, logReject (coreWho c s) o.a e s)
    | .ok t => (.ok t, s)

/-- The place of a cause in the order in which one instruction raises (R221). -/
def causeRank : Cause → Nat
  | .illegal => 0 | .arrayOff => 1 | .msgRange => 2 | .binRange => 3 | .localAlign => 4 | .localRange => 5 | .xlate => 6
  | .poison => 7 | .fabric => 8 | .unit => 9 | .mbxPtr => 10

/-- What an instruction raises, as its place in that order and its effect. -/
abbrev Raised := Nat × (State → State)

/-- The one of two exceptions that comes first (R221). -/
def firstRaised (a b : Raised) : Raised := if b.1 < a.1 then b else a

/-- What a rejected descriptor raises (R221, R236); one whose read was discarded for an old generation raises nothing, and
the instruction never completes. -/
def tensorRaised (c : CoreId) (q : QueueId) (o : OpAddr) (e : TensorErr) : Raised :=
  match e with
  | .fetch .stale => (0, issued c q { dead := true })
  | e =>
    let x : Cause := match e with
      | .fetchAlign => if o.glob then .unit else .localAlign
      | .fetch e => (accCause e).getD .unit
      | .fields _ => .unit
      | .align => .unit
      | .localRange => .localRange
    (causeRank x, tensorRaise c o e)

/-- Fetch the descriptor that a register of an array instruction names: what it raises, or the tensor. -/
def tensorFetch (c : CoreId) (fmts : List Nat) (dest : Bool) (bad : State → State) (v : Dword) (s : State) :
    Except Raised (OpAddr × Tensor) × State :=
  match opAddr v with
  | none => (.error (causeRank .unit, bad), s)
  | some o =>
    match tensorCore c fmts dest o s with
    | (.error e, s) => (.error (tensorRaised c .arr o e), s)
    | (.ok t, s) => (.ok (o, t), s)

/-! ### Element addresses and values (R225 to R233) -/

/-- Byte address of an offset from base; one below 0 lies beyond the reach of an IVA as one past it does (R239). -/
def Tensor.addr (t : Tensor) (off : Int) : Nat :=
  let a := t.base + off
  if 0 ≤ a then a.toNat else 2 ^ 64 + (a % 2 ^ 64).toNat

/-- Bits of a sub-byte element (R229). -/
def elemBitsOf (fmt : Nat) : Nat := if fmt = 6 then 8 else if fmt = 9 ∨ fmt = 1 then 4 else 6

/-- The bytes that hold element position n: offset and length of each piece; for the MX formats the scale first
(R232). -/
def Tensor.span (t : Tensor) (plane : Nat) (n : Int) : List (Int × Nat) :=
  if t.packing = 1 then
    let r := n / 32 * recBytesOf t.fmt
    let b := n % 32 * elemBitsOf t.fmt
    let last := b + elemBitsOf t.fmt - 1
    [(r, 1), (r + 1 + b / 8, (last / 8 - b / 8 + 1).toNat)]
  else if t.packing = 2 then [(plane * t.planeStride + n / 8, 1)]
  else if t.fmt = 1 then [(n / 2, 1)]
  else [(n * elemBytes t.fmt, elemBytes t.fmt)]

/-- The floating-point layout of a format code. -/
def fmtFloat (fmt : Nat) : Option FFmt :=
  match fmt with
  | 2 => some fE4M3
  | 3 => some fE5M2
  | 4 => some fBF16
  | 5 => some fFP16
  | 7 => some fE3M2
  | 8 => some fE2M3
  | 9 => some fE2M1
  | 11 => some fFP32
  | _ => none

/-- Multiply a number by 2^e. -/
def scaleNum (e : Int) : Num → Num
  | .fin neg m x => .fin neg m (x + e)
  | n => n

/-- A two's-complement integer of w bits. -/
def sgnW (w n : Nat) : Int := if 2 ^ (w - 1) ≤ n then (n : Int) - 2 ^ w else n

/-- The value of element position n from its pieces (R225 to R229). A plane bit is 0 or 1. -/
def elemValue (fmt : Nat) (n : Int) (d : List (List Byte)) : Num :=
  let x := leNat (d.headD [])
  let y := leNat ((d.drop 1).headD [])
  match fmt with
  | 0 => numOfInt (sgnW 8 x)
  | 1 => numOfInt (sgnW 4 (x / 2 ^ (4 * (n % 2).toNat) % 16))
  | 6 => if x = 255 then .nan else scaleNum ((x : Int) - 127 - 6) (numOfInt (sgnW 8 y))
  | 10 => numOfInt ((x / 2 ^ (n % 8).toNat % 2 : Nat))
  | 12 => numOfInt (sgnW 32 x)
  | 13 => numOfInt (sgnW 128 x)
  | f =>
    (match fmtFloat f with
     | none => .nan
     | some g =>
       if f = 7 ∨ f = 8 ∨ f = 9 then
         let w := elemBitsOf f
         let v := y / 2 ^ ((n % 32 * w) % 8).toNat % 2 ^ w
         if x = 255 then .nan else scaleNum ((x : Int) - 127) (decodeF g v)
       else decodeF g x)

/-- A format stores zero in this element; a negative zero is zero (R228, R252). -/
def numZero : Num → Bool
  | .fin _ m _ => m = 0
  | _ => false

/-- The position of an element by its indices (R231). -/
def Tensor.pos (t : Tensor) (idx : List Nat) : Int := ((idx.zip t.dims).map fun p => (p.1 : Int) * p.2.2).sum

/-! ### Reading elements (R237, R242, R243) -/

/-- A read of one piece by a core unit, local or global: an exception, or bytes. -/
structure UnitRd where
  err : Option (Cause × Bool × Dword)
  /-- The request was discarded for an old generation. -/
  stale : Bool
  data : List Byte
  s : State

/-- Read the requests of a list in order, stopping at the first that fails or meets poison (R243). -/
def readUntil (w : Who) : List (Nat × Nat) → RdRes → RdRes
  | [], r => r
  | (a, n) :: t, r =>
    let x := readLine w .read a n r.s
    if x.err.isSome || x.poison then { x with data := r.data ++ x.data } else readUntil w t { x with data := r.data ++ x.data }

/-- Bytes of an operand of a core unit that works for queue q (R211, R237, R389, R417). -/
def unitRead (q : QueueId) (c : CoreId) (loc : Bool) (a n : Nat) (s : State) : UnitRd :=
  let ad := BitVec.ofNat 64 a
  if loc then
    let s := localFind c a n s
    if !inData a n then ⟨some (.localRange, false, ad), false, [], s⟩
    else if localPoison s.cores[c.val] a n then ⟨some (.poison, false, ad), false, [], s⟩
    else
      let (d, s) := localRead (some q) c a n s
      ⟨none, false, d, s⟩
  else
    let r := readUntil (coreWho c s) (chunks a n) ⟨none, [], false, s⟩
    match r.err with
    | some e =>
      (match accCause e with
       | some x => ⟨some (x, true, ad), false, [], r.s⟩
       | none => ⟨none, true, [], r.s⟩)
    | none => if r.poison then ⟨some (.poison, true, ad), false, [], r.s⟩ else ⟨none, false, r.data, r.s⟩

/-- Read pieces in order, stopping at the first that fails. -/
def unitReads (q : QueueId) (c : CoreId) (loc : Bool) : List (Nat × Nat) → UnitRd → List (List Byte) → UnitRd × List (List Byte)
  | [], r, acc => (r, acc.reverse)
  | (a, n) :: t, r, acc =>
    let x := unitRead q c loc a n r.s
    if x.err.isSome || x.stale then (x, acc.reverse) else unitReads q c loc t x (x.data :: acc)

/-- Values of elements of a tensor, by position. -/
def elemsRead (c : CoreId) (t : Tensor) (plane : Nat) : List Int → UnitRd → List Num → UnitRd × List Num
  | [], r, acc => (r, acc.reverse)
  | n :: rest, r, acc =>
    let p := unitReads .arr c t.loc ((t.span plane n).map fun e => (t.addr e.1, e.2)) r []
    if p.1.err.isSome || p.1.stale then (p.1, acc.reverse)
    else elemsRead c t plane rest p.1 (elemValue t.fmt n p.2 :: acc)

/-! ### Writing elements (R237, R238, R241) -/

/-- Index tuples of the outer dimensions, dimension 1 fastest. -/
def outerIdx : List (Nat × Int) → List (List Nat)
  | [] => [[]]
  | (e, _) :: t => (outerIdx t).flatMap fun r => (List.range e).map fun i => i :: r

/-- Nibbles packed into bytes, the odd one of an odd run 0 (R229, R238). -/
def packNibbles : List Nat → List Byte
  | [] => []
  | [a] => [BitVec.ofNat 8 (a % 16)]
  | a :: b :: t => BitVec.ofNat 8 (a % 16 + 16 * (b % 16)) :: packNibbles t

/-- The runs of bytes that a row of encoded elements starting at position n becomes: address and bytes. -/
def rowRuns (t : Tensor) (n : Int) (xs : List Nat) : List (Nat × List Byte) :=
  if t.fmt = 1 then [(t.addr (n / 2), packNibbles xs)]
  else
    let sz := elemBytes t.fmt
    if t.stride0 = 1 then [(t.addr (n * sz), xs.flatMap fun x => leBytes sz x)]
    else xs.mapIdx fun i x => (t.addr ((n + t.stride0 * i) * sz), leBytes sz x)

/-- Two runs share a byte. -/
def runsMeet (r q : Nat × List Byte) : Bool := r.1 < q.1 + q.2.length && q.1 < r.1 + r.2.length

/-- The byte at address a lies in two runs or more. -/
def sharedByte (rs : List (Nat × List Byte)) (a : Nat) : Bool :=
  1 < (rs.filter fun r => r.1 ≤ a && a < r.1 + r.2.length).length

/-- Runs with each byte that two of them share replaced by a free one (R241). -/
def freeShared (rs : List (Nat × List Byte)) (s : State) : List (Nat × List Byte) × State :=
  rs.foldl (fun p r =>
    let hit := rs.any fun q => runsMeet r q && q != r
    if hit || 1 < (rs.filter fun q => q == r).length then
      let (v, s) := takeFree (8 * r.2.length) p.2
      let d := r.2.mapIdx fun i b => if sharedByte rs (r.1 + i) then BitVec.ofNat 8 (v.toNat >>> (8 * i)) else b
      (p.1 ++ [(r.1, d)], s)
    else (p.1 ++ [r], p.2)) ([], s)

/-- Write runs for a core unit; answers the exception, if any. -/
def unitWrites (q : QueueId) (c : CoreId) (loc : Bool) : List (Nat × List Byte) → State → Option (Cause × Bool × Dword) × State
  | [], s => (none, s)
  | (a, d) :: t, s =>
    let ad := BitVec.ofNat 64 a
    if loc then
      if inData a d.length then unitWrites q c loc t (localWrite (some q) c a d s) else (some (.localRange, false, ad), s)
    else
      match writeIva (coreWho c s) a d false s with
      | (some e, _, s) =>
        (match accCause e with
         | some x => (some (x, true, ad), s)
         | none => unitWrites q c loc t s)
      | (none, _, s) => unitWrites q c loc t (noteCore c s)

/-- The first request of a list that does not translate for an access, recorded and logged (R126). -/
def probe (w : Who) (acc : Access) : List (Nat × Nat) → State → Option Nat × State
  | [], s => (none, s)
  | (a, _) :: t, s =>
    if !current w s then (none, s)
    else
      match translate w.inst acc a s with
      | (.error k, s) => (some a, mtuFault w.inst w.src k true a s)
      | (.ok _, s) => probe w acc t s

/-- Poison that an instruction has met, of which the destination is some ranges: a translation fault of theirs comes before
it (R221). -/
def poisonAfter (c : CoreId) (acc : Access) (glob : Bool) (rs : List (Nat × Nat)) (a : Dword) (s : State) : State :=
  match (if glob then probe (coreWho c s) acc (rs.flatMap fun r => chunks r.1 r.2) s else (none, s)) with
  | (some x, s) => raise c .xlate true (BitVec.ofNat 64 x) s
  | (none, s) => raise c .poison false a s

/-- Raise what a unit has met. -/
def unitRaise (c : CoreId) (e : Option (Cause × Bool × Dword)) (s : State) : State :=
  match e with
  | some (x, g, a) => raise c x g a s
  | none => s

/-- Ranges, if they are local ones. -/
def ifLocal (loc : Bool) (rs : List (Nat × Nat)) : List (Nat × Nat) := if loc then rs else []

/-- Local ranges of runs, for what is undefined if the work is abandoned. -/
def localRanges (loc : Bool) (rs : List (Nat × List Byte)) : List (Nat × Nat) :=
  if loc then rs.map fun r => (r.1, r.2.length) else []

/-- Global ranges of runs, for what is undefined if the work is raced (R218). -/
def globRanges (loc : Bool) (rs : List (Nat × List Byte)) : List (Nat × Nat) :=
  if loc then [] else rs.map fun r => (r.1, r.2.length)

end Sys2Proof.Machine
end

