-- ==== Sys2Proof/Machine/Slots.lean ====
section
/-! DEFINITION. Slots of AccMem and their state, the ledger formats L128 and L192, and how sums enter a slot (R267 to
R282). -/

namespace Sys2Proof.Machine

open Sys2Proof

/-! ### L128 and L192 (R267, R268, R270) -/

/-- The INF encoding of L192. -/
def infL192 : BitVec 192 := 1#192 <<< 191

/-- Integer content of an L128 value; none is INF. -/
def valL128 (x : L128) : Option Int := if x = infL128 then none else some x.toInt

/-- Integer content of an L192 value. -/
def valL192 (x : BitVec 192) : Option Int := if x = infL192 then none else some x.toInt

/-- An integer as an L128 value: outside the finite range it is INF. -/
def ofValL128 (v : Option Int) : L128 :=
  match v with
  | none => infL128
  | some v => if v.natAbs < 2 ^ 127 then BitVec.ofInt 128 v else infL128

/-- An integer as an L192 value. -/
def ofValL192 (v : Option Int) : BitVec 192 :=
  match v with
  | none => infL192
  | some v => if v.natAbs < 2 ^ 191 then BitVec.ofInt 192 v else infL192

/-- The exact sum; INF meets INF. -/
def addVal (a b : Option Int) : Option Int :=
  match a, b with
  | some x, some y => some (x + y)
  | _, _ => none

/-- An addend on the grid 2^W: its integer content and the flags inx and range (R270). -/
def toGrid (W : Int) (neg : Bool) (m : Nat) (e : Int) : Int × Word :=
  let r := roundMag neg m (e - W) 0
  let inx := e < W && m % 2 ^ (W - e).toNat != 0
  let big := if e < W then 2 ^ (103 + (W - e).toNat) ≤ m else 2 ^ 103 ≤ m * 2 ^ (e - W).toNat
  ((if neg then -(r : Int) else r), flagIf inx flagInx ||| flagIf big flagRange)

/-- The range flag of an addend that is already on the grid: its magnitude is 2^103 grid steps or more (R270, R272). -/
def rangeFlag (v : Option Int) : Word := flagIf (v.any fun x => 2 ^ 103 ≤ x.natAbs) flagRange

/-- A number enters an L128 ledger: NaN and infinities contribute INF (R228, R268, R270). -/
def enterL128 (W : Int) (acc : L128) (x : Num) : L128 × Word :=
  match x with
  | .fin neg m e =>
    let g := toGrid W neg m e
    let r := ofValL128 (addVal (valL128 acc) (some g.1))
    (r, g.2 ||| flagIf (r = infL128) flagInf)
  | _ => (infL128, flagInf)

/-! ### Slot data and state (R273, R279, R280) -/

/-- Local address of a slot (R155). -/
def slotBase (n : Nat) : Nat := accBase + n * 4096

/-- State of slot n. -/
def slotSt (k : Core) (n : Fin 64) : SlotSt := k.slots[n.val]

/-- Change the state of slot n. -/
def modSlot (c : CoreId) (n : Fin 64) (f : SlotSt → SlotSt) (s : State) : State :=
  modCore c (fun k => { k with slots := upd k.slots n f }) s

/-- The even slot of a pair, and the odd one. -/
def evenOf (n : Fin 64) : Fin 64 := ⟨n.val / 2 * 2, by omega⟩
def oddOf (n : Fin 64) : Fin 64 := ⟨n.val / 2 * 2 + 1, by omega⟩

/-- The 256 L128 words of a slot. -/
def slotWords (k : Core) (n : Fin 64) : List L128 := l128sOf 256 (localBytes k (slotBase n.val) 4096)

/-- Entry i of an L192 pair (R279). -/
def pairWord (k : Core) (n : Fin 64) (i : Nat) : BitVec 192 :=
  BitVec.ofNat 192 (leNat (localBytes k (slotBase (evenOf n).val + 16 * i) 16) +
    leNat (localBytes k (slotBase (oddOf n).val + 8 * i) 8) * 2 ^ 128)

/-- Write the 256 words of a slot. -/
def putSlot (c : CoreId) (n : Fin 64) (xs : List L128) (s : State) : State :=
  localPut c (slotBase n.val) (xs.flatMap fun x => leBytes 16 x.toNat) s

/-- Write the 256 entries of an L192 pair (R279). -/
def putPair (c : CoreId) (n : Fin 64) (xs : List (BitVec 192)) (s : State) : State :=
  let s := putSlot c (evenOf n) (xs.map fun x => x.setWidth 128) s
  localPut c (slotBase (oddOf n).val)
    ((xs.flatMap fun x => leBytes 8 (x.toNat / 2 ^ 128)) ++ List.replicate 2048 0) s

/-- The data of a slot is poisoned. -/
def slotPoison (k : Core) (n : Fin 64) : Bool := localPoison k (slotBase n.val) 4096

/-- A read of slots finds the errors of their lines (R387). -/
def slotsFind (c : CoreId) (ns : List (Fin 64)) (s : State) : State :=
  ns.foldl (fun s n => localFind c (slotBase n.val) 4096 s) s

/-- The slots that are read for slot n: both of an L192 pair (R279). -/
def readSlots (k : Core) (n : Fin 64) : List (Fin 64) := if (slotSt k n).form = 0 then [n] else [evenOf n, oddOf n]

/-- The slots that an instruction naming slot n names for R209: both of a pair, whose ping-pong may steer it (R280). -/
def namedSlots (n : Fin 64) : List Nat := [(evenOf n).val, (oddOf n).val]

/-- The slot that a reader of slot n reads (R280). -/
def readSlot (k : Core) (n : Fin 64) : Fin 64 :=
  if n.val % 2 = 0 && (slotSt k n).ppActive && (slotSt k n).ready then oddOf n else n

/-- The values of a slot, and whether it is an L192 pair (R279, R284). The spec states no value for the odd slot of
such a pair on its own: each of its values is free. -/
def slotVals (c : CoreId) (n : Fin 64) (s : State) : List (Option Int) × State :=
  let k := s.cores[c.val]
  let f := (slotSt k n).form
  if f = 1 then ((List.range 256).map fun i => valL192 (pairWord k n i), s)
  else if f = 0 then ((slotWords k n).map valL128, s)
  else
    let (v, s) := takeFree (128 * 256) s
    ((List.range 256).map fun i => valL128 (v.extractLsb' (128 * i) 128), s)

/-- Slots that a reader of n reads are poisoned. -/
def readPoison (k : Core) (n : Fin 64) : Bool := (readSlots k n).any (slotPoison k)

/-- Zero a slot's entries and run (R284). An L192 pair is zeroed whole. -/
def clearSlot (c : CoreId) (n : Fin 64) (s : State) : State :=
  let zero (n : Fin 64) (s : State) : State :=
    modSlot c n (fun x => { x with run := 0 }) (putSlot c n (List.replicate 256 0) s)
  if (slotSt s.cores[c.val] n).form = 0 then zero n s else zero (oddOf n) (zero (evenOf n) s)

/-- pp_active of the pair clears (R274, R280). -/
def clearPp (c : CoreId) (n : Fin 64) (s : State) : State := modSlot c (evenOf n) (fun x => { x with ppActive := false }) s

/-- A slot that is undefined (R217, R263): its data and its run are free. -/
def slotUndefined (c : CoreId) (n : Fin 64) (s : State) : State :=
  let s := localUndefined c (slotBase n.val, 4096) s
  let (r, s) := takeFree 32 s
  modSlot c n (fun x => { x with run := r }) s

/-- Local range of a slot. -/
def slotRange (n : Fin 64) : Nat × Nat := (slotBase n.val, 4096)

/-! ### In-array ledgers and their hand-off (R249, R273, R275 to R282) -/

/-- What enters one in-array ledger: a group sum, and whether it counts as a step. -/
abbrev Feed := List (Num × Bool)

/-- An in-array ledger in an MMA: its value, the L192 sum of the folds before it, steps since the last fold, and the
flags met (R278). -/
structure Acc where
  v : L128
  folded : Option Int
  steps : Nat
  flags : Word

/-- Fold an in-array ledger (R278). -/
def foldAcc (a : Acc) : Acc :=
  let t := addVal a.folded (valL128 a.v)
  { v := 0, folded := valL192 (ofValL192 t), steps := 0
    flags := a.flags ||| flagIf (ofValL192 t = infL192) flagInf }

/-- One feed enters (R270, R278). -/
def accFeed (W : Int) (spill : Bool) (a : Acc) (x : Num × Bool) : Acc :=
  let r := enterL128 W a.v x.1
  let b : Acc := { a with v := r.1, steps := a.steps + b2n x.2, flags := a.flags ||| r.2 }
  if spill && b.steps = 2 ^ 24 then foldAcc b else b

/-- All feeds of one entry. -/
def accRun (W : Int) (spill : Bool) (f : Feed) : Acc := f.foldl (accFeed W spill) ⟨0, some 0, 0, 0⟩

/-- Steps of a feed. -/
def feedSteps (f : Feed) : Nat := (f.filter fun x => x.2).length

/-- How an instruction writes its slot (R275, R280, R202). -/
structure SlotMode where
  acc : Fin 64
  add : Bool
  pp : Bool
  spill : Bool
  /-- BF16 and FP16 (R281). -/
  chunked : Bool

/-- The slot that is written: the fill slot of an active pair (R280). -/
def targetSlot (k : Core) (m : SlotMode) : Fin 64 :=
  if m.pp && (slotSt k m.acc).ppActive && (slotSt k m.acc).fill then oddOf m.acc else m.acc

/-- The spill bit fits the form of the slot (R276). -/
def formOk (k : Core) (m : SlotMode) : Bool :=
  !m.add || (((slotSt k (targetSlot k m)).form != 0) == m.spill)

/-- pp, spill and acc go together (R261, R276). -/
def slotModeOk (m : SlotMode) : Bool := !(m.acc.val % 2 = 1 && (m.pp || m.spill)) && !(m.pp && m.spill)

/-- The slots that an instruction of this mode names. -/
def slotsOf (k : Core) (m : SlotMode) : List (Fin 64) :=
  if m.spill then [evenOf m.acc, oddOf m.acc] else [targetSlot k m]

/-- Window base of what is written. -/
def slotW (k : Core) (m : SlotMode) : Int := (slotSt k (targetSlot k m)).wBase

/-- Ping-pong state before the write, and after it (R280). -/
def ppBegin (c : CoreId) (m : SlotMode) (s : State) : State :=
  if m.pp then
    modSlot c m.acc (fun x => if x.ppActive then x else { x with ppActive := true, fill := false, ready := false }) s
  else clearPp c m.acc s

def ppEnd (c : CoreId) (m : SlotMode) (s : State) : State :=
  if m.pp then modSlot c m.acc (fun x => { x with ready := x.fill, fill := !x.fill }) s else s

/-- Run after a write, saturating (R273, R275). -/
def runAfter (old : Word) (add : Bool) (n : Nat) : Word := satNat 32 (if add then old.toNat + n else n)

/-- Hand the in-array ledgers to the slot: `part` says which entries the instruction computes, and the others become 0
or stay (R249, R275, R314). What is handed to an entry is an addend too (R270). Flags run and chunk follow R272, R277 and
R282. -/
def handOff (c : CoreId) (m : SlotMode) (steps : Nat) (part : Nat → Bool) (accs : Nat → Acc) (s : State) : State :=
  let k := s.cores[c.val]
  let t := targetSlot k m
  let run := runAfter (slotSt k t).run m.add steps
  let idx := List.range 256
  let fs := (idx.filter part).foldl (fun f i => f ||| (accs i).flags) 0
  let part' (i : Nat) := if m.spill then (foldAcc (accs i)).folded else valL128 (accs i).v
  let fs := (idx.filter part).foldl (fun f i => f ||| rangeFlag (part' i)) fs
  let fs := fs ||| flagIf (m.chunked && 65536 < run.toNat) flagChunk ||| flagIf (!m.spill && 2 ^ 24 < run.toNat) flagRun
  if m.spill then
    let new := idx.map fun i =>
      let old := valL192 (pairWord k t i)
      if part i then ofValL192 (if m.add then addVal old (foldAcc (accs i)).folded else (foldAcc (accs i)).folded)
      else if m.add then pairWord k t i else 0
    let inf := idx.any fun i => part i && new.getD i 0 == infL192
    let s := putPair c t new s
    let s := modSlot c (evenOf t) (fun x => { x with form := 1, run := run }) s
    let s := modSlot c (oddOf t) (fun x => { x with form := 2, run := run }) s
    setFlags c (fs ||| flagIf inf flagInf)
      (modCore c (fun k => { k with ledger := Vector.replicate 256 0
                                    foldSteps := Vector.replicate 256 0 }) s)
  else
    let old := slotWords k t
    let new := idx.map fun i =>
      let o := old.getD i 0
      if part i then (if m.add then ofValL128 (addVal (valL128 o) (valL128 (accs i).v)) else (accs i).v)
      else if m.add then o else 0
    let inf := idx.any fun i => part i && new.getD i 0 == infL128
    let s := putSlot c t new s
    let s := modSlot c t (fun x => { x with form := if m.add then x.form else 0, run := run }) s
    setFlags c (fs ||| flagIf inf flagInf)
      (modCore c (fun k => { k with ledger := Vector.ofFn (fun i : Fin 256 => if part i.val then (accs i.val).v else 0)
                                    foldSteps := Vector.ofFn fun i : Fin 256 => if part i.val then satNat 32 steps else 0 }) s)

/-- The slots of an instruction become undefined (R263). -/
def modeUndefined (c : CoreId) (m : SlotMode) (s : State) : State :=
  (slotsOf s.cores[c.val] m).foldl (fun s n => slotUndefined c n s) s

end Sys2Proof.Machine
end

