-- ==== Sys2Proof/Machine/Matrix.lean ====
section
/-! DEFINITION. The matrix array: MMA and MCFG, and the dataflow that MMAS shares (R202, R246 to R266, R274 to R282). -/

namespace Sys2Proof.Machine

open Sys2Proof

/-! ### Dataflow (R250, R251) -/

/-- Products per PE per step, and k per block (R250). -/
def perPe (fmt : Nat) : Nat := if fmt = 1 ∨ fmt = 9 then 2 else 1
def kBlock (fmt : Nat) : Nat := 16 * perPe fmt

/-- Cycles of a row step (R250). -/
def rowCycles (fmt : Nat) : Nat := if fmt = 4 ∨ fmt = 5 then 2 else 1

/-- BF16 and FP16 accumulate in chunks (R202). -/
def isChunked (fmt : Nat) : Bool := fmt = 4 || fmt = 5

/-- PE rows of a group (R202, R251). -/
def groupRows (grp : Nat) : Nat := 4 * 2 ^ grp

/-- A row step: for each of the 16 PE rows, the k whose products it forms. -/
abbrev RowStep := List (List Nat)

/-- The row steps of `n` dense blocks from block `b0` on: PE row r takes consecutive k of the block (R250). -/
def denseSteps (fmt b0 n : Nat) : List RowStep :=
  (List.range n).map fun b => (List.range 16).map fun r =>
    (List.range (perPe fmt)).map fun j => (b0 + b) * kBlock fmt + r * perPe fmt + j

/-- A balanced tree of FP32 sums, adjacent pairs first (R251). -/
def treeAdd : Nat → List Nat → Nat
  | 0, xs => xs.headD 0
  | _ + 1, [] => 0
  | _ + 1, [x] => x
  | n + 1, xs =>
    let rec pairs : List Nat → List Nat
      | a :: b :: t => f32Add a b :: pairs t
      | t => t
    treeAdd n (pairs xs)

/-- A value that is a NaN or an infinity (R228). -/
def numBad : Num → Bool
  | .fin .. => false
  | _ => true

/-- The sum of a group: exact, or a tree of FP32 sums; NaN stands for a contribution of INF (R228, R251, R281). -/
def groupSum (chunked : Bool) (A B : Nat → Num) (g : List (List Nat)) : Num :=
  if chunked then
    decodeF fFP32 (treeAdd 4 (g.map fun ks => (ks.map fun k => encodeF fFP32 0 (mulNum (A k) (B k))).headD 0))
  else
    let ks := g.flatten
    if ks.any fun k => numBad (A k) || numBad (B k) then .nan
    else ks.foldl (fun t k => addNum t (mulNum (A k) (B k))) (.fin false 0 0)

/-- Cut the 16 PE rows of a row step into groups (R251). -/
def groupsOf : Nat → Nat → RowStep → List (List (List Nat))
  | 0, _, _ => []
  | n + 1, g, r => if r = [] then [] else r.take g :: groupsOf n g (r.drop g)

/-- The feed of an entry from the row steps of its row. -/
def feedOf (chunked : Bool) (g : Nat) (A B : Nat → Num) (rs : List RowStep) : Feed :=
  rs.flatMap fun r => (groupsOf 16 g r).map fun x => (groupSum chunked A B x, true)

/-- Products of row steps with a zero element or none (R252). -/
def gatedOf (p : Nat) (A B : Nat → Num) (rs : List RowStep) : Nat :=
  (rs.map fun r => 16 * p - (r.flatten.filter fun k => !numZero (A k) && !numZero (B k)).length).sum

/-- Count the array's work: issue cycles as active, products, gated products (R266). The model's front end waits while the
array works, so that every cycle counts once (R176; log entry 55). -/
def countArray (c : CoreId) (cycles products gated : Nat) (s : State) : State :=
  modCore c (fun k =>
    if k.ctrFreeze then k
    else
      let t := BitVec.ofNat 64 cycles
      let n := upd (upd (upd k.arrCnt 0 (· + t)) 5 (· + BitVec.ofNat 64 products)) 6 (· + BitVec.ofNat 64 gated)
      { k with arrCnt := n, cnt := upd (upd k.cnt 0 (· + t)) 3 (· + t) }) s

/-! ### Operands (R246 to R248) -/

/-- The x field of MMA and MMAS (R202). -/
structure MatX where
  fmt : Nat
  grp : Nat
  add : Bool
  pp : Bool
  spill : Bool
  ta : Bool
  tb : Bool
  plane : Nat
  planeNeg : Bool
  path : Nat

def matX (x : BitVec 23) : MatX :=
  { fmt := bits x 22 19, grp := bits x 18 17, add := bit x 16, pp := bit x 15, spill := bit x 14, ta := bit x 13
    tb := bit x 12, plane := bits x 11 9, planeNeg := bit x 8, path := bits x 7 6 }

/-- How the instruction writes its slot. -/
def matMode (acc : BitVec 6) (x : MatX) : SlotMode :=
  { acc := ⟨acc.toNat, acc.isLt⟩, add := x.add, pp := x.pp, spill := x.spill, chunked := isChunked x.fmt }

/-- An operand tensor as a matrix: rows along dim `r`, k along the other (R247). -/
structure Operand where
  t : Tensor
  /-- k runs along dimension 0. -/
  k0 : Bool

def Operand.extK (o : Operand) : Nat := o.t.extent (if o.k0 then 0 else 1)
def Operand.extR (o : Operand) : Nat := o.t.extent (if o.k0 then 1 else 0)

/-- Position of element (row, k). -/
def Operand.at_ (o : Operand) (r k : Nat) : Int := o.t.pos (if o.k0 then [k, r] else [r, k])

/-- Checks of two operand descriptors against the instruction (R247, R248). -/
def operandsOk (x : MatX) (a b : Operand) (K : Nat) : Bool :=
  a.t.dims.length = 2 && b.t.dims.length = 2 && K ≤ a.extK && K ≤ b.extK &&
    (if x.fmt = 10 then b.t.fmt = 10 && (a.t.fmt = 0 || a.t.fmt = 1) && x.plane < b.t.planeBits
     else a.t.fmt = x.fmt && b.t.fmt = x.fmt) &&
    (if 6 ≤ x.fmt then !x.ta && !x.tb else true)

/-- Read rows of an operand: row by row, in rising k. -/
def operandRead (c : CoreId) (o : Operand) (plane rows K : Nat) (s : State) : UnitRd × List Num :=
  let ps := (List.range rows).flatMap fun r => (List.range K).map fun k => o.at_ r k
  elemsRead c o.t plane ps ⟨none, false, [], s⟩ []

/-- Data-memory ranges that reading them touches, the descriptor at `o` among them. -/
def operandRanges (d : OpAddr) (o : Operand) (plane rows K : Nat) : List (Nat × Nat) :=
  ifLocal (!d.glob) [(d.a, 128)] ++
    ifLocal o.t.loc (((List.range rows).flatMap fun r => (List.range K).map fun k => o.at_ r k).flatMap fun n =>
      (o.t.span plane n).map fun e => (o.t.addr e.1, e.2))

/-- An element, zero beyond the rows read or beyond K (R247, R250). -/
def elemAt (xs : Array Num) (rows K r k : Nat) : Num :=
  if r < rows && k < K then xs.getD (r * K + k) (.fin false 0 0) else .fin false 0 0

/-! ### The common course of MMA and MMAS -/

/-- What a unit's instruction comes to: done, discarded for an old generation, or an exception. -/
inductive UnitEnd where
  | done
  | stale
  | fails (x : Cause) (glob : Bool) (addr : Dword)

/-- Finish a decoupled instruction (R207, R213, R220). -/
def finish (c : CoreId) (q : QueueId) (e : QEntry) (r : UnitEnd) (s : State) : State :=
  match r with
  | .done => issued c q e s
  | .stale => issued c q { e with dead := true } s
  | .fails x g a => raise c x g a s

/-- What a failed read comes to. -/
def rdEnd (r : UnitRd) : UnitEnd :=
  match r.err with
  | some (x, g, a) => .fails x g a
  | none => if r.stale then .stale else .done

/-- A residue check fails on a column (R264): recorded, the slot is undefined, UNIT. How many failures of one array the spec
calls repeated is open: from the second on, whether one is reported to Nucleus is free (log entry 47). -/
def residueFail (c : CoreId) (m : SlotMode) (col : Fin 16) (s : State) : State :=
  let again := s.cores[c.val].checkCount != 0
  let s := modCore c (fun k => { k with checkFail := true, checkCol := BitVec.ofNat 4 col.val, checkCount := satInc k.checkCount }) s
  let (b, s) := takeFree 1 s
  let s := raise c .unit false 0 (logPf 0x0420 (coreInst c s).val 0 0 c.val (modeUndefined c m s))
  if again && b = 1 then unitFault (unitCore c) 0x20 s else s

/-- The array is on: an off one raises ARRAY_OFF (R257). -/
def arrayOn (c : CoreId) (f : State → State) (s : State) : State :=
  if s.cores[c.val].cols = 0 then raise c .arrayOff false 0 s else f s

/-- The entry of an array instruction, with what is undefined if it is abandoned. -/
def arrEntry (k : Core) (m : SlotMode) : QEntry := { wrote := (slotsOf k m).map slotRange, arrays := true, mma := true }

/-- The errors of the slots that an instruction adds to are found, and poison in them counts (R299, R387). -/
def addFind (c : CoreId) (m : SlotMode) (s : State) : State := if m.add then slotsFind c (slotsOf s.cores[c.val] m) s else s

/-- A slot that an instruction adds to is poisoned. -/
def addPoison (k : Core) (m : SlotMode) : Bool := m.add && (slotsOf k m).any (slotPoison k)

/-- The x field of MMA is legal (R191, R202, R276). -/
def mmaLegal (w : TFmt) : Bool :=
  let x := matX w.x
  w.e = 0 && x.fmt ≤ 10 && x.grp ≤ 2 && bits w.x 7 0 = 0 && slotModeOk (matMode w.acc x)

/-- MMA with both operands read: the array runs, and the slot is written (R249 to R252, R275). -/
def mmaRun (c : CoreId) (x : MatX) (m : SlotMode) (a b : Operand) (K rows cols : Nat) (av bv : List Num) (s : State) : State :=
  let fmt := if x.fmt = 10 then 0 else x.fmt
  let A := elemAt av.toArray (min 16 a.extR) K
  let B := elemAt bv.toArray (min cols b.extR) K
  let Bw (n k : Nat) : Num :=
    if x.fmt = 10 then (if x.planeNeg then negNum (scaleNum x.plane (B n k)) else scaleNum x.plane (B n k)) else B n k
  let blocks := (K + kBlock fmt - 1) / kBlock fmt
  let rs := denseSteps fmt 0 blocks
  let g := groupRows x.grp
  let W := slotW s.cores[c.val] m
  let accs (i : Nat) : Acc := accRun W x.spill (feedOf (isChunked x.fmt) g (A (i / 16)) (Bw (i % 16)) rs)
  let gated := ((List.range rows).map fun r => ((List.range cols).map fun n => gatedOf (perPe fmt) (A r) (B n) rs).sum).sum
  let s := countArray c (16 * blocks * rowCycles x.fmt) (16 * cols * blocks * kBlock fmt) gated s
  ppEnd c m (handOff c m (blocks * (16 / g)) (fun i => i % 16 < cols) accs (ppBegin c m s))

/-- The descriptor formats that the array reads (R224). -/
def arrayFmts : List Nat := List.range 11

/-- K is in its range (R246). -/
def kOk (K : Nat) : Bool := 1 ≤ K && K < 2 ^ 32

/-- MMA with both descriptors fetched. -/
def mmaBody (c : CoreId) (x : MatX) (m : SlotMode) (oa ob : OpAddr) (ta tb : Tensor) (K : Nat) (residue : Option (Fin 16))
    (s : State) : State :=
  let a : Operand := ⟨ta, !x.ta⟩
  let b : Operand := ⟨tb, !x.tb⟩
  let s := addFind c m s
  let k := s.cores[c.val]
  let cols := k.cols.toNat
  if addPoison k m then raise c .poison false 0 s
  else if !kOk K || !operandsOk x a b K || !formOk k m then raise c .unit false 0 s
  else
    let e := arrEntry k m
    let ra := operandRead c a 0 (min 16 a.extR) K s
    if ra.1.err.isSome || ra.1.stale then finish c .arr e (rdEnd ra.1) (modeUndefined c m ra.1.s)
    else
      let rb := operandRead c b x.plane (min cols b.extR) K ra.1.s
      if rb.1.err.isSome || rb.1.stale then finish c .arr e (rdEnd rb.1) (modeUndefined c m rb.1.s)
      else
        match residue with
        | some col => residueFail c m col rb.1.s
        | none =>
          let rs := operandRanges oa a 0 (min 16 a.extR) K ++ operandRanges ob b x.plane (min cols b.extR) K
          issued c .arr { e with read := rs } (mmaRun c x m a b K 16 cols ra.2 rb.2 rb.1.s)

/-- The slots and ledgers that an instruction of this mode waits for (R209). -/
def matUse (w : TFmt) (regs : List (BitVec 5)) : Use :=
  { s := regs, q := some .arr, slots := namedSlots ⟨w.acc.toNat, w.acc.isLt⟩, ledgers := true }

/-- MMA (R246 to R249): both descriptors are fetched, and of what they and the other operands raise the first in order
stands (R221). -/
def execMma (c : CoreId) (w : TFmt) (residue : Option (Fin 16)) (s : State) : Out :=
  coreInstr c w.g (mmaLegal w) (matUse w [w.a, w.b, w.c]) (arrayOn c fun s =>
    let k := s.cores[c.val]
    let unit : State → State := raise c .unit false 0
    match tensorFetch c arrayFmts false unit (sreg k w.a) s with
    | (ra, s) =>
      match ra, tensorFetch c arrayFmts false unit (sreg k w.b) s with
      | .error x, (.error y, s) => (firstRaised x y).2 s
      | .error x, (.ok _, s) => x.2 s
      | .ok _, (.error y, s) => y.2 s
      | .ok a, (.ok b, s) => mmaBody c (matX w.x) (matMode w.acc (matX w.x)) a.1 b.1 a.2 b.2 (sreg k w.c).toNat residue s) s

/-- MCFG (R274). -/
def execMcfg (c : CoreId) (w : TFmt) (s : State) : Out :=
  coreInstr c w.g (w.b = 0 && w.c = 0 && w.e = 0 && w.x = 0) (matUse w [w.a]) (arrayOn c fun s =>
    let W : Int := ((sreg s.cores[c.val] w.a).setWidth 16).toInt
    let n : Fin 64 := ⟨w.acc.toNat, w.acc.isLt⟩
    if W < -512 || 511 < W then raise c .unit false 0 s
    else
      let s := putSlot c n (List.replicate 256 0) s
      let s := modSlot c n (fun x => { x with wBase := W, form := 0, run := 0 }) s
      issued c .arr { wrote := [slotRange n], config := true } (clearPp c n s)) s

end Sys2Proof.Machine
end

