-- ==== Sys2Proof/Machine/Ledger.lean ====
section
/-! DEFINITION. Reading slots: DRAIN, REDMAX and REDMIN; context images; LADD, FADD and LADDT; and the completion of
decoupled instructions (R203, R206, R213, R283 to R291, R299, R300). -/

namespace Sys2Proof.Machine

open Sys2Proof

/-! ### DRAIN (R283, R284) -/

/-- A value V·2^e in an output format, and whether a finite value was saturated or became an infinity (R284). -/
def drainValue (fmt rnd : Nat) (e : Int) (v : Option Int) : Nat × Bool :=
  let int (w : Nat) : Nat × Bool :=
    match v with
    | none => (2 ^ (w - 1), false)
    | some x =>
      let m := roundMag (x < 0) x.natAbs e rnd
      let y : Int := if x < 0 then -(m : Int) else m
      let z := max (-(2 ^ (w - 1) : Int)) (min (2 ^ (w - 1) - 1) y)
      ((z % 2 ^ w).toNat, z != y)
  match fmt with
  | 0 => int 8
  | 1 => int 4
  | 12 => int 32
  | 13 =>
    (match v with
     | none => (infL128.toNat, false)
     | some x => ((ofValL128 (some x)).toNat, 2 ^ 127 ≤ x.natAbs))
  | f =>
    (match fmtFloat f with
     | none => (0, false)
     | some g =>
       match v with
       | none => (canonNaN g, false)
       | some x => if x = 0 then (0, false) else roundFin g (x < 0) x.natAbs e rnd)

/-- The formats that DRAIN writes (R224). -/
def drainFmts : List Nat := [0, 1, 2, 3, 4, 5, 11, 12, 13]

/-- The destination meets R283. -/
def drainDestOk (t : Tensor) (fmt : Nat) : Bool :=
  t.fmt = fmt && t.dims.length = 2 && t.extent 0 ≤ 16 && t.extent 1 ≤ 16

/-- The runs that DRAIN writes: entry (m, n) to element (n, m). -/
def drainRuns (t : Tensor) (enc : Nat → Nat) : List (Nat × List Byte) :=
  (List.range (t.extent 1)).flatMap fun m =>
    rowRuns t (t.pos [0, m]) ((List.range (t.extent 0)).map fun n => enc (16 * m + n))

/-- DRAIN with its destination checked. -/
def drainRun (c : CoreId) (o : OpAddr) (r : Fin 64) (fmt rnd : Nat) (clear : Bool) (sc : Int) (t : Tensor) (s : State) : State :=
  let k := s.cores[c.val]
  let (vs, s) := slotVals c r s
  let e := (slotSt k r).wBase + sc
  let xs := vs.map fun v => drainValue fmt rnd e v
  let used (i : Nat) : Bool := i % 16 < t.extent 0 && i / 16 < t.extent 1
  let sat := (List.range 256).any fun i => used i && (xs.getD i (0, false)).2
  let (runs, s) := freeShared (drainRuns t fun i => (xs.getD i (0, false)).1) s
  let s := if clear then clearSlot c r s else s
  let s := setFlags c (flagIf sat flagSat) s
  let en : QEntry := { wrote := localRanges t.loc runs ++ (if clear then [slotRange r] else [])
                       gwrote := globRanges t.loc runs
                       read := ifLocal (!o.glob) [(o.a, 128)] }
  match unitWrites .arr c t.loc runs s with
  | (none, s) => issued c .arr en s
  | (some (x, g, a), s) => raise c x g a s

/-- What DRAIN raises for a poisoned slot of which `t` is the destination, where that is known. -/
def drainPoison (c : CoreId) (r : Fin 64) (t : Option Tensor) (s : State) : State :=
  let a := BitVec.ofNat 64 (slotBase r.val)
  match t with
  | some t => poisonAfter c .write (!t.loc) ((drainRuns t fun _ => 0).map fun x => (x.1, x.2.length)) a s
  | none => raise c .poison false a s

/-- DRAIN (R283). A poisoned slot comes before what raises UNIT (R221). -/
def execDrain (c : CoreId) (w : TFmt) (s : State) : Out :=
  let fmt := bits w.x 22 19
  let rnd := bits w.x 18 17
  let n : Fin 64 := ⟨w.acc.toNat, w.acc.isLt⟩
  coreInstr c w.g (w.c = 0 && w.e = 0 && bits w.x 15 0 = 0 && drainFmts.contains fmt)
    { s := [w.a, w.b], q := some .arr, slots := namedSlots n } (fun s =>
    let k := s.cores[c.val]
    let sc := (sreg k w.b).toInt
    let r := readSlot k n
    match tensorFetch c drainFmts true (raise c .unit false 0) (sreg k w.a) s with
    | (.error x, s) =>
      let s := slotsFind c (readSlots k r) s
      if readPoison s.cores[c.val] r then (firstRaised x (causeRank .poison, drainPoison c r none)).2 s else x.2 s
    | (.ok (o, t), s) =>
      let s := slotsFind c (readSlots k r) s
      let destOk := drainDestOk t fmt
      if readPoison s.cores[c.val] r then drainPoison c r (if destOk then some t else none) s
      else if sc < -256 || 255 < sc || (fmt = 13 && (sc != 0 || rnd != 0)) || !destOk then raise c .unit false 0 s
      else drainRun c o r fmt rnd (bit w.x 16) sc t s) s

/-! ### REDMAX and REDMIN (R285) -/

/-- A new value beats the one that stands: INF always wins, ties stay. -/
def redBeats (isMax : Bool) (old new : Option Int) : Bool :=
  match old, new with
  | none, _ => false
  | some _, none => true
  | some a, some b => if isMax then a < b else b < a

/-- The winner among entries, as (value, index). -/
def redBest (isMax : Bool) : List (Option Int × Nat) → Option (Option Int × Nat)
  | [] => none
  | x :: t => some (t.foldl (fun b y => if redBeats isMax b.1 y.1 then y else b) x)

/-- A 32-byte result. -/
def redRecord (v : L128) (i : Nat) : List Byte := leBytes 16 v.toNat ++ leBytes 4 i ++ List.replicate 12 0

/-- The record of a group of entries that are compared. With no column taking part the spec states no result for scopes
0 and 1: it is free. -/
def redOut (isMax : Bool) (es : List (Option Int × Nat)) (empty : List Byte) : List Byte × Bool :=
  match redBest isMax es with
  | none => (empty, false)
  | some (v, i) =>
    (redRecord (ofValL128 v) i, match v with
      | some x => 2 ^ 127 ≤ x.natAbs
      | none => false)

/-- The entries that each record compares, with the index it reports (R285). -/
def redGroups (scope cols : Nat) (vs : List (Option Int)) : List (List (Option Int × Nat)) :=
  let v (i : Nat) : Option Int := vs.getD i (some 0)
  let rows := List.range 16
  let ns := List.range cols
  if scope = 0 then [rows.flatMap fun m => ns.map fun n => (v (16 * m + n), 16 * m + n)]
  else if scope = 1 then rows.map fun m => ns.map fun n => (v (16 * m + n), n)
  else rows.map fun n => if n < cols then rows.map fun m => (v (16 * m + n), m) else []

/-- REDMAX and REDMIN. -/
def redInstr (c : CoreId) (w : TFmt) (isMax : Bool) (s : State) : Out :=
  let scope := bits w.x 18 17
  coreInstr c w.g (w.b = 0 && w.c = 0 && w.e = 0 && only w.x 0x60000 && scope ≤ 2)
    { s := [w.a], q := some .arr, slots := namedSlots ⟨w.acc.toNat, w.acc.isLt⟩ } (fun s =>
    let k := s.cores[c.val]
    let n := readSlot k ⟨w.acc.toNat, w.acc.isLt⟩
    let a := BitVec.ofNat 64 (slotBase n.val)
    let s := slotsFind c (readSlots k n) s
    let pois := readPoison s.cores[c.val] n
    match opAddr (sreg k w.a) with
    | none => if pois then raise c .poison false a s else raise c .unit false 0 s
    | some o =>
      let len := if scope = 0 then 32 else 512
      if !o.glob && o.a % 32 != 0 then raise c .localAlign false (BitVec.ofNat 64 o.a) s
      else if !o.glob && !inData o.a len then raise c .localRange false (BitVec.ofNat 64 o.a) s
      else if pois then poisonAfter c .write o.glob [(o.a, len)] a s
      else
        let (vs, s) := slotVals c n s
        let (f, s) := takeFree 160 s
        let empty := if scope = 2 then redRecord 0 0xFFFFFFFF else leBytes 20 f.toNat ++ List.replicate 12 0
        let rs := (redGroups scope k.cols.toNat vs).map fun es => redOut isMax es empty
        let d := rs.flatMap fun r => r.1
        let s := setFlags c (flagIf (rs.any fun r => r.2) flagSat) s
        match unitWrites .arr c (!o.glob) [(o.a, d)] s with
        | (none, s) =>
          issued c .arr { wrote := localRanges (!o.glob) [(o.a, d)], gwrote := globRanges (!o.glob) [(o.a, d)] } s
        | (some (x, g, a), s) => raise c x g a s) s

def execRedmax (c : CoreId) (w : TFmt) (s : State) : Out := redInstr c w true s
def execRedmin (c : CoreId) (w : TFmt) (s : State) : Out := redInstr c w false s

/-! ### Context images (R203, R257, R286, R287, R298) -/

/-- A slot number from a natural number. -/
def slotOf (n : Nat) : Fin 64 := Fin.ofNat 64 n

/-- The 16-byte record of a slot (R286). -/
def slotRecord (x : SlotSt) : List Byte :=
  leBytes 2 (x.wBase % 2 ^ 16).toNat ++
    [x.form.setWidth 8, BitVec.ofNat 8 (b2n x.ppActive + 2 * b2n x.fill + 4 * b2n x.ready)] ++ leBytes 4 x.run.toNat ++
    List.replicate 8 0

/-- The image of slots f to f + n − 1 (R286); with the array fused off the in-array part is zeros (R257). -/
def imageBytes (k : Core) (f n : Nat) (arrays : Bool) : List Byte :=
  [1, BitVec.ofNat 8 f, BitVec.ofNat 8 n, BitVec.ofNat 8 (b2n arrays)] ++ List.replicate 60 0 ++
    ((List.range 64).flatMap fun j => if j < n then slotRecord (slotSt k (slotOf (f + j))) else List.replicate 16 0) ++
    ((List.range n).flatMap fun j => localBytes k (slotBase (f + j)) 4096) ++
    (if arrays then
      (List.finRange 256).flatMap fun i =>
        if k.cols = 0 then List.replicate 32 0
        else leBytes 16 k.ledger[i.val].toNat ++ leBytes 4 k.foldSteps[i.val].toNat ++ List.replicate 12 0
     else [])

/-- Bytes of an image. -/
def imageLen (n : Nat) (arrays : Bool) : Nat := 1088 + 4096 * n + (if arrays then 8192 else 0)

/-- Field of an image. -/
def imf (d : List Byte) (lo n : Nat) : Nat := leNat ((d.drop lo).take n)

/-- w_base of record j. -/
def imW (d : List Byte) (j : Nat) : Int := (BitVec.ofNat 16 (imf d (64 + 16 * j) 2)).toInt

/-- The checks of R287. -/
def imageOk (d : List Byte) (f n : Nat) (arrays : Bool) : Bool :=
  imf d 0 1 = 1 && imf d 2 1 = n && imf d 3 1 % 2 = b2n arrays &&
    (List.range n).all fun j =>
      -512 ≤ imW d j && imW d j ≤ 511 &&
        (imf d (66 + 16 * j) 1 != 1 ||
          ((imf d 1 1 + j) % 2 = 0 && (f + j) % 2 = 0 && j + 1 < n && imf d (66 + 16 * (j + 1)) 1 = 2))

/-- Restore slot f + j from an image: pp_active of its pair clears, then the saved state holds (R280, R298). -/
def restoreSlot (c : CoreId) (d : List Byte) (f j : Nat) (s : State) : State :=
  let n := slotOf (f + j)
  let p := imf d (67 + 16 * j) 1
  let s := localPut c (slotBase n.val) ((d.drop (1088 + 4096 * j)).take 4096) s
  let s := if n.val % 2 = 1 && j = 0 then clearPp c n s else s
  modSlot c n (fun _ =>
    { wBase := imW d j, form := BitVec.ofNat 2 (imf d (66 + 16 * j) 1), run := BitVec.ofNat 32 (imf d (68 + 16 * j) 4)
      ppActive := p % 2 = 1, fill := p / 2 % 2 = 1, ready := p / 4 % 2 = 1 }) s

/-- Restore an image that has been read: none where a check fails (R287). -/
def restoreImage (c : CoreId) (d : List Byte) (f n : Nat) (arrays : Bool) (s : State) : Option State :=
  if imageOk d f n arrays then
    let s := (List.range n).foldl (fun s j => restoreSlot c d f j s) s
    let o := 1088 + 4096 * n
    some (if arrays && s.cores[c.val].cols != 0 then
      modCore c (fun k => { k with ledger := Vector.ofFn (fun i : Fin 256 => BitVec.ofNat 128 (imf d (o + 32 * i.val) 16))
                                   foldSteps := Vector.ofFn fun i : Fin 256 => BitVec.ofNat 32 (imf d (o + 32 * i.val + 16) 4) }) s
     else s)
  else none

/-- The legal forms of the CTX family, and the slots they name (R203). -/
def ctxLegal (w : MFmt) : Bool := mSpaceOk w && only w.x 0x7F

/-- First slot, count and in-array part of a CTX instruction; none where st is out of range (R203). -/
def ctxSlots (k : Core) (w : MFmt) : Option (Nat × Nat × Bool) :=
  let f := bits w.x 5 0
  let n := (sreg k w.t).toNat
  if 1 ≤ n && n ≤ 64 - f then some (f, n, bit w.x 6) else none

/-- The slots and ledgers that a CTX instruction names (R209). -/
def ctxUse (k : Core) (w : MFmt) : Use :=
  { s := w.t :: mUse w, q := some .arr, slots := (ctxSlots k w).elim [] fun x => (List.range x.2.1).map (x.1 + ·)
    ledgers := bit w.x 6 }

/-- A CTX instruction: issue checks, then its course. -/
def ctxInstr (c : CoreId) (w : MFmt) (f : Nat → Nat → Bool → Dword → State → State) (s : State) : Out :=
  coreInstr c w.g (ctxLegal w) (ctxUse s.cores[c.val] w) (fun s =>
    let k := s.cores[c.val]
    match ctxSlots k w with
    | none => raise c .illegal false 0 s
    | some (f0, n, arr) =>
      let a := mAddr k w
      if w.sp = 0 && a.toNat % 64 != 0 then raise c .localAlign false a s
      else if w.sp = 0 && !inData a.toNat (imageLen n arr) then raise c .localRange false a s
      else f f0 n arr a s) s

/-- Bytes cut at 4 KiB blocks, for WRITE messages (R460). -/
def blockReqs : Nat → BitVec 16 → Nat → List Byte → List RemoteReq
  | 0, _, _, _ => []
  | f + 1, node, a, d =>
    if d = [] then []
    else
      let n := min d.length (blockLeft a)
      { node := node, type := 0x01, flags := 0, arg := 0, addr := BitVec.ofNat 64 a, payload := d.take n } ::
        blockReqs f node (a + n) (d.drop n)

/-- CTXSV (R286). -/
def execCtxsv (c : CoreId) (w : MFmt) (s : State) : Out :=
  ctxInstr c w (fun f n arr a s =>
    let s := slotsFind c ((List.range n).map fun j => slotOf (f + j)) s
    let k := s.cores[c.val]
    if (List.range n).any fun j => slotPoison k (slotOf (f + j)) then
      poisonAfter c .write (w.sp = 1) [(a.toNat, imageLen n arr)] (BitVec.ofNat 64 (slotBase f)) s
    else
      let d := imageBytes k f n arr
      if w.sp = 2 then issueRemote c .arr a {} (blockReqs (d.length / 4096 + 2) (mNode k w) a.toNat d) s
      else
        match unitWrites .arr c (w.sp = 0) [(a.toNat, d)] s with
        | (none, s) =>
          issued c .arr { wrote := localRanges (w.sp = 0) [(a.toNat, d)], gwrote := globRanges (w.sp = 0) [(a.toNat, d)] } s
        | (some (x, g, ad), s) => raise c x g ad s) s

/-- The entry of a CTXLD. -/
def ctxEntry (f n : Nat) (arr : Bool) : QEntry :=
  { wrote := (List.range n).map fun j => slotRange (slotOf (f + j)), config := true, arrays := arr }

/-- CTXLD (R287); a remote image is restored when its answers have come. -/
def execCtxld (c : CoreId) (w : MFmt) (s : State) : Out :=
  ctxInstr c w (fun f n arr a s =>
    if w.sp = 2 then
      issueRemote c .arr a { ctxEntry f n arr with answered := .image f n arr }
        (readReqs (mNode s.cores[c.val] w) a (imageLen n arr)) s
    else
      let r := unitRead .arr c (w.sp = 0) a.toNat (imageLen n arr) s
      match r.err with
      | some (x, g, ad) => raise c x g ad r.s
      | none =>
        if r.stale then issued c .arr { dead := true } r.s
        else
          match restoreImage c r.data f n arr r.s with
          | some s => issued c .arr { ctxEntry f n arr with read := ifLocal (w.sp = 0) [(a.toNat, imageLen n arr)] } s
          | none => raise c .unit false 0 r.s) s

/-! ### LADD, FADD and LADDT (R198, R199, R206, R288 to R291) -/

/-- A local target of an atomic: data memory or AccMem (R289), aligned to its size (R198). -/
def atomLocal (a : Dword) (n align : Nat) : Option Cause :=
  if a.toNat % align != 0 then some .localAlign
  else if inData a.toNat n || (accBase ≤ a.toNat && a.toNat + n ≤ localEnd) then none
  else some .localRange

/-- What an atomic of a core does, wherever its word lies. -/
structure AtomForm where
  n : Nat
  align : Nat
  type : Byte
  /-- The update of the word. -/
  f : List Byte → List Byte × Bool
  payload : List Byte
  ret : Bool
  /-- The ledger flags of the operand as an addend (R270). -/
  fl : Word := 0
  /-- The entry that returns an old value. -/
  e : List Byte → QEntry

/-- An atomic in local space: performed at the issuing core (R289, R300). -/
def localAtomic (c : CoreId) (m : AtomForm) (a : Dword) (s : State) : State :=
  match atomLocal a m.n m.align with
  | some x => raise c x false a s
  | none =>
    let s := localFind c a.toNat m.n s
    if localPoison s.cores[c.val] a.toNat m.n then raise c .poison false a s
    else
      let (old, s) := localRead (some .ni) c a.toNat m.n s
      let r := m.f old
      let e : QEntry := { m.e old with wrote := [(a.toNat, m.n)] }
      issued c .ni e (setFlags c (m.fl ||| flagIf r.2 flagInf) (localWrite (some .ni) c a.toNat r.1 s))

/-- An atomic in global space (R199, R289). -/
def globalAtomic (c : CoreId) (m : AtomForm) (a : Dword) (s : State) : State :=
  if a.toNat % m.align != 0 then raise c .unit true a s
  else
    let r := atomIva (coreWho c s) a.toNat m.n m.f s
    match r.err with
    | some .stale => issued c .ni { dead := true } r.s
    | some e => raise c ((accCause e).getD .unit) true a r.s
    | none =>
      if r.poison then raise c .poison true a r.s
      else issued c .ni (m.e r.old) (setFlags c (m.fl ||| flagIf r.inf flagInf) (noteCore c r.s))

/-- An atomic in remote space (R199, R464, R466). -/
def remoteAtomic (c : CoreId) (node : BitVec 16) (m : AtomForm) (a : Dword) (s : State) : State :=
  if (remoteOk c a s).isNone then raise c .fabric true a s
  else if a.toNat % m.align != 0 then raise c .unit true a s
  else
    let e := m.e []
    let e : QEntry := { e with answered := if !m.ret then .none else if m.n = 16 then .pair else .scalar false }
    let q : RemoteReq :=
      { node := node, type := m.type, flags := if m.ret then 2 else 0, arg := 0, addr := a, payload := m.payload }
    let s := closeWrite c s
    if remoteBusy c q s then s else issueRemote c .ni a e [q] (setFlags c m.fl s)

/-- An atomic. -/
def atomInstr (c : CoreId) (w : MFmt) (legal : Bool) (regs : List (BitVec 5)) (m : Core → AtomForm) (s : State) : Out :=
  coreInstr c w.g (legal && mSpaceOk w && only w.x 1) { s := regs ++ mUse w, q := some .ni } (fun s =>
    let k := s.cores[c.val]
    let a := mAddr k w
    if w.sp = 0 then localAtomic c (m k) a s
    else if w.sp = 1 then closing c (globalAtomic c (m k) a) s
    else remoteAtomic c (mNode k w) (m k) a s) s

/-- The value of an L128 register pair. -/
def pairReg (k : Core) (t : BitVec 5) : L128 :=
  BitVec.ofNat 128 ((sreg k t).toNat + (sreg k (t + 1)).toNat * 2 ^ 64)

/-- The results of LADD with ret. -/
def laddEntry (t : BitVec 5) (ret : Bool) (d : List Byte) : QEntry :=
  if ret then { sres := [(t, scalarOf false (d.take 8)), (t + 1, scalarOf false ((d.drop 8).take 8))] } else {}

/-- LADD (R288); its operand is an addend of the issuing core, whatever its W (R269, R270). -/
def execLadd (c : CoreId) (w : MFmt) (s : State) : Out :=
  atomInstr c w (bits w.t 0 0 = 0) [w.t, w.t + 1] (fun k =>
    { n := 16, align := 16, type := 0x03, f := laddBytes (pairReg k w.t), payload := leBytes 16 (pairReg k w.t).toNat
      ret := bit w.x 0, fl := rangeFlag (valL128 (pairReg k w.t)), e := laddEntry w.t (bit w.x 0) }) s

/-- FADD (R291). -/
def execFadd (c : CoreId) (w : MFmt) (s : State) : Out :=
  atomInstr c w true [w.t] (fun k =>
    let v : Word := (sreg k w.t).setWidth 32
    { n := 4, align := 4, type := 0x04, f := faddBytes v, payload := leBytes 4 v.toNat
      ret := bit w.x 0, e := fun d => if bit w.x 0 then { sres := [(w.t, scalarOf false d)] } else {} }) s

/-- LADDT in local space, word by word: the ledger flags it sets, and the state. -/
def localLaddt (c : CoreId) : Nat → List L128 → Word → State → Word × State
  | _, [], fl, s => (fl, s)
  | a, v :: t, fl, s =>
    let (old, s) := localRead (some .ni) c a 16 s
    let r := laddBytes v old
    localLaddt c (a + 16) t (fl ||| rangeFlag (valL128 v) ||| flagIf r.2 flagInf) (localWrite (some .ni) c a r.1 s)

/-- LADDT (R288). A poisoned slot or target word leaves every word as it is (R299). -/
def execLaddt (c : CoreId) (w : MFmt) (s : State) : Out :=
  coreInstr c w.g (w.t = 0 && mSpaceOk w && only w.x 0x3F)
    { s := mUse w, q := some .ni, slots := namedSlots (slotOf (bits w.x 5 0)) } (fun s =>
    let s := slotsFind c [readSlot s.cores[c.val] (slotOf (bits w.x 5 0))] s
    let k := s.cores[c.val]
    let a := mAddr k w
    let n := readSlot k (slotOf (bits w.x 5 0))
    let vs := slotWords k n
    let fl := vs.foldl (fun (f : Word) v => f ||| rangeFlag (valL128 v)) 0
    let bad := if w.sp = 0 then atomLocal a 4096 64 else none
    if bad.isSome then raise c (bad.getD .localAlign) false a s
    else if slotPoison k n then
      poisonAfter c .atomic (w.sp = 1 && a.toNat % 64 = 0) [(a.toNat, 4096)] (BitVec.ofNat 64 (slotBase n.val)) s
    else if w.sp = 2 && (remoteOk c a s).isNone then raise c .fabric true a s
    else if (slotSt k n).form != 0 then raise c .unit false 0 s
    else if w.sp != 0 && a.toNat % 64 != 0 then raise c .unit true a s
    else if w.sp = 0 then
      let s := localFind c a.toNat 4096 s
      if localPoison s.cores[c.val] a.toNat 4096 then raise c .poison false a s
      else
        let r := localLaddt c a.toNat vs 0 s
        issued c .ni { wrote := [(a.toNat, 4096)] } (setFlags c r.1 r.2)
    else if w.sp = 1 then
      closing c (fun s =>
        let r := laddMany (coreWho c s) a.toNat vs s
        let wrote := !r.poison && (r.err.isNone || r.s.mem.dpa != s.mem.dpa)
        let s := setFlags c (flagIf r.inf flagInf) (if wrote then noteCore c r.s else r.s)
        match r.err with
        | some .stale => issued c .ni { dead := true } s
        | some e => raise c ((accCause e).getD .unit) true a s
        | none => if r.poison then raise c .poison true a s else issued c .ni {} (setFlags c fl s)) s
    else
      let q : RemoteReq :=
        { node := mNode k w, type := 0x05, flags := 0, arg := 0, addr := a, payload := vs.flatMap fun v => leBytes 16 v.toNat }
      let s := closeWrite c s
      if remoteBusy c q s then s else issueRemote c .ni a {} [q] (setFlags c fl s)) s

/-! ### Completion (R213, R215) -/

/-- A remote image that has come is restored, or UNIT is raised (R287). -/
def imageArrives (c : CoreId) (e : QEntry) (s : State) : State :=
  match e.answered with
  | .image f n arr =>
    (match restoreImage c (answerBytes e) f n arr s with
     | some s => s
     | none => raiseAt c .unit e.pc false 0 s)
  | _ => s

end Sys2Proof.Machine
end

