-- ==== Sys2Proof/Machine/Tiles.lean ====
section
/-! DEFINITION. Sparse tiles: descriptors, bodies, and MMAS (R302 to R315). -/

namespace Sys2Proof.Machine

open Sys2Proof

/-! ### The tile descriptor (R302, R303) -/

/-- A tile descriptor, read. -/
structure Tile where
  glob : Bool
  body : Nat
  fmt : Nat
  /-- 0 D, 1 G8, 2 G16, 3 G32, 4 S16, 5 S32. -/
  sfmt : Nat
  mask : Bool
  trans : Bool
  nnz : Nat
  bands : List Nat
  lines : Nat
  rows : Nat
  cols : Nat
  rowBase : Nat
  /-- Data-memory ranges that reading it touches. -/
  read : List (Nat × Nat) := []
  deriving DecidableEq, Repr

/-- The descriptor that 32 bytes spell. -/
def tileOf (d : List Byte) : Tile :=
  let b := imf d 0 6
  { glob := b / 2 ^ 47 % 2 = 1, body := b % 2 ^ 40, fmt := imf d 6 1 % 16, sfmt := imf d 7 1 % 8
    mask := imf d 7 1 / 8 % 2 = 1, trans := imf d 7 1 / 16 % 2 = 1, nnz := imf d 8 2
    bands := [imf d 10 2, imf d 12 2, imf d 14 2], lines := imf d 16 2, rows := imf d 18 1, cols := imf d 19 1
    rowBase := imf d 28 4 }

/-- The fields of a descriptor lie in their ranges (R302). A D tile has no positions, so neither mask nor trans. -/
def tileFieldsOk (d : List Byte) : Bool :=
  let t := tileOf d
  let b := imf d 0 6
  b / 2 ^ 40 % 2 ^ 7 = 0 && b % 64 = 0 && (t.glob || b % 2 ^ 47 < 2 ^ 21) &&
    imf d 6 1 < 16 && imf d 7 1 < 32 && t.sfmt ≤ 5 && (t.fmt ≤ 5 || (t.fmt ≤ 9 && t.sfmt = 0)) &&
    (t.sfmt != 0 || (!t.mask && !t.trans && t.bands = [0, 0, 0])) && t.nnz ≤ 4096 &&
    1 ≤ t.lines && t.lines ≤ 512 && 1 ≤ t.rows && t.rows ≤ 64 && 1 ≤ t.cols && t.cols ≤ 64 &&
    (List.range 3).all fun i => 16 * (i + 1) < t.rows || t.bands.getD i 0 = 0

/-- Bits of an element that a tile stores (R224, R315). -/
def tileWidth (fmt : Nat) : Nat :=
  if fmt = 1 ∨ fmt = 9 then 4 else if fmt = 4 ∨ fmt = 5 then 16 else if fmt = 7 ∨ fmt = 8 then 6 else 8

/-- Bits of a value field. -/
def Tile.valueBits (t : Tile) : Nat := if t.mask then 0 else if t.trans then 16 else tileWidth t.fmt

/-! ### Bodies (R304 to R307) -/

/-- A stored element: row, column, value field. -/
abbrev Stored := Nat × Nat × Nat

/-- Group size, header bits and code bits of a G format (R305). -/
def gWidths (sfmt : Nat) : Nat × Nat × Nat :=
  if sfmt = 1 then (8, 4, 3) else if sfmt = 2 then (16, 5, 4) else (32, 6, 5)

/-- Strictly ascending. -/
def ascending : List Nat → Bool
  | [] => true
  | [_] => true
  | a :: b :: t => a < b && ascending (b :: t)

/-- One row record of a G body as bits: the groups from `i` on; columns and values, and the bits used. -/
def gRow (g h c vw : Nat) : Nat → Nat → Nat → Option (List (Nat × Nat) × Nat)
  | 0, _, _ => some ([], 0)
  | n + 1, i, x =>
    let cnt := x % 2 ^ h
    let codes := (List.range cnt).map fun k => x / 2 ^ (h + k * c) % 2 ^ c
    let vals := (List.range cnt).map fun k => x / 2 ^ (h + cnt * c + k * vw) % 2 ^ vw
    let len := h + cnt * (c + vw)
    if g < cnt || !ascending codes then none
    else
      match gRow g h c vw n (i + 1) (x / 2 ^ len) with
      | none => none
      | some (r, l) => some ((codes.map fun k => g * i + k).zip vals ++ r, len + l)

/-- The rows of a G body from row r at byte offset o: stored elements, and the offsets of the rows. -/
def gRows (t : Tile) (body : Nat) : Nat → Nat → Nat → Option (List Stored × List Nat)
  | 0, _, _ => some ([], [])
  | n + 1, r, o =>
    let (g, h, c) := gWidths t.sfmt
    match gRow g h c t.valueBits (64 / g) 0 (body / 2 ^ (8 * o)) with
    | none => none
    | some (es, len) =>
      let bytes := (len + 63) / 64 * 8
      if 64 * t.lines < o + bytes || es.any fun e => t.cols ≤ e.1 then none
      else
        match gRows t body n (r + 1) (o + bytes) with
        | none => none
        | some (rest, offs) => some (es.map (fun e => (r, e.1, e.2)) ++ rest, o :: offs)

/-- The entries of an S body. -/
def sRows (t : Tile) (d : List Byte) : Option (List Stored × List Nat) :=
  let i := if t.sfmt = 4 then 2 else 4
  let pad := (t.nnz * i + 63) / 64 * 64
  let vals := leNat (d.drop pad)
  let idx := (List.range t.nnz).map fun n => imf d (i * n) i
  let row (x : Nat) : Nat := if t.sfmt = 4 then x / 64 else (x / 64 + 2 ^ 26 - t.rowBase % 2 ^ 26) % 2 ^ 26
  if 64 * t.lines < pad + (t.nnz * t.valueBits + 7) / 8 || !ascending idx ||
      idx.any (fun x => t.rows ≤ row x || t.cols ≤ x % 64) then none
  else some (idx.mapIdx (fun n x => (row x, x % 64, vals / 2 ^ (n * t.valueBits) % 2 ^ t.valueBits)),
    (List.range 64).map fun r =>
      (idx.filter fun x => x < (if t.sfmt = 4 then r else (t.rowBase + r) % 2 ^ 26) * 64).length)

/-- The stored elements of a G or S body in storage order, if nnz and the bands agree with it (R302, R307). -/
def tileStored (t : Tile) (d : List Byte) : Option (List Stored) :=
  match (if t.sfmt ≤ 3 then gRows t (leNat d) t.rows 0 0 else sRows t d) with
  | none => none
  | some (es, offs) =>
    let bandsOk := (List.range 3).all fun i => t.rows ≤ 16 * (i + 1) || t.bands.getD i 0 = offs.getD (16 * (i + 1)) 0
    if es.length = t.nnz && bandsOk then some es else none

/-- The elements of a D body, as value fields (R304). -/
def tileDense (t : Tile) (d : List Byte) : Option (List Stored) :=
  let w := tileWidth t.fmt
  if 64 * t.lines < t.rows * 8 * w then none
  else
    let x := leNat d
    some ((List.range t.rows).flatMap fun r => (List.range t.cols).map fun c => (r, c, x / 2 ^ ((64 * r + c) * w) % 2 ^ w))

/-- The value of an element field; `scale` is the scale byte of an MX block, which a D body does not hold. -/
def fieldValue (fmt scale v : Nat) : Num :=
  if fmt = 1 then numOfInt (sgnW 4 v)
  else if 7 ≤ fmt ∧ fmt ≤ 9 then
    (match fmtFloat fmt with
     | some g => if scale = 255 then .nan else scaleNum ((scale : Int) - 127) (decodeF g v)
     | none => .nan)
  else if fmt = 6 then (if scale = 255 then .nan else scaleNum ((scale : Int) - 133) (numOfInt (sgnW 8 v)))
  else elemValue fmt 0 [leBytes 2 v]

/-! ### Reading tiles (R308, R309, R315, R339, R340) -/

/-- A sparse unit reports UNIT: unit and reason are recorded (R340). -/
def spxRecord (c : CoreId) (unit : Nat) (reason : Nat) (s : State) : State :=
  modCore c (fun k => { k with spxErr := true, spxUnit := BitVec.ofNat 2 unit, spxReason := BitVec.ofNat 8 reason }) s

/-- UNIT from a sparse unit. -/
def spxRaise (c : CoreId) (unit reason : Nat) (glob : Bool) (a : Nat) (s : State) : State :=
  raise c .unit glob (BitVec.ofNat 64 a) (spxRecord c unit reason s)

/-- Raise what a sparse unit has met. UNIT is recorded; for a channel out of service the table of R340 has no reason, so it
is free. -/
def spxFails (c : CoreId) (unit : Nat) (x : Cause) (glob : Bool) (a : Dword) (s : State) : State :=
  if x = .unit then
    let (r, s) := takeFree 8 s
    raise c x glob a (spxRecord c unit r.toNat s)
  else raise c x glob a s

/-- How reading a tile fails. -/
inductive TileEnd where
  /-- The fetch of its descriptor fails: no effect (R236, R308). -/
  | fetch (e : UnitEnd)
  /-- The read of its body fails. -/
  | body (e : UnitEnd)
  /-- A check fails: UNIT, with the reason. -/
  | bad (reason : Nat) (glob : Bool) (a : Nat)

/-- A tile read: its elements, and its stored fields. -/
structure TileRd where
  t : Tile
  es : List (Nat × Nat × Num)
  fields : List Stored

/-- Read a descriptor, and check it against R302 and, by `check`, against the instruction, which answers the reason of a
failure (R308). -/
def tileDesc (c : CoreId) (o : OpAddr) (check : Tile → Option Nat) (s : State) : Except TileEnd Tile × State :=
  let r := unitRead .arr c (!o.glob) o.a 32 s
  if r.err.isSome || r.stale then (.error (.fetch (rdEnd r)), r.s)
  else if !tileFieldsOk r.data then (.error (.bad 1 o.glob o.a), r.s)
  else
    let t := { tileOf r.data with read := ifLocal (!o.glob) [(o.a, 32)] }
    match check t with
    | some reason => (.error (.bad reason o.glob o.a), r.s)
    | none => (.ok t, r.s)

/-- Read and parse the body of a tile. For a tile in a D body of an MX format the spec gives no scale: each block's is
free. -/
def tileLoad (c : CoreId) (t : Tile) (s : State) : Except TileEnd TileRd × State :=
  let b := unitRead .arr c (!t.glob) t.body (64 * t.lines) s
  if b.err.isSome || b.stale then (.error (.body (rdEnd b)), b.s)
  else
    match (if t.sfmt = 0 then tileDense t b.data else tileStored t b.data) with
    | none => (.error (.bad 2 t.glob t.body), b.s)
    | some fs =>
      let (sc, s) := if 6 ≤ t.fmt then takeFree 1024 b.s else (0, b.s)
      let es := fs.map fun e => (e.1, e.2.1, fieldValue t.fmt (sc.toNat / 2 ^ (16 * e.1 + 8 * (e.2.1 / 32)) % 256) e.2.2)
      (.ok ⟨{ t with read := t.read ++ ifLocal (!t.glob) [(t.body, 64 * t.lines)] }, es, fs⟩, s)

/-- A check of a descriptor against the instruction: a breach is reason 1. -/
def tileCheck (ok : Tile → Bool) (t : Tile) : Option Nat := if ok t then none else some 1

/-- The W half of a pair fits its trans half (R315). -/
def pairCheck (t w : Tile) : Option Nat :=
  if w.sfmt = 0 then some 4 else if w.trans || w.mask || w.fmt != t.fmt || w.nnz != t.nnz then some 1 else none

/-- The tile takes the sparse path (R310). -/
def takesSparse (path thr : Nat) (t : Tile) : Bool :=
  t.sfmt != 0 && (path = 2 || (path = 0 && t.nnz < min thr 4096))

/-- The path of a k-tile is fixed, and counted, when its descriptor has been read (R310, R342). -/
def countTile (c : CoreId) (path : Nat) (t : Tile) (s : State) : State :=
  let i : Fin 8 := if takesSparse path s.thresh[(coreInst c s).val].toNat t then 1 else 0
  modCore c (fun k => if k.ctrFreeze then k else { k with spxCnt := upd k.spxCnt i (· + 1) }) s

/-- The elements of a mask pair's trans half, with the values of W (R315). -/
def pairRead (c : CoreId) (o : OpAddr) (path : Nat) (check : Tile → Bool) (s : State) : Except TileEnd TileRd × State :=
  match tileDesc c { o with a := o.a + 32 } (tileCheck fun t => t.sfmt != 0 && t.trans && check t) s with
  | (.error e, s) => (.error e, s)
  | (.ok t, s) =>
    match tileDesc c o (pairCheck t) s with
    | (.error e, s) => (.error e, s)
    | (.ok w, s) =>
      match tileLoad c t (countTile c path t s) with
      | (.error e, s) => (.error e, s)
      | (.ok t, s) =>
        if t.fields.any fun e => w.nnz ≤ e.2.2 then (.error (.bad 4 o.glob (o.a + 32)), s)
        else
          match tileLoad c w s with
          | (.error e, s) => (.error e, s)
          | (.ok w, s) =>
            (.ok ⟨{ t.t with read := t.t.read ++ w.t.read },
              t.fields.map fun e => (e.1, e.2.1, (w.es.getD e.2.2 (0, 0, .nan)).2.2), t.fields⟩, s)

/-- An A operand: its half, and no bare mask (R309). -/
def aTileRead (c : CoreId) (o : OpAddr) (half : Bool) (path : Nat) (check : Tile → Bool) (s : State) :
    Except TileEnd TileRd × State :=
  if half then pairRead c o path (fun t => !t.mask && check t) s
  else
    match tileDesc c o (tileCheck fun t => !t.mask && !t.trans && check t) s with
    | (.error e, s) => (.error e, s)
    | (.ok t, s) => tileLoad c t (countTile c path t s)

/-- All k-tiles of an A operand in order; a failure comes with the number of the k-tile. -/
def aTiles (c : CoreId) (o : OpAddr) (half : Bool) (path : Nat) (check : Tile → Bool) :
    Nat → Nat → List (Tile × List (Nat × Nat × Num)) → State → Except (TileEnd × Nat) (List (Tile × List (Nat × Nat × Num))) × State
  | 0, _, acc, s => (.ok acc.reverse, s)
  | n + 1, j, acc, s =>
    match aTileRead c { o with a := o.a + 64 * j } half path check s with
    | (.ok r, s) => aTiles c o half path check n (j + 1) ((r.t, r.es) :: acc) s
    | (.error e, s) => (.error (e, j), s)

/-! ### MMAS (R309 to R314) -/

/-- An A element from the tiles: zero where none is stored, or from K on. -/
def tileElem (ts : List (Tile × List (Nat × Nat × Num))) (q K m k : Nat) : Num :=
  if k < K then
    match (ts.getD (k / 64) (tileOf [], [])).2.find? fun e => e.1 = 16 * q + m && e.2.1 = k % 64 with
    | some e => e.2.2
    | none => .fin false 0 0
  else .fin false 0 0

/-- Columns stored in row r of a tile, ascending. -/
def rowCols (es : List (Nat × Nat × Num)) (r : Nat) : List Nat :=
  (List.range 64).filter fun c => es.any fun e => e.1 = r && e.2.1 = c

/-- Cut a list in pieces of n. -/
def pieces {α : Type} : Nat → Nat → List α → List (List α)
  | 0, _, _ => []
  | f + 1, n, xs => if xs.isEmpty then [] else xs.take n :: pieces f n (xs.drop n)

/-- Row steps of row r of k-tile j on the sparse path (R311). -/
def sparseSteps (fmt j : Nat) (es : List (Nat × Nat × Num)) (r : Nat) : List RowStep :=
  let cols := rowCols es r
  let p := perPe fmt
  if isChunked fmt then
    ((List.range 4).filter fun b => cols.any fun c => c / 16 = b).map fun b => (List.range 16).map fun i => [64 * j + 16 * b + i]
  else
    (pieces 64 (16 * p) cols).map fun cs => (List.range 16).map fun i => ((cs.drop (p * i)).take p).map fun c => 64 * j + c

/-- Row steps of row m for every k-tile, each with whether it is on the sparse path. -/
def mmasSteps (fmt K q : Nat) (sparse : Nat → Bool) (ts : List (Tile × List (Nat × Nat × Num))) (m : Nat) : List (Bool × Nat × List RowStep) :=
  ts.mapIdx fun j t =>
    if sparse j then (true, j, sparseSteps fmt j t.2 (16 * q + m))
    else
      let per := 64 / kBlock fmt
      let n := min per ((K - 64 * j + kBlock fmt - 1) / kBlock fmt)
      (false, j, denseSteps fmt (per * j) n)

/-- MMAS with everything read: `rowOn` says which rows take row steps, `part` which entries are computed. Where rows differ
in steps, the run grows by a free number between the least and the greatest. -/
def mmasRun (c : CoreId) (x : MatX) (m : SlotMode) (K q cols rowsB : Nat) (ts : List (Tile × List (Nat × Nat × Num)))
    (bv : List Num) (rowOn : Nat → Bool) (part : Nat → Bool) (s : State) : State :=
  let thr := s.thresh[(coreInst c s).val].toNat
  let sparse (j : Nat) : Bool :=
    match ts[j]? with
    | some t => takesSparse x.path thr t.1
    | none => false
  let A := tileElem ts q K
  let B := elemAt bv.toArray rowsB K
  let g := groupRows x.grp
  let W := slotW s.cores[c.val] m
  let steps (r : Nat) := if rowOn r then mmasSteps x.fmt K q sparse ts r else []
  let badB (j n : Nat) : Bool := (List.range 64).any fun k => numBad (B n (64 * j + k))
  let feed (i : Nat) : Feed := (steps (i / 16)).flatMap fun p =>
    feedOf (isChunked x.fmt) g (A (i / 16)) (B (i % 16)) p.2.2 ++ (if p.1 && badB p.2.1 (i % 16) then [(.nan, false)] else [])
  let rows := (List.range 16).filter rowOn
  let count (r : Nat) : Nat := ((steps r).map fun p => p.2.2.length).sum * (16 / g)
  let least := rows.foldl (fun n r => min n (count r)) (count (rows.headD 0))
  let most := rows.foldl (fun n r => max n (count r)) 0
  let (f, s) := takeFree 32 s
  let n := least + f.toNat % (most - least + 1)
  let stepsOf (b : Bool) : Nat := (rows.map fun r => ((steps r).map fun p => if p.1 == b then p.2.2.length else 0).sum).sum
  let spTiles := ((List.range ts.length).filter sparse).length
  let all (r : Nat) : List RowStep := (steps r).flatMap fun p => p.2.2
  let gated := (rows.map fun r => ((List.range cols).map fun n => gatedOf (perPe x.fmt) (A r) (B n) (all r)).sum).sum
  let total := stepsOf true + stepsOf false
  let s := countArray c (total * rowCycles x.fmt + 4 * spTiles) (total * 16 * perPe x.fmt * cols) gated s
  let s := modCore c (fun k =>
    if k.ctrFreeze then k
    else { k with spxCnt := upd k.spxCnt 2 (· + BitVec.ofNat 64 (stepsOf true)) }) s
  ppEnd c m (handOff c m n part (fun i => accRun W x.spill (feed i)) (ppBegin c m s))

/-- Finish a unit's instruction, an exception of the array on MMAS among them. -/
def tileFinish (c : CoreId) (m : SlotMode) (e : UnitEnd) (s : State) : State :=
  match e with
  | .fails x g a => spxFails c 0 x g a s
  | e => finish c .arr (arrEntry s.cores[c.val] m) e s

/-- What a tile that could not be read does to the core. A descriptor's fetch leaves no effect, data that could not be read
an undefined slot (R236, R263, R308). -/
def tileFails (c : CoreId) (m : SlotMode) (r : TileEnd) (s : State) : State :=
  match r with
  | .bad reason g a => spxRaise c 0 reason g a s
  | .fetch e => tileFinish c m e s
  | .body e => tileFinish c m e (modeUndefined c m s)

/-- The entries that an SDDMM mask computes (R314). -/
def maskPart (fs : List Stored) (b j i : Nat) : Bool := fs.any fun e => e.1 = 16 * b + i / 16 && e.2.1 = 16 * j + i % 16

/-- Read the mask of an SDDMM form: none where there is no mask. -/
def maskRead (c : CoreId) (v : Dword) (s : State) : Except TileEnd (Option (Tile × List Stored)) × State :=
  if v = 0 then (.ok none, s)
  else
    match opAddr v with
    | none => (.error (.bad 1 false 0), s)
    | some o =>
      match tileDesc c { o with a := o.a / 32 * 32 } (tileCheck fun t => t.sfmt != 0) s with
      | (.error e, s) => (.error e, s)
      | (.ok t, s) =>
        match tileLoad c t s with
        | (.error e, s) => (.error e, s)
        | (.ok r, s) => (.ok (some (r.t, r.fields)), s)

/-- The formats of MMAS's B descriptor: R224 lets MMA only read PLANE. -/
def mmasFmts : List Nat := List.range 10

/-- MMAS with its B descriptor fetched. -/
def mmasBody (c : CoreId) (x : MatX) (m : SlotMode) (va : OpAddr) (ob : OpAddr) (tb : Tensor) (K : Nat) (se : Dword)
    (residue : Option (Fin 16)) (s : State) : State :=
  let b : Operand := ⟨tb, !x.tb⟩
  let s := addFind c m s
  let k := s.cores[c.val]
  let cols := k.cols.toNat
  let bOk := tb.dims.length = 2 && K ≤ b.extK && tb.fmt = x.fmt && (x.fmt < 6 || !x.tb)
  if addPoison k m then raise c .poison false 0 s
  else if !bOk || x.ta || !formOk k m then spxRaise c 0 1 ob.glob ob.a s
  else
    match maskRead c se s with
    | (.error r, s) => tileFails c m r s
    | (.ok mask, s) =>
      if mask.isSome && x.path = 2 then spxRaise c 0 1 va.glob va.a s
      else
      let check (t : Tile) : Bool := t.fmt = x.fmt && (mask.isNone || t.sfmt = 0)
      match aTiles c { va with a := va.a / 64 * 64 } (va.a / 32 % 2 = 1) x.path check ((K + 63) / 64) 0 [] s with
      | (.error (r, j), s) => tileFails c m r (if j = 0 then s else modeUndefined c m s)
      | (.ok ts, s) =>
        let rows := min cols b.extR
        let rb := operandRead c b 0 rows K s
        if rb.1.err.isSome || rb.1.stale then tileFinish c m (rdEnd rb.1) (modeUndefined c m rb.1.s)
        else
          match residue with
          | some col => residueFail c m col rb.1.s
          | none =>
            let inMask (i : Nat) : Bool := mask.elim true fun p => maskPart p.2 (bits se 3 2) (bits se 1 0) i
            let rowOn (r : Nat) : Bool := (List.range 16).any fun n => inMask (16 * r + n)
            let part (i : Nat) : Bool := i % 16 < cols && inMask i
            let rs := operandRanges ob b 0 rows K ++ ts.flatMap (fun t => t.1.read) ++ (mask.map fun p => p.1.read).getD []
            issued c .arr { arrEntry k m with read := rs } (mmasRun c x m K (va.a % 4) cols rows ts rb.2 rowOn part rb.1.s)

/-- The x field of MMAS is legal (R191, R202). -/
def mmasLegal (w : TFmt) : Bool :=
  let x := matX w.x
  x.fmt ≤ 9 && x.grp ≤ 2 && x.path ≤ 2 && bits w.x 5 0 = 0 && slotModeOk (matMode w.acc x)

/-- MMAS (R309). The B descriptor is fetched first, so what its address raises at issue comes before a bad operand
(R221). -/
def execMmas (c : CoreId) (op : MmasOp) (s : State) : Out :=
  coreInstr c op.w.g (mmasLegal op.w) (matUse op.w [op.w.a, op.w.b, op.w.c, op.w.e]) (arrayOn c fun s =>
    let k := s.cores[c.val]
    let K := (sreg k op.w.c).toNat
    let unit : State → State := spxRaise c 0 1 false 0
    let outside (v : Dword) : Bool := (opAddr v).any fun o => !o.glob && !inData (o.a / 32 * 32) 32
    let out := if outside (sreg k op.w.a) then some (sreg k op.w.a)
      else if sreg k op.w.e != 0 && outside (sreg k op.w.e) then some (sreg k op.w.e) else none
    match out, tensorFetch c mmasFmts false unit (sreg k op.w.b) s with
    | some v, (.error x, s) => (firstRaised x (causeRank .localRange, raise c .localRange false v)).2 s
    | some v, (.ok _, s) => raise c .localRange false v s
    | none, (.error x, s) => x.2 s
    | none, (.ok b, s) =>
      match opAddr (sreg k op.w.a) with
      | some va =>
        if !kOk K || va.a / 4 % 8 != 0 then unit s
        else mmasBody c (matX op.w.x) (matMode op.w.acc (matX op.w.x)) va b.1 b.2 K (sreg k op.w.e) op.residue s
      | none => unit s) s

end Sys2Proof.Machine
end

