-- ==== Sys2Proof/Machine/Sparse.lean ====
section
/-! DEFINITION. The SMU, the HACC with its spill ring, the OCU, and work bins (R204, R316 to R331, R336 to R340). -/

namespace Sys2Proof.Machine

open Sys2Proof

/-- Count in a sparse counter of a core. -/
def countSpx (c : CoreId) (i : Fin 8) (n : Nat) (s : State) : State :=
  modCore c (fun k => if k.ctrFreeze then k else { k with spxCnt := upd k.spxCnt i (· + BitVec.ofNat 64 n) }) s

/-! ### The HACC (R317, R318) -/

/-- Bytes of a core's spill ring; the reserved sizes give none. -/
def spillBytes (cfg : BitVec 3) : Nat := if cfg = 0 ∨ 4 < cfg.toNat then 0 else 2 ^ (13 + cfg.toNat)

/-- DPA of record i of a core's spill ring (R318). -/
def spillAddr (c : CoreId) (i : Nat) (s : State) : Nat :=
  let d := s.dies[(coreDie c).val]
  d.spillBase.toNat + coreLocal c * spillBytes d.spillCfg + 32 * i

/-- A spill record (R318). -/
def spillRecord (key : Word) (v : L128) : List Byte := leBytes 4 key.toNat ++ List.replicate 12 0 ++ leBytes 16 v.toNat

/-- Add a value to a key's entry: the count saturates, and INF raises its flag (R268, R317). -/
def haccEntryAdd (e : HaccEntry) (v : L128) : HaccEntry := { e with value := (addL128 e.value v).1, count := satInc e.count }

/-- Add a value under a key; answers the reason of a failure (R317, R318, R340). -/
def haccAdd (c : CoreId) (key : Word) (v : L128) (s : State) : Option Nat × State :=
  let k := s.cores[c.val]
  match k.hacc.find? fun e => e.key = key with
  | some e =>
    let s := setFlags c (flagIf (addL128 e.value v).2 flagInf) s
    (none, modCore c (fun k => { k with hacc := k.hacc.map fun e => if e.key = key then haccEntryAdd e v else e }) s)
  | none =>
    let s := setFlags c (flagIf (v = infL128) flagInf) s
    if (k.hacc.filter fun e => Config.haccSet e.key = Config.haccSet key).length < 16 then
      (none, modCore c (fun k => { k with hacc := k.hacc ++ [⟨key, v, 1⟩] }) s)
    else
      let size := spillBytes s.dies[(coreDie c).val].spillCfg
      if size = 0 then (some 5, s)
      else if size ≤ 32 * k.spillCount then (some 6, s)
      else
        let w := writeTarget (coreInst c s) (.dpa (spillAddr c k.spillCount s)) (spillRecord key v) false s
        (none, countSpx c 5 1 (modCore c (fun k => { k with spillCount := k.spillCount + 1 }) w.2))

/-- Lanes of HACC in order: each sets its flags and is added, until one fails (R317, R318). -/
def haccLanes (c : CoreId) : List (Word × L128 × Word) → State → Option Nat × State
  | [], s => (none, s)
  | (key, v, f) :: t, s =>
    match haccAdd c key v (setFlags c f s) with
    | (some r, s) => (some r, s)
    | (none, s) => haccLanes c t s

/-- The L128 value, at W = −48, of a lane of HACC, and its flags (R270, R317). -/
def haccLane (f32 : Bool) (x : BitVec 32) : L128 × Word :=
  if f32 then enterL128 (-48) 0 (decodeF fFP32 x.toNat) else (BitVec.ofInt 128 (x.toInt * 2 ^ 48), 0)

/-- Products that an ISECT adds, as lanes: each is an addend (R270, R316). -/
def productLanes (xs : List (Word × L128)) : List (Word × L128 × Word) := xs.map fun x => (x.1, x.2, rangeFlag (valL128 x.2))

/-- The ISECTs of a core that have not completed make some of their updates before an instruction of the HAC queue: how many
is free, for the order is undefined and each sum exact (R336). -/
def isectsFirst (c : CoreId) : List QEntry → State → List QEntry × State
  | [], s => ([], s)
  | e :: t, s =>
    if e.adds.isEmpty then
      let r := isectsFirst c t s
      (e :: r.1, r.2)
    else
      let (f, s) := takeFree 32 s
      let n := f.toNat % (e.adds.length + 1)
      let p := haccLanes c (productLanes (e.adds.take n)) s
      let s := match p.1 with
        | some r => raiseAt c .unit e.pc false 0 (spxRecord c 2 r p.2)
        | none => p.2
      let r := isectsFirst c t s
      ({ e with adds := e.adds.drop n } :: r.1, r.2)

/-- An instruction of the HAC queue, after the updates of ISECTs that come first, unless one of them has stopped the core. -/
def hacBegin (c : CoreId) (f : State → State) (s : State) : State :=
  let r := isectsFirst c s.cores[c.val].spx s
  let s := setQueue c .spx r.1 r.2
  if s.cores[c.val].st = .running then f s else s

/-- HACC (R317): active lanes in ascending order. -/
def execHacc (c : CoreId) (w : RFmt) (s : State) : Out :=
  let ty := bits w.x 28 26
  let masked := bit w.x 25
  coreInstr c w.g (w.d = 0 && w.c = 0 && (ty = 0 || ty = 2) && bits w.x 21 0 = 0)
    { v := [w.a, w.b], p := if masked then [BitVec.ofNat 3 (bits w.x 24 22)] else [], q := some .hac } (fun s =>
    let k := s.cores[c.val]
    let keys := vreg k w.a
    let vals := vreg k w.b
    let on (i : Nat) : Bool := !masked || (preg k (BitVec.ofNat 3 (bits w.x 24 22))).getLsbD i
    let lanes := (List.range 16).filter on
    let xs := lanes.map fun i => (keys.extractLsb' (32 * i) 32, haccLane (ty = 2) (vals.extractLsb' (32 * i) 32))
    hacBegin c (fun s =>
      match haccLanes c xs s with
      | (none, s) => issued c .hac { hash := true } s
      | (some r, s) => spxRaise c 2 r false 0 s) s) s

/-- HCLR (R319). -/
def execHclr (c : CoreId) (w : RFmt) (s : State) : Out :=
  coreInstr c w.g (w.d = 0 && w.a = 0 && w.b = 0 && w.c = 0 && w.x = 0) { q := some .hac } (fun s =>
    hacBegin c (fun s =>
      issued c .hac { hash := true, clears := true } (modCore c (fun k => { k with hacc := [], spillCount := 0 }) s)) s) s

/-! ### HFLUSH (R319) -/

/-- Read the records of a core's spill ring: keys and values, and whether one is poisoned. -/
def spillRead (c : CoreId) : Nat → State → List (Word × L128) × Bool × State
  | 0, s => ([], false, s)
  | n + 1, s =>
    let p := spillRead c n s
    let r := readTarget (coreInst c p.2.2) (.dpa (spillAddr c n p.2.2)) 32 p.2.2
    (p.1 ++ [(BitVec.ofNat 32 (imf r.data 0 4), BitVec.ofNat 128 (imf r.data 16 16))], p.2.1 || r.poison, r.s)

/-- Merge a value into records kept by ascending key; answers whether an add met INF. -/
def mergeKey (e : HaccEntry) : List HaccEntry → List HaccEntry × Bool
  | [] => ([e], false)
  | x :: t =>
    if e.key.toNat < x.key.toNat then (e :: x :: t, false)
    else if e.key = x.key then
      let a := addL128 x.value e.value
      ({ x with value := a.1, count := satNat 32 (x.count.toNat + e.count.toNat) } :: t, a.2)
    else
      let r := mergeKey e t
      (x :: r.1, r.2)

/-- All distinct keys of entries and ring, with their sums, ascending (R319). -/
def flushRecords (es : List HaccEntry) (ring : List (Word × L128)) : List HaccEntry × Bool :=
  (es ++ ring.map fun r => (⟨r.1, r.2, 1⟩ : HaccEntry)).foldl (fun p e =>
    let m := mergeKey e p.1
    (m.1, p.2 || m.2)) ([], false)

/-- A flushed record (R319). -/
def flushRecord (e : HaccEntry) : List Byte :=
  leBytes 4 e.key.toNat ++ leBytes 4 e.count.toNat ++ List.replicate 8 0 ++ leBytes 16 e.value.toNat

/-- Write records one by one; answers how many, and the failure. -/
def flushWrite (c : CoreId) (o : OpAddr) : List HaccEntry → Nat → State → Nat × Option (Cause × Bool × Dword) × State
  | [], n, s => (n, none, s)
  | e :: t, n, s =>
    match unitWrites .hac c (!o.glob) [(o.a + 32 * n, flushRecord e)] s with
    | (none, s) => flushWrite c o t (n + 1) s
    | (some x, s) => (n, some x, s)

/-- Keep in the ring what was not flushed, from its start on. -/
def ringKeep (c : CoreId) (rs : List (Word × L128)) (s : State) : State :=
  let s := (rs.mapIdx fun i r => (i, r)).foldl (fun s r =>
    (writeTarget (coreInst c s) (.dpa (spillAddr c r.1 s)) (spillRecord r.2.1 r.2.2) false s).2) s
  modCore c (fun k => { k with spillCount := rs.length }) s

/-- HFLUSH (R319). -/
def execHflush (c : CoreId) (w : RFmt) (s : State) : Out :=
  coreInstr c w.g (w.c = 0 && w.x = 0) { s := [w.d, w.a, w.b], q := some .hac } (fun s =>
    let k := s.cores[c.val]
    match opAddr (sreg k w.a) with
    | none => spxRaise c 2 7 false 0 s
    | some o =>
      if !o.glob && o.a % 32 != 0 then raise c .localAlign false (BitVec.ofNat 64 o.a) s
      else if !o.glob && !inData o.a 1 then raise c .localRange false (BitVec.ofNat 64 o.a) s
      else
        hacBegin c (fun s =>
        let k := s.cores[c.val]
        let (ring, pois, s) := spillRead c k.spillCount s
        if pois then raise c .poison false 0 s
        else
          let (rs, inf) := flushRecords k.hacc ring
          let s := setFlags c (flagIf inf flagInf) s
          let (n, err, s) := flushWrite c o (rs.take (sreg k w.b).toNat) 0 s
          let gone := (rs.take n).map HaccEntry.key
          let s := modCore c (fun k => { k with hacc := k.hacc.filter fun e => !gone.contains e.key }) s
          let s := if ring.isEmpty then s else ringKeep c (ring.filter fun r => !gone.contains r.1) s
          match err with
          | some (x, g, a) => spxFails c 2 x g a s
          | none =>
            issued c .hac { sres := [(w.d, BitVec.ofNat 64 n)], hash := true, clears := true
                            wrote := ifLocal (!o.glob) [(o.a, 32 * n)], gwrote := ifLocal o.glob [(o.a, 32 * n)] } s) s) s

/-! ### ISECT (R316) -/

/-- What a merge of two streams finds: positions of matches, entries advanced, and whether an index was not above its
predecessor. -/
structure Merged where
  found : List (Nat × Nat)
  advanced : Nat
  disorder : Bool

/-- An index is not above its predecessor. -/
def badOrder (prev : Option Nat) (x : Nat) : Bool :=
  match prev with
  | none => false
  | some p => x ≤ p

/-- The rest of a stream is not in ascending order. -/
def restBad : Option Nat → List Nat → Bool
  | _, [] => false
  | prev, x :: t => badOrder prev x || restBad (some x) t

/-- Compare two streams in ascending order; what is left of one when the other ends is checked too. -/
def mergeStreams : Nat → Option Nat → Option Nat → Nat → Nat → List Nat → List Nat → Merged
  | 0, _, _, _, _, _, _ => ⟨[], 0, false⟩
  | _ + 1, _, pb, _, _, [], ys => ⟨[], 0, restBad pb ys⟩
  | _ + 1, pa, _, _, _, xs, [] => ⟨[], 0, restBad pa xs⟩
  | f + 1, pa, pb, i, j, x :: xs, y :: ys =>
    if badOrder pa x || badOrder pb y then ⟨[], 0, true⟩
    else if x = y then
      let r := mergeStreams f (some x) (some y) (i + 1) (j + 1) xs ys
      ⟨(i, j) :: r.found, r.advanced + 2, r.disorder⟩
    else if x < y then
      let r := mergeStreams f (some x) pb (i + 1) j xs (y :: ys)
      { r with advanced := r.advanced + 1 }
    else
      let r := mergeStreams f pa (some y) i (j + 1) (x :: xs) ys
      { r with advanced := r.advanced + 1 }

/-- The numbers of n bytes each in a list of bytes. -/
def numbersOf (n count : Nat) (d : List Byte) : List Nat := (List.range count).map fun i => imf d (n * i) n

/-- The length in bytes of a stream (R306, R316). -/
def streamLen (iw count : Nat) (values : Bool) : Nat :=
  if count = 0 then 0 else if values then (count * iw + 63) / 64 * 64 + 4 * count else iw * count

/-- Read a stream: its indices, and with values its 32-bit values (R306, R316). -/
def streamRead (c : CoreId) (o : OpAddr) (iw count : Nat) (values : Bool) (s : State) : UnitRd × List Nat × List Nat :=
  let pad := (count * iw + 63) / 64 * 64
  let len := streamLen iw count values
  if len = 0 then (⟨none, false, [], s⟩, [], [])
  else
    let r := unitRead .spx c (!o.glob) o.a len s
    (r, numbersOf iw count r.data, numbersOf 4 count (r.data.drop pad))

/-- Write match records one by one. -/
def matchWrite (c : CoreId) (o : OpAddr) : List (Nat × Nat) → Nat → State → Option (Cause × Bool × Dword) × State
  | [], _, s => (none, s)
  | (i, j) :: t, n, s =>
    match unitWrites .spx c (!o.glob) [(o.a + 8 * n, leBytes 4 i ++ leBytes 4 j)] s with
    | (none, s) => matchWrite c o t (n + 1) s
    | (some x, s) => (some x, s)

/-- Finish an ISECT whose streams could not be read. -/
def isectStops (c : CoreId) (r : UnitRd) : State :=
  match r.err with
  | some (x, g, a) => spxFails c 1 x g a r.s
  | none => issued c .spx { dead := true } r.s

/-- ISECT with its streams read. What it adds to the HACC it adds between now and its completion (R208, R336); an HFLUSH
or HCLR that has not completed may come after some of it: what an HFLUSH then wrote is undefined. -/
def isectRun (c : CoreId) (w : RFmt) (out : Nat) (key : Word) (od : OpAddr) (m : Merged) (va vb : List Nat)
    (rs : List (Nat × Nat)) (s : State) : State :=
  let n := m.found.length
  let s := countSpx c 4 n (countSpx c 3 m.advanced s)
  let e : QEntry := { sres := [(w.d, BitVec.ofNat 64 n)], hash := out = 1
                      wrote := ifLocal (out = 0 && !od.glob) [(od.a, 8 * n)]
                      gwrote := ifLocal (out = 0 && od.glob) [(od.a, 8 * n)]
                      read := rs }
  let fin (s : State) : State := if m.disorder then spxRaise c 1 3 false 0 s else issued c .spx e s
  if out = 0 then
    match matchWrite c od m.found 0 s with
    | (none, s) => fin s
    | (some (x, g, a), s) => spxFails c 1 x g a s
  else if out = 1 then
    let prod (p : Nat × Nat) : L128 := BitVec.ofInt 128 (sgnW 32 (va.getD p.1 0) * sgnW 32 (vb.getD p.2 0) * 2 ^ 48)
    let adds := m.found.map fun p => (key, prod p)
    let (adds, s) :=
      if s.cores[c.val].hac.any QEntry.clears then
        let (f, s) := takeFree 32 s
        (adds.drop (f.toNat % (n + 1)), spoilQueue c QEntry.clears s .hac)
      else (adds, s)
    if m.disorder then
      match haccLanes c (productLanes adds) s with
      | (none, s) => fin s
      | (some r, s) => spxRaise c 2 r false 0 s
    else issued c .spx { e with adds := adds } s
  else fin s

/-- ISECT (R316). -/
def execIsect (c : CoreId) (w : RFmt) (s : State) : Out :=
  let st := bits w.x 28 27
  let out := bits w.x 26 25
  coreInstr c w.g (st ≤ 1 && out ≤ 2 && bits w.x 24 0 = 0) { s := [w.d, w.a, w.b, w.c], q := some .spx } (fun s =>
    let k := s.cores[c.val]
    let d := sreg k w.d
    let na := bits (sreg k w.c) 31 0
    let nb := bits (sreg k w.c) 63 32
    let iw := if st = 0 then 2 else 4
    match opAddr (sreg k w.a), opAddr (sreg k w.b), (if out = 0 then opAddr d else some ⟨false, 0⟩) with
    | some oa, some ob, some od =>
      let bad (o : OpAddr) (n : Nat) : Bool := !o.glob && n != 0 && !inData o.a 1
      if bad oa na then raise c .localRange false (BitVec.ofNat 64 oa.a) s
      else if bad ob nb then raise c .localRange false (BitVec.ofNat 64 ob.a) s
      else if out = 0 && bad od 1 then raise c .localRange false (BitVec.ofNat 64 od.a) s
      else
        let (ra, ia, va) := streamRead c oa iw na (out = 1) s
        if ra.err.isSome || ra.stale then isectStops c ra
        else
          let (rb, ib, vb) := streamRead c ob iw nb (out = 1) ra.s
          if rb.err.isSome || rb.stale then isectStops c rb
          else isectRun c w out (d.setWidth 32) od (mergeStreams (na + nb + 1) none none 0 0 ia ib) va vb
            (ifLocal (!oa.glob) [(oa.a, streamLen iw na (out = 1))] ++ ifLocal (!ob.glob) [(ob.a, streamLen iw nb (out = 1))]) rb.s
    | _, _, _ => spxRaise c 1 1 false 0 s) s

/-! ### The OCU (R321 to R324) -/

/-- An encoding that is not stored: +0 or −0 (R322). -/
def encZero (fmt v : Nat) : Bool := if fmt ≤ 1 then v = 0 else v % 2 ^ (tileWidth fmt - 1) = 0

/-- The rows of a tile: column and encoding of each stored element. -/
abbrev OutRows := List (List (Nat × Nat))

/-- Bits of a group of a G row (R305). -/
def groupBits (h c vw : Nat) (es : List (Nat × Nat)) : Nat × Nat :=
  let n := es.length
  let codes := ((es.map fun e => e.1).mapIdx fun i k => k * 2 ^ (i * c)).sum
  let vals := ((es.map fun e => e.2).mapIdx fun i v => v * 2 ^ (i * vw)).sum
  (n + codes * 2 ^ h + vals * 2 ^ (h + n * c), h + n * (c + vw))

/-- A G record of a row. -/
def gRecord (sfmt vw : Nat) (row : List (Nat × Nat)) : List Byte :=
  let (g, h, c) := gWidths sfmt
  let (x, len) := (List.range (64 / g)).foldl (fun (p : Nat × Nat) i =>
    let b := groupBits h c vw ((row.filter fun e => e.1 / g = i).map fun e => (e.1 % g, e.2))
    (p.1 + b.1 * 2 ^ p.2, p.2 + b.2)) (0, 0)
  leBytes ((len + 63) / 64 * 8) x

/-- The records of a body that has one for each row: D and G (R304, R305). -/
def rowRecords (sfmt w : Nat) (rows : OutRows) : List (List Byte) :=
  if sfmt = 0 then rows.map fun r => leBytes (8 * w) ((r.map fun e => e.2 * 2 ^ (e.1 * w)).sum)
  else rows.map (gRecord sfmt w)

/-- The entries of an S body in storage order: index, and encoding. The rows of an S32 tile whose row number wraps at 2^26
come first, so that indices ascend (R306). -/
def sEntries (sfmt rowBase : Nat) (rows : OutRows) : List (Nat × Nat) :=
  let row (r : Nat) : Nat := if sfmt = 4 then r else (rowBase + r) % 2 ^ 26
  let es := (rows.mapIdx fun r es => es.map fun e => (row r * 64 + e.1, e.2)).flatten
  let first := row 0 * 64
  es.filter (fun e => e.1 < first) ++ es.filter fun e => first ≤ e.1

/-- An S body (R306). -/
def sBody (sfmt w rowBase : Nat) (rows : OutRows) : List Byte :=
  let es := sEntries sfmt rowBase rows
  let iw := if sfmt = 4 then 2 else 4
  let n := es.length
  es.flatMap (fun e => leBytes iw e.1) ++ List.replicate ((n * iw + 63) / 64 * 64 - n * iw) 0 ++
    leBytes ((n * w + 7) / 8) ((es.mapIdx fun i e => e.2 * 2 ^ (i * w)).sum)

/-- The body of a tile in a format. -/
def tileBody (sfmt w rowBase : Nat) (rows : OutRows) : List Byte :=
  if sfmt ≤ 3 then (rowRecords sfmt w rows).flatten else sBody sfmt w rowBase rows

/-- The format that CMPR writes: sfmt 6 takes the smallest body, ties to the lowest code (R323). -/
def chooseSfmt (sfmt w rowBase : Nat) (rows : OutRows) : Nat :=
  if sfmt = 6 then
    (List.range 5).foldl (fun b f =>
      if (tileBody f w rowBase rows).length < (tileBody b w rowBase rows).length then f else b) 0
  else sfmt

/-- The bin of a row (R325). -/
def binOf (edges : Vector (BitVec 7) 7) (n : Nat) : Nat := (edges.toList.filter fun e => e.toNat ≤ n).length

/-- Edges in force without post (R324). -/
def resetEdges : Vector (BitVec 7) 7 := #v[1, 2, 4, 8, 16, 32, 48]

/-- Offset of row r in a body: the byte of its record, or the number of its first entry. -/
def rowOffset (sfmt w rowBase : Nat) (rows : OutRows) (r : Nat) : Nat :=
  if sfmt ≤ 3 then (((rowRecords sfmt w rows).take r).map List.length).sum
  else
    let first := (if sfmt = 4 then r else (rowBase + r) % 2 ^ 26) * 64
    ((sEntries sfmt rowBase rows).filter fun e => e.1 < first).length

/-- A body address as the descriptor holds it (R302). -/
def bodyField (glob : Bool) (a : Nat) : Nat := a + b2n glob * 2 ^ 47

/-- The descriptor that CMPR writes (R302, R324). -/
def tileBytes (glob : Bool) (body fmt sfmt w cols rowBase lines : Nat) (edges : Vector (BitVec 7) 7) (rows : OutRows) : List Byte :=
  let band (r : Nat) : Nat := if sfmt = 0 then 0 else rowOffset sfmt w rowBase rows r
  let bins := rows.map fun r => binOf edges r.length
  leBytes 6 (bodyField glob body) ++ [BitVec.ofNat 8 fmt, BitVec.ofNat 8 sfmt] ++
    leBytes 2 ((rows.map List.length).sum) ++ leBytes 2 (band 16) ++ leBytes 2 (band 32) ++ leBytes 2 (band 48) ++
    leBytes 2 lines ++ [64, BitVec.ofNat 8 cols] ++
    ((List.range 8).map fun b => BitVec.ofNat 8 (bins.filter fun x => x = b).length) ++ leBytes 4 rowBase

/-- The work-bin entry of row r (R326). -/
def binEntry (glob : Bool) (desc body fmt sfmt w rowBase r bin : Nat) (rows : OutRows) : List Byte :=
  let iw := if sfmt = 4 then 2 else 4
  let n := (rows.getD r []).length
  let off := if sfmt ≤ 3 then rowOffset sfmt w rowBase rows r else iw * rowOffset sfmt w rowBase rows r
  let len := if sfmt ≤ 3 then ((rowRecords sfmt w rows).getD r []).length else n
  leBytes 8 (desc + b2n glob * 2 ^ 63) ++ leBytes 6 (bodyField glob (body + off)) ++ leBytes 2 len ++
    leBytes 4 (rowBase + r) ++ [BitVec.ofNat 8 r, BitVec.ofNat 8 n, BitVec.ofNat 8 bin, BitVec.ofNat 8 (fmt + 16 * sfmt)] ++
    List.replicate 8 0

/-- The 16 slots that CMPR reads, in the order i, jj (R321). -/
def cmprSlots (k : Core) (acc : Nat) : List (Fin 64) := (List.range 16).map fun i => readSlot k (slotOf (acc + i))

/-- The stored elements of the tile that CMPR compresses (R321, R322). -/
def cmprRows (k : Core) (acc fmt cols : Nat) : OutRows :=
  (List.range 64).map fun r =>
    ((List.range cols).map fun col =>
      let n := readSlot k (slotOf (acc + 4 * (r / 16) + col / 16))
      let v := valL128 ((slotWords k n).getD (r % 16 * 16 + col % 16) 0)
      (col, (drainValue fmt 0 (slotSt k n).wBase v).1)).filter fun e => !encZero fmt e.2

/-! ### Work bins (R325 to R330) -/

/-- Bin set number of a queue. -/
def setOf (q : Fin 32) : Fin 4 := ⟨q.val / 8, by omega⟩

/-- Change a bin set. -/
def modSet (d b : Fin 4) (f : BinSet → BinSet) (s : State) : State := modDie d (fun x => { x with sets := upd x.sets b f }) s

/-- The bin set is valid and owned by the core's partition (R326). -/
def setOwned (c : CoreId) (d b : Fin 4) (s : State) : Bool :=
  let x := (s.dies[d.val]).sets[b.val]
  x.valid && partOf c s == some x.owner

/-- Count a seal; the last of the partition seals the set, and pulls that wait look again (R174, R328). -/
def sealSet (d b : Fin 4) (s : State) : State :=
  let x := (s.dies[d.val]).sets[b.val]
  let n := x.sealCount.toNat + 1
  if partSize s.parts[x.owner.val] ≤ n then
    let s := modSet d b (fun x => { x with isSealed := true, sealCount := 0 }) s
    (List.range 8).foldl (fun s i => pullWake s.dies[d.val].pulls.length d (Fin.ofNat 32 (8 * b.val + i)) s) s
  else modSet d b (fun x => { x with sealCount := BitVec.ofNat 10 n }) s

/-- The first post of a core leaves it: its CMPR, the first that has any, has one fewer to wait for, and what that CMPR wrote
is performed (R326, R327). -/
def takePost (c : CoreId) (s : State) : State :=
  modCore c (fun k => { k with posts := k.posts.tail, ocu := modFirst (fun e => e.posts != 0) (fun e =>
    { e with posts := e.posts - 1, wrote := [], gwrote := [], read := [] }) k.ocu }) s

/-- The posts of a core carry its instance's generation (R338). -/
def postCurrent (c : CoreId) (s : State) : Bool := s.inst[(coreInst c s).val].gen = s.cores[c.val].gen

/-- A post or seal of an old generation is discarded and counted (R120, R338). -/
def postStale (c : CoreId) (s : State) : State :=
  modMtu (coreInst c s) (fun m => { m with suppressed := m.suppressed + 1 }) s

/-- Seals that stand at the head of a core's posts take place: a post with no bytes is a seal (R328). -/
def sealHeads : Nat → CoreId → State → State
  | 0, _, s => s
  | n + 1, c, s =>
    match s.cores[c.val].posts with
    | p :: _ =>
      if p.entry.isEmpty then
        let s := takePost c s
        sealHeads n c (if postCurrent c s then sealSet p.die (setOf p.queue) s else postStale c s)
      else s
    | [] => s

/-- Finish the issue of a CMPR with what it has to post; seals at the head take place. -/
def issuePosts (c : CoreId) (e : QEntry) (ps : List Post) (s : State) : State :=
  let s := issued c .ocu { e with posts := ps.length } (modCore c (fun k => { k with posts := k.posts ++ ps }) s)
  sealHeads s.cores[c.val].posts.length c s

/-- CMPR with its operands checked: body, descriptor, then the entries to post (R324, R326). -/
def cmprRun (c : CoreId) (w : TFmt) (fmt : Nat) (post : Option (Fin 4 × Fin 4)) (body desc rowBase cols : Nat) (s : State) : State :=
  let glob := bit w.x 14
  let k := s.cores[c.val]
  let acc := w.acc.toNat
  let rows := cmprRows k acc fmt cols
  let wd := tileWidth fmt
  let sf := chooseSfmt (bits w.x 18 16) wd rowBase rows
  let b := tileBody sf wd rowBase rows
  let lines := max 1 ((b.length + 63) / 64)
  let set_ := post.map fun p => (s.dies[p.1.val]).sets[p.2.val]
  let edges := match set_ with
    | some x => x.edges
    | none => resetEdges
  let runs := [(body, b ++ List.replicate (64 * lines - b.length) 0), (desc, tileBytes glob body fmt sf wd cols rowBase lines edges rows)]
  let s := if bit w.x 13 then (cmprSlots k acc).foldl (fun s n => clearSlot c n s) s else s
  match unitWrites .ocu c (!glob) runs s with
  | (some (x, g, a), s) => spxFails c 3 x g a s
  | (none, s) =>
    let entry (r : Nat) : Option Post :=
      match post, set_ with
      | some (d, st), some x =>
        let n := (rows.getD r []).length
        let bin := binOf x.edges n
        if n = 0 && !x.postZero then none
        else some ⟨d, Fin.ofNat 32 (8 * st.val + bin), binEntry glob desc body fmt sf wd rowBase r bin rows⟩
      | _, _ => none
    issuePosts c { wrote := localRanges (!glob) runs ++ (if bit w.x 13 then (cmprSlots k acc).map slotRange else [])
                   gwrote := globRanges (!glob) runs } ((List.range 64).filterMap entry) (countSpx c 6 1 s)

/-- Where CMPR writes is well formed: the exception otherwise (R198, R221, R302, R339). -/
def cmprAddrs (glob : Bool) (body desc : Nat) : Option Cause :=
  if body % 64 != 0 || desc % 32 != 0 then some (if glob then .unit else .localAlign)
  else if !glob && (!inData body 64 || !inData desc 32) then some .localRange
  else none

/-- The slots that CMPR names for R209. -/
def cmprNamed (acc : Nat) : List Nat := (List.range 16).flatMap fun i => namedSlots (slotOf (acc + i))

/-- A seal writes nothing (R328). -/
def cmprSeals (k : Core) (w : TFmt) : Bool := bit w.x 15 && sreg k w.e = 0

/-- CMPR (R321). -/
def execCmpr (c : CoreId) (w : TFmt) (s : State) : Out :=
  let fmt := bits w.x 22 19
  coreInstr c w.g (drainFmts.contains fmt && bits w.x 18 16 ≤ 6 && bits w.x 12 0 = 0)
    { s := [w.a, w.b, w.c, w.e], q := some .ocu
      slots := if cmprSeals s.cores[c.val] w then [] else cmprNamed w.acc.toNat } (fun s =>
    let k := s.cores[c.val]
    let body := (sreg k w.a).toNat
    let desc := (sreg k w.b).toNat
    let sc := sreg k w.c
    let cols := (sreg k w.e).toNat
    let d : Fin 4 := Fin.ofNat 4 (bits sc 35 34)
    let b : Fin 4 := Fin.ofNat 4 (bits sc 33 32)
    let post := bit w.x 15
    let owned := !post || setOwned c d b s
    let badForm := 48 < w.acc.toNat || 5 < fmt || bits sc 63 36 != 0
    if cmprSeals k w then
      if !owned then spxRaise c 3 8 false 0 s
      else if badForm then spxRaise c 3 7 false 0 s
      else issuePosts c {} [⟨d, Fin.ofNat 32 (8 * b.val), []⟩] s
    else
      let glob := bit w.x 14
      let addrs := cmprAddrs glob body desc
      let ns := if w.acc.toNat ≤ 48 then cmprSlots k w.acc.toNat else []
      let s := slotsFind c ns s
      let pois := ns.any fun n => slotPoison s.cores[c.val] n
      match addrs with
      | some .localAlign => raise c .localAlign false (BitVec.ofNat 64 body) s
      | some .localRange => raise c .localRange false (BitVec.ofNat 64 body) s
      | a =>
        if pois then poisonAfter c .write (glob && a.isNone) [(body, 64), (desc, 32)] 0 s
        else if a.isSome then spxRaise c 3 1 true body s
        else if !owned then spxRaise c 3 8 false 0 s
        else if badForm || cols = 0 || 64 < cols || ns.any (fun n => (slotSt k n).form != 0) then spxRaise c 3 7 false 0 s
        else cmprRun c w fmt (if post then some (d, b) else none) body desc (bits sc 31 0) cols s) s

/-- WB_POST (R326, R329): the first entry that waits goes to its queue; one of an old generation is discarded
(R338). -/
def execWbPost (c : CoreId) (s : State) : Out :=
  match s.cores[c.val].posts with
  | [] => .next s
  | p :: t =>
    act (live s && ((s.dies[p.die.val]).queues[p.queue.val]).length < 1024) (fun s =>
      let s := takePost c s
      let s :=
        if postCurrent c s then
          let s := modSet p.die (setOf p.queue) (fun x => { x with isSealed := false }) s
          let s := modDie p.die (fun x => { x with queues := upd x.queues p.queue fun l => l ++ [p.entry] }) s
          pullWake s.dies[p.die.val].pulls.length p.die p.queue (countSpx c 7 1 s)
        else postStale c s
      sealHeads t.length c s) s

/-- The pc of the CMPR whose post is the first that waits. -/
def postPc (k : Core) : BitVec 17 :=
  match k.ocu.find? fun e => e.posts != 0 with
  | some e => e.pc
  | none => k.pc

/-- WB_POST_TIMEOUT (R330). -/
def execWbPostTimeout (c : CoreId) (s : State) : Out :=
  match s.cores[c.val].posts with
  | [] => .next s
  | p :: _ =>
    act (live s && 1024 ≤ ((s.dies[p.die.val]).queues[p.queue.val]).length) (fun s =>
      let pc := postPc s.cores[c.val]
      let s := modDie p.die (fun x => { x with wbTimeout := true }) s
      let s := modCore c (fun k => { k with posts := [] }) (spxRecord c 3 9 s)
      raiseAt c .unit pc false 0 s) s

/-! ### Completion (R213, R215) -/

/-- The updates that an ISECT has still to make are made (R316); a failure is the ISECT's (R220). -/
def addsArrive (c : CoreId) (e : QEntry) (s : State) : State :=
  match haccLanes c (productLanes e.adds) s with
  | (none, s) => s
  | (some r, s) => raiseAt c .unit e.pc false 0 (spxRecord c 2 r s)

/-- DECOUPLED_COMPLETION (R213). -/
def execDecoupledCompletion (c : CoreId) (q : QueueId) (s : State) : Out :=
  match nextDone q s.cores[c.val] with
  | none => .next s
  | some (e, rest) =>
    act (live s) (fun s => resume c (writeResults c e (addsArrive c e (imageArrives c e (setQueue c q rest s))))) s

end Sys2Proof.Machine
end

