-- ==== Sys2Proof/Machine/Walk.lean ====
section
/-! DEFINITION. What a walker does for one query, and index updates: blocks, tables, scores, the walk, re-rank (R344 to
R364, R368, R369, R377). -/

namespace Sys2Proof.Machine

open Sys2Proof

/-! ### Blocks (R346, R350) -/

/-- An index block. -/
structure Index where
  metric : Nat
  M : Nat
  vfmt : Nat
  dim : Nat
  R : Nat
  tshift : Nat
  capacity : Nat
  shard : Nat
  backEdges : Bool
  vectors : Bool
  curGen : Nat
  nodeBase : Nat
  nbrBase : Nat
  codeBase : Nat
  bookBase : Nat
  vecBase : Nat
  entryBase : Nat
  sketchBase : Nat
  htuMatrix : Nat
  nSketch : Nat
  deriving DecidableEq, Repr

/-- The index block that 256 bytes spell. -/
def indexOf (d : List Byte) : Index :=
  { metric := imf d 1 1, M := imf d 2 1, vfmt := imf d 3 1, dim := imf d 4 2, R := imf d 6 1, tshift := imf d 7 1
    capacity := imf d 8 4, shard := imf d 12 2, backEdges := imf d 14 2 % 2 = 1, vectors := imf d 14 2 / 2 % 2 = 1
    curGen := imf d 16 4, nodeBase := imf d 24 8, nbrBase := imf d 32 8, codeBase := imf d 40 8
    bookBase := imf d 48 8, vecBase := imf d 56 8, entryBase := imf d 64 8, sketchBase := imf d 72 8
    htuMatrix := imf d 80 8, nSketch := imf d 88 2 }

/-- The checks of R346. -/
def indexOk (addr : Nat) (d : List Byte) : Bool :=
  let x := indexOf d
  addr % 64 = 0 && imf d 0 1 = 1 && x.metric ≤ 1 && [8, 16, 32, 48, 64].contains x.M && [0, 2, 5].contains x.vfmt &&
    1 ≤ x.dim && x.dim ≤ 1024 && x.dim % x.M = 0 && 1 ≤ x.R && x.R ≤ 64 && x.tshift ≤ 31 &&
    1 ≤ x.capacity && x.capacity ≤ 2 ^ 31 && imf d 14 2 < 4 && imf d 20 4 = 0 && x.nSketch ≤ 256 && imf d 90 166 = 0 &&
    [x.nodeBase, x.nbrBase, x.codeBase, x.bookBase, x.vecBase, x.entryBase, x.sketchBase, x.htuMatrix].all fun a => a % 64 = 0

/-- A search parameter block. -/
structure Params where
  index : Nat
  ef : Nat
  maxExp : Nat
  nEntry : Nat
  rerank : Bool
  fanout : Bool
  htuEntry : Bool
  rr : Nat
  group : Nat
  shardsExp : Nat
  reserve : Nat
  budget : Nat
  wkSel : Nat
  shardWait : Nat
  remoteIndex : Nat
  deriving DecidableEq, Repr

/-- The parameter block that 64 bytes spell. -/
def paramsOf (d : List Byte) : Params :=
  { index := imf d 0 8, ef := imf d 8 2, maxExp := imf d 10 2, nEntry := imf d 12 1, rerank := imf d 13 1 % 2 = 1
    fanout := imf d 13 1 / 2 % 2 = 1, htuEntry := imf d 13 1 / 4 % 2 = 1, rr := imf d 14 2, group := imf d 16 2
    shardsExp := imf d 18 2, reserve := imf d 20 4, budget := imf d 24 4, wkSel := imf d 28 2, shardWait := imf d 30 2
    remoteIndex := imf d 32 8 }

/-- The fan-out wait in ticks: units of 100 µs, 0 standing for 100 ms (R350). -/
def Params.waitTicks (p : Params) : Nat := usTicks (100 * (if p.shardWait = 0 then 1000 else p.shardWait))

/-- A query can have a stop time at all (R359). -/
def Params.canStop (p : Params) (deadline : Rts) : Bool := p.budget != 0 || deadline != 0

/-- stop_time() holds: the start plus budget has come, or deadline − reserve has (R359). -/
def Params.stopped (p : Params) (deadline : Rts) (start : Nat) (s : State) : Bool :=
  (p.budget != 0 && start + p.budget ≤ s.eph.ticks) ||
    (deadline != 0 && rtsLin (rtsNorm deadline) ≤ rtsLin s.eph.now + p.reserve)

/-- The checks of R350. -/
def paramsOk (d : List Byte) (x : Index) (k : Nat) (inRecall : Bool) : Bool :=
  let p := paramsOf d
  k ≤ p.ef && p.ef ≤ 512 && 1 ≤ p.maxExp && p.maxExp * x.R + p.nEntry ≤ 32768 && 1 ≤ p.nEntry && p.nEntry ≤ 8 &&
    imf d 13 1 < 8 && (!p.htuEntry || inRecall) &&
    (if p.rerank then k ≤ p.rr && p.rr ≤ p.ef else p.rr = 0) &&
    (if p.fanout then p.group < 4096 && 2 ≤ p.shardsExp else p.group = 0 && p.shardsExp = 0) && imf d 40 24 = 0

/-- The checks of R352 on both blocks, the index block at `at_`. -/
def blocksOk (pd xd : List Byte) (at_ k : Nat) (inRecall : Bool) : Bool :=
  let x := indexOf xd
  indexOk at_ xd && paramsOk pd x k inRecall && (inRecall || x.vfmt = 0) &&
    (!(paramsOf pd).rerank || (x.vectors && x.vfmt != 5))

/-- The checks of R352 on both blocks and the addresses. -/
def searchOk (pd xd : List Byte) (qa ra k : Nat) (inRecall : Bool) : Bool :=
  blocksOk pd xd (paramsOf pd).index k inRecall && qa % 64 = 0 && ra % 64 = 0

/-! ### Objects (R347) -/

/-- Bytes of an element, of a vector, of a subvector's slot. -/
def Index.esize (x : Index) : Nat := if x.vfmt = 5 then 2 else 1
def Index.vs (x : Index) : Nat := (x.dim * x.esize + 63) / 64 * 64
def Index.dsub (x : Index) : Nat := x.dim / x.M
def Index.slot (x : Index) : Nat := (x.dsub * x.esize + 15) / 16 * 16

/-- Values of n elements. -/
def vecNums (x : Index) (n : Nat) (d : List Byte) : List Num :=
  (List.range n).map fun i => elemValue x.vfmt 0 [(d.drop (x.esize * i)).take x.esize]

/-! ### Scores (R353 to R355, R357) -/

/-- A finite number as an integer multiple of 2^−48; none for NaN and infinities. -/
def numGrid48 : Num → Option Int
  | .fin neg m e =>
    let v : Int := if -48 ≤ e then m * 2 ^ (e + 48).toNat else (m / 2 ^ (-48 - e).toNat : Nat)
    some (if neg then -v else v)
  | _ => none

/-- A finite number as an integer. -/
def numIntOf (n : Num) : Int :=
  match numGrid48 n with
  | some v => v / 2 ^ 48
  | none => 0

/-- One term of a distance: (q − x)² or q·x. -/
def distTerm (metric : Nat) (q x : Num) : Num :=
  if metric = 0 then
    let d := addNum q (negNum x)
    mulNum d d
  else mulNum q x

/-- A table entry of deterministic mode (R353). -/
def tableDet (x : Index) (q c : List Num) : Int :=
  let t := ((q.zip c).map fun p => numIntOf (distTerm x.metric p.1 p.2)).sum
  let m := roundMag (t < 0) t.natAbs (-(x.tshift : Int)) 0
  let v : Int := if t < 0 then -(m : Int) else m
  if x.metric = 0 then max 0 (min 65535 v) else max (-32768) (min 32767 v)

/-- A number as FP32. -/
def toF32 (n : Num) : Nat := encodeF fFP32 0 n

/-- A table entry of recall mode, as FP32 bits of its FP16 value (R354). -/
def tableRecall (x : Index) (q c : List Num) : Nat :=
  let t := (q.zip c).foldl (fun (a : Nat) p =>
    let f (n : Num) : Num := decodeF fFP32 (toF32 n)
    let term :=
      if x.metric = 0 then
        let d := f (addNum (f p.1) (negNum (f p.2)))
        f (mulNum d d)
      else f (mulNum (f p.1) (f p.2))
    f32Add a (toF32 term)) 0
  toF32 (decodeF fFP16 (encodeF fFP16 0 (decodeF fFP32 t)))

/-- Score of a code from the M table entries it names: kind 0 in deterministic mode, kind 1 in recall mode. -/
def codeScore (x : Index) (det : Bool) (entries : List Int) : BitVec 128 :=
  if det then
    let v := entries.sum
    ((BitVec.ofInt 32 (if x.metric = 0 then v else -v)).signExtend 128)
  else
    let v := match entries with
      | [] => 0
      | e :: t => t.foldl (fun (a : Nat) y => f32Add a y.toNat) e.toNat
    BitVec.ofNat 128 (if x.metric = 0 then v else toF32 (negNum (decodeF fFP32 v)))

/-- Score of an exact distance: kind 2 (R357). -/
def exactScore (x : Index) (q v : List Num) : BitVec 128 :=
  let t := (q.zip v).foldl (fun (a : Option Int) p => addVal a (numGrid48 (distTerm x.metric p.1 p.2))) (some 0)
  ofValL128 (match t with
    | some n => some (if x.metric = 0 then n else -n)
    | none => none)

/-- One score ranks before another of its kind: NaN and INF after every number (R354, R355). -/
def scoreLt (kind : Nat) (a b : BitVec 128) : Bool :=
  if kind = 1 then
    match cmpNum (decodeF fFP32 (bits a 31 0)) (decodeF fFP32 (bits b 31 0)) with
    | some o => o = .lt
    | none => numBad (decodeF fFP32 (bits b 31 0)) && decodeF fFP32 (bits a 31 0) != .nan
  else if kind = 2 then
    match valL128 a, valL128 b with
    | some x, some y => x < y
    | some _, none => true
    | none, _ => false
  else a.slt b

/-- The order of R355. -/
def hitLt (kind : Nat) (x y : Hit) : Bool :=
  scoreLt kind x.score y.score || (!scoreLt kind y.score x.score && x.gid.toNat < y.gid.toNat)

/-! ### The walk (R349, R356, R368) -/

/-- A candidate. -/
structure Cand where
  hit : Hit
  id : Nat
  expanded : Bool
  returnable : Bool

/-- What a query works with. -/
structure Query where
  x : Index
  p : Params
  who : Who
  wk : Fin 16
  det : Bool
  k : Nat
  q : List Num
  /-- Table entries: row 256·j + c. -/
  table : List Int

/-- A query in the making. -/
structure Walking where
  s : State
  err : Option AccErr := none
  visited : List Nat := []
  cand : List Cand := []
  exp : Nat := 0
  scored : Nat := 0
  degraded : Bool := false
  badLink : Bool := false

/-- Count in a walker's counters. -/
def countWk (w : Fin 16) (i : Fin 9) (n : Nat) (s : State) : State :=
  modWk w (fun x => if x.ctrFreeze then x else { x with cnt := upd x.cnt i (· + BitVec.ofNat 64 n) }) s

/-- A walker fault: recorded if none is, and logged to the instance and the PF (R368, R377, R379, R533). -/
def wkFault (w : Fin 16) (i : InstId) (reason : Nat) (s : State) : State :=
  let s := modWk w (fun x => if x.errValid then x
    else { x with errValid := true, errInst := BitVec.ofNat 6 i.val, errReason := BitVec.ofNat 8 reason }) s
  logBoth i (0x0700 + reason) 0 0 (unitWk w).val s

/-- Poison met in an index object (R368). -/
def metPoison (c : Query) (a : Walking) : Walking :=
  { a with degraded := true, s := wkFault c.wk c.who.inst 4 (countWk c.wk 7 1 a.s) }

/-- A read of an index object: bytes where it succeeds without poison. -/
def objRead (c : Query) (a n : Nat) (w : Walking) : Option (List Byte) × Bool × Walking :=
  let r := readIva c.who a n w.s
  match r.err with
  | some e => (none, false, { w with s := r.s, err := some e })
  | none => if r.poison then (none, true, { w with s := r.s }) else (some r.data, false, { w with s := r.s })

/-- A node may be traversed; and returned (R349). -/
def nodeTrav (det : Bool) (G : Nat) (d : List Byte) : Bool :=
  imf d 0 4 != 0 && (!det || imf d 0 4 ≤ G) && imf d 8 1 % 2 = 0
def nodeRet (det : Bool) (G : Nat) (d : List Byte) : Bool := imf d 4 4 = 0 || (det && G < imf d 4 4)

/-- The global ID of a node (R351). -/
def gidOf (x : Index) (n : Nat) : BitVec 48 := BitVec.ofNat 48 (x.shard * 2 ^ 32 + n)

/-- Score kind of the walk. -/
def walkKind (det : Bool) : Nat := if det then 0 else 1

/-- The score kind of a query's answer (R351). -/
def queryKind (det : Bool) (p : Params) : Byte := if p.rerank then 2 else BitVec.ofNat 8 (walkKind det)

/-- Visit a node: judged, scored and put among the candidates (R349, R356). -/
def visitNode (c : Query) (n : Nat) (w : Walking) : Walking :=
  if w.err.isSome || w.visited.contains n then w
  else
    let w := { w with visited := n :: w.visited }
    match objRead c (c.x.nodeBase + 16 * n) 16 w with
    | (none, p, w) => if p then metPoison c w else w
    | (some rec_, _, w) =>
      if nodeTrav c.det c.x.curGen rec_ then
        match objRead c (c.x.codeBase + c.x.M * n) c.x.M w with
        | (none, p, w) => if p then metPoison c w else w
        | (some code, _, w) =>
          let es := code.mapIdx fun j b => c.table.getD (256 * j + b.toNat) 0
          let y : Cand := { hit := ⟨codeScore c.x c.det es, gidOf c.x n⟩, id := n, expanded := false
                            returnable := nodeRet c.det c.x.curGen rec_ }
          { w with cand := (insertBy (fun a b => hitLt (walkKind c.det) a.hit b.hit) y w.cand).take c.p.ef
                   scored := w.scored + 1, s := countWk c.wk 4 c.x.M (countWk c.wk 3 1 w.s) }
      else w

/-- Visit an ID that a list or slot names: one at or above capacity is skipped and noted (R356). -/
def visitId (c : Query) (w : Walking) (n : Nat) : Walking :=
  if n = 0xFFFFFFFF then w
  else if c.x.capacity ≤ n then
    { w with badLink := true, s := if w.badLink then w.s else wkFault c.wk c.who.inst 6 w.s }
  else visitNode c n w

/-- Expand a candidate (R356). -/
def expandNode (c : Query) (n : Nat) (w : Walking) : Walking :=
  let w := { w with exp := w.exp + 1, cand := w.cand.map (fun y => if y.id = n then { y with expanded := true } else y)
                    s := countWk c.wk 2 1 w.s }
  match objRead c (c.x.nbrBase + 4 * c.x.R * n) (4 * c.x.R) w with
  | (none, p, w) => if p then metPoison c w else w
  | (some d, _, w) => (numbersOf 4 c.x.R d).foldl (visitId c) w

/-- The loop of R356; `cut` is how many expansions stop_time() leaves. Answers whether stop_time() ended it. -/
def walkLoop (c : Query) : Nat → Option Nat → Walking → Bool × Walking
  | 0, _, w => (false, w)
  | f + 1, cut, w =>
    if w.err.isSome then (false, w)
    else
      match w.cand.find? fun y => !y.expanded with
      | none => (false, w)
      | some y =>
        if cut = some 0 then (true, w) else walkLoop c f (cut.map fun n => n - 1) (expandNode c y.id w)

/-- Re-rank: exact scores of the first candidates; a poisoned vector drops its node (R357, R368). -/
def rerankLoop (c : Query) : List Cand → List Hit → Walking → List Hit × Walking
  | [], acc, w => (acc, w)
  | y :: t, acc, w =>
    if w.err.isSome then (acc, w)
    else
      match objRead c (c.x.vecBase + c.x.vs * y.id) (c.x.dim * c.x.esize) w with
      | (none, p, w) => rerankLoop c t acc (if p then metPoison c w else w)
      | (some d, _, w) =>
        rerankLoop c t (insertBy (hitLt 2) ⟨exactScore c.x c.q (vecNums c.x c.x.dim d), y.hit.gid⟩ acc) w

/-! ### A query from its start (R349, R353, R356, R369) -/

/-- How a query ends. -/
inductive QueryEnd where
  | answer (a : Answer)
  /-- Query, codebook, entry list or sketch poisoned (R369). -/
  | poisoned
  | fails (e : AccErr)

/-- Header flag bits (R351). -/
def flagBits (degraded cut skipped badLink : Bool) : Byte :=
  BitVec.ofNat 8 (b2n degraded + 2 * b2n cut + 4 * b2n skipped + 32 * b2n badLink)

/-- The walk from given entry points (R356, R357). -/
def walkFrom (c : Query) (entries : List Nat) (cut : Option Nat) (skipped : Bool) (s : State) : QueryEnd × State :=
  let w := entries.foldl (visitId c) { s := s }
  let (stopped, w) := walkLoop c c.p.maxExp (if c.det then none else cut) w
  let ret := w.cand.filter fun y => y.returnable
  let (hits, w) := if c.p.rerank then rerankLoop c (ret.take c.p.rr) [] w else (ret.map fun y => y.hit, w)
  match w.err with
  | some e => (.fails e, w.s)
  | none =>
    let s := if stopped then countWk c.wk 6 1 w.s else w.s
    (.answer { kind := queryKind c.det c.p
               flags := flagBits w.degraded stopped skipped w.badLink, shardsAns := 1, hits := hits.take c.k
               expansions := BitVec.ofNat 32 w.exp, scored := BitVec.ofNat 32 w.scored
               gen := BitVec.ofNat 32 c.x.curGen }, s)

/-- Table of a query from the codebook (R353, R354). -/
def queryTable (x : Index) (det : Bool) (q : List Num) (book : List Byte) : List Int :=
  (List.range (256 * x.M)).map fun i =>
    let sub := (q.drop (i / 256 * x.dsub)).take x.dsub
    let cen := vecNums x x.dsub ((book.drop (i * x.slot)).take (x.dsub * x.esize))
    if det then tableDet x sub cen else tableRecall x sub cen

/-- A query poisoned before its walk (R369). -/
def queryPoison (wk : Fin 16) (i : InstId) (s : State) : QueryEnd × State :=
  (.poisoned, wkFault wk i 5 (countWk wk 7 1 s))

/-- A query from its vector: the codebook is read and the table built (R353, R354). `seeds`: entry points found
through the HTU; none takes the entry list. -/
def queryRun (who : Who) (wk : Fin 16) (x : Index) (p : Params) (k : Nat) (det : Bool) (q : List Num)
    (seeds : Option (List Nat)) (cut : Option Nat) (skipped : Bool) (s : State) : QueryEnd × State :=
  let b := readIva who x.bookBase (256 * x.M * x.slot) s
  match b.err with
  | some e => (.fails e, b.s)
  | none =>
    if b.poison then queryPoison wk who.inst b.s
    else
      let c : Query := { x := x, p := p, who := who, wk := wk, det := det, k := k, q := q, table := queryTable x det q b.data }
      match seeds with
      | some es => walkFrom c es cut skipped b.s
      | none =>
        let e := readIva who x.entryBase (4 * p.nEntry) b.s
        match e.err with
        | some er => (.fails er, e.s)
        | none =>
          if e.poison then queryPoison wk who.inst e.s
          else walkFrom c (numbersOf 4 p.nEntry e.data) cut skipped e.s

/-! ### Merging answers (R366, R472) -/

/-- Keep the first k of two answers' hits in the order of R355. -/
def mergeHits (kind k : Nat) (xs ys : List Hit) : List Hit :=
  ((ys.foldl (fun l h => insertBy (hitLt kind) h l) xs)).take k

/-- Merge an answer into a context (R366): one of another kind than the query's is not counted. -/
def mergeAnswer (m : Merge) (a : Answer) : Merge :=
  let m := { m with answered := m.answered + 1 }
  if (a.shardsAns = 0 && a.hits = []) || m.ans.kind != a.kind then m
  else
    let fl : Byte := a.flags &&& 0x29
    { m with ans := { m.ans with flags := m.ans.flags ||| fl, shardsAns := m.ans.shardsAns + a.shardsAns
                                 hits := mergeHits a.kind.toNat m.k m.ans.hits a.hits } }

/-- The 32 bytes of a result header (R351). -/
def headerOf (a : Answer) (k shardsExp : Nat) : List Byte :=
  let n := (a.hits.take k).length
  let fl := a.flags ||| (if n < k then 16 else 0)
  leBytes 2 n ++ [a.kind, fl] ++ leBytes 2 a.shardsAns ++ leBytes 2 shardsExp ++ leBytes 4 a.expansions.toNat ++
    leBytes 4 a.scored.toNat ++ leBytes 4 a.gen.toNat ++ List.replicate 12 0

/-- The 32 bytes of a result entry (R351). -/
def hitBytes (h : Hit) : List Byte := leBytes 16 h.score.toNat ++ leBytes 6 h.gid.toNat ++ List.replicate 10 0

/-- The answer that a header and entries spell. -/
def answerOf (d : List Byte) : Answer :=
  { kind := BitVec.ofNat 8 (imf d 2 1), flags := BitVec.ofNat 8 (imf d 3 1), shardsAns := imf d 4 2
    hits := (List.range (imf d 0 2)).map fun i =>
      ⟨BitVec.ofNat 128 (imf d (32 + 32 * i) 16), BitVec.ofNat 48 (imf d (48 + 32 * i) 6)⟩
    expansions := BitVec.ofNat 32 (imf d 8 4), scored := BitVec.ofNat 32 (imf d 12 4), gen := BitVec.ofNat 32 (imf d 16 4) }

end Sys2Proof.Machine
end

