-- ==== Sys2Proof/Machine/Search.lean ====
section
/-! DEFINITION. SEARCH, its queries, fan-out and merge contexts, and INDEX_UPDATE (R345, R349 to R352, R356 to R369,
R375, R377, R470 to R472). -/

namespace Sys2Proof.Machine

open Sys2Proof

/-! ### The start of WALK descriptors (R117, R345, R362) -/

/-- The index block a descriptor of INDEX_UPDATE names, as its place in memory. -/
def blockPlace (x : Item) (s : State) : Option Target :=
  match (translate x.inst .read (dfield x.raw 32 8) s).1 with
  | .ok t => some t
  | .error _ => none

/-- An earlier INDEX_UPDATE of the same index block has not ended (R362). -/
def updateWaits (x : Item) (s : State) : Bool :=
  x.opcode = 5 && s.items.any fun y =>
    y.id < x.id && y.opcode = 5 && y.stage != .ended &&
      ((y.inst = x.inst && dfield y.raw 32 8 = dfield x.raw 32 8) ||
        ((blockPlace x s).isSome && blockPlace y s == blockPlace x s))

/-- WALK descriptors that may start. -/
def walkOk (s : State) (x : Item) : Bool := !updateWaits x s

/-- A walker is named by the selection and granted (R345). -/
def wkNamed (sel : Nat) (i : InstId) (w : Fin 16) (s : State) : Bool :=
  bit s.inst[i.val].wkMask w.val && (sel = 0 || sel.testBit w.val)

/-- A walker serves: named and not out of service. -/
def wkServes (sel : Nat) (i : InstId) (w : Fin 16) (s : State) : Bool := wkNamed sel i w s && !unitClosed (unitWk w) s

/-- The lowest walker that serves, or walker 0. -/
def wkFor (sel : Nat) (i : InstId) (s : State) : Fin 16 :=
  ((List.finRange 16).find? fun w => wkServes sel i w s).getD 0

/-- The identity of a walker's requests (R119, R153). -/
def wkWho (w : Fin 16) (i : InstId) (gen : BitVec 16) : Who := { inst := i, src := 592 + w.val, gen := gen }

/-- The SEARCH's work, if it has started. -/
def workOf (d : Nat) (s : State) : Option SearchWork := s.searches.find? fun w => w.item = d

/-- A query of the SEARCH that is item d. -/
def QueryKey.ofItem (d : Nat) : QueryKey → Bool
  | .own i _ => i = d
  | .remote _ _ _ => false

/-- The item of a query, and its number in item d. -/
def QueryKey.item? : QueryKey → Option Nat
  | .own i _ => some i
  | .remote _ _ _ => none
def QueryKey.numberIn (d : Nat) : QueryKey → Option Nat
  | .own i j => if i = d then some j else none
  | .remote _ _ _ => none

/-- The instance that a query works for. -/
def keyInst (q : QueryKey) (s : State) : InstId :=
  match q with
  | .own d _ => (findItem d s).elim 0 Item.inst
  | .remote _ _ i => i

/-- Drop everything of a SEARCH. -/
def dropSearch (d : Nat) (s : State) : State :=
  { s with searches := s.searches.filter fun w => w.item ≠ d
           wks := s.wks.map fun w => { w with queries := w.queries.filter fun q => !q.ofItem d }
           halo := { s.halo with reqs := s.halo.reqs.filter fun r => r.remote.isSome || r.item ≠ d }
           fab := { s.fab with merges := s.fab.merges.filter fun m =>
                                 match m.root with
                                 | some r => r.1 ≠ d
                                 | none => true
                               reqs := s.fab.reqs.filter fun q =>
                                 match q.owner with
                                 | .search i _ => i ≠ d
                                 | .core _ _ => true } }

/-- Queries that a SEARCH has completed. -/
def searchDone (d : Nat) (s : State) : Nat :=
  match workOf d s with
  | some w => w.done
  | none => 0

/-- A SEARCH ends with outcomes that f adds; an old generation ends nothing (R120, R129). -/
def searchEnd (d : Nat) (f : Outcomes → Outcomes) (s : State) : State :=
  let n := searchDone d s
  endItem d (BitVec.ofNat 64 n) f (dropSearch d s)

/-- A request of a SEARCH failed (R377). -/
def searchFails (d : Nat) (w : Fin 16) (i : InstId) (e : AccErr) (s : State) : State :=
  match e with
  | .stale => dropSearch d s
  | .mtu _ => searchEnd d (errOutcome e) (wkFault w i 3 s)
  | .engine => searchEnd d (errOutcome e) s

/-- Its checks failed, by poison or otherwise (R352, R369, R377). -/
def searchInvalid (d : Nat) (w : Fin 16) (i : InstId) (pois : Bool) (s : State) : State :=
  searchEnd d (fun o => { o with invalid := true, poison := o.poison || pois }) (wkFault w i 2 s)

/-- SEARCH once it has started: grants, then the blocks are read and checked (R117, R352). -/
def searchStart (x : Item) (s : State) : State :=
  let i := x.inst
  if s.inst[i.val].wkMask = 0 then endInvalid x.id s
  else
    let w0 := wkFor 0 i s
    let who := wkWho w0 i x.gen
    let (first, s) := firstRequests who [(.read, dfield x.raw 24 8), (.read, dfield x.raw 32 8), (.write, dfield x.raw 40 8)] s
    let pr := readIva who (dfield x.raw 24 8) 64 s
    match first.or pr.err with
    | some e => searchFails x.id w0 i e (if first.isSome then s else pr.s)
    | none =>
      if pr.poison then searchInvalid x.id w0 i true pr.s
      else
        let p := paramsOf pr.data
        let xr := readIva who p.index 256 pr.s
        match xr.err with
        | some e => searchFails x.id w0 i e xr.s
        | none =>
          let ok := searchOk pr.data xr.data (dfield x.raw 32 8) (dfield x.raw 40 8) (dfield x.raw 52 2) (dfield x.raw 54 1 = 1)
          if xr.poison then searchInvalid x.id w0 i true xr.s
          else if !ok || !(List.finRange 16).any (fun w => wkNamed p.wkSel i w xr.s) then searchInvalid x.id w0 i false xr.s
          else if !(List.finRange 16).any (fun w => wkServes p.wkSel i w xr.s) then
            searchEnd x.id (fun o => { o with engineFault := true }) xr.s
          else { xr.s with searches := xr.s.searches ++ [{ item := x.id, next := 0, done := 0, params := pr.data }] }

/-- SEARCH (R352). -/
def execSearch (d : Nat) (s : State) : Out :=
  match findItem d s with
  | none => .next s
  | some x =>
    act (live s && x.opcode = 4 && isNext d 2 (walkOk s) s) (fun s => searchStart x (dispatchStart d 2 (walkOk s) s)) s

/-! ### Results (R351) -/

/-- Bytes of a result area. -/
def areaBytes (k : Nat) : Nat := 32 + 32 * k

/-- The place of a query frees; one that has completed is counted (R344, R379). -/
def placeFree (q : QueryKey) (completed : Bool) (s : State) : State :=
  { s with wks := s.wks.map fun w =>
      if w.queries.contains q then
        { w with queries := w.queries.filter fun x => x ≠ q
                 cnt := if w.ctrFreeze || !completed then w.cnt else upd w.cnt 5 (· + 1) }
      else w }

/-- A query ends: its place frees, and the last one completes the SEARCH (R345). -/
def queryDone (d j : Nat) (s : State) : State :=
  let s := placeFree (.own d j) true s
  let s := { s with halo := { s.halo with reqs := s.halo.reqs.filter fun r => r.remote.isSome || r.item ≠ d || r.query ≠ j }
                    searches := s.searches.map fun w => if w.item = d then { w with done := w.done + 1 } else w }
  match findItem d s with
  | none => s
  | some x => if dfield x.raw 48 4 ≤ searchDone d s then searchEnd d id s else s

/-- The walker at which a query stands. -/
def wkOfQuery (d j : Nat) (s : State) : Fin 16 :=
  ((List.finRange 16).find? fun w => s.wks[w.val].queries.contains (.own d j)).getD 0

/-- Write the entries of a query's result, then its header, and end the query (R351, R368, R369). -/
def writeResult (d j : Nat) (a : Answer) (shardsExp : Nat) (pois : Bool) (s : State) : State :=
  match findItem d s with
  | none => s
  | some x =>
    let k := dfield x.raw 52 2
    let wk := wkOfQuery d j s
    let who := wkWho wk x.inst x.gen
    let at_ := dfield x.raw 40 8 + j * areaBytes k
    let hits := (a.hits.take k).flatMap hitBytes
    let body := hits ++ List.replicate (32 * k - hits.length) 0
    let s := modItem d (fun y => { y with out := { y.out with degraded := y.out.degraded || bit a.flags 0
                                                              poison := y.out.poison || bit a.flags 3 } }) s
    match writeIva who (at_ + 32) body pois s with
    | (some e, n, s) => searchFails d wk x.inst e (if n = 0 then s else noteEffect d s)
    | (none, _, s) =>
      match writeIva who at_ (headerOf a k shardsExp) false (noteEffect d s) with
      | (some e, _, s) => searchFails d wk x.inst e s
      | (none, _, s) => queryDone d j (noteEffect d s)

/-! ### Merge contexts (R366, R367, R470 to R472) -/

/-- Take a merge context out. -/
def dropMerge (src : BitVec 16) (req : Word) (s : State) : State :=
  { s with fab := { s.fab with merges := s.fab.merges.filter fun m => !(m.src = src && m.req = req)
                               reqs := s.fab.reqs.filter fun q =>
                                 match q.owner with
                                 | .search _ _ => !(src = s.fab.node && q.id = req)
                                 | .core _ _ => true } }

/-- The context of a key. -/
def mergeOf (src : BitVec 16) (req : Word) (s : State) : Option Merge :=
  s.fab.merges.find? fun m => m.src = src && m.req = req

/-- The ANSWER message of a context (R460, R472). -/
def answerMsg (dst : BitVec 16) (req : Word) (group : BitVec 12) (dom : Byte) (a : Answer) (k shardsExp : Nat) (s : State) : Msg :=
  let pl := headerOf a k shardsExp ++ (a.hits.take k).flatMap hitBytes
  { type := 0x28, flags := 0, dst := dst, src := s.fab.node, hops := s.fab.hopLimit, hopEpoch := 0
    length := BitVec.ofNat 16 pl.length, domain := dom, arg := BitVec.ofNat 8 a.shardsAns, reqId := req
    addr := group.setWidth 64, deadline := 0, payload := pl }

/-- An ANSWER leaves on a port that carries routed traffic; on another it is lost. -/
def sendOn (p : Fin 8) (m : Msg) (s : State) : State := if portInService p s then portQueue p m s else s

/-- The root context closes (R367): the result is written from the answers received; a missing shard gives
FABRIC_UNREACH, but for a close at stop_time(), which sets cut and is counted with the queries cut (R379). -/
def rootClose (m : Merge) (d j : Nat) (stop : Bool) (s : State) : State :=
  let s := dropMerge m.src m.req s
  let missing := m.ans.shardsAns < m.shardsExp
  let s := if stop && missing && !bit m.ans.flags 1 then countWk (wkOfQuery d j s) 6 1 s else s
  let a := if stop && missing then { m.ans with flags := m.ans.flags ||| 2 } else m.ans
  match findItem d s with
  | none => s
  | some x =>
    let s :=
      if missing && !stop then
        wkFault (wkOfQuery d j s) x.inst 7 (modItem d (fun y => { y with out := { y.out with fabricUnreach := true } }) s)
      else s
    writeResult d j a m.shardsExp false s

/-- A context that is no root closes: one ANSWER upstream (R472). -/
def branchClose (m : Merge) (up : Fin 8) (s : State) : State :=
  let s := dropMerge m.src m.req s
  let dom := Tab.get 0 s.fab.mcast m.group.toNat
  sendOn up (answerMsg m.src m.req m.group (BitVec.ofNat 8 (bits dom 23 16)) m.ans m.k m.shardsExp s) s

/-- Close a context if its time has come: a root under R367, another when every branch has answered. -/
def mergeCheck (m : Merge) (s : State) : State :=
  match m.root, m.up with
  | some (d, j), _ =>
    if m.shardsExp ≤ m.ans.shardsAns || (m.branches ≤ 1 && 1 ≤ m.answered) then rootClose m d j false s else s
  | none, some p => if m.branches ≤ m.answered then branchClose m p s else s
  | none, none => s

/-- Change a context and close it if its time has come. -/
def mergeUpdate (src : BitVec 16) (req : Word) (f : Merge → Merge) (s : State) : State :=
  match mergeOf src req s with
  | none => s
  | some m =>
    let s := { s with fab := { s.fab with merges := s.fab.merges.map fun x =>
                                 if x.src = src && x.req = req then f x else x } }
    mergeCheck (f m) s

/-- The answer of the device's own walk is merged, and its counts kept (R351, R365, R471). -/
def mergeOwn (m : Merge) (a : Answer) : Merge :=
  let n := mergeAnswer m a
  { n with ans := { n.ans with flags := n.ans.flags ||| a.flags &&& 6, expansions := a.expansions, scored := a.scored, gen := a.gen } }

/-- Copy a QUERY to the ports of a group but one; answers how many ports took it (R470). -/
def copyQuery (m : Msg) (mask : Nat) (except_ : Option (Fin 8)) (s : State) : Nat × State :=
  (List.finRange 8).foldl (fun r p =>
    if mask.testBit p.val && except_ != some p && portInService p r.2 then (r.1 + 1, portQueue p m r.2) else r) (0, s)

/-- The group takes a QUERY of a domain (R470). -/
def groupTakes (g : Nat) (dom : Byte) (s : State) : Bool :=
  let e := Tab.get 0 s.fab.mcast g
  bit e 31 && bits e 23 16 = dom.toNat

/-- The QUERY message of a query (R365, R460). Its dst names no one node: a free value. Its deadline leaves the device
normalised (R32). -/
def queryMsg (dom : Byte) (id : Word) (r : HtuReq) (deadline : Rts) (s : State) : Msg × State :=
  let p := paramsOf r.params
  let (dst, s) := takeFree 16 s
  let pl := r.params ++ r.vec
  ({ type := 0x08, flags := 0, dst := dst, src := s.fab.node, hops := s.fab.hopLimit, hopEpoch := 0
     length := BitVec.ofNat 16 pl.length, domain := dom, arg := BitVec.ofNat 8 (b2n (!r.det) + 4 * b2n p.htuEntry)
     reqId := id, addr := BitVec.ofNat 64 (p.group + r.k * 65536 + p.shardWait * 2 ^ 32), deadline := (rtsField deadline).getD 0
     payload := pl }, s)

/-- Open the root context of a query and send the QUERY once to its group (R365, R471). An instance without the
fabric, an entry that does not take it or a full context memory leaves the group unreachable (R118, R470, R471). -/
def openRoot (r : HtuReq) (deadline : Rts) (s : State) : State :=
  let p := paramsOf r.params
  let id := s.fab.nextReq
  let s := { s with fab := { s.fab with nextReq := id + 1 } }
  let full := 1024 ≤ s.fab.merges.length
  let s := if full then fabRaise 7 0 s else s
  let (n, s) :=
    match domainOf r.inst s with
    | none => (0, s)
    | some dom =>
      if full || !groupTakes p.group dom s then (0, s)
      else
        let (m, s) := queryMsg dom id r deadline s
        let q : FabReq := { id := id, owner := .search r.item r.query, msg := m }
        let s := { s with fab := { s.fab with reqs := s.fab.reqs ++ [q] } }
        copyQuery m (bits (Tab.get 0 s.fab.mcast p.group) 7 0) none s
  let m : Merge := { src := s.fab.node, req := id, up := none, root := some (r.item, r.query), group := BitVec.ofNat 12 p.group
                     k := r.k, branches := n + 1, answered := 0, shardsExp := p.shardsExp
                     ans := { kind := queryKind r.det p, gen := BitVec.ofNat 32 (indexOf r.index).curGen }
                     openedAt := s.eph.ticks, wait := p.waitTicks }
  { s with fab := { s.fab with merges := s.fab.merges ++ [m] } }

/-- The root context of a query. -/
def rootOf (d j : Nat) (s : State) : Option Merge := s.fab.merges.find? fun m => m.root = some (d, j)

/-! ### A query (R345, R356, R359, R365, R369) -/

/-- The element values of a query. -/
def jobVec (r : HtuReq) : List Num := vecNums (indexOf r.index) (indexOf r.index).dim r.vec

/-- The answer of a query that poison ended (R351, R369). -/
def poisonAnswer (r : HtuReq) : Answer :=
  { kind := queryKind r.det (paramsOf r.params), flags := 8, shardsAns := 1, gen := BitVec.ofNat 32 (indexOf r.index).curGen }

/-- A query has ended: its result is written, merged or answered (R351, R365, R369). -/
def jobEnd (r : HtuReq) (e : QueryEnd) (s : State) : State :=
  let p := paramsOf r.params
  match r.remote with
  | some m =>
    let a : Answer := match e with
      | .answer a => a
      | .poisoned => poisonAnswer r
      | .fails _ => {}
    let completed := match e with
      | .fails _ => false
      | _ => true
    mergeUpdate m.src m.reqId (fun x => mergeOwn x a) (placeFree (.remote m.src m.reqId r.inst) completed s)
  | none =>
    match e with
    | .fails er => searchFails r.item r.wk r.inst er s
    | .poisoned =>
      let s := match rootOf r.item r.query s with
        | some m => dropMerge m.src m.req s
        | none => s
      writeResult r.item r.query (poisonAnswer r) (if p.fanout then p.shardsExp else 1) true s
    | .answer a =>
      if p.fanout then
        match rootOf r.item r.query s with
        | some m => mergeUpdate m.src m.req (fun x => mergeOwn x a) s
        | none => s
      else writeResult r.item r.query a 1 false s

/-- stop_time() of a query holds, which only recall mode has (R359). -/
def reqStopped (r : HtuReq) (s : State) : Bool := !r.det && (paramsOf r.params).stopped r.deadline r.start s

/-- Run a query from its entry points on (R356, R359): once stop_time() holds it expands nothing. -/
def jobRun (r : HtuReq) (seeds : Option (List Nat)) (skipped : Bool) (s : State) : State :=
  let (e, s) := queryRun (wkWho r.wk r.inst r.gen) r.wk (indexOf r.index) (paramsOf r.params) r.k r.det (jobVec r) seeds
    (if reqStopped r s then some 0 else r.cut) skipped s
  jobEnd r e s

/-- The HTU may choose the entry points of this query (R359, R360). -/
def htuUsable (r : HtuReq) (s : State) : Bool :=
  let q := jobVec r
  s.inst[r.inst.val].htuEn && s.halo.htuLocked && !s.halo.htuOos && !unitClosed unitHtu s &&
    q.all (fun x => !numBad x) && q.any fun x => cmpNum x (.fin false 0 0) != some .eq

/-- A query starts: it waits for the HTU, or walks (R359). -/
def jobStart (r : HtuReq) (s : State) : State :=
  if (paramsOf r.params).htuEntry && !r.det then
    if htuUsable r s then { s with halo := { s.halo with reqs := s.halo.reqs ++ [r] } }
    else jobRun r none true s
  else jobRun r none false s

/-- The query takes its place and reads its index block and vector (R345, R349, R351). -/
def queryStart (x : Item) (w : SearchWork) (j : Nat) (wk : Fin 16) (cut : Option Nat) (s : State) : State :=
  let d := x.id
  let p := paramsOf w.params
  let inRecall := dfield x.raw 54 1 = 1
  let k := dfield x.raw 52 2
  let s := modWk wk (fun y => { y with queries := y.queries ++ [.own d j] }) s
  let who := wkWho wk x.inst x.gen
  let xr := readIva who p.index 256 s
  match xr.err with
  | some e => searchFails d wk x.inst e xr.s
  | none =>
    let ix := indexOf xr.data
    if xr.poison || !searchOk w.params xr.data (dfield x.raw 32 8) (dfield x.raw 40 8) k inRecall then
      searchInvalid d wk x.inst xr.poison xr.s
    else
      let qr := readIva who (dfield x.raw 32 8 + j * ix.vs) ix.vs xr.s
      let r : HtuReq := { item := d, query := j, wk := wk, inst := x.inst, gen := x.gen, det := !inRecall, k := k
                          params := w.params, index := xr.data, vec := qr.data, start := s.eph.ticks, deadline := x.deadline
                          cut := if inRecall && p.canStop x.deadline then cut else none }
      match qr.err with
      | some e => searchFails d wk x.inst e qr.s
      | none =>
        if qr.poison then
          let (e, s) := queryPoison wk x.inst qr.s
          jobEnd r e s
        else jobStart r (if p.fanout then openRoot r x.deadline qr.s else qr.s)

/-- The answer of a query that stop_time() ends before its walk: empty, with cut (R359). -/
def cutAnswer (r : HtuReq) : Answer :=
  { kind := queryKind r.det (paramsOf r.params), flags := 2, shardsAns := 1, gen := BitVec.ofNat 32 (indexOf r.index).curGen }

/-- A query that waits for the HTU ends at its stop time (R359). -/
def reqCut (r : HtuReq) (s : State) : State :=
  jobEnd r (.answer (cutAnswer r)) (countWk r.wk 6 1 { s with halo := { s.halo with reqs := s.halo.reqs.erase r } })

/-! ### QUERY and ANSWER from the fabric (R365, R466, R470 to R472) -/

/-- The key of another device's QUERY at a walker of instance i. -/
def remoteKey (m : Msg) (i : InstId) : QueryKey := .remote m.src m.reqId i

/-- A QUERY that does not run here is answered for 0 shards. -/
def remoteEmpty (m : Msg) (s : State) : State := mergeUpdate m.src m.reqId (fun x => mergeOwn x {}) s

/-- The QUERY of another device runs on walker wk for instance i, under the checks of R352 (R365); a shard that cannot run it
answers for 0 shards. A recall walk may be cut by its stop time: how far it came is a free value. -/
def remoteRun (m : Msg) (i : InstId) (wk : Fin 16) (s : State) : State :=
  let pd := m.payload.take 64
  let p := paramsOf pd
  let gen := s.inst[i.val].gen
  let k := bits m.addr 31 16
  let inRecall := bits m.arg 1 0 = 1
  let fails (reason : Nat) (s : State) : State := remoteEmpty m (placeFree (remoteKey m i) false (wkFault wk i reason s))
  let xr := readIva (wkWho wk i gen) p.remoteIndex 256 (modWk wk (fun y => { y with queries := y.queries ++ [remoteKey m i] }) s)
  if xr.err.isSome then fails 3 xr.s
  else if xr.poison || !blocksOk pd xr.data p.remoteIndex k inRecall then fails 2 xr.s
  else
    let (c, s) := takeFree 16 xr.s
    jobStart { item := 0, query := 0, wk := wk, inst := i, gen := gen, det := !inRecall, k := k, params := pd
               index := xr.data, vec := m.payload.drop 64, remote := some m, start := s.eph.ticks, deadline := m.deadline
               cut := if inRecall && p.canStop m.deadline then some c.toNat else none } s

/-- Look at the QUERY of another device: it starts on the lowest walker that serves the instance bound to it and has a query
place free, and waits while those that serve have none (R344, R345, R365). -/
def remoteTry (s : State) (m : Msg) : State :=
  match mergeOf m.src m.reqId s, targetInst m.domain s with
  | none, _ => s
  | some _, none => remoteEmpty m s
  | some _, some i =>
    let serving := (List.finRange 16).filter fun w => wkServes (paramsOf (m.payload.take 64)).wkSel i w s
    if serving.isEmpty then remoteEmpty m s
    else
      match serving.find? fun w => engUp (.wk w) s && s.wks[w.val].queries.length < 8 with
      | some wk => remoteRun m i wk s
      | none => { s with fab := { s.fab with queries := s.fab.queries ++ [m] } }

/-- Query places may have come free, or a walker gone: the QUERYs that wait are looked at in their order (R345, R375). -/
def remoteServe (s : State) : State :=
  if s.fab.queries = [] then s else s.fab.queries.foldl remoteTry { s with fab := { s.fab with queries := [] } }

/-- A QUERY whose header lies outside its row (R460). -/
def queryBad (m : Msg) : Bool :=
  m.length.toNat != m.payload.length || m.payload.length ≤ 64 || 1 < bits m.arg 1 0 || m.arg.toNat / 8 != 0 ||
    bits m.addr 15 12 != 0 || bits m.addr 63 48 != 0 || bits m.addr 31 16 = 0 || 256 < bits m.addr 31 16

/-- A QUERY arrives at a port (R470, R471). -/
def queryArrive (p : Fin 8) (m : Msg) (s : State) : State :=
  let g := bits m.addr 11 0
  let empty (s : State) : State := sendOn p (answerMsg m.src m.reqId (BitVec.ofNat 12 g) m.domain {} 1 0 s) s
  if queryBad m then refuse m 7 s
  else if passed m.deadline s.eph.now then refuse m 5 s
  else if !groupTakes g m.domain s then empty s
  else if (mergeOf m.src m.reqId s).isSome then empty s
  else if 1024 ≤ s.fab.merges.length then empty (fabRaise 7 0 s)
  else
    let e := Tab.get 0 s.fab.mcast g
    let pr := paramsOf (m.payload.take 64)
    let (n, s) := copyQuery m (bits e 7 0) (some p) s
    let c : Merge := { src := m.src, req := m.reqId, up := some p, root := none, group := BitVec.ofNat 12 g, k := bits m.addr 31 16
                       branches := n + b2n (bit e 30), answered := 0, ans := { kind := queryKind (bits m.arg 1 0 = 0) pr }
                       shardsExp := pr.shardsExp, openedAt := s.eph.ticks, wait := pr.waitTicks }
    let s := { s with fab := { s.fab with merges := s.fab.merges ++ [c] } }
    if bit e 30 then remoteTry s m else mergeCheck c s

/-- An ANSWER arrives (R460, R472): merged into its context, or discarded. A malformed one is discarded too. -/
def answerArrive (m : Msg) (s : State) : State :=
  let n := imf m.payload 0 2
  if m.length.toNat != m.payload.length || m.payload.length != 32 + 32 * n then s
  else mergeUpdate m.dst m.reqId (fun x => mergeAnswer x (answerOf m.payload)) s

/-- A QUERY is refused (R474, R483): after EPOCH it goes out again on the port where the refusal came in, up to 3
times; else that branch is lost. -/
def queryRefused (p : Fin 8) (q : FabReq) (code : Byte) (s : State) : State :=
  if code = 4 && q.retries < 3 then
    let s := { s with fab := { s.fab with reqs := s.fab.reqs.map fun x =>
      if x.id = q.id then { x with retries := x.retries + 1 } else x } }
    sendOn p q.msg s
  else mergeUpdate s.fab.node q.id (fun x => { x with branches := x.branches - 1 }) s

/-! ### A walker goes out of service (R375) -/

/-- The queries of a walker that is out of service start again on another walker of their set; with none left
their SEARCH ends with ENGINE_FAULT, and another device's QUERY is answered for 0 shards. -/
def wkWithdraw (wk : Fin 16) (s : State) : State :=
  let qs := s.wks[wk.val].queries
  let remotes := s.halo.reqs.filterMap fun r => if r.wk = wk then r.remote else none
  let s := modWk wk (fun w => { w with queries := [] }) s
  let s := { s with halo := { s.halo with reqs := s.halo.reqs.filter fun r => r.wk ≠ wk }
                    fab := { s.fab with queries := remotes ++ s.fab.queries
                                        merges := s.fab.merges.filter fun m =>
                                          match m.root with
                                          | some r => !qs.contains (.own r.1 r.2)
                                          | none => true } }
  let s := { s with searches := s.searches.map fun w =>
    { w with redo := (qs.filterMap fun q => q.numberIn w.item).foldl (fun l j => insertBy (fun a b : Nat => a < b) j l) w.redo } }
  remoteServe (((qs.filterMap QueryKey.item?).dedup).foldl (fun s d =>
    match findItem d s, workOf d s with
    | some x, some w =>
      if (List.finRange 16).any (fun v => wkServes (paramsOf w.params).wkSel x.inst v s) then s
      else searchEnd d (fun o => { o with engineFault := true }) s
    | _, _ => s) s)

/-! ### The commands of queries (R345, R356, R359, R367, R375, R472) -/

/-- SEARCH_QUERY_START (R345, R356, R375): the queries that restart go first, in ascending number. -/
def execSearchQueryStart (d : Nat) (wk : Fin 16) (cut : Option Nat) (s : State) : Out :=
  match findItem d s, workOf d s with
  | some x, some w =>
    let n := dfield x.raw 48 4
    let sel := (paramsOf w.params).wkSel
    let set (f : SearchWork → SearchWork) (s : State) : State :=
      { s with searches := s.searches.map fun y => if y.item = d then f y else y }
    act (live s && x.stage = .running && !x.draining && engUp (.wk wk) s && wkServes sel x.inst wk s && s.wks[wk.val].queries.length < 8 &&
        (w.redo != [] || w.next < n))
      (fun s =>
        remoteServe (match w.redo with
        | j :: t => queryStart x w j wk cut (set (fun y => { y with redo := t }) s)
        | [] => queryStart x w w.next wk cut (set (fun y => { y with next := y.next + 1 }) s))) s
  | _, _ => .next s

/-- QUERY_STOP_TIME (R359, R367): in recall mode, once stop_time() of the query holds: it ends with cut where it waits for the
HTU, and a root context closes. -/
def execQueryStopTime (d : Nat) (j : Nat) (s : State) : Out :=
  match findItem d s, workOf d s with
  | some x, some w =>
    let waits := s.halo.reqs.find? fun r => r.remote.isNone && r.item = d && r.query = j
    let start := waits.elim ((rootOf d j s).map Merge.openedAt) fun r => some r.start
    act (live s && x.stage = .running && dfield x.raw 54 1 = 1 && start.any fun t => (paramsOf w.params).stopped x.deadline t s)
      (fun s =>
        let s := waits.elim s fun r => reqCut r s
        remoteServe ((rootOf d j s).elim s fun m => rootClose m d j true s)) s
  | _, _ => .next s

/-- MERGE_TIMEOUT (R367, R472): shard_wait has passed since the context opened. -/
def execMergeTimeout (src : BitVec 16) (req : Word) (s : State) : Out :=
  match mergeOf src req s with
  | none => .next s
  | some m =>
    act (live s && m.openedAt + m.wait ≤ s.eph.ticks) (fun s =>
      match m.root, m.up with
      | some (d, j), _ => remoteServe (rootClose m d j false s)
      | none, some p => branchClose m p s
      | none, none => s) s

/-- WK_CTR_CLEAR (R379). -/
def execWkCtrClear (w : Fin 16) (s : State) : Out :=
  act (live s) (modWk w fun x => { x with cnt := Vector.replicate 9 0 }) s

/-! ### INDEX_UPDATE (R361, R362) -/

/-- An INDEX_UPDATE at work. -/
structure Updating where
  s : State
  err : Option AccErr := none
  applied : Nat := 0
  /-- Something was written. -/
  wrote : Bool := false

/-- What the entries of one INDEX_UPDATE share. -/
structure UpdateJob where
  x : Index
  who : Who
  wk : Fin 16
  insert : Bool

/-- A read on behalf of an update: the bytes and whether they are poisoned. -/
def updRead (c : UpdateJob) (a n : Nat) (u : Updating) : List Byte × Bool × Updating :=
  if u.err.isSome then ([], false, u)
  else
    let r := readIva c.who a n u.s
    (r.data, r.poison, { u with s := r.s, err := r.err })

/-- A write on behalf of an update. -/
def updWrite (c : UpdateJob) (a : Nat) (d : List Byte) (u : Updating) : Updating :=
  if u.err.isSome then u
  else
    match writeIva c.who a d false u.s with
    | (e, n, s) => { u with s := s, err := e, wrote := u.wrote || 0 < n }

/-- Write the status byte of an entry (R361). -/
def updStatus (c : UpdateJob) (at_ code : Nat) (u : Updating) : Updating := updWrite c (at_ + 5) [BitVec.ofNat 8 code] u

/-- Back-edge from a supplied neighbour to id: the first empty slot, or dropped; answers whether it was dropped. A
list that poison hides shows no empty slot (R362, R368). -/
def backEdge (c : UpdateJob) (id : Nat) (r : Bool × Updating) (n : Nat) : Bool × Updating :=
  let a := c.x.nbrBase + 4 * c.x.R * n
  let (d, pois, u) := updRead c a (4 * c.x.R) r.2
  if u.err.isSome then (r.1, u)
  else
    match if pois then none else (numbersOf 4 c.x.R d).findIdx? (· = 0xFFFFFFFF) with
    | some i => (r.1, updWrite c (a + 4 * i) (leBytes 4 id) u)
    | none =>
      let s := countWk c.wk 8 1 u.s
      let s := if pois then wkFault c.wk c.who.inst 4 (countWk c.wk 7 1 s) else s
      (true, { u with s := s })

/-- The 16 bytes of a node record (R348). -/
def nodeBytes (ins del : Nat) (free : Bool) : List Byte :=
  leBytes 4 ins ++ leBytes 4 del ++ [BitVec.ofNat 8 (b2n free)] ++ List.replicate 7 0

/-- Apply an insert whose data has been read and judged (R362). -/
def insertApply (c : UpdateJob) (at_ id : Nat) (nbrs : List Nat) (code vec : List Byte) (u : Updating) : Updating :=
  let u := updWrite c (c.x.codeBase + c.x.M * id) code u
  let u := if c.x.vectors then updWrite c (c.x.vecBase + c.x.vs * id) vec u else u
  let slots := nbrs ++ List.replicate (c.x.R - nbrs.length) 0xFFFFFFFF
  let u := updWrite c (c.x.nbrBase + 4 * c.x.R * id) (slots.flatMap (leBytes 4)) u
  let (dropped, u) := if c.x.backEdges then nbrs.foldl (backEdge c id) (false, u) else (false, u)
  let u := updWrite c (c.x.nodeBase + 16 * id) (nodeBytes (c.x.curGen + 1) 0 false) u
  let u := updStatus c at_ (16 * b2n dropped) u
  if u.err.isSome then u else { u with applied := u.applied + 1 }

/-- An insert (R361, R362). An n outside 1 to R has an outcome that the spec does not state: a free value. -/
def insertEntry (c : UpdateJob) (at_ : Nat) (e rec_ : List Byte) (u : Updating) : Updating :=
  let id := imf e 0 4
  let n := imf e 4 1
  if !(imf rec_ 0 4 = 0 || imf rec_ 8 1 % 2 = 1) then updStatus c at_ 2 u
  else if n = 0 || c.x.R < n then
    let (o, s) := takeFree 4 u.s
    updStatus c at_ o.toNat { u with s := s }
  else
    let (nd, p1, u) := updRead c (imf e 8 8) (4 * n) u
    let nbrs := numbersOf 4 n nd
    if u.err.isSome then u
    else if p1 then updStatus c at_ 5 u
    else if nbrs.any fun m => c.x.capacity ≤ m then updStatus c at_ 4 u
    else
      let (code, p2, u) := updRead c (imf e 16 8) c.x.M u
      let (vec, p3, u) := if c.x.vectors then updRead c (imf e 24 8) c.x.vs u else ([], false, u)
      if u.err.isSome then u
      else if p2 || p3 then updStatus c at_ 5 u
      else insertApply c at_ id nbrs code vec u

/-- A delete (R362). -/
def deleteEntry (c : UpdateJob) (at_ : Nat) (e rec_ : List Byte) (u : Updating) : Updating :=
  let id := imf e 0 4
  if imf rec_ 0 4 != 0 && imf rec_ 4 4 = 0 && imf rec_ 8 1 % 2 = 0 then
    let u := updWrite c (c.x.nodeBase + 16 * id) (nodeBytes (imf rec_ 0 4) (c.x.curGen + 1) false) u
    let u := updStatus c at_ 0 u
    if u.err.isSome then u else { u with applied := u.applied + 1 }
  else updStatus c at_ 3 u

/-- One entry of the list (R361, R362, R369). What a poisoned node record gives is not stated: a free outcome. -/
def updateEntry (c : UpdateJob) (list : Nat) (u : Updating) (i : Nat) : Updating :=
  let at_ := list + 32 * i
  let (e, pois, u) := updRead c at_ 32 u
  if u.err.isSome then u
  else if pois then updStatus c at_ 5 u
  else if c.x.capacity ≤ imf e 0 4 then updStatus c at_ 1 u
  else
    let (rec_, p2, u) := updRead c (c.x.nodeBase + 16 * imf e 0 4) 16 u
    if u.err.isSome then u
    else if p2 then
      let (o, s) := takeFree 4 (wkFault c.wk c.who.inst 4 (countWk c.wk 7 1 u.s))
      updStatus c at_ o.toNat { u with s := s }
    else if c.insert then insertEntry c at_ e rec_ u
    else deleteEntry c at_ e rec_ u

/-- INDEX_UPDATE once it has started (R362). -/
def updateRun (x : Item) (wk : Fin 16) (s : State) : State :=
  let i := x.inst
  let who := wkWho wk i x.gen
  let a := dfield x.raw 32 8
  let (first, s) := firstRequests who [(.read, dfield x.raw 24 8), (.read, a)] s
  let xr := readIva who a 256 s
  match first.or xr.err with
  | some e =>
    let s := if first.isSome then s else xr.s
    endItem x.id 0 (errOutcome e) (match e with
      | .mtu _ => wkFault wk i 3 s
      | _ => s)
  | none =>
    if xr.poison || !indexOk a xr.data then
      endItem x.id 0 (fun o => { o with invalid := true, poison := xr.poison }) (wkFault wk i 2 xr.s)
    else if (indexOf xr.data).curGen = 0xFFFFFFFF then endInvalid x.id xr.s
    else
      let c : UpdateJob := { x := indexOf xr.data, who := who, wk := wk, insert := dfield x.raw 44 1 = 0 }
      let u := (List.range (dfield x.raw 40 4)).foldl (updateEntry c (dfield x.raw 24 8)) { s := xr.s }
      let u := if u.applied = 0 then u else updWrite c (a + 16) (leBytes 4 (c.x.curGen + 1)) u
      let s := match u.err with
        | some (.mtu _) => wkFault wk i 3 u.s
        | _ => u.s
      endItem x.id (BitVec.ofNat 64 u.applied) (fun o => u.err.elim o fun e => errOutcome e o)
        (if u.wrote then noteEffect x.id s else s)

/-- INDEX_UPDATE (R117, R345, R362): on a walker that is granted and serves. -/
def execIndexUpdate (d : Nat) (wk : Fin 16) (s : State) : Out :=
  match findItem d s with
  | none => .next s
  | some x =>
    act (live s && x.opcode = 5 && engUp (.wk wk) s && isNext d 2 (walkOk s) s) (fun s =>
      let s := dispatchStart d 2 (walkOk s) s
      if s.inst[x.inst.val].wkMask = 0 then endInvalid d s
      else if !(List.finRange 16).any (fun w => wkServes 0 x.inst w s) then endItem d 0 (fun o => { o with engineFault := true }) s
      else updateRun x (if wkServes 0 x.inst wk s then wk else wkFor 0 x.inst s) s) s

end Sys2Proof.Machine
end

