-- ==== Sys2Proof/Machine/Fabric.lean ====
section
/-! DEFINITION. Lanes, flits, control records and replay; messages as they arrive at a port; routing (R447 to R475,
R478 to R485). -/

namespace Sys2Proof.Machine

open Sys2Proof

/-! ### Ports (R474, R523) -/

/-- A port's state as FAB_PORTp_STATUS codes it: 0 QUARANTINE (or OUT), 1 SHADOW, 2 IN_SERVICE (R486, R523). -/
def portState (p : Fin 8) (s : State) : Nat :=
  let st := s.nuc.units[(unitPort p).val].st
  if st = 0 then 2 else if st = 1 then 1 else 0

/-- The epoch of a port (R474, R523). -/
def portEpoch (p : Fin 8) (s : State) : Byte := s.nuc.units[(unitPort p).val].epoch

/-- The lanes of a port. -/
def lanesOf (p : Fin 8) : List (Fin 32) := (List.range 4).map (laneOf p)

/-- Lanes of a port that are up. -/
def lanesUp (p : Fin 8) (s : State) : List (Fin 32) := (lanesOf p).filter fun l => s.fab.lanes[l.val].up

/-- The control record of a lane, with nothing in `has` (R458). -/
def ctlOf (l : Fin 32) (s : State) : ControlRec :=
  let p := portOfLane l
  { hasAck := false, hasNak := false, hasReplay := false, hasCredit := false, hasTrain := false
    epoch := portEpoch p s, ackSeq := s.fab.lanes[l.val].rxE, rpSeq := 0, node := s.fab.node
    mode := s.fab.ports[p.val].mode.setWidth 8, lane := BitVec.ofNat 8 l.val, state := BitVec.ofNat 8 (portState p s)
    credit := s.fab.ports[p.val].freed }

/-- Send a control record on a lane. -/
def sendCtl (l : Fin 32) (f : ControlRec → ControlRec) (s : State) : State :=
  emit (.control l (f (ctlOf l s))) (modLane l (fun x => { x with flitsSinceBubble := x.flitsSinceBubble + 1 }) s)

/-- Send train records on every lane of a port that is up. -/
def announce (p : Fin 8) (s : State) : State :=
  (lanesUp p s).foldl (fun s l => sendCtl l (fun r => { r with hasTrain := true }) s) s

/-- Report freed credits on a lane that is up. -/
def sendCredit (p : Fin 8) (s : State) : State :=
  match lanesUp p s with
  | [] => s
  | l :: _ => sendCtl l (fun r => { r with hasCredit := true }) s

/-- Count in a lane's counters (R486). -/
def countLane (l : Fin 32) (k : Fin 8) (n : Nat) (s : State) : State :=
  modLane l (fun x => { x with cnt := upd x.cnt k (· + BitVec.ofNat 64 n) }) s

/-- Send what the port may send now. -/
def pumpPort (p : Fin 8) (s : State) : State := portPump s.fab.ports[p.val].queue.length p s

/-! ### Lanes up and down (R457, R473) -/

/-- Route a message that was queued for a port that has left service; QUERY, ANSWER and PROBE belong to that port's
link alone (R470, R472, R474, R475). -/
def reroute (m : Msg) (s : State) : State :=
  if m.type = 0x08 || m.type = 0x28 || m.type = 0x09 then s
  else
    match routeOut m s with
    | (none, s) => s
    | (some c, s) => if msgClass m.type = 0 then refuse m c s else s

/-- A port has left IN_SERVICE: its queue is routed again (R475). -/
def portLeaves (p : Fin 8) (s : State) : State :=
  let q := s.fab.ports[p.val].queue
  q.foldl (fun s m => reroute m s) (modPort p (fun x => { x with queue := [] }) s)

/-- A lane goes down (R473): what it had not got acknowledged goes out on another up lane of the port, in order; from
the last lane nothing is sent again (R475). -/
def laneFall (l : Fin 32) (s : State) : State :=
  let x := s.fab.lanes[l.val]
  if x.up then
    let p := portOfLane l
    let others := (lanesUp p s).filter (· ≠ l)
    let s := modLane l (fun y => { y with up := false, selectable := false, peerTrained := false, rejoin := others != []
                                          discarding := false, again := 0, copies := [], sentMsgs := [], rx := []
                                          replaying := none, storms := 0, sinceAck := 0 }) s
    let s := match others.find? (fun k => s.fab.lanes[k.val].selectable) <|> others.head? with
      | none => s
      | some k => x.sentMsgs.foldl (fun s m =>
          let u := msgUnits m.2
          let s := modLane k (fun y => { y with sentMsgs := y.sentMsgs ++ [((u.length + 7) / 8, m.2)] }) s
          sendFlits k (flitsOf u.length u) s) s
    fabRaise 0 l.val s
  else s

/-- LANE_DOWN (R473, R484). -/
def execLaneDown (l : Fin 32) (s : State) : Out := act (live s) (laneFall l) s

/-- The laser and both rings of a lane are locked, and its transmitter is in service (R421, R423, R426, R473). -/
def laneLit (l : Fin 32) (s : State) : Bool :=
  let p := l.val / 4
  let w := l.val % 4
  let ok (n : Nat) : Bool := (s.halo.loops.toList.getD n {}).st = .locked
  bit s.halo.laserOn l.val && !bit s.halo.txOos l.val && ok l.val && ok (32 + 8 * p + w) && ok (32 + 8 * p + 4 + w)

/-- LANE_UP (R447, R473, R474): the peer's train records report the same mode. Both ends count data flits from 0. -/
def execLaneUp (l : Fin 32) (s : State) : Out :=
  let p := portOfLane l
  let x := s.fab.lanes[l.val]
  act (live s && !x.up && bit s.fab.ports[p.val].laneEn (l.val % 4) && s.nuc.units[(unitPort p).val].st != 3 && laneLit l s &&
      x.peerTrained && !x.peerMismatch)
    (fun s =>
      let s := modLane l (fun y => { y with up := true, selectable := !y.rejoin, rxE := 0, txSeq := 0, txAck := 0 }) s
      pumpPort p (sendCtl l (fun r => { r with hasTrain := true }) s)) s

/-- LANE_REJOIN (R473). -/
def execLaneRejoin (l : Fin 32) (s : State) : Out :=
  act (live s && s.fab.lanes[l.val].up && !s.fab.lanes[l.val].selectable)
    (fun s => pumpPort (portOfLane l) (modLane l (fun x => { x with selectable := true, rejoin := false }) s)) s

/-! ### Replay (R455 to R457) -/

/-- Replay from sequence e: REPLAY_START, then every copy from e in order; the eighth replay of one e takes the lane
down (R456, R457). -/
def replayFrom (l : Fin 32) (e : BitVec 16) (s : State) : State :=
  let x := s.fab.lanes[l.val]
  let skip := (e - x.txAck).toNat
  if x.copies.length < skip then s
  else
    let n := if x.replaying = some e then x.storms + 1 else 1
    let s := modLane l (fun y => { y with replaying := some e, storms := n }) s
    if 8 ≤ n then fabRaise 3 l.val (laneFall l s)
    else
      let fs := x.copies.drop skip
      let s := sendCtl l (fun r => { r with hasReplay := true, rpSeq := e }) s
      let s := fs.foldl (fun s f => emit (.flit l f) s) s
      countLane l 5 fs.length s

/-- REPLAY_TIMEOUT (R456). -/
def execReplayTimeout (l : Fin 32) (s : State) : Out :=
  act (live s && s.fab.lanes[l.val].up && s.fab.lanes[l.val].copies != []) (fun s => replayFrom l s.fab.lanes[l.val].txAck s) s

/-- Take acknowledged flits off the messages sent. -/
def ackMsgs : Nat → List (Nat × Msg) → List (Nat × Msg)
  | _, [] => []
  | n, (c, m) :: t => if c ≤ n then ackMsgs (n - c) t else (c - n, m) :: t

/-- An ACK covers everything before e (R455). -/
def takeAck (l : Fin 32) (e : BitVec 16) (s : State) : State :=
  let x := s.fab.lanes[l.val]
  let n := (e - x.txAck).toNat
  if n = 0 || x.copies.length < n then s
  else
    pumpPort (portOfLane l) (modLane l (fun y =>
      { y with txAck := e, copies := y.copies.drop n, sentMsgs := ackMsgs n y.sentMsgs, replaying := none, storms := 0 }) s)

/-- A REPLAY_START reaches the receiver (R456). One that goes back to flits already received makes those pass
unused. -/
def takeReplay (l : Fin 32) (e : BitVec 16) (s : State) : State :=
  let x := s.fab.lanes[l.val]
  if e = x.rxE then modLane l (fun y => { y with discarding := false, again := 0 }) s
  else if x.discarding then s
  else
    let back := (x.rxE - e).toNat
    if back ≤ 16384 then modLane l (fun y => { y with again := back }) s else s

/-- What train records tell (R447, R473, R474, R486). -/
def takeTrain (l : Fin 32) (r : ControlRec) (s : State) : State :=
  let p := portOfLane l
  let bad := r.mode != s.fab.ports[p.val].mode.setWidth 8
  let s := if bad && !s.fab.lanes[l.val].peerMismatch then fabRaise 2 l.val s else s
  let s := modLane l (fun x => { x with peerTrained := true, peerMismatch := bad }) s
  modPort p (fun x => { x with peerReady := r.state = 1 || r.state = 2, peerNode := r.node, peerEpoch := r.epoch }) s

/-- CONTROL_RECORD (R456, R458, R478): a bad one is discarded; an ACK is taken before a NAK. -/
def execControlRecord (l : Fin 32) (good : Bool) (r : ControlRec) (s : State) : Out :=
  let p := portOfLane l
  act (live s && good && bit s.fab.ports[p.val].laneEn (l.val % 4)) (fun s =>
    let s := if r.hasTrain then takeTrain l r s else s
    if !s.fab.lanes[l.val].up then s
    else
      let s := if r.hasAck then takeAck l r.ackSeq s else s
      let s := if r.hasNak then replayFrom l r.rpSeq s else s
      let s := if r.hasReplay && !r.hasNak then takeReplay l r.rpSeq s else s
      if r.hasCredit then pumpPort p (modPort p (fun x => { x with credit := r.credit }) s) else s) s

/-- ACK_TIMER (R455). -/
def execAckTimer (l : Fin 32) (s : State) : Out :=
  act (live s && s.fab.lanes[l.val].up && 0 < s.fab.lanes[l.val].sinceAck) (fun s =>
    sendCtl l (fun r => { r with hasAck := true }) (modLane l (fun x => { x with sinceAck := 0 }) s)) s

/-! ### Flits and bubbles received (R449 to R456, R461) -/

/-- A control nibble has odd parity over bits 3 to 1 in bit 0 (R449). -/
def nibbleOk (n : BitVec 4) : Bool := (bit n 0 ^^ bit n 1 ^^ bit n 2 ^^ bit n 3) = true

/-- The two bursts make a flit of the given kind (R449, R450, R453). -/
def flitOf (kind : Nat) (a b : BitVec 4) : Bool :=
  nibbleOk a && nibbleOk b && bits a 3 2 = kind && bits b 3 2 = kind && !bit a 1 && bit b 1

/-- A data flit is discarded: NAK once, then everything until REPLAY_START (R456). -/
def flitLost (l : Fin 32) (s : State) : State :=
  let s := modPort (portOfLane l) (fun x => { x with faultAt := some s.eph.ticks }) s
  if s.fab.lanes[l.val].discarding then s
  else
    countLane l 4 1 (sendCtl l (fun r => { r with hasNak := true, rpSeq := r.ackSeq })
      (modLane l (fun x => { x with discarding := true }) s))

/-- Whole messages at the front of the units received; a unit at a boundary whose first byte is 0 is padding
(R459). -/
def takeMsgs : Nat → List (BitVec 128) → List Msg × List (BitVec 128)
  | 0, u => ([], u)
  | n + 1, u =>
    match u with
    | [] => ([], [])
    | a :: t =>
      if a.toNat % 256 = 0 then takeMsgs n t
      else
        match t with
        | [] => ([], u)
        | b :: r =>
          let h := a.toNat + b.toNat * 2 ^ 128
          let len := (h >>> 64) % 65536
          let k := (len + 15) / 16
          if r.length < k then ([], u)
          else
            let d := ((r.take k).flatMap fun x => leBytes 16 x.toNat).take len
            let q := takeMsgs n (r.drop k)
            (msgOf h d :: q.1, q.2)

/-- A data flit in order: its units join the lane's stream (R455). -/
def flitIn (l : Fin 32) (f : Flit) (s : State) : State :=
  let x := s.fab.lanes[l.val]
  let u := x.rx ++ f.units.toList
  let (ms, rest) := takeMsgs (u.length + 1) u
  let s := modLane l (fun y => { y with rxE := y.rxE + 1, rx := rest, sinceAck := y.sinceAck + 1 }) s
  let s := modPort (portOfLane l) (fun y => { y with inbox := y.inbox ++ ms }) s
  let s := countLane l 7 1 s
  if 64 ≤ s.fab.lanes[l.val].sinceAck then
    sendCtl l (fun r => { r with hasAck := true }) (modLane l (fun y => { y with sinceAck := 0 }) s)
  else s

/-- What the decoder counts: whether a codeword ends in a flit is not told, a free value (R454, R486). -/
def countFec (l : Fin 32) (f : Flit) (s : State) : State :=
  let (e, s) := takeFree 1 s
  let n := e.toNat
  let s := countLane l 0 n s
  if !f.fecOk then countLane l 2 n s else if f.fecFixed then countLane l 1 n s else s

/-- DATA_FLIT (R450, R453 to R456). -/
def execDataFlit (l : Fin 32) (f : Flit) (s : State) : Out :=
  act (live s && s.fab.lanes[l.val].up && !flitOf 1 f.nib1 f.nib2) (fun s =>
    let s := countFec l f s
    if !f.fecOk then flitLost l s
    else if !flitOf 0 f.nib1 f.nib2 then flitLost l (countLane l 3 1 s)
    else if s.fab.lanes[l.val].discarding then s
    else if 0 < s.fab.lanes[l.val].again then
      modLane l (fun x => { x with again := x.again - 1, sinceAck := x.sinceAck + 1 }) s
    else flitIn l f s) s

/-- BUBBLE (R452, R453): deleted in the elastic buffer or after it; in second position, or with bad parity, a pair
fault. -/
def execBubble (l : Fin 32) (nibble : BitVec 4) (afterFirst remoteAhead : Bool) (s : State) : Out :=
  act (live s && s.fab.lanes[l.val].up) (fun s =>
    if afterFirst || !nibbleOk nibble || bits nibble 3 2 != 2 then flitLost l (countLane l 3 1 s)
    else if remoteAhead then countLane l 6 1 s
    else s) s

/-- BUBBLE_SEND (R451): after the flits that rows send and the idle control flits between them. -/
def execBubbleSend (l : Fin 32) (s : State) : Out :=
  act (live s && s.fab.lanes[l.val].up) (fun s => emit (.bubble l) (modLane l (fun x => { x with flitsSinceBubble := 0 }) s)) s

/-! ### Messages received (R459 to R475, R480, R483) -/

/-- m is the oldest message of its class that port p has received (R461). -/
def atPort (p : Fin 8) (m : Msg) (s : State) : Bool :=
  (s.fab.ports[p.val].inbox.find? fun x => msgClass x.type == msgClass m.type) == some m

/-- Take the message out of the receive buffer and free its credits (R461). -/
def takeIn (p : Fin 8) (m : Msg) (s : State) : State :=
  sendCredit p (modPort p (fun x =>
    { x with inbox := x.inbox.erase m
             freed := upd x.freed (msgClass m.type) (· + BitVec.ofNat 32 (msgUnits m).length) }) s)

/-- A message is handled at a port: one for another epoch is refused (R474), a port that is closed takes only PROBE,
and that in SHADOW (R474, R524); else `f`. Responses and answers are not refused but discarded. -/
def arrive (p : Fin 8) (m : Msg) (f : State → State) (s : State) : State :=
  let s := takeIn p m s
  let open_ := portState p s = 2 || (portState p s = 1 && m.type = 0x09)
  if !open_ then s
  else if m.hopEpoch != portEpoch p s then
    let s := fabRaise 6 p.val s
    if msgClass m.type = 0 then refuse m 4 s else s
  else f s

/-- A message of type t for this device. -/
def forHere (t : Byte) (p : Fin 8) (m : Msg) (s : State) : Bool := live s && m.type = t && m.dst = s.fab.node && atPort p m s

/-- FAB_WRITE, FAB_READ, FAB_LADD, FAB_FADD, FAB_LADDT, FAB_SEND, BAR_ARRIVE (R463, R466, R468). -/
def execFabWrite (p : Fin 8) (m : Msg) (s : State) : Out := act (forHere 0x01 p m s) (arrive p m (performReq m)) s
def execFabRead (p : Fin 8) (m : Msg) (s : State) : Out := act (forHere 0x02 p m s) (arrive p m (performReq m)) s
def execFabLadd (p : Fin 8) (m : Msg) (s : State) : Out := act (forHere 0x03 p m s) (arrive p m (performReq m)) s
def execFabFadd (p : Fin 8) (m : Msg) (s : State) : Out := act (forHere 0x04 p m s) (arrive p m (performReq m)) s
def execFabLaddt (p : Fin 8) (m : Msg) (s : State) : Out := act (forHere 0x05 p m s) (arrive p m (performReq m)) s
def execFabSend (p : Fin 8) (m : Msg) (s : State) : Out := act (forHere 0x06 p m s) (arrive p m (performReq m)) s
def execBarArrive (p : Fin 8) (m : Msg) (s : State) : Out := act (forHere 0x07 p m s) (arrive p m (performReq m)) s

/-- QUERY (R470, R471): it follows its group, whatever its dst. -/
def execQuery (p : Fin 8) (m : Msg) (s : State) : Out :=
  act (live s && m.type = 0x08 && atPort p m s) (arrive p m (queryArrive p m)) s

/-- A PROBE at a port: one of this device has come back and is counted, one of the peer goes back (R474). -/
def probeArrive (p : Fin 8) (m : Msg) (s : State) : State :=
  if msgBad m then refuse m 7 s
  else if m.src = s.fab.node then modPort p (fun x => { x with probes := x.probes + 1 }) s
  else portQueue p m s

/-- PROBE (R474). -/
def execProbe (p : Fin 8) (m : Msg) (s : State) : Out :=
  act (live s && m.type = 0x09 && atPort p m s) (arrive p m (probeArrive p m)) s

/-- Every 10 µs in SHADOW, Nucleus sends a PROBE; its 64 bytes are not given, a free value (R460, R474, R531). -/
def execProbeSend (p : Fin 8) (s : State) : Out :=
  act (live s && !s.nuc.restarting && portState p s = 1) (fun s =>
    let (d, s) := takeFree 512 s
    portQueue p { type := 0x09, flags := 0, dst := s.fab.ports[p.val].peerNode, src := s.fab.node, hops := s.fab.hopLimit
                  hopEpoch := 0, length := 64, domain := 0, arg := 0, reqId := 0, addr := 0, deadline := 0
                  payload := leBytes 64 d.toNat } s) s

/-- A response of the right length (R460). -/
def rspOk (m : Msg) : Bool :=
  m.length.toNat = m.payload.length &&
    (match m.type.toNat with
     | 0x22 => 1 ≤ m.payload.length && m.payload.length ≤ 64
     | 0x23 => m.payload.length = 16
     | _ => m.payload = [])

/-- WACK, RDATA, ATM_RSP and SACK end their request (R465, R466); a malformed one is discarded. -/
def rspArrive (m : Msg) (s : State) : State := if rspOk m then deliverRsp m s else s
def execWack (p : Fin 8) (m : Msg) (s : State) : Out := act (forHere 0x21 p m s) (arrive p m (rspArrive m)) s
def execRdata (p : Fin 8) (m : Msg) (s : State) : Out := act (forHere 0x22 p m s) (arrive p m (rspArrive m)) s
def execAtmRsp (p : Fin 8) (m : Msg) (s : State) : Out := act (forHere 0x23 p m s) (arrive p m (rspArrive m)) s
def execSack (p : Fin 8) (m : Msg) (s : State) : Out := act (forHere 0x24 p m s) (arrive p m (rspArrive m)) s

/-- REFUSE (R474, R483): of a QUERY at the walker that sent it, else at the core. -/
def refuseArrive (p : Fin 8) (m : Msg) (s : State) : State :=
  match s.fab.reqs.find? fun q => q.id = m.reqId with
  | some q =>
    (match q.owner with
     | .search _ _ => queryRefused p q m.arg s
     | .core _ _ => rspArrive m s)
  | none => s
def execRefuse (p : Fin 8) (m : Msg) (s : State) : Out :=
  act (forHere 0x25 p m s) (fun s => remoteServe (arrive p m (refuseArrive p m) s)) s

/-- ANSWER (R472): it belongs to the context of the QUERY's source. -/
def execAnswer (p : Fin 8) (m : Msg) (s : State) : Out :=
  act (live s && m.type = 0x28 && atPort p m s) (fun s => remoteServe (arrive p m (answerArrive m) s)) s

/-- The types of R460. -/
def knownType (t : Byte) : Bool :=
  [0x01, 0x02, 0x03, 0x04, 0x05, 0x06, 0x07, 0x08, 0x09, 0x21, 0x22, 0x23, 0x24, 0x25, 0x28].contains t

/-- A message for another node is routed on, or its request refused; one of no known type is refused (R460, R469). -/
def routeArrive (m : Msg) (s : State) : State :=
  if knownType m.type then reroute m s else if msgClass m.type = 0 then refuse m 7 s else s

/-- MESSAGE_ROUTE (R469). -/
def execMessageRoute (p : Fin 8) (m : Msg) (s : State) : Out :=
  act (live s && atPort p m s && (m.dst != s.fab.node || !knownType m.type) && m.type != 0x08 && m.type != 0x28 && m.type != 0x09)
    (arrive p m (routeArrive m)) s

/-! ### Instances leave the fabric (R480) -/

/-- The hub discards the messages of an instance that are still queued, and forgets its requests (R129, R480). -/
def fabObserve (i : InstId) (s : State) : State :=
  let mine (m : Msg) : Bool := m.src = s.fab.node && s.fab.domain[i.val] == some m.domain && msgClass m.type = 0
  let owner (q : FabReq) : Bool :=
    match q.owner with
    | .core c _ => coreInst c s = i
    | .search d _ => (findItem d s).any fun x => x.inst = i
  { s with fab := { s.fab with ports := s.fab.ports.map fun p => { p with queue := p.queue.filter fun m => !mine m }
                               reqs := s.fab.reqs.filter fun q => !owner q } }

end Sys2Proof.Machine
end

