-- ==== Sys2Proof/Machine/Halo.lean ====
section
/-! DEFINITION. The Halo die: loops, faults and calibration; the HTU, HTU_RUN and walkers' requests (R359, R360,
R421 to R433, R438 to R445). -/

namespace Sys2Proof.Machine

open Sys2Proof

/-! ### Loops (R423, R424) -/

/-- Change the Halo block. -/
def modHalo (f : Halo → Halo) (s : State) : State := { s with halo := f s.halo }

/-- Change a loop. -/
def modLoop (l : LoopId) (f : HLoop → HLoop) (s : State) : State := modHalo (fun h => { h with loops := upd h.loops l f }) s

/-- The loop of laser n, and of ring r. -/
def laserLoop (n : Fin 32) : LoopId := ⟨n.val, by omega⟩
def ringLoop (r : Fin 64) : LoopId := ⟨32 + r.val, by omega⟩

/-- The lane whose port-wavelength a ring serves (R421, R423). -/
def ringLane (r : Fin 64) : Fin 32 := laneOf (Fin.ofNat 8 (r.val / 8)) (r.val % 4)

/-- The lane that needs a loop, if it is a laser's or a ring's. -/
def loopLane (l : LoopId) : Option (Fin 32) :=
  if l.val < 32 then some (Fin.ofNat 32 l.val)
  else if l.val < 96 then some (ringLane (Fin.ofNat 64 (l.val - 32)))
  else none

/-- Every HTU loop, and laser 0 that feeds the HTU, is locked (R429, R438). -/
def htuLit (s : State) : Bool :=
  (List.finRange 2144).all fun l => (l.val != 0 && l.val < 96) || s.halo.loops[l.val].st = .locked

/-- The HTU loses its lock: once it has been calibrated, 20 ms begin to run (R443). -/
def htuDark (s : State) : State :=
  modHalo (fun h => { h with htuLocked := false
                             unlockAt := if h.unlockAt.isNone && h.calDone then some s.eph.ticks else h.unlockAt }) s

/-- What depends on a loop is down: its port-wavelength, or the HTU (R438, R443). -/
def loopDown (l : LoopId) (s : State) : State :=
  let s := if l.val = 0 || 96 ≤ l.val then htuDark s else s
  match loopLane l with
  | some k => laneFall k s
  | none => s

/-! ### Exact arithmetic of the HTU (R428 to R431) -/

/-- n / d rounded to nearest, ties to even. -/
def roundDiv (n : Int) (d : Nat) : Int :=
  let q := n / (d : Int)
  let r := n % (d : Int)
  if (d : Int) < 2 * r || (2 * r = d && q % 2 = 1) then q + 1 else q

/-- Saturate to a bound on either side. -/
def clampTo (b : Int) (x : Int) : Int := max (-b) (min b x)

/-- Element k, 0 to 2,047, of an image: real and imaginary parts in turn, as multiples of 2^−48. -/
def imageNum (d : List Byte) (k : Nat) : Option Int := numGrid48 (decodeF fFP16 (imf d (64 + 2 * k) 2))

/-- The 1,024 complex elements of an image, row by row. -/
def imageOf (d : List Byte) : List (Int × Int) :=
  (List.range 1024).map fun k => ((imageNum d (2 * k)).getD 0, (imageNum d (2 * k + 1)).getD 0)

/-- A symmetric matrix of rationals has no negative eigenvalue, by elimination. -/
def psd : Nat → List (List Rat) → Bool
  | 0, _ => true
  | n + 1, m =>
    match m with
    | [] => true
    | r :: rest =>
      match r with
      | [] => true
      | a :: t =>
        if a < 0 then false
        else if a = 0 then t.all (· = 0) && psd n (rest.map List.tail)
        else
          psd n (rest.map fun row =>
            match row with
            | [] => []
            | b :: u => (u.zip t).map fun p => p.1 - b * p.2 / a)

/-- No singular value of M exceeds 1 + 2^−10: (1 + 2^−10)² I − M* M has no negative eigenvalue (R429). -/
def withinNorm (m : List (Int × Int)) : Bool :=
  let at_ (r c : Nat) : Int × Int := m.getD (32 * r + c) (0, 0)
  let one : Rat := 2 ^ 96
  let bound : Rat := (1025 * 1025 : Rat) / (1024 * 1024) * one
  let re (i j : Nat) : Rat :=
    ((List.range 32).map fun r => ((at_ r i).1 * (at_ r j).1 + (at_ r i).2 * (at_ r j).2 : Int)).sum
  let im (i j : Nat) : Rat :=
    ((List.range 32).map fun r => ((at_ r i).1 * (at_ r j).2 - (at_ r i).2 * (at_ r j).1 : Int)).sum
  let entry (i j : Nat) : Rat :=
    let d : Rat := if i = j then bound else 0
    if i < 32 then (if j < 32 then d - re i j else im i (j - 32))
    else if j < 32 then -(im (i - 32) j)
    else d - re (i - 32) (j - 32)
  psd 64 ((List.range 64).map fun i => (List.range 64).map fun j => entry i j)

/-- A matrix image that R428 and R429 accept. -/
def matrixOk (d : List Byte) : Bool :=
  imf d 0 1 = 1 && (imf d 1 1 ≤ 8 || 252 ≤ imf d 1 1) && imf d 2 62 = 0 &&
    (List.range 2048).all (fun k => (imageNum d k).isSome) && withinNorm (imageOf d)

/-- out_shift of an image. -/
def shiftOf (d : List Byte) : Int := (BitVec.ofNat 8 (imf d 1 1)).toInt

/-- The largest sum of squared errors over 4,096 vectors: 4,096 × 64 components of 2.8² each (R431). -/
def errLimit : Nat := 2055208

/-- n errors from number k on, and the sum of their squares: each is free, as long as the sum stays within `left`. -/
def errsFrom : Nat → Nat → Nat → List Int × Nat
  | _, 0, _ => ([], 0)
  | k, n + 1, left =>
    let e := Config.htuError k
    let e := if e.natAbs * e.natAbs ≤ left then e else 0
    let q := e.natAbs * e.natAbs
    let r := errsFrom (k + 1) n (left - q)
    (e :: r.1, q + r.2)

/-- The analog errors of the next vector, whose components take free values from a number on: with the 4,095 vectors before it
their RMS is at most 2.8 LSB (R431). Answers the errors, and the number and squares as they then are. -/
def errStep (p : Nat × List Nat) : List Int × (Nat × List Nat) :=
  let r := errsFrom p.1 64 (errLimit - (p.2.take 4095).sum)
  (r.1, (p.1 + 64, (r.2 :: p.2).take 4095))

/-- Number and squares after n vectors. -/
def errAfter : Nat → Nat × List Nat → Nat × List Nat
  | 0, p => p
  | n + 1, p => errAfter n (errStep p).2

/-- Take the errors of one vector. -/
def htuErrs (s : State) : List Int × State :=
  let r := errStep (s.free, s.halo.errEnergy)
  (r.1, { s with free := r.2.1, halo := { s.halo with errEnergy := r.2.2 } })

/-- Components of y for input components over the bound D: exact, rounded, changed by the analog errors es, and
saturated (R430, R431). -/
def htuVector (m : List (Int × Int)) (shift : Int) (bound : Nat) (x : List (Int × Int)) (es : List Int) : List (Int × Int) :=
  let num : Int := 127 * 2 ^ shift.toNat
  let den : Nat := 2 ^ 48 * bound * 2 ^ (-shift).toNat
  (List.range 32).map fun r =>
    let row := ((m.drop (32 * r)).take 32).zip x
    let re := (row.map fun p => p.1.1 * p.2.1 - p.1.2 * p.2.2).sum
    let im := (row.map fun p => p.1.1 * p.2.2 + p.1.2 * p.2.1).sum
    (clampTo 127 (roundDiv (re * num) den + es.getD (2 * r) 0), clampTo 127 (roundDiv (im * num) den + es.getD (2 * r + 1) 0))

/-- A signed byte. -/
def byteInt (b : Byte) : Int := b.toInt

/-- Input components, clamped to the bound, and how many were (R430). -/
def htuInputs (bound : Nat) (d : List Byte) : List (Int × Int) × Nat :=
  let v := (List.range 32).map fun c => (byteInt (d.getD (2 * c) 0), byteInt (d.getD (2 * c + 1) 0))
  let n := (v.map fun p => b2n (clampTo bound p.1 != p.1) + b2n (clampTo bound p.2 != p.2)).sum
  (v.map fun p => (clampTo bound p.1, clampTo bound p.2), n)

/-- The 64 bytes of an output vector. -/
def htuBytes (v : List (Int × Int)) : List Byte := v.flatMap fun p => [BitVec.ofInt 8 p.1, BitVec.ofInt 8 p.2]

/-! ### HTU_RUN (R429, R430, R443, R444) -/

/-- Count in the HALO counters. -/
def countHalo (k : Fin 4) (n : Nat) (s : State) : State :=
  modHalo (fun h => { h with cnt := upd h.cnt k (· + BitVec.ofNat 64 n) }) s

/-- The HTU's own accesses (R119, R153). -/
def htuWho (i : InstId) (gen : BitVec 16) : Who := { inst := i, src := 608, gen := gen }

/-- Vectors from number k on: each read, transformed and written (R430, R444). -/
def htuVectors (who : Who) (d inA outA bound : Nat) : Nat → Nat → State → Option AccErr × State
  | 0, _, s => (none, s)
  | n + 1, k, s =>
    let r := readIva who (inA + 64 * k) 64 s
    match r.err with
    | some e => (some e, r.s)
    | none =>
      let (x, c) := htuInputs bound r.data
      let (es, s) := htuErrs r.s
      let y := htuVector (imageOf s.halo.matrix) s.halo.outShift bound x es
      let s := countHalo 3 c s
      match writeIva who (outA + 64 * k) (htuBytes y) r.poison s with
      | (some e, _, s) => (some e, s)
      | (none, _, s) =>
        let s := noteEffect d (modItem d (fun x => { x with out := { x.out with poison := x.out.poison || r.poison } }) s)
        let s := modHalo (fun h => { h with job := h.job.map fun j => { j with next := k + 1 } }) (countHalo 0 1 s)
        htuVectors who d inA outA bound n (k + 1) s

/-- A re-characterisation is done (R427). -/
def recharDone (s : State) : State := countHalo 2 1 (modHalo (fun h => { h with recharAt := none }) s)

/-- A re-characterisation that waits is done once the HTU is idle, or after 10 s between two vectors (R427). -/
def recharTurn (s : State) : State :=
  if htuLit s && !s.halo.loading && s.halo.recharAt.any (fun t => s.halo.job.isNone || t + 10 * secTicks ≤ s.eph.ticks) then recharDone s
  else s

/-- End the HTU_RUN in progress. -/
def htuEnd (f : Outcomes → Outcomes) (s : State) : State :=
  match s.halo.job with
  | none => s
  | some j => recharTurn (endItem j.item (BitVec.ofNat 64 j.next) f (modHalo (fun h => { h with job := none }) s))

/-- Run the HTU_RUN in progress from its first vector not written (R443). -/
def htuGo (s : State) : State :=
  match s.halo.job with
  | none => s
  | some j =>
    match findItem j.item s with
    | none => modHalo (fun h => { h with job := none }) s
    | some x =>
      let n := dfield x.raw 48 4
      let bound := 2 ^ (dfield x.raw 52 1 - 1) - 1
      let (e, s) := htuVectors (htuWho x.inst x.gen) x.id (dfield x.raw 32 8) (dfield x.raw 40 8) bound (n - j.next) j.next s
      match e with
      | some .stale => modHalo (fun h => { h with job := none }) s
      | some e => htuEnd (errOutcome e) s
      | none => htuEnd id s

/-- Read and judge a matrix image: the image, or what it ends in. -/
inductive ImageRead where
  | ok (d : List Byte)
  | fails (e : AccErr)
  | poisoned
  | rejected

/-- Read a matrix image (R428, R429, R444). -/
def readImage (who : Who) (a : Nat) (s : State) : ImageRead × State :=
  if a % 64 != 0 then (.rejected, s)
  else
    let r := readIva who a 4160 s
    match r.err with
    | some e => (.fails e, r.s)
    | none => (if r.poison then .poisoned else if matrixOk r.data then .ok r.data else .rejected, r.s)

/-- Start loading an image: htu_locked clears until the loops are locked to it (R429). -/
def loadImage (i : InstId) (gen : BitVec 16) (a : Nat) (d : List Byte) (s : State) : State :=
  modHalo (fun h => { h with htuLocked := false, loading := true, htuLoaded := false, matrix := d, outShift := shiftOf d
                             matrixAddr := some (BitVec.ofNat 64 a), htuOwner := i, htuGen := gen }) s

/-- The image at a is the one loaded, for an instance in a generation (R430, R432). -/
def isLoaded (i : InstId) (gen : BitVec 16) (a : Nat) (s : State) : Bool :=
  s.halo.htuLoaded && s.halo.htuOwner = i && s.halo.htuGen = gen && s.halo.matrixAddr = some (BitVec.ofNat 64 a)

/-- The HTU takes the next HTU_RUN: none is in progress, and no walker waits for a reload (R432, R441). -/
def htuFree (s : State) : Bool :=
  s.halo.job.isNone && !s.halo.loading &&
    s.halo.reqs.all fun r => isLoaded r.inst r.gen (indexOf r.index).htuMatrix s

/-- Take an HTU_RUN up; it runs once the HTU is locked. -/
def htuTake (d : Nat) (s : State) : State :=
  let s := modHalo (fun h => { h with job := some { item := d, next := 0 } }) s
  if s.halo.htuLocked then htuGo s else s

/-- HTU_RUN once it has started (R117, R430, R444, R528). in_addr and out_addr that are no multiples of 64 lie outside
what R430 allows, which gives INVALID (R87). -/
def htuStart (x : Item) (s : State) : State :=
  let a := dfield x.raw 24 8
  if !s.inst[x.inst.val].htuEn || dfield x.raw 32 8 % 64 != 0 || dfield x.raw 40 8 % 64 != 0 then endInvalid x.id s
  else if unitClosed unitHtu s || s.halo.htuOos then endItem x.id 0 (fun o => { o with engineFault := true }) s
  else if a = 0 && !(s.halo.htuLoaded && s.halo.matrixAddr.isSome && s.halo.htuOwner = x.inst && s.halo.htuGen = x.gen) then
    endInvalid x.id s
  else
    let named := [(Access.read, dfield x.raw 32 8), (Access.write, dfield x.raw 40 8)]
    match firstRequests (htuWho x.inst x.gen) (if a = 0 then named else (.read, a) :: named) s with
    | (some e, s) => endItem x.id 0 (errOutcome e) s
    | (none, s) =>
      if a = 0 then htuTake x.id s
      else
        match readImage (htuWho x.inst x.gen) a s with
        | (.fails e, s) => endItem x.id 0 (errOutcome e) s
        | (.poisoned, s) => endItem x.id 0 (fun o => { o with poison := true }) s
        | (.rejected, s) => endInvalid x.id s
        | (.ok d, s) => htuTake x.id (loadImage x.inst x.gen a d s)

/-- HTU_RUN (R430, R432). -/
def execHtuRun (d : Nat) (s : State) : Out :=
  match findItem d s with
  | none => .next s
  | some x =>
    act (live s && x.opcode = 6 && engUp .htu s && htuFree s && isNext d 3 (fun _ => true) s)
      (fun s => htuStart x (dispatchStart d 3 (fun _ => true) s)) s

/-- Once every HTU loop is locked, the HTU is, unless a load has yet to end, and what it holds goes on (R429, R439, R443). -/
def htuLight (s : State) : State :=
  if htuLit s && !s.halo.htuOos && s.halo.calDone && !s.halo.calRunning then
    let s := modHalo (fun h => { h with unlockAt := none }) s
    if s.halo.loading then s else htuGo (recharTurn (modHalo (fun h => { h with htuLocked := true }) s))
  else s

/-- HTU_MATRIX_LOCKED (R429, R439, R441). -/
def execHtuMatrixLocked (s : State) : Out :=
  act (live s && s.halo.loading && htuLit s && !s.halo.htuOos) (fun s =>
    let s := countHalo 1 1 (modHalo (fun h => { h with loading := false, htuLoaded := true }) s)
    htuLight (if s.halo.recharAt.isSome then recharDone s else s)) s

/-- HTU_RECHARACTERISE (R427, R441): one that falls due while the HTU is busy or dark waits. -/
def execHtuRecharacterise (s : State) : Out :=
  act (live s && s.halo.calDone && !s.halo.htuOos) (fun s =>
    if s.halo.loading || s.halo.job.isSome || s.halo.calRunning || !htuLit s then
      modHalo (fun h => { h with recharAt := if h.recharAt.isNone then some s.eph.ticks else h.recharAt }) s
    else recharDone s) s

/-! ### Walkers' requests (R359, R360, R432) -/

/-- Element values as multiples of 2^−48. -/
def gridOf (q : List Num) : List Int := q.map fun x => (numGrid48 x).getD 0

/-- Steps 1 and 2 of R360: the integers I_i. -/
def htuScaled (q : List Num) : List Int :=
  let g := gridOf q
  let amax := (g.map Int.natAbs).foldl max 0
  g.map fun v => roundDiv (v * 127) amax

/-- Step 3 of R360: the outputs of n blocks of a query from block b on. -/
def sketchOuts (q : List Int) : Nat → Nat → State → List (List (Int × Int)) × State
  | 0, _, s => ([], s)
  | n + 1, b, s =>
    let (es, s) := htuErrs s
    let o := htuVector (imageOf s.halo.matrix) s.halo.outShift 127
      ((List.range 32).map fun c => (q.getD (32 * b + c) 0, (0 : Int))) es
    let (os, s) := sketchOuts q n (b + 1) s
    (o :: os, s)

/-- Step 4 of R360: the sketch of the outputs. -/
def sketchOf (outs : List (List (Int × Int))) : List Int :=
  (List.range 32).map fun r =>
    max (-128) (min 127 (roundDiv ((outs.map fun o => (o.getD r (0, 0)).1).sum) outs.length))

/-- A sketch record's score and local ID (R360). -/
def sketchScore (sk : List Int) (rec_ : List Byte) : Int × Nat :=
  (((sk.zip rec_).map fun p => p.1 * byteInt p.2).sum, imf rec_ 32 4)

/-- The seeds: records of largest inner product, ties to the lower local ID (R359). -/
def seedsOf (sk : List Int) (n k : Nat) (d : List Byte) : List Nat :=
  let scores := (List.range n).map fun i => sketchScore sk ((d.drop (64 * i)).take 64)
  let sorted := scores.foldl (fun l x => insertBy (fun (a b : Int × Nat) => b.1 < a.1 || (a.1 = b.1 && a.2 < b.2)) x l) []
  (sorted.take k).map Prod.snd

/-- Serve a request with its matrix loaded and locked (R359, R360). -/
def htuServe (r : HtuReq) (s : State) : State :=
  let ix := indexOf r.index
  let q := htuScaled (jobVec r)
  let (outs, s) := sketchOuts q ((q.length + 31) / 32) 0 s
  let sk := sketchOf outs
  let d := readIva (wkWho r.wk r.inst r.gen) ix.sketchBase (64 * ix.nSketch) s
  match d.err with
  | some e => jobEnd r (.fails e) d.s
  | none =>
    if d.poison then
      let (e, s) := queryPoison r.wk r.inst d.s
      jobEnd r e s
    else jobRun r (some (seedsOf sk ix.nSketch (paramsOf r.params).nEntry d.data)) false d.s

/-- Take a request out of the queue. -/
def htuTakeReq (r : HtuReq) (s : State) : State := modHalo (fun h => { h with reqs := h.reqs.erase r }) s

/-- HTU_WALKER_REQUEST (R359, R432): a request whose stop time has come ends with cut; else the first request whose matrix is
loaded is served; else, with no HTU_RUN in progress, the first of all has its matrix loaded. A request that finds the HTU not
locked, or no usable image, takes the entry list with htu_skipped. -/
def execHtuWalkerRequest (s : State) : Out :=
  match s.halo.reqs, s.halo.reqs.find? fun r => reqStopped r s with
  | [], _ => .next s
  | _ :: _, some r => act (live s) (fun s => remoteServe (reqCut r s)) s
  | r0 :: _, none =>
    act (live s && !s.halo.loading) (fun s => remoteServe (
      if !s.halo.htuLocked || s.halo.htuOos || unitClosed unitHtu s then jobRun r0 none true (htuTakeReq r0 s)
      else
        match s.halo.reqs.find? fun r => isLoaded r.inst r.gen (indexOf r.index).htuMatrix s with
        | some r => htuServe r (htuTakeReq r s)
        | none =>
          if s.halo.job.isSome then s
          else
            match readImage (htuWho r0.inst r0.gen) (indexOf r0.index).htuMatrix s with
            | (.ok d, s) => loadImage r0.inst r0.gen (indexOf r0.index).htuMatrix d s
            | (.fails e, s) => jobEnd r0 (.fails e) (htuTakeReq r0 s)
            | (_, s) => jobRun r0 none true (htuTakeReq r0 s))) s

/-! ### Faults of loops (R438, R443) -/

/-- The Halo die works: RST_N high, HREF_IN there. -/
def haloOn (s : State) : Bool := s.hub.rstN && !s.hub.hrefLost

/-- A loop that is in service leaves its lock. -/
def loopLoses (l : LoopId) (st : LoopState) (s : State) : State :=
  if s.halo.loops[l.val].st = .outOfService then s else modLoop l (fun x => { x with st := st }) s

/-- LASER_OFF_GRID. -/
def execLaserOffGrid (n : Fin 32) (s : State) : Out :=
  act (haloOn s) (fun s => loopDown (laserLoop n) (loopLoses (laserLoop n) .acquiring (haloRaise 0 s))) s

/-- A laser is out of service for good. -/
def laserOut (n : Fin 32) (s : State) : State :=
  let s := modLoop (laserLoop n) (fun x => { x with st := .outOfService }) s
  loopDown (laserLoop n) (modHalo (fun h => { h with laserOos := h.laserOos ||| (1#32 <<< n.val)
                                                     laserOn := h.laserOn &&& ~~~(1#32 <<< n.val) }) s)

/-- LASER_POWER_LOW. -/
def execLaserPowerLow (n : Fin 32) (s : State) : Out := act (haloOn s) (fun s => laserOut n (haloRaise 0 s)) s

/-- A ring loses its lock. -/
def ringLost (r : Fin 64) (s : State) : State := loopDown (ringLoop r) (loopLoses (ringLoop r) .acquiring (haloRaise 1 s))

/-- RING_UNLOCK. -/
def execRingUnlock (r : Fin 64) (s : State) : Out := act (haloOn s) (ringLost r) s

/-- HEATER_AT_LIMIT: treated as unlocked. -/
def execHeaterAtLimit (l : LoopId) (s : State) : Out :=
  act (haloOn s) (fun s => loopDown l (loopLoses l .opened (haloRaise 2 s))) s

/-- The HTU leaves service: what runs ends with ENGINE_FAULT, walkers go on without it (R359, R443, R525). -/
def htuOut (cause : Byte) (s : State) : State :=
  let s := unitFault unitHtu cause
    (modHalo (fun h => { h with htuOos := true, htuLocked := false, loading := false, unlockAt := none, recharAt := none }) s)
  let s := htuEnd (fun o => { o with engineFault := true }) s
  remoteServe (s.halo.reqs.foldl (fun s r => jobRun r none true (htuTakeReq r s)) s)

/-- MONITOR_STUCK: the loop is out of service with its resource: the laser, the ring's port-wavelength, the HTU. -/
def execMonitorStuck (l : LoopId) (s : State) : Out :=
  act (haloOn s) (fun s =>
    let s := haloRaise 3 s
    let s := modLoop l (fun x => { x with st := .outOfService }) s
    if h : l.val < 32 then laserOut ⟨l.val, h⟩ s
    else if l.val < 96 then loopDown l s
    else htuOut 3 (haloRaise 5 s)) s

/-- HTU_LOOP_UNLOCK. -/
def execHtuLoopUnlock (l : LoopId) (s : State) : Out :=
  act (haloOn s && 96 ≤ l.val) (fun s => loopDown l (loopLoses l .acquiring (haloRaise 4 s))) s

/-- HTU_RELOCK_TIMEOUT (R443): 20 ms after the unlock, the HTU_RUN ends with partial set. -/
def execHtuRelockTimeout (s : State) : Out :=
  act (haloOn s && !s.halo.htuOos && s.halo.unlockAt.any fun t => t + usTicks 20000 ≤ s.eph.ticks) (fun s =>
    let s := s.halo.job.elim s fun j => modItem j.item (fun x => { x with out := effect x.out }) s
    htuOut 5 (haloRaise 5 s)) s

/-- The last error of a laser or ring loop is e_lock, 3.0 GHz, or more (R424). The spec gives no e_lock in the milliradians of
an HTU loop. -/
def loopFar (l : LoopId) (e : BitVec 16) : Bool := l.val < 96 && 3000 ≤ e.toInt.natAbs

/-- LOOP_RELOCK: the loop, whose error is within e_lock, is locked again. A lane then trains (R473); the HTU resumes (R443). -/
def execLoopRelock (l : LoopId) (s : State) : Out :=
  act (haloOn s && (s.halo.loops[l.val].st = .acquiring || s.halo.loops[l.val].st = .opened) && !s.halo.overTemp &&
      !s.halo.calRunning && !loopFar l s.halo.loops[l.val].error)
    (fun s =>
      let s := modLoop l (fun x => { x with st := .locked }) s
      if l.val = 0 || 96 ≤ l.val then htuLight s else s) s

/-- Every laser and loop is switched off; all lanes and the HTU are down. -/
def haloDark (s : State) : State :=
  let s := htuDark s
  let s := modHalo (fun h => { h with laserOn := 0
                                      loops := h.loops.map fun x => if x.st = .outOfService then x else { x with st := .opened } }) s
  (List.finRange 32).foldl (fun s l => laneFall l s) s

/-- LASER_OVER_TEMP. -/
def execLaserOverTemp (s : State) : Out :=
  act (haloOn s) (fun s => haloDark (haloRaise 6 (modHalo (fun h => { h with overTemp := true }) s))) s

/-- LASER_COOLED_RECALIBRATION: calibration from step 1 once at 90 °C or less. -/
def execLaserCooledRecalibration (temp : Int) (s : State) : Out :=
  act (haloOn s && s.halo.overTemp && temp ≤ 90)
    (modHalo fun h => { h with overTemp := false, calRunning := true }) s

/-! ### Calibration (R426, R562, R582) -/

/-- CALIBRATION_START (R426, R555): on a cold reset, in stage 3; too hot or too cold a start waits. -/
def execCalibrationStart (s : State) : Out :=
  act (haloOn s && s.hub.stage = 3 && s.hub.cause = 0 && !s.halo.calRunning && !s.hub.haloDone)
    (modHalo fun h => { h with calRunning := true, calWait := 90 < h.laserMax.toInt || h.dieTemp.toInt < -20 }) s

/-- CALIBRATION_TEMP_READY (R562, R582). -/
def execCalibrationTempReady (temp : Int) (s : State) : Out :=
  act (haloOn s && s.halo.calWait && -20 ≤ temp && temp ≤ 90) (modHalo fun h => { h with calWait := false }) s

/-- The state of a loop after calibration (R426): one out of service before stays so (R443). -/
def calLoop (r : CalResult) (oos : BitVec 32) (l : LoopId) (x : HLoop) : HLoop :=
  let ok :=
    if l.val < 32 then !bit r.lasers l.val && !bit oos l.val
    else if l.val < 96 then !bit r.rings (l.val - 32)
    else r.htuOk
  { x with st := if ok && x.st != .outOfService then .locked else .outOfService }

/-- The image of the identity matrix (R428). -/
def identityImage : List Byte :=
  1 :: List.replicate 63 0 ++ (List.range 1024).flatMap fun k => if k / 32 = k % 32 then [0, 0x3C, 0, 0] else [0, 0, 0, 0]

/-- The identity matrix is loaded: no instance has loaded it (R426, R430, R530). -/
def identityLoad (h : Halo) : Halo :=
  { h with matrix := identityImage, outShift := 0, matrixAddr := none, htuLoaded := true, loading := false }

/-- Step 4 has ended (R426): a failed HTU is out of service; else it holds the identity matrix, unless an HTU_RUN or a load in
progress needs its own again (R439, R443). -/
def calHtu (ok : Bool) (s : State) : State :=
  if !ok then
    let s := haloRaise 5 s
    if live s then htuOut 7 s else modHalo (fun h => { h with htuOos := true, htuLocked := false }) s
  else if s.halo.job.isSome || s.halo.loading then modHalo (fun h => { h with loading := true, htuLoaded := false }) s
  else modHalo identityLoad s

/-- The steps of calibration that failed (R426). -/
def calFailures (r : CalResult) : Nat :=
  b2n (r.lasers != 0) + b2n (r.rings != 0) + b2n (r.transmitters != 0 || !r.htuBias) + b2n (!r.htuOk)

/-- Calibration has ended with a result (R426): what failed is out of service, each failed step is logged. -/
def calEnd (r : CalResult) (s : State) : State :=
  let s := modHalo (fun h => { h with calRunning := false, calWait := false, calDone := true
                                      loops := Vector.ofFn fun l : Fin 2144 => calLoop r h.laserOos l h.loops[l.val]
                                      laserOos := h.laserOos ||| r.lasers, laserOn := ~~~(h.laserOos ||| r.lasers)
                                      txOos := h.txOos ||| r.transmitters }) s
  let s := iter (fun _ s => haloRaise 7 s) (calFailures r) { s with hub := { s.hub with cal := r, haloDone := true } }
  htuLight (if s.halo.htuOos then s else calHtu (r.htuOk && r.htuBias) s)

/-- CALIBRATION_DONE (R426). -/
def execCalibrationDone (r : CalResult) (s : State) : Out := act (haloOn s && s.halo.calRunning && !s.halo.calWait) (calEnd r) s

/-- Every laser, every ring and the HTU have failed. -/
def calNothing : CalResult :=
  { lasers := BitVec.allOnes 32, rings := BitVec.allOnes 64, transmitters := BitVec.allOnes 32, htuBias := false, htuOk := false }

/-- CALIBRATION_TEMP_TIMEOUT (R562), HALO_WARMUP_TIMEOUT (R582): calibration fails for every port and the HTU. -/
def execCalibrationTempTimeout (s : State) : Out :=
  act (haloOn s && s.halo.calWait && 90 < s.halo.laserMax.toInt) (calEnd calNothing) s
def execHaloWarmupTimeout (s : State) : Out :=
  act (haloOn s && s.halo.calWait && s.halo.dieTemp.toInt < -20) (calEnd calNothing) s

/-! ### Margins (R423, R424) -/

/-- A ring's margin in percent: 1 − |e| / e_ok, clamped (R424; Slew-cap budget). -/
def ringMargin (ok64 : Bool) (e : BitVec 16) : BitVec 7 :=
  let lim := if ok64 then 900 else 1250
  BitVec.ofNat 7 ((lim - min lim e.toInt.natAbs) * 100 / lim)

/-- The loop counts in the margin: locked, of a ring or the HTU, and not of a resource out of service (R424, R435). -/
def loopCounts (h : Halo) (htuOut : Bool) (l : LoopId) : Bool :=
  let x := h.loops[l.val]
  if l.val < 32 then false
  else if l.val < 96 then
    x.st != .outOfService && !bit h.laserOos (ringLane (Fin.ofNat 64 (l.val - 32))).val
  else x.st != .outOfService && !h.htuOos && !htuOut

/-- The HTU unit is OUT. -/
def htuUnitOut (s : State) : Bool := s.nuc.units[unitHtu.val].st = 3

/-- The loop with the least margin among those that are locked, the lowest of equals (R424). -/
def worstLoop (s : State) : Option LoopId :=
  leastBy (fun (a b : LoopId) =>
      s.halo.loops[a.val].margin.toNat < s.halo.loops[b.val].margin.toNat ||
        (s.halo.loops[a.val].margin = s.halo.loops[b.val].margin && a.val < b.val))
    ((List.finRange 2144).filter fun l => loopCounts s.halo (htuUnitOut s) l && s.halo.loops[l.val].st = .locked)

/-- The mode of the port that a laser's or ring's loop serves. -/
def loopMode (l : LoopId) (s : State) : BitVec 2 :=
  match loopLane l with
  | some k => s.fab.ports[(portOfLane k).val].mode
  | none => 0

end Sys2Proof.Machine
end

