-- ==== Sys2Proof/Machine/Tide.lean ====
section
/-! DEFINITION. The reports of heater loops, the Tide governor, and CK_CORE rates with their voltages (R423, R424, R434 to R436, R442, R532, R571, R585). -/

namespace Sys2Proof.Machine

open Sys2Proof

/-! ### The slew cap (R435) -/

/-- Change the Tide governor. -/
def modTide (f : Tide → Tide) (s : State) : State := { s with tide := f s.tide }

/-- A configured cap: values above 100 act as 100 (R446). -/
def capOf (c : BitVec 8) : Nat := min 100 c.toNat

/-- A loop of a ring or the HTU is open or acquiring, after calibration (R435). -/
def loopHold (s : State) : Bool :=
  s.halo.calDone && (List.finRange 2144).any fun l =>
    loopCounts s.halo (htuUnitOut s) l && (s.halo.loops[l.val].st = .opened || s.halo.loops[l.val].st = .acquiring)

/-- Any port is in 64QAM. -/
def any64 (s : State) : Bool := s.fab.ports.toList.any fun p => p.mode = 2

/-- The least of the first two rows of R435, with the fields that the last window found (R442). -/
def baseCap (s : State) : Nat :=
  if any64 s then min (capOf s.tide.capNow) (capOf s.tide.cap64Now) else capOf s.tide.capNow

/-- A margin report is there and lies below a threshold (R424, R435). -/
def marginBelow (t : BitVec 7) (s : State) : Bool := (worstLoop s).isSome && s.halo.margin.toNat < t.toNat

/-- How far the margin reduces the caps: 0 not, 1 below hi, 2 below lo (R435). -/
def marginLevel (s : State) : Nat :=
  if marginBelow s.tide.lo s then 2 else if marginBelow s.tide.hi s then 1 else 0

/-- The effective cap, holds apart, with the margin's reduction at a level, in 0.05 W/ms: half of an odd cap is no whole
number of the register's units (R435). -/
def slewCap (level : Nat) (s : State) : Nat :=
  let b := baseCap s
  if level = 0 then 2 * b else if level = 1 then b else min b 10

/-- The effective cap of a die (R435): 0 while a loop holds it, for at most 20 ms, then 0.5 W/ms until the cause clears. -/
def dieCap (hold : Bool) (cap now : Nat) (x : TideDie) : TideDie :=
  if hold then
    if x.holdOver then { x with hold := false, effCap := 5, effHalf := false }
    else { x with hold := true, holdAt := if x.hold then x.holdAt else now, effCap := 0, effHalf := false }
  else { x with hold := false, holdOver := false, effCap := BitVec.ofNat 8 (cap / 2), effHalf := cap % 2 = 1 }

/-- Tide re-evaluates the caps (R435); one that the margin lowers is signalled (R446). -/
def tideEvaluate (s : State) : State :=
  let level := marginLevel s
  let cut := slewCap level s < slewCap s.tide.level s
  let hold := loopHold s
  let cap := slewCap level s
  let s := modTide (fun t => { t with level := level, die := t.die.map (dieCap hold cap s.eph.ticks) }) s
  if cut then tideRaise 1 s else s

/-- HEATER_LOOP_UPDATE (R423, R424, R435, R446): a locked laser or ring loop with an error of e_lock or more is locked no
longer, and Tide re-evaluates the caps at the margin report. The spec gives no e_ok for HTU loops and does not say how heater
power follows from the drives: a free margin, a free power. -/
def execHeaterLoopUpdate (l : LoopId) (error : BitVec 16) (drive : BitVec 14) (s : State) : Out :=
  act (haloOn s && s.halo.loops[l.val].st != .outOfService) (fun s =>
    let (fm, s) := takeFree 7 s
    let (fp, s) := takeFree 16 s
    let m :=
      if l.val < 96 then ringMargin (loopMode l s = 2) error
      else BitVec.ofNat 7 (fm.toNat % 101)
    let lost := s.halo.loops[l.val].st = .locked && loopFar l error
    let s := modLoop l (fun x => { x with error := error, drive := drive, margin := m }) s
    let s :=
      if !lost then s
      else if l.val < 32 then loopDown l (loopLoses l .acquiring s)
      else ringLost (Fin.ofNat 64 (l.val - 32)) s
    tideEvaluate (match worstLoop s with
      | some w => modHalo (fun h => { h with heaterMw := fp, worstLoop := BitVec.ofNat 12 w.val, margin := h.loops[w.val].margin }) s
      | none => modHalo (fun h => { h with heaterMw := fp }) s)) s

/-! ### Windows (R434, R436, R442) -/

/-- The step of a die's power by `d` mW between two windows is more than its cap allows: 0.1 W/ms is 1 mW in 10 µs (R434). -/
def slewBroken (d : Nat) (x : TideDie) : Bool := 2 * x.effCap.toNat + b2n x.effHalf < 2 * d

/-- A die's slew bound was not held in the window that ends with power p; the first window has none before it (R434, R446). -/
def dieBroken (t : Tide) (p : BitVec 19) (x : TideDie) : Bool :=
  t.enable && t.sums != [] && slewBroken ((p.toNat : Int) - x.power.toNat).natAbs x

/-- What the compute dies may draw under a setpoint, and in 100 µs, in mW: hub and Halo take 25 W and 18 W (R436, R572). -/
def dieBudget (setpoint : BitVec 2) : Nat := if setpoint = 0 then 77000 else if setpoint = 1 then 137000 else 197000
def peakBudget : Nat := 217000

/-- A mean of R436 is not held: over the last 1 ms, or over the last 100 µs. -/
def overBudget (t : Tide) : Bool :=
  (t.sums.length = 100 && 100 * dieBudget t.setpoint < t.sums.sum) ||
    (10 ≤ t.sums.length && 10 * peakBudget ≤ (t.sums.take 10).sum)

/-- The targets of all dies fall by n mW. -/
def lowerAll (n : TideDie → Nat) (s : State) : State :=
  modTide (fun t => { t with die := t.die.map fun x => { x with lowered := x.lowered + n x } }) s

/-- What a target has been lowered by goes back, in steps that Tide chooses within the slew cap: free values. -/
def raiseTargets (s : State) : State :=
  (List.finRange 4).foldl (fun s d =>
    let (v, s) := takeFree 8 s
    modTide (fun t => { t with die := upd t.die d fun x => { x with lowered := x.lowered - v.toNat % (x.effCap.toNat + 1) } }) s) s

/-- Targets fall by 2 W for the laser junction now. -/
def thermalStep (s : State) : State := lowerAll (fun _ => 2000) (modTide (fun t => { t with thermalAt := s.eph.ticks }) s)

/-- The hottest laser junction starts, goes on with or ends the reduction of R436: 2 W in each 10 ms. -/
def tideThermal (s : State) : State :=
  let t := s.halo.laserMax.toInt
  if s.tide.thermal then
    if t ≤ 90 then modTide (fun t => { t with thermal := false }) s
    else if s.tide.thermalAt + usTicks 10000 ≤ s.eph.ticks then thermalStep s
    else s
  else if 92 ≤ t then thermalStep (tideRaise 3 (modTide (fun t => { t with thermal := true }) s))
  else s

/-- The targets after a window (R436): they fall within the slew cap while a mean is not held, and else may rise again. -/
def tideTargets (s : State) : State :=
  let s := tideThermal s
  if overBudget s.tide then lowerAll (fun x => x.effCap.toNat) s else if s.tide.thermal then s else raiseTargets s

/-- Duty and ballast of a die in the window that comes: Tide's own choice, a free value each (R434). -/
def tidePace (busy : Bool) (s : State) (d : Fin 4) : State :=
  let (duty, s) := takeFree 4 s
  let (bal, s) := takeFree 1 s
  modTide (fun t => { t with die := upd t.die d fun x =>
    { x with duty := if t.enable && busy then duty else 0, ballast := t.enable && !busy && bal = 1#1 } }) s

/-- TIDE_WINDOW (R434 to R436, R442): the powers of the window that ends, in mW, are held against the caps that were in force
in it; a window with a violation counts once; then TIDE_CAP as it now stands takes effect. -/
def execTideWindow (power : Vector (BitVec 19) 4) (busy : Vector Bool 4) (s : State) : Out :=
  act (haloOn s) (fun s =>
    let broken := (List.finRange 4).any fun d => dieBroken s.tide power[d.val] s.tide.die[d.val]
    let sum := (power.toList.map fun p => p.toNat).sum
    let s := modTide (fun t => { t with die := Vector.ofFn fun d : Fin 4 => { t.die[d.val] with power := power[d.val] }
                                        sums := (sum :: t.sums).take 100, capNow := t.cap, cap64Now := t.cap64 }) s
    let s := if broken then tideRaise 0 (modTide (fun t => { t with viol := t.viol + 1 }) s) else s
    tideTargets ((List.finRange 4).foldl (fun s d => tidePace busy[d.val] s d) (tideEvaluate s))) s

/-- TIDE_HOLD_TIMEOUT (R435): 20 ms after the hold began. -/
def execTideHoldTimeout (d : Fin 4) (s : State) : Out :=
  act (haloOn s && s.tide.die[d.val].hold && s.tide.die[d.val].holdAt + usTicks 20000 ≤ s.eph.ticks) (fun s =>
    tideRaise 2 (modTide (fun t => { t with die := upd t.die d fun x =>
      { x with hold := false, holdOver := true, effCap := 5, effHalf := false } }) s)) s

/-! ### CK_CORE and VDD_CDd (R532, R571, R585) -/

/-- The voltage of a rate, in fifteenths of a millivolt: 0.60 V at 600 MHz, 0.68 V at 1,000, 0.75 V at 1,350, 0.80 V at
1,500, linear between them (R571). -/
def voltOf (mhz : Nat) : Nat :=
  if mhz ≤ 1350 then 9000 + (mhz - 600) * 3 else 11250 + (mhz - 1350) * 5

/-- Start a change of rate: a higher one commands its voltage and waits, a lower one is taken first (R571). -/
def dvfsStart (d : Fin 4) (mhz : Nat) (s : State) : State :=
  let x := s.dies[d.val]
  let v := voltOf mhz
  if mhz = x.mhz then s
  else
    let s := modDie d (fun y => { y with change := some (mhz, v), mhz := if mhz < y.mhz then mhz else y.mhz }) s
    emit (.vout d v) s

/-- DVFS_CHANGE (R571): one of the rates of R571, with no change in progress; a hot die stays at 0.6 GHz (R532). -/
def execDvfsChange (d : Fin 4) (mhz : Nat) (s : State) : Out :=
  act (live s && 600 ≤ mhz && mhz ≤ 1500 && s.dies[d.val].change.isNone && (!s.dies[d.val].hot || mhz = 600)) (dvfsStart d mhz) s

/-- DVFS_VOLTAGE_REACHED (R571). -/
def execDvfsVoltageReached (d : Fin 4) (s : State) : Out :=
  match s.dies[d.val].change with
  | none => .next s
  | some (mhz, v) => act (live s) (modDie d fun x => { x with mhz := mhz, v15 := v, change := none }) s

/-- REGULATOR_TIMEOUT (R585): the die stays at its clock and voltage; sensor crit is logged for its rail. -/
def execRegulatorTimeout (d : Fin 4) (s : State) : Out :=
  act (live s && s.dies[d.val].change.isSome) (fun s => logPf 0x0A04 0xFF 0 0 0xFFFF (modDie d (fun x => { x with change := none }) s)) s

/-- PM_ALERT (R585): sensor warn for every rail on the PMBus, which are the four VDD_CDd (R571). -/
def execPmAlert (s : State) : Out :=
  act (live s) (fun s => iter (fun _ s => logPf 0x0A03 0xFF 0 0 0xFFFF s) 4 s) s

end Sys2Proof.Machine
end

