-- ==== Sys2Proof/Machine/Capture.lean ====
section
/-! DEFINITION. The sample port, its Q-block and CAPTURE (R487 to R516). -/

namespace Sys2Proof.Machine

open Sys2Proof

/-- Change the sample port. -/
def modSp (f : Sp → Sp) (s : State) : State := { s with sp := f s.sp }

/-- What the descriptor of a CAPTURE says (R89). -/
def capBuf (x : Item) : Nat := dfield x.raw 24 8
def capRegion (x : Item) : Nat := dfield x.raw 32 4 - 64
def capLanes (x : Item) : BitVec 16 := BitVec.ofNat 16 (dfield x.raw 36 2)
def capWrap (x : Item) : Bool := dfield x.raw 38 1 = 1

/-- Lanes enabled. -/
def laneCount (m : BitVec 16) : Nat := ((List.range 16).filter fun i => bit m i).length

/-- The instance of the CAPTURE numbered d, if it is still held. -/
def capOwner (d : Nat) (s : State) : Option InstId := (findItem d s).map fun x => x.inst

/-! ### The Q-block (R498 to R507, R513) -/

/-- Words stored in the Q-block: the sample port reserves none (R500). -/
def spFill (s : State) : Nat := s.sp.words.length

/-- SP_HOLD_N falls: its bit sets and interrupts; it is not among the events that are logged (R515). -/
def spHold (s : State) : State :=
  let s := modSp (fun x => { x with closed := true, holdN := false, intStatus := x.intStatus ||| 1 }) s
  if bit s.sp.intEn 0 then pfIrq s else s

/-- SP_LOSS_N rises once the fill is at lw and 16 beats have passed (R506). -/
def spLossEnd (s : State) : State :=
  if !s.sp.lossN && spFill s ≤ s.sp.lw.toNat && 16 ≤ s.sp.lossBeats then modSp (fun x => { x with lossN := true, lossBeats := 0 }) s
  else s

/-- Open or closed by the watermarks; a port that is not enabled keeps its pins high (R500, R507, R516). -/
def spLevel (s : State) : State :=
  let s :=
    if s.sp.hw.toNat ≤ spFill s then (if s.sp.closed || !s.sp.enable then s else spHold s)
    else if spFill s ≤ s.sp.lw.toNat then modSp (fun x => { x with closed := false, holdN := true }) s
    else s
  spLossEnd s

/-- Bits as bytes, padded with zeros. -/
def packBits (b : List Bool) : List Byte :=
  (List.range ((b.length + 7) / 8)).map fun i =>
    BitVec.ofNat 8 (((b.drop (8 * i)).take 8).foldr (fun x n => b2n x + 2 * n) 0)

/-- Store a word; with all 4,096 words stored it is discarded (R500). -/
def spStore (d : Nat) (w : List Byte) (s : State) : State :=
  if spFill s < 4096 then modSp (fun x => { x with words := x.words ++ [(d, w)] }) s else s

/-- Bits of the window that the Q-block holds. -/
def bitsHeld (d : Nat) (part : Nat) (s : State) : Nat :=
  ((s.sp.words.filter fun w => w.1 = d).map fun w => 8 * w.2.length).sum + part

/-- A window's part in a flush: its discarded beats count as lost, its flag sets (R501, R510). -/
def flushWindow (flag : Nat) (part : Nat) (s : State) (w : Window) : Window × Nat :=
  match findItem w.item s with
  | none => (w, 0)
  | some x =>
    let per := 2 * laneCount (capLanes x)
    let n := (bitsHeld w.item part s + per - 1) / max 1 per
    ({ w with flags := w.flags ||| (1#8 <<< flag), bits := 8 * w.written, lost := satNat 32 (w.lost.toNat + n) }, n)

/-- A flush: every stored word and the partial word go; windows stay (R501, R510). -/
def spFlushAll (flag : Nat) (s : State) : State :=
  let o := s.sp.window.map (flushWindow flag s.sp.partialBits.length s)
  let c := s.sp.closing.map fun w => if bitsHeld w.item 0 s = 0 then (w, 0) else flushWindow flag 0 s w
  let n := (c.map Prod.snd).sum + (o.map Prod.snd).getD 0
  spLevel (modSp (fun x => { x with words := [], partialBits := [], window := o.map Prod.fst, closing := c.map Prod.fst
                                    cnt := upd x.cnt 2 (· + BitVec.ofNat 64 n) }) s)

/-- SP_FLUSH (R501, R510). -/
def execSpFlush (s : State) : Out := act (live s) (spFlushAll 5) s

/-- QBLOCK_PTR_MISMATCH (R502, R509, R510). -/
def execQblockPtrMismatch (s : State) : Out :=
  act (live s) (fun s =>
    let owner := s.sp.window.bind fun w => capOwner w.item s
    spRaise 2 owner (modSp (fun x => { x with cnt := upd x.cnt 3 (· + 1) }) (spFlushAll 4 s))) s

/-- A write of SP_QB_CFG (R12, R513, R517): ignored unless lw lies below hw; an hw above 4,096 closes never. -/
def spQbWrite (v : Word) (s : State) : State :=
  let hw := BitVec.ofNat 13 (bits v 28 16)
  let lw := BitVec.ofNat 13 (bits v 12 0)
  if lw.toNat < hw.toNat then spLevel (modSp (fun x => { x with hw := hw, lw := lw }) s) else s

/-- SP_QB_CFG_WRITE (R513). -/
def execSpQbCfgWrite (v : Word) (s : State) : Out := act (live s) (spQbWrite v) s

/-! ### The armed queue and windows (R491 to R495) -/

/-- No other CAPTURE became ready before this one (R491: dispatch holds the next). -/
def capNext (x : Item) (s : State) : Bool :=
  !s.items.any fun y => y.opcode = 7 && y.stage = .ready && ageBefore y x

/-- Order of the armed queue: release, then acceptance (R491). -/
def armedBefore (a b : Nat × Rts) : Bool := a.2.toNat < b.2.toNat || (a.2 = b.2 && a.1 < b.1)

/-- The identity of the sample port's writes (R119, R496). -/
def capWho (x : Item) : Who := { inst := x.inst, src := 611, gen := x.gen }

/-- A CAPTURE that passes the check of R25 enters the armed queue (R491). -/
def capArm (x : Item) (s : State) : State :=
  match firstRequests (capWho x) [(.write, capBuf x)] s with
  | (some e, s) => endEarly x.id (errOutcome e) s
  | (none, s) =>
    let e := (x.id, (rtsField x.release).getD s.eph.now)
    modSp (fun p =>
      match p.window, p.armed with
      | some _, h :: t => { p with armed := h :: insertBy armedBefore e t }
      | _, l => { p with armed := insertBy armedBefore e l }) s

/-- CAPTURE (R25, R117, R491, R528). -/
def execCapture (d : Nat) (s : State) : Out :=
  match findItem d s with
  | none => .next s
  | some x =>
    act (live s && x.opcode = 7 && x.stage = .ready && engUp .sp s && capNext x s && (s.sp.armed.length < 4 || unitClosed unitSp s ||
        !s.inst[x.inst.val].spEn))
      (fun s =>
        let s := startItem d s
        if !s.inst[x.inst.val].spEn then endInvalid d s
        else if unitClosed unitSp s then endEarly d (fun o => { o with engineFault := true }) s
        else capArm x s) s

/-- CAPTURE_SHED (R495): armed and not open, or held by a full queue. -/
def execCaptureShed (d : Nat) (s : State) : Out :=
  match findItem d s with
  | none => .next s
  | some x =>
    let opened := s.sp.window.any fun w => w.item = d
    let armed := s.sp.armed.any fun e => e.1 = d
    act (live s && x.opcode = 7 && (x.stage = .ready || (x.stage = .running && armed && !opened)) && passed x.deadline s.eph.now)
      (fun s =>
        spRaise 1 (some x.inst) (endEarly d (fun o => { o with shed := true })
          (modSp (fun p => { p with armed := p.armed.filter (fun e => e.1 ≠ d), frmSeen := p.frmSeen.filter (· ≠ d) }) s))) s

/-- A beat lost to overflow (R506): the first of an episode lowers SP_LOSS_N and is logged. -/
def beatLost (w : Window) (s : State) : State :=
  let first := s.sp.lossN
  let seen := bit s.sp.intStatus 3
  let s := modSp (fun p => { p with window := some { w with lost := satInc w.lost, flags := w.flags ||| 4 }
                                    lossN := p.lossN && !p.enable, lossBeats := if first then 0 else p.lossBeats
                                    cnt := upd p.cnt 1 (· + 1) }) s
  if first then spRaise 3 (capOwner w.item s) s
  else
    let s := modSp (fun p => { p with intStatus := p.intStatus ||| 8 }) s
    if bit s.sp.intEn 3 && !seen then pfIrq s else s

/-- What the packer holds at the close becomes the last word; where 4,096 words are stored it is discarded, and the
beat whose bits it holds is lost (R499, R500). -/
def packEnd (w : Window) (s : State) : State :=
  if s.sp.partialBits = [] then s
  else if spFill s < 4096 then spStore w.item (packBits s.sp.partialBits) s
  else beatLost { w with bits := w.bits - s.sp.partialBits.length } s

/-- The open window closes (R493, R499). -/
def spClose (s : State) : State :=
  match s.sp.window with
  | none => s
  | some w =>
    let s := packEnd w s
    spLevel (modSp (fun p => { p with window := none, partialBits := [], closing := p.closing ++ [p.window.getD w]
                                      armed := p.armed.filter fun e => e.1 ≠ w.item }) s)

/-- The deadline of the open window has come: no beat at or after it belongs to it (R492). -/
def windowOver (s : State) : Bool :=
  match s.sp.window.bind fun w => findItem w.item s with
  | none => false
  | some x => x.deadline != 0 && reached x.deadline s.eph.now

/-- Before a beat: a window whose deadline has come closes; the head's window opens at the first beat at or after its
release, with align at a rise of SP_FRM, or at once where that rise came while another window was open (R491, R492,
R497). -/
def windowTurn (frm : Bool) (s : State) : State :=
  let s := if windowOver s then spClose s else s
  match s.sp.window, s.sp.armed with
  | none, (d, r) :: _ =>
    match findItem d s with
    | none => s
    | some x =>
      let due := r.toNat ≤ s.eph.now.toNat && (x.deadline = 0 || !reached x.deadline s.eph.now)
      let edge := frm && !s.sp.lastFrm
      if s.sp.enable && due && (!s.sp.align || edge || s.sp.frmSeen.contains d) then
        let fl := b2n (r.toNat < s.eph.now.toNat) + 64 * b2n (s.sp.align && edge)
        modSp (fun p => { p with window := some { item := d, flags := BitVec.ofNat 8 fl } }) s
      else s
  | _, _ => s

/-- WINDOW_OPEN (R492): `frm` is SP_FRM at the beat that comes. -/
def execWindowOpen (frm : Bool) (s : State) : Out := act (live s) (windowTurn frm) s

/-- WINDOW_CLOSE (R493): at the deadline. A full region closes the window with its beat. -/
def execWindowClose (s : State) : Out := act (live s && windowOver s) spClose s

/-- SP_CLK_LOSS (R515): the window closes under R493. -/
def execSpClkLoss (s : State) : Out :=
  act (live s && s.sp.clkPresent) (fun s =>
    let s := modSp (fun p => { p with clkPresent := false }) s
    match s.sp.window with
    | none => s
    | some w =>
      let s := modSp (fun p => { p with window := some { w with flags := w.flags ||| 8 } }) s
      let s := spRaise 4 (capOwner w.item s) s
      if windowOver s then spClose s else s) s

/-! ### Beats (R489, R490, R493, R506) -/

/-- The bits of a beat (R489). -/
def beatBits (m : BitVec 16) (rise fall : BitVec 16) : List Bool :=
  (List.range 16).flatMap fun i => if bit m i then [bit rise i, bit fall i] else []

/-- The packer takes bits; full words are stored (R499). -/
def packIn (d : Nat) (b : List Bool) (s : State) : State :=
  let p := s.sp.partialBits ++ b
  if 512 ≤ p.length then spStore d (packBits (p.take 512)) (modSp (fun x => { x with partialBits := p.drop 512 }) s)
  else modSp (fun x => { x with partialBits := p }) s

/-- A beat of the open window, which is the last effect so far if it is taken (R493, R495): with wrap 0 it must fit; with no deadline the one that takes the last byte closes
the window. -/
def beatIn (w : Window) (x : Item) (rise fall : BitVec 16) (s : State) : State :=
  let b := beatBits (capLanes x) rise fall
  let room := 8 * capRegion x - w.bits
  if !capWrap x && x.deadline != 0 && room < b.length then
    spClose (modSp (fun p => { p with window := some { w with flags := w.flags ||| 2 } }) s)
  else if 4096 ≤ spFill s then beatLost w s
  else
    let b := if !capWrap x then b.take room else b
    let w := { w with bits := w.bits + b.length, lastRts := s.eph.now
                      firstRts := if w.bits = 0 && w.firstRts = 0 then s.eph.now else w.firstRts }
    let s := modItem x.id (fun y => { y with last := some (stampNow s) })
      (modSp (fun p => { p with window := some w, cnt := upd p.cnt 0 (· + 1) }) s)
    let s := spLevel (packIn w.item b s)
    if !capWrap x && x.deadline = 0 && 8 * capRegion x ≤ w.bits then
      spClose (modSp (fun p => { p with window := p.window.map fun w => { w with flags := w.flags ||| 2 } }) s)
    else s

/-- SP_FRM at a beat is noted. A rise while a window is open is the opening beat, under align, of those that wait and
whose release has come (R492). -/
def noteFrm (frm : Bool) (s : State) : State :=
  let late := match s.sp.window with
    | some w =>
      if s.sp.align && frm && !s.sp.lastFrm then
        (s.sp.armed.filter fun e => e.1 != w.item && e.2.toNat ≤ s.eph.now.toNat).map Prod.fst
      else []
    | none => []
  modSp (fun p => { p with lastFrm := frm, frmSeen := p.frmSeen ++ late }) s

/-- SAMPLE_BEAT (R489, R490, R492, R506, R516). -/
def execSampleBeat (rise fall : BitVec 16) (frm : Bool) (s : State) : Out :=
  act (live s) (fun s =>
    let s := windowTurn frm (modSp (fun p => { p with clkPresent := true, lossBeats := if p.lossN then 0 else p.lossBeats + 1 }) s)
    let s := noteFrm frm s
    let s := spLossEnd s
    if !s.sp.enable then s
    else
      match s.sp.window with
      | none => s
      | some w =>
        match findItem w.item s with
        | none => s
        | some x => beatIn w x rise fall s) s

/-! ### The capture engine (R496, R497, R514) -/

/-- A CAPTURE leaves the port. -/
def capDrop (d : Nat) (s : State) : State :=
  modSp (fun p => { p with window := p.window.filter (fun w => w.item ≠ d), closing := p.closing.filter (fun w => w.item ≠ d)
                           armed := p.armed.filter (fun e => e.1 ≠ d), frmSeen := p.frmSeen.filter (· ≠ d), words := p.words.filter (fun e => e.1 ≠ d)
                           partialBits := if p.window.any (fun w => w.item = d) then [] else p.partialBits }) s

/-- The bytes that a window has taken (R497). -/
def capBytes (w : Window) : Nat := (w.bits + 7) / 8

/-- A buffer write failed (R514): the window closes, the Q-block is flushed, no header is written. -/
def capFails (w : Window) (x : Item) (e : AccErr) (s : State) : State :=
  match e with
  | .stale => s
  | _ =>
    let s := spFlushAll 5 (if s.sp.window.any (fun v => v.item = w.item) then spClose s else s)
    endItem x.id (BitVec.ofNat 64 (capBytes w)) (errOutcome e) (capDrop x.id s)

/-- The window of an item, open or closed. -/
def windowOf (d : Nat) (s : State) : Option Window := (s.sp.closing ++ s.sp.window.toList).find? fun w => w.item = d

/-- Change the window of an item. -/
def modWindow (d : Nat) (f : Window → Window) (s : State) : State :=
  modSp (fun p => { p with window := p.window.map (fun w => if w.item = d then f w else w)
                           closing := p.closing.map fun w => if w.item = d then f w else w }) s

/-- A word padded to 64 bytes (R499). -/
def padWord (b : List Byte) : List Byte := b ++ List.replicate (64 - b.length) 0

/-- CAPTURE_WORD_DRAIN (R496, R500). -/
def execCaptureWordDrain (s : State) : Out :=
  match s.sp.words with
  | [] => .next s
  | (d, b) :: rest =>
    act (live s) (fun s =>
      match windowOf d s, findItem d s with
      | some w, some x =>
        let off := if capWrap x then w.written % capRegion x else w.written
        (match writeIva (capWho x) (capBuf x + 64 + off) (padWord b) false s with
         | (some e, _, s) => capFails w x e s
         | (none, _, s) =>
           let s := modWindow d (fun w => { w with written := w.written + b.length }) (modSp (fun p => { p with words := rest }) s)
           spLevel (modItem d (fun y => { y with out := effect y.out }) s))
      | _, _ => spLevel (modSp (fun p => { p with words := rest }) s)) s

/-- The 64 bytes of a capture header (R497). -/
def capHeader (w : Window) (x : Item) : List Byte :=
  let n := capBytes w
  let wr := if capWrap x then n % capRegion x else n
  let fl := w.flags ||| (if capWrap x && capRegion x < n then 128 else 0)
  let tail := if w.bits = 0 then 0 else (w.bits - 1) % 8 + 1
  leBytes 8 w.firstRts.toNat ++ leBytes 8 w.lastRts.toNat ++ leBytes 8 n ++ leBytes 4 wr ++ leBytes 4 w.lost.toNat ++
    leBytes 2 (capLanes x).toNat ++ [fl, BitVec.ofNat 8 tail] ++ List.replicate 28 0

/-- CAPTURE_HEADER_WRITE (R495 to R497): the oldest closed window, once its data is written. -/
def execCaptureHeaderWrite (s : State) : Out :=
  match s.sp.closing with
  | [] => .next s
  | w :: _ =>
    act (live s && !s.sp.words.any fun e => e.1 = w.item) (fun s =>
      match findItem w.item s with
      | none => capDrop w.item s
      | some x =>
        match writeIva (capWho x) (capBuf x) (capHeader w x) false s with
        | (some e, _, s) => capFails w x e s
        | (none, _, s) =>
          endItem x.id (BitVec.ofNat 64 (capBytes w)) effect (capDrop x.id s)) s

/-- An instance reset takes the instance's CAPTUREs out of the port (R512). -/
def capObserve (i : InstId) (s : State) : State :=
  let mine := (s.sp.armed.map Prod.fst ++ s.sp.closing.map Window.item).filter fun d => capOwner d s = some i
  if mine = [] then s else mine.foldl (fun s d => capDrop d s) (spFlushAll 5 s)

end Sys2Proof.Machine
end

