-- ==== Sys2Proof/Machine/RadioTime.lean ====
section
/-! DEFINITION. Radio time: the commands of Ephemeris, the EVT pins and the EVTIN inputs
(02_radio_time.md). -/

namespace Sys2Proof.Machine

open Sys2Proof

/-! ### Ephemeris (R35 to R40, R54 to R62) -/

/-- Change the EPH block. -/
def modEph (f : Eph → Eph) (s : State) : State := { s with eph := f s.eph }

/-- Enter a state; a change raises state_change (R39, R61). -/
def ephEnter (st : EphState) (s : State) : State :=
  if s.eph.st = st then s else ephRaise 0 0 0 (modEph (fun e => { e with st := st, holdTicks := 0 }) s)

/-- The counter takes a linear count, which may lie beyond a hyperframe wrap. As 2^32 hyperframes are no whole number of
seconds, the grid moves with the wrap, so that second boundaries keep their spacing (R31, R36, R60). -/
def ephSet (lin : Int) (e : Eph) : Eph :=
  let now := rtsOfInt lin
  { e with now := now, grid := ((e.grid + (rtsLin now - lin)) % (secTicks : Int)).toNat }

/-- A step: the counter takes a new linear count (R55). The step count saturates, and the log
entry carries the step size (R534; log entry 14). -/
def ephStep (lin : Int) (s : State) : State :=
  let size := lin - rtsLin s.eph.now
  ephRaise 4 0 (satInt 32 size).toNat (modEph (fun e =>
    { ephSet lin e with timeEpoch := e.timeEpoch + 1, stepCnt := satInc e.stepCnt, stepLast := satInt 32 size }) s)

/-- The time-of-day load at a second boundary (R37, R38): the boundary bears the loaded value, so the edge,
pps_comp ticks later, bears that much more. The phase error is then 0 (R39). -/
def ephLoad (s : State) : State :=
  let l := rtsLin s.eph.todNext
  let s := ephStep (l + s.eph.ppsComp.toInt) (modEph (fun e => { e with grid := l % secTicks }) s)
  let s := modEph (fun e => { e with todPending := false, todValid := true,
                                     slewing := none, stepRefused := false, measure := false, trim := 0 }) s
  let s := ephRaise 5 0 0 s
  if s.eph.trefQual && s.eph.ppsQual then ephEnter .locked s else s

/-- Loss of PPS_IN qualification (R54, R39): the next edge only starts the count (R36). -/
def ppsLose (s : State) : State :=
  let s := ephRaise 2 0 0 (modEph (fun e =>
    { e with ppsQual := false, goodRun := 0, lastEdge := none, slewing := none, stepRefused := false }) s)
  if s.eph.st = .locked then ephEnter .holdover s else s

/-- The distance of a linear count from the nearest grid point (R36). -/
def gridErr (grid : Nat) (lin : Int) : Int :=
  let d := (lin - grid) % (secTicks : Int)
  if 2 * d ≤ (secTicks : Int) then d else d - (secTicks : Int)

/-- LOCKED is entered where TREF_IN is qualified too (R39). -/
def ephLock (s : State) : State := if s.eph.trefQual then ephEnter .locked s else s

/-- What is done with the phase error at the first qualified edge of a requalification (R40). -/
def ephRequal (err : Int) (s : State) : State :=
  let s := modEph (fun e => { e with measure := false, stepRefused := false }) s
  if err.natAbs ≤ 2 then ephLock (modEph (fun e => { e with trim := err }) s)
  else if err.natAbs ≤ 1024 then modEph (fun e => { e with slewing := some err }) s
  else if err.natAbs < 61440000 then
    if s.eph.stepAllow then ephLock (ephStep (rtsLin s.eph.now - err) s)
    else ephRaise 6 0 0 (modEph (fun e => { e with stepRefused := true }) s)
  else ephEnter .freeRun (modEph (fun e => { e with todValid := false }) s)

/-- Edges are judged by the grid (R36). -/
def ephOnGrid (e : Eph) : Bool := e.ppsQual && e.todValid && e.slewing.isNone && !e.stepRefused

/-- The work of a qualified edge: a load, the phase error of R40, or trimming (R36, R37, R40). -/
def ephQualified (s : State) : State :=
  if s.eph.todPending then ephLoad s
  else if s.eph.todValid && s.eph.slewing.isNone then
    let g := gridErr s.eph.grid (rtsLin s.eph.now - s.eph.ppsComp.toInt)
    if s.eph.measure then ephRequal g s
    else if !s.eph.stepRefused && g.natAbs ≤ 2 then modEph (fun e => { e with trim := g }) s
    else s
  else s

/-- An edge that has an expected boundary, err ticks from it (R36, R54, R61). While PPS_IN is qualified, an edge more than 2
ticks off still counts as a qualified one, at which a load or a measurement takes place, and bad_count stops at 255: the
spec leaves both open (log entry 57). -/
def ephJudge (err : Int) (at_ : Int) (s : State) : State :=
  let s := modEph (fun e => { e with phaseErr := satInt 16 err, lastEdge := some at_ }) s
  if err.natAbs ≤ 2 then
    let s := modEph (fun e => { e with badCount := 0, goodRun := e.goodRun + 1 }) s
    if s.eph.ppsQual then ephQualified s
    else if 3 ≤ s.eph.goodRun then ephQualified (modEph (fun e => { e with ppsQual := true, measure := true }) s)
    else s
  else
    let s := ephRaise 3 0 0 (modEph (fun e => { e with badCount := satInc e.badCount, goodRun := 0 }) s)
    if s.eph.ppsQual then
      if 3 ≤ s.eph.badCount.toNat then ppsLose s else ephQualified s
    else s

/-- TOD_ARM (R37). -/
def execTodArm (s : State) : Out := act (live s) (modEph fun e => { e with todPending := true }) s

/-- TOD_CANCEL (R37): whatever else is written, no load is left armed. -/
def execTodCancel (_arm : Bool) (s : State) : Out :=
  act (live s) (modEph fun e => { e with todPending := false }) s

/-- PLL_LOCK (R35). -/
def execPllLock (ppm : Int) (s : State) : Out :=
  act (s.hub.rstN && ppm.natAbs ≤ 50) (modEph fun e => { e with pllLock := true }) s

/-- TREF_QUALIFY (R35): the estimate that the local reference is later corrected by is the one made now
(R39). The phase error is measured at the next qualified edge (R40). -/
def execTrefQualify (ppm : Int) (s : State) : Out :=
  act (s.hub.rstN && s.eph.pllLock && ppm.natAbs ≤ 20)
    (modEph fun e => { e with trefQual := true, trefEst := some ppm, measure := e.measure || !e.trefQual }) s

/-- TREF_LOSS (R54, R62): the PLL holds no lock on a reference that is gone or too far off. -/
def execTrefLoss (s : State) : Out :=
  act s.hub.rstN (fun s =>
    let q := s.eph.trefQual
    let s := modEph (fun e => { e with trefQual := false, pllLock := false }) s
    let s := if q then ephRaise 1 0 0 s else s
    if s.eph.st = .locked then ephEnter .holdover s else s) s

/-- PPS_EDGE (R36): judged by the grid, by the spacing, or, for a first edge, not at all. -/
def execPpsEdge (s : State) : Out :=
  act s.hub.rstN (fun s =>
    let at_ := (s.eph.ticks : Int) - s.eph.ppsComp.toInt
    if ephOnGrid s.eph then
      ephJudge (gridErr s.eph.grid (rtsLin s.eph.now - s.eph.ppsComp.toInt)) at_ s
    else
      match s.eph.lastEdge with
      | none => modEph (fun e => { e with lastEdge := some at_ }) s
      | some l => ephJudge (at_ - l - secTicks) at_ s) s

/-- The longest wait for an edge is over (R54). -/
def ppsOverdue (e : Eph) : Bool :=
  match e.lastEdge with
  | none => true
  | some l => l + e.ppsComp.toInt + secTicks + 1024 ≤ (e.ticks : Int)

/-- PPS_LOSS (R54). -/
def execPpsLoss (s : State) : Out := act (s.hub.rstN && s.eph.ppsQual && ppsOverdue s.eph) ppsLose s

/-- PHASE_SLEW_DONE (R40): the ticks of slewing have brought the error to `residual`, which is within 2 ticks; the rest is
trimmed at the same rate (log entry 14). -/
def execPhaseSlewDone (residual : Int) (s : State) : Out :=
  act (s.hub.rstN && s.eph.slewing = some residual && residual.natAbs ≤ 2) (fun s =>
    let s := modEph (fun e => { e with slewing := none, trim := residual }) s
    if s.eph.trefQual && s.eph.ppsQual && s.eph.todValid then
      ephEnter .locked (modEph (fun e => { e with measure := false }) s)
    else s) s

/-- HOLD_LIMIT_EXPIRY (R39, R64). -/
def execHoldLimitExpiry (s : State) : Out :=
  act (s.hub.rstN && s.eph.st = .holdover && s.eph.holdLimit != BitVec.allOnes 32 &&
      s.eph.holdLimit.toNat * secTicks < s.eph.holdTicks) (ephEnter .freeRun) s

/-- One CK_RT tick (R31, R39, R40; log entry 1): an error that is being removed moves the counter by one tick
more or less in each 100,000. -/
def ephTick (e : Eph) : Eph :=
  let ticks := e.ticks + 1
  let off := e.slewing.getD e.trim
  let turn := ticks % 100000 = 0
  let off' := if turn then (if 0 < off then off - 1 else if off < 0 then off + 1 else off) else off
  let adv : Int := if turn ∧ 0 < off then 0 else if turn ∧ off < 0 then 2 else 1
  { ephSet (rtsLin e.now + adv) e with
    ticks := ticks, slewing := e.slewing.map fun _ => off'
    trim := if e.slewing.isNone then off' else e.trim
    holdTicks := if e.st = .holdover then e.holdTicks + 1 else 0 }

/-! ### EVT pins (R49 to R51, R90) -/

/-- Ephemeris is at or above a pin's min_state (R50, R64). -/
def ephAtLeast (m : BitVec 2) (st : EphState) : Bool :=
  match st with
  | .freeRun => m = 0
  | .holdover => m.toNat ≤ 1
  | .locked => m.toNat ≤ 2

/-- Put an action among a pin's pending actions by RTS, last among equals (R49). -/
def evtInsert (a : EvtAction) (q : List EvtAction) : List EvtAction :=
  insertBy (fun x y => x.rts.toNat < y.rts.toNat) a q

/-- Drive a pin. -/
def evtDrive (n : Fin 8) (l : Bool) (s : State) : State :=
  emit (.evt n l s.eph.now) (modPin n (fun p => { p with level := l }) s)

/-- End an EVENT whose action was performed at r; the pin's transition now is its last effect (R44, R49, R89). -/
def evtDone (d : Nat) (r : Rts) (late : Bool) (s : State) : State :=
  endItem d r (fun o => { o with late := o.late || late }) (noteEffect d s)

/-- End an EVENT that is shed (R50, R51, R89). -/
def evtShed (d : Nat) (s : State) : State := endItem d 0 (fun o => { o with shed := true }) s

/-- EVT_ACTION (R49, R50): the head of the pin's queue, whose RTS has come. min_state is judged at the tick at which the
action is performed or shed, a late one included (log entry 57). -/
def execEvtAction (pin : Fin 8) (s : State) : Out :=
  match s.evt[pin.val].queue with
  | [] => .next s
  | a :: rest =>
    act (live s && a.kind != .fall && a.rts.toNat ≤ s.eph.now.toNat) (fun s =>
      let p := s.evt[pin.val]
      let late := a.rts.toNat < s.eph.now.toNat
      let s := modPin pin (fun p => { p with queue := rest }) s
      if !p.enable || !ephAtLeast p.minState s.eph.st || (late && p.latePolicy) then evtShed a.item s
      else
        match a.kind with
        | .high => evtDone a.item s.eph.now late (evtDrive pin true s)
        | .low => evtDone a.item s.eph.now late (evtDrive pin false s)
        | .toggle => evtDone a.item s.eph.now late (evtDrive pin (!p.level) s)
        | .pulse w =>
          let s := evtDrive pin true s
          let fall : EvtAction := { a with rts := rtsAdd a.rts w.toNat, kind := .fall, rose := s.eph.now, late := late }
          noteEffect a.item
            (modPin pin (fun p => { p with queue := evtInsert fall p.queue }) s)
        | .fall => s) s

/-- EVT_PULSE_FALL (R49): performed whatever enable and min_state hold. -/
def execEvtPulseFall (pin : Fin 8) (s : State) : Out :=
  match s.evt[pin.val].queue with
  | [] => .next s
  | a :: rest =>
    act (live s && a.kind == .fall && a.rts.toNat ≤ s.eph.now.toNat) (fun s =>
      let late := a.late || a.rts.toNat < s.eph.now.toNat
      evtDone a.item a.rose late (evtDrive pin false (modPin pin (fun p => { p with queue := rest }) s))) s

/-- The action of a held EVENT waits on this pin, its RTS has passed, and it has not been judged yet (R51). -/
def heldOverdue (d : Nat) (s : State) (n : Fin 8) : Bool :=
  s.evt[n.val].held.any fun a => a.item = d && !a.judged && a.rts.toNat < s.eph.now.toNat

/-- EVT_HELD_EXPIRY (R51): a held EVENT is judged once, when its action RTS has passed: shed, or kept to be performed
late. -/
def execEvtHeldExpiry (d : Nat) (s : State) : Out :=
  match (List.finRange 8).find? (heldOverdue d s) with
  | none => .next s
  | some n =>
    act (live s) (fun s =>
      let p := s.evt[n.val]
      if p.latePolicy || !p.enable || !ephAtLeast p.minState s.eph.st then
        evtShed d (modPin n (fun p => { p with held := p.held.filter fun a => a.item ≠ d }) s)
      else modPin n (fun p => { p with held := p.held.map fun a => if a.item = d then { a with judged := true } else a }) s) s

/-- The action that an EVENT descriptor names (R89). -/
def evtActionOf (x : Item) : EvtAction :=
  { rts := rtsNorm (BitVec.ofNat 64 (dfield x.raw 24 8)), item := x.id, inst := x.inst
    kind := match dfield x.raw 33 1 with
      | 0 => .high
      | 1 => .low
      | 2 => .toggle
      | _ => .pulse (BitVec.ofNat 16 (dfield x.raw 34 2)) }

/-- The pin that an EVENT descriptor names. -/
def evtPinOf (x : Item) : Fin 8 := Fin.ofNat 8 (dfield x.raw 32 1)

/-! ### EVTIN inputs (R53, R64) -/

/-- EVTIN_EDGE (R53). -/
def execEvtinEdge (n : Fin 4) (rising : Bool) (s : State) : Out :=
  act (live s && bit s.evtin[n.val].edge (if rising then 0 else 1)) (fun s =>
    if s.evtin[n.val].fifo.length < 8 then
      let s := { s with evtin := upd s.evtin n fun e => { e with fifo := e.fifo ++ [s.eph.now] } }
      if s.evtin[n.val].irqEn then pfIrq s else s
    else { s with evtin := upd s.evtin n fun e => { e with overflow := true } }) s

end Sys2Proof.Machine
end

