-- ==== Sys2Proof/Machine/Engines.lean ====
section
/-! DEFINITION. The DMA channels (R394 to R396) and the start of an EVENT (R90). -/

namespace Sys2Proof.Machine

open Sys2Proof

/-! ### Channels (R117, R394, R528) -/

/-- A channel is granted to an instance. -/
def dmaGranted (i : InstId) (c : Fin 16) (s : State) : Bool := bit s.inst[i.val].dmaMask c.val

/-- A channel works (R129). -/
def dmaUp (c : Fin 16) (s : State) : Bool := engUp (.dma c) s

/-- The channels that a DMA descriptor may use: the one it names, or for 0xFF those granted. -/
def dmaNamed (x : Item) (s : State) : List (Fin 16) :=
  if dfield x.raw 44 1 = 0xFF then (List.finRange 16).filter fun c => dmaGranted x.inst c s
  else [Fin.ofNat 16 (dfield x.raw 44 1)]

/-- Those of them that serve (R528). -/
def dmaOpen (x : Item) (s : State) : List (Fin 16) := (dmaNamed x s).filter fun c => !unitClosed (unitDma c) s

/-- A descriptor need not wait for a channel that is being reset: one works, or none will serve it. -/
def dmaReady (s : State) (x : Item) : Bool :=
  let cs := dmaOpen x s
  cs.isEmpty || cs.any fun c => dmaUp c s

/-- The channel that the command names takes the descriptor, or no channel will. A copy is whole in its row, so every channel
that works is idle, and of those granted the lowest-numbered takes it (R394). -/
def dmaTakes (x : Item) (c : Fin 16) (s : State) : Bool :=
  (dmaOpen x s).isEmpty || ((dmaOpen x s).filter fun c => dmaUp c s).head? = some c

/-- The identity of a channel's requests (R119, R153). -/
def dmaWho (c : Fin 16) (x : Item) : Who := { inst := x.inst, src := 576 + c.val, gen := x.gen }

/-- Judge the channel when the descriptor starts (R117, R528), then the check of R25, then the work. -/
def dmaStart (x : Item) (c : Fin 16) (named : List (Access × Nat)) (work : Who → State → State) (s : State) : State :=
  let lacks := (dmaNamed x s).isEmpty || !(dmaNamed x s).all fun c => dmaGranted x.inst c s
  let out := (dmaOpen x s).isEmpty && !(dmaNamed x s).isEmpty
  if lacks || out then endEarly x.id (fun o => { o with engineFault := out, invalid := lacks }) s
  else
    match firstRequests (dmaWho c x) named s with
    | (some e, s) => endItem x.id 0 (errOutcome e) s
    | (none, s) => work (dmaWho c x) s

/-! ### Moving bytes (R389, R391, R394, R395) -/

/-- What a range of IVAs lies on, by 2 MiB page: host or not, first address, length. -/
def extents (i : InstId) : Nat → Nat → Nat → State → List (Bool × Nat × Nat)
  | 0, _, _, _ => []
  | fuel + 1, iva, len, s =>
    if len = 0 then []
    else
      let n := min len (2 ^ 21 - iva % 2 ^ 21)
      let rest := extents i fuel (iva + n) (len - n) s
      match walk s.mtu[i.val] s iva with
      | .error _ => rest
      | .ok e =>
        match leafTarget e iva with
        | .dpa a => (false, a, n) :: rest
        | .host a => (true, a, n) :: rest

/-- Two ranges share a byte, by address or by where they are mapped (R395). -/
def sharesByte (i : InstId) (a n b m : Nat) (s : State) : Bool :=
  (a < b + m && b < a + n) ||
    (extents i (n / 2 ^ 21 + 2) a n s).any fun x => (extents i (m / 2 ^ 21 + 2) b m s).any fun y =>
      x.1 = y.1 && x.2.1 < y.2.1 + y.2.2 && y.2.1 < x.2.1 + x.2.2

/-- The progress of a copy: its failure, the bytes written, the destination lines it poisoned in order, and
whether it read poison. -/
structure Copy where
  err : Option AccErr := none
  moved : Nat := 0
  lines : List Nat := []
  poison : Bool := false
  s : State

/-- What a copy writes: bytes read from an IVA, a fill byte, or undefined bytes where ranges overlap. -/
inductive CopySrc where
  | from_ (iva : Nat) (undef : Bool)
  | fill (b : Byte)
  deriving DecidableEq, Repr

/-- Bytes that are free values (R7). -/
def freeBytes (n : Nat) (s : State) : List Byte × State :=
  let (v, s) := takeFree (8 * n) s
  (leBytes n v.toNat, s)

/-- One write request of a copy, with the read that feeds it: `off` bytes in. -/
def copyChunk (w : Who) (src : CopySrc) (dst : Nat) (c : Nat × Nat) (r : Copy) : Copy :=
  if r.err.isSome then r
  else
    let put (d : List Byte) (pois : Bool) (s : State) : Copy :=
      let line := if pois then (dpaLine w.inst c.1 s).toList else []
      match writeLine w c.1 d pois s with
      | (some e, s) => { r with err := some e, poison := r.poison || pois, s := s }
      | (none, s) => { r with moved := r.moved + c.2, lines := r.lines ++ line.filter fun l => !r.lines.contains l
                              poison := r.poison || pois, s := s }
    match src with
    | .fill b => put (List.replicate c.2 b) false r.s
    | .from_ a undef =>
      let rd := readIva w (a + (c.1 - dst)) c.2 r.s
      match rd.err with
      | some e => { r with err := some e, s := rd.s }
      | none =>
        if undef then
          let (d, s) := freeBytes c.2 rd.s
          put d rd.poison s
        else put rd.data rd.poison rd.s

/-- A request in one line would fail: its translation, or the channel that it reaches (R123, R417). -/
def reqFails (i : InstId) (acc : Access) (a : Nat) (s : State) : Bool :=
  match (translate i acc a s).1 with
  | .error _ => true
  | .ok (.dpa p) => channelOut s p
  | .ok (.host _) => false

/-- The write request of a chunk, or a read that feeds it, would fail. -/
def chunkFails (w : Who) (src : CopySrc) (dst : Nat) (c : Nat × Nat) (s : State) : Bool :=
  reqFails w.inst .write c.1 s ||
    match src with
    | .fill _ => false
    | .from_ a _ => (chunks (a + (c.1 - dst)) c.2).any fun r => reqFails w.inst .read r.1 s

/-- The chunks that come before the one whose failure stops the copy: any of them, since writes have no fixed order
(R394; log entry 54). -/
def chooseChunks (stop : Nat × Nat) : List (Nat × Nat) → State → List (Nat × Nat) × State
  | [], s => ([stop], s)
  | c :: t, s =>
    if c = stop then chooseChunks stop t s
    else
      let (b, s) := takeFree 1 s
      let (cs, s) := chooseChunks stop t s
      (if b = 1#1 then c :: cs else cs, s)

/-- Copy or fill n bytes. Where no request fails, the order of the writes shows nowhere. -/
def copyRun (w : Who) (src : CopySrc) (dst n : Nat) (r : Copy) : Copy :=
  match (chunks dst n).find? fun c => chunkFails w src dst c r.s with
  | none => (chunks dst n).foldl (fun r c => copyChunk w src dst c r) r
  | some stop =>
    let (cs, s) := chooseChunks stop (chunks dst n) r.s
    cs.foldl (fun r c => copyChunk w src dst c r) { r with s := s }

/-- A DMA descriptor ends: its failure, poison, and the lines it poisoned, logged once (R391). -/
def dmaEnd (x : Item) (result : Nat) (r : Copy) : State :=
  endItem x.id (BitVec.ofNat 64 result)
    (fun o =>
      let o := { o with poison := o.poison || r.poison }
      let o := if 0 < r.moved then effect o else o
      match r.err with
      | some e => errOutcome e o
      | none => o) (logSpread x.inst r.lines r.s)

/-- DMA_COPY once it works (R395). -/
def dmaCopyRun (x : Item) (w : Who) (s : State) : State :=
  let src := dfield x.raw 24 8
  let dst := dfield x.raw 32 8
  let n := dfield x.raw 40 4
  let from_ := if dfield x.raw 45 1 = 1 then CopySrc.fill (BitVec.ofNat 8 (dfield x.raw 46 1))
               else .from_ src (sharesByte x.inst src n dst n s)
  let r := copyRun w from_ dst n { s := s }
  dmaEnd x r.moved r

/-- The addresses that a DMA_COPY names (R25, R89). -/
def dmaCopyNames (x : Item) : List (Access × Nat) :=
  (if dfield x.raw 45 1 = 1 then [] else [(Access.read, dfield x.raw 24 8)]) ++ [(.write, dfield x.raw 32 8)]

/-- DMA_COPY (R394, R395). -/
def execDmaCopy (d : Nat) (ch : Fin 16) (err : Option LineErr) (s : State) : Out :=
  match findItem d s with
  | none => .next s
  | some x =>
    act (live s && x.opcode = 2 && isNext d 1 (dmaReady s) s && dmaTakes x ch s)
      (fun s => dmaStart x ch (dmaCopyNames x) (dmaCopyRun x) (upset err (dispatchStart d 1 (dmaReady s) s))) s

/-! ### DMA_GATHER (R396) -/

/-- An entry of a gather list: its source, its length, and whether it passes the checks (R89, R396). -/
def gatherEntries : Nat → List Byte → List (Nat × Nat × Bool)
  | 0, _ => []
  | n + 1, d =>
    let len := leNat ((d.drop 8).take 4)
    (leNat (d.take 8), len, 1 ≤ len && leNat ((d.drop 12).take 4) = 0) :: gatherEntries n (d.drop 16)

/-- Copy the entries in list order to consecutive bytes from dst; counts those that are whole. A source that
shares a byte with the descriptor's destination reads as undefined. -/
def gatherRun (w : Who) (dst0 total : Nat) : List (Nat × Nat × Bool) → Nat → Nat → Copy → Nat × Copy
  | [], _, done, r => (done, r)
  | (a, n, _) :: t, dst, done, r =>
    let r := copyRun w (.from_ a (sharesByte w.inst a n dst0 total r.s)) dst n r
    if r.err.isSome then (done, r) else gatherRun w dst0 total t (dst + n) (done + 1) r

/-- DMA_GATHER once it works (R396). -/
def dmaGatherRun (x : Item) (w : Who) (s : State) : State :=
  let n := dfield x.raw 40 4
  let dst := dfield x.raw 32 8
  let l := readIva w (dfield x.raw 24 8) (16 * n) s
  match l.err with
  | some e => endItem x.id 0 (errOutcome e) l.s
  | none =>
    let es := gatherEntries n l.data
    if l.poison then endItem x.id 0 (fun o => { o with invalid := true, poison := true }) l.s
    else if es.any fun e => !e.2.2 then endInvalid x.id l.s
    else
      let (done, r) := gatherRun w dst (es.map fun e => e.2.1).sum es dst 0 { s := l.s }
      dmaEnd x (r.moved % 2 ^ 32 + 2 ^ 32 * done) r

/-- DMA_GATHER (R394, R396). -/
def execDmaGather (d : Nat) (ch : Fin 16) (err : Option LineErr) (s : State) : Out :=
  match findItem d s with
  | none => .next s
  | some x =>
    act (live s && x.opcode = 3 && isNext d 1 (dmaReady s) s && dmaTakes x ch s)
      (fun s => dmaStart x ch [(.read, dfield x.raw 24 8), (.write, dfield x.raw 32 8)] (dmaGatherRun x)
        (upset err (dispatchStart d 1 (dmaReady s) s))) s

/-! ### EVENT (R90, R117) -/

/-- An EVENT starts: with its grant (R117) its action enters the pin's queue. -/
def eventStart (d : Nat) (a : EvtAction) (pin : Fin 8) (s : State) : State :=
  let s := startItem d s
  if bit s.inst[a.inst.val].evtMask pin.val then modPin pin (fun p => { p with queue := evtInsert a p.queue }) s
  else endInvalid d s

/-- EVENT: the release has come, so it starts, or dispatch holds it while the queue is full (R51). -/
def execEvent (d : Nat) (s : State) : Out :=
  match findItem d s with
  | none => .next s
  | some x =>
    let p := s.evt[(evtPinOf x).val]
    act (live s && isItem d 8 .ready s && !p.held.any fun a => a.item = d) (fun s =>
      if p.queue.length < 16 && p.held.isEmpty then eventStart d (evtActionOf x) (evtPinOf x) s
      else modPin (evtPinOf x) (fun p => { p with held := p.held ++ [evtActionOf x] }) s) s

/-- EVT_ENQUEUE (R51): the EVENT held longest starts and takes the slot that is free. -/
def execEvtEnqueue (pin : Fin 8) (s : State) : Out :=
  match s.evt[pin.val].held with
  | [] => .next s
  | a :: rest =>
    act (live s && s.evt[pin.val].queue.length < 16)
      (fun s => eventStart a.item a pin (modPin pin (fun p => { p with held := rest }) s)) s

end Sys2Proof.Machine
end

