-- ==== Sys2Proof/Machine/Memory.lean ====
section
/-! DEFINITION. The scrubber, the walk for the owners of a poisoned line, and the upkeep of LP5X channels (R384,
R387 to R393, R417). -/

namespace Sys2Proof.Machine

open Sys2Proof

/-! ### The leaves of a context (R122) -/

/-- A leaf that maps device memory: first IVA, first DPA, bytes, and its shared bit. -/
structure Leaf where
  iva : Nat
  dpa : Nat
  size : Nat
  shared : Bool
  deriving DecidableEq, Repr

/-- The leaves of an L2 table. -/
def l2Leaves (s : State) (base iva : Nat) : List Leaf :=
  (List.range 512).filterMap fun j =>
    match tableRead s (base + 8 * j) with
    | .error _ => none
    | .ok e =>
      if leafOk e false && bits e 7 6 = 0 then some ⟨iva + j * 2 ^ 21, bits e 51 21 * 2 ^ 21, 2 ^ 21, bit e 5⟩ else none

/-- The L2 table that an L1 entry points to. -/
def l2Table (e : Dword) : Option Nat :=
  if bit e 0 && !bit e 4 && bits e 63 52 = 0 && bits e 11 8 = 0 && bits e 7 6 = 0 then some (bits e 51 12 * 4096) else none

/-- Every leaf of a context that maps device memory, by rising IVA; what a bad table line holds is skipped. -/
def tableLeaves (m : Mtu) (s : State) : List Leaf :=
  (List.range 1024).flatMap fun k =>
    match tableRead s (bits m.root 63 12 * 4096 + 8 * k) with
    | .error _ => []
    | .ok e =>
      if bit e 4 then
        if leafOk e true && bits e 7 6 = 0 then [⟨k * 2 ^ 30, bits e 51 30 * 2 ^ 30, 2 ^ 30, bit e 5⟩] else []
      else
        match l2Table e with
        | none => []
        | some b => l2Leaves s b (k * 2 ^ 30)

/-- The bad lines of a 4 KiB or 8 KiB table. -/
def tableBad (s : State) (base lines : Nat) : List Nat :=
  ((List.range lines).map fun j => base / 64 + j).filter fun l => lineBad s (64 * l)

/-- The bad table lines of a context: those of its L1 table, then those of the L2 tables it can reach. -/
def tableBadLines (m : Mtu) (s : State) : List Nat :=
  let root := bits m.root 63 12 * 4096
  tableBad s root 128 ++ (List.range 1024).flatMap fun k =>
    match tableRead s (root + 8 * k) with
    | .error _ => []
    | .ok e =>
      match l2Table e with
      | none => []
      | some b => tableBad s b 64

/-- A walk over a context finds bad table lines: each is logged to the PF (R132, R391). -/
def logBadTables (i : InstId) (s : State) : State :=
  (tableBadLines s.mtu[i.val] s).foldl (fun s l => logPf 0x0304 i.val (64 * l) 0x3FF 0xFFFF (findErrors (64 * l) s)) s

/-! ### The scrubber (R387, R392, R393) -/

/-- The DPA of a line of the die pools, by its number in ascending order (R380). -/
def poolLine (n : Nat) : Nat := 0x2000000000 + n / 1572864 * 0x10000000 + n % 1572864 * 64

/-- Advance a pass: the LP5X pass counts in passes when it is complete. -/
def scrubNext (pool : Bool) (s : State) : State :=
  let m := s.mem
  if pool then { s with mem := { m with dpPos := (m.dpPos + 1) % 6291456 } }
  else if m.lpPos + 1 < lpCapacity s / 64 then { s with mem := { m with lpPos := m.lpPos + 1 } }
  else { s with mem := { m with lpPos := 0, passes := m.passes + 1 } }

/-- What the scrubber does with a line: a correctable error is corrected, an uncorrectable one poisons it, a poisoned
line and one of a channel out of service are skipped (R387 to R389, R417). -/
def scrubLine (a : Nat) (s : State) : State :=
  let l := a / 64
  if channelOut s a || linePoisoned s a then s
  else
    match s.mem.latent.find? (fun e => e.1 = l) with
    | none => s
    | some (_, true) =>
      let s := poisonLine l s
      logPf 0x0501 0xFF a 0 0xFFFF
        { s with mem := { s.mem with found := s.mem.found ++ [(l, true)], ueCount := satInc s.mem.ueCount
                                     lastUe := BitVec.ofNat 64 a } }
    | some (_, false) =>
      { s with mem := { s.mem with latent := s.mem.latent.filter fun e => e.1 ≠ l, ceCount := satInc s.mem.ceCount } }

/-- SCRUB_READ (R392). -/
def execScrubRead (pool : Bool) (err : Option LineErr) (s : State) : Out :=
  act (live s && (if pool then s.mem.dpEn else s.mem.lpEn && s.mem.lp5xPresent))
    (fun s => scrubNext pool (scrubLine (if pool then poolLine s.mem.dpPos else s.mem.lpPos * 64) (upset err s))) s

/-! ### Owners of a poisoned line (R391) -/

/-- Log a finding to an instance, once for each IVA at which it maps the line. -/
def ownerLog (event l : Nat) (i : InstId) (s : State) : State :=
  let s := logBadTables i s
  (tableLeaves s.mtu[i.val] s).foldl (fun s f =>
    if f.dpa ≤ l * 64 && l * 64 < f.dpa + f.size then logOne i event i.val (f.iva + (l * 64 - f.dpa)) 0 0xFFFF s else s) s

/-- POISON_OWNER_WALK (R391): every enabled context, for the oldest finding in that line. -/
def execPoisonOwnerWalk (line : Nat) (s : State) : Out :=
  match s.mem.found.find? (fun f => f.1 = line) with
  | none => .next s
  | some f =>
    act (live s && !s.nuc.restarting) (fun s =>
      let s := { s with mem := { s.mem with found := s.mem.found.erase f } }
      ((List.finRange 64).filter fun i => s.mtu[i.val].enable).foldl
        (fun s i => ownerLog (if f.2 then 0x0501 else 0x0500) line i s) s) s

/-! ### LP5X channels (R384, R417) -/

/-- LP5X_RETRAIN (R417): the third failure in a row is a unit fault; a channel that is OUT is not retrained. -/
def execLp5xRetrain (ch : Fin 4) (ok : Bool) (s : State) : Out :=
  act (live s && s.mem.lp5xPresent && s.nuc.units[(unitLp ch).val].st != 3) (fun s =>
    if ok then { s with mem := { s.mem with retrainFail := upd s.mem.retrainFail ch fun _ => 0 } }
    else
      let s := { s with mem := { s.mem with retrainFail := upd s.mem.retrainFail ch satInc } }
      let n := s.mem.retrainFail[ch.val].toNat
      let s := logPf 0x0502 0xFF 0 n (unitLp ch).val s
      if n = 3 then unitFault (unitLp ch) 2 s else s) s

/-- ZQ_CALIBRATION (R384): it adjusts the channel's drivers and changes nothing that software can see. -/
def execZqCalibration (ch : Fin 4) (s : State) : Out :=
  act (live s && s.mem.lp5xPresent && s.nuc.units[(unitLp ch).val].st != 3) id s

end Sys2Proof.Machine
end

