-- ==== Sys2Proof/Machine/Nucleus.lean ====
section
/-! DEFINITION. Nucleus: its command set, the unit state table and the fences, sensors, the error log rings, SPDM and
MCTP, restart (16_management.md). -/

namespace Sys2Proof.Machine

open Sys2Proof

/-- Change Nucleus. -/
def modNuc (f : Nuc → Nuc) (s : State) : State := { s with nuc := f s.nuc }

/-- Nucleus runs: bring-up is over, and it is not restarting (R542, R564). -/
def nucUp (s : State) : Bool := s.hub.ready && s.hub.rstN && !s.nuc.restarting

/-! ### The unit state word and effects of a unit's leaving service (R375, R475, R484, R523) -/

/-- The unit state word (R546). -/
def unitWord (u : Fin 622) (s : State) : Word :=
  let x := s.nuc.units[u.val]
  BitVec.ofNat 32 (x.st.toNat * 2 ^ 30 + b2n x.fence * 2 ^ 29 + b2n x.tbl * 2 ^ 28 + b2n x.mismatch * 2 ^ 27 +
    b2n x.draining * 2 ^ 26 + x.epoch.toNat * 2 ^ 16 + x.cause.toNat * 2 ^ 8 + x.faults.toNat)

/-- The walker that a unit is. -/
def walkerOf (u : Fin 622) : Option (Fin 16) := if 0x240 ≤ u.val ∧ u.val < 0x250 then some (Fin.ofNat 16 (u.val - 0x240)) else none

/-- The port that a unit is. -/
def portOf (u : Fin 622) : Option (Fin 8) := if 0x266 ≤ u.val then some (Fin.ofNat 8 (u.val - 0x266)) else none

/-- The core that a unit is. -/
def coreOfUnit (u : Fin 622) : Option CoreId := if h : u.val < 576 then some ⟨u.val, h⟩ else none

/-- The LP5X channel that a unit is. -/
def lpOf (u : Fin 622) : Option (Fin 4) := if 0x262 ≤ u.val ∧ u.val < 0x266 then some (Fin.ofNat 4 (u.val - 0x262)) else none

/-- A port's state has changed: what it may not send any more is routed again, with OUT its lanes fall, the peer is
told, and the change is reported (R473 to R475, R484, R523). -/
def portChanged (p : Fin 8) (s : State) : State :=
  let st := s.nuc.units[(unitPort p).val].st
  let s := if st = 0 then s else portLeaves p s
  let s := if st = 1 then modPort p (fun x => { x with probes := 0, shadowAt := s.eph.ticks }) s else s
  let s := announce p s
  let s := if st = 3 then (lanesOf p).foldl (fun s l => laneFall l s) s else s
  let s := fabRaise 1 p.val s
  if st = 0 then pumpPort p s else s

/-- Queries of a walker that serves no more start again elsewhere, and one that serves again takes what waits (R345, R375). -/
def walkerChanged (w : Fin 16) (s : State) : State := if unitClosed (unitWk w) s then wkWithdraw w s else remoteServe s

/-- A unit's entry has changed. -/
def unitChanged (u : Fin 622) (s : State) : State :=
  match walkerOf u, portOf u with
  | some w, _ => walkerChanged w s
  | _, some p => portChanged p s
  | _, _ => s

/-- A unit is taken out of service by a fault report (R525). -/
def unitOut (u : Fin 622) (cause : Byte) (s : State) : State :=
  if u = unitHtu then htuOut cause s else unitChanged u (unitFault u cause s)

/-- The fault of a walker is its parity error, recorded for the oldest query in progress (R377, R379). -/
def walkerParity (u : Fin 622) (s : State) : State :=
  match walkerOf u with
  | some w => wkFault w (s.wks[w.val].queries.head?.elim 0 fun q => keyInst q s) 1 s
  | none => s

/-- UNIT_FAULT (R377, R525). -/
def execUnitFault (u : Fin 622) (cause : Byte) (s : State) : Out :=
  act (live s) (fun s => unitOut u cause (walkerParity u s)) s

/-! ### Mismatch and audit (R526, R541) -/

/-- Record a mismatch that has newly arisen (R526). -/
def mismatchSet (u : Fin 622) (s : State) : State :=
  if s.nuc.units[u.val].mismatch then s
  else
    let s := modUnit u (fun x => { x with mismatch := true }) s
    let s := modNuc (fun n => { n with mmValid := true, mmCount := satInc n.mmCount, mmUnit := BitVec.ofNat 10 u.val }) s
    logPf 0x0A01 0xFF 0 0 u.val s

/-- A fault report of the unit waits for Nucleus, which explains a difference (R526, R541). -/
def faultPending (u : Fin 622) (s : State) : Bool := s.nuc.pendFaults.any fun f => f.1 = u

/-- A fence has moved without a command: a walker that it closes loses its queries (R375). -/
def fenceMoved (u : Fin 622) (s : State) : State :=
  match walkerOf u with
  | some w => walkerChanged w s
  | none => s

/-- STATE_MISMATCH (R526): the fence bit is found at `fence`, and the tbl bit differs. -/
def execStateMismatch (u : Fin 622) (fence : Bool) (s : State) : Out :=
  act (live s && s.nuc.units[u.val].tbl != fence && s.nuc.units[u.val].fence != fence && !faultPending u s)
    (fun s => fenceMoved u (mismatchSet u (modUnit u (fun x => { x with fence := fence, bySet := false }) s))) s

/-- The audit of one unit (R526): the bits against the table; an open fence of a unit that is not in service closes. -/
def auditUnit (u : Fin 622) (s : State) : State :=
  let x := s.nuc.units[u.val]
  let want := x.st != 0
  if (x.fence = want && x.tbl = want) || x.bySet then s
  else
    let s := mismatchSet u s
    if want then fenceMoved u (modUnit u (fun x => { x with fence := true, tbl := true }) s) else s

/-- The audit of every unit. -/
def auditAll (s : State) : State := (List.finRange 622).foldl (fun s u => auditUnit u s) s

/-- NUCLEUS_AUDIT (R526). -/
def execNucleusAudit (s : State) : Out := act (nucUp s) auditAll s

/-! ### Commands (R518 to R521, R531) -/

/-- Result codes (R520). -/
inductive NucResult where
  | ok | badCmd | badUnit | badState | epochStale | checkFail | timeout | busy
  deriving DecidableEq, Repr

def NucResult.code : NucResult → Byte
  | .ok => 0 | .badCmd => 1 | .badUnit => 2 | .badState => 3 | .epochStale => 4 | .checkFail => 5 | .timeout => 6 | .busy => 7

/-- The words of a response in NUC_RSP (R520): the length counts bytes from byte 8. -/
def rspWords (q : NucReq) (r : NucResult) (data : List Byte) : Tab Word :=
  let b := leBytes 2 q.opcode.toNat ++ leBytes 2 (4 + data.length) ++ leBytes 4 q.seq.toNat ++ [r.code, 0, 0, 0] ++ data
  (List.range ((b.length + 3) / 4)).map fun k => (k, BitVec.ofNat 32 (leNat ((b.drop (4 * k)).take 4)))

/-- Answer a command (R519, R520); a host write of a port's target is answered in the error log (R531). -/
def nucAnswer (src : CmdSource) (q : NucReq) (r : NucResult) (data : List Byte) (s : State) : State :=
  match src with
  | .path .mailbox =>
    let s := modNuc (fun n => { n with busy := false, done := true, rspBuf := rspWords q r data }) s
    let s := if s.nuc.doneIrqEn then msix 0 s.nuc.vec s else s
    emit (.nuc .mailbox q.opcode q.seq r.code data) s
  | .path .smbus => emit (.nuc .smbus q.opcode q.seq r.code data) s
  | .portWrite => logPf 0x0A02 0xFF 0 r.code.toNat (leNat (q.body.take 2)) s

/-- Byte k of the request's data, from byte 8 on. -/
def reqByte (q : NucReq) (k : Nat) : Byte := q.body.getD k 0

/-- The unit number of a request. -/
def reqUnit (q : NucReq) : Nat := (reqByte q 0).toNat + 256 * (reqByte q 1).toNat

/-- The four bytes of a unit state word. -/
def wordBytes (u : Fin 622) (s : State) : List Byte := leBytes 4 (unitWord u s).toNat

/-- Answer with the unit state word. -/
def unitAnswer (src : CmdSource) (q : NucReq) (r : NucResult) (u : Fin 622) (s : State) : State :=
  nucAnswer src q r (wordBytes u s) s

/-- A command that changes state or time may not come over SMBus (R518). -/
def smbusBarred (src : CmdSource) (s : State) : Bool := src = .path .smbus && !s.nuc.smbusEn

/-- Work that a unit still has in progress (R529). -/
def unitBusy (u : Fin 622) (s : State) : Bool :=
  match coreOfUnit u, walkerOf u, portOf u with
  | some c, _, _ => s.cores[c.val].st = .running
  | _, some w, _ => s.wks[w.val].queries != []
  | _, _, some p => (lanesOf p).any fun l => s.fab.lanes[l.val].copies != []
  | _, _, _ =>
    if u = unitHtu then s.halo.job.isSome
    else if u = unitSp then s.sp.window.isSome || s.sp.armed != [] || s.sp.closing != []
    else false

/-- The searches with a query at a walker end with ENGINE_FAULT, and other devices' QUERYs are answered for 0 shards (R529). -/
def forceWalker (w : Fin 16) (s : State) : State :=
  let rs := s.halo.reqs.filter fun r => r.wk = w && r.remote.isSome
  let s := rs.foldl (fun s r => jobEnd r (.fails .engine) (htuTakeReq r s)) s
  remoteServe (((s.wks[w.val].queries.filterMap QueryKey.item?).dedup).foldl
    (fun s d => searchEnd d (fun o => { o with engineFault := true }) s) s)

/-- The CAPTUREs at the sample port end with ENGINE_FAULT, and the Q-block is flushed (R529). -/
def forceSp (s : State) : State :=
  let ds := (s.sp.closing.map Window.item ++ s.sp.armed.map Prod.fst)
  ds.foldl (fun s d =>
    let n := (windowOf d s).elim 0 capBytes
    endItem d (BitVec.ofNat 64 n) (fun o => { o with engineFault := true }) (capDrop d s)) (spFlushAll 5 s)

/-- Force: the work in progress of a unit ends at once (R529). -/
def forceEnd (u : Fin 622) (s : State) : State :=
  match coreOfUnit u, walkerOf u with
  | some c, _ => raise c .unit false 0 s
  | _, some w => forceWalker w s
  | _, _ =>
    if u = unitHtu then htuEnd (fun o => { o with engineFault := true }) s
    else if u = unitSp then forceSp s
    else s

/-- A port may enter SHADOW: a lane is up, and the node has a number (R474, R476). -/
def shadowOk (u : Fin 622) (s : State) : Bool :=
  match portOf u with
  | some p => lanesUp p s != [] && s.fab.node != 0xFFFF
  | none => true

/-- The entry of a unit after a command has set it to state st (R523, R529, R530). -/
def enterState (u : Fin 622) (st : BitVec 2) (f : UnitSt → UnitSt) (s : State) : State :=
  modUnit u (fun x =>
    let x : UnitSt := { x with epoch := if st = 1 && x.st != 1 then x.epoch + 1 else x.epoch, st := st, tbl := true }
    f x) s

/-- UNIT_SET once its request is in form: the target state, the expected epoch, force (R529). -/
def unitSetGo (src : CmdSource) (q : NucReq) (u : Fin 622) (st : BitVec 2) (ep : Byte) (force : Bool) (s : State) : State :=
  let x := s.nuc.units[u.val]
  if x.epoch != ep then unitAnswer src q .epochStale u s
  else if st = 1 && (x.st != 2 || !shadowOk u s) then unitAnswer src q .badState u s
  else
    let s := enterState u st (fun x => { x with bySet := !x.fence }) s
    if force then
      let s := unitChanged u (forceEnd u s)
      unitAnswer src q .ok u s
    else
      let s := unitChanged u s
      if unitBusy u s then
        modNuc (fun n => { n with job := some { src := src, req := q, unit := u } })
          (modUnit u (fun x => { x with draining := true }) s)
      else unitAnswer src q .ok u s

/-- UNIT_RECONCILE once its request is in form (R530). A port enters SHADOW only as R474 allows. -/
def reconcileGo (src : CmdSource) (q : NucReq) (u : Fin 622) (st : BitVec 2) (ep : Byte) (s : State) : State :=
  let x := s.nuc.units[u.val]
  if x.epoch != ep then unitAnswer src q .epochStale u s
  else if st != 0 then
    if st = 1 && !shadowOk u s then unitAnswer src q .badState u s
    else
      let s := enterState u st (fun x => { x with fence := true, mismatch := false, bySet := false }) s
      let s := if x.st = st && x.fence then s else unitChanged u s
      unitAnswer src q .ok u s
  else if x.st = 1 || (x.mismatch && x.st = 0) then
    modNuc (fun n => { n with job := some { src := src, req := q, unit := u } }) s
  else unitAnswer src q .badState u s

/-- A unit number that exists. -/
def unitNum (n : Nat) : Option (Fin 622) := if h : n < 622 then some ⟨n, h⟩ else none

/-- The word that EPH_STATUS reads as (R64). -/
def ephStatus (e : Eph) : Word :=
  let st := match e.st with
    | .freeRun => 0
    | .holdover => 1
    | .locked => 2
  BitVec.ofNat 32 (e.timeEpoch.toNat * 2 ^ 24 + b2n e.todPending * 64 + b2n e.todValid * 32 + b2n e.ppsQual * 16 +
    b2n e.trefQual * 8 + b2n e.pllLock * 4 + st)

/-! ### SPDM (R537) -/

/-- An SPDM answer whose layout is not in the spec (log entry 8). -/
def spdmText (name : String) (d : List Byte) : List Byte := Config.standardAnswer name d

/-- The measurements that a GET_MEASUREMENTS asks for: none of them, all five, or one (DSP0274; log entry 8). -/
def measurementBytes (op : Byte) : Option (List Byte) :=
  let one (k : Fin 5) : List Byte := leBytes 48 (Config.measurement k).toNat
  if op = 0 then some [5]
  else if op = 0xFF then some ((List.finRange 5).flatMap one)
  else if h : 1 ≤ op.toNat ∧ op.toNat ≤ 5 then some (one ⟨op.toNat - 1, by omega⟩)
  else none

/-- The requests of R537, as what they carry. -/
inductive Spdm where
  | version
  | capabilities
  | algorithms (asym hash : Word)
  | digests
  | certificate (slot : Byte) (off len : Nat)
  | challenge (slot : Byte) (nonce : List Byte)
  | measurements (op : Byte)
  | unknown
  deriving DecidableEq, Repr

/-- The digest of the chain. -/
def chainDigest : List Byte := leBytes 48 (Config.digest384 Config.certChain).toNat

/-- Serve one SPDM request: the answer, and the steps done (R537). Requests out of order, a slot other than 0, and an
offer without ECDSA P-384 (bit 7) and SHA-384 (bit 1) get an error answer (DSP0274; log entry 8). -/
def spdmServe (r : Spdm) (step : Nat) : List Byte × Nat :=
  match r with
  | .version => (spdmText "VERSION" [], 1)
  | .capabilities => if 1 ≤ step then (spdmText "CAPABILITIES" [], 2) else (spdmText "ERROR" [], step)
  | .algorithms a h =>
    if 2 ≤ step && bit a 7 && bit h 1 then (spdmText "ALGORITHMS" [], 3) else (spdmText "ERROR" [], step)
  | .digests => (if 3 ≤ step then spdmText "DIGESTS" chainDigest else spdmText "ERROR" [], step)
  | .certificate slot off len =>
    (if 3 ≤ step && slot = 0 && off < Config.certChain.length then
        spdmText "CERTIFICATE" ((Config.certChain.drop off).take len)
      else spdmText "ERROR" [], step)
  | .challenge slot nonce =>
    (if 3 ≤ step && slot = 0 then spdmText "CHALLENGE_AUTH" (nonce ++ leBytes 96 (Config.signature nonce).toNat)
      else spdmText "ERROR" [], step)
  | .measurements op =>
    (match measurementBytes op with
     | some d => if 3 ≤ step then spdmText "MEASUREMENTS" d else spdmText "ERROR" []
     | none => spdmText "ERROR" [], step)
  | .unknown => (spdmText "ERROR" [], step)

/-- Read an SPDM 1.2 request (DSP0274; log entry 8): the code is byte 1. -/
def spdmRead (b : List Byte) : Spdm :=
  let at_ (k n : Nat) : Nat := leNat ((b.drop k).take n)
  match at_ 1 1 with
  | 0x84 => .version
  | 0xE1 => .capabilities
  | 0xE3 => .algorithms (BitVec.ofNat 32 (at_ 8 4)) (BitVec.ofNat 32 (at_ 12 4))
  | 0x81 => .digests
  | 0x82 => .certificate (b.getD 2 0) (at_ 4 2) (at_ 6 2)
  | 0x83 => .challenge (b.getD 2 0) ((b.drop 4).take 32)
  | 0xE0 => .measurements (b.getD 3 0)
  | _ => .unknown

/-! ### Performing commands -/

/-- Perform a command now (R519 to R521): a request outside its row is answered BAD_CMD. -/
def nucPerform (src : CmdSource) (q : NucReq) (s : State) : State :=
  let bad := nucAnswer src q .badCmd [] s
  match q.opcode.toNat with
  | 1 =>
    if q.length != 2 then bad
    else
      (match unitNum (reqUnit q) with
       | none => nucAnswer src q .badUnit [] s
       | some u => unitAnswer src q .ok u s)
  | 2 =>
    if smbusBarred src s then nucAnswer src q .busy [] s
    else if q.length != 5 || (reqByte q 2).toNat = 0 || 3 < (reqByte q 2).toNat || 1 < (reqByte q 4).toNat then bad
    else
      (match unitNum (reqUnit q) with
       | none => nucAnswer src q .badUnit [] s
       | some u => unitSetGo src q u (BitVec.ofNat 2 (reqByte q 2).toNat) (reqByte q 3) (reqByte q 4 = 1) s)
  | 3 =>
    if smbusBarred src s then nucAnswer src q .busy [] s
    else if q.length != 4 || 3 < (reqByte q 2).toNat then bad
    else
      (match unitNum (reqUnit q) with
       | none => nucAnswer src q .badUnit [] s
       | some u => reconcileGo src q u (BitVec.ofNat 2 (reqByte q 2).toNat) (reqByte q 3) s)
  | 4 =>
    if smbusBarred src s then nucAnswer src q .busy [] s
    else if q.length != 8 then bad
    else if src = .path .smbus && s.eph.cfgLock then nucAnswer src q .badState [] s
    else
      let s := modEph (fun e => { e with todNext := BitVec.ofNat 64 (leNat (q.body.take 8)), todPending := true }) s
      nucAnswer src q .ok (leBytes 4 (ephStatus s.eph).toNat) s
  | 5 =>
    if 4088 < q.length.toNat then bad
    else
      let (d, n) := spdmServe (spdmRead (q.body.take q.length.toNat)) s.nuc.spdmStep
      nucAnswer src q .ok d (modNuc (fun x => { x with spdmStep := n }) s)
  | 6 =>
    if q.length != 0 then bad
    else nucAnswer src q .ok (leBytes 4 Config.fwVersion.toNat ++ leBytes 48 Config.fwDigest.toNat) s
  | _ => bad

/-- Perform what waits, until a command is in progress (R519). -/
def nucServe : Nat → State → State
  | 0, s => s
  | n + 1, s =>
    match s.nuc.waiting with
    | [] => s
    | (src, q) :: t =>
      if s.nuc.job.isSome || s.nuc.restarting then s
      else nucServe n (nucPerform src q (modNuc (fun x => { x with waiting := t }) s))

/-- Nucleus goes on with what waits. -/
def nucNext (s : State) : State := nucServe s.nuc.waiting.length s

/-- A command arrives (R519, R542): on the mailbox while one of the mailbox is in progress it is ignored, on SMBus
while Nucleus restarts it is answered BUSY; else it takes its turn. -/
def nucArrive (src : CmdSource) (q : NucReq) (s : State) : State :=
  if src = .path .mailbox && s.nuc.busy then modNuc (fun n => { n with overrun := true }) s
  else if src = .path .smbus && s.nuc.restarting then nucAnswer src q .busy [] s
  else
    let s := if src = .path .mailbox then modNuc (fun n => { n with busy := true, cmd := q.seq }) s else s
    nucNext (modNuc (fun n => { n with waiting := n.waiting ++ [(src, q)] }) s)

/-- A command row: a request of its opcode arrives on one of the two paths. The mailbox is reached over PCIe, SMBus
while Nucleus runs or restarts. -/
def nucCommand (op : Nat) (path : CmdPath) (q : NucReq) (s : State) : Out :=
  act (q.opcode.toNat = op && s.hub.ready && s.hub.rstN && (path = .smbus || live s)) (nucArrive (.path path) q) s

def execUnitQuery (path : CmdPath) (q : NucReq) (s : State) : Out := nucCommand 1 path q s
def execUnitSet (path : CmdPath) (q : NucReq) (s : State) : Out := nucCommand 2 path q s
def execUnitReconcile (path : CmdPath) (q : NucReq) (s : State) : Out := nucCommand 3 path q s
def execTodLoad (path : CmdPath) (q : NucReq) (s : State) : Out := nucCommand 4 path q s
def execAttest (path : CmdPath) (q : NucReq) (s : State) : Out := nucCommand 5 path q s
def execFwInfo (path : CmdPath) (q : NucReq) (s : State) : Out := nucCommand 6 path q s

/-- The request in NUC_REQ (R519, R520). -/
def mailboxReq (s : State) : NucReq :=
  let word (k : Nat) : Word := Tab.get 0 s.nuc.reqBuf k
  { opcode := (word 0).setWidth 16, length := BitVec.ofNat 16 (bits (word 0) 31 16), seq := word 1
    body := (List.range 1022).flatMap fun k => leBytes 4 (word (k + 2)).toNat }

/-- A host write of target in FAB_PORTp_CFG, taken as a command for the port with its present epoch (R531); the
values are 0b00 UNIT_SET to QUARANTINE, 0b01 UNIT_SET to SHADOW, 0b10 UNIT_RECONCILE to IN_SERVICE. -/
def portCommand (p : Fin 8) (target : Nat) (s : State) : State :=
  let u := unitPort p
  let ep := s.nuc.units[u.val].epoch
  let q (op len : Nat) (rest : List Byte) : NucReq :=
    { opcode := BitVec.ofNat 16 op, length := BitVec.ofNat 16 len, seq := 0, body := leBytes 2 u.val ++ rest }
  if target = 0 then nucArrive .portWrite (q 2 5 [2, ep, 0]) s
  else if target = 1 then nucArrive .portWrite (q 2 5 [1, ep, 0]) s
  else if target = 2 then nucArrive .portWrite (q 3 4 [0, ep]) s
  else s

/-! ### The ends of UNIT_SET and UNIT_RECONCILE (R529, R530, R539) -/

/-- A UNIT_SET is in progress. -/
def settingUnit (s : State) : Option NucJob := s.nuc.job.filter fun j => j.req.opcode = 2

/-- The UNIT_SET in progress returns. -/
def setEnds (j : NucJob) (r : NucResult) (s : State) : State :=
  let s := modUnit j.unit (fun x => { x with draining := false }) (modNuc (fun n => { n with job := none }) s)
  nucNext (unitAnswer j.src j.req r j.unit s)

/-- UNIT_SET_DRAIN_DONE. -/
def execUnitSetDrainDone (s : State) : Out :=
  match settingUnit s with
  | none => .next s
  | some j => act (nucUp s && !unitBusy j.unit s) (setEnds j .ok) s

/-- UNIT_SET_TIMEOUT. -/
def execUnitSetTimeout (s : State) : Out :=
  match settingUnit s with
  | none => .next s
  | some j => act (nucUp s) (setEnds j .timeout) s

/-- What the model's state says of the check of a unit (R530): a port's conditions, SP_CLK, the HTU's loops. -/
def checkHolds (u : Fin 622) (s : State) : Bool :=
  match portOf u with
  | some p =>
    let x := s.fab.ports[p.val]
    x.peerReady && x.shadowAt + usTicks 1000 ≤ s.eph.ticks && 1000 ≤ x.probes &&
      (x.faultAt.all fun t => t + usTicks 1000 ≤ s.eph.ticks) && s.fab.node != 0xFFFF
  | none => if u = unitSp then s.sp.clkPresent else if u = unitHtu then htuLit s && s.halo.calDone else true

/-- Every line of an LP5X channel is written zero and not poisoned (R530). -/
def channelZero (c : Fin 4) (s : State) : State :=
  let on (a : Nat) : Bool := regionOf s a = .lp5x c
  { s with mem := { s.mem with dpa := s.mem.dpa.filter fun e => !on e.1
                               poisoned := s.mem.poisoned.filter fun l => !on (64 * l)
                               latent := s.mem.latent.filter fun e => !on (64 * e.1)
                               retrainFail := upd s.mem.retrainFail c fun _ => 0 } }

/-- What the check itself leaves in a unit that passes. -/
def checkLeaves (u : Fin 622) (s : State) : State :=
  match lpOf u with
  | some c => channelZero c s
  | none =>
    if u = unitHtu then
      modHalo (fun h => { identityLoad h with htuOos := false, htuLocked := true, unlockAt := none }) s
    else s

/-- The return-to-service check of unit u has passed: both bits open (R527, R530). -/
def unitOpen (u : Fin 622) (s : State) : State :=
  unitChanged u (modUnit u (fun x => { x with st := 0, fence := false, tbl := false, mismatch := false, bySet := false })
    (checkLeaves u s))

/-- It has failed: QUARANTINE with both bits closed, unless a fault report has set it OUT (R530, R539). -/
def unitFailed (j : NucJob) (s : State) : State :=
  if j.failed then s
  else unitChanged j.unit (modUnit j.unit (fun x => { x with st := 2, fence := true, tbl := true, bySet := false }) s)

/-- RECONCILE_CHECK_DONE (R530, R539). -/
def execReconcileCheckDone (pass : Bool) (s : State) : Out :=
  match s.nuc.job.filter (fun j => j.req.opcode = 3) with
  | none => .next s
  | some j =>
    act (nucUp s) (fun s =>
      let ok := pass && !j.failed && checkHolds j.unit s
      let s := modNuc (fun n => { n with job := none }) s
      let s := if ok then unitOpen j.unit s else unitFailed j s
      nucNext (unitAnswer j.src j.req (if ok then .ok else .checkFail) j.unit s)) s

/-! ### MCTP (R518) -/

/-- SET_ENDPOINT_ID: 0 and 0xFF are no endpoint's (DSP0236; log entry 8). -/
def execSetEndpointId (eid : Byte) (s : State) : Out :=
  act (nucUp s) (fun s =>
    let s := if eid = 0 || eid = 0xFF then s else modNuc (fun n => { n with eid := eid }) s
    emit (.mctp (Config.standardAnswer "SetEndpointID" [eid, s.nuc.eid])) s) s

def execGetEndpointId (s : State) : Out :=
  act (nucUp s) (fun s => emit (.mctp (Config.standardAnswer "GetEndpointID" [s.nuc.eid])) s) s

def execGetMctpVersionSupport (msgType : Byte) (s : State) : Out :=
  act (nucUp s) (emit (.mctp (Config.standardAnswer "GetMCTPVersionSupport" [msgType]))) s

/-- GET_MESSAGE_TYPE_SUPPORT: types 0x01, 0x05 and 0x7E. -/
def execGetMessageTypeSupport (s : State) : Out :=
  act (nucUp s) (emit (.mctp (Config.standardAnswer "GetMessageTypeSupport" [0x01, 0x05, 0x7E]))) s

def execPldmBase (cmd : Byte) (s : State) : Out := act (nucUp s) (emit (.mctp (Config.standardAnswer "PLDMBase" [cmd]))) s

/-- GET_SENSOR_READING: the sensor's value in NUC_SENSs and its warn and crit bits. -/
def execGetSensorReading (sensor : BitVec 16) (s : State) : Out :=
  act (nucUp s) (fun s =>
    let k := Fin.ofNat 32 sensor.toNat
    let d := leBytes 2 sensor.toNat ++ leBytes 2 s.nuc.sens[k.val].toNat ++
      [BitVec.ofNat 8 (b2n (bit s.nuc.sensWarn k.val) + 2 * b2n (bit s.nuc.sensCrit k.val))]
    emit (.mctp (Config.standardAnswer "GetSensorReading" d)) s) s

/-- An SPDM request over MCTP. -/
def spdmOver (r : Spdm) (s : State) : Out :=
  act (nucUp s) (fun s =>
    let (d, n) := spdmServe r s.nuc.spdmStep
    emit (.mctp d) (modNuc (fun x => { x with spdmStep := n }) s)) s

def execGetVersion (s : State) : Out := spdmOver .version s
def execGetCapabilities (s : State) : Out := spdmOver .capabilities s
def execNegotiateAlgorithms (asym hash : Word) (s : State) : Out := spdmOver (.algorithms asym hash) s
def execGetDigests (s : State) : Out := spdmOver .digests s
def execGetCertificate (slot : Byte) (off len : BitVec 16) (s : State) : Out :=
  spdmOver (.certificate slot off.toNat len.toNat) s
def execChallenge (slot : Byte) (nonce : BitVec 256) (s : State) : Out := spdmOver (.challenge slot (leBytes 32 nonce.toNat)) s
def execGetMeasurements (op : Byte) (s : State) : Out := spdmOver (.measurements op) s

/-! ### Sensors (R532, R570, R578) -/

/-- A rail monitor of voltage: its nominal in fifteenths of a millivolt, and its tolerance in percent (R570). -/
def railOf (k : Nat) (s : State) : Option (Nat × Nat) :=
  if k = 16 then some (27000, 5) else if k = 17 then some (11250, 3) else if k = 18 then some (13500, 3)
  else if k = 19 then some (7500, 3)
  else if k = 24 then some (13500, 3) else if k = 25 then some (30000, 2) else if k = 26 then some (49500, 5)
  else if h : 20 ≤ k ∧ k < 24 then some (s.dies[k - 20].v15, 3)
  else none

/-- The rated current of a monitor, in milliamperes (R570). -/
def ratedOf (k : Nat) : Option Nat :=
  if k = 27 then some 10000 else if k = 28 ∨ k = 29 then some 2000 else if k = 30 then some 6000
  else if k = 31 then some 4000 else none

/-- Warn and crit thresholds of the other sensors in register units: eighths of a degree, tenths of a watt (R532). -/
def limitsOf (k : Nat) : Option (Int × Int) :=
  if k ≤ 4 then some (840, 880) else if k = 5 then some (720, 800) else if k = 6 then some (736, 800)
  else if k ≤ 10 then some (760, 840) else if k = 11 then some (2500, 2600) else none

/-- Whether a value is at warn, and at crit (R532, R570); none for a sensor that does not exist. -/
def sensorLevel (k : Nat) (v : Int) (s : State) : Option (Bool × Bool) :=
  match limitsOf k, railOf k s, ratedOf k with
  | some (w, c), _, _ => some (w ≤ v, c ≤ v)
  | _, some (nom, tol), _ =>
    let dev := (v * 15 - nom).natAbs * 100
    some (tol * nom < dev, 2 * tol * nom < dev)
  | _, _, some r => some (9 * (r : Int) ≤ 10 * v, (r : Int) ≤ v)
  | _, _, _ => none

/-- Set or clear a bit of a word. -/
def putBit {w : Nat} (x : BitVec w) (n : Nat) (b : Bool) : BitVec w := if b then x ||| (1#w <<< n) else x &&& ~~~(1#w <<< n)

/-- A critical die junction limits its CK_CORE to 0.6 GHz until it reads 105 °C or less (R532). -/
def dieLimit (k : Nat) (v : Int) (crit : Bool) (s : State) : State :=
  if h : k < 4 then
    let d : Fin 4 := ⟨k, h⟩
    if crit then dvfsStart d 600 (modDie d (fun x => { x with hot := true }) s)
    else if v ≤ 840 then modDie d (fun x => { x with hot := false }) s
    else s
  else s

/-- SENSOR_SAMPLE (R532, R578, R584): Halo's temperatures are mirrored in HALO as whole degrees. -/
def execSensorSample (k : Fin 32) (value : BitVec 16) (s : State) : Out :=
  match sensorLevel k.val value.toInt s with
  | none => .next s
  | some (warn, crit) =>
    act (s.hub.rstN && s.hub.stage0 && !s.nuc.restarting) (fun s =>
      let w0 := bit s.nuc.sensWarn k.val
      let c0 := bit s.nuc.sensCrit k.val
      let s := modNuc (fun n => { n with sens := upd n.sens k fun _ => value, sensWarn := putBit n.sensWarn k.val warn
                                         sensCrit := putBit n.sensCrit k.val crit }) s
      let s := if warn && !w0 then logPf 0x0A03 0xFF 0 0 0xFFFF s else s
      let s := if crit && !c0 then logPf 0x0A04 0xFF 0 0 0xFFFF s else s
      let s := dieLimit k.val value.toInt crit s
      let deg := satInt 8 (value.toInt / 8)
      let s := if k.val = 5 then modHalo (fun h => { h with dieTemp := deg }) s
               else if k.val = 6 then modHalo (fun h => { h with laserMax := deg }) s else s
      { s with hub := { s.hub with therm := bits s.nuc.sensCrit 6 0 != 0 } }) s

/-! ### The error log (R533, R535, R565) -/

/-- LOG_IRQ_TIMER (R535): what was suppressed is signalled, and the next 100 µs begin with that message. -/
def execLogIrqTimer (i : InstId) (s : State) : Out :=
  act (live s && s.nuc.logs[i.val].quiet) (fun s =>
    if s.nuc.logs[i.val].suppressed then msix i s.nuc.logs[i.val].vector (modLog i (fun r => { r with suppressed := false }) s)
    else modLog i (fun r => { r with quiet := false }) s) s

/-- Units that failed bring-up are logged once the PF ring is enabled (R565). -/
def logFailed (s : State) : State :=
  let us := s.hub.unlogged
  us.foldl (fun s u => logPf 0x0A00 0xFF 0 0 u.val s) { s with hub := { s.hub with unlogged := [] } }

/-- A write of ERR_LOGi_CFG (R533, R534). -/
def errLogWrite (i : InstId) (v : Word) (s : State) : State :=
  let log2 := BitVec.ofNat 5 (bits v 4 0)
  let ok := 6 ≤ log2.toNat && log2.toNat ≤ 16
  let was := s.nuc.logs[i.val].enable
  let s := modLog i (fun r =>
    let r : LogRing := { r with vector := Fin.ofNat 32 (bits v 20 16), log2 := log2, enable := bit v 31 && ok
                                cfgInvalid := r.cfgInvalid || (bit v 31 && !ok) }
    if r.enable && !was then { r with seq := 1 } else r) s
  if i.val = 0 && s.nuc.logs[0].enable then logFailed s else s

/-- ERR_LOG_ENABLE (R533). -/
def execErrLogEnable (i : InstId) (v : Word) (s : State) : Out := act (live s && bit v 31) (errLogWrite i v) s

/-! ### Watchdog, restart, FATAL (R542, R543) -/

/-- FATAL: logged and signalled; Nucleus serves no more, so no fence opens until the device is reset (R543). -/
def nucFatal (s : State) : State :=
  emit (.aer .uncorrectableInternal) (logPf 0x0A06 0xFF 0 0 0xFFFF
    (modNuc (fun n => { n with fatal := true, restarting := true, ready := false }) s))

/-- NUCLEUS_WATCHDOG (R543): the second expiry within 10 s is FATAL. -/
def execNucleusWatchdog (s : State) : Out :=
  act (s.hub.ready && s.hub.rstN && !s.nuc.fatal) (fun s =>
    let again := match s.nuc.lastExpiry with
      | none => false
      | some t => s.eph.ticks ≤ t + 10 * secTicks
    let s := modNuc (fun n => { n with lastExpiry := some s.eph.ticks }) s
    if again then nucFatal s
    else logPf 0x0A05 0xFF 0 0 0xFFFF (modNuc (fun n => { n with restarting := true, ready := false }) s)) s

/-- NUCLEUS_RESTART (R542): the fault reports made meanwhile are taken, every unit is audited, commands are served. -/
def execNucleusRestart (s : State) : Out :=
  act (s.hub.ready && s.hub.rstN && s.nuc.restarting && !s.nuc.fatal) (fun s =>
    let fs := s.nuc.pendFaults
    let s := modNuc (fun n => { n with restarting := false, ready := true, pendFaults := [] }) s
    nucNext (auditAll (fs.foldl (fun s f => faultTaken f.1 f.2 s) s))) s

end Sys2Proof.Machine
end

