-- ==== Sys2Proof/Machine/Resets.lean ====
section
/-! DEFINITION. Instance resets, SR-IOV, partitions and MTU invalidation (R116, R125, R128 to R134, R145 to R152). -/

namespace Sys2Proof.Machine

open Sys2Proof

/-! ### The start stage (R129, R130, R145) -/

/-- Register pairs whose low words lie in the n bytes from lo on are as after a reset: nothing latched, nothing held (R10). -/
def pairsFresh (lo n : Nat) (s : State) : State :=
  let other (k : Nat) : Bool := k < lo || lo + n ≤ k
  { s with latch := s.latch.filter fun e => other e.1, hold := s.hold.filter fun e => other e.1 }

/-- What a descriptor that a reset ends has met: late where it had an effect and its last one was (R44, R130). -/
def abortOut (x : Item) (part : Bool) : Outcomes :=
  let o := x.out
  let late := o.effect && x.last.any fun t => endsLate x o t.rts
  { o with effect := o.effect || part, late := o.late || late }

/-- The ABORT_RESET record of a descriptor (R130). -/
def abortRec (x : Item) (at_ : Rts) (part : Bool) (s : State) : Rec :=
  let o := abortOut x part
  { tag := x.tag, status := 0x20, sq := x.sq, cond := condOf o 0x20 false (s.eph.st != .locked)
    doneRts := at_, result := x.result, opcode := BitVec.ofNat 8 x.opcode, timeEpoch := s.eph.timeEpoch
    irqNow := x.irqNow, item := some x.id, sqHead := x.resetHead }

/-- Acceptance order of held ABORT_RESET records (R130). -/
def recBefore (a b : Rec) : Bool := a.item.getD 0 < b.item.getD 0

/-- A descriptor is over: its ABORT_RESET record is held under the CQ that its SQ named (R130), and one that had not ended
yet counts as completed (R138). -/
def abortItem (d : Nat) (part : Bool) (s : State) : State :=
  match findItem d s with
  | none => s
  | some x =>
    let r := abortRec x s.eph.now part s
    let s := if x.stage = .ended then s else estComplete x 0x20 s
    modCq x.inst x.cq (fun c => { c with aborts := insertBy recBefore r c.aborts })
      (modItem d (fun y => { y with stage := .ended, draining := false }) s)

/-- A pulse of the EVENT has risen, so its falling edge stays (R129). -/
def pulseRisen (d : Nat) (s : State) : Bool := s.evt.toList.any fun p => p.queue.any fun a => a.item = d && a.kind == .fall

/-- What the start stage makes of one accepted descriptor: over at once, or an item of the drain. -/
def takeOver (x : Item) (s : State) : State :=
  if x.resetHead.isSome then s
  else
    let s := modItem x.id (fun y => { y with resetHead := some s.inst[x.inst.val].sq[x.sq.val].head }) s
    if !x.started then abortItem x.id false s
    else if pulseRisen x.id s then abortItem x.id true s
    else modItem x.id (fun y => { y with draining := true }) s

/-- The drain items of an instance (R129). -/
def drainItems (i : InstId) (s : State) : List Item := s.items.filter fun x => x.inst = i && x.draining

/-- Rings as the start stage leaves them: DISABLED, configuration at reset values, epochs kept; ABORT_RESET records stay
held, and ring-level ones not yet written are discarded (R107, R128, R130). -/
def ringsReset (x : Inst) : Inst :=
  { x with
    sq := x.sq.map fun q => { epoch := q.epoch }
    cq := x.cq.map fun c => { epoch := c.epoch, aborts := c.aborts } }

/-- Take the instance's EVT actions away, but for falling edges of performed pulses (R129). -/
def evtReset (i : InstId) (s : State) : State :=
  { s with evt := s.evt.map fun p =>
      { p with queue := p.queue.filter fun a => a.inst != i || a.kind == .fall, held := p.held.filter fun a => a.inst != i } }

/-- The pages that zeroing will write: those mapped with shared 0 at T0 (R132, R147). Of a context that is disabled the spec
does not say: none (log entry 59). -/
def zeroPages (i : InstId) (s : State) : List (Nat × Nat) :=
  if s.mtu[i.val].enable then
    ((tableLeaves s.mtu[i.val] s).filter fun f => !f.shared).map fun f => (f.dpa, f.size)
  else []

/-- Bin sets that a partition of the instance owns are emptied and unsealed (R338). -/
def binsReset (i : InstId) (s : State) : State :=
  let mine (x : BinSet) : Bool := x.valid && s.parts[x.owner.val].valid && s.parts[x.owner.val].owner = i
  { s with dies := s.dies.map fun d =>
      { d with sets := d.sets.map fun x => if mine x then { x with isSealed := false, sealCount := 0 } else x
               queues := Vector.ofFn fun q : Fin 32 => if mine d.sets[(setOf q).val] then [] else d.queues[q.val] } }

/-- Drain is over: zeroing starts (R129). -/
def drainCheck (i : InstId) (s : State) : State :=
  if s.inst[i.val].st = .draining && drainItems i s = [] then
    modInst i (fun x => { x with st := .zeroing, drainCount := 0 }) s
  else s

/-- The start stage of an instance reset (R128, R129, R145, R159, R407). -/
def resetStart (i : InstId) (removing inFlr : Bool) (s : State) : State :=
  if s.inst[i.val].st = .off then s
  else
    let s := modInst i (fun x => { x with gen := x.gen + 1, st := .draining, removing := x.removing || removing
                                          inPfFlr := x.inPfFlr || inFlr, zeroed := false, resetAt := s.eph.ticks }) s
    let s := (s.items.filter fun x => x.inst = i).foldl (fun s x => takeOver x s) s
    let s := pairsFresh (0x200000 + 0x1000 * i.val) 0x400 (evtReset i (modInst i ringsReset s))
    let s := { s with parts := s.parts.map fun p => if p.owner = i then { p with imageValid := false } else p }
    let s := orphanWhere (fun l => l.st = .held && l.inst = i) (dropWaiters (fun q => q.inst = i) s)
    let s := binsReset i s
    let s := modInst i (fun x => { x with zeroList := zeroPages i s, drainCount := satNat 16 (drainItems i s).length }) s
    let s := if s.mtu[i.val].enable then logBadTables i s else s
    drainCheck i (pressureUpdate i s)

/-- VF_FLR (R68, R128); before ready it has no effect here (R558). -/
def execVfFlr (i : InstId) (s : State) : Out :=
  act (live s && i.val != 0) (fun s => resetStart i false false { s with fns := upd s.fns i fun _ => {} }) s

/-- PF_FLR (R68, R128). -/
def execPfFlr (s : State) : Out :=
  act (live s) (fun s =>
    (List.finRange 64).foldl (fun s i => resetStart i false true s) { s with fns := Vector.replicate 64 {} }) s

/-- INSTANCE_RESET (R128): a write of reset for instance 0 is ignored. -/
def execInstanceReset (i : InstId) (s : State) : Out := act (live s && i.val != 0) (resetStart i false false) s

/-! ### SR-IOV (R131, R152, R558) -/

/-- VF_ENABLE_CLEAR (R131). -/
def execVfEnableClear (s : State) : Out :=
  act (s.hub.rstN && s.hub.stage0 && s.vfEnable) (fun s =>
    let s := { s with vfEnable := false }
    if live s then
      ((List.finRange 64).filter fun i => i.val != 0).foldl (fun s i => resetStart i true false s)
        { s with fns := Vector.ofFn fun i : Fin 64 => if i.val = 0 then s.fns[0] else {} }
    else s) s

/-- VF instances that are OFF and enabled become READY with no grant (R152); a grant that the PF has written meanwhile is
kept (log entry 59). -/
def vfReady (s : State) : State :=
  if s.vfEnable then
    ((List.finRange 64).filter fun i => i.val != 0 && i.val ≤ s.numVFs.val && s.inst[i.val].st = .off).foldl
      (fun s i => modInst i (fun x => { x with st := .ready, est := x.est.map fun e => { e with sinceReady := 0 } }) s) s
  else s

/-- VF_ENABLE_SET (R152); before ready the VF instances stay OFF (R558). -/
def execVfEnableSet (numVFs : Fin 64) (s : State) : Out :=
  act (s.hub.rstN && s.hub.stage0 && !s.vfEnable) (fun s =>
    let s := { s with vfEnable := true, numVFs := numVFs }
    if live s then vfReady s else s) s

/-! ### Halt, observe, drain (R129, R480, R512) -/

/-- The valid partitions of an instance. -/
def partsOf (i : InstId) (s : State) : List (Fin 64) :=
  (List.finRange 64).filter fun n => s.parts[n.val].valid && s.parts[n.val].owner = i

/-- The instance resets: it is DRAINING or ZEROING. -/
def resetting (i : InstId) (s : State) : Bool := s.inst[i.val].st = .draining || s.inst[i.val].st = .zeroing

/-- A core halts: its messages without a grant carry the old generation, and their mailboxes discard and count them
(R170, R182). -/
def haltCore (c : CoreId) (s : State) : State :=
  let s := takeGrants s.cores[c.val].sendBuf.length c s
  let ms := s.cores[c.val].sendBuf.filter fun m => m.step != .granted
  stopCore c (ms.foldl (fun s m => countDrop m.dest s) s)

/-- Stop what runs on a partition; the LAUNCH itself drains, with what its program has brought it (R93, R130, R408). -/
def haltPart (n : Fin 64) (s : State) : State :=
  let s := match s.parts[n.val].item with
    | some d => launchTake n d (logInx n s)
    | none => s
  modPart n (fun p => { p with firstFault := none }) ((coresOf n s).foldl (fun s c => haltCore c s) s)

/-- RESET_HALT (R129): cores of the instance's partitions stop issue. -/
def execResetHalt (i : InstId) (s : State) : Out :=
  act (live s && resetting i s) (fun s => (partsOf i s).foldl (fun s n => haltPart n s) s) s

/-- The result that a descriptor in progress has reached keeps its value (R130). -/
def keepResult (x : Item) (s : State) : State :=
  let r : Nat :=
    if x.opcode = 4 then searchDone x.id s
    else if x.opcode = 6 then (s.halo.job.filter fun j => j.item = x.id).elim 0 HtuJob.next
    else if x.opcode = 7 then (windowOf x.id s).elim 0 capBytes
    else x.result.toNat
  modItem x.id (fun y => { y with result := BitVec.ofNat 64 r }) s

/-- The QUERYs that the fabric gave an instance in an old generation and that wait for the HTU end there (R129). -/
def dropRemote (i : InstId) (s : State) : State :=
  let old := s.halo.reqs.filter fun r => r.remote.isSome && r.inst = i && r.gen != s.inst[i.val].gen
  old.foldl (fun s r => jobEnd r (.fails .stale) (htuTakeReq r s)) s

/-- Every engine stops old work of an instance at its boundary (R129, R443, R480, R512). An HTU that waits for relock
cannot reach one, unless it is reset (R440). -/
def observeAll (i : InstId) (force : Bool) (s : State) : State :=
  let ds := (drainItems i s).filter fun x => x.stage = .running
  let s := ds.foldl (fun s x => keepResult x s) s
  let s := ds.foldl (fun s x => dropSearch x.id s) s
  let s := dropRemote i s
  let stuck := !force && !s.halo.htuLocked && !s.halo.loading
  let s := modHalo (fun h => { h with job := h.job.filter fun j => stuck || !ds.any (fun x => x.id = j.item) }) s
  remoteServe (fabObserve i (capObserve i s))

/-- RESET_OBSERVE. -/
def execResetObserve (i : InstId) (s : State) : Out := act (live s && resetting i s) (observeAll i false) s

/-- None of a drain item's requests remains outstanding (R129). -/
def itemClear (x : Item) (s : State) : Bool :=
  if x.opcode = 1 then
    let n := launchPart x
    s.parts[n.val].item != some x.id && !s.fab.reqs.any fun q =>
      match q.owner with
      | .core c _ => coreInst c s = x.inst
      | .search _ _ => false
  else if x.opcode = 4 then
    (workOf x.id s).isNone && !s.fab.reqs.any fun q =>
      match q.owner with
      | .core _ _ => false
      | .search d _ => d = x.id
  else if x.opcode = 6 then !s.halo.job.any fun j => j.item = x.id
  else if x.opcode = 7 then !(s.sp.armed.any fun e => e.1 = x.id) && (windowOf x.id s).isNone
  else true

/-- A drain item leaves the count: it ends now (R129, R130). -/
def drainDone (i : InstId) (d : Nat) (s : State) : State :=
  let s := abortItem d false s
  drainCheck i (modInst i (fun x => { x with drainCount := satNat 16 (drainItems i s).length }) s)

/-- RESET_DRAIN_ITEM_DONE. -/
def execResetDrainItemDone (i : InstId) (d : Nat) (s : State) : Out :=
  match findItem d s with
  | none => .next s
  | some x =>
    act (live s && x.inst = i && x.draining && s.inst[i.val].st = .draining && itemClear x s) (drainDone i d) s

/-! ### Escalation (R129, R151) -/

/-- The engines that hold a drain item. -/
def enginesOf (x : Item) (s : State) : List Engine :=
  if x.opcode = 1 then (if itemClear x s then [] else [.fabric])
  else if x.opcode = 4 then
    ((List.finRange 16).filter fun w => s.wks[w.val].queries.any fun q => q.ofItem x.id).map .wk ++
      (if s.fab.reqs.any (fun q => match q.owner with
        | .core _ _ => false
        | .search d _ => d = x.id) then [.fabric] else [])
  else if x.opcode = 6 then (if itemClear x s then [] else [.htu])
  else if x.opcode = 7 then (if itemClear x s then [] else [.sp])
  else []

/-- The unit that an engine is; the fabric interface has none (R589). -/
def unitOfEngine : Engine → Option (Fin 622)
  | .dma n => some (unitDma n)
  | .wk n => some (unitWk n)
  | .htu => some unitHtu
  | .sp => some unitSp
  | .fabric => none

/-- LAUNCHes of other instances with requests in the fabric interface end when it is reset. -/
def fabricReset (s : State) : State :=
  let busy (n : Fin 64) : Bool := s.fab.reqs.any fun q =>
    match q.owner with
    | .core c _ => partOf c s = some n
    | .search _ _ => false
  let ns := (List.finRange 64).filter fun n => s.parts[n.val].item.isSome && busy n
  let ds := s.fab.reqs.filterMap fun q =>
    match q.owner with
    | .core _ _ => none
    | .search d _ => some d
  let s := { s with fab := { s.fab with reqs := [] } }
  let s := ns.foldl (fun s n =>
    launchEnd n (fun o => { o with engineFault := true }) (orphanCores n ((coresOf n s).foldl (fun s c => stopCore c s) s))) s
  (ds.dedup).foldl (fun s d => searchEnd d (fun o => { o with engineFault := true }) s) s

/-- Work of other instances on an engine that is reset completes with ENGINE_FAULT. -/
def engineReset (e : Engine) (s : State) : State :=
  let s := { s with engReset := if s.engReset.contains e then s.engReset else s.engReset ++ [e] }
  match e with
  | .dma _ => s
  | .wk n => forceWalker n s
  | .htu => htuEnd (fun o => { o with engineFault := true }) s
  | .sp => forceSp s
  | .fabric => fabricReset s

/-- RESET_ESCALATE (R129): one entry for each engine; the drain is over. -/
def execResetEscalate (i : InstId) (s : State) : Out :=
  act (live s && s.inst[i.val].st = .draining && drainItems i s != [] && s.inst[i.val].resetAt + usTicks 1000 ≤ s.eph.ticks)
    (fun s =>
      let n := (drainItems i s).length
      let es := ((drainItems i s).flatMap fun x => enginesOf x s).dedup
      let s := observeAll i true ((partsOf i s).foldl (fun s n => haltPart n s) s)
      let s := es.foldl (fun s e =>
        let s := logPf 0x0221 i.val 0 n ((unitOfEngine e).elim 0xFFFF Fin.val) s
        engineReset e { s with escalations := satInc s.escalations }) s
      (drainItems i s).foldl (fun s x => drainDone i x.id s) s) s

/-- ENGINE_RESET_DONE (R151). -/
def execEngineResetDone (e : Engine) (s : State) : Out :=
  act (live s && s.engReset.contains e) (fun s => remoteServe { s with engReset := s.engReset.filter fun x => x != e }) s

/-- A ready descriptor waits for an engine alone (R151). -/
def waitsAlone (e : Engine) (s : State) (x : Item) : Bool :=
  x.stage = .ready &&
    (match e with
     | .dma _ => (x.opcode = 2 || x.opcode = 3) && !(dmaNamed x s).isEmpty && (dmaOpen x s).isEmpty
     | .wk _ => (x.opcode = 4 || x.opcode = 5) && s.inst[x.inst.val].wkMask != 0 &&
         !(List.finRange 16).any fun w => wkServes 0 x.inst w s
     | .htu => x.opcode = 6
     | .sp => x.opcode = 7
     | .fabric => false)

/-- ENGINE_RESET_TIMEOUT (R151): the engine goes out of service, with the escalation event's index as cause; for the
fabric interface, which is no unit, every port does. -/
def execEngineResetTimeout (e : Engine) (s : State) : Out :=
  act (live s && s.engReset.contains e) (fun s =>
    let s := { s with engReset := s.engReset.filter fun x => x != e }
    let s := match unitOfEngine e with
      | some u => unitOut u 0x21 s
      | none => (List.finRange 8).foldl (fun s p => unitOut (unitPort p) 0x21 s) s
    ((s.items.filter fun x => waitsAlone e s x).map Item.id).foldl
      (fun s d => endEarly d (fun o => { o with engineFault := true }) s) s) s

/-! ### Zeroing and the end (R128, R129, R131, R132, R401) -/

/-- An address is in the pages to zero, on memory that is in service (R132). -/
def zeroes (pages : List (Nat × Nat)) (s : State) (a : Nat) : Bool :=
  pages.any (fun p => p.1 ≤ a && a < p.1 + p.2) && !channelOut s a

/-- Zero the instance's pages: poison in what is written clears (R132). -/
def zeroMemory (i : InstId) (s : State) : State :=
  let z := zeroes s.inst[i.val].zeroList s
  { s with mem := { s.mem with dpa := s.mem.dpa.filter fun e => !z e.1
                               poisoned := s.mem.poisoned.filter fun l => !z (64 * l)
                               latent := s.mem.latent.filter fun e => !z (64 * e.1) } }

/-- Zero a core's local memory, AccMem and mailboxes; its slots and in-array ledgers are as after a reset, its HACC and spill
ring emptied (R132, R223, R260, R301, R338). -/
def zeroCore (k : Core) : Core :=
  { k with mem := [], poisoned := [], latent := [], slots := Vector.replicate 64 {}, ledger := Vector.replicate 256 0
           foldSteps := Vector.replicate 256 0, hacc := [], spillCount := 0
           mbox := k.mbox.map fun m => { m with msgs := [], granted := [], waiting := [], closed := false } }

/-- The HTU's working state of an instance goes: its matrix, with a load of it in progress (R132, R440). -/
def zeroHtu (i : InstId) (s : State) : State :=
  if s.halo.htuOwner = i && s.halo.matrixAddr.isSome then
    htuLight (modHalo (fun h => { h with htuLoaded := false, loading := false, matrix := [], outShift := 0, matrixAddr := none }) s)
  else s

/-- The zero stage of an instance (R132, R401). -/
def zeroInst (i : InstId) (s : State) : State :=
  let s := zeroMemory i s
  let cs := (partsOf i s).flatMap fun n => coresOf n s
  let s := zeroHtu i (cs.foldl (fun s c => modCore c zeroCore s) s)
  freeBuffersOf i (modInst i (fun x => { x with zeroList := [] }) s)

/-- The configuration of an instance at its reset values; generation, state, rings and counts stay (R128, R131). -/
def configReset (i : InstId) (x : Inst) : Inst :=
  let r := Inst.reset i
  { x with weight := r.weight, ageUs := r.ageUs, wkMask := r.wkMask, dmaMask := r.dmaMask, spEn := r.spEn
           fabEn := r.fabEn, htuEn := r.htuEn, evtMask := r.evtMask, shedMode := r.shedMode, lw := r.lw, hw := r.hw
           pressureVec := r.pressureVec, pressureIrqEn := r.pressureIrqEn, margin := r.margin, doneIrqEn := r.doneIrqEn }

/-- An instance enters READY after a reset (R129, R139). -/
def enterReady (x : Inst) : Inst :=
  { x with st := .ready, resetDone := true, removing := false, inPfFlr := false, zeroed := false
           est := x.est.map fun e => { e with sinceReady := 0 } }

/-- The records of an instance that removal discards, and the descriptors that go with them (R131). -/
def discardRecords (i : InstId) (s : State) : State :=
  let n := (s.inst[i.val].cq.toList.map fun c => c.aborts.length + c.held.length).sum
  let s := { s with items := s.items.filter fun x => x.inst ≠ i }
  logBoth i 0x0222 0 n 0xFFFF
    (modInst i (fun x => { x with cq := x.cq.map fun c => { c with aborts := [], held := [] } }) s)

/-- A removed instance: OFF with its configuration at reset values, READY at once if VF Enable has been set again
(R131, R152). -/
def removed (i : InstId) (s : State) : State :=
  let s := modInst i (fun x => { configReset i x with st := .off, removing := false, inPfFlr := false, zeroed := false })
    (discardRecords i s)
  let ns := (List.finRange 64).filter fun n => s.parts[n.val].owner = i
  let s := ns.foldl (fun s n => pairsFresh (0x241000 + 8 * n.val) 8 s) s
  let s := { s with parts := s.parts.map fun p => if p.owner = i then {} else p
                    fab := { s.fab with domain := upd s.fab.domain i fun _ => none, domainField := upd s.fab.domainField i fun _ => 0 } }
  let s := pairsFresh (0x300000 + 0x20 * i.val) 0x10 (modMtu i (fun m => { cache := m.cache, suppressed := m.suppressed }) s)
  if s.vfEnable && i.val ≤ s.numVFs.val then modInst i enterReady s else s

/-- The end of a PF FLR, once every instance that it reset has been zeroed: all configuration returns, then those
instances are READY together (R128). -/
def pfFlrEnd (s : State) : State :=
  if (List.finRange 64).any fun j => s.inst[j.val].inPfFlr && !s.inst[j.val].zeroed then s
  else
    let js := (List.finRange 64).filter fun j => s.inst[j.val].inPfFlr
    let s := { s with inst := Vector.ofFn fun j : Fin 64 => configReset j s.inst[j.val]
                      parts := Vector.replicate 64 {}
                      mtu := s.mtu.map fun m => { m with root := 0, enable := false } }
    let s := (List.range 64).foldl (fun s k => pairsFresh (0x300000 + 0x20 * k) 8 s) (pairsFresh 0x241000 0x200 s)
    js.foldl (fun s j => if s.inst[j.val].removing then removed j s else modInst j enterReady s) s

/-- RESET_ZEROING_DONE (R128, R129, R131, R132). -/
def execResetZeroingDone (i : InstId) (s : State) : Out :=
  act (live s && s.inst[i.val].st = .zeroing && !s.inst[i.val].zeroed) (fun s =>
    let s := zeroInst i s
    if s.inst[i.val].inPfFlr then pfFlrEnd (modInst i (fun x => { x with zeroed := true }) s)
    else if s.inst[i.val].removing then removed i s
    else
      let s := modInst i enterReady s
      if s.inst[i.val].doneIrqEn then pfIrq s else s) s

/-! ### Partitions (R115, R116, R153) -/

/-- Two rectangles share a core. -/
def rectsMeet (a b : Part) : Bool :=
  a.gx0.toNat < b.gx0.toNat + b.width.toNat && b.gx0.toNat < a.gx0.toNat + a.width.toNat &&
    a.gy0.toNat < b.gy0.toNat + b.height.toNat && b.gy0.toNat < a.gy0.toNat + a.height.toNat

/-- Row 2 of R116 for a new partition n. -/
def partBad (n : Fin 64) (p : Part) (s : State) : Bool :=
  p.valid && (p.width = 0 || p.height = 0 || 24 < p.gx0.toNat + p.width.toNat || 24 < p.gy0.toNat + p.height.toNat ||
    (List.finRange 64).any fun m => m != n && s.parts[m.val].valid && rectsMeet p s.parts[m.val])

/-- Row 3: a core of the partition as it stands runs a program. -/
def partRuns (n : Fin 64) (s : State) : Bool := (coresOf n s).any fun c => s.cores[c.val].st = .running

/-- The low word of INST_PARTn. -/
def partLow (p : Part) : Word :=
  BitVec.ofNat 32 (p.gx0.toNat + p.gy0.toNat * 32 + p.width.toNat * 1024 + p.height.toNat * 32768)

/-- The key of a pair's latch and holding register (R10): the offset of its low word in PF BAR0. -/
def partKey (n : Fin 64) : Nat := 0x241000 + 8 * n.val

/-- A commit of INST_PARTn: the held low word, or the current one, with the high word v (R10, R116). -/
def partCommit (n : Fin 64) (v : Word) (s : State) : State :=
  let p := s.parts[n.val]
  let lo := (Tab.find s.hold (partKey n)).getD (partLow p)
  let s := { s with hold := Tab.del s.hold (partKey n) }
  let new : Part := { gx0 := BitVec.ofNat 5 (bits lo 4 0), gy0 := BitVec.ofNat 5 (bits lo 9 5)
                      width := BitVec.ofNat 5 (bits lo 14 10), height := BitVec.ofNat 5 (bits lo 19 15)
                      valid := bit v 31, owner := Fin.ofNat 64 (bits v 5 0) }
  let same := new.gx0 = p.gx0 && new.gy0 = p.gy0 && new.width = p.width && new.height = p.height &&
    new.valid = p.valid && new.owner = p.owner
  let bad := partBad n new s
  let busy := partRuns n s
  if same then s
  else if bad || busy then { s with partOverlap := s.partOverlap || bad, partBusy := s.partBusy || busy }
  else modPart n (fun _ => new) s

/-- PARTITION_COMMIT. -/
def execPartitionCommit (n : Fin 64) (v : Word) (s : State) : Out := act (live s) (partCommit n v) s

/-! ### MTU invalidation (R125, R147, R153) -/

/-- A write of MTU_INVAL. -/
def invalWrite (v : Word) (s : State) : State :=
  let all := bit v 7
  let i : InstId := Fin.ofNat 64 (bits v 5 0)
  let go := bit v 30 && s.invalJob.isNone
  { s with invalAll := all, invalInst := i, invalJob := if go then some (all, i, s.invalAddr) else s.invalJob }

/-- MTU_INVAL_GO: ignored while busy is set. -/
def execMtuInvalGo (v : Word) (s : State) : Out := act (live s && bit v 30 && s.invalJob.isNone) (invalWrite v) s

/-- A cached entry goes: of the 2 MiB page, or of the 1 GiB block that holds the IVA. -/
def invalidated (all : Bool) (iva : Nat) (e : Nat × Dword) : Bool :=
  all || e.1 = iva / 2 ^ 21 || (bit e.2 4 && e.1 / 512 = iva / 2 ^ 30)

/-- MTU_INVAL_DONE. -/
def execMtuInvalDone (s : State) : Out :=
  match s.invalJob with
  | none => .next s
  | some (all, i, a) =>
    act (live s) (fun s =>
      modMtu i (fun m => { m with cache := m.cache.filter fun e => !invalidated all a.toNat e }) { s with invalJob := none }) s

end Sys2Proof.Machine
end

