-- ==== Sys2Proof/Machine/Startup.lean ====
section
/-! DEFINITION. Resets of the device, bring-up, flash, PCIe configuration, loss of HREF_IN and JTAG (17_startup.md;
18_package.md). -/

namespace Sys2Proof.Machine

open Sys2Proof

/-- Change the HUB block. -/
def modHub (f : Hub → Hub) (s : State) : State := { s with hub := f s.hub }

/-! ### Resets of the device (R549 to R551, R560, R561, R566) -/

/-- What every reset keeps of the HUB block: fuses, flash, the pins and JTAG (R549). -/
def hubKeeps (h : Hub) : Hub :=
  { gradeCode := h.gradeCode, stepping := h.stepping, bypassedArrays := h.bypassedArrays, fusedArrays := h.fusedArrays
    colMap := h.colMap, fusedVersion := h.fusedVersion, fusedCapacity := h.fusedCapacity, fusedRanks := h.fusedRanks
    flash := h.flash, perstN := h.perstN, jtag := h.jtag }

/-- The state of a block where every block is initialised; what lies outside the device, the queue of commands, what
has been sent and the count of free values stay. -/
def blockReset (s : State) : State :=
  let r := State.reset
  { r with hub := hubKeeps s.hub, mem := { r.mem with host := s.mem.host, hostPoisoned := s.mem.hostPoisoned }
           free := s.free, out := s.out, pending := s.pending }

/-- COLD_RESET (R549, R550, R560, R587): RST_N goes low; every EVT pin goes low. -/
def execColdReset (s : State) : Out :=
  .next ((List.finRange 8).foldl (fun s n => if s.evt[n.val].level then emit (.evt n false s.eph.now) s else s) s
    |> blockReset)

/-- A pair of EPH, EVT, HALO or TIDE, by its offset (R29): kept across conventional and warm resets. -/
def pairKept (k : Nat) : Bool :=
  (0x100000 ≤ k && k < 0x200000) || (0x680000 ≤ k && k < 0x700000) || (0x800000 ≤ k && k < 0x900000) ||
    (0x2000000 ≤ k && k < 0x2800000)

/-- HALO as it comes out of a conventional or warm reset (R551): the matrix is discarded, with a load of it in progress. -/
def haloKeeps (h : Halo) : Halo :=
  { h with htuLoaded := false, loading := false, matrix := [], outShift := 0, matrixAddr := none, job := none, reqs := [] }

/-- A conventional or warm reset (R549 to R551, R561): EPH with EVT and HALO with TIDE stay, EVT queues are emptied. -/
def partReset (cause : BitVec 3) (s : State) : State :=
  let r := blockReset s
  htuLight { r with eph := s.eph, evt := s.evt.map fun p => { p with queue := [], held := [] }
                    evtin := s.evtin, halo := haloKeeps s.halo, tide := s.tide
                    latch := s.latch.filter fun e => pairKept e.1, hold := s.hold.filter fun e => pairKept e.1
                    hub := { r.hub with rstN := true, cause := cause, cal := s.hub.cal, hrefLost := s.hub.hrefLost } }

/-- The code of HUB_RESET_CAUSE (R567). -/
def causeOf : ConvCause → BitVec 3
  | .perst => 1
  | .hot => 2
  | .linkDown => 3

/-- CONVENTIONAL_RESET (R549, R560). -/
def execConventionalReset (cause : ConvCause) (s : State) : Out :=
  act s.hub.rstN (fun s =>
    let s := partReset (causeOf cause) s
    if cause = .perst then modHub (fun h => { h with perstN := false }) s else s) s

/-- A warm reset keeps the PCIe link and configuration space (R549, R551). -/
def warmReset (s : State) : State :=
  let r := partReset 4 s
  { r with fns := s.fns, vfEnable := s.vfEnable, numVFs := s.numVFs, hub := { r.hub with linkUp := s.hub.linkUp } }

/-- A write of HUB_RESET (R560, R567): warm acts with key 0xA5, and not during bring-up. -/
def hubResetWrite (v : Word) (s : State) : State :=
  if bit v 31 && bits v 7 0 = 0xA5 && (s.hub.ready || s.hub.recovery) then warmReset s else s

/-- WARM_RESET. -/
def execWarmReset (v : Word) (s : State) : Out := act (s.hub.rstN && s.hub.stage0) (hubResetWrite v) s

/-! ### Bring-up (R552 to R558, R564, R565) -/

/-- RST_N_RELEASE (R555). -/
def execRstNRelease (s : State) : Out := act (!s.hub.rstN) (modHub fun h => { h with rstN := true }) s

/-- PERST_N_RELEASE (R558). -/
def execPerstNRelease (s : State) : Out :=
  act (s.hub.rstN && !s.hub.perstN) (modHub fun h => { h with perstN := true, linkUp := h.stage0 }) s

/-- STAGE0_DONE (R555, R558). -/
def execStage0Done (s : State) : Out :=
  act (s.hub.rstN && !s.hub.stage0) (modHub fun h => { h with stage0 := true, stage := 1, linkUp := h.linkUp || h.perstN }) s

/-- A slot's verification as HUB_BOOT_ERR codes it, 0 for a pass (R554): the security version is not below the fused
one, and the board configuration lies within R553. -/
def slotError (h : Hub) : SlotCheck → Nat
  | .fail k => k.val + 1
  | .pass _ v c =>
    if v.toNat < h.fusedVersion.toNat then 5
    else if 5 < c.trefSel.toNat || 2 < c.setpoint.toNat || c.portMode.toList.any (fun m => m = 3) then 6
    else 0

/-- The device enters recovery (R564). -/
def recovery (h : Hub) : Hub := { h with bootFail := true, recovery := true, stage := 0xF }

/-- The board configuration is applied (R63, R485, R553, R555): tref_sel and setpoint at a cold reset only. -/
def boardApply (c : BoardConfig) (s : State) : State :=
  let s := { s with fab := { s.fab with ports := Vector.ofFn fun p : Fin 8 =>
    { s.fab.ports[p.val] with mode := c.portMode[p.val] } } }
  let s := if s.hub.cause = 0 then
      { s with eph := { s.eph with trefSel := c.trefSel }, tide := { s.tide with setpoint := c.setpoint } }
    else s
  modHub (fun h => { h with board := c, stage := 3, haloDone := h.cause != 0 }) s

/-- IMAGE_VERIFIED (R554): slot A, then slot B; with neither, recovery. -/
def execImageVerified (a b : SlotCheck) (s : State) : Out :=
  act (s.hub.rstN && s.hub.stage = 1) (fun s =>
    let go (slot : Bool) (c : SlotCheck) (s : State) : State :=
      match c with
      | .fail _ => s
      | .pass adv v cfg =>
        boardApply cfg (modHub (fun h => { h with slot := slot, advanceTo := if adv then some v else none }) s)
    let ea := slotError s.hub a
    let s := modHub (fun h => { h with errA := BitVec.ofNat 8 ea }) s
    if ea = 0 then go false a s
    else
      let eb := slotError s.hub b
      let s := modHub (fun h => { h with errB := BitVec.ofNat 8 eb }) s
      if eb = 0 then go true b s else modHub recovery s) s

/-- LP5X_TRAINING_DONE (R555, R557): the channels that fail at each rate. -/
def execLp5xTrainingDone (fail8533 fail6400 : BitVec 4) (s : State) : Out :=
  act (s.hub.rstN && s.hub.stage = 3 && !s.hub.lp5xDone) (fun s =>
    let slow := s.hub.board.force6400 || (fail8533 != 0 && s.hub.board.fallback)
    let fail := if slow then fail6400 else fail8533
    let ok := fail = 0
    { s with hub := { s.hub with lp5xDone := true, rate6400 := slow, chFailed := if ok then 0 else 0xF }
             mem := { s.mem with chOk := if ok then 0xF else 0, lp5xPresent := ok, capacity := s.hub.fusedCapacity
                                 ranks := s.hub.fusedRanks } }) s

/-- An address of LP5X memory. -/
def inLp5x (s : State) (a : Nat) : Bool :=
  match regionOf s a with
  | .lp5x _ => true
  | _ => false

/-- LP5X_ZEROING_DONE (R419, R555). -/
def execLp5xZeroingDone (s : State) : Out :=
  act (s.hub.rstN && s.hub.stage = 3 && s.hub.lp5xDone && s.mem.lp5xPresent && !s.hub.zeroDone) (fun s =>
    { s with hub := { s.hub with zeroDone := true }
             mem := { s.mem with dpa := s.mem.dpa.filter fun e => !inLp5x s e.1
                                 poisoned := s.mem.poisoned.filter fun l => !inLp5x s (64 * l)
                                 latent := s.mem.latent.filter fun e => !inLp5x s (64 * e.1) } }) s

/-- A unit that stage 3c tests: a core, a walker or a DMA channel (R555). -/
def tested (u : Fin 622) : Bool := u.val < 0x260

/-- The fused column map in a core (R4, R555). -/
def coreMap (h : Hub) (c : CoreId) (k : Core) : Core :=
  let m := Tab.get (false, (0 : BitVec 4), (16 : BitVec 5)) h.colMap c.val
  { k with bypassed := m.1, badCol := m.2.1, cols := m.2.2 }

/-- COMPUTE_BRINGUP_DONE (R555, R556). -/
def execComputeBringupDone (failed : List (Fin 622)) (s : State) : Out :=
  act (s.hub.rstN && s.hub.stage = 3 && !s.hub.computeDone) (fun s =>
    { s with cores := Vector.ofFn fun c : Fin 576 => coreMap s.hub c (zeroCore s.cores[c.val])
             hub := { s.hub with computeDone := true, testFailed := failed.filter tested }
             mem := { s.mem with dpa := s.mem.dpa.filter fun e => inLp5x s e.1
                                 poisoned := s.mem.poisoned.filter fun l => inLp5x s (64 * l)
                                 latent := s.mem.latent.filter fun e => inLp5x s (64 * e.1) } }) s

/-- Every laser, or every ring, of a port failed calibration (R556). -/
def portFailed (c : CalResult) (p : Fin 8) : Bool :=
  bits c.lasers (4 * p.val + 3) (4 * p.val) = 15 || bits c.rings (8 * p.val + 7) (8 * p.val) = 255

/-- The state that bring-up assigns to a unit (R556). -/
def bootState (h : Hub) (u : Fin 622) : BitVec 2 :=
  match portOf u, lpOf u with
  | some p, _ => if portFailed h.cal p then 3 else 2
  | _, some c => if bit h.chFailed c.val then 3 else 0
  | _, _ =>
    if h.testFailed.contains u then 3
    else if u = unitHtu && !h.cal.htuOk then 3
    else 0

/-- A unit at bring-up (R545). -/
def bootUnit (h : Hub) (u : Fin 622) : UnitSt :=
  let st := bootState h u
  { st := st, fence := st != 0, tbl := st != 0 }

/-- A unit other than a port in QUARANTINE is not IN_SERVICE (R556). -/
def isDegraded (h : Hub) : Bool :=
  (List.finRange 622).any fun u => bootState h u != 0 && !((portOf u).isSome && bootState h u = 2)

/-- Stage 3 has ended: training, zeroing of what is present, Halo, compute (R555). -/
def stage3Done (s : State) : Bool :=
  s.hub.stage = 3 && s.hub.lp5xDone && (s.hub.zeroDone || !s.mem.lp5xPresent) && s.hub.haloDone && s.hub.computeDone

/-- UNITS_BUILT (R152, R554 to R556, R558, R565): the table is built, ready sets, the fused version advances. -/
def execUnitsBuilt (ms : Nat) (s : State) : Out :=
  act (s.hub.rstN && stage3Done s) (fun s =>
    let h := s.hub
    let out := (List.finRange 622).filter fun u => bootState h u = 3
    let version := match h.advanceTo with
      | some v => if h.fusedVersion.toNat < v.toNat then v else h.fusedVersion
      | none => h.fusedVersion
    let s := { s with nuc := { s.nuc with ready := true, units := Vector.ofFn fun u : Fin 622 => bootUnit h u }
                      halo := { s.halo with htuOos := s.halo.htuOos || bootState h unitHtu = 3 }
                      hub := { h with ready := true, stage := 5, degraded := isDegraded h, bootMs := satNat 16 ms
                                      unlogged := out, fusedVersion := version } }
    vfReady s) s

/-- STAGE3_TIMEOUT (R564): waits for temperature are not counted. -/
def execStage3Timeout (s : State) : Out :=
  act (s.hub.rstN && s.hub.stage = 3 && !s.halo.calWait) (modHub fun h => { recovery h with stageTimeout := 1 }) s

/-! ### PCIe configuration (R65, R99, R558) -/

/-- A function exists: the PF, or a VF that VF Enable covers. -/
def fnExists (fn : InstId) (s : State) : Bool := fn.val = 0 || (s.vfEnable && fn.val ≤ s.numVFs.val)

/-- Send the pending messages of a function that are masked no longer (R99). -/
def msixDrain (fn : InstId) (s : State) : State :=
  (List.finRange 32).foldl (fun s v =>
    let f := s.fns[fn.val]
    if bit f.pendingBits v.val && !bit f.masked v.val && !f.fnMask then
      msix fn v { s with fns := upd s.fns fn fun g => { g with pendingBits := g.pendingBits &&& ~~~(1#32 <<< v.val) } }
    else s) s

/-- What a read of a function's configuration space gives (R65). -/
def configData (fn : InstId) (s : State) : ConfigRead :=
  { deviceId := if fn.val = 0 then 0x0460 else 0x0461, classCode := 0x120000, totalVFs := 63, firstVfOffset := 1
    vfStride := 1, vfEnable := s.vfEnable, numVFs := s.numVFs, fn := s.fns[fn.val] }

/-- CONFIG_REQUEST (R65, R558): retry status before stage 0 ends; a read gives configuration space, a write sets what FnConfig
names. -/
def execConfigRequest (fn : InstId) (write : Option FnConfig) (s : State) : Out :=
  act (s.hub.rstN && fnExists fn s) (fun s =>
    if !s.hub.stage0 then emit (.config fn true none) s
    else
      match write with
      | none => emit (.config fn false (some (configData fn s))) s
      | some c =>
        msixDrain fn (emit (.config fn false none) { s with fns := upd s.fns fn fun f =>
          { f with memory := c.memory, master := c.master, msix := c.msix, fnMask := c.fnMask, mps := c.mps, mrrs := c.mrrs
                   relaxed := c.relaxed } })) s

/-! ### Flash (R563, R567) -/

/-- A flash operation's address is aligned (R567). -/
def flashAligned (op : Nat) (a : Word) : Bool := if op = 2 then a.toNat % 65536 = 0 else a.toNat % 4096 = 0

/-- go in HUB_FLASH_CTRL with op (R567): a misaligned address sets error. -/
def flashGo (op : Nat) (s : State) : State :=
  let s := modHub (fun h => { h with opField := BitVec.ofNat 2 op }) s
  if s.hub.flashBusy then s
  else if 2 < op || !flashAligned op s.hub.flashAddr then modHub (fun h => { h with flashError := true }) s
  else modHub (fun h => { h with flashBusy := true, flashOp := BitVec.ofNat 2 op, flashAt := h.flashAddr.toNat }) s

/-- The HUB block can be reached (R566, R567). -/
def hubUp (s : State) : Bool := s.hub.rstN && s.hub.stage0

def execFlashRead (s : State) : Out := act (hubUp s) (flashGo 0) s
def execFlashProgram (s : State) : Out := act (hubUp s) (flashGo 1) s
def execFlashErase (s : State) : Out := act (hubUp s) (flashGo 2) s

/-- What an operation does when it succeeds: an erased byte reads 0xFF (log entry 4). -/
def flashDo (h : Hub) : Hub :=
  if h.flashOp = 0 then { h with flashBuf := Memory.write 0 [] 0 (Memory.read 0xFF h.flash h.flashAt 4096) }
  else if h.flashOp = 1 then { h with flash := Memory.write 0xFF h.flash h.flashAt (Memory.read 0 h.flashBuf 0 4096) }
  else { h with flash := Memory.fill 0xFF h.flash h.flashAt 65536 0xFF }

/-- What a failed program or erase leaves in the region is undefined (R7). -/
def flashFailed (s : State) : State :=
  let n := if s.hub.flashOp = 0 then 0 else if s.hub.flashOp = 1 then 4096 else 65536
  let (d, s) := freeBytes n s
  modHub (fun h => { h with flashError := true, flash := Memory.write 0xFF h.flash h.flashAt d }) s

/-- FLASH_OP_DONE (R567). -/
def execFlashOpDone (ok : Bool) (s : State) : Out :=
  act (hubUp s && s.hub.flashBusy) (fun s =>
    modHub (fun h => { h with flashBusy := false }) (if ok then modHub flashDo s else flashFailed s)) s

/-! ### Loss of HREF_IN, JTAG (R579, R586) -/

/-- HREF_LOSS (R586): lasers and heaters go off, FATAL is logged and signalled, and the data path stops. -/
def execHrefLoss (s : State) : Out :=
  act (s.hub.rstN && !s.hub.hrefLost)
    (fun s => modHub (fun h => { h with hrefLost := true }) (nucFatal (haloDark (modHalo (fun h => { h with calDone := false }) s)))) s

/-- IDCODE (R579). -/
def idcode (h : Hub) : Word := BitVec.ofNat 32 (h.stepping.toNat * 2 ^ 28 + 0x0460 * 2 ^ 12 + 0x2D3 * 2 + 1)

/-- What TDO shifts out, least significant bit first, for the registers whose contents the spec gives. -/
def jtagOut (h : Hub) : JtagOp → Option (List Bool)
  | .idcode => some ((List.range 32).map fun k => bit (idcode h) k)
  | .bypass => some [false]
  | _ => none

/-- JTAG_INSTRUCTION (R579). The order of the boundary-scan chain is not given, so no cells are shifted out. -/
def execJtagInstruction (j : JtagOp) (s : State) : Out :=
  .next (match jtagOut s.hub j with
    | some b => emit (.jtag b) (modHub (fun h => { h with jtag := j }) s)
    | none => modHub (fun h => { h with jtag := j }) s)

end Sys2Proof.Machine
end

