-- ==== Sys2Proof/Machine/RegMap.lean ====
section
/-! DEFINITION. The register map: which register stands at which offset, and what it reads (R10 to R13, R28 to R30, R64,
R69, R113, R114, R153, R187, R266, R342, R343, R379, R420, R446, R486, R517, R546, R567). -/

namespace Sys2Proof.Machine

open Sys2Proof

/-- The 64-bit register pairs (R10). -/
inductive Pair where
  | ephNow
  | todNext
  | evtinTs (n : Fin 4)
  | sqBase (i : InstId) (q : Fin 16)
  | sqShadow (i : InstId) (q : Fin 16)
  | cqBase (i : InstId) (q : Fin 16)
  | part (n : Fin 64)
  | mtuRoot (i : InstId)
  | mtuFaultAddr (i : InstId)
  | invalAddr
  | lkuGrant (i : InstId)
  | scbLastUe
  | spCnt (k : Fin 4)
  | errBase (i : InstId)
  | coreFaultAddr (c : CoreId)
  | coreCnt (c : CoreId) (k : Fin 10)
  | arrCnt (c : CoreId) (k : Fin 7)
  | spxCnt (c : CoreId) (k : Fin 8)
  | wkCnt (w : Fin 16) (k : Fin 9)
  | spillBase (d : Fin 4)
  | ringLock
  | haloCnt (k : Fin 4)
  | replayBase (d : Fin 4)
  | laneCnt (l : Fin 32) (k : Fin 8)
  | pageNow (i : InstId)
  deriving DecidableEq, Repr

/-- The registers; `lo` and `hi` are the two words of a pair. -/
inductive Reg where
  | lo (p : Pair)
  | hi (p : Pair)
  | hubId | hubGrade | hubBootStatus | hubBootErr | hubReset | hubResetCause | hubBootTime | hubFlashCtrl | hubFlashAddr
  | hubFlashBuf (k : Nat)
  | ephCtrl | ephStatus | ephRefCfg | ephHoldLimit | ephPpsErr | ephStepCnt | ephStepLast | ephIntStatus | ephIntEn
  | evtCfg (n : Fin 8)
  | evtinCfg (n : Fin 4)
  | evtinStatus
  | sqDoorbell (i : InstId) (q : Fin 16)
  | cqDoorbell (i : InstId) (q : Fin 16)
  | sqCtrl (i : InstId) (q : Fin 16)
  | sqState (i : InstId) (q : Fin 16)
  | cqCtrl (i : InstId) (q : Fin 16)
  | cqState (i : InstId) (q : Fin 16)
  | cqIrqMod (i : InstId) (q : Fin 16)
  | ringErr (i : InstId)
  | pageTime
  | pageRing (i : InstId)
  | pageInflight (i : InstId)
  | instCtrl (i : InstId)
  | instSched (i : InstId)
  | instEng (i : InstId)
  | instEng2 (i : InstId)
  | admCfg (i : InstId)
  | admMargin (i : InstId)
  | admStatus (i : InstId)
  | instDrain (i : InstId)
  | estRate (i : InstId) (t : Fin 4)
  | estSvc (i : InstId) (t : Fin 4)
  | instGlobal
  | mtuFaultInfo (i : InstId)
  | mtuSuppressed (i : InstId)
  | mtuInval
  | memCfg
  | memCe (c : Fin 4)
  | memSramCe (d : Fin 4)
  | dmaStatus (n : Fin 16)
  | poolCfg (p : Fin 16)
  | poolStat (p : Fin 16)
  | bfmCnt | bfmInfo | bfmHandle
  | lkuSel | lkuState | lkuStats
  | scbCtrl | scbLpPeriod | scbDpPeriod | scbCnt | scbStatus
  | spCtrl | spStatus | spQbCfg | spClkMeas | spIntStatus | spIntEn
  | errLogCfg (i : InstId)
  | errLogStat (i : InstId)
  | errFence (w : Fin 20)
  | errTbl (w : Fin 20)
  | errMismatch
  | tideCtrl | tideCap | tideMargin | tideIntStatus | tideIntEn | tideViol
  | tideDie (d : Fin 4)
  | coreId (c : CoreId)
  | coreCols (c : CoreId)
  | coreStatus (c : CoreId)
  | coreCtrl (c : CoreId)
  | coreExit (c : CoreId)
  | coreFault (c : CoreId)
  | mbxCfg (c : CoreId) (m : Fin 8)
  | mbxStat (c : CoreId) (m : Fin 8)
  | msgSent (c : CoreId)
  | msgRcvd (c : CoreId)
  | msgDrop (c : CoreId)
  | arrStatus (c : CoreId)
  | haccStat (c : CoreId)
  | spxErr (c : CoreId)
  | wkStatus (w : Fin 16)
  | wkCtrl (w : Fin 16)
  | wkErr (w : Fin 16)
  | setCfg (d b : Fin 4)
  | edgeLo (d b : Fin 4)
  | edgeHi (d b : Fin 4)
  | setStatus (d b : Fin 4)
  | wbqStat (d : Fin 4) (q : Fin 32)
  | wbCtrl (d : Fin 4)
  | spillCfg (d : Fin 4)
  | spxThresh (i : InstId)
  | haloStatus | haloMargin | haloTemp | haloLaserLock | haloHtuCfg | haloIntStatus | haloIntEn | haloLoopSel | haloLoopState
  | fabCtrl | fabNode | fabTimeout | fabIntStatus | fabIntEn
  | portCfg (p : Fin 8)
  | portStatus (p : Fin 8)
  | fabDomain (i : InstId)
  | fabRoute (n : Nat)
  | fabMcast (g : Nat)
  | fabBar (b : Fin 64)
  | nucStatus | nucCmd | nucCtrl
  | nucReq (k : Nat)
  | nucRsp (k : Nat)
  | nucUnit (u : Fin 622)
  | nucSens (k : Fin 32)
  deriving DecidableEq, Repr

/-! ### Offsets -/

/-- The entry of an array of registers of n entries from `base`, and the offset in the entry. -/
def slotAt (off base stride n : Nat) [NeZero n] : Option (Fin n × Nat) :=
  if base ≤ off ∧ off < base + stride * n then some (Fin.ofNat n ((off - base) / stride), (off - base) % stride) else none

/-- A pair at offset 0 of an entry. -/
def pairAt (p : Pair) (o : Nat) : Option Reg := if o = 0 then some (.lo p) else if o = 4 then some (.hi p) else none

/-- The HUB block (R13, R567). -/
def hubReg (o : Nat) : Option Reg :=
  match o with
  | 0x00 => some .hubId
  | 0x04 => some .hubGrade
  | 0x08 => some .hubBootStatus
  | 0x0C => some .hubBootErr
  | 0x10 => some .hubReset
  | 0x14 => some .hubResetCause
  | 0x18 => some .hubBootTime
  | 0x20 => some .hubFlashCtrl
  | 0x24 => some .hubFlashAddr
  | _ => if 0x1000 ≤ o ∧ o < 0x2000 then some (.hubFlashBuf ((o - 0x1000) / 4)) else none

/-- The EPH block (R64). -/
def ephReg (o : Nat) : Option Reg :=
  match o with
  | 0x00 => some .ephCtrl
  | 0x04 => some .ephStatus
  | 0x08 => some .ephRefCfg
  | 0x10 => some (.lo .ephNow)
  | 0x14 => some (.hi .ephNow)
  | 0x18 => some (.lo .todNext)
  | 0x1C => some (.hi .todNext)
  | 0x20 => some .ephHoldLimit
  | 0x24 => some .ephPpsErr
  | 0x28 => some .ephStepCnt
  | 0x2C => some .ephStepLast
  | 0x30 => some .ephIntStatus
  | 0x34 => some .ephIntEn
  | _ => none

/-- The 4 KiB of ring registers of an instance (R113). -/
def ringReg (i : InstId) (o : Nat) : Option Reg :=
  if o = 0x400 then some (.ringErr i)
  else
    match slotAt o 0 0x20 16, slotAt o 0x200 0x20 16 with
    | some (q, r), _ =>
      (match r with
       | 0x08 => some (.sqCtrl i q)
       | 0x0C => some (.sqState i q)
       | 0x10 => some (.lo (.sqShadow i q))
       | 0x14 => some (.hi (.sqShadow i q))
       | _ => pairAt (.sqBase i q) r)
    | _, some (q, r) =>
      (match r with
       | 0x08 => some (.cqCtrl i q)
       | 0x0C => some (.cqState i q)
       | 0x10 => some (.cqIrqMod i q)
       | _ => pairAt (.cqBase i q) r)
    | _, _ => none

/-- The INST registers from 0x0024_0000 (R153). -/
def instReg (o : Nat) : Option Reg :=
  match slotAt o 0 0x40 64, slotAt o 0x1000 8 64 with
  | some (i, r), _ =>
    (match r with
     | 0x00 => some (.instCtrl i)
     | 0x04 => some (.instSched i)
     | 0x08 => some (.instEng i)
     | 0x0C => some (.instEng2 i)
     | 0x10 => some (.admCfg i)
     | 0x14 => some (.admMargin i)
     | 0x18 => some (.admStatus i)
     | 0x1C => some (.instDrain i)
     | _ => if r % 8 = 0 then some (.estRate i (Fin.ofNat 4 ((r - 0x20) / 8))) else some (.estSvc i (Fin.ofNat 4 ((r - 0x20) / 8))))
  | _, some (n, r) => pairAt (.part n) r
  | _, _ => if o = 0x1200 then some .instGlobal else none

/-- The MTU block (R153). -/
def mtuReg (o : Nat) : Option Reg :=
  match slotAt o 0 0x20 64 with
  | some (i, r) =>
    (match r with
     | 0x08 => some (.lo (.mtuFaultAddr i))
     | 0x0C => some (.hi (.mtuFaultAddr i))
     | 0x10 => some (.mtuFaultInfo i)
     | 0x14 => some (.mtuSuppressed i)
     | _ => pairAt (.mtuRoot i) r)
  | none => if o = 0x1000 then some .mtuInval else if o = 0x1004 then some (.lo .invalAddr) else if o = 0x1008 then some (.hi .invalAddr) else none

/-- The MEM block and the DMA status (R420). -/
def memReg (o : Nat) : Option Reg :=
  if o = 0 then some .memCfg
  else
    match slotAt o 0x10 4 4, slotAt o 0x20 4 4, slotAt o 0x80000 4 16 with
    | some (c, _), _, _ => some (.memCe c)
    | _, some (d, _), _ => some (.memSramCe d)
    | _, _, some (n, _) => some (.dmaStatus n)
    | _, _, _ => none

/-- The BFM and LKU blocks (R420). -/
def bfmReg (o : Nat) : Option Reg :=
  match slotAt o 0 8 16, slotAt o 0x80000 8 64 with
  | some (p, r), _ => some (if r = 0 then .poolCfg p else .poolStat p)
  | _, some (i, r) => pairAt (.lkuGrant i) r
  | _, _ =>
    (match o with
     | 0x100 => some .bfmCnt
     | 0x104 => some .bfmInfo
     | 0x108 => some .bfmHandle
     | 0x80400 => some .lkuSel
     | 0x80404 => some .lkuState
     | 0x80408 => some .lkuStats
     | _ => none)

/-- The SP and EVT blocks (R64, R517). -/
def spReg (o : Nat) : Option Reg :=
  match slotAt o 0x100 8 4, slotAt o 0x80000 4 8, slotAt o 0x80040 4 4, slotAt o 0x80080 8 4 with
  | some (k, r), _, _, _ => pairAt (.spCnt k) r
  | _, some (n, _), _, _ => some (.evtCfg n)
  | _, _, some (n, _), _ => some (.evtinCfg n)
  | _, _, _, some (n, r) => pairAt (.evtinTs n) r
  | _, _, _, _ =>
    (match o with
     | 0x00 => some .spCtrl
     | 0x04 => some .spStatus
     | 0x08 => some .spQbCfg
     | 0x0C => some .spClkMeas
     | 0x10 => some .spIntStatus
     | 0x14 => some .spIntEn
     | 0x800A0 => some .evtinStatus
     | _ => none)

/-- The ERR and SCB blocks (R420, R546). -/
def errReg (o : Nat) : Option Reg :=
  match slotAt o 0 0x10 64, slotAt o 0x800 4 20, slotAt o 0x880 4 20 with
  | some (i, r), _, _ => if r = 8 then some (.errLogCfg i) else if r = 12 then some (.errLogStat i) else pairAt (.errBase i) r
  | _, some (w, _), _ => some (.errFence w)
  | _, _, some (w, _) => some (.errTbl w)
  | _, _, _ =>
    (match o with
     | 0x900 => some .errMismatch
     | 0x80000 => some .scbCtrl
     | 0x80004 => some .scbLpPeriod
     | 0x80008 => some .scbDpPeriod
     | 0x8000C => some .scbCnt
     | 0x80010 => some .scbStatus
     | 0x80018 => some (.lo .scbLastUe)
     | 0x8001C => some (.hi .scbLastUe)
     | _ => none)

/-- The TIDE block (R446). -/
def tideReg (o : Nat) : Option Reg :=
  match o with
  | 0x00 => some .tideCtrl
  | 0x04 => some .tideCap
  | 0x08 => some .tideMargin
  | 0x20 => some .tideIntStatus
  | 0x24 => some .tideIntEn
  | 0x28 => some .tideViol
  | _ => (slotAt o 0x10 4 4).map fun e => .tideDie e.1

/-- A core's control window (R187, R266, R342). -/
def coreReg (c : CoreId) (o : Nat) : Option Reg :=
  match slotAt o 0x20 4 8, slotAt o 0x40 4 8, slotAt o 0x100 8 10, slotAt o 0x200 8 7, slotAt o 0x400 8 8 with
  | some (m, _), _, _, _, _ => some (.mbxCfg c m)
  | _, some (m, _), _, _, _ => some (.mbxStat c m)
  | _, _, some (k, r), _, _ => pairAt (.coreCnt c k) r
  | _, _, _, some (k, r), _ => pairAt (.arrCnt c k) r
  | _, _, _, _, some (k, r) => pairAt (.spxCnt c k) r
  | _, _, _, _, _ =>
    (match o with
     | 0x000 => some (.coreId c)
     | 0x004 => some (.coreCols c)
     | 0x008 => some (.coreStatus c)
     | 0x00C => some (.coreCtrl c)
     | 0x010 => some (.coreExit c)
     | 0x014 => some (.coreFault c)
     | 0x018 => some (.lo (.coreFaultAddr c))
     | 0x01C => some (.hi (.coreFaultAddr c))
     | 0x180 => some (.msgSent c)
     | 0x184 => some (.msgRcvd c)
     | 0x188 => some (.msgDrop c)
     | 0x2F0 => some (.arrStatus c)
     | 0x440 => some (.haccStat c)
     | 0x444 => some (.spxErr c)
     | _ => none)

/-- A walker's window (R379). -/
def wkReg (w : Fin 16) (o : Nat) : Option Reg :=
  match slotAt o 0x100 8 9 with
  | some (k, r) => pairAt (.wkCnt w k) r
  | none => if o = 0 then some (.wkStatus w) else if o = 4 then some (.wkCtrl w) else if o = 8 then some (.wkErr w) else none

/-- The work-bin region of a die (R343). -/
def binReg (d : Fin 4) (o : Nat) : Option Reg :=
  match slotAt o 0 0x20 4, slotAt o 0x100 4 32, slotAt o 0x400 4 64 with
  | some (b, r), _, _ =>
    (match r with
     | 0x0 => some (.setCfg d b)
     | 0x4 => some (.edgeLo d b)
     | 0x8 => some (.edgeHi d b)
     | 0xC => some (.setStatus d b)
     | _ => none)
  | _, some (q, _), _ => some (.wbqStat d q)
  | _, _, some (i, _) => some (.spxThresh i)
  | _, _, _ =>
    (match o with
     | 0x200 => some (.wbCtrl d)
     | 0x300 => some (.lo (.spillBase d))
     | 0x304 => some (.hi (.spillBase d))
     | 0x308 => some (.spillCfg d)
     | _ => none)

/-- The core with a local index on a die (R30). -/
def coreInWindow (d : Fin 4) (n : Nat) : CoreId := coreOf ((n / 12 + 12 * (d.val / 2)) * 24 + (n % 12 + 12 * (d.val % 2)))

/-- A compute die window (R30). -/
def dieReg (d : Fin 4) (o : Nat) : Option Reg :=
  match slotAt o 0 0x4000 144, slotAt o 0x300000 0x10000 4 with
  | some (n, r), _ => coreReg (coreInWindow d n.val) r
  | _, some (j, r) => wkReg (Fin.ofNat 16 (4 * d.val + j.val)) r
  | _, _ => if 0x380000 ≤ o then binReg d (o - 0x380000) else none

/-- The HALO block (R446). -/
def haloReg (o : Nat) : Option Reg :=
  match o with
  | 0x00 => some .haloStatus
  | 0x04 => some .haloMargin
  | 0x08 => some .haloTemp
  | 0x0C => some .haloLaserLock
  | 0x10 => some (.lo .ringLock)
  | 0x14 => some (.hi .ringLock)
  | 0x20 => some .haloHtuCfg
  | 0x30 => some .haloIntStatus
  | 0x34 => some .haloIntEn
  | 0x40 => some .haloLoopSel
  | 0x44 => some .haloLoopState
  | _ => (slotAt o 0x100 8 4).bind fun e => pairAt (.haloCnt e.1) e.2

/-- The FAB block (R486). -/
def fabReg (o : Nat) : Option Reg :=
  if 0x40000 ≤ o then
    if o < 0x80000 then some (.fabRoute ((o - 0x40000) / 4))
    else if o < 0x84000 then some (.fabMcast ((o - 0x80000) / 4))
    else (slotAt o 0x90000 4 64).map fun e => .fabBar e.1
  else
    match slotAt o 0x20 8 4, slotAt o 0x100 0x10 8, slotAt o 0x400 4 64, slotAt o 0x1000 0x40 32 with
    | some (d, r), _, _, _ => pairAt (.replayBase d) r
    | _, some (p, r), _, _ => if r = 0 then some (.portCfg p) else if r = 4 then some (.portStatus p) else none
    | _, _, some (i, _), _ => some (.fabDomain i)
    | _, _, _, some (l, r) => pairAt (.laneCnt l (Fin.ofNat 8 (r / 8))) (r % 8)
    | _, _, _, _ =>
      (match o with
       | 0x00 => some .fabCtrl
       | 0x04 => some .fabNode
       | 0x08 => some .fabTimeout
       | 0x0C => some .fabIntStatus
       | 0x10 => some .fabIntEn
       | _ => none)

/-- The NUC mailbox window (R546). -/
def nucReg (o : Nat) : Option Reg :=
  match slotAt o 0x10000 4 622, slotAt o 0x20000 4 32 with
  | some (u, _), _ => some (.nucUnit u)
  | _, some (k, _) => some (.nucSens k)
  | _, _ =>
    if 0x1000 ≤ o ∧ o < 0x2000 then some (.nucReq ((o - 0x1000) / 4))
    else if 0x2000 ≤ o ∧ o < 0x3000 then some (.nucRsp ((o - 0x2000) / 4))
    else if o = 0 then some .nucStatus else if o = 4 then some .nucCmd else if o = 8 then some .nucCtrl else none

/-- A register of PF BAR0 (R29). -/
def pfReg (o : Nat) : Option Reg :=
  if o < 0x100000 then hubReg o
  else if o < 0x200000 then ephReg (o - 0x100000)
  else if o < 0x240000 then ringReg (Fin.ofNat 64 ((o - 0x200000) / 0x1000)) ((o - 0x200000) % 0x1000)
  else if o < 0x300000 then instReg (o - 0x240000)
  else if o < 0x400000 then mtuReg (o - 0x300000)
  else if o < 0x500000 then memReg (o - 0x400000)
  else if o < 0x600000 then bfmReg (o - 0x500000)
  else if o < 0x700000 then spReg (o - 0x600000)
  else if o < 0x800000 then errReg (o - 0x700000)
  else if o < 0x900000 then tideReg (o - 0x800000)
  else if o < 0x1000000 then none
  else if o < 0x2000000 then dieReg (Fin.ofNat 4 ((o - 0x1000000) / 0x400000)) ((o - 0x1000000) % 0x400000)
  else if o < 0x2800000 then haloReg (o - 0x2000000)
  else if o < 0x3000000 then fabReg (o - 0x2800000)
  else if o < 0x4000000 then nucReg (o - 0x3000000)
  else none

/-- A register of an instance page (R69). -/
def pageReg (i : InstId) (o : Nat) : Option Reg :=
  if o < 0x40 then some (.sqDoorbell i (Fin.ofNat 16 (o / 4)))
  else if o < 0x80 then some (.cqDoorbell i (Fin.ofNat 16 ((o - 0x40) / 4)))
  else if 0x2000 ≤ o ∧ o < 0x3000 then ringReg i (o - 0x2000)
  else
    match o with
    | 0x1000 => some .pageTime
    | 0x1008 => some (.lo (.pageNow i))
    | 0x100C => some (.hi (.pageNow i))
    | 0x1010 => some (.pageRing i)
    | 0x1014 => some (.pageInflight i)
    | _ => none

/-- The register at an aligned address; none where no register stands (R11, R29, R69). -/
def regAt (a : BarAddr) : Option Reg :=
  match a.bar with
  | .pf => pfReg a.off
  | .page i => pageReg i a.off

/-- The key of a pair's latch and holding register: the offset of its low word in PF BAR0, and above the BAR for the
pairs of the pages. -/
def pairKey : Pair → Nat
  | .ephNow => 0x100010
  | .todNext => 0x100018
  | .evtinTs n => 0x680080 + 8 * n.val
  | .sqBase i q => 0x200000 + 0x1000 * i.val + 0x20 * q.val
  | .sqShadow i q => 0x200010 + 0x1000 * i.val + 0x20 * q.val
  | .cqBase i q => 0x200200 + 0x1000 * i.val + 0x20 * q.val
  | .part n => partKey n
  | .mtuRoot i => 0x300000 + 0x20 * i.val
  | .mtuFaultAddr i => 0x300008 + 0x20 * i.val
  | .invalAddr => 0x301004
  | .lkuGrant i => 0x580000 + 8 * i.val
  | .scbLastUe => 0x780018
  | .spCnt k => 0x600100 + 8 * k.val
  | .errBase i => 0x700000 + 0x10 * i.val
  | .coreFaultAddr c => coreBase c + 0x18
  | .coreCnt c k => coreBase c + 0x100 + 8 * k.val
  | .arrCnt c k => coreBase c + 0x200 + 8 * k.val
  | .spxCnt c k => coreBase c + 0x400 + 8 * k.val
  | .wkCnt w k => 0x1300000 + 0x400000 * (w.val / 4) + 0x10000 * (w.val % 4) + 0x100 + 8 * k.val
  | .spillBase d => 0x1380300 + 0x400000 * d.val
  | .ringLock => 0x2000010
  | .haloCnt k => 0x2000100 + 8 * k.val
  | .replayBase d => 0x2800020 + 8 * d.val
  | .laneCnt l k => 0x2801000 + 0x40 * l.val + 8 * k.val
  | .pageNow i => 0x4001008 + 0x10000 * i.val
where
  /-- Where a core's control window starts (R30). -/
  coreBase (c : CoreId) : Nat := 0x1000000 + 0x400000 * (coreDie c).val + 0x4000 * coreLocal c

/-! ### What registers read -/

/-- A word from its fields: the lowest bit of each, and its value. -/
def pack (l : List (Nat × Nat)) : Word := BitVec.ofNat 32 (l.map fun e => e.2 * 2 ^ e.1).sum

/-- A ring state as its register codes it (R113). -/
def ringCode : RingState → Nat
  | .disabled => 0
  | .active => 1
  | .draining => 2
  | .error => 3

/-- The Ephemeris state's code (R64). -/
def ephCode : EphState → Nat
  | .freeRun => 0
  | .holdover => 1
  | .locked => 2

/-- The instance state's code (R153). -/
def instCode : InstState → Nat
  | .ready => 0
  | .draining => 1
  | .zeroing => 2
  | .off => 3

/-- The core state's code (R187). -/
def coreCode : CoreState → Nat
  | .idle => 0
  | .running => 1
  | .exited => 2
  | .faulted => 3
  | .stopped => 4

/-- The loop state's code (R446). -/
def loopCode : LoopState → Nat
  | .opened => 0
  | .acquiring => 1
  | .locked => 2
  | .outOfService => 3

/-- The lock state's code (R420). -/
def lockCode : LockState → Nat
  | .free => 0
  | .held => 1
  | .orphaned => 2

/-- The 64 bits of a pair as they stand now. -/
def pairValue (p : Pair) (s : State) : Dword :=
  match p with
  | .ephNow => s.eph.now
  | .todNext => s.eph.todNext
  | .evtinTs n => (s.evtin[n.val].fifo.head?).getD 0
  | .sqBase i q => s.inst[i.val].sq[q.val].base
  | .sqShadow i q => s.inst[i.val].sq[q.val].shadow
  | .cqBase i q => s.inst[i.val].cq[q.val].base
  | .part n => (pack [(31, b2n s.parts[n.val].valid), (0, s.parts[n.val].owner.val)]) ++ partLow s.parts[n.val]
  | .mtuRoot i => s.mtu[i.val].root ||| BitVec.ofNat 64 (b2n s.mtu[i.val].enable)
  | .mtuFaultAddr i => s.mtu[i.val].faultAddr
  | .invalAddr => s.invalAddr
  | .lkuGrant i => s.lku.grants[i.val]
  | .scbLastUe => s.mem.lastUe
  | .spCnt k => s.sp.cnt[k.val]
  | .errBase i => s.nuc.logs[i.val].base
  | .coreFaultAddr c => s.cores[c.val].faultAddr
  | .coreCnt c k => s.cores[c.val].cnt[k.val]
  | .arrCnt c k => s.cores[c.val].arrCnt[k.val]
  | .spxCnt c k => s.cores[c.val].spxCnt[k.val]
  | .wkCnt w k => s.wks[w.val].cnt[k.val]
  | .spillBase d => s.dies[d.val].spillBase
  | .ringLock => BitVec.ofNat 64 ((List.range 64).foldr (fun n x => b2n ((s.halo.loops.toList.getD (32 + n) {}).st = .locked) * 2 ^ n + x) 0)
  | .haloCnt k => s.halo.cnt[k.val]
  | .replayBase d => s.fab.replayBase[d.val]
  | .laneCnt l k => s.fab.lanes[l.val].cnt[k.val]
  | .pageNow _ => s.eph.now

/-- Low word. -/
def loWord (x : Dword) : Word := x.setWidth 32
/-- High word. -/
def hiWord (x : Dword) : Word := (x >>> 32).setWidth 32

/-- Word w of a bit of every unit (R546). -/
def unitBits (f : UnitSt → Bool) (w : Nat) (s : State) : Word :=
  BitVec.ofNat 32 ((List.range 32).foldr (fun b x => b2n (((s.nuc.units.toList[32 * w + b]?).map f).getD false) * 2 ^ b + x) 0)

/-- The enable bit of a ring as it reads: set while the ring is ACTIVE or in ERROR. The spec gives its current value as R75 and
R81 leave it, and does not say what it reads in ERROR: set, for nothing has cleared it (log entry 58). -/
def enableReads (x : RingState) : Bool := x = .active || x = .error

/-- Registers of instances, rings and pages (R113, R114, R153). -/
def instValue (r : Reg) (s : State) : Option Word :=
  match r with
  | .sqCtrl i q =>
    let x := s.inst[i.val].sq[q.val]
    some (pack [(31, b2n (enableReads x.st)), (29, ringCode x.st), (16, x.cq.val), (12, x.cls.toNat), (0, x.log2.toNat)])
  | .sqState i q => some (pack [(16, s.inst[i.val].sq[q.val].epoch.toNat), (0, s.inst[i.val].sq[q.val].head)])
  | .cqCtrl i q =>
    let x := s.inst[i.val].cq[q.val]
    some (pack [(31, b2n (enableReads x.st)), (29, ringCode x.st), (16, x.vector.val), (15, b2n x.irqEn), (0, x.log2.toNat)])
  | .cqState i q => some (pack [(16, s.inst[i.val].cq[q.val].epoch.toNat), (0, s.inst[i.val].cq[q.val].tail)])
  | .cqIrqMod i q => some (pack [(16, s.inst[i.val].cq[q.val].modCount.toNat), (0, s.inst[i.val].cq[q.val].modTime.toNat)])
  | .ringErr i =>
    let e := s.inst[i.val].err
    some (pack [(12, b2n e.lastIsCq), (8, e.lastRing.val), (0, e.bits.toNat)])
  | .pageTime => some (pack [(8, s.eph.timeEpoch.toNat), (2, b2n s.eph.todValid), (0, ephCode s.eph.st)])
  | .pageRing i =>
    some (pack ((16, b2n s.inst[i.val].pressure) :: (List.finRange 16).map fun q => (q.val, b2n s.inst[i.val].sq[q.val].busy)))
  | .pageInflight i => some (BitVec.ofNat 32 (s.items.filter fun x => x.inst = i).length)
  | .instCtrl i =>
    let x := s.inst[i.val]
    some (pack [(30, b2n x.resetDone), (29, b2n x.doneIrqEn), (16, instCode x.st), (0, x.gen.toNat)])
  | .instSched i => some (pack [(16, s.inst[i.val].weight.toNat), (0, s.inst[i.val].ageUs.toNat)])
  | .instEng i => some (pack [(16, s.inst[i.val].wkMask.toNat), (0, s.inst[i.val].dmaMask.toNat)])
  | .instEng2 i =>
    let x := s.inst[i.val]
    some (pack [(10, b2n x.spEn), (9, b2n x.fabEn), (8, b2n x.htuEn), (0, x.evtMask.toNat)])
  | .admCfg i =>
    let x := s.inst[i.val]
    some (pack [(30, x.shedMode.toNat), (20, x.lw.toNat), (10, x.hw.toNat), (5, x.pressureVec.val), (0, b2n x.pressureIrqEn)])
  | .admMargin i => some (pack [(0, s.inst[i.val].margin.toNat)])
  | .admStatus i => some (pack [(31, b2n s.inst[i.val].pressureSeen), (0, backlog i s)])
  | .instDrain i =>
    let held := (s.inst[i.val].cq.toList.map fun c => c.aborts.length).sum
    some (pack [(16, held), (0, s.inst[i.val].drainCount.toNat)])
  | .estRate i t => some (pack [(0, s.inst[i.val].est[t.val].rate.toNat / 256)])
  | .estSvc i t => some (pack [(0, s.inst[i.val].est[t.val].svc.toNat / 256)])
  | .instGlobal => some (pack [(17, b2n s.partOverlap), (16, b2n s.partBusy), (8, s.escalations.toNat)])
  | .mtuFaultInfo i =>
    let m := s.mtu[i.val]
    some (pack [(31, b2n m.faultValid), (28, m.faultKind.toNat), (27, b2n m.faultWrite), (16, m.faultCount.toNat), (0, m.faultSource.toNat)])
  | .mtuSuppressed i => some s.mtu[i.val].suppressed
  | .mtuInval => some (pack [(31, b2n s.invalJob.isSome), (7, b2n s.invalAll), (0, s.invalInst.val)])
  | _ => none

/-- Registers of radio time, the hub and memory (R13, R64, R420, R567). A DMA channel is idle between commands, for a
descriptor runs whole in its command (log entry 3). -/
def hubValue (r : Reg) (s : State) : Option Word :=
  let h := s.hub
  let e := s.eph
  match r with
  | .hubId => some 0x04605A00
  | .hubGrade => some (pack [(16, h.fusedArrays.toNat), (8, h.bypassedArrays.toNat), (4, h.stepping.toNat), (0, h.gradeCode.toNat)])
  | .hubBootStatus =>
    some (pack [(31, b2n h.ready), (30, b2n h.bootFail), (29, b2n h.degraded), (28, b2n h.recovery), (24, h.stage.toNat), (19, b2n h.zeroDone),
      (18, b2n h.computeDone), (17, b2n h.haloDone), (16, b2n h.lp5xDone), (8, b2n h.rate6400), (7, b2n h.slot)])
  | .hubBootErr => some (pack [(24, h.errA.toNat), (16, h.errB.toNat), (0, h.stageTimeout.toNat)])
  | .hubResetCause => some (pack [(0, h.cause.toNat)])
  | .hubBootTime => some (pack [(0, h.bootMs.toNat)])
  | .hubFlashCtrl => some (pack [(31, b2n h.flashBusy), (28, h.opField.toNat), (27, b2n h.flashError)])
  | .hubFlashAddr => some h.flashAddr
  | .hubFlashBuf k => some (BitVec.ofNat 32 (leNat (Memory.read 0 h.flashBuf (4 * k) 4)))
  | .ephCtrl => some (pack [(31, b2n e.cfgLock), (8, b2n e.stepAllow)])
  | .ephStatus =>
    some (pack [(24, e.timeEpoch.toNat), (6, b2n e.todPending), (5, b2n e.todValid), (4, b2n e.ppsQual), (3, b2n e.trefQual),
      (2, b2n e.pllLock), (0, ephCode e.st)])
  | .ephRefCfg => some (pack [(16, e.ppsComp.toNat), (8, e.trefSel.toNat), (0, b2n e.ppsEdge)])
  | .ephHoldLimit => some e.holdLimit
  | .ephPpsErr => some (pack [(24, e.badCount.toNat), (0, e.phaseErr.toNat)])
  | .ephStepCnt => some e.stepCnt
  | .ephStepLast => some e.stepLast
  | .ephIntStatus => some (pack [(0, e.intStatus.toNat)])
  | .ephIntEn => some (pack [(0, e.intEn.toNat)])
  | .evtCfg n =>
    let p := s.evt[n.val]
    some (pack [(12, b2n p.latePolicy), (10, p.minState.toNat), (9, b2n p.idleLevel), (8, b2n p.enable), (0, p.queue.length)])
  | .evtinCfg n => some (pack [(4, b2n s.evtin[n.val].irqEn), (0, s.evtin[n.val].edge.toNat)])
  | .evtinStatus =>
    some (pack ((List.finRange 4).flatMap fun n => [(16 + n.val, b2n s.evtin[n.val].overflow), (4 * n.val, s.evtin[n.val].fifo.length)]))
  | .memCfg =>
    let up := (List.finRange 4).map fun c => (4 + c.val, b2n (bit s.mem.chOk c.val && !unitClosed (unitLp c) s))
    some (pack (up ++ [(2, s.mem.ranks.toNat), (0, s.mem.capacity.toNat)]))
  | .memCe c => some (pack [(24, s.mem.retrainFail[c.val].toNat), (0, s.mem.ce[c.val].toNat)])
  | .memSramCe d => some s.dies[d.val].sramCe
  | .dmaStatus _ => some 0
  | .poolCfg p =>
    let x := s.bfm.pools[p.val]
    some (pack [(31, b2n x.enable), (24, x.sizeLog2.toNat), (0, x.count.toNat)])
  | .poolStat p => some (pack [(0, s.bfm.pools[p.val].free.length)])
  | .bfmCnt => some (pack [(24, s.bfm.badAccess.toNat), (16, s.bfm.badHandle.toNat), (8, s.bfm.foreignFree.toNat), (0, s.bfm.doubleFree.toNat)])
  | .bfmInfo =>
    some (pack [(31, b2n s.bfm.evtValid), (28, s.bfm.evtKind.toNat), (8, s.bfm.evtHolder.toNat), (0, s.bfm.evtInst.toNat)])
  | .bfmHandle => some s.bfm.evtHandle
  | .lkuSel => some (pack [(0, s.lku.sel.toNat)])
  | .lkuState =>
    let l := s.lku.locks[s.lku.sel.toFin.val]
    some (pack [(30, lockCode l.st), (20, l.waiters.length), (10, l.inst.val), (0, l.core.val)])
  | .lkuStats => some (pack [(16, s.lku.orphans.toNat), (0, s.lku.badRelease.toNat)])
  | .scbCtrl => some (pack [(1, b2n s.mem.dpEn), (0, b2n s.mem.lpEn)])
  | .scbLpPeriod => some (pack [(0, s.mem.lpPeriod.toNat)])
  | .scbDpPeriod => some (pack [(0, s.mem.dpPeriod.toNat)])
  | .scbCnt => some (pack [(16, s.mem.ueCount.toNat), (0, s.mem.ceCount.toNat)])
  | .scbStatus => some (pack [(16, s.mem.lag.toNat), (0, s.mem.passes.toNat)])
  | _ => none

/-- Registers of the compute dies (R187, R266, R342, R343, R379). -/
def dieValue (r : Reg) (s : State) : Option Word :=
  match r with
  | .coreId c => some (pack [(30, (coreDie c).val), (20, coreY c), (15, coreX c), (0, c.val)])
  | .coreCols c =>
    let k := s.cores[c.val]
    some (pack [(12, b2n k.bypassed), (8, k.badCol.toNat), (0, k.cols.toNat)])
  | .coreStatus c =>
    let k := s.cores[c.val]
    let at_ := match partOf c s with
      | some n => [(28, 1), (27, b2n s.parts[n.val].imageValid), (18, n.val)]
      | none => []
    some (pack ((29, coreCode k.st) :: (0, k.pc.toNat) :: at_))
  | .coreCtrl c => some (pack [(30, b2n s.cores[c.val].ctrFreeze)])
  | .coreExit c => some s.cores[c.val].exitWord
  | .coreFault c =>
    let k := s.cores[c.val]
    some (pack [(31, b2n k.faultValid), (30, b2n k.faultGlobal), (20, k.faultCause.toNat), (0, k.faultPc.toNat)])
  | .mbxCfg c m => some (pack [(16, s.cores[c.val].mbox[m.val].hw.toNat), (0, s.cores[c.val].mbox[m.val].lw.toNat)])
  | .mbxStat c m =>
    let x := s.cores[c.val].mbox[m.val]
    some (pack [(31, b2n x.closed), (24, x.waiting.length), (16, min 64 (mboxFill x)), (8, x.ptrResets.toNat), (0, x.msgs.length)])
  | .msgSent c => some s.cores[c.val].msgSent
  | .msgRcvd c => some s.cores[c.val].msgRcvd
  | .msgDrop c => some s.cores[c.val].msgDrop
  | .arrStatus c =>
    let k := s.cores[c.val]
    some (pack [(31, b2n (k.arr.any QEntry.mma)), (30, b2n k.checkFail), (24, k.checkCol.toNat), (16, k.checkCount.toNat), (8, k.arr.length), (0, k.cols.toNat)])
  | .haccStat c => some (pack [(16, s.cores[c.val].spillCount), (0, s.cores[c.val].hacc.length)])
  | .spxErr c =>
    let k := s.cores[c.val]
    some (pack [(31, b2n k.spxErr), (8, k.spxUnit.toNat), (0, k.spxReason.toNat)])
  | .wkStatus w =>
    let x := s.wks[w.val]
    let inst := x.queries.head?.elim 0 fun q => (keyInst q s).val
    some (pack [(31, b2n (x.queries != [])), (30, b2n (unitClosed (unitWk w) s)), (16, x.queries.length), (0, inst)])
  | .wkCtrl w => some (pack [(30, b2n s.wks[w.val].ctrFreeze)])
  | .wkErr w => some (pack [(31, b2n s.wks[w.val].errValid), (8, s.wks[w.val].errInst.toNat), (0, s.wks[w.val].errReason.toNat)])
  | .setCfg d b =>
    let x := (s.dies[d.val]).sets[b.val]
    some (pack [(31, b2n x.valid), (30, b2n x.postZero), (0, x.owner.val)])
  | .edgeLo d b =>
    let e := ((s.dies[d.val]).sets[b.val]).edges
    some (pack [(24, e[3].toNat), (16, e[2].toNat), (8, e[1].toNat), (0, e[0].toNat)])
  | .edgeHi d b =>
    let e := ((s.dies[d.val]).sets[b.val]).edges
    some (pack [(16, e[6].toNat), (8, e[5].toNat), (0, e[4].toNat)])
  | .setStatus d b =>
    let x := (s.dies[d.val]).sets[b.val]
    some (pack [(31, b2n x.isSealed), (16, x.sealCount.toNat), (0, setEntries d b s)])
  | .wbqStat d q => some (pack [(0, ((s.dies[d.val]).queues[q.val]).length)])
  | .wbCtrl d =>
    let x := s.dies[d.val]
    some (pack [(31, b2n x.wbBusy), (30, b2n x.edgeInvalid), (29, b2n x.wbTimeout), (0, x.timeoutUs.toNat)])
  | .spillCfg d => some (pack [(0, s.dies[d.val].spillCfg.toNat)])
  | .spxThresh i => some (pack [(0, s.thresh[i.val].toNat)])
  | _ => none
where
  /-- Entries in the eight queues of a set. -/
  setEntries (d b : Fin 4) (s : State) : Nat :=
    ((List.finRange 32).filterMap fun q => if setOf q = b then some ((s.dies[d.val]).queues[q.val]).length else none).sum

/-- Registers of Halo, Tide, the fabric, the sample port and Nucleus (R446, R486, R517, R546). -/
def nucValue (r : Reg) (s : State) : Option Word :=
  let h := s.halo
  let t := s.tide
  let f := s.fab
  let n := s.nuc
  match r with
  | .haloStatus =>
    some (pack [(31, b2n h.calDone), (30, b2n h.htuLocked), (29, b2n h.htuLoaded), (28, b2n h.htuOos), (16, h.htuOwner.val), (0, h.htuGen.toNat)])
  | .haloMargin => some (pack [(12, h.worstLoop.toNat), (0, h.margin.toNat)])
  | .haloTemp => some (pack [(16, h.heaterMw.toNat), (8, h.laserMax.toNat), (0, h.dieTemp.toNat)])
  | .haloLaserLock => some (pack ((List.range 32).map fun k => (k, b2n ((h.loops.toList.getD k {}).st = .locked))))
  | .haloHtuCfg => some (pack [(8, h.recalS.toNat), (0, h.rate.toNat)])
  | .haloIntStatus => some (pack [(0, h.intStatus.toNat)])
  | .haloIntEn => some (pack [(0, h.intEn.toNat)])
  | .haloLoopSel => some (pack [(0, h.loopSel.toNat)])
  | .haloLoopState =>
    let l := h.loops.toList.getD h.loopSel.toNat {}
    some (pack [(30, loopCode l.st), (16, l.drive.toNat), (0, l.error.toNat)])
  | .tideCtrl => some (pack [(31, b2n t.cfgLock), (4, t.setpoint.toNat), (0, b2n t.enable)])
  | .tideCap => some (pack [(8, t.cap64.toNat), (0, t.cap.toNat)])
  | .tideMargin => some (pack [(8, t.hi.toNat), (0, t.lo.toNat)])
  | .tideDie d =>
    let x := t.die[d.val]
    some (pack [(20, min 4095 (x.power.toNat / 100)), (16, x.duty.toNat), (8, x.effCap.toNat), (7, b2n x.ballast), (6, b2n x.hold)])
  | .tideIntStatus => some (pack [(0, t.intStatus.toNat)])
  | .tideIntEn => some (pack [(0, t.intEn.toNat)])
  | .tideViol => some t.viol
  | .fabCtrl => some (pack [(31, b2n f.cfgLock), (0, f.hopLimit.toNat)])
  | .fabNode => some (pack [(0, f.node.toNat)])
  | .fabTimeout => some (pack [(16, f.respTimeout.toNat), (0, f.adaptThr.toNat)])
  | .fabIntStatus => some (pack [(0, f.intStatus.toNat)])
  | .fabIntEn => some (pack [(0, f.intEn.toNat)])
  | .portCfg p =>
    let x := f.ports[p.val]
    some (pack [(28, x.target.toNat), (24, x.mode.toNat), (20, x.laneEn.toNat), (16, x.window.toNat), (0, x.replayTimeout.toNat)])
  | .portStatus p =>
    let x := f.ports[p.val]
    let up := (List.range 4).map fun w => (24 + w, b2n f.lanes[(laneOf p w).val].up)
    some (pack ([(30, portState p s), (29, b2n ((lanesOf p).any fun l => f.lanes[l.val].peerMismatch)), (28, b2n x.peerReady),
      (16, (portEpoch p s).toNat), (0, x.peerNode.toNat)] ++ up))
  | .fabDomain i => some (pack [(31, b2n f.domain[i.val].isSome), (0, f.domainField[i.val].toNat)])
  | .fabRoute k => some (Tab.get 0 f.routes k)
  | .fabMcast g => some (Tab.get 0 f.mcast g)
  | .fabBar b => some (pack [(16, f.bars[b.val].episode.toNat), (8, f.bars[b.val].arrivals.length), (0, f.bars[b.val].expected.toNat)])
  | .spCtrl => some (pack [(31, b2n s.sp.cfgLock), (1, b2n s.sp.align), (0, b2n s.sp.enable)])
  | .spStatus =>
    let owner := (s.sp.armed.head?.bind fun e => capOwner e.1 s).elim 0 Fin.val
    some (pack [(31, b2n s.sp.window.isSome), (30, b2n s.sp.clkPresent), (29, b2n (!s.sp.holdN)), (28, b2n (!s.sp.lossN)),
      (24, s.sp.armed.length), (16, owner), (0, spFill s)])
  | .spQbCfg => some (pack [(16, s.sp.hw.toNat), (0, s.sp.lw.toNat)])
  | .spClkMeas => some (if s.sp.clkPresent then (Config.spClkKhz s.eph.ticks).setWidth 32 else 0)
  | .spIntStatus => some (pack [(0, s.sp.intStatus.toNat)])
  | .spIntEn => some (pack [(0, s.sp.intEn.toNat)])
  | .errLogCfg i =>
    let r := n.logs[i.val]
    some (pack [(31, b2n r.enable), (16, r.vector.val), (0, r.log2.toNat)])
  | .errLogStat i => some (pack [(31, b2n n.logs[i.val].logFault), (30, b2n n.logs[i.val].cfgInvalid)])
  | .errFence w => some (unitBits UnitSt.fence w.val s)
  | .errTbl w => some (unitBits UnitSt.tbl w.val s)
  | .errMismatch => some (pack [(31, b2n n.mmValid), (16, n.mmCount.toNat), (0, n.mmUnit.toNat)])
  | .nucStatus => some (pack [(31, b2n n.ready), (30, b2n n.busy), (29, b2n n.done), (28, b2n n.overrun)])
  | .nucCtrl => some (pack [(31, b2n n.cfgLock), (8, b2n n.smbusEn), (7, b2n n.doneIrqEn), (0, n.vec.val)])
  | .nucReq k => some (Tab.get 0 n.reqBuf k)
  | .nucRsp k => some (Tab.get 0 n.rspBuf k)
  | .nucUnit u => some (unitWord u s)
  | .nucSens k => some (pack [(16, n.sens[k.val].toNat), (1, b2n (bit n.sensCrit k.val)), (0, b2n (bit n.sensWarn k.val))])
  | _ => none

/-- What a 32-bit read of a register returns: the high word of a pair comes from its read latch once its low word has
been read (R10); write-only registers read 0 (R12). -/
def regValue (r : Reg) (s : State) : Word :=
  match r with
  | .lo p => loWord (pairValue p s)
  | .hi p => (Tab.find s.latch (pairKey p)).getD (hiWord (pairValue p s))
  | r => ((((instValue r s).orElse fun _ => hubValue r s).orElse fun _ => dieValue r s).orElse fun _ => nucValue r s).getD 0

end Sys2Proof.Machine
end

