-- ==== Sys2Proof/Machine/Regs.lean ====
section
/-! DEFINITION. Reads and writes of registers by the host (R9 to R12, R64, R75, R81, R113, R133, R153, R187, R331, R337,
R343, R420, R446, R462, R486, R517, R531, R546, R567). -/

namespace Sys2Proof.Machine

open Sys2Proof

/-! ### Which registers answer (R558, R566) -/

/-- The HUB block answers from the end of stage 0, everything else once the device is ready (R558, R566, R567). -/
def regOpen (r : Reg) (s : State) : Bool :=
  match r with
  | .hubId | .hubGrade | .hubBootStatus | .hubBootErr | .hubReset | .hubResetCause | .hubBootTime | .hubFlashCtrl
  | .hubFlashAddr | .hubFlashBuf _ => hubUp s
  | _ => live s

/-! ### Writes of single registers -/

/-- Bits of a status register that a write of v clears (W1C, R12). -/
def w1c {w : Nat} (x : BitVec w) (v : Word) : BitVec w := x &&& ~~~(v.setWidth w)

/-- Write a register of rings (R75, R81, R99, R113, R133). -/
def ringWrite (r : Reg) (v : Word) (s : State) : State :=
  match r with
  | .sqCtrl i q => sqCtrlWrite i q v s
  | .cqCtrl i q => cqCtrlWrite i q v s
  | .cqIrqMod i q =>
    if s.inst[i.val].st != .ready then ringErr i 5 true q s
    else cqSignal i q (modCq i q (fun c => { c with modCount := BitVec.ofNat 8 (bits v 23 16), modTime := BitVec.ofNat 10 (bits v 9 0) }) s)
  | .ringErr i => modInst i (fun x => { x with err := { x.err with bits := w1c x.err.bits v } }) s
  | _ => s

/-- Write a register of an instance or of the MTU (R128, R140, R141, R153). -/
def instWrite (r : Reg) (v : Word) (s : State) : State :=
  match r with
  | .instCtrl i =>
    let s := modInst i (fun x => { x with resetDone := x.resetDone && !bit v 30, doneIrqEn := bit v 29 }) s
    if bit v 31 && i.val != 0 then resetStart i false false s else s
  | .instSched i => modInst i (fun x => { x with weight := BitVec.ofNat 8 (bits v 23 16), ageUs := BitVec.ofNat 16 (bits v 15 0) }) s
  | .instEng i => modInst i (fun x => { x with wkMask := BitVec.ofNat 16 (bits v 31 16), dmaMask := BitVec.ofNat 16 (bits v 15 0) }) s
  | .instEng2 i =>
    modInst i (fun x => { x with spEn := bit v 10, fabEn := bit v 9, htuEn := bit v 8, evtMask := BitVec.ofNat 8 (bits v 7 0) }) s
  | .admCfg i =>
    admission i (modInst i (fun x =>
      { x with shedMode := BitVec.ofNat 2 (bits v 31 30), lw := BitVec.ofNat 10 (bits v 29 20), hw := BitVec.ofNat 10 (bits v 19 10)
               pressureVec := Fin.ofNat 32 (bits v 9 5), pressureIrqEn := bit v 0 }) s)
  | .admMargin i => modInst i (fun x => { x with margin := BitVec.ofNat 24 (bits v 23 0) }) s
  | .admStatus i => modInst i (fun x => { x with pressureSeen := x.pressureSeen && !bit v 31 }) s
  | .instGlobal => { s with partOverlap := s.partOverlap && !bit v 17, partBusy := s.partBusy && !bit v 16 }
  | .mtuFaultInfo i => if bit v 31 then modMtu i (fun m => { m with faultValid := false, faultCount := 0 }) s else s
  | .mtuInval => invalWrite v s
  | _ => s

/-- Write a register of the HUB block (R560, R563, R567). -/
def hubWrite (r : Reg) (v : Word) (s : State) : State :=
  match r with
  | .hubReset => hubResetWrite v s
  | .hubFlashCtrl =>
    let s := modHub (fun h => { h with flashError := h.flashError && !bit v 27, opField := BitVec.ofNat 2 (bits v 29 28) }) s
    if bit v 30 then flashGo (bits v 29 28) s else s
  | .hubFlashAddr => modHub (fun h => { h with flashAddr := v }) s
  | .hubFlashBuf k => modHub (fun h => { h with flashBuf := Memory.write 0 h.flashBuf (4 * k) (leBytes 4 v.toNat) }) s
  | _ => s

/-- An EVT pin that is disabled shows idle_level (R64). -/
def pinIdle (n : Fin 8) (s : State) : State :=
  let p := s.evt[n.val]
  if !p.enable && p.level != p.idleLevel then evtDrive n p.idleLevel s else s

/-- Write a register of EPH or EVT (R35, R37, R64). -/
def timeWrite (r : Reg) (v : Word) (s : State) : State :=
  let lock := s.eph.cfgLock
  match r with
  | .ephCtrl =>
    modEph (fun e => { e with cfgLock := e.cfgLock || bit v 31, stepAllow := bit v 8
                              todPending := if bit v 1 then false else e.todPending || bit v 0 }) s
  | .ephRefCfg =>
    if lock then s
    else modEph (fun e => { e with ppsComp := BitVec.ofNat 16 (bits v 31 16), ppsEdge := bit v 0
                                   trefSel := if 5 < bits v 10 8 then e.trefSel else BitVec.ofNat 3 (bits v 10 8) }) s
  | .ephHoldLimit => if lock then s else modEph (fun e => { e with holdLimit := v }) s
  | .ephIntStatus => modEph (fun e => { e with intStatus := w1c e.intStatus v }) s
  | .ephIntEn => modEph (fun e => { e with intEn := v.setWidth 7 }) s
  | .evtCfg n =>
    pinIdle n (modPin n (fun p =>
      let p : EvtPin := { p with latePolicy := bit v 12, minState := if bits v 11 10 = 3 then p.minState else BitVec.ofNat 2 (bits v 11 10) }
      if lock then p else { p with idleLevel := bit v 9, enable := bit v 8 }) s)
  | .evtinCfg n => { s with evtin := upd s.evtin n fun e => { e with irqEn := bit v 4, edge := BitVec.ofNat 2 (bits v 1 0) } }
  | .evtinStatus =>
    { s with evtin := Vector.ofFn fun n : Fin 4 => let e := s.evtin[n.val]; { e with overflow := e.overflow && !bit v (16 + n.val) } }
  | _ => s

/-- Write a register of the buffer manager, the lock unit or the scrubber (R399, R420). -/
def memWrite (r : Reg) (v : Word) (s : State) : State :=
  match r with
  | .poolCfg p => poolCfgWrite p v s
  | .bfmInfo => { s with bfm := { s.bfm with evtValid := s.bfm.evtValid && !bit v 31 } }
  | .lkuSel => { s with lku := { s.lku with sel := BitVec.ofNat 12 (bits v 11 0) } }
  | .scbCtrl => { s with mem := { s.mem with dpEn := bit v 1, lpEn := bit v 0 } }
  | .scbLpPeriod => { s with mem := { s.mem with lpPeriod := BitVec.ofNat 31 (bits v 30 0) } }
  | .scbDpPeriod => { s with mem := { s.mem with dpPeriod := BitVec.ofNat 31 (bits v 30 0) } }
  | _ => s

/-- enable of SP_CTRL clear: both pins are high; set: they follow the watermarks (R507, R516). -/
def spEnabled (s : State) : State :=
  if s.sp.enable then spLevel s else modSp (fun x => { x with closed := false, holdN := true, lossN := true, lossBeats := 0 }) s

/-- Write a register of the sample port (R501, R513, R517). -/
def spWrite (r : Reg) (v : Word) (s : State) : State :=
  match r with
  | .spCtrl =>
    let s := if s.sp.cfgLock then s else spEnabled (modSp (fun x => { x with align := bit v 1, enable := bit v 0 }) s)
    let s := modSp (fun x => { x with cfgLock := x.cfgLock || bit v 31 }) s
    if bit v 30 then spFlushAll 5 s else s
  | .spQbCfg => spQbWrite v s
  | .spIntStatus => modSp (fun x => { x with intStatus := w1c x.intStatus v }) s
  | .spIntEn => modSp (fun x => { x with intEn := v.setWidth 5 }) s
  | _ => s

/-- Write a register of ERR or of the NUC mailbox (R519, R533, R546). -/
def nucWrite (r : Reg) (v : Word) (s : State) : State :=
  match r with
  | .errLogCfg i => errLogWrite i v s
  | .errLogStat i => modLog i (fun r => { r with logFault := r.logFault && !bit v 31, cfgInvalid := r.cfgInvalid && !bit v 30 }) s
  | .errMismatch => modNuc (fun n => { n with mmValid := n.mmValid && !bit v 31 }) s
  | .nucStatus => modNuc (fun n => { n with done := n.done && !bit v 29, overrun := n.overrun && !bit v 28 }) s
  | .nucCmd => if bit v 31 then nucArrive (.path .mailbox) (mailboxReq s) s else s
  | .nucCtrl =>
    modNuc (fun n => { n with cfgLock := n.cfgLock || bit v 31, smbusEn := if n.cfgLock then n.smbusEn else bit v 8
                              doneIrqEn := bit v 7, vec := Fin.ofNat 32 (bits v 4 0) }) s
  | .nucReq k => modNuc (fun n => { n with reqBuf := Tab.set n.reqBuf k v }) s
  | _ => s

/-- A core of the partition runs, for a set that is assigned (R337). -/
def setBusy (d b : Fin 4) (s : State) : Bool :=
  let x := (s.dies[d.val]).sets[b.val]
  ((List.finRange 32).any fun q => setOf q = b && (s.dies[d.val]).queues[q.val] != []) || (x.valid && partRuns x.owner s)

/-- A core of the die runs (R337). -/
def dieRuns (d : Fin 4) (s : State) : Bool := (List.finRange 576).any fun c => coreDie c = d && s.cores[c.val].st = .running

/-- A write refused under R337. -/
def wbRefuse (d : Fin 4) (s : State) : State := modDie d (fun x => { x with wbBusy := true }) s

/-- Edges lie from 1 to 64 and never decrease (R343). -/
def edgesOk (e : Vector (BitVec 7) 7) : Bool :=
  e.toList.all (fun x => 1 ≤ x.toNat && x.toNat ≤ 64) && (List.finRange 6).all fun k => e[k.val].toNat ≤ e[k.val + 1].toNat

/-- Write edges of a set (R337, R343). -/
def edgeWrite (d b : Fin 4) (f : Vector (BitVec 7) 7 → Vector (BitVec 7) 7) (s : State) : State :=
  let e := f ((s.dies[d.val]).sets[b.val]).edges
  let s := if edgesOk e then s else modDie d (fun x => { x with edgeInvalid := true }) s
  if setBusy d b s then wbRefuse d s else if edgesOk e then modSet d b (fun x => { x with edges := e }) s else s

/-- Write a register of a compute die window (R187, R331, R337, R343, R379). -/
def dieWrite (r : Reg) (v : Word) (s : State) : State :=
  let e (lo : Nat) : BitVec 7 := BitVec.ofNat 7 (bits v (lo + 6) lo)
  match r with
  | .coreCtrl c =>
    modCore c (fun k => { (if bit v 31 then coreCtrClear k else k) with ctrFreeze := bit v 30 }) s
  | .mbxCfg c m => mbxCfgWrite c m v s
  | .arrStatus c => modCore c (fun k => { k with checkFail := k.checkFail && !bit v 30 }) s
  | .spxErr c => modCore c (fun k => { k with spxErr := k.spxErr && !bit v 31 }) s
  | .wkCtrl w => modWk w (fun x => { x with cnt := if bit v 31 then Vector.replicate 9 0 else x.cnt, ctrFreeze := bit v 30 }) s
  | .wkErr w => modWk w (fun x => { x with errValid := x.errValid && !bit v 31 }) s
  | .setCfg d b =>
    if setBusy d b s then wbRefuse d s
    else modSet d b (fun x => { x with valid := bit v 31, postZero := bit v 30, owner := Fin.ofNat 64 (bits v 5 0) }) s
  | .edgeLo d b => edgeWrite d b (fun x => #v[e 0, e 8, e 16, e 24, x[4], x[5], x[6]]) s
  | .edgeHi d b => edgeWrite d b (fun x => #v[x[0], x[1], x[2], x[3], e 0, e 8, e 16]) s
  | .wbCtrl d =>
    modDie d (fun x => { x with wbBusy := x.wbBusy && !bit v 31, edgeInvalid := x.edgeInvalid && !bit v 30
                                wbTimeout := x.wbTimeout && !bit v 29, timeoutUs := BitVec.ofNat 16 (bits v 15 0) }) s
  | .spillCfg d => if dieRuns d s then wbRefuse d s else modDie d (fun x => { x with spillCfg := BitVec.ofNat 3 (bits v 2 0) }) s
  | .spxThresh i => { s with thresh := upd s.thresh i fun _ => BitVec.ofNat 13 (bits v 12 0) }
  | _ => s

/-- Write a register of HALO or TIDE (R446). -/
def haloWrite (r : Reg) (v : Word) (s : State) : State :=
  let lock := s.tide.cfgLock
  match r with
  | .haloHtuCfg =>
    modHalo (fun h => { h with rate := BitVec.ofNat 2 (bits v 1 0), recalS := if lock then h.recalS else BitVec.ofNat 16 (bits v 23 8) }) s
  | .haloIntStatus => modHalo (fun h => { h with intStatus := w1c h.intStatus v }) s
  | .haloIntEn => modHalo (fun h => { h with intEn := v.setWidth 8 }) s
  | .haloLoopSel => modHalo (fun h => { h with loopSel := BitVec.ofNat 12 (bits v 11 0) }) s
  | .tideCtrl =>
    modTide (fun t =>
      let t : Tide := if lock then t else
        { t with enable := bit v 0, setpoint := if bits v 5 4 = 3 then t.setpoint else BitVec.ofNat 2 (bits v 5 4) }
      { t with cfgLock := t.cfgLock || bit v 31 }) s
  | .tideCap => if lock then s else modTide (fun t => { t with cap64 := BitVec.ofNat 8 (bits v 15 8), cap := BitVec.ofNat 8 (bits v 7 0) }) s
  | .tideMargin =>
    if lock || bits v 14 8 ≤ bits v 6 0 then s
    else modTide (fun t => { t with hi := BitVec.ofNat 7 (bits v 14 8), lo := BitVec.ofNat 7 (bits v 6 0) }) s
  | .tideIntStatus => modTide (fun t => { t with intStatus := w1c t.intStatus v }) s
  | .tideIntEn => modTide (fun t => { t with intEn := v.setWidth 4 }) s
  | _ => s

/-- A lane that may no longer train goes down (R486). -/
def laneAllowed (p : Fin 8) (s : State) : State :=
  ((lanesOf p).filter fun l => !bit s.fab.ports[p.val].laneEn (l.val % 4)).foldl (fun s l => laneFall l s) s

/-- A write of FAB_PORTp_CFG (R486, R531): what target holds is a command to Nucleus. -/
def portCfgWrite (p : Fin 8) (v : Word) (s : State) : State :=
  let lock := s.fab.cfgLock
  let s := modPort p (fun x =>
    let x : Port := { x with target := BitVec.ofNat 2 (bits v 29 28), laneEn := BitVec.ofNat 4 (bits v 23 20)
                             replayTimeout := BitVec.ofNat 16 (bits v 15 0) }
    if lock then x
    else { x with mode := if bits v 25 24 = 3 then x.mode else BitVec.ofNat 2 (bits v 25 24), window := BitVec.ofNat 2 (bits v 17 16) }) s
  portCommand p (bits v 29 28) (laneAllowed p s)

/-- A write of FAB_DOMAINi (R462): a domain that another instance holds is refused. -/
def domainWrite (i : InstId) (v : Word) (s : State) : State :=
  let d : Byte := BitVec.ofNat 8 (bits v 7 0)
  if bit v 31 && (List.finRange 64).any (fun j => j != i && s.fab.domain[j.val] == some d) then fabRaise 4 0 s
  else { s with fab := { s.fab with domain := upd s.fab.domain i fun _ => if bit v 31 then some d else none
                                    domainField := upd s.fab.domainField i fun _ => d } }

/-- Write a register of the fabric (R462, R479, R486). -/
def fabWrite (r : Reg) (v : Word) (s : State) : State :=
  let lock := s.fab.cfgLock
  let modFab (f : Fab → Fab) (s : State) : State := { s with fab := f s.fab }
  match r with
  | .fabCtrl => modFab (fun f => { f with hopLimit := if lock then f.hopLimit else BitVec.ofNat 8 (bits v 7 0), cfgLock := lock || bit v 31 }) s
  | .fabNode => if lock then s else modFab (fun f => { f with node := BitVec.ofNat 16 (bits v 15 0) }) s
  | .fabTimeout => modFab (fun f => { f with respTimeout := BitVec.ofNat 16 (bits v 31 16), adaptThr := BitVec.ofNat 16 (bits v 15 0) }) s
  | .fabIntStatus => modFab (fun f => { f with intStatus := w1c f.intStatus v }) s
  | .fabIntEn => modFab (fun f => { f with intEn := v.setWidth 8 }) s
  | .portCfg p => portCfgWrite p v s
  | .fabDomain i => domainWrite i v s
  | .fabRoute n => modFab (fun f => { f with routes := Tab.set f.routes n (v &&& 0x0000FF01) }) s
  | .fabMcast g => modFab (fun f => { f with mcast := Tab.set f.mcast g (v &&& 0xC0FF00FF) }) s
  | _ => s

/-! ### Pairs (R10) -/

/-- The fields of a pair that a write can set; none for a pair that is read only. -/
def pairMask : Pair → Option Dword
  | .todNext => some (BitVec.allOnes 64)
  | .sqBase _ _ | .cqBase _ _ | .errBase _ => some (~~~0xFFF)
  | .sqShadow _ _ => some (~~~0x7)
  | .part _ | .lkuGrant _ | .invalAddr => some (BitVec.allOnes 64)
  | .mtuRoot _ => some (~~~0xFFE)
  | .spillBase _ => some (~~~0xFFFF)
  | .replayBase _ => some (~~~0xFFFFF)
  | _ => none

/-- A commit of a pair other than a partition: the value x has its reserved bits clear (R10, R75, R81, R133, R337). -/
def pairStore (p : Pair) (x : Dword) (s : State) : State :=
  match p with
  | .todNext => modEph (fun e => { e with todNext := x }) s
  | .sqBase i q =>
    if s.inst[i.val].st != .ready || (s.inst[i.val].sq[q.val].st != .disabled && s.inst[i.val].sq[q.val].base != x) then ringErr i 5 false q s
    else modSq i q (fun r => { r with base := x }) s
  | .sqShadow i q => if s.inst[i.val].st != .ready then ringErr i 5 false q s else modSq i q (fun r => { r with shadow := x }) s
  | .cqBase i q =>
    if s.inst[i.val].st != .ready || (s.inst[i.val].cq[q.val].st = .active && s.inst[i.val].cq[q.val].base != x) then ringErr i 5 true q s
    else modCq i q (fun c => { c with base := x }) s
  | .mtuRoot i => modMtu i (fun m => { m with root := x &&& ~~~0xFFF, enable := bit x 0 }) s
  | .invalAddr => { s with invalAddr := x }
  | .lkuGrant i => { s with lku := { s.lku with grants := upd s.lku.grants i fun _ => x } }
  | .errBase i => modLog i (fun r => { r with base := x }) s
  | .spillBase d => if dieRuns d s then wbRefuse d s else modDie d (fun y => { y with spillBase := x }) s
  | .replayBase d => { s with fab := { s.fab with replayBase := upd s.fab.replayBase d fun _ => x } }
  | _ => s

/-- A write of the low word: it is held; a pair that is read only ignores it (R10, R12). -/
def pairHold (p : Pair) (v : Word) (s : State) : State :=
  match pairMask p with
  | some _ => { s with hold := Tab.set s.hold (pairKey p) v }
  | none => s

/-- A write of the high word commits both; a pair that is read only ignores it (R10, R12). -/
def pairCommit (p : Pair) (v : Word) (s : State) : State :=
  match p, pairMask p with
  | .part n, _ => partCommit n v s
  | p, some m =>
    let lo := (Tab.find s.hold (pairKey p)).getD (loWord (pairValue p s))
    pairStore p ((v ++ lo) &&& m) { s with hold := Tab.del s.hold (pairKey p) }
  | _, none => s

/-- A read of the low word: it is returned, and the high word latched (R10). The low word of EVTIN_TSn removes the
oldest timestamp (R64). -/
def regPairRead (p : Pair) (s : State) : State :=
  let x := pairValue p s
  let s := emit (.readData (leBytes 4 (loWord x).toNat) false) { s with latch := Tab.set s.latch (pairKey p) (hiWord x) }
  match p with
  | .evtinTs n => { s with evtin := upd s.evtin n fun e => { e with fifo := e.fifo.tail } }
  | _ => s

/-! ### Register writes (R9, R11, R12) -/

/-- An aligned 32-bit write of a register. -/
def regWrite (r : Reg) (v : Word) (s : State) : State :=
  match r with
  | .lo p => pairHold p v s
  | .hi p => pairCommit p v s
  | .sqDoorbell i q => sqTailDoorbell i q 4 v s
  | .cqDoorbell i q => cqHeadDoorbell i q 4 v s
  | r => fabWrite r v (haloWrite r v (dieWrite r v (nucWrite r v (spWrite r v (memWrite r v (timeWrite r v (hubWrite r v (instWrite r v
      (ringWrite r v s)))))))))

/-- A pair that belongs to instance i alone. -/
def pairOwn (i : InstId) : Pair → Bool
  | .sqBase j _ | .sqShadow j _ | .cqBase j _ | .lkuGrant j | .errBase j => j = i
  | _ => false

/-- A register that belongs to instance i alone, or holds only what software put there: an undefined write of it alters no
other instance's state and suppresses no record (R7). -/
def regOwn (i : InstId) : Reg → Bool
  | .lo p | .hi p => pairOwn i p
  | .sqCtrl j _ | .cqCtrl j _ | .cqIrqMod j _ | .ringErr j | .instSched j | .instEng j | .instEng2 j | .admCfg j | .admMargin j
  | .admStatus j | .mtuFaultInfo j | .errLogCfg j | .errLogStat j => j = i
  | .hubFlashAddr | .hubFlashBuf _ | .nucReq _ | .lkuSel | .haloLoopSel => i = 0
  | _ => false

/-- The instance that an access through a BAR comes from: the PF is instance 0 (R30, R114). -/
def barInst (a : BarAddr) : InstId :=
  match a.bar with
  | .pf => 0
  | .page i => i

/-- A write of another size or alignment: a doorbell is ignored with db_size (R70); the effect on any other register is
undefined (R9), and confined to the instance i that made it (R7): to a register of its own a free value may be written, or
nothing happens; any other keeps its value (log entry 5). -/
def regOdd (i : InstId) (r : Reg) (v : Word) (s : State) : State :=
  match r with
  | .sqDoorbell j q => sqTailDoorbell j q 0 v s
  | .cqDoorbell j q => cqHeadDoorbell j q 0 v s
  | r =>
    let (b, s) := takeFree 1 s
    let (x, s) := takeFree 32 s
    if regOwn i r && b = 1#1 then regWrite r x s else s

/-- What an aligned 32-bit read at an address returns: 0 where no register stands or answers (R11, R29, R558). -/
def regRead (a : BarAddr) (s : State) : Word :=
  match regAt a with
  | some r => if regOpen r s then regValue r s else 0
  | none => 0

/-- Write the register at an address, if one stands there and answers. -/
def writeAt (f : Reg → State → State) (a : BarAddr) (s : State) : State :=
  match regAt a with
  | some r => if regOpen r s then f r s else s
  | none => s

/-- The words that an access of n bytes at an offset touches. -/
def wordsOf (off n : Nat) : List Nat := (List.range ((off % 4 + n + 3) / 4)).map fun k => off / 4 * 4 + 4 * k

/-- REGISTER_WRITE (R9, R11, R12). -/
def execRegisterWrite (a : BarAddr) (size : Nat) (v : Word) (s : State) : Out :=
  .next (if size = 4 && a.off % 4 = 0 then writeAt (fun r s => regWrite r v s) a s
    else (wordsOf a.off size).foldl (fun s o => writeAt (fun r s => regOdd (barInst a) r v s) { a with off := o } s) s)

/-- REG_PAIR_LOW_READ (R10): a read at an offset that holds no low word returns what stands there, and latches nothing. -/
def execRegPairLowRead (a : BarAddr) (s : State) : Out :=
  act (hubUp s) (fun s =>
    match regAt a with
    | some (.lo p) => if live s then regPairRead p s else emit (.readData (leBytes 4 0) false) s
    | _ => emit (.readData (leBytes 4 (regRead a s).toNat) false) s) s

/-- REG_PAIR_LOW_WRITE (R10). -/
def execRegPairLowWrite (a : BarAddr) (v : Word) (s : State) : Out :=
  match regAt a with
  | some (.lo p) => act (live s) (pairHold p v) s
  | _ => .next s

/-- REG_PAIR_HIGH_WRITE (R10). -/
def execRegPairHighWrite (a : BarAddr) (v : Word) (s : State) : Out :=
  match regAt a with
  | some (.hi p) => act (live s) (pairCommit p v) s
  | _ => .next s

/-- EVTIN_TS_READ (R64). -/
def execEvtinTsRead (n : Fin 4) (s : State) : Out := act (live s) (regPairRead (.evtinTs n)) s

/-- PORT_TARGET_WRITE (R531). -/
def execPortTargetWrite (p : Fin 8) (v : Word) (s : State) : Out := act (live s) (portCfgWrite p v) s

end Sys2Proof.Machine
end

