-- ==== Sys2Proof/Machine/Scalar.lean ====
section
/-! DEFINITION. The SCL family: scalar and predicate instructions, and the BR family: branches (R194,
R195). -/

namespace Sys2Proof.Machine

open Sys2Proof

/-- sd ← op sa sb: the register forms of SCL (R194). -/
def aluR (op : Dword → Dword → Dword) (c : CoreId) (w : RFmt) (s : State) : Out :=
  coreInstr c w.g (w.c = 0 && w.x = 0) { s := [w.d, w.a, w.b] } (fun s =>
    let k := s.cores[c.val]
    advance c (setS c w.d (op (sreg k w.a) (sreg k w.b)) s)) s

/-- sd ← op sa imm: the immediate forms of SCL (R194). -/
def aluI (ok : IFmt → Bool) (op : Dword → BitVec 32 → Dword) (c : CoreId) (w : IFmt) (s : State) : Out :=
  coreInstr c w.g (w.x = 0 && ok w) { s := [w.d, w.a] } (fun s =>
    let k := s.cores[c.val]
    advance c (setS c w.d (op (sreg k w.a) w.imm) s)) s

/-- Signed high 64 bits of a product (R194). -/
def mulHigh (a b : Dword) : Dword := BitVec.ofInt 64 (a.toInt * b.toInt / 2 ^ 64)

/-- Unsigned high 64 bits of a product (R194). -/
def mulHighU (a b : Dword) : Dword := BitVec.ofNat 64 (a.toNat * b.toNat / 2 ^ 64)

def execAdd (c : CoreId) (w : RFmt) (s : State) : Out := aluR (fun a b => a + b) c w s
def execSub (c : CoreId) (w : RFmt) (s : State) : Out := aluR (fun a b => a - b) c w s
def execAnd (c : CoreId) (w : RFmt) (s : State) : Out := aluR (fun a b => a &&& b) c w s
def execOr (c : CoreId) (w : RFmt) (s : State) : Out := aluR (fun a b => a ||| b) c w s
def execXor (c : CoreId) (w : RFmt) (s : State) : Out := aluR (fun a b => a ^^^ b) c w s
def execShl (c : CoreId) (w : RFmt) (s : State) : Out := aluR (fun a b => a <<< (b.toNat % 64)) c w s
def execShr (c : CoreId) (w : RFmt) (s : State) : Out := aluR (fun a b => a >>> (b.toNat % 64)) c w s
def execSra (c : CoreId) (w : RFmt) (s : State) : Out := aluR (fun a b => a.sshiftRight (b.toNat % 64)) c w s
def execMul (c : CoreId) (w : RFmt) (s : State) : Out := aluR (fun a b => a * b) c w s
def execMulh (c : CoreId) (w : RFmt) (s : State) : Out := aluR (fun a b => mulHigh a b) c w s
def execMulhu (c : CoreId) (w : RFmt) (s : State) : Out := aluR (fun a b => mulHighU a b) c w s
def execMin (c : CoreId) (w : RFmt) (s : State) : Out := aluR (fun a b => if a.slt b then a else b) c w s
def execMax (c : CoreId) (w : RFmt) (s : State) : Out := aluR (fun a b => if a.slt b then b else a) c w s
def execMinu (c : CoreId) (w : RFmt) (s : State) : Out := aluR (fun a b => if a.ult b then a else b) c w s
def execMaxu (c : CoreId) (w : RFmt) (s : State) : Out := aluR (fun a b => if a.ult b then b else a) c w s

/-- SEL (R194). -/
def execSel (c : CoreId) (w : RFmt) (s : State) : Out :=
  coreInstr c w.g (w.c = 0 && only w.x 7) { s := [w.d, w.a, w.b], p := [predX w.x] } (fun s =>
    let k := s.cores[c.val]
    let v := if (preg k (predX w.x)).getLsbD 0 then sreg k w.a else sreg k w.b
    advance c (setS c w.d v s)) s

/-- CMP (R194). -/
def execCmp (c : CoreId) (w : RFmt) (s : State) : Out :=
  coreInstr c w.g (w.c = 0 && only w.x 7 && w.x.toNat ≤ 5 && isPred w.d) { s := [w.a, w.b], p := [predOf w.d] } (fun s =>
    let k := s.cores[c.val]
    advance c (setP c (predOf w.d) (truth (condHolds w.x.toNat (sreg k w.a) (sreg k w.b))) s)) s

/-- PLOG (R194). -/
def execPlog (c : CoreId) (w : RFmt) (s : State) : Out :=
  coreInstr c w.g (w.c = 0 && only w.x 3 && isPred w.d && isPred w.a && isPred w.b)
    { p := [predOf w.d, predOf w.a, predOf w.b] } (fun s =>
      let k := s.cores[c.val]
      advance c (setP c (predOf w.d) (plogOp w.x.toNat (preg k (predOf w.a)) (preg k (predOf w.b))) s)) s

/-- PMOV (R194). -/
def execPmov (c : CoreId) (w : RFmt) (s : State) : Out :=
  coreInstr c w.g (w.b = 0 && w.c = 0 && w.x = 0 && isPred w.a) { s := [w.d], p := [predOf w.a] } (fun s =>
    let k := s.cores[c.val]
    advance c (setS c w.d ((preg k (predOf w.a)).setWidth 64) s)) s

/-- PSET (R194). -/
def execPset (c : CoreId) (w : RFmt) (s : State) : Out :=
  coreInstr c w.g (w.b = 0 && w.c = 0 && w.x = 0 && isPred w.d) { s := [w.a], p := [predOf w.d] } (fun s =>
    let k := s.cores[c.val]
    advance c (setP c (predOf w.d) ((sreg k w.a).setWidth 16) s)) s

/-- RDF (R194). -/
def execRdf (c : CoreId) (w : RFmt) (s : State) : Out :=
  coreInstr c w.g (w.a = 0 && w.b = 0 && w.c = 0 && only w.x 1) { s := [w.d] } (fun s =>
    let f := s.cores[c.val].flags
    let s := setS c w.d (f.setWidth 64) s
    advance c (if w.x = 1 then modCore c (fun k => { k with flags := 0 }) s else s)) s

def execAddi (c : CoreId) (w : IFmt) (s : State) : Out :=
  aluI (fun _ => true) (fun a i => a + i.signExtend 64) c w s
def execAndi (c : CoreId) (w : IFmt) (s : State) : Out :=
  aluI (fun _ => true) (fun a i => a &&& i.signExtend 64) c w s
def execOri (c : CoreId) (w : IFmt) (s : State) : Out :=
  aluI (fun _ => true) (fun a i => a ||| i.signExtend 64) c w s
def execXori (c : CoreId) (w : IFmt) (s : State) : Out :=
  aluI (fun _ => true) (fun a i => a ^^^ i.signExtend 64) c w s
def execShli (c : CoreId) (w : IFmt) (s : State) : Out :=
  aluI (fun w => w.imm.toNat < 64) (fun a i => a <<< i.toNat) c w s
def execShri (c : CoreId) (w : IFmt) (s : State) : Out :=
  aluI (fun w => w.imm.toNat < 64) (fun a i => a >>> i.toNat) c w s
def execSrai (c : CoreId) (w : IFmt) (s : State) : Out :=
  aluI (fun w => w.imm.toNat < 64) (fun a i => a.sshiftRight i.toNat) c w s
def execMovi (c : CoreId) (w : IFmt) (s : State) : Out :=
  aluI (fun w => w.a = 0) (fun _a i => i.signExtend 64) c w s
def execMovhi (c : CoreId) (w : IFmt) (s : State) : Out :=
  aluI (fun _ => true) (fun a i => (a &&& 0xFFFFFFFF) ||| (i.setWidth 64 <<< 32)) c w s

/-- CMPI (R194). -/
def execCmpi (c : CoreId) (w : IFmt) (s : State) : Out :=
  coreInstr c w.g (only w.x 7 && w.x.toNat ≤ 5 && isPred w.d) { s := [w.a], p := [predOf w.d] } (fun s =>
    let k := s.cores[c.val]
    advance c (setP c (predOf w.d) (truth (condHolds w.x.toNat (sreg k w.a) (w.imm.signExtend 64))) s)) s

/-! ### Branches -/

/-- The target of a relative branch: pc + 8·off (R194). -/
def relTarget (k : Core) (w : BFmt) : Int := (k.pc.toNat : Int) + 8 * w.off.toInt

/-- The target of a branch to a register: sa bits 16:0 (R194). -/
def regTarget (k : Core) (w : BFmt) : Int := (bits (sreg k w.a) 16 0 : Int)

/-- The address that a linking branch keeps (R194). -/
def linkValue (k : Core) : Dword := BitVec.ofNat 64 (k.pc.toNat + 8)

/-- B (R194). -/
def execB (c : CoreId) (w : BFmt) (s : State) : Out :=
  coreInstr c w.g (w.rsv = 0 && w.d = 0 && w.a = 0) {} (fun s => branchTo c (relTarget s.cores[c.val] w) id s) s

/-- BL (R194). -/
def execBl (c : CoreId) (w : BFmt) (s : State) : Out :=
  coreInstr c w.g (w.rsv = 0 && w.a = 0) { s := [w.d] } (fun s =>
    branchTo c (relTarget s.cores[c.val] w) (setS c w.d (linkValue s.cores[c.val])) s) s

/-- BR (R194); off is not used, and is no reserved field (R191, log entry 16). -/
def execBr (c : CoreId) (w : BFmt) (s : State) : Out :=
  coreInstr c w.g (w.rsv = 0 && w.d = 0) { s := [w.a] } (fun s =>
    branchTo c (regTarget s.cores[c.val] w) id s) s

/-- BLR (R194): the target is the sa that the link has not yet replaced. -/
def execBlr (c : CoreId) (w : BFmt) (s : State) : Out :=
  coreInstr c w.g (w.rsv = 0) { s := [w.d, w.a] } (fun s =>
    branchTo c (regTarget s.cores[c.val] w) (setS c w.d (linkValue s.cores[c.val])) s) s

/-- LOOP (R194): sa falls by 1, and its new value decides; s0 keeps reading 0 (log entry 16). -/
def execLoop (c : CoreId) (w : BFmt) (s : State) : Out :=
  coreInstr c w.g (w.rsv = 0 && w.d = 0) { s := [w.a] } (fun s =>
    let k := s.cores[c.val]
    let dec := setS c w.a (sreg k w.a - 1)
    if sreg (dec s).cores[c.val] w.a = 0 then advance c (dec s)
    else branchTo c (relTarget k w) dec s) s

end Sys2Proof.Machine
end

