-- ==== Sys2Proof/Machine/VectorUnit.lean ====
section
/-! DEFINITION. The VEC family: vector instructions over 16 lanes of 32 bits (R200, R201). -/

namespace Sys2Proof.Machine

open Sys2Proof

/-! ### Lanes and elements -/

/-- Lane i of a vector. -/
def lane (v : BitVec 512) (i : Nat) : BitVec 32 := v.extractLsb' (32 * i) 32

/-- The vector of 16 lanes. -/
def ofLanes (f : Nat → BitVec 32) : BitVec 512 :=
  (List.range 16).foldl (fun acc i => acc ||| ((f i).setWidth 512 <<< (32 * i))) 0

/-- Bits of an element by type: 0 i32, 1 u32, 2 f32, 3 bf16, 4 fp16, 5 i16, 6 i8 (R200). -/
def elemWidth (ty : Nat) : Nat := if ty ≤ 2 then 32 else if ty ≤ 5 then 16 else 8

/-- The floating-point format of a type. -/
def elemFloat (ty : Nat) : Option FFmt :=
  if ty = 2 then some fFP32 else if ty = 3 then some fBF16 else if ty = 4 then some fFP16 else none

/-- Element j of a lane. -/
def elem (w : Nat) (x : BitVec 32) (j : Nat) : Nat := (x.toNat >>> (w * j)) % 2 ^ w

/-- The lane of the elements f 0, f 1, …, each taken modulo its width. -/
def ofElems (w : Nat) (f : Nat → Nat) : BitVec 32 :=
  BitVec.ofNat 32 ((List.range (32 / w)).foldl (fun acc j => acc + (f j % 2 ^ w) * 2 ^ (w * j)) 0)

/-- The value of an integer element: u32 is unsigned, the others two's complement. -/
def elemInt (ty : Nat) (x : Nat) : Int :=
  let w := elemWidth ty
  if ty != 1 && 2 ^ (w - 1) ≤ x then (x : Int) - 2 ^ w else x

/-- An integer as an element, wrapped. -/
def intElem (ty : Nat) (i : Int) : Nat := (i % 2 ^ elemWidth ty).toNat

/-- The range of an integer type. -/
def elemLo (ty : Nat) : Int := if ty = 1 then 0 else -(2 ^ (elemWidth ty - 1))
def elemHi (ty : Nat) : Int := if ty = 1 then 2 ^ 32 - 1 else 2 ^ (elemWidth ty - 1) - 1

/-- An element as a number. -/
def elemNum (ty : Nat) (x : Nat) : Num :=
  match elemFloat ty with
  | some f => decodeF f x
  | none => numOfInt (elemInt ty x)

/-- A number as an element: rounded to nearest-even; to an integer type, saturated (R201). -/
def numElem (ty : Nat) (n : Num) : Nat :=
  match elemFloat ty with
  | some f => encodeF f 0 n
  | none => intElem ty (numToInt 0 (elemLo ty) (elemHi ty) n)

/-! ### Element operations -/

/-- Operations on numbers and on wrapping integers. -/
def elemOp (ty : Nat) (fn : Num → Num → Num) (iop : Nat → Nat → Int) (a b : Nat) : Nat :=
  match elemFloat ty with
  | some f => encodeF f 0 (fn (decodeF f a) (decodeF f b))
  | none => intElem ty (iop a b)

/-- VFMA of one element, with one rounding for floating types (R200). -/
def fmaElem (ty : Nat) (a b d : Nat) : Nat :=
  match elemFloat ty with
  | some f => encodeF f 0 (addNum (mulNum (decodeF f a) (decodeF f b)) (decodeF f d))
  | none => intElem ty ((a : Int) * b + d)

/-- Minimum or maximum of one element. Of a NaN and a number, and of zeros of different sign, the spec does
not say which is taken: which is free (log entry 17); a result that is a NaN is the canonical one (R201). -/
def minMaxElem (isMax : Bool) (ty : Nat) (n : Nat) (a b : Nat) : Nat :=
  match elemFloat ty with
  | none => if (elemInt ty a ≤ elemInt ty b) != isMax then a else b
  | some f =>
    match cmpNum (decodeF f a) (decodeF f b) with
    | none =>
      if decodeF f a = decodeF f b || Config.freeValue n 1 = 1#1 then canonNaN f
      else if decodeF f a = .nan then b else a
    | some .lt => if isMax then b else a
    | some .gt => if isMax then a else b
    | some .eq => if a = b || Config.freeValue n 1 = 1#1 then a else b

/-- Shift of one element by the matching element of vb, modulo the width (R200). -/
def shiftElem (kind : Nat) (ty : Nat) (a b : Nat) : Nat :=
  let w := elemWidth ty
  let n := b % w
  if kind = 0 then a * 2 ^ n
  else if kind = 1 then a / 2 ^ n
  else intElem ty ((if 2 ^ (w - 1) ≤ a then (a : Int) - 2 ^ w else a) / 2 ^ n)

/-- VCMP of one lane: conditions eq to ge compare the values of the type, ltu and geu the bits as unsigned; an
unordered pair is only ne (R194, R200, R201; log entry 17). -/
def cmpLane (ty cond : Nat) (a b : BitVec 32) : Bool :=
  let o := cmpNum (elemNum ty a.toNat) (elemNum ty b.toNat)
  match cond with
  | 0 => o == some .eq
  | 1 => o != some .eq
  | 2 => o == some .lt
  | 3 => o == some .gt || o == some .eq
  | 4 => a.ult b
  | _ => !a.ult b

/-- VCVT of one lane (R200). Where the source or the result is i8, the spec does not say which element is
meant: a free value (log entry 17). -/
def cvtLane (src dst : Nat) (high : Bool) (n : Nat) (a : BitVec 32) : BitVec 32 :=
  if src = 6 ∨ dst = 6 then Config.freeValue n 32
  else
    let x := if elemWidth src = 16 then elem 16 a (b2n high) else a.toNat
    BitVec.ofNat 32 (numElem dst (elemNum src x))

/-! ### Issue of a vector instruction -/

/-- The element type, x28:26. -/
def vecType (w : RFmt) : Nat := bits w.x 28 26

/-- The type is legal, and no bit of x below the mask fields is set but those of `more` (R191, R200; log entry 17). -/
def vecX (w : RFmt) (maxType more : Nat) : Bool :=
  vecType w ≤ maxType && bits w.x 21 0 &&& more = bits w.x 21 0

/-- The mask predicate, if the mask is enabled. -/
def vecMask (w : RFmt) : List (BitVec 3) := if bit w.x 25 then [BitVec.ofNat 3 (bits w.x 24 22)] else []

/-- Lane i is written (R200). -/
def laneOn (k : Core) (w : RFmt) (i : Nat) : Bool :=
  !bit w.x 25 || (preg k (BitVec.ofNat 3 (bits w.x 24 22))).getLsbD i

/-- A vector instruction that writes vd lane by lane and takes n free values. -/
def vecInstr (n : Nat) (c : CoreId) (w : RFmt) (ok : Bool) (u : Use) (f : State → Core → Nat → BitVec 32) (s : State) : Out :=
  coreInstr c w.g ok { u with v := w.d :: u.v, p := u.p ++ vecMask w } (fun s =>
    let k := s.cores[c.val]
    let r := ofLanes fun i => if laneOn k w i then f s k i else lane (vreg k w.d) i
    advance c (setV c w.d r { s with free := s.free + n })) s

/-- vd ← op va vb, element by element. -/
def vecBin (maxType : Nat) (op : Nat → Nat → Nat → Nat) (c : CoreId) (w : RFmt) (s : State) : Out :=
  let ty := vecType w
  vecInstr 0 c w (w.c = 0 && vecX w maxType 0) { v := [w.a, w.b] } (fun _ k i =>
    ofElems (elemWidth ty) fun j =>
      op ty (elem (elemWidth ty) (lane (vreg k w.a) i) j) (elem (elemWidth ty) (lane (vreg k w.b) i) j)) s

/-- VMIN and VMAX. -/
def vecMinMax (isMax : Bool) (c : CoreId) (w : RFmt) (s : State) : Out :=
  let ty := vecType w
  vecInstr 64 c w (w.c = 0 && vecX w 6 0) { v := [w.a, w.b] } (fun s k i =>
    ofElems (elemWidth ty) fun j =>
      minMaxElem isMax ty (s.free + 4 * i + j) (elem (elemWidth ty) (lane (vreg k w.a) i) j)
        (elem (elemWidth ty) (lane (vreg k w.b) i) j)) s

/-! ### The instructions -/

def execVadd (c : CoreId) (w : RFmt) (s : State) : Out :=
  vecBin 6 (fun ty a b => elemOp ty addNum (fun a b => a + b) a b) c w s
def execVsub (c : CoreId) (w : RFmt) (s : State) : Out :=
  vecBin 6 (fun ty a b => elemOp ty (fun a b => addNum a (negNum b)) (fun a b => (a : Int) - b) a b) c w s
def execVmul (c : CoreId) (w : RFmt) (s : State) : Out :=
  vecBin 6 (fun ty a b => elemOp ty mulNum (fun a b => a * b) a b) c w s

/-- VFMA (R200). -/
def execVfma (c : CoreId) (w : RFmt) (s : State) : Out :=
  let ty := vecType w
  vecInstr 0 c w (w.c = 0 && vecX w 6 0) { v := [w.a, w.b] } (fun _ k i =>
    ofElems (elemWidth ty) fun j =>
      fmaElem ty (elem (elemWidth ty) (lane (vreg k w.a) i) j) (elem (elemWidth ty) (lane (vreg k w.b) i) j)
        (elem (elemWidth ty) (lane (vreg k w.d) i) j)) s

def execVmin (c : CoreId) (w : RFmt) (s : State) : Out := vecMinMax false c w s
def execVmax (c : CoreId) (w : RFmt) (s : State) : Out := vecMinMax true c w s

def execVand (c : CoreId) (w : RFmt) (s : State) : Out := vecBin 0 (fun _ a b => a &&& b) c w s
def execVor (c : CoreId) (w : RFmt) (s : State) : Out := vecBin 0 (fun _ a b => a ||| b) c w s
def execVxor (c : CoreId) (w : RFmt) (s : State) : Out := vecBin 0 (fun _ a b => a ^^^ b) c w s

def execVshl (c : CoreId) (w : RFmt) (s : State) : Out := vecBin 6 (shiftElem 0) c w s
def execVshr (c : CoreId) (w : RFmt) (s : State) : Out := vecBin 6 (shiftElem 1) c w s
def execVsra (c : CoreId) (w : RFmt) (s : State) : Out := vecBin 6 (shiftElem 2) c w s

/-- VCMP (R200): a lane that the mask turns off keeps its bit of pd (log entry 17). -/
def execVcmp (c : CoreId) (w : RFmt) (s : State) : Out :=
  let ty := vecType w
  let cond := bits w.x 2 0
  coreInstr c w.g (w.c = 0 && vecX w 2 7 && cond ≤ 5 && isPred w.d)
    { v := [w.a, w.b], p := predOf w.d :: vecMask w } (fun s =>
      let k := s.cores[c.val]
      let r := (List.range 16).foldl (fun (acc : BitVec 16) i =>
        let b := if laneOn k w i then cmpLane ty cond (lane (vreg k w.a) i) (lane (vreg k w.b) i)
                 else (preg k (predOf w.d)).getLsbD i
        acc ||| (if b then 1#16 <<< i else 0)) 0
      advance c (setP c (predOf w.d) r s)) s

/-- VSEL (R200). -/
def execVsel (c : CoreId) (w : RFmt) (s : State) : Out :=
  vecInstr 0 c w (isPred w.c && vecX w 6 0) { v := [w.a, w.b], p := [predOf w.c] } (fun _ k i =>
    if (preg k (predOf w.c)).getLsbD i then lane (vreg k w.a) i else lane (vreg k w.b) i) s

/-- VCVT (R200). -/
def execVcvt (c : CoreId) (w : RFmt) (s : State) : Out :=
  vecInstr 16 c w (w.b = 0 && w.c = 0 && vecX w 6 15 && bits w.x 2 0 ≤ 6) { v := [w.a] } (fun s k i =>
    cvtLane (vecType w) (bits w.x 2 0) (bit w.x 3) (s.free + i) (lane (vreg k w.a) i)) s

/-- VBC (R200). -/
def execVbc (c : CoreId) (w : RFmt) (s : State) : Out :=
  vecInstr 0 c w (w.b = 0 && w.c = 0 && vecX w 6 0) { s := [w.a] } (fun _ k _ => (sreg k w.a).setWidth 32) s

/-- VEXT (R200). -/
def execVext (c : CoreId) (w : RFmt) (s : State) : Out :=
  coreInstr c w.g (w.b = 0 && w.c = 0 && vecX w 6 15) { s := [w.d], v := [w.a], p := vecMask w } (fun s =>
    advance c (setS c w.d ((lane (vreg s.cores[c.val] w.a) (bits w.x 3 0)).setWidth 64) s)) s

/-- VINS (R200). -/
def execVins (c : CoreId) (w : RFmt) (s : State) : Out :=
  vecInstr 0 c w (w.b = 0 && w.c = 0 && vecX w 6 15) { s := [w.a] } (fun _ k i =>
    if i = bits w.x 3 0 then (sreg k w.a).setWidth 32 else lane (vreg k w.d) i) s

/-- VPERM (R200). -/
def execVperm (c : CoreId) (w : RFmt) (s : State) : Out :=
  vecInstr 0 c w (w.c = 0 && vecX w 6 0) { v := [w.a, w.b] } (fun _ k i =>
    lane (vreg k w.a) ((lane (vreg k w.b) i).toNat % 16)) s

/-- The sum of the lanes (R200): exact for integers, rounded at each step from lane 0 for f32. -/
def sumLanes (ty : Nat) (v : BitVec 512) : Dword :=
  if ty = 2 then
    BitVec.ofNat 64 ((List.range 15).foldl (fun acc i => f32Add acc (lane v (i + 1)).toNat) (lane v 0).toNat)
  else BitVec.ofInt 64 ((List.range 16).foldl (fun acc i => acc + elemInt ty (lane v i).toNat) 0)

/-- VRSUM (R200). -/
def execVrsum (c : CoreId) (w : RFmt) (s : State) : Out :=
  coreInstr c w.g (w.b = 0 && w.c = 0 && vecX w 2 0) { s := [w.d], v := [w.a], p := vecMask w } (fun s =>
    advance c (setS c w.d (sumLanes (vecType w) (vreg s.cores[c.val] w.a)) s)) s

end Sys2Proof.Machine
end

