-- ==== Sys2Proof/Machine/Dispatch.lean ====
section
/-! DEFINITION. The command dispatch: one arm per row of the opcode table, each one direct call. -/

namespace Sys2Proof.Machine

/-- The effect of a command on everything but the queue. -/
def exec (i : Instr) (s : State) : Host.Outcome State Fault Refusal :=
  match i with
  | .registerWrite a size v => Sys2Proof.Machine.execRegisterWrite a size v s
  | .regPairLowRead a => Sys2Proof.Machine.execRegPairLowRead a s
  | .regPairLowWrite a v => Sys2Proof.Machine.execRegPairLowWrite a v s
  | .regPairHighWrite a v => Sys2Proof.Machine.execRegPairHighWrite a v s
  | .todArm => Sys2Proof.Machine.execTodArm s
  | .todCancel arm => Sys2Proof.Machine.execTodCancel arm s
  | .pllLock ppm => Sys2Proof.Machine.execPllLock ppm s
  | .trefQualify ppm => Sys2Proof.Machine.execTrefQualify ppm s
  | .trefLoss => Sys2Proof.Machine.execTrefLoss s
  | .ppsEdge => Sys2Proof.Machine.execPpsEdge s
  | .ppsLoss => Sys2Proof.Machine.execPpsLoss s
  | .phaseSlewDone residual => Sys2Proof.Machine.execPhaseSlewDone residual s
  | .holdLimitExpiry => Sys2Proof.Machine.execHoldLimitExpiry s
  | .gett c w => Sys2Proof.Machine.execGett c w s
  | .waitt c w => Sys2Proof.Machine.execWaitt c w s
  | .waittWake c => Sys2Proof.Machine.execWaittWake c s
  | .tchk c w => Sys2Proof.Machine.execTchk c w s
  | .evtEnqueue pin => Sys2Proof.Machine.execEvtEnqueue pin s
  | .evtHeldExpiry d => Sys2Proof.Machine.execEvtHeldExpiry d s
  | .evtAction pin => Sys2Proof.Machine.execEvtAction pin s
  | .evtPulseFall pin => Sys2Proof.Machine.execEvtPulseFall pin s
  | .evtinEdge n rising => Sys2Proof.Machine.execEvtinEdge n rising s
  | .evtinTsRead n => Sys2Proof.Machine.execEvtinTsRead n s
  | .sqTailDoorbell j q size v => Sys2Proof.Machine.execSqTailDoorbell j q size v s
  | .cqHeadDoorbell j q size v => Sys2Proof.Machine.execCqHeadDoorbell j q size v s
  | .descriptorFetch j q n link => Sys2Proof.Machine.execDescriptorFetch j q n link s
  | .headShadowWrite j q => Sys2Proof.Machine.execHeadShadowWrite j q s
  | .sqEnable j q v => Sys2Proof.Machine.execSqEnable j q v s
  | .sqDisable j q v => Sys2Proof.Machine.execSqDisable j q v s
  | .sqDrainDone j q => Sys2Proof.Machine.execSqDrainDone j q s
  | .cqEnable j q v => Sys2Proof.Machine.execCqEnable j q v s
  | .cqDisable j q v => Sys2Proof.Machine.execCqDisable j q v s
  | .completionRecord j q => Sys2Proof.Machine.execCompletionRecord j q s
  | .cqModTimer j q => Sys2Proof.Machine.execCqModTimer j q s
  | .msixUnmask fn vec => Sys2Proof.Machine.execMsixUnmask fn vec s
  | .descriptorRelease d => Sys2Proof.Machine.execDescriptorRelease d s
  | .deadlineExpiry d => Sys2Proof.Machine.execDeadlineExpiry d s
  | .descriptorAged d => Sys2Proof.Machine.execDescriptorAged d s
  | .nop d => Sys2Proof.Machine.execNop d s
  | .fence d => Sys2Proof.Machine.execFence d s
  | .launch d => Sys2Proof.Machine.execLaunch d s
  | .dmaCopy d ch err => Sys2Proof.Machine.execDmaCopy d ch err s
  | .dmaGather d ch err => Sys2Proof.Machine.execDmaGather d ch err s
  | .search d => Sys2Proof.Machine.execSearch d s
  | .searchQueryStart d wk cut => Sys2Proof.Machine.execSearchQueryStart d wk cut s
  | .queryStopTime d j => Sys2Proof.Machine.execQueryStopTime d j s
  | .indexUpdate d wk => Sys2Proof.Machine.execIndexUpdate d wk s
  | .htuRun d => Sys2Proof.Machine.execHtuRun d s
  | .htuWalkerRequest => Sys2Proof.Machine.execHtuWalkerRequest s
  | .htuMatrixLocked => Sys2Proof.Machine.execHtuMatrixLocked s
  | .capture d => Sys2Proof.Machine.execCapture d s
  | .event d => Sys2Proof.Machine.execEvent d s
  | .lockAdmin d => Sys2Proof.Machine.execLockAdmin d s
  | .vfFlr j => Sys2Proof.Machine.execVfFlr j s
  | .pfFlr => Sys2Proof.Machine.execPfFlr s
  | .instanceReset j => Sys2Proof.Machine.execInstanceReset j s
  | .vfEnableClear => Sys2Proof.Machine.execVfEnableClear s
  | .vfEnableSet numVFs => Sys2Proof.Machine.execVfEnableSet numVFs s
  | .resetHalt j => Sys2Proof.Machine.execResetHalt j s
  | .resetObserve j => Sys2Proof.Machine.execResetObserve j s
  | .resetDrainItemDone j d => Sys2Proof.Machine.execResetDrainItemDone j d s
  | .resetEscalate j => Sys2Proof.Machine.execResetEscalate j s
  | .engineResetTimeout e => Sys2Proof.Machine.execEngineResetTimeout e s
  | .resetZeroingDone j => Sys2Proof.Machine.execResetZeroingDone j s
  | .partitionCommit n v => Sys2Proof.Machine.execPartitionCommit n v s
  | .estimatorWindow => Sys2Proof.Machine.execEstimatorWindow s
  | .pressureTimeout j => Sys2Proof.Machine.execPressureTimeout j s
  | .mtuInvalGo v => Sys2Proof.Machine.execMtuInvalGo v s
  | .mtuInvalDone => Sys2Proof.Machine.execMtuInvalDone s
  | .barWindowRead j off len => Sys2Proof.Machine.execBarWindowRead j off len s
  | .barWindowWrite j off data => Sys2Proof.Machine.execBarWindowWrite j off data s
  | .add c w => Sys2Proof.Machine.execAdd c w s
  | .sub c w => Sys2Proof.Machine.execSub c w s
  | .and c w => Sys2Proof.Machine.execAnd c w s
  | .or c w => Sys2Proof.Machine.execOr c w s
  | .xor c w => Sys2Proof.Machine.execXor c w s
  | .shl c w => Sys2Proof.Machine.execShl c w s
  | .shr c w => Sys2Proof.Machine.execShr c w s
  | .sra c w => Sys2Proof.Machine.execSra c w s
  | .mul c w => Sys2Proof.Machine.execMul c w s
  | .mulh c w => Sys2Proof.Machine.execMulh c w s
  | .mulhu c w => Sys2Proof.Machine.execMulhu c w s
  | .min c w => Sys2Proof.Machine.execMin c w s
  | .max c w => Sys2Proof.Machine.execMax c w s
  | .minu c w => Sys2Proof.Machine.execMinu c w s
  | .maxu c w => Sys2Proof.Machine.execMaxu c w s
  | .sel c w => Sys2Proof.Machine.execSel c w s
  | .cmp c w => Sys2Proof.Machine.execCmp c w s
  | .plog c w => Sys2Proof.Machine.execPlog c w s
  | .pmov c w => Sys2Proof.Machine.execPmov c w s
  | .pset c w => Sys2Proof.Machine.execPset c w s
  | .rdf c w => Sys2Proof.Machine.execRdf c w s
  | .addi c w => Sys2Proof.Machine.execAddi c w s
  | .andi c w => Sys2Proof.Machine.execAndi c w s
  | .ori c w => Sys2Proof.Machine.execOri c w s
  | .xori c w => Sys2Proof.Machine.execXori c w s
  | .shli c w => Sys2Proof.Machine.execShli c w s
  | .shri c w => Sys2Proof.Machine.execShri c w s
  | .srai c w => Sys2Proof.Machine.execSrai c w s
  | .movi c w => Sys2Proof.Machine.execMovi c w s
  | .movhi c w => Sys2Proof.Machine.execMovhi c w s
  | .cmpi c w => Sys2Proof.Machine.execCmpi c w s
  | .b c w => Sys2Proof.Machine.execB c w s
  | .bl c w => Sys2Proof.Machine.execBl c w s
  | .br c w => Sys2Proof.Machine.execBr c w s
  | .blr c w => Sys2Proof.Machine.execBlr c w s
  | .loop c w => Sys2Proof.Machine.execLoop c w s
  | .ld c w err => Sys2Proof.Machine.execLd c w err s
  | .lds c w err => Sys2Proof.Machine.execLds c w err s
  | .st c w => Sys2Proof.Machine.execSt c w s
  | .vld c w err => Sys2Proof.Machine.execVld c w err s
  | .vst c w => Sys2Proof.Machine.execVst c w s
  | .vadd c w => Sys2Proof.Machine.execVadd c w s
  | .vsub c w => Sys2Proof.Machine.execVsub c w s
  | .vmul c w => Sys2Proof.Machine.execVmul c w s
  | .vfma c w => Sys2Proof.Machine.execVfma c w s
  | .vmin c w => Sys2Proof.Machine.execVmin c w s
  | .vmax c w => Sys2Proof.Machine.execVmax c w s
  | .vand c w => Sys2Proof.Machine.execVand c w s
  | .vor c w => Sys2Proof.Machine.execVor c w s
  | .vxor c w => Sys2Proof.Machine.execVxor c w s
  | .vshl c w => Sys2Proof.Machine.execVshl c w s
  | .vshr c w => Sys2Proof.Machine.execVshr c w s
  | .vsra c w => Sys2Proof.Machine.execVsra c w s
  | .vcmp c w => Sys2Proof.Machine.execVcmp c w s
  | .vsel c w => Sys2Proof.Machine.execVsel c w s
  | .vcvt c w => Sys2Proof.Machine.execVcvt c w s
  | .vbc c w => Sys2Proof.Machine.execVbc c w s
  | .vext c w => Sys2Proof.Machine.execVext c w s
  | .vins c w => Sys2Proof.Machine.execVins c w s
  | .vperm c w => Sys2Proof.Machine.execVperm c w s
  | .vrsum c w => Sys2Proof.Machine.execVrsum c w s
  | .mma c w residue => Sys2Proof.Machine.execMma c w residue s
  | .mmas c x => Sys2Proof.Machine.execMmas c x s
  | .mcfg c w => Sys2Proof.Machine.execMcfg c w s
  | .drain c w => Sys2Proof.Machine.execDrain c w s
  | .redmax c w => Sys2Proof.Machine.execRedmax c w s
  | .redmin c w => Sys2Proof.Machine.execRedmin c w s
  | .ctxsv c w => Sys2Proof.Machine.execCtxsv c w s
  | .ctxld c w => Sys2Proof.Machine.execCtxld c w s
  | .isect c w => Sys2Proof.Machine.execIsect c w s
  | .hacc c w => Sys2Proof.Machine.execHacc c w s
  | .hflush c w => Sys2Proof.Machine.execHflush c w s
  | .hclr c w => Sys2Proof.Machine.execHclr c w s
  | .cmpr c w => Sys2Proof.Machine.execCmpr c w s
  | .wbPost c => Sys2Proof.Machine.execWbPost c s
  | .wbPostTimeout c => Sys2Proof.Machine.execWbPostTimeout c s
  | .send c w => Sys2Proof.Machine.execSend c w s
  | .recv c x => Sys2Proof.Machine.execRecv c x s
  | .recvnb c x => Sys2Proof.Machine.execRecvnb c x s
  | .mbxReservation src => Sys2Proof.Machine.execMbxReservation src s
  | .mbxGrant src => Sys2Proof.Machine.execMbxGrant src s
  | .mbxRetryTimer src => Sys2Proof.Machine.execMbxRetryTimer src s
  | .mbxData src ptrMismatch => Sys2Proof.Machine.execMbxData src ptrMismatch s
  | .mbxCfgWrite c m v => Sys2Proof.Machine.execMbxCfgWrite c m v s
  | .syncNop c w => Sys2Proof.Machine.execSyncNop c w s
  | .syncFence c w => Sys2Proof.Machine.execSyncFence c w s
  | .bar c w => Sys2Proof.Machine.execBar c w s
  | .exit c w => Sys2Proof.Machine.execExit c w s
  | .lacq c w => Sys2Proof.Machine.execLacq c w s
  | .lrel c w => Sys2Proof.Machine.execLrel c w s
  | .ladd c w => Sys2Proof.Machine.execLadd c w s
  | .fadd c w => Sys2Proof.Machine.execFadd c w s
  | .laddt c w => Sys2Proof.Machine.execLaddt c w s
  | .decoupledCompletion c q => Sys2Proof.Machine.execDecoupledCompletion c q s
  | .coreException c cause isGlobal addr => Sys2Proof.Machine.execCoreException c cause isGlobal addr s
  | .partitionStop n => Sys2Proof.Machine.execPartitionStop n s
  | .ctrClear c => Sys2Proof.Machine.execCtrClear c s
  | .wkCtrClear w => Sys2Proof.Machine.execWkCtrClear w s
  | .scrubRead pool err => Sys2Proof.Machine.execScrubRead pool err s
  | .poisonOwnerWalk line => Sys2Proof.Machine.execPoisonOwnerWalk line s
  | .lp5xRetrain ch ok => Sys2Proof.Machine.execLp5xRetrain ch ok s
  | .zqCalibration ch => Sys2Proof.Machine.execZqCalibration ch s
  | .alloc j p => Sys2Proof.Machine.execAlloc j p s
  | .free j p h => Sys2Proof.Machine.execFree j p h s
  | .poolEnable p v => Sys2Proof.Machine.execPoolEnable p v s
  | .leaseExpiry n => Sys2Proof.Machine.execLeaseExpiry n s
  | .bfmLkuParityError what => Sys2Proof.Machine.execBfmLkuParityError what s
  | .heaterLoopUpdate l error drive => Sys2Proof.Machine.execHeaterLoopUpdate l error drive s
  | .calibrationStart => Sys2Proof.Machine.execCalibrationStart s
  | .calibrationDone r => Sys2Proof.Machine.execCalibrationDone r s
  | .htuRecharacterise => Sys2Proof.Machine.execHtuRecharacterise s
  | .laserOffGrid n => Sys2Proof.Machine.execLaserOffGrid n s
  | .laserPowerLow n => Sys2Proof.Machine.execLaserPowerLow n s
  | .ringUnlock r => Sys2Proof.Machine.execRingUnlock r s
  | .heaterAtLimit l => Sys2Proof.Machine.execHeaterAtLimit l s
  | .monitorStuck l => Sys2Proof.Machine.execMonitorStuck l s
  | .htuLoopUnlock l => Sys2Proof.Machine.execHtuLoopUnlock l s
  | .htuRelockTimeout => Sys2Proof.Machine.execHtuRelockTimeout s
  | .loopRelock l => Sys2Proof.Machine.execLoopRelock l s
  | .laserOverTemp => Sys2Proof.Machine.execLaserOverTemp s
  | .tideWindow power busy => Sys2Proof.Machine.execTideWindow power busy s
  | .tideHoldTimeout d => Sys2Proof.Machine.execTideHoldTimeout d s
  | .dvfsChange d mhz => Sys2Proof.Machine.execDvfsChange d mhz s
  | .dvfsVoltageReached d => Sys2Proof.Machine.execDvfsVoltageReached d s
  | .regulatorTimeout d => Sys2Proof.Machine.execRegulatorTimeout d s
  | .pmAlert => Sys2Proof.Machine.execPmAlert s
  | .dataFlit l f => Sys2Proof.Machine.execDataFlit l f s
  | .bubbleSend l => Sys2Proof.Machine.execBubbleSend l s
  | .bubble l nibble afterFirst remoteAhead => Sys2Proof.Machine.execBubble l nibble afterFirst remoteAhead s
  | .controlRecord l good r => Sys2Proof.Machine.execControlRecord l good r s
  | .ackTimer l => Sys2Proof.Machine.execAckTimer l s
  | .replayTimeout l => Sys2Proof.Machine.execReplayTimeout l s
  | .fabWrite p m => Sys2Proof.Machine.execFabWrite p m s
  | .fabRead p m => Sys2Proof.Machine.execFabRead p m s
  | .fabLadd p m => Sys2Proof.Machine.execFabLadd p m s
  | .fabFadd p m => Sys2Proof.Machine.execFabFadd p m s
  | .fabLaddt p m => Sys2Proof.Machine.execFabLaddt p m s
  | .fabSend p m => Sys2Proof.Machine.execFabSend p m s
  | .barArrive p m => Sys2Proof.Machine.execBarArrive p m s
  | .query p m => Sys2Proof.Machine.execQuery p m s
  | .probe p m => Sys2Proof.Machine.execProbe p m s
  | .wack p m => Sys2Proof.Machine.execWack p m s
  | .rdata p m => Sys2Proof.Machine.execRdata p m s
  | .atmRsp p m => Sys2Proof.Machine.execAtmRsp p m s
  | .sack p m => Sys2Proof.Machine.execSack p m s
  | .refuse p m => Sys2Proof.Machine.execRefuse p m s
  | .answer p m => Sys2Proof.Machine.execAnswer p m s
  | .mergeTimeout src req => Sys2Proof.Machine.execMergeTimeout src req s
  | .fabRespTimeout req => Sys2Proof.Machine.execFabRespTimeout req s
  | .writeCoalesceTimeout c => Sys2Proof.Machine.execWriteCoalesceTimeout c s
  | .laneUp l => Sys2Proof.Machine.execLaneUp l s
  | .laneDown l => Sys2Proof.Machine.execLaneDown l s
  | .laneRejoin l => Sys2Proof.Machine.execLaneRejoin l s
  | .portTargetWrite p v => Sys2Proof.Machine.execPortTargetWrite p v s
  | .probeSend p => Sys2Proof.Machine.execProbeSend p s
  | .windowOpen frm => Sys2Proof.Machine.execWindowOpen frm s
  | .windowClose => Sys2Proof.Machine.execWindowClose s
  | .captureHeaderWrite => Sys2Proof.Machine.execCaptureHeaderWrite s
  | .captureShed d => Sys2Proof.Machine.execCaptureShed d s
  | .spClkLoss => Sys2Proof.Machine.execSpClkLoss s
  | .spFlush => Sys2Proof.Machine.execSpFlush s
  | .qblockPtrMismatch => Sys2Proof.Machine.execQblockPtrMismatch s
  | .spQbCfgWrite v => Sys2Proof.Machine.execSpQbCfgWrite v s
  | .unitQuery path q => Sys2Proof.Machine.execUnitQuery path q s
  | .unitSet path q => Sys2Proof.Machine.execUnitSet path q s
  | .unitSetDrainDone => Sys2Proof.Machine.execUnitSetDrainDone s
  | .unitSetTimeout => Sys2Proof.Machine.execUnitSetTimeout s
  | .unitReconcile path q => Sys2Proof.Machine.execUnitReconcile path q s
  | .reconcileCheckDone pass => Sys2Proof.Machine.execReconcileCheckDone pass s
  | .todLoad path q => Sys2Proof.Machine.execTodLoad path q s
  | .attest path q => Sys2Proof.Machine.execAttest path q s
  | .fwInfo path q => Sys2Proof.Machine.execFwInfo path q s
  | .setEndpointId eid => Sys2Proof.Machine.execSetEndpointId eid s
  | .getEndpointId => Sys2Proof.Machine.execGetEndpointId s
  | .getMctpVersionSupport msgType => Sys2Proof.Machine.execGetMctpVersionSupport msgType s
  | .getMessageTypeSupport => Sys2Proof.Machine.execGetMessageTypeSupport s
  | .pldmBase cmd => Sys2Proof.Machine.execPldmBase cmd s
  | .getSensorReading sensor => Sys2Proof.Machine.execGetSensorReading sensor s
  | .getVersion => Sys2Proof.Machine.execGetVersion s
  | .getCapabilities => Sys2Proof.Machine.execGetCapabilities s
  | .negotiateAlgorithms asym hash => Sys2Proof.Machine.execNegotiateAlgorithms asym hash s
  | .getDigests => Sys2Proof.Machine.execGetDigests s
  | .getCertificate slot off len => Sys2Proof.Machine.execGetCertificate slot off len s
  | .challenge slot nonce => Sys2Proof.Machine.execChallenge slot nonce s
  | .getMeasurements op => Sys2Proof.Machine.execGetMeasurements op s
  | .unitFault u cause => Sys2Proof.Machine.execUnitFault u cause s
  | .stateMismatch u fence => Sys2Proof.Machine.execStateMismatch u fence s
  | .nucleusAudit => Sys2Proof.Machine.execNucleusAudit s
  | .sensorSample k value => Sys2Proof.Machine.execSensorSample k value s
  | .logIrqTimer j => Sys2Proof.Machine.execLogIrqTimer j s
  | .errLogEnable j v => Sys2Proof.Machine.execErrLogEnable j v s
  | .nucleusWatchdog => Sys2Proof.Machine.execNucleusWatchdog s
  | .nucleusRestart => Sys2Proof.Machine.execNucleusRestart s
  | .coldReset => Sys2Proof.Machine.execColdReset s
  | .conventionalReset cause => Sys2Proof.Machine.execConventionalReset cause s
  | .warmReset v => Sys2Proof.Machine.execWarmReset v s
  | .configRequest fn write => Sys2Proof.Machine.execConfigRequest fn write s
  | .stage0Done => Sys2Proof.Machine.execStage0Done s
  | .imageVerified a b => Sys2Proof.Machine.execImageVerified a b s
  | .lp5xTrainingDone fail8533 fail6400 => Sys2Proof.Machine.execLp5xTrainingDone fail8533 fail6400 s
  | .lp5xZeroingDone => Sys2Proof.Machine.execLp5xZeroingDone s
  | .computeBringupDone failed => Sys2Proof.Machine.execComputeBringupDone failed s
  | .unitsBuilt ms => Sys2Proof.Machine.execUnitsBuilt ms s
  | .stage3Timeout => Sys2Proof.Machine.execStage3Timeout s
  | .calibrationTempTimeout => Sys2Proof.Machine.execCalibrationTempTimeout s
  | .haloWarmupTimeout => Sys2Proof.Machine.execHaloWarmupTimeout s
  | .flashRead => Sys2Proof.Machine.execFlashRead s
  | .flashProgram => Sys2Proof.Machine.execFlashProgram s
  | .flashErase => Sys2Proof.Machine.execFlashErase s
  | .flashOpDone ok => Sys2Proof.Machine.execFlashOpDone ok s
  | .hrefLoss => Sys2Proof.Machine.execHrefLoss s
  | .sampleBeat rise fall frm => Sys2Proof.Machine.execSampleBeat rise fall frm s
  | .captureWordDrain => Sys2Proof.Machine.execCaptureWordDrain s
  | .messageRoute p m => Sys2Proof.Machine.execMessageRoute p m s
  | .engineResetDone e => Sys2Proof.Machine.execEngineResetDone e s
  | .laserCooledRecalibration temp => Sys2Proof.Machine.execLaserCooledRecalibration temp s
  | .calibrationTempReady temp => Sys2Proof.Machine.execCalibrationTempReady temp s
  | .rstNRelease => Sys2Proof.Machine.execRstNRelease s
  | .perstNRelease => Sys2Proof.Machine.execPerstNRelease s
  | .jtagInstruction j => Sys2Proof.Machine.execJtagInstruction j s

end Sys2Proof.Machine
end

