-- ==== Sys2Proof/Machine/Fetch.lean ====
section
/-! DEFINITION. The instruction that a core's program holds next (R158, R189, R191, R195). -/

namespace Sys2Proof.Machine

open Sys2Proof

/-- The 64-bit little-endian word of instruction memory at a core's pc (R189). -/
def coreNextWord (c : CoreId) (s : State) : BitVec 64 :=
  let k := s.cores[c.val]
  BitVec.ofNat 64 (leNat (Memory.read 0 k.mem k.pc.toNat 8))

/-- The command that a core's program issues next: its word decoded, ILLEGAL for a word that is no instruction (R191,
R207). Commands reach the queue from outside; this names the one that the program calls for. -/
def coreNext (c : CoreId) (s : State) : Instr := coreDecode c (coreNextWord c s)

end Sys2Proof.Machine
end

