-- ==== Sys2Proof/WellFormed.lean ====
section
/-! DEFINITION. Which commands are well formed: operands that their rows' rules let come about. Every command has an effect
whether or not it is well formed; these checks say which ones the outside can send. -/

namespace Sys2Proof

/-- A PCIe access to a register is of 1, 2, 4 or 8 bytes (R9). -/
def sizeOk (n : Nat) : Bool := n = 1 || n = 2 || n = 4 || n = 8

/-- A register address lies in its window: 64 MiB of PF BAR0, 64 KiB of a page (R27). -/
def BarAddr.ok (a : BarAddr) : Bool :=
  match a.bar with
  | .pf => a.off < 0x4000000
  | .page _ => a.off < 0x10000

/-- A word of a register pair is addressed by an aligned 32-bit access (R9, R10). -/
def BarAddr.pairOk (a : BarAddr) : Bool := a.ok && a.off % 4 = 0

/-- An access of n bytes lies in the window into device memory: 8 GiB of PF BAR4, 256 MiB of VF BAR2 (R27). -/
def windowOk (i : InstId) (off : BitVec 33) (n : Nat) : Bool :=
  1 ≤ n && n ≤ 4096 && (if i.val = 0 then off.toNat + n ≤ 2 ^ 33 else off.toNat + n ≤ 2 ^ 28)

/-- A fabric message's payload has the length that its header states, at most 4,096 bytes (R459). -/
def Msg.ok (m : Msg) : Bool := m.payload.length = m.length.toNat && m.payload.length ≤ 4096

/-- A Nucleus request's body has at least the bytes that its length states, and fits NUC_REQ (R520, R546). -/
def NucReq.ok (q : NucReq) : Bool := q.length.toNat ≤ q.body.length && q.body.length ≤ 4088

/-- A guard that the encoding of R190 allows. -/
def Guard.ok (g : Guard) : Bool := g.en || (!g.neg && g.p = 0)

/-- The guard of a core instruction, none for other commands. -/
def Instr.guard (i : Instr) : Option Guard := (coreEncode i).map fun w => guardOf w.2

/-- A command is well formed. -/
def Instr.wf (i : Instr) : Bool :=
  match i with
  | .registerWrite a n _ => a.ok && sizeOk n
  | .regPairLowRead a | .regPairLowWrite a _ | .regPairHighWrite a _ => a.pairOk
  | .sqTailDoorbell _ _ n _ | .cqHeadDoorbell _ _ n _ => sizeOk n
  | .descriptorFetch _ _ n _ => 1 ≤ n && n ≤ 8
  | .pllLock ppm => ppm.natAbs ≤ 50
  | .trefQualify ppm => ppm.natAbs ≤ 20
  | .phaseSlewDone r => r.natAbs ≤ 2
  | .barWindowRead i off n => windowOk i off n
  | .barWindowWrite i off d => windowOk i off d.length
  | .vfFlr i | .instanceReset i => i.val != 0
  | .dvfsChange _ mhz => 600 ≤ mhz && mhz ≤ 1500
  | .fabWrite _ m | .fabRead _ m | .fabLadd _ m | .fabFadd _ m | .fabLaddt _ m | .fabSend _ m | .barArrive _ m
  | .query _ m | .probe _ m | .wack _ m | .rdata _ m | .atmRsp _ m | .sack _ m | .refuse _ m | .answer _ m
  | .messageRoute _ m => m.ok
  | .unitQuery _ q | .unitSet _ q | .unitReconcile _ q | .todLoad _ q | .attest _ q | .fwInfo _ q => q.ok
  | i => (i.guard.map Guard.ok).getD true

end Sys2Proof
end

