-- ==== Sys2Proof/Safety.lean ====
section
/-! DEFINITION. What the statements take a sound state of the block to be. -/

namespace Sys2Proof.Machine

open Sys2Proof

/-- Every byte memory of the block is in its canonical form: device memory, host memory, the flash and its buffer, and the
local memory of every core. -/
def State.memoryWf (s : State) : Prop :=
  Memory.wf 0 s.mem.dpa = true ∧ Memory.wf 0 s.mem.host = true ∧ Memory.wf 0xFF s.hub.flash = true ∧
    Memory.wf 0 s.hub.flashBuf = true ∧ ∀ c : CoreId, Memory.wf 0 s.cores[c.val].mem = true

/-- A reading of one byte of device memory. -/
def State.byte (s : State) (a : Nat) : Byte := Memory.get 0 s.mem.dpa a

/-- A reading of one byte of a core's local memory. -/
def State.localByte (s : State) (c : CoreId) (a : Nat) : Byte := Memory.get 0 s.cores[c.val].mem a

/-! ### Core instructions that issue -/

/-- What issue does to a core: the pc moves to the next instruction, and the cycle is counted in cycles and issue and as an
idle cycle of the array, unless the counters are frozen (R176, R189, R266). -/
def Core.issued (k : Core) : Core :=
  { (if k.ctrFreeze then k
     else { k with cnt := upd (upd k.cnt 0 (· + 1)) 1 (· + 1), arrCnt := upd k.arrCnt 4 (· + 1) }) with pc := k.pc + 8 }

/-- A scalar register written; s0 discards what is written to it (R188). -/
def Core.putS (k : Core) (r : BitVec 5) (v : Dword) : Core :=
  if r = 0 then k else { k with s := upd k.s ⟨r.toNat, r.isLt⟩ fun _ => v }

/-- A vector register written. -/
def Core.putV (k : Core) (r : BitVec 5) (v : BitVec 512) : Core := { k with v := upd k.v ⟨r.toNat, r.isLt⟩ fun _ => v }

/-- A predicate register written. -/
def Core.putP (k : Core) (r : BitVec 3) (v : BitVec 16) : Core := { k with p := upd k.p ⟨r.toNat, r.isLt⟩ fun _ => v }

/-- The front end takes an instruction with this guard and executes it: the core runs and waits on nothing, the guard is
encoded as R190 allows, is not pending, and passes (R190, R207). -/
def Executes (c : CoreId) (g : Guard) (s : State) : Prop :=
  canIssue c s = true ∧ guardOk g = true ∧ guardReady g s.cores[c.val] = true ∧ guardPass g s.cores[c.val] = true

/-- The instruction does not lie at the end of instruction memory, 0x1_FFF8 (R195). -/
def NotLast (c : CoreId) (s : State) : Prop := s.cores[c.val].pc.toNat + 8 < 0x20000

/-- None of these registers has a pending write (R207). -/
def NotPending (k : Core) (rs vs : List (BitVec 5)) (ps : List (BitVec 3)) : Prop :=
  (∀ r ∈ rs, bit k.pendS r.toNat = false) ∧ (∀ r ∈ vs, bit k.pendV r.toNat = false) ∧ (∀ r ∈ ps, bit k.pendP r.toNat = false)

/-- The register forms of SCL and what they compute (R194). -/
def scalarOps : List ((CoreId → RFmt → Instr) × (Dword → Dword → Dword)) :=
  [(.add, fun a b => a + b), (.sub, fun a b => a - b), (.and, fun a b => a &&& b), (.or, fun a b => a ||| b),
   (.xor, fun a b => a ^^^ b), (.shl, fun a b => a <<< (b.toNat % 64)), (.shr, fun a b => a >>> (b.toNat % 64)),
   (.sra, fun a b => a.sshiftRight (b.toNat % 64)), (.mul, fun a b => a * b),
   (.mulh, fun a b => BitVec.ofInt 64 (a.toInt * b.toInt / 2 ^ 64)),
   (.mulhu, fun a b => BitVec.ofNat 64 (a.toNat * b.toNat / 2 ^ 64)),
   (.min, fun a b => if a.toInt < b.toInt then a else b), (.max, fun a b => if a.toInt < b.toInt then b else a),
   (.minu, fun a b => if a.toNat < b.toNat then a else b), (.maxu, fun a b => if a.toNat < b.toNat then b else a)]

/-- The immediate forms of SCL, the immediates they allow, and what they compute (R194). -/
def immediateOps : List ((CoreId → IFmt → Instr) × (IFmt → Prop) × (Dword → BitVec 32 → Dword)) :=
  [(.addi, fun _ => True, fun a i => a + i.signExtend 64), (.andi, fun _ => True, fun a i => a &&& i.signExtend 64),
   (.ori, fun _ => True, fun a i => a ||| i.signExtend 64), (.xori, fun _ => True, fun a i => a ^^^ i.signExtend 64),
   (.shli, fun w => w.imm.toNat < 64, fun a i => a <<< i.toNat), (.shri, fun w => w.imm.toNat < 64, fun a i => a >>> i.toNat),
   (.srai, fun w => w.imm.toNat < 64, fun a i => a.sshiftRight i.toNat), (.movi, fun w => w.a = 0, fun _ i => i.signExtend 64),
   (.movhi, fun _ => True, fun a i => (a &&& 0xFFFFFFFF) ||| (i.setWidth 64 <<< 32))]

/-- The vector forms that work on va and vb element by element: the greatest type they take, the free values they count,
and the element they compute from the type, the number of the free value, and the elements of va, vb and vd (R200). -/
def vectorOps : List ((CoreId → RFmt → Instr) × Nat × Nat × (Nat → Nat → Nat → Nat → Nat → Nat)) :=
  [(.vadd, 6, 0, fun ty _ a b _ => elemOp ty addNum (fun a b => a + b) a b),
   (.vsub, 6, 0, fun ty _ a b _ => elemOp ty (fun a b => addNum a (negNum b)) (fun a b => (a : Int) - b) a b),
   (.vmul, 6, 0, fun ty _ a b _ => elemOp ty mulNum (fun a b => a * b) a b),
   (.vfma, 6, 0, fun ty _ a b d => fmaElem ty a b d), (.vmin, 6, 64, fun ty n a b _ => minMaxElem false ty n a b),
   (.vmax, 6, 64, fun ty n a b _ => minMaxElem true ty n a b), (.vand, 0, 0, fun _ _ a b _ => a &&& b),
   (.vor, 0, 0, fun _ _ a b _ => a ||| b), (.vxor, 0, 0, fun _ _ a b _ => a ^^^ b),
   (.vshl, 6, 0, fun ty _ a b _ => shiftElem 0 ty a b), (.vshr, 6, 0, fun ty _ a b _ => shiftElem 1 ty a b),
   (.vsra, 6, 0, fun ty _ a b _ => shiftElem 2 ty a b)]

/-- The queue has a place for n entries more, the NI one for n requests or messages (R207, R208). -/
def QueueRoom (k : Core) (q : QueueId) (n : Nat) : Prop := queueUsed k q + n ≤ queueDepth q

/-! ### Accesses of cores -/

/-- The five load and store instructions of a core, the bytes each moves, and whether it loads (R196). -/
def Moves (c : CoreId) (w : MFmt) (x : Instr) (n : Nat) (load : Bool) : Prop :=
  (w.x.toNat < 4 ∧ n = 2 ^ w.x.toNat ∧ ((x = .ld c w none ∧ load) ∨ (x = .lds c w none ∧ load) ∨ (x = .st c w ∧ !load))) ∨
    (w.x = 0 ∧ n = 64 ∧ ((x = .vld c w none ∧ load) ∨ (x = .vst c w ∧ !load)))

/-- The address of an access, sa + sext(off) (R197). -/
def address (c : CoreId) (w : MFmt) (s : State) : Dword := sreg s.cores[c.val] w.a + w.off.signExtend 64

/-- The bytes that an access moves may be loaded from local memory: data memory and AccMem (R155 to R157). -/
def Loadable (a n : Nat) : Prop := (0x20000 ≤ a ∧ a + n ≤ 0x1C0000) ∨ (0x1C0000 ≤ a ∧ a + n ≤ 0x200000)

/-- They may be stored to local memory: data memory alone. -/
def Storable (a n : Nat) : Prop := 0x20000 ≤ a ∧ a + n ≤ 0x1C0000

/-- No instruction of a core in another queue than q (for the front end, in any queue) reads or writes data memory and has
not completed, so that R211 leaves nothing open there. -/
def NoRace (q : Option QueueId) (k : Core) : Prop := ∀ e ∈ others q k, e.read = [] ∧ ∀ r ∈ e.wrote, 0x1C0000 ≤ r.1

/-- What the front end reads from n bytes of local memory at a, and the count of free values after it: bytes that an
instruction in a queue writes and has not completed are free (R211, R218). -/
def FrontReads (c : CoreId) (a n : Nat) (d : List Byte) (f : Nat) (s : State) : Prop :=
  d.length = n ∧ (∀ i < n, raced none s.cores[c.val] (a + i) 1 = false → d.getD i 0 = Memory.get 0 s.cores[c.val].mem (a + i)) ∧
    (raced none s.cores[c.val] a n = false → f = s.free)

/-- A device line that reads and writes as it should: in an LP5X channel that is in service or in a pool, and not poisoned,
in a device memory that holds no error still to be found (R380 to R391, R417). -/
def GoodLine (s : State) (p : Nat) : Prop :=
  ((∃ ch, regionOf s p = .lp5x ch) ∨ ∃ d, regionOf s p = .pool d) ∧ channelOut s p = false ∧
    (p / 64) ∉ s.mem.poisoned ∧ s.mem.latent = []

/-- The lines of n bytes of a core's local memory at a hold no poison and no error still to be found (R386 to R389). -/
def CleanLines (k : Core) (a n : Nat) : Prop :=
  ∀ l ∈ linesOf a n, l ∉ k.poisoned ∧ ∀ e ∈ k.latent, e.1 ≠ l

/-- A core's local memory holds no poison and no error still to be found. -/
def CleanCore (k : Core) : Prop := k.poisoned = [] ∧ k.latent = []

/-- No context image that a CTXLD still awaits holds one of these slots, or the ledgers where they are meant (R209). -/
def SlotsSettled (k : Core) (slots : List Nat) (ledgers : Bool) : Prop :=
  slotsAwaited k { slots := slots, ledgers := ledgers } = false

/-- The program of a core has written memory or sent a message at this moment (R44). -/
def Core.noted (k : Core) (t : Stamp) : Core := { k with last := some t }

/-- The command meets an error in line l of the core's local memory, of this kind (log entry 13). -/
def MeetsError (err : Option LineErr) (l : Nat) (unc : Bool) : Prop := err = some { loc := true, line := l, unc := unc }

/-- A correctable error that the command meets in a core's local memory is counted on its die (R387). -/
def corrected (c : CoreId) (err : Option LineErr) (s : State) : State :=
  if err.isSome then modDie (coreDie c) (fun d => { d with sramCe := satInc d.sramCe }) s else s

/-- The address of a core's global request is translated to a device physical address (R120 to R123). -/
def MapsTo (c : CoreId) (acc : Access) (a : Nat) (s : State) (p : Nat) : Prop :=
  s.inst[(coreInst c s).val].gen = s.cores[c.val].gen ∧ (translate (coreInst c s) acc a s).1 = .ok (.dpa p)

/-- The core waits on nothing in its send and store path, and its NI queue has room. -/
def NiFree (c : CoreId) (n : Nat) (s : State) : Prop := s.cores[c.val].coalesce = none ∧ QueueRoom s.cores[c.val] .ni n

/-- A remote request may leave for this node: the instance is enabled and bound to a domain, the node is another, a route
serves, and no request is outstanding (R118, R462 to R469). -/
def RouteOpen (c : CoreId) (node : BitVec 16) (dom : Byte) (s : State) : Prop :=
  s.inst[(coreInst c s).val].fabEn = true ∧ s.fab.domain[(coreInst c s).val] = some dom ∧ node ≠ s.fab.node ∧
    s.fab.hopLimit ≠ 1 ∧ (pickPort node s).isSome ∧ s.fab.reqs = []

/-- The core has stopped in an exception (R184). -/
def Faulted (c : CoreId) (cause : Byte) (glob : Bool) (addr : Dword) (s t : State) : Prop :=
  t.cores[c.val].st = .faulted ∧ t.cores[c.val].faultValid = true ∧ t.cores[c.val].faultCause = cause ∧
    t.cores[c.val].faultGlobal = glob ∧ t.cores[c.val].faultAddr = addr ∧ t.cores[c.val].faultPc = s.cores[c.val].pc ∧
    t.cores[c.val].s = s.cores[c.val].s ∧ t.cores[c.val].v = s.cores[c.val].v ∧ t.cores[c.val].p = s.cores[c.val].p ∧
    t.cores[c.val].mem = s.cores[c.val].mem

/-- A scalar register is marked pending; s0 is not (R207, R213). -/
def Core.markS (k : Core) (r : BitVec 5) : Core := if r = 0 then k else { k with pendS := k.pendS ||| (1#32 <<< r.toNat) }

/-- A vector register is marked pending. -/
def Core.markV (k : Core) (r : BitVec 5) : Core := { k with pendV := k.pendV ||| (1#32 <<< r.toNat) }

/-- A predicate register is marked pending. -/
def Core.markP (k : Core) (r : BitVec 3) : Core := { k with pendP := k.pendP ||| (1#8 <<< r.toNat) }

/-- An entry joins the NI queue, under the pc of its instruction. -/
def Core.addNi (k : Core) (e : QEntry) : Core := { k with ni := k.ni ++ [{ e with pc := k.pc }] }

/-! ### Atomic adds -/

/-- The L128 sum: INF where a term is INF or the sum leaves the finite range (R267, R268). -/
def sumL128 (a b : BitVec 128) : BitVec 128 :=
  if a = 1#128 <<< 127 ∨ b = 1#128 <<< 127 ∨ 2 ^ 127 ≤ (a.toInt + b.toInt).natAbs then 1#128 <<< 127 else a + b

/-- The L128 value of an even register and the next. -/
def pairValue128 (k : Core) (r : BitVec 5) : BitVec 128 := sreg k (r + 1) ++ sreg k r

/-- A core's ledger flags after an atomic that met INF (R272). -/
def Core.metInf (k : Core) (inf : Bool) : Core :=
  if inf then { k with flags := k.flags ||| 4, everFlags := k.everFlags ||| 4 } else k

/-- An L128 value that is finite and has a magnitude of 2^103 grid steps or more (R270). -/
def beyondWindow (v : BitVec 128) : Bool := v != 1#128 <<< 127 && decide (2 ^ 103 ≤ v.toInt.natAbs)

/-- A core's ledger flags after an addend outside the window (R272). -/
def Core.metRange (k : Core) (big : Bool) : Core :=
  if big then { k with flags := k.flags ||| 2, everFlags := k.everFlags ||| 2 } else k

/-- The old value is returned in the register pair, if asked for (R288). -/
def oldPair (r : BitVec 5) (ret : Bool) (old : BitVec 128) : QEntry :=
  if ret then { sres := [(r, old.setWidth 64), (r + 1, old.extractLsb' 64 64)] } else {}

/-- The old value is returned in one register, if asked for (R291). -/
def oldWord (r : BitVec 5) (ret : Bool) (old : Word) : QEntry := if ret then { sres := [(r, old.setWidth 64)] } else {}

/-! ### Locks and buffers -/

/-- The instance may name the lock (R402, R418). -/
def LockOpen (c : CoreId) (n : Fin 4096) (s : State) : Prop :=
  bit s.lku.grants[(coreInst c s).val] (n.val / 64) = true ∧ bit s.lku.broken (n.val / 64) = false

/-- A lease that is not over: none, or a time not yet passed (R42, R44). -/
def LeaseOpen (lease now : Rts) : Prop := lease = 0 ∨ now.toNat ≤ (rtsNorm lease).toNat

/-! ### Descriptors -/

/-- A descriptor as acceptance leaves it, which has met and done nothing yet, which no reset has taken over, and whose
deadline has not passed, lies after its release and does not shed it (R44, R45, R89, R92, R93, R129, R140). -/
def Fresh (x : Item) (s : State) : Prop :=
  x.out = {} ∧ x.last = none ∧ x.result = firstResult x.raw ∧ x.resetHead = none ∧ shedAtDeadline x s = false ∧ passed x.deadline s.eph.now = false ∧ beforeRelease x = false

/-- The descriptor has ended with this status and result, and its record is due at its completion ring (R79, R91, R94). -/
def Completes (d : Nat) (status : BitVec 8) (result : Dword) (s t : State) : Prop :=
  ∃ x y, findItem d s = some x ∧ findItem d t = some y ∧ y.stage = .ended ∧ y.result = result ∧ statusOf y.out = status ∧
    ∃ r ∈ (t.inst[x.inst.val].cq[x.cq.val]).due,
      r.item = some d ∧ r.tag = x.tag ∧ r.sq = x.sq ∧ r.status = status ∧ r.result = result

/-- No SQ of the instance is held, its backlog lies below hw, and no SHED_EARLY is recent, so that a start causes no pressure
(R141, R143). -/
def Calm (i : InstId) (s : State) : Prop :=
  backlog i s < s.inst[i.val].hw.toNat ∧ s.inst[i.val].shedPressure = false ∧ ∀ q : Fin 16, (s.inst[i.val].sq[q.val]).busy = false

/-- The dispatcher of this engine type starts descriptor d next, which has the opcode and is ready, among those that may
start (R135, R137). -/
def StartsNext (d op : Nat) (ty : Fin 4) (ok : Item → Bool) (x : Item) (s : State) : Prop :=
  findItem d s = some x ∧ x.opcode = op ∧ x.stage = .ready ∧ (∃ aged, dispatchPick ty ok s = some (x, aged)) ∧ Calm x.inst s

/-- Reading these bytes meets no fault, no poison and no error, and changes nothing (R121 to R126, R387 to R389). -/
def ReadsAs (i : InstId) (a n : Nat) (s : State) (d : List Byte) : Prop :=
  readIva { inst := i, src := 0, gen := s.inst[i.val].gen } a n s = ⟨none, d, false, s⟩

/-- The scalar registers that a LAUNCH gives to a core at column px and row py of its partition (R160). -/
def EntryRegs (n : Fin 64) (p : Part) (x : Item) (k : CoreId) (regs : Vector Dword 32) : Prop :=
  let px := k.val % 24 - p.gx0.toNat
  let py := k.val / 24 - p.gy0.toNat
  regs[1] = BitVec.ofNat 64 (py * p.width.toNat + px) ∧
    regs[2] = BitVec.ofNat 64 (px + 256 * py + 65536 * p.width.toNat + 16777216 * p.height.toNat) ∧
    regs[3] = BitVec.ofNat 64 k.val ∧ regs[4] = BitVec.ofNat 64 (dfield x.raw 48 4) ∧
    regs[5] = BitVec.ofNat 64 (dfield x.raw 4 4) ∧ regs[6] = BitVec.ofNat 64 n.val ∧
    regs[0] = 0 ∧ ∀ r : Fin 32, 7 ≤ r.val → regs[r.val] = 0

/-! ### The array and the sparse units -/

/-- Nothing has changed but core c and the count of free values, and of the core not its registers (R202, R204). -/
def OnlyCore (c : CoreId) (s t : State) : Prop :=
  t = modCore c (fun _ => t.cores[c.val]) { s with free := t.free } ∧ t.cores[c.val].s = s.cores[c.val].s ∧
    t.cores[c.val].v = s.cores[c.val].v ∧ t.cores[c.val].p = s.cores[c.val].p

/-- A dense or sparse tile that the core holds in its data memory: its descriptor at a, and the fields of its body (R302 to
R307). -/
def LocalTile (k : Core) (a : Nat) (t : Tile) (fs : List Stored) : Prop :=
  let d := Memory.read 0 k.mem a 32
  Storable a 32 ∧ tileFieldsOk d = true ∧ t = tileOf d ∧ t.glob = false ∧ Storable t.body (64 * t.lines) ∧
    (if t.sfmt = 0 then tileDense t else tileStored t) (Memory.read 0 k.mem t.body (64 * t.lines)) = some fs

/-- Word i of slot n in a core's local memory (R155, R273). -/
def slotWord (k : Core) (n i : Nat) : BitVec 128 := BitVec.ofNat 128 (leNat (Memory.read 0 k.mem (0x1C0000 + 4096 * n + 16 * i) 16))

/-- A tensor that the core holds in its data memory: its descriptor at this register value is accepted, and every element of
rows below `rows` and columns below `K` lies in data memory (R230 to R237, R246). -/
def LocalTensor (k : Core) (v : Dword) (o : Operand) (fmt K rows : Nat) : Prop :=
  v.toNat % 64 = 0 ∧ Storable v.toNat 128 ∧
    tensorJudge (Memory.read 0 k.mem v.toNat 128) false true arrayFmts false = .ok o.t ∧ o.t.fmt = fmt ∧ o.t.loc = true ∧
    o.t.dims.length = 2 ∧ K ≤ o.extK ∧ ∀ r j, r < rows → r < o.extR → j < K → Storable (o.t.addr (o.at_ r j)) 1

/-- The INT8 element of row r at k; rows that the tensor has not read as 0 (R225, R247). -/
def int8At (k : Core) (o : Operand) (r j : Nat) : Int :=
  if r < o.extR then (Memory.get 0 k.mem (o.t.addr (o.at_ r j))).toInt else 0

/-- A number within 8 bits (R284). -/
def clamp8 (x : Int) : Int := max (-128) (min 127 x)

/-- The array operand fields of an INT8 product that neither adds, spills nor works in ping-pong (R202). -/
def int8Product (w : TFmt) (g : Nat) (ta tb : Bool) (path : Nat) : Prop :=
  g ≤ 2 ∧ path ≤ 2 ∧ w.x = BitVec.ofNat 23 (g * 2 ^ 17 + b2n ta * 2 ^ 13 + b2n tb * 2 ^ 12 + path * 2 ^ 6)

/-- The ledger of entry (i, j) after a product: the exact sum on the grid of the slot's window, 0 in columns that do not take
part (R249, R267, R270). -/
def productWord (sum W : Int) (on : Bool) : BitVec 128 := if on then BitVec.ofInt 128 (sum * 2 ^ (-W).toNat) else 0

/-! ### Rings -/

/-- A vector of a function can send: MSI-X and bus mastering are on and nothing masks it (R99). -/
def VectorOpen (fn : InstId) (vec : Fin 32) (s : State) : Prop :=
  live s = true ∧ s.fns[fn.val].msix = true ∧ s.fns[fn.val].master = true ∧ s.fns[fn.val].fnMask = false ∧
    bit s.fns[fn.val].masked vec.val = false

/-- Only a bit of the instance's ring error register, with the ring it names, has changed in the instances (R113). -/
def RingErrOnly (i : InstId) (n : Nat) (isCq : Bool) (q : Fin 16) (s t : State) : Prop :=
  t.inst = (modInst i (fun x => { x with err := ⟨isCq, q, x.err.bits ||| (1#6 <<< n)⟩ }) s).inst

/-- No descriptor waits, so that a record written makes none ready (R96, R97). -/
def NoneWaits (s : State) : Prop := ∀ x ∈ s.items, x.stage ≠ .waiting

/-- An estimator's step towards a sample: an eighth of the distance, rounded away from zero (R138). -/
def stepTo (v sample : Nat) : Nat := if v ≤ sample then v + (sample - v + 7) / 8 else v - (v - sample + 7) / 8

/-! ### Radio time -/

/-- Ephemeris is in this state after the command, has raised the event of a change if it was in another, and counts
HOLDOVER anew (R39, R61). -/
def Entered (st : EphState) (s t : State) : Prop :=
  t.eph.st = st ∧ (s.eph.st ≠ st → bit t.eph.intStatus 0 = true)

/-- The edge is judged by the grid: PPS_IN is qualified, the time of day is valid, and no error is being removed or left in
place (R36, R40). -/
def OnGrid (e : Eph) : Prop := e.ppsQual = true ∧ e.todValid = true ∧ e.slewing = none ∧ e.stepRefused = false

/-- A grid error: how far the time, less pps_comp, lies from the second boundary nearest to it (R36). -/
def GridError (e : Eph) (err : Int) : Prop :=
  -(122880000 : Int) < err ∧ err ≤ 122880000 ∧
    ∃ k : Int, (rtsLin e.now : Int) - e.ppsComp.toInt = (e.grid : Int) + err + 245760000 * k
/-- The accepted descriptors are in order: no two have one number, all numbers lie below the next, and one that a reset has
taken over has ended or drains (R76, R129). -/
def State.itemsWf (s : State) : Prop :=
  (s.items.map Item.id).Nodup ∧ (∀ x ∈ s.items, x.id < s.nextId) ∧
    ∀ x ∈ s.items, x.resetHead ≠ none → x.stage = .ended ∨ x.draining = true

/-! ### Descriptors that move bytes -/

/-- These addresses map to consecutive bytes of device memory that read and write as they should, and translating them changes
nothing (R121 to R125). -/
def MapsRange (i : InstId) (acc : Access) (a n p : Nat) (s : State) : Prop :=
  ∀ j < n, translate i acc (a + j) s = (.ok (.dpa (p + j)), s) ∧ GoodLine s (p + j)

/-- No entry of the instance's tables lies in these bytes (R122). -/
def TablesClear (i : InstId) (p n : Nat) (s : State) : Prop :=
  ∀ a, ∀ e ∈ tableEntries s.mtu[i.val] s a, e + 8 ≤ p ∨ p + n ≤ e

/-- The DMA descriptor starts next, and this channel, the lowest of those it may use that are in service and work, takes it
(R117, R394). -/
def DmaStarts (d op : Nat) (x : Item) (ch : Fin 16) (s : State) : Prop :=
  StartsNext d op 1 (dmaReady s) x s ∧ Fresh x s ∧ s.inst[x.inst.val].gen = x.gen ∧
    ((dmaOpen x s).filter fun c => dmaUp c s).head? = some ch ∧ ∀ c ∈ dmaNamed x s, dmaGranted x.inst c s = true

/-! ### Searches -/

/-- The blocks of a SEARCH, read whole: the parameter block, the index block it names, and the three addresses that the
descriptor names all translate (R25, R350, R352). -/
def SearchBlocks (x : Item) (pd xd : List Byte) (s : State) : Prop :=
  s.inst[x.inst.val].gen = x.gen ∧ ReadsAs x.inst (dfield x.raw 24 8) 64 s pd ∧ ReadsAs x.inst (paramsOf pd).index 256 s xd ∧
    (∃ p, translate x.inst .read (dfield x.raw 24 8) s = (.ok p, s)) ∧
    (∃ p, translate x.inst .read (dfield x.raw 32 8) s = (.ok p, s)) ∧
    ∃ p, translate x.inst .write (dfield x.raw 40 8) s = (.ok p, s)

/-- A deterministic search over this index meets one node: the entry list names node n alone, which is live in the current
generation and has this code, and its neighbour list is empty (R347 to R349, R356). -/
def OneNode (i : InstId) (x : Index) (n : Nat) (book code : List Byte) (s : State) : Prop :=
  n < x.capacity ∧ ReadsAs i x.bookBase (256 * x.M * x.slot) s book ∧ ReadsAs i x.entryBase 4 s (leBytes 4 n) ∧
    (∃ r, ReadsAs i (x.nodeBase + 16 * n) 16 s r ∧ imf r 0 4 ≠ 0 ∧ imf r 0 4 ≤ x.curGen ∧ imf r 4 4 = 0 ∧ imf r 8 1 % 2 = 0) ∧
    ReadsAs i (x.codeBase + x.M * n) x.M s code ∧ code.length = x.M ∧
    ReadsAs i (x.nbrBase + 4 * x.R * n) (4 * x.R) s (List.replicate (4 * x.R) 0xFF)

/-- The deterministic distance of a code: the sum of its table entries, negated for inner product (R353). -/
def detScore (x : Index) (q : List Num) (book code : List Byte) : Int :=
  let v := (code.mapIdx fun j b => tableDet x ((q.drop (j * x.dsub)).take x.dsub)
    (vecNums x x.dsub ((book.drop ((256 * j + b.toNat) * x.slot)).take (x.dsub * x.esize)))).sum
  if x.metric = 0 then v else -v

/-! ### The fabric -/

/-- A message stands in a port's queue, or has left on one of its lanes with the peer's epoch (R459, R474). -/
def Leaves (p : Fin 8) (m : Msg) (s t : State) : Prop :=
  { m with hopEpoch := 0 } ∈ t.fab.ports[p.val].queue ∨
    ∃ l, portOfLane l = p ∧ Output.message p l { m with hopEpoch := s.fab.ports[p.val].peerEpoch } ∈ t.out

/-- A response to this request leaves by a route to its source (R459, R465, R469). -/
def Responds (m : Msg) (type flags arg : Byte) (addr : Dword) (data : List Byte) (s t : State) : Prop :=
  ∃ q, Leaves q { type := type, flags := flags, dst := m.src, src := s.fab.node, hops := s.fab.hopLimit - 1, hopEpoch := 0
                  length := BitVec.ofNat 16 data.length, domain := m.domain, arg := arg, reqId := m.reqId, addr := addr
                  deadline := 0, payload := data } s t

/-- The message is the oldest of its class at a port in service, and carries the port's epoch (R461, R474). -/
def AtOpenPort (p : Fin 8) (m : Msg) (s : State) : Prop :=
  live s = true ∧ atPort p m s = true ∧ portState p s = 2 ∧ m.hopEpoch = portEpoch p s

/-- A request of another node for this one, well formed and in time, to whose source a response can go (R460, R469, R483). -/
def Inbound (p : Fin 8) (m : Msg) (s : State) : Prop :=
  AtOpenPort p m s ∧ m.dst = s.fab.node ∧ m.src ≠ s.fab.node ∧ msgBad m = false ∧ passed m.deadline s.eph.now = false ∧
    (pickPort m.src s).isSome ∧ s.fab.hopLimit ≠ 1

/-- The message has left the port's receive buffer, and its units count as freed (R461). -/
def Freed (p : Fin 8) (m : Msg) (s t : State) : Prop :=
  t.fab.ports[p.val].inbox = (s.fab.ports[p.val].inbox).erase m ∧
    (t.fab.ports[p.val].freed)[(msgClass m.type).val] =
      (s.fab.ports[p.val].freed)[(msgClass m.type).val] + BitVec.ofNat 32 (msgUnits m).length

/-- The control record that reports a lane's state, with nothing in `has` but what f sets (R458). -/
def Sends (l : Fin 32) (f : ControlRec → ControlRec) (s t : State) : Prop := Output.control l (f (ctlOf l s)) ∈ t.out

/-- Bytes of device memory from p are these, and no other byte has changed. -/
def StoredAt (p : Nat) (d : List Byte) (s t : State) : Prop :=
  (∀ j < d.length, t.byte (p + j) = d.getD j 0) ∧ ∀ b, b < p ∨ p + d.length ≤ b → t.byte b = s.byte b

/-! ### The Halo die -/

/-- The HTU takes this HTU_RUN next: it is granted, in service and free, and its vectors lie on 64-byte addresses
(R117, R430, R432, R528). -/
def HtuStarts (d : Nat) (x : Item) (s : State) : Prop :=
  live s = true ∧ StartsNext d 6 3 (fun _ => true) x s ∧ Fresh x s ∧ s.inst[x.inst.val].gen = x.gen ∧ engUp .htu s = true ∧
    htuFree s = true ∧ s.inst[x.inst.val].htuEn = true ∧ dfield x.raw 32 8 % 64 = 0 ∧ dfield x.raw 40 8 % 64 = 0 ∧
    unitClosed unitHtu s = false ∧ s.halo.htuOos = false

/-- The loop has left its lock for this state, unless it is out of service (R438). -/
def LoopIn (l : LoopId) (st : LoopState) (s t : State) : Prop :=
  (s.halo.loops[l.val].st ≠ .outOfService → t.halo.loops[l.val].st = st) ∧
    (s.halo.loops[l.val].st = .outOfService → t.halo.loops[l.val].st = .outOfService) ∧
    ∀ k : LoopId, k ≠ l → t.halo.loops[k.val] = s.halo.loops[k.val]

/-- An entry of the error log: sequence, event, instance, time, address, detail and unit, severity error (R534, R536). -/
def logEntry (s : State) (seq : Word) (event inst addr detail unit : Nat) : List Byte :=
  leBytes 4 seq.toNat ++ leBytes 2 event ++ [2, BitVec.ofNat 8 inst] ++ leBytes 8 s.eph.now.toNat ++ leBytes 8 addr ++
    leBytes 4 detail ++ leBytes 2 unit ++ [s.eph.timeEpoch, 0]

/-! ### Nucleus -/

/-- Nucleus serves commands and has none in hand, and this path may bring one (R518, R519, R542). -/
def Serves (path : CmdPath) (s : State) : Prop :=
  s.hub.ready = true ∧ s.hub.rstN = true ∧ s.nuc.restarting = false ∧ s.nuc.waiting = [] ∧ s.nuc.job = none ∧
    (path = .mailbox → live s = true ∧ s.nuc.busy = false)

/-- The response has been sent on the path of its request; on the mailbox, done is set and busy clear (R519, R520). -/
def Answers (path : CmdPath) (q : NucReq) (code : Byte) (data : List Byte) (t : State) : Prop :=
  Output.nuc path q.opcode q.seq code data ∈ t.out ∧ (path = .mailbox → t.nuc.busy = false ∧ t.nuc.done = true)

/-- A request for a unit: its number, then these bytes (R521). -/
def UnitRequest (q : NucReq) (op : Nat) (u : Nat) (rest : List Byte) : Prop :=
  q.opcode.toNat = op ∧ q.length.toNat = 2 + rest.length ∧ q.body = leBytes 2 u ++ rest ∧ u < 65536

/-- A command that changes state or time may come on this path (R518). -/
def MayChange (path : CmdPath) (s : State) : Prop := path = .smbus → s.nuc.smbusEn = true

/-- A pair takes a commit: its ring or instance is as R133 and R75 ask, and no core runs on the die of a spill base
(R10, R75, R81, R133, R337). -/
def TakesCommit (p : Pair) (s : State) : Prop :=
  match p with
  | .sqBase i q => s.inst[i.val].st = .ready ∧ (s.inst[i.val].sq[q.val]).st = .disabled
  | .cqBase i q => s.inst[i.val].st = .ready ∧ (s.inst[i.val].cq[q.val]).st ≠ .active
  | .sqShadow i _ => s.inst[i.val].st = .ready
  | .spillBase d => dieRuns d s = false
  | .part _ => False
  | _ => True


end Sys2Proof.Machine
end

