-- ==== Sys2Proof/Certificates/Slice0/Obligations.lean ====
section
/-! DEFINITION. The statements about the model, for the provers. Each says which rule of spec/ it rests on. -/

open Sys2Proof Sys2Proof.Machine

/-! ### The queue, the reset state, the encoding -/

/-- For every command c and state s, a step of s with c at the front of its queue is exec of c on s with the queue's
rest; with an empty queue and RST_N high one tick of CK_RT passes, and with RST_N low nothing does (log entry 1). -/
def Obligations.StepIsExec : Prop :=
  (∀ (c : Instr) (rest : List Instr) (s : State), step { s with pending := c :: rest } = exec c { s with pending := rest }) ∧
  (∀ s : State, s.hub.rstN = true → step { s with pending := [] } = .next { s with pending := [], eph := ephTick s.eph }) ∧
  (∀ s : State, s.hub.rstN = false → step { s with pending := [] } = .next { s with pending := [] })

/-- What reset leaves, as the spec states it: the device is not ready, radio time stands at 0 in FREE-RUN with HOLD_LIMIT
600, every ring is DISABLED with epoch 0, head and tail 0 and no head shadow, instance 0 is READY with every engine granted
and the others OFF with none, every core is IDLE, every lock FREE, instance 0 alone holds the lock banks, FAB_NODE is
0xFFFF, lanes are down, the sample port is disabled with both pins high, every walker is idle and not fenced, has no
error and counts 0, ports are in QUARANTINE and every other unit IN_SERVICE at epoch 0, the queue is empty
(R112, R341, R378, R399, R445, R485, R516, R545, R566). -/
def Obligations.ResetState : Prop :=
  State.reset.hub.ready = false ∧ State.reset.eph.now = 0 ∧ State.reset.eph.st = .freeRun ∧ State.reset.eph.holdLimit = 600 ∧
  (∀ (i : InstId) (q : Fin 16),
    (State.reset.inst[i.val].sq[q.val]).st = .disabled ∧ (State.reset.inst[i.val].sq[q.val]).epoch = 0 ∧
    (State.reset.inst[i.val].sq[q.val]).head = 0 ∧ (State.reset.inst[i.val].sq[q.val]).tail = 0 ∧
    (State.reset.inst[i.val].sq[q.val]).shadow = 0 ∧
    (State.reset.inst[i.val].cq[q.val]).st = .disabled ∧ (State.reset.inst[i.val].cq[q.val]).epoch = 0 ∧
    (State.reset.inst[i.val].cq[q.val]).head = 0 ∧ (State.reset.inst[i.val].cq[q.val]).tail = 0) ∧
  (∀ i : InstId, (State.reset.inst[i.val].st = .ready ↔ i = 0) ∧ (i ≠ 0 → State.reset.inst[i.val].st = .off) ∧
    State.reset.inst[i.val].wkMask = (if i = 0 then 0xFFFF else 0) ∧ State.reset.inst[i.val].dmaMask = (if i = 0 then 0xFFFF else 0) ∧
    State.reset.lku.grants[i.val] = (if i = 0 then BitVec.allOnes 64 else 0)) ∧
  (∀ c : CoreId, State.reset.cores[c.val].st = .idle ∧ State.reset.cores[c.val].hacc = []) ∧
  (∀ n : Fin 4096, State.reset.lku.locks[n.val].st = .free) ∧
  (∀ p : Fin 16, State.reset.bfm.pools[p.val].enable = false) ∧
  State.reset.fab.node = 0xFFFF ∧ (∀ l : Fin 32, State.reset.fab.lanes[l.val].up = false) ∧
  State.reset.sp.enable = false ∧ State.reset.sp.holdN = true ∧ State.reset.sp.lossN = true ∧
  (∀ w : Fin 16, State.reset.wks[w.val].queries = [] ∧ State.reset.wks[w.val].errValid = false ∧
    unitClosed (unitWk w) State.reset = false ∧ ∀ n : Fin 9, State.reset.wks[w.val].cnt[n.val] = 0) ∧
  (∀ u : Fin 622, State.reset.nuc.units[u.val].st = (if 0x266 ≤ u.val then 2 else 0) ∧ State.reset.nuc.units[u.val].epoch = 0) ∧
  State.reset.halo.calDone = false ∧ State.reset.tide.enable = true ∧ State.reset.pending = []

/-- Decode and encode agree for the core instructions: the word of a well-formed instruction, with every field at every
value, decodes to that instruction at that core (R189, R192 to R206). -/
def Obligations.DecodeEncode : Prop :=
  ∀ (i : Instr) (c : CoreId) (w : BitVec 64), coreEncode i = some (c, w) → coreDecode c w = i

/-! ### Memory -/

/-- Every byte memory keeps its canonical form through every step: device memory, host memory, the flash and its buffer and
every core's local memory. -/
def Obligations.MemoryWfStep : Prop := ∀ s t : State, s.memoryWf → step s = .next t → t.memoryWf

/-- The accepted descriptors stay in order through every step: no two share a number, numbers rise, and one that a reset
has taken over has ended or drains. -/
def Obligations.ItemsWfStep : Prop := ∀ s t : State, s.itemsWf → step s = .next t → t.itemsWf

/-- Both invariants hold at reset. -/
def Obligations.InvariantsReset : Prop := State.reset.memoryWf ∧ State.reset.itemsWf


/-! ### Scalar, predicate and branch instructions -/

/-- The register and the immediate forms of SCL: sd takes the result, a write to s0 is discarded, the pc moves on, and nothing
else of the core and nothing of the rest of the block changes (R188, R194). -/
def Obligations.ScalarResults : Prop :=
  ∀ (c : CoreId) (s : State),
    (∀ (w : RFmt), ∀ p ∈ scalarOps,
      Executes c w.g s → NotLast c s → w.c = 0 → w.x = 0 → NotPending s.cores[c.val] [w.d, w.a, w.b] [] [] →
      exec (p.1 c w) s = .next (modCore c (fun k => (k.putS w.d (p.2 (sreg k w.a) (sreg k w.b))).issued) s)) ∧
    (∀ (w : IFmt), ∀ p ∈ immediateOps,
      Executes c w.g s → NotLast c s → w.x = 0 → p.2.1 w → NotPending s.cores[c.val] [w.d, w.a] [] [] →
      exec (p.1 c w) s = .next (modCore c (fun k => (k.putS w.d (p.2.2 (sreg k w.a) w.imm)).issued) s))

/-- SEL, CMP, CMPI, PLOG, PMOV, PSET and RDF, and nothing else changes. A predicate result fills all 16 bits; cond is 0
eq, 1 ne, 2 lt, 3 ge, 4 ltu, 5 geu; RDF clears the flags only with x0 (R188, R194). -/
def Obligations.ScalarPredicate : Prop :=
  ∀ (c : CoreId) (s : State), NotLast c s →
    (∀ (w : RFmt) (r : BitVec 3), Executes c w.g s → w.c = 0 → w.x = r.setWidth 29 →
      NotPending s.cores[c.val] [w.d, w.a, w.b] [] [r] →
      exec (.sel c w) s = .next (modCore c (fun k =>
        (k.putS w.d (if (preg k r).getLsbD 0 then sreg k w.a else sreg k w.b)).issued) s)) ∧
    (∀ (w : RFmt) (r : BitVec 3) (f : Dword → Dword → Bool),
      Executes c w.g s → w.c = 0 → w.d = r.setWidth 5 → NotPending s.cores[c.val] [w.a, w.b] [] [r] →
      (w.x, f) ∈ [((0 : BitVec 29), fun a b => a == b), (1, fun a b => a != b), (2, BitVec.slt), (3, fun a b => BitVec.sle b a),
        (4, BitVec.ult), (5, fun a b => BitVec.ule b a)] →
      exec (.cmp c w) s = .next (modCore c (fun k => (k.putP r (if f (sreg k w.a) (sreg k w.b) then 0xFFFF else 0)).issued) s)) ∧
    (∀ (w : IFmt) (r : BitVec 3) (f : Dword → Dword → Bool),
      Executes c w.g s → w.d = r.setWidth 5 → NotPending s.cores[c.val] [w.a] [] [r] →
      (w.x, f) ∈ [((0 : BitVec 7), fun a b => a == b), (1, fun a b => a != b), (2, BitVec.slt), (3, fun a b => BitVec.sle b a),
        (4, BitVec.ult), (5, fun a b => BitVec.ule b a)] →
      exec (.cmpi c w) s = .next (modCore c (fun k =>
        (k.putP r (if f (sreg k w.a) (w.imm.signExtend 64) then 0xFFFF else 0)).issued) s)) ∧
    (∀ (w : RFmt) (d a b : BitVec 3) (f : BitVec 16 → BitVec 16 → BitVec 16),
      Executes c w.g s → w.c = 0 → w.d = d.setWidth 5 → w.a = a.setWidth 5 → w.b = b.setWidth 5 →
      NotPending s.cores[c.val] [] [] [d, a, b] →
      (w.x, f) ∈ [((0 : BitVec 29), fun x y => x &&& y), (1, fun x y => x ||| y), (2, fun x y => x ^^^ y), (3, fun x y => x &&& ~~~y)] →
      exec (.plog c w) s = .next (modCore c (fun k => (k.putP d (f (preg k a) (preg k b))).issued) s)) ∧
    (∀ (w : RFmt) (a : BitVec 3), Executes c w.g s → w.b = 0 → w.c = 0 → w.x = 0 → w.a = a.setWidth 5 →
      NotPending s.cores[c.val] [w.d] [] [a] →
      exec (.pmov c w) s = .next (modCore c (fun k => (k.putS w.d ((preg k a).setWidth 64)).issued) s)) ∧
    (∀ (w : RFmt) (d : BitVec 3), Executes c w.g s → w.b = 0 → w.c = 0 → w.x = 0 → w.d = d.setWidth 5 →
      NotPending s.cores[c.val] [w.a] [] [d] →
      exec (.pset c w) s = .next (modCore c (fun k => (k.putP d ((sreg k w.a).setWidth 16)).issued) s)) ∧
    (∀ (w : RFmt), Executes c w.g s → w.a = 0 → w.b = 0 → w.c = 0 → NotPending s.cores[c.val] [w.d] [] [] →
      (w.x = 0 → exec (.rdf c w) s = .next (modCore c (fun k => (k.putS w.d (k.flags.setWidth 64)).issued) s)) ∧
      (w.x = 1 → exec (.rdf c w) s =
        .next (modCore c (fun k => { (k.putS w.d (k.flags.setWidth 64)).issued with flags := 0 }) s)))

/-- Branches whose target is a multiple of 8 inside instruction memory: B and BL by 8·off, BR and BLR to sa bits 16:0, BL and
BLR keep pc + 8 in sd, and BLR's target is the sa before that; and nothing else changes (R194). LOOP takes its branch when
the new sa is not 0, and moves on when it is; for s0, which keeps reading 0, it moves on (log entry 16). -/
def Obligations.Branches : Prop :=
  ∀ (c : CoreId) (w : BFmt) (s : State), Executes c w.g s → w.rsv = 0 →
    (∀ t : Nat, (t : Int) = (s.cores[c.val].pc.toNat : Int) + 8 * w.off.toInt → t % 8 = 0 → t < 0x20000 →
      (w.d = 0 → w.a = 0 →
        exec (.b c w) s = .next (modCore c (fun k => { k.issued with pc := BitVec.ofNat 17 t }) s)) ∧
      (w.a = 0 → NotPending s.cores[c.val] [w.d] [] [] →
        exec (.bl c w) s = .next (modCore c (fun k =>
          { (k.putS w.d (BitVec.ofNat 64 (k.pc.toNat + 8))).issued with pc := BitVec.ofNat 17 t }) s)) ∧
      (w.d = 0 → w.a ≠ 0 → NotPending s.cores[c.val] [w.a] [] [] → sreg s.cores[c.val] w.a ≠ 1 →
        exec (.loop c w) s = .next (modCore c (fun k =>
          { (k.putS w.a (sreg k w.a - 1)).issued with pc := BitVec.ofNat 17 t }) s))) ∧
    ((sreg s.cores[c.val] w.a).toNat % 8 = 0 → NotPending s.cores[c.val] [w.a] [] [] →
      (w.d = 0 → exec (.br c w) s = .next (modCore c (fun k =>
        { k.issued with pc := (sreg k w.a).setWidth 17 }) s)) ∧
      (NotPending s.cores[c.val] [w.d] [] [] → exec (.blr c w) s = .next (modCore c (fun k =>
        { (k.putS w.d (BitVec.ofNat 64 (k.pc.toNat + 8))).issued with pc := (sreg k w.a).setWidth 17 }) s))) ∧
    (w.d = 0 → NotPending s.cores[c.val] [w.a] [] [] → NotLast c s → w.a = 0 ∨ sreg s.cores[c.val] w.a = 1 →
      exec (.loop c w) s = .next (modCore c (fun k => (k.putS w.a (sreg k w.a - 1)).issued) s))

/-! ### Vector instructions -/

/-- The vector forms that work on va and vb element by element: a lane whose mask bit is 0 keeps its old value in vd, the pc
moves on, and nothing else changes but the count of free values (R200; the free values of VMIN and VMAX are log entry 17). -/
def Obligations.VectorElements : Prop :=
  ∀ (c : CoreId) (w : RFmt) (s : State), ∀ p ∈ vectorOps,
    Executes c w.g s → NotLast c s → w.c = 0 → vecX w p.2.1 0 = true → NotPending s.cores[c.val] [] [w.d, w.a, w.b] (vecMask w) →
    exec (p.1 c w) s = .next (modCore c (fun k =>
      (k.putV w.d (ofLanes fun i =>
        if laneOn k w i then ofElems (elemWidth (vecType w)) fun j =>
          p.2.2.2 (vecType w) (s.free + 4 * i + j) (elem (elemWidth (vecType w)) (lane (vreg k w.a) i) j)
            (elem (elemWidth (vecType w)) (lane (vreg k w.b) i) j) (elem (elemWidth (vecType w)) (lane (vreg k w.d) i) j)
        else lane (vreg k w.d) i)).issued) { s with free := s.free + p.2.2.1 })

/-- The other vector forms: VSEL, VCVT, VBC, VINS and VPERM write vd lane by lane under the mask, VCMP writes pd, VEXT and
VRSUM write sd; nothing else changes but the count of free values (R200; masked lanes of VCMP and VCVT of i8 are log
entry 17). -/
def Obligations.VectorOthers : Prop :=
  ∀ (c : CoreId) (w : RFmt) (s : State), Executes c w.g s → NotLast c s →
    let put (n : Nat) (f : Core → Nat → BitVec 32) : State :=
      modCore c (fun k => (k.putV w.d (ofLanes fun i => if laneOn k w i then f k i else lane (vreg k w.d) i)).issued)
        { s with free := s.free + n }
    (∀ r : BitVec 3, w.c = r.setWidth 5 → vecX w 6 0 = true → NotPending s.cores[c.val] [] [w.d, w.a, w.b] (r :: vecMask w) →
      exec (.vsel c w) s = .next (put 0 fun k i => if (preg k r).getLsbD i then lane (vreg k w.a) i else lane (vreg k w.b) i)) ∧
    (w.b = 0 → w.c = 0 → vecX w 6 15 = true → bits w.x 2 0 ≤ 6 → NotPending s.cores[c.val] [] [w.d, w.a] (vecMask w) →
      exec (.vcvt c w) s =
        .next (put 16 fun k i => cvtLane (vecType w) (bits w.x 2 0) (bit w.x 3) (s.free + i) (lane (vreg k w.a) i))) ∧
    (w.b = 0 → w.c = 0 → vecX w 6 0 = true → NotPending s.cores[c.val] [w.a] [w.d] (vecMask w) →
      exec (.vbc c w) s = .next (put 0 fun k _ => (sreg k w.a).setWidth 32)) ∧
    (w.b = 0 → w.c = 0 → vecX w 6 15 = true → NotPending s.cores[c.val] [w.a] [w.d] (vecMask w) →
      exec (.vins c w) s =
        .next (put 0 fun k i => if i = bits w.x 3 0 then (sreg k w.a).setWidth 32 else lane (vreg k w.d) i)) ∧
    (w.c = 0 → vecX w 6 0 = true → NotPending s.cores[c.val] [] [w.d, w.a, w.b] (vecMask w) →
      exec (.vperm c w) s = .next (put 0 fun k i => lane (vreg k w.a) ((lane (vreg k w.b) i).toNat % 16))) ∧
    (w.b = 0 → w.c = 0 → vecX w 6 15 = true → NotPending s.cores[c.val] [w.d] [w.a] (vecMask w) →
      exec (.vext c w) s = .next (modCore c (fun k =>
        (k.putS w.d ((lane (vreg k w.a) (bits w.x 3 0)).setWidth 64)).issued) s)) ∧
    (w.b = 0 → w.c = 0 → vecX w 2 0 = true → NotPending s.cores[c.val] [w.d] [w.a] (vecMask w) →
      exec (.vrsum c w) s = .next (modCore c (fun k => (k.putS w.d (sumLanes (vecType w) (vreg k w.a))).issued) s)) ∧
    (∀ r : BitVec 3, w.c = 0 → w.d = r.setWidth 5 → vecX w 2 7 = true → bits w.x 2 0 ≤ 5 →
      NotPending s.cores[c.val] [] [w.a, w.b] (r :: vecMask w) →
      ∃ t, exec (.vcmp c w) s = .next t ∧
        (∀ i < 16, (preg t.cores[c.val] r).getLsbD i =
          if laneOn s.cores[c.val] w i then
            cmpLane (vecType w) (bits w.x 2 0) (lane (vreg s.cores[c.val] w.a) i) (lane (vreg s.cores[c.val] w.b) i)
          else (preg s.cores[c.val] r).getLsbD i) ∧
        t = modCore c (fun k => (k.putP r (preg t.cores[c.val] r)).issued) s)

/-- A guard that does not pass: an instruction of the scalar, branch, vector, load, store and tensor families issues as a
no-op, which changes nothing but the pc and the issue counters, or raises ILLEGAL, which it does whatever its guard, for
its encoding alone (R190, R191). -/
def Obligations.GuardedOff : Prop :=
  ∀ (i : Instr) (c : CoreId) (w : BitVec 64) (s : State), coreEncode i = some (c, w) → canIssue c s = true →
    guardOk (guardOf w) = true → guardReady (guardOf w) s.cores[c.val] = true → guardPass (guardOf w) s.cores[c.val] = false →
    NotLast c s → exec i s = .next (modCore c Core.issued s) ∨ exec i s = .next (raise c .illegal false 0 s)

/-! ### Loads and stores -/

/-- Loads from local memory: LD zero-extends and LDS sign-extends the 1, 2, 4 or 8 bytes that x1:0 names, VLD loads 64, from
an aligned address in data memory or AccMem, whose line holds no poison and whose slot no context image still writes; a byte
that an instruction in a queue still writes is free; nothing else changes but the count of free values. A correctable error
that the load meets in the line is counted on the core's die, and the load gives the same; one that cannot be corrected
poisons the line, and the load raises POISON (R155 to R157, R196 to R198, R209, R211, R218, R387 to R389; which command meets
an error is log entry 13). -/
def Obligations.LocalLoads : Prop :=
  ∀ (c : CoreId) (w : MFmt) (s : State), Executes c w.g s → NotLast c s → w.sp = 0 → w.n = 0 →
    CleanLines s.cores[c.val] (address c w s).toNat 1 →
    SlotsSettled s.cores[c.val] [((address c w s).toNat - 0x1C0000) / 4096] false →
    (∀ err : Option LineErr, err = none ∨ MeetsError err ((address c w s).toNat / 64) false →
      (∀ n, n = 2 ^ w.x.toNat → w.x.toNat < 4 → (address c w s).toNat % n = 0 → Loadable (address c w s).toNat n →
        NotPending s.cores[c.val] [w.t, w.a] [] [] →
        ∃ d f, FrontReads c (address c w s).toNat n d f s ∧
          exec (.ld c w err) s = .next { modCore c (fun k => (k.putS w.t (BitVec.ofNat 64 (leNat d))).issued)
            (corrected c err s) with free := f } ∧
          exec (.lds c w err) s = .next { modCore c (fun k =>
            (k.putS w.t ((BitVec.ofNat (8 * n) (leNat d)).signExtend 64)).issued) (corrected c err s) with free := f }) ∧
      (w.x = 0 → (address c w s).toNat % 64 = 0 → Loadable (address c w s).toNat 64 → NotPending s.cores[c.val] [w.a] [w.t] [] →
        ∃ d f, FrontReads c (address c w s).toNat 64 d f s ∧
          exec (.vld c w err) s = .next { modCore c (fun k => (k.putV w.t (BitVec.ofNat 512 (leNat d))).issued)
            (corrected c err s) with free := f })) ∧
    (∀ (err : Option LineErr) (n : Nat) (x : Instr), MeetsError err ((address c w s).toNat / 64) true →
      (address c w s).toNat % n = 0 → Loadable (address c w s).toNat n → NotPending s.cores[c.val] [w.t, w.a] [w.t] [] →
      ((w.x.toNat < 4 ∧ n = 2 ^ w.x.toNat ∧ (x = .ld c w err ∨ x = .lds c w err)) ∨ (w.x = 0 ∧ n = 64 ∧ x = .vld c w err)) →
      ∃ t, exec x s = .next t ∧ Faulted c 5 false (address c w s) s t ∧
        (address c w s).toNat / 64 ∈ t.cores[c.val].poisoned)

/-- Stores to local memory: ST stores the low 1, 2, 4 or 8 bytes of st and VST the 64 bytes of vt, least significant byte
first, at an aligned address in data memory. Every other byte of the core's local memory reads as before; the write is the
last effect of the core's program; and nothing else changes, but that VST takes poison and errors from the line it covers.
Stated while no instruction in a queue works on data memory (R44, R155 to R157, R196 to R198, R211, R390). -/
def Obligations.LocalStores : Prop :=
  ∀ (c : CoreId) (w : MFmt) (s : State), Executes c w.g s → NotLast c s → w.sp = 0 → w.n = 0 →
    Memory.wf 0 s.cores[c.val].mem = true → NoRace none s.cores[c.val] →
    (∀ n, n = 2 ^ w.x.toNat → w.x.toNat < 4 → (address c w s).toNat % n = 0 → Storable (address c w s).toNat n →
      NotPending s.cores[c.val] [w.t, w.a] [] [] →
      ∃ t, exec (.st c w) s = .next t ∧
        t = modCore c (fun k => { (k.noted (stampNow s)).issued with mem := t.cores[c.val].mem }) s ∧
        (∀ b, b < (address c w s).toNat ∨ (address c w s).toNat + n ≤ b → t.localByte c b = s.localByte c b) ∧
        ∀ j < n, t.localByte c ((address c w s).toNat + j) = (sreg s.cores[c.val] w.t).extractLsb' (8 * j) 8) ∧
    (w.x = 0 → (address c w s).toNat % 64 = 0 → Storable (address c w s).toNat 64 → NotPending s.cores[c.val] [w.a] [w.t] [] →
      ∃ t, exec (.vst c w) s = .next t ∧
        t = modCore c (fun k => { (k.noted (stampNow s)).issued with
          mem := t.cores[c.val].mem, poisoned := t.cores[c.val].poisoned, latent := t.cores[c.val].latent }) s ∧
        (∀ l, l ∈ t.cores[c.val].poisoned ↔ l ∈ s.cores[c.val].poisoned ∧ l ≠ (address c w s).toNat / 64) ∧
        (∀ e, e ∈ t.cores[c.val].latent ↔ e ∈ s.cores[c.val].latent ∧ e.1 ≠ (address c w s).toNat / 64) ∧
        (∀ b, b < (address c w s).toNat ∨ (address c w s).toNat + 64 ≤ b → t.localByte c b = s.localByte c b) ∧
        ∀ j < 64, t.localByte c ((address c w s).toNat + j) = (vreg s.cores[c.val] w.t).extractLsb' (8 * j) 8)

/-- Loads and stores in global space, within one line of device memory, which is in service and holds no poison and no error:
a load reads the bytes of the line that translation gives and puts its result into the NI queue, its register pending; a
store writes them at once, the last effect of the core's program, and its entry joins the NI queue; every other byte of
device memory reads as before. Of the rest only the translation caches and the count of free values may change
(R44, R121, R196, R198, R208, R213, R237). -/
def Obligations.GlobalAccess : Prop :=
  ∀ (c : CoreId) (w : MFmt) (s : State) (p n : Nat), Executes c w.g s → NotLast c s → w.sp = 1 → w.n = 0 → NiFree c 1 s →
    GoodLine s p → (address c w s).toNat % 64 + n ≤ 64 → Memory.wf 0 s.mem.dpa = true →
    (MapsTo c .read (address c w s).toNat s p →
      (n = 2 ^ w.x.toNat → w.x.toNat < 4 → NotPending s.cores[c.val] [w.t, w.a] [] [] →
        (∃ t, exec (.ld c w none) s = .next t ∧
          t = { modCore c (fun k => ((k.addNi { sres :=
            [(w.t, BitVec.ofNat 64 (leNat (Memory.read 0 s.mem.dpa p n)))] }).markS w.t).issued) s with mtu := t.mtu, free := t.free }) ∧
        ∃ t, exec (.lds c w none) s = .next t ∧
          t = { modCore c (fun k => ((k.addNi { sres := [(w.t, (BitVec.ofNat (8 * n)
            (leNat (Memory.read 0 s.mem.dpa p n))).signExtend 64)] }).markS w.t).issued) s with mtu := t.mtu, free := t.free }) ∧
      (n = 64 → w.x = 0 → NotPending s.cores[c.val] [w.a] [w.t] [] →
        ∃ t, exec (.vld c w none) s = .next t ∧
          t = { modCore c (fun k => ((k.addNi
            { vres := some (w.t, BitVec.ofNat 512 (leNat (Memory.read 0 s.mem.dpa p 64))) }).markV w.t).issued) s with mtu := t.mtu, free := t.free })) ∧
    (MapsTo c .write (address c w s).toNat s p →
      (n = 2 ^ w.x.toNat → w.x.toNat < 4 → NotPending s.cores[c.val] [w.t, w.a] [] [] →
        ∃ t, exec (.st c w) s = .next t ∧
          t = { modCore c (fun k => ((k.addNi {}).noted (stampNow s)).issued) s with
            mtu := t.mtu, free := t.free, mem := { s.mem with dpa := t.mem.dpa } } ∧
          (∀ b, b < p ∨ p + n ≤ b → t.byte b = s.byte b) ∧
          ∀ j < n, t.byte (p + j) = (sreg s.cores[c.val] w.t).extractLsb' (8 * j) 8) ∧
      (n = 64 → w.x = 0 → NotPending s.cores[c.val] [w.a] [w.t] [] →
        ∃ t, exec (.vst c w) s = .next t ∧
          t = { modCore c (fun k => ((k.addNi {}).noted (stampNow s)).issued) s with
            mtu := t.mtu, free := t.free, mem := { s.mem with dpa := t.mem.dpa } } ∧
          (∀ b, b < p ∨ p + 64 ≤ b → t.byte b = s.byte b) ∧
          ∀ j < 64, t.byte (p + j) = (vreg s.cores[c.val] w.t).extractLsb' (8 * j) 8))

/-- Loads and stores in remote space, within one line, while the core has no request outstanding: a load sends one READ of the
bytes to the node, and its entry waits for RDATA; a store opens a coalescing WRITE, whose entry waits for WACK; where its
bytes end a 4 KiB block it closes there and is sent, the last effect of the core's program (R44, R197, R464 to R467). -/
def Obligations.RemoteAccess : Prop :=
  ∀ (c : CoreId) (w : MFmt) (s : State) (n : Nat) (dom : Byte), Executes c w.g s → NotLast c s → w.sp = 2 → NiFree c 1 s →
    (address c w s).toNat < 2 ^ 40 → (address c w s).toNat % 64 + n ≤ 64 →
    RouteOpen c ((sreg s.cores[c.val] w.n).setWidth 16) dom s →
    (∀ (x : Instr) (e : QEntry),
      (n = 2 ^ w.x.toNat ∧ w.x.toNat < 4 ∧ NotPending s.cores[c.val] [w.t, w.a, w.n] [] [] ∧
        ((x = .ld c w none ∧ e = { sres := [(w.t, 0)], answered := .scalar false }) ∨
          (x = .lds c w none ∧ e = { sres := [(w.t, 0)], answered := .scalar true }))) ∨
      (n = 64 ∧ w.x = 0 ∧ NotPending s.cores[c.val] [w.a, w.n] [w.t] [] ∧
        x = .vld c w none ∧ e = { vres := some (w.t, 0), answered := .vector }) →
      ∃ t m, exec x s = .next t ∧ t.fab.nextReq = s.fab.nextReq + 1 ∧
        t.fab.reqs = [{ id := s.fab.nextReq, owner := .core c .ni, msg := m }] ∧
        m.type = 0x02 ∧ m.dst = (sreg s.cores[c.val] w.n).setWidth 16 ∧ m.domain = dom ∧ m.addr = address c w s ∧
        m.arg.toNat = n - 1 ∧ m.reqId = s.fab.nextReq ∧ t.mem = s.mem ∧
        t.cores = (modCore c (fun k => (let k' := k.addNi { e with parts := [(s.fab.nextReq, none)] }
          if n = 64 then k'.markV w.t else k'.markS w.t).issued) s).cores) ∧
    (∀ (x : Instr) (d : List Byte),
      (n = 2 ^ w.x.toNat ∧ w.x.toNat < 4 ∧ NotPending s.cores[c.val] [w.t, w.a, w.n] [] [] ∧ x = .st c w ∧
        d = leBytes n (sreg s.cores[c.val] w.t).toNat) ∨
      (n = 64 ∧ w.x = 0 ∧ NotPending s.cores[c.val] [w.a, w.n] [w.t] [] ∧ x = .vst c w ∧
        d = leBytes 64 (vreg s.cores[c.val] w.t).toNat) →
      ((address c w s).toNat % 4096 + n < 4096 →
        exec x s = .next { modCore c (fun k => ({ (k.addNi { parts := [(s.fab.nextReq, none)] }) with
          coalesce := some ⟨(sreg k w.n).setWidth 16, (address c w s).toNat, d, s.fab.nextReq⟩ }).issued) s with
            fab := { s.fab with nextReq := s.fab.nextReq + 1 } }) ∧
      ((address c w s).toNat % 4096 + n = 4096 →
        ∃ t m, exec x s = .next t ∧ t.fab.nextReq = s.fab.nextReq + 1 ∧
          t.fab.reqs = [{ id := s.fab.nextReq, owner := .core c .ni, msg := m }] ∧
          m.type = 0x01 ∧ m.dst = (sreg s.cores[c.val] w.n).setWidth 16 ∧ m.domain = dom ∧ m.addr = address c w s ∧
          m.payload = d ∧ m.reqId = s.fab.nextReq ∧ t.mem = s.mem ∧
          t.cores = (modCore c (fun k =>
            ((k.addNi { parts := [(s.fab.nextReq, none)] }).noted (stampNow s)).issued) s).cores))

/-- Where branches, loads and stores trap. BR and BLR whose target has bits 2:0 not 0 raise LOCAL_ALIGN; B, BL and LOOP whose
target lies at or above 0x2_0000 raise LOCAL_RANGE, and so does sequential fetch past 0x1_FFF8, raised by the last instruction
before the boundary (log entry 29), shown on NOP. A misaligned local address raises LOCAL_ALIGN, and one outside data memory
and AccMem, or a store to AccMem, LOCAL_RANGE; a poisoned local line raises POISON at a load; a global address that does not
translate raises XLATE with that address, and the fault register of the instance takes kind, core and address if it is empty;
a global load of a poisoned line raises POISON, and an access to an LP5X channel out of service UNIT; a remote access of an
instance that may not use the fabric, or at 2^40 and above, raises FABRIC. The core is FAULTED and its CORE_FAULT names the
instruction; registers and local memory keep their values
(R118, R126, R157, R184, R195, R197, R198, R221, R389, R417, R464). -/
def Obligations.Traps : Prop :=
  (∀ (c : CoreId) (s : State),
    (∀ (w : BFmt) (x : Instr), Executes c w.g s → w.rsv = 0 → NotPending s.cores[c.val] [w.a] [] [] →
      (sreg s.cores[c.val] w.a).toNat % 8 ≠ 0 →
      (x = .br c w ∧ w.d = 0) ∨ (x = .blr c w ∧ NotPending s.cores[c.val] [w.d] [] []) →
      ∃ t, exec x s = .next t ∧ t.cores[c.val].st = .faulted ∧ t.cores[c.val].faultCause = 3 ∧
        t.cores[c.val].faultPc = s.cores[c.val].pc) ∧
    (∀ (w : BFmt) (x : Instr), Executes c w.g s → w.rsv = 0 →
      0x20000 ≤ (s.cores[c.val].pc.toNat : Int) + 8 * w.off.toInt → s.cores[c.val].pc.toNat % 8 = 0 →
      (x = .b c w ∧ w.d = 0 ∧ w.a = 0) ∨ (x = .bl c w ∧ w.a = 0 ∧ NotPending s.cores[c.val] [w.d] [] []) ∨
        (x = .loop c w ∧ w.d = 0 ∧ w.a ≠ 0 ∧ NotPending s.cores[c.val] [w.a] [] [] ∧ sreg s.cores[c.val] w.a ≠ 1) →
      ∃ t, exec x s = .next t ∧ t.cores[c.val].st = .faulted ∧ t.cores[c.val].faultCause = 2 ∧
        t.cores[c.val].faultPc = s.cores[c.val].pc) ∧
    (∀ w : RFmt, Executes c w.g s → w.d = 0 → w.a = 0 → w.b = 0 → w.c = 0 → w.x = 0 → ¬ NotLast c s →
      ∃ t, exec (.syncNop c w) s = .next t ∧ t.cores[c.val].st = .faulted ∧ t.cores[c.val].faultCause = 2 ∧
        t.cores[c.val].faultPc = s.cores[c.val].pc)) ∧
  (∀ (c : CoreId) (w : MFmt) (s : State) (x : Instr) (n : Nat) (load : Bool), Executes c w.g s → Moves c w x n load →
    NotPending s.cores[c.val] [w.t, w.a, w.n] [w.t] [] → NiFree c 2 s →
    SlotsSettled s.cores[c.val] [((address c w s).toNat - 0x1C0000) / 4096] false →
    (w.sp = 0 → w.n = 0 → (address c w s).toNat % n ≠ 0 →
      ∃ t, exec x s = .next t ∧ Faulted c 3 false (address c w s) s t) ∧
    (w.sp = 0 → w.n = 0 → (address c w s).toNat % n = 0 →
      (if load then ¬ Loadable (address c w s).toNat n else ¬ Storable (address c w s).toNat n) →
      ∃ t, exec x s = .next t ∧ Faulted c 2 false (address c w s) s t) ∧
    (w.sp = 0 → w.n = 0 → (address c w s).toNat % n = 0 → load = true → Loadable (address c w s).toNat n →
      (address c w s).toNat / 64 ∈ s.cores[c.val].poisoned →
      ∃ t, exec x s = .next t ∧ Faulted c 5 false (address c w s) s t) ∧
    (∀ k, w.sp = 1 → w.n = 0 → s.inst[(coreInst c s).val].gen = s.cores[c.val].gen →
      (translate (coreInst c s) (if load then .read else .write) (address c w s).toNat s).1 = .error k →
      ∃ t, exec x s = .next t ∧ Faulted c 4 true (address c w s) s t ∧
        (s.mtu[(coreInst c s).val].faultValid = false →
          t.mtu[(coreInst c s).val].faultValid = true ∧ t.mtu[(coreInst c s).val].faultKind = k ∧
          t.mtu[(coreInst c s).val].faultWrite = !load ∧ t.mtu[(coreInst c s).val].faultSource.toNat = c.val ∧
          t.mtu[(coreInst c s).val].faultAddr = BitVec.ofNat 64 (address c w s).toNat)) ∧
    (∀ p, w.sp = 1 → w.n = 0 → (address c w s).toNat % 64 + n ≤ 64 →
      MapsTo c (if load then .read else .write) (address c w s).toNat s p →
      ((∃ ch, regionOf s p = .lp5x ch) ∨ ∃ d, regionOf s p = .pool d) →
      (channelOut s p = true → ∃ t, exec x s = .next t ∧ Faulted c 10 true (address c w s) s t) ∧
      (channelOut s p = false → load = true → p / 64 ∈ s.mem.poisoned →
        ∃ t, exec x s = .next t ∧ Faulted c 5 true (address c w s) s t)) ∧
    (w.sp = 2 → (2 ^ 40 ≤ (address c w s).toNat ∨ s.inst[(coreInst c s).val].fabEn = false ∨
        s.fab.domain[(coreInst c s).val] = none) →
      ∃ t, exec x s = .next t ∧ Faulted c 11 true (address c w s) s t))


/-! ### Atomic adds, locks, buffers -/

/-- LADD and FADD: the word takes the exact L128 or FP32 sum, or INF; the old value is returned if asked for, its registers
pending; INF met or produced sets the ledger flag inf, and an LADD operand of 2^103 grid steps or more the flag range; the
update is the last effect of the core's program. In local space (stated while no other queue works on data memory) and in
device memory every other byte and the rest of the block stay as they were; in remote space the request leaves for the node
with its operand, and the entry waits for its answer. A poisoned local word is left alone and raises POISON, and a misaligned
global or remote FADD or LADD raises UNIT (R44, R198, R199, R206, R267, R268, R270, R272, R288, R289, R291, R300). -/
def Obligations.AtomicAdds : Prop :=
  ∀ (c : CoreId) (w : MFmt) (s : State) (ret : Bool), Executes c w.g s → NotLast c s → (w.sp ≠ 2 → w.n = 0) → NiFree c 1 s →
    w.x = (if ret then 1 else 0) → NotPending s.cores[c.val] [w.t, w.t + 1, w.a, w.n] [] [] →
    let a := (address c w s).toNat
    let node : BitVec 16 := (sreg s.cores[c.val] w.n).setWidth 16
    let marks2 (k : Core) : Core := if ret then (k.markS w.t).markS (w.t + 1) else k
    let marks1 (k : Core) : Core := if ret then k.markS w.t else k
    let k0 := s.cores[c.val]
    let big := beyondWindow (pairValue128 k0 w.t)
    let now := stampNow s
    let sent (type : Byte) (d : List Byte) (e : QEntry) (dom : Byte) (f : Core → Core) (t : State) : Prop :=
      ∃ m, t.fab.nextReq = s.fab.nextReq + 1 ∧ t.fab.reqs = [{ id := s.fab.nextReq, owner := .core c .ni, msg := m }] ∧
        m.type = type ∧ m.flags = (if ret then 2 else 0) ∧ m.dst = node ∧ m.domain = dom ∧ m.addr = address c w s ∧
        m.payload = d ∧ m.reqId = s.fab.nextReq ∧ t.mem = s.mem ∧
        t.cores = (modCore c (fun k => ((f (k.addNi { e with parts := [(s.fab.nextReq, none)] })).noted now).issued) s).cores
    (bit w.t 0 = false → a % 16 = 0 →
      (w.sp = 0 → Loadable a 16 → CleanLines k0 a 16 → NoRace (some .ni) k0 →
        let old := BitVec.ofNat 128 (leNat (Memory.read 0 k0.mem a 16))
        let new := sumL128 old (pairValue128 k0 w.t)
        exec (.ladd c w) s = .next (modCore c (fun k =>
          ((({ (marks2 (k.addNi { oldPair w.t ret old with wrote := [(a, 16)] })).issued with
            mem := Memory.write 0 k.mem a (leBytes 16 new.toNat) }).metInf (new = 1#128 <<< 127)).metRange big).noted now) s)) ∧
      (∀ p, w.sp = 1 → GoodLine s p → MapsTo c .atomic a s p →
        let old := BitVec.ofNat 128 (leNat (Memory.read 0 s.mem.dpa p 16))
        let new := sumL128 old (pairValue128 k0 w.t)
        ∃ t, exec (.ladd c w) s = .next t ∧
          t = { modCore c (fun k =>
              ((((marks2 (k.addNi (oldPair w.t ret old))).issued).metInf (new = 1#128 <<< 127)).metRange big).noted now) s with
            mtu := t.mtu, free := t.free, mem := { s.mem with dpa := Memory.write 0 s.mem.dpa p (leBytes 16 new.toNat) } }) ∧
      (∀ dom, w.sp = 2 → a < 2 ^ 40 → RouteOpen c node dom s →
        ∃ t, exec (.ladd c w) s = .next t ∧
          sent 0x03 (leBytes 16 (pairValue128 k0 w.t).toNat)
            { oldPair w.t ret 0 with answered := if ret then .pair else .none } dom (fun k => (marks2 k).metRange big) t)) ∧
    (a % 4 = 0 →
      (w.sp = 0 → Loadable a 4 → CleanLines k0 a 4 → NoRace (some .ni) k0 →
        let old := BitVec.ofNat 32 (leNat (Memory.read 0 k0.mem a 4))
        exec (.fadd c w) s = .next (modCore c (fun k =>
          ({ (marks1 (k.addNi { oldWord w.t ret old with wrote := [(a, 4)] })).issued with
            mem := Memory.write 0 k.mem a (leBytes 4 (f32Add old.toNat ((sreg k w.t).setWidth 32).toNat)) }).noted now) s)) ∧
      (∀ p, w.sp = 1 → GoodLine s p → MapsTo c .atomic a s p →
        let old := BitVec.ofNat 32 (leNat (Memory.read 0 s.mem.dpa p 4))
        let new := f32Add old.toNat ((sreg k0 w.t).setWidth 32).toNat
        ∃ t, exec (.fadd c w) s = .next t ∧
          t = { modCore c (fun k => ((marks1 (k.addNi (oldWord w.t ret old))).issued).noted now) s with
            mtu := t.mtu, free := t.free, mem := { s.mem with dpa := Memory.write 0 s.mem.dpa p (leBytes 4 new) } }) ∧
      (∀ dom, w.sp = 2 → a < 2 ^ 40 → RouteOpen c node dom s →
        ∃ t, exec (.fadd c w) s = .next t ∧
          sent 0x04 (leBytes 4 ((sreg k0 w.t).setWidth 32).toNat)
            { oldWord w.t ret 0 with answered := if ret then .scalar false else .none } dom marks1 t)) ∧
    (w.sp = 0 → bit w.t 0 = false → a % 16 = 0 → Loadable a 16 → a / 64 ∈ k0.poisoned →
      ∃ t, exec (.ladd c w) s = .next t ∧ Faulted c 5 false (address c w s) s t) ∧
    (w.sp = 0 → a % 4 = 0 → Loadable a 4 → a / 64 ∈ k0.poisoned →
      ∃ t, exec (.fadd c w) s = .next t ∧ Faulted c 5 false (address c w s) s t) ∧
    (∀ dom, w.sp = 1 ∨ (w.sp = 2 ∧ a < 2 ^ 40 ∧ RouteOpen c node dom s) →
      (a % 4 ≠ 0 → ∃ t, exec (.fadd c w) s = .next t ∧ Faulted c 10 true (address c w s) s t) ∧
      (bit w.t 0 = false → a % 16 ≠ 0 → ∃ t, exec (.ladd c w) s = .next t ∧ Faulted c 10 true (address c w s) s t))

/-- LADDT adds the 256 words of a slot of form L128, read through its ping-pong pair, to 256 consecutive words, with the ledger
flags inf and range as those adds set them, as the last effect of the core's program. In local space (stated while no other
queue works on data memory) and in device memory the words take the sums and every other byte reads as before; in remote
space one request of the 4,096 bytes leaves for the node (R44, R206, R209, R211, R270, R272, R280, R288, R464 to R466). -/
def Obligations.SlotAdds : Prop :=
  ∀ (c : CoreId) (w : MFmt) (s : State), Executes c w.g s → NotLast c s → NiFree c 1 s → (w.sp ≠ 2 → w.n = 0) → w.t = 0 →
    w.x.toNat < 64 → NotPending s.cores[c.val] [w.a, w.n] [] [] → CleanCore s.cores[c.val] →
    SlotsSettled s.cores[c.val] [w.x.toNat / 2 * 2, w.x.toNat / 2 * 2 + 1] false →
    let k0 := s.cores[c.val]
    let a := (address c w s).toNat
    let n := readSlot k0 (Fin.ofNat 64 w.x.toNat)
    let add (i : Nat) : BitVec 128 := slotWord k0 n.val i
    let sums (m m' : Memory) (p : Nat) (inf : Bool) : Prop :=
      let old (i : Nat) : BitVec 128 := BitVec.ofNat 128 (leNat (Memory.read 0 m (p + 16 * i) 16))
      (inf = true ↔ ∃ i < 256, sumL128 (old i) (add i) = 1#128 <<< 127) ∧
        (∀ i < 256, leNat (Memory.read 0 m' (p + 16 * i) 16) = (sumL128 (old i) (add i)).toNat) ∧
        ∀ b, b < p ∨ p + 4096 ≤ b → Memory.get 0 m' b = Memory.get 0 m b
    (k0.slots[n.val]).form = 0 → a % 64 = 0 →
    ∃ big : Bool, (big = true ↔ ∃ i < 256, beyondWindow (add i) = true) ∧
      (w.sp = 0 → Loadable a 4096 → Memory.wf 0 k0.mem = true → NoRace (some .ni) k0 →
        ∃ t inf, exec (.laddt c w) s = .next t ∧
          t = modCore c (fun k => { ((((k.addNi { wrote := [(a, 4096)] }).issued).metInf inf).metRange big).noted (stampNow s) with
            mem := t.cores[c.val].mem }) s ∧ sums k0.mem t.cores[c.val].mem a inf) ∧
      (∀ p, w.sp = 1 → s.inst[(coreInst c s).val].gen = k0.gen → MapsRange (coreInst c s) .atomic a 4096 p s →
        TablesClear (coreInst c s) p 4096 s → Memory.wf 0 s.mem.dpa = true →
        ∃ t inf, exec (.laddt c w) s = .next t ∧
          t = { modCore c (fun k => ((((k.addNi {}).issued).metInf inf).metRange big).noted (stampNow s)) s with
            mem := { s.mem with dpa := t.mem.dpa } } ∧ sums s.mem.dpa t.mem.dpa p inf) ∧
      (∀ dom, w.sp = 2 → a < 2 ^ 40 → RouteOpen c ((sreg k0 w.n).setWidth 16) dom s →
        ∃ t m, exec (.laddt c w) s = .next t ∧ t.fab.nextReq = s.fab.nextReq + 1 ∧
          t.fab.reqs = [{ id := s.fab.nextReq, owner := .core c .ni, msg := m }] ∧ m.type = 0x05 ∧
          m.dst = (sreg k0 w.n).setWidth 16 ∧ m.domain = dom ∧ m.addr = address c w s ∧ m.payload.length = 4096 ∧
          (∀ i < 256, leNat ((m.payload.drop (16 * i)).take 16) = (add i).toNat) ∧ m.reqId = s.fab.nextReq ∧ t.mem = s.mem ∧
          t.cores = (modCore c (fun k =>
            (((k.addNi { parts := [(s.fab.nextReq, none)] }).metRange big).noted (stampNow s)).issued) s).cores)

/-- LACQ of a lock that the instance may name: FREE gives sd 0 and ORPHANED sd 1, and the lock is then HELD by the core
under its generation and lease; HELD by another core gives sd 2 with nowait, and waits at the tail of the queue without; a
lease that has passed gives sd 2; in each of these but the waits nothing else changes. HELD by the core itself gives sd 2 and
leaves the lock unit as it was; a lock outside the grant raises UNIT (R206, R402, R403, R406, R408). -/
def Obligations.LockAcquire : Prop :=
  ∀ (c : CoreId) (w : RFmt) (s : State) (n : Fin 4096) (p : BitVec 3) (nowait : Bool), Executes c w.g s → NotLast c s →
    NiFree c 1 s → w.c = 0 → w.x = p.setWidth 29 + (if nowait then 8 else 0) →
    NotPending s.cores[c.val] [w.d, w.a, w.b] [] [p] → sreg s.cores[c.val] w.a = BitVec.ofNat 64 n.val →
    let lease := sreg s.cores[c.val] w.b
    let me (l : Lock) : Lock :=
      { l with st := .held, inst := coreInst c s, core := c, gen := s.cores[c.val].gen, lease := lease }
    let ans (sd : Dword) (lk : Option (Fin 4096)) (k : Core) : Core :=
      (((k.addNi { sres := [(w.d, sd)], pres := some (p, sd != 2), lock := lk }).markS w.d).markP p).issued
    (LockOpen c n s →
      (s.lku.locks[n.val].st = .free → LeaseOpen lease s.eph.now →
        exec (.lacq c w) s =
          .next { modCore c (ans 0 none) s with lku := { s.lku with locks := upd s.lku.locks n me } }) ∧
      (s.lku.locks[n.val].st = .orphaned → LeaseOpen lease s.eph.now →
        exec (.lacq c w) s = .next { modCore c (fun k => { ans 1 none k with orphan := true }) s with
          lku := { s.lku with locks := upd s.lku.locks n me } }) ∧
      (s.lku.locks[n.val].st ≠ .held → ¬ LeaseOpen lease s.eph.now →
        exec (.lacq c w) s = .next (modCore c (ans 2 none) s)) ∧
      (s.lku.locks[n.val].st = .held → (s.lku.locks[n.val].core ≠ c ∨ s.lku.locks[n.val].inst ≠ coreInst c s) →
        exec (.lacq c w) s = .next (if nowait then modCore c (ans 2 none) s
          else { modCore c (ans 2 (some n)) s with lku := { s.lku with locks := upd s.lku.locks n fun l =>
            { l with waiters := l.waiters ++ [⟨c, coreInst c s, s.cores[c.val].gen, lease⟩] } } })) ∧
      (s.lku.locks[n.val].st = .held → s.lku.locks[n.val].core = c → s.lku.locks[n.val].inst = coreInst c s →
        ∃ t, exec (.lacq c w) s = .next t ∧ t.lku = s.lku ∧ t.cores = (modCore c (ans 2 none) s).cores)) ∧
    (bit s.lku.grants[(coreInst c s).val] (n.val / 64) = false →
      ∃ t, exec (.lacq c w) s = .next t ∧ t.lku = s.lku ∧ Faulted c 10 false 0 s t)

/-- What frees a lock: LREL by its holder, and LOCK_ADMIN with op 2 of instance 0, or with op 1 on an ORPHANED lock. The first
waiter whose lease has not passed holds it next, those before it are gone; with no such waiter the lock is FREE. LREL of a
lock that the core does not hold only counts in bad_release and is logged. Once the tick of a lease is over the lock becomes
ORPHANED, which is counted, or that waiter holds it. LOCK_ADMIN reports the lock's state and owner after its op: OK, or ORPHAN
where op 1 has freed a lock; it is INVALID for a lock outside the grant and for op 2 of another instance
(R404 to R407, R409, R414, R418). -/
def Obligations.LockRelease : Prop :=
  ∀ (s : State) (n : Fin 4096),
    let l := s.lku.locks[n.val]
    let freed (l : Lock) : Lock := { l with st := .free, inst := 0, core := 0, gen := 0, lease := 0 }
    let next (q : LockReq) (rest : List LockReq) : Lock := ⟨.held, q.inst, q.core, q.gen, q.lease, rest⟩
    let after (f : Lock → Lock) (t : State) : Prop :=
      ((∀ q ∈ l.waiters, ¬ LeaseOpen q.lease s.eph.now) →
        t.lku.locks = upd s.lku.locks n fun l => { f l with waiters := [] }) ∧
      (∀ gone q rest, l.waiters = gone ++ q :: rest → (∀ g ∈ gone, ¬ LeaseOpen g.lease s.eph.now) →
        LeaseOpen q.lease s.eph.now → t.lku.locks = upd s.lku.locks n fun _ => next q rest)
    let report (l : Lock) : Dword := BitVec.ofNat 64 ((match l.st with
      | .free => 0
      | .held => 1
      | .orphaned => 2) + l.inst.val * 256)
    (∀ (c : CoreId) (w : RFmt), Executes c w.g s → NotLast c s → NiFree c 1 s → w.d = 0 → w.b = 0 → w.c = 0 → w.x = 0 →
      NotPending s.cores[c.val] [w.a] [] [] → sreg s.cores[c.val] w.a = BitVec.ofNat 64 n.val →
      (l.st = .held → l.core = c → l.inst = coreInst c s →
        ∃ t, exec (.lrel c w) s = .next t ∧ after freed t ∧
          (l.waiters = [] → t = { modCore c (fun k => (k.addNi {}).issued) s with
            lku := { s.lku with locks := upd s.lku.locks n freed } })) ∧
      ((l.st ≠ .held ∨ l.core ≠ c ∨ l.inst ≠ coreInst c s) →
        ∃ t, exec (.lrel c w) s = .next t ∧ t.lku = { s.lku with badRelease := satInc s.lku.badRelease } ∧
          t.cores = (modCore c (fun k => (k.addNi {}).issued) s).cores)) ∧
    (live s = true → l.st = .held → ¬ LeaseOpen l.lease s.eph.now →
      ∃ t, exec (.leaseExpiry n) s = .next t ∧ after (fun l => { l with st := .orphaned }) t ∧
        t.lku.orphans = satInc s.lku.orphans ∧ t.lku.badRelease = s.lku.badRelease) ∧
    (∀ d x, live s = true → isItem d 10 .ready s = true → findItem d s = some x → Fresh x s → dfield x.raw 24 2 = n.val →
      (¬ (bit s.lku.grants[x.inst.val] (n.val / 64) = true ∧ bit s.lku.broken (n.val / 64) = false) ∨
          (dfield x.raw 26 1 = 2 ∧ x.inst ≠ 0) →
        ∃ t, exec (.lockAdmin d) s = .next t ∧ t.lku = s.lku ∧ Completes d 0x10 0 s t) ∧
      (bit s.lku.grants[x.inst.val] (n.val / 64) = true → bit s.lku.broken (n.val / 64) = false →
        (dfield x.raw 26 1 = 0 ∨ (dfield x.raw 26 1 = 1 ∧ l.st ≠ .orphaned) →
          ∃ t, exec (.lockAdmin d) s = .next t ∧ t.lku = s.lku ∧ Completes d 0x00 (report l) s t) ∧
        (dfield x.raw 26 1 = 1 → l.st = .orphaned →
          ∃ t, exec (.lockAdmin d) s = .next t ∧ after freed t ∧ Completes d 0x04 (report t.lku.locks[n.val]) s t) ∧
        (dfield x.raw 26 1 = 2 → x.inst = 0 →
          ∃ t, exec (.lockAdmin d) s = .next t ∧ after freed t ∧ Completes d 0x00 (report t.lku.locks[n.val]) s t)))

/-- Buffers. ALLOC takes the head of the pool's free list and answers with its handle; with no buffer free, or the pool
disabled or refused, it answers 0xFFFFFFFF, is counted, and changes nothing else. FREE by the holder of a handle with the
current reuse count puts the buffer at the tail with the next reuse count; every other FREE leaves all pools as they were, is
counted by its kind, and is latched if nothing is. Enabling a disabled pool sets its size and count and puts its free indices
into rising order; a parity error makes its pool or bank refuse requests (R397, R399, R400, R418, R420). -/
def Obligations.Buffers : Prop :=
  ∀ (i : InstId) (p : Fin 16) (s : State), live s = true →
    let x := s.bfm.pools[p.val]
    (∀ b rest, x.enable = true → x.broken = false → x.free = b :: rest →
      exec (.alloc i p) s = .next (emit (.readData
          (leBytes 8 (BitVec.ofNat 32 (p.val * 2 ^ 28 + b * 256 + (Tab.get 0 x.reuse b).toNat)).toNat) false)
        (modPool p (fun x => { x with free := rest, held := Tab.set x.held b i }) s))) ∧
    ((x.free = [] ∨ x.enable = false ∨ x.broken = true) →
      exec (.alloc i p) s = .next (emit (.readData [0xFF, 0xFF, 0xFF, 0xFF, 0, 0, 0, 0] false)
        { s with bfm := { s.bfm with badAccess := satInc s.bfm.badAccess } })) ∧
    (∀ (h : Word) (b : Nat), b = bits h 27 8 → bits h 31 28 = p.val → b < x.count.toNat → x.enable = true → x.broken = false →
      (Tab.find x.held b = some i → (Tab.get 0 x.reuse b).toNat = bits h 7 0 →
        exec (.free i p h) s = .next (modPool p (fun x =>
          { x with free := x.free ++ [b], held := Tab.del x.held b, reuse := Tab.set x.reuse b (Tab.get 0 x.reuse b + 1) }) s)) ∧
      ((Tab.find x.held b = none ∨ (Tab.get 0 x.reuse b).toNat ≠ bits h 7 0) →
        ∃ t, exec (.free i p h) s = .next t ∧ t.bfm.pools = s.bfm.pools ∧ t.bfm.doubleFree = satInc s.bfm.doubleFree ∧
          (s.bfm.evtValid = false → t.bfm.evtKind = 1 ∧ t.bfm.evtHandle = h)) ∧
      (∀ o, Tab.find x.held b = some o → o ≠ i → (Tab.get 0 x.reuse b).toNat = bits h 7 0 →
        ∃ t, exec (.free i p h) s = .next t ∧ t.bfm.pools = s.bfm.pools ∧ t.bfm.foreignFree = satInc s.bfm.foreignFree ∧
          (s.bfm.evtValid = false → t.bfm.evtKind = 2 ∧ t.bfm.evtHolder.toNat = o.val ∧ t.bfm.evtInst.toNat = i.val))) ∧
    (∀ h : Word, bits h 31 28 ≠ p.val ∨ x.count.toNat ≤ bits h 27 8 ∨ x.enable = false ∨ x.broken = true →
      ∃ t, exec (.free i p h) s = .next t ∧ t.bfm.pools = s.bfm.pools ∧ t.bfm.badHandle = satInc s.bfm.badHandle ∧
        (s.bfm.evtValid = false → t.bfm.evtKind = 3 ∧ t.bfm.evtHandle = h)) ∧
    (∀ v : Word, bit v 31 = true → x.enable = false →
      exec (.poolEnable p v) s = .next (modPool p (fun x =>
        { x with sizeLog2 := v.extractLsb' 24 5, count := v.extractLsb' 0 20, enable := true
                 free := (List.range (v.toNat % 2 ^ 20)).filter fun b => (Tab.find x.held b).isNone }) s)) ∧
    (∃ t, exec (.bfmLkuParityError (.pool p)) s = .next t ∧ t.lku = s.lku ∧
      t.bfm.pools = (modPool p (fun x => { x with broken := true }) s).bfm.pools) ∧
    (∀ b : Fin 64, ∃ t, exec (.bfmLkuParityError (.bank b)) s = .next t ∧ t.bfm.pools = s.bfm.pools ∧
      t.lku = { s.lku with broken := s.lku.broken ||| (1#64 <<< b.val) })

/-! ### Messages, barriers, time and programs -/

/-- SEND within the partition copies the message into the send buffer and counts it; without room in the buffer the core waits.
SEND to another node registers one SEND request, or for the address 0xFFFF of the barrier unit one BAR_ARRIVE, whose entry
waits for its SACK. Either is the last effect of the core's program. A length that is not a multiple of 8 from 8 to 512 or a
source outside data memory raises MSG_RANGE, and so does an index past the cores of the partition. The copy is stated while no other queue
works on data memory (R44, R160, R164, R205, R464 to R468). -/
def Obligations.SendMessage : Prop :=
  ∀ (c : CoreId) (w : RFmt) (s : State) (n : Fin 64) (b : Fin 8), Executes c w.g s → NotLast c s → NiFree c 1 s → w.d = 0 →
    NotPending s.cores[c.val] [w.a, w.b, w.c] [] [] → partOf c s = some n →
    let k0 := s.cores[c.val]
    let a := sreg k0 w.a
    let src := (sreg k0 w.b).toNat
    let len := (sreg k0 w.c).toNat
    let good := 8 ≤ len ∧ len ≤ 512 ∧ len % 8 = 0 ∧ Storable src len
    let sent (k : Core) : Core := { k.issued with msgSent := if k.ctrFreeze then k.msgSent else k.msgSent + 1 }
    (w.x.toNat = b.val → a.toNat < partSize s.parts[n.val] → good → CleanLines k0 src len → NoRace (some .ni) k0 →
      ((k0.sendBuf.map fun m => m.data.length).sum + len ≤ 2048 →
        exec (.send c w) s = .next (modCore c (fun k =>
          { (sent k).noted (stampNow s) with sendBuf := k.sendBuf ++ [⟨coreAt s.parts[n.val] a.toNat, b, Memory.read 0 k.mem src len, k.gen, .new⟩] }) s)) ∧
      (2048 < (k0.sendBuf.map fun m => m.data.length).sum + len → exec (.send c w) s = .next s)) ∧
    ((w.x.toNat = b.val ∨ w.x.toNat = b.val + 8) → (¬ good ∨ (w.x.toNat = b.val ∧ partSize s.parts[n.val] ≤ a.toNat)) →
      ∃ t, exec (.send c w) s = .next t ∧ Faulted c 6 false 0 s t) ∧
    (∀ dom, w.x.toNat = b.val + 8 → good → CleanLines k0 src len → NoRace (some .ni) k0 →
      RouteOpen c (a.extractLsb' 16 16) dom s →
      ∃ t m, exec (.send c w) s = .next t ∧ t.fab.nextReq = s.fab.nextReq + 1 ∧
        t.fab.reqs = [{ id := s.fab.nextReq, owner := .core c .ni, msg := m }] ∧ m.arg.toNat = b.val ∧
        m.type = (if bits a 15 0 = 0xFFFF then 0x07 else 0x06) ∧
        m.addr = (if bits a 15 0 = 0xFFFF then 0 else BitVec.ofNat 64 (bits a 15 0)) ∧ m.dst = a.extractLsb' 16 16 ∧ m.domain = dom ∧
        m.payload = Memory.read 0 k0.mem src len ∧
        t.cores = (modCore c (fun k => (sent (k.addNi { parts := [(s.fab.nextReq, none)] })).noted (stampNow s)) s).cores)

/-- The journeys of a message, shown on the oldest of a send buffer. A reservation is granted by an open mailbox of a running
core that has room, waits at the tail while the mailbox is closed, is granted with all that wait where the core is not
RUNNING, and is answered with RETRY when 32 wait; after the timer it is made again; a grant is taken up; the data then leaves
the send buffer and joins the mailbox whole, or is discarded and counted where its generation is old or its core is not
RUNNING; a pointer mismatch empties the mailbox, is counted, and raises MBX_PTR. The data's arrival is stated where no message
of another node waits and neither core stalls (R165, R166, R170, R171, R185). -/
def Obligations.MessageJourney : Prop :=
  ∀ (c : CoreId) (s : State) (m : OutMsg) (rest : List OutMsg), live s = true → s.cores[c.val].sendBuf = m :: rest →
    let box := s.cores[m.dest.val].mbox[m.mbox.val]
    let words := (m.data.length + 63) / 64
    (m.step = .new → s.cores[m.dest.val].st = .running → box.waiting = [] → box.closed = false → mboxFill box < box.hw.toNat →
      mboxFill box + words ≤ 64 →
      ∃ t, exec (.mbxReservation c) s = .next t ∧ t.cores[c.val].sendBuf = { m with step := .reserved } :: rest ∧
        (t.cores[m.dest.val].mbox[m.mbox.val]).granted = box.granted ++ [⟨some c, words⟩] ∧
        (t.cores[m.dest.val].mbox[m.mbox.val]).waiting = [] ∧ (t.cores[m.dest.val].mbox[m.mbox.val]).msgs = box.msgs) ∧
    (m.step = .new → s.cores[m.dest.val].st = .running → box.waiting.length < 32 → box.closed = true →
      box.lw.toNat < mboxFill box →
      ∃ t, exec (.mbxReservation c) s = .next t ∧ t.cores[c.val].sendBuf = { m with step := .reserved } :: rest ∧
        (t.cores[m.dest.val].mbox[m.mbox.val]).granted = box.granted ∧
        (t.cores[m.dest.val].mbox[m.mbox.val]).waiting = box.waiting ++ [⟨some c, words⟩]) ∧
    (m.step = .new → s.cores[m.dest.val].st ≠ .running → box.waiting.length < 32 →
      ∃ t, exec (.mbxReservation c) s = .next t ∧ t.cores[c.val].sendBuf = { m with step := .reserved } :: rest ∧
        (t.cores[m.dest.val].mbox[m.mbox.val]).granted = box.granted ++ box.waiting ++ [⟨some c, words⟩] ∧
        (t.cores[m.dest.val].mbox[m.mbox.val]).waiting = []) ∧
    (m.step = .new → 32 ≤ box.waiting.length →
      exec (.mbxReservation c) s = .next (modCore c (fun k => { k with sendBuf := { m with step := .retry } :: rest }) s)) ∧
    (m.step = .retry →
      exec (.mbxRetryTimer c) s = .next (modCore c (fun k => { k with sendBuf := { m with step := .new } :: rest }) s)) ∧
    (m.step = .reserved → grantedTo c m.dest m.mbox s < grantsTo c m.dest m.mbox s →
      exec (.mbxGrant c) s = .next (modCore c (fun k => { k with sendBuf := { m with step := .granted } :: rest }) s)) ∧
    (m.step = .granted → s.fab.ingress = [] → s.cores[m.dest.val].stall = .none → s.cores[c.val].stall = .none →
      (s.cores[m.dest.val].st = .running → s.inst[(coreInst m.dest s).val].gen = m.gen →
        ∃ t, exec (.mbxData c false) s = .next t ∧ t.cores[c.val].sendBuf = rest ∧
          (t.cores[m.dest.val].mbox[m.mbox.val]).msgs = box.msgs ++ [⟨BitVec.ofNat 16 (senderIndex c s), m.data⟩]) ∧
      ((s.cores[m.dest.val].st ≠ .running ∨ s.inst[(coreInst m.dest s).val].gen ≠ m.gen) →
        ∃ t, exec (.mbxData c false) s = .next t ∧ t.cores[c.val].sendBuf = rest ∧
          (t.cores[m.dest.val].mbox[m.mbox.val]).msgs = box.msgs ∧
          (s.cores[m.dest.val].ctrFreeze = false → t.cores[m.dest.val].msgDrop = s.cores[m.dest.val].msgDrop + 1)) ∧
      (s.cores[m.dest.val].st = .running →
        ∃ t, exec (.mbxData c true) s = .next t ∧ (t.cores[m.dest.val].mbox[m.mbox.val]).msgs = [] ∧
          (t.cores[m.dest.val].mbox[m.mbox.val]).ptrResets = satInc box.ptrResets ∧
          t.cores[m.dest.val].st = .faulted ∧ t.cores[m.dest.val].faultCause = 9))

/-- A write of a mailbox's watermarks with lw below hw takes effect at once: the mailbox is closed if its fill reaches hw, open
if it has fallen to lw, and as it was in between; what it has granted stands. Reservations that wait are then granted after
what stands while the mailbox of a running core is open, and it closes again if they fill it to hw. Other writes change
nothing. Stated where no message of another node waits for the mailbox (R179, R187). -/
def Obligations.MailboxWatermarks : Prop :=
  ∀ (c : CoreId) (m : Fin 8) (v : Word) (s : State), live s = true →
    let box := s.cores[c.val].mbox[m.val]
    (bits v 6 0 < bits v 22 16 → (∀ g ∈ s.fab.ingress, sendDest g s = some c → sendBox g ≠ m) →
      (box.waiting = [] → exec (.mbxCfgWrite c m v) s = .next (modMbox c m (fun x =>
        { x with
          hw := v.extractLsb' 16 7
          lw := v.extractLsb' 0 7
          closed := if bits v 22 16 ≤ mboxFill x then true else if mboxFill x ≤ bits v 6 0 then false else x.closed }) s)) ∧
      ∃ t, exec (.mbxCfgWrite c m v) s = .next t ∧
        let after := t.cores[c.val].mbox[m.val]
        after.hw.toNat = bits v 22 16 ∧ after.lw.toNat = bits v 6 0 ∧ box.granted <+: after.granted ∧ after.msgs = box.msgs ∧
          box.granted ++ box.waiting = after.granted ++ after.waiting ∧
          (s.cores[c.val].st = .running →
            (bits v 22 16 ≤ mboxFill after → after.closed = true) ∧ (mboxFill after ≤ bits v 6 0 → after.closed = false))) ∧
    (bits v 22 16 ≤ bits v 6 0 → exec (.mbxCfgWrite c m v) s = .next s)

/-- RECV and RECVNB take the oldest whole message of a mailbox, or the oldest entry of a queue assigned to the partition, to
data memory, the last effect of the core's program: sd takes its length and sender, pd all ones. On an empty mailbox, or an
empty queue that is not sealed, RECV stalls with its pc unmoved and RECVNB gives sd 0 and pd 0; a sealed empty queue gives that
to both. A destination outside data memory raises LOCAL_RANGE and the message stays; a queue of another partition raises
BIN_RANGE. An error that is corrected as the message or entry is read counts on the die that holds it; one that is not raises
POISON and leaves it; pointers of a mailbox that differ empty it, are counted, and raise MBX_PTR. Stated while no queue works
on data memory and no message of another node waits (R44, R166, R168, R173, R174, R185, R211, R386, R387). That a pulled entry
counts in CORE_MSG_RCVD is the model's choice (log entry 58). -/
def Obligations.ReceiveMessage : Prop :=
  ∀ (c : CoreId) (w : RFmt) (s : State) (p : BitVec 3) (met : Option BoxErr) (x : Instr), Executes c w.g s → NotLast c s →
    w.b = 0 → w.c = 0 → NotPending s.cores[c.val] [w.d, w.a] [] [p] → w.x.extractLsb' 0 3 = p → s.fab.ingress = [] →
    CleanCore s.cores[c.val] → NoRace none s.cores[c.val] → (x = .recv c ⟨w, met⟩ ∨ x = .recvnb c ⟨w, met⟩) →
    let k0 := s.cores[c.val]
    let dest := (sreg k0 w.a).toNat
    let found (d : Fin 4) : State :=
      if met = some .corrected then modDie d (fun y => { y with sramCe := satInc y.sramCe }) s else s
    let took (k : Core) (data : List Byte) (sender : Nat) : Core :=
      { (((k.putS w.d (BitVec.ofNat 64 (data.length + 65536 * sender))).putP p 0xFFFF).issued).noted (stampNow s) with
        mem := Memory.write 0 k.mem dest data, msgRcvd := if k.ctrFreeze then k.msgRcvd else k.msgRcvd + 1 }
    let none_ (k : Core) : Core := ((k.putS w.d 0).putP p 0).issued
    (∀ m : Fin 8, w.x.toNat = 16 * m.val + p.toNat →
      let served (t : State) (f : Core → Core) (k : Core) : Core :=
        { f k with mbox := upd k.mbox m fun _ => t.cores[c.val].mbox[m.val] }
      (met = some .pointers → ∃ t, exec x s = .next t ∧ (t.cores[c.val].mbox[m.val]).msgs = [] ∧
        (t.cores[c.val].mbox[m.val]).ptrResets = satInc (k0.mbox[m.val]).ptrResets ∧ Faulted c 9 false 0 s t) ∧
      (∀ g rest, (k0.mbox[m.val]).msgs = g :: rest →
        (met = none ∨ met = some .corrected →
          (Storable dest g.data.length → ∃ t, exec x s = .next t ∧ (t.cores[c.val].mbox[m.val]).msgs = rest ∧
            t = modCore c (served t fun k => took k g.data g.sender.toNat) (found (coreDie c))) ∧
          (¬ Storable dest g.data.length → ∃ t, exec x s = .next t ∧ (t.cores[c.val].mbox[m.val]).msgs = g :: rest ∧
            Faulted c 2 false (BitVec.ofNat 64 dest) s t)) ∧
        (met = some .uncorrectable → ∃ t, exec x s = .next t ∧ (t.cores[c.val].mbox[m.val]).msgs = g :: rest ∧
          Faulted c 5 false 0 s t)) ∧
      ((k0.mbox[m.val]).msgs = [] → met ≠ some .pointers →
        (x = .recvnb c ⟨w, met⟩ → ∃ t, exec x s = .next t ∧ t = modCore c (served t none_) s) ∧
        (x = .recv c ⟨w, met⟩ → ∃ t, exec x s = .next t ∧
          t = modCore c (served t fun k => { k with stall := .recv w }) s))) ∧
    (∀ (d : Fin 4) (q : Fin 32), w.x.toNat = 512 * q.val + 128 * d.val + 8 + p.toNat →
      (queueAssigned c d q s = false → ∃ t, exec x s = .next t ∧ Faulted c 7 false 0 s t) ∧
      (queueAssigned c d q s = true →
        (∀ e rest, s.dies[d.val].queues[q.val] = e :: rest →
          (met ≠ some .uncorrectable → Storable dest e.length →
            exec x s = .next (modCore c (fun k => took k e 0xFFFF)
              (modDie d (fun y => { y with queues := upd y.queues q fun _ => rest }) (found d)))) ∧
          (met ≠ some .uncorrectable → ¬ Storable dest e.length → ∃ t, exec x s = .next t ∧
            t.dies[d.val].queues[q.val] = e :: rest ∧ Faulted c 2 false (BitVec.ofNat 64 dest) s t) ∧
          (met = some .uncorrectable → ∃ t, exec x s = .next t ∧ t.dies[d.val].queues[q.val] = e :: rest ∧
            Faulted c 5 false 0 s t)) ∧
        (s.dies[d.val].queues[q.val] = [] → queueSealed d q s = true → exec x s = .next (modCore c none_ s)) ∧
        (s.dies[d.val].queues[q.val] = [] → queueSealed d q s = false →
          (x = .recvnb c ⟨w, met⟩ → exec x s = .next (modCore c none_ s)) ∧
          (x = .recv c ⟨w, met⟩ → exec x s = .next (modCore c (fun k => { k with stall := .recv w })
            (modDie d (fun y => { y with pulls := y.pulls ++ [(q, c)] }) s))))))

/-- GETT, WAITT, TCHK, the SYNC NOP, FENCE and BAR. GETT reads the time, and whether Ephemeris is LOCKED; WAITT goes on with pd
all ones when its time has come and otherwise stalls with pd 0 until WAITT_WAKE; TCHK tells whether a time has not passed;
FENCE goes on when the queues it names are empty and stalls otherwise, and first closes a coalescing WRITE, which leaves for
its node. BAR stalls while a core of the partition still runs and has not arrived; the last to arrive goes on, and with it
every core that waits there, each after its BAR (a core that issues counts as arrived nowhere). Nothing else changes
(R42, R44, R47, R48, R172, R205, R210, R466). -/
def Obligations.TimeAndOrder : Prop :=
  ∀ (c : CoreId) (w : RFmt) (s : State) (p : BitVec 3), Executes c w.g s → NotLast c s → w.b = 0 → w.c = 0 →
    NotPending s.cores[c.val] [w.d, w.a] [] [p] →
    let k0 := s.cores[c.val]
    let due := (rtsNorm (sreg k0 w.a)).toNat ≤ s.eph.now.toNat
    (w.a = 0 → w.x = p.setWidth 29 → exec (.gett c w) s = .next (modCore c (fun k =>
      ((k.putS w.d s.eph.now).putP p (if s.eph.st = .locked then 0xFFFF else 0)).issued) s)) ∧
    (w.d = 0 → w.x = p.setWidth 29 →
      (due → exec (.waitt c w) s = .next (modCore c (fun k => (k.putP p 0xFFFF).issued) s)) ∧
      (¬ due → exec (.waitt c w) s =
        .next (modCore c (fun k => { k.putP p 0 with stall := .waitt (rtsNorm (sreg k w.a)) }) s)) ∧
      (LeaseOpen (sreg k0 w.a) s.eph.now →
        exec (.tchk c w) s = .next (modCore c (fun k => (k.putP p 0xFFFF).issued) s)) ∧
      (¬ LeaseOpen (sreg k0 w.a) s.eph.now →
        exec (.tchk c w) s = .next (modCore c (fun k => (k.putP p 0).issued) s))) ∧
    (w.d = 0 → w.a = 0 → w.x = 0 → exec (.syncNop c w) s = .next (modCore c Core.issued s)) ∧
    (w.d = 0 → w.a = 0 → w.x.toNat < 32 →
      let goesOn (k : Core) : Core :=
        if queuesDone (w.x.setWidth 5) { k0 with coalesce := none } then k.issued
        else { k with stall := .fence (w.x.setWidth 5) }
      (k0.coalesce = none → exec (.syncFence c w) s = .next (modCore c goesOn s)) ∧
      (∀ g dom, k0.coalesce = some g → RouteOpen c g.node dom s →
        ∃ t m, exec (.syncFence c w) s = .next t ∧
          t.fab.reqs = [{ id := g.req, owner := .core c .ni, msg := m }] ∧ m.type = 0x01 ∧ m.dst = g.node ∧
          m.domain = dom ∧ m.addr = BitVec.ofNat 64 g.addr ∧ m.payload = g.data ∧ t.mem = s.mem ∧
          t.cores = (modCore c (fun k => goesOn ({ k with coalesce := none }.noted (stampNow s))) s).cores)) ∧
    (∀ (b : Fin 4) (n : Fin 64), w.d = 0 → w.a = 0 → w.x = BitVec.ofNat 29 b.val → partOf c s = some n → k0.arrived = 0 →
      ((∃ k ∈ coresOf n s, k ≠ c ∧ atBarrier b s.cores[k.val] = false) →
        exec (.bar c w) s = .next (modCore c (fun k => { k with stall := .bar b, arrived := 1#4 <<< b.val }) s)) ∧
      ((∀ k ∈ coresOf n s, k = c ∨ atBarrier b s.cores[k.val] = true) →
        (∀ k ∈ coresOf n s, s.cores[k.val].stall = .bar b → NotLast k s) →
        exec (.bar c w) s = .next { s with cores := Vector.ofFn fun i : Fin 576 =>
          let k := s.cores[i.val]
          if i = c ∨ (i ∈ coresOf n s ∧ k.stall = .bar b) then
            { k.issued with stall := .none, arrived := k.arrived &&& ~~~(1#4 <<< b.val) }
          else k }))

/-- A LAUNCH that its dispatcher starts, on a free partition of its instance whose cores are in service, with image and
arguments that can be read: every core of the partition is RUNNING at the entry with the registers of R160, the image from
local address 0 and the arguments from 0x2_0000, and the partition's program is this LAUNCH; a core outside the partition
stays as it was. Where the partition is not valid, belongs to another instance, or has no image and the LAUNCH brings none, it
ends INVALID, names no faulting core, and no core changes (R89, R117, R158 to R161). -/
def Obligations.LaunchStarts : Prop :=
  ∀ (d : Nat) (x : Item) (s : State), live s = true → StartsNext d 1 0 (launchFree s) x s → d = x.id →
    dfield x.raw 52 1 < 64 →
    let n : Fin 64 := Fin.ofNat 64 (dfield x.raw 52 1)
    let p := s.parts[n.val]
    p.item = none → (∀ k ∈ coresOf n s, unitClosed (unitCore k) s = false) →
    (∀ (img args : List Byte), p.valid = true → p.owner = x.inst → s.inst[x.inst.val].gen = x.gen →
      (∀ k : CoreId, Memory.wf 0 s.cores[k.val].mem = true) → dfield x.raw 32 4 ≤ 131072 → dfield x.raw 48 4 ≤ 65536 →
      (dfield x.raw 32 4 ≠ 0 ∨ p.imageValid = true) → ReadsAs x.inst (dfield x.raw 24 8) (dfield x.raw 32 4) s img →
      ReadsAs x.inst (dfield x.raw 40 8) (dfield x.raw 48 4) s args →
      ∃ t, exec (.launch d) s = .next t ∧ t.parts[n.val].item = some d ∧ t.parts[n.val].firstFault = none ∧
        t.parts[n.val].imageValid = true ∧ (∀ y, findItem d t = some y → y.stage = .running) ∧
        (∀ k ∈ coresOf n s, t.cores[k.val].st = .running ∧ t.cores[k.val].pc.toNat = dfield x.raw 36 4 % 131072 ∧
          EntryRegs n p x k t.cores[k.val].s ∧ t.cores[k.val].v = Vector.replicate 32 0 ∧
          t.cores[k.val].p = Vector.replicate 8 0 ∧ t.cores[k.val].gen = x.gen ∧
          (∀ j, (h : j < img.length) → t.localByte k j = img[j]) ∧
          (∀ j, (h : j < args.length) → t.localByte k (0x20000 + j) = args[j]) ∧
          ∀ b, (img.length ≤ b ∧ b < 0x20000) ∨ 0x20000 + args.length ≤ b → t.localByte k b = s.localByte k b) ∧
        ∀ k : CoreId, k ∉ coresOf n s → t.cores[k.val] = s.cores[k.val]) ∧
    (Fresh x s → (p.valid = false ∨ p.owner ≠ x.inst ∨ (dfield x.raw 32 4 = 0 ∧ p.imageValid = false)) →
      ∃ t, exec (.launch d) s = .next t ∧ t.cores = s.cores ∧
        Completes d 0x10 (BitVec.ofNat 64 (0xFFFF * 2 ^ 32)) s t)

/-- How a program ends. EXIT closes a coalescing WRITE, waits until the core's queues and send buffer are empty, and then the
core is EXITED with the exit word. Where it was the only core, holds no lock, met nothing and did its last in time, the LAUNCH
completes OK with that word and 0xFFFF. An exception makes a running core FAULTED with its cause, pc and address, and the
first in a partition is remembered (stated where no core waits at a barrier, which the exception might complete); the stop of
the partition then makes every RUNNING core STOPPED with empty queues, and the LAUNCH completes CORE_FAULT, or FABRIC_UNREACH
if the first was FABRIC, with the number of that core (R162, R163, R172, R184, R466). -/
def Obligations.ProgramEnds : Prop :=
  ∀ (s : State) (n : Fin 64), live s = true →
    (∀ (c : CoreId) (w : RFmt), Executes c w.g s → w.d = 0 → w.b = 0 → w.c = 0 → w.x = 0 →
      NotPending s.cores[c.val] [w.a] [] [] →
      let word : Word := (sreg s.cores[c.val] w.a).setWidth 32
      (∀ g dom, s.cores[c.val].coalesce = some g → RouteOpen c g.node dom s → s.cores[c.val].ni ≠ [] →
        ∃ t m, exec (.exit c w) s = .next t ∧ t.fab.reqs = [{ id := g.req, owner := .core c .ni, msg := m }] ∧
          m.type = 0x01 ∧ m.dst = g.node ∧ m.domain = dom ∧ m.addr = BitVec.ofNat 64 g.addr ∧ m.payload = g.data ∧
          t.cores = (modCore c (fun k => { k.noted (stampNow s) with coalesce := none, stall := .exit word }) s).cores) ∧
      (queuesDone 0 s.cores[c.val] = true →
        ∃ t, exec (.exit c w) s = .next t ∧ t.cores[c.val].st = .exited ∧ t.cores[c.val].exitWord = word ∧
          t.cores[c.val].s = s.cores[c.val].s ∧ t.cores[c.val].mem = s.cores[c.val].mem ∧
          (∀ d x, coresOf n s = [c] → partOf c s = some n → coreAt s.parts[n.val] 0 = c → s.parts[n.val].item = some d →
            s.parts[n.val].firstFault = none → findItem d s = some x → x.stage = .running → Fresh x s →
            s.cores[c.val].everFlags = 0 → s.cores[c.val].orphan = false → s.cores[c.val].faultValid = false →
            (∀ m, s.cores[c.val].last = some m → passed x.deadline m.rts = false) →
            (∀ k : Fin 4096, s.lku.locks[k.val].st = .held → s.lku.locks[k.val].core ≠ c) →
            Completes d 0x00 (BitVec.ofNat 64 (word.toNat + 0xFFFF * 2 ^ 32)) s t)) ∧
      (s.cores[c.val].coalesce = none → queuesDone 0 s.cores[c.val] = false →
        exec (.exit c w) s = .next (modCore c (fun k => { k with stall := .exit word }) s))) ∧
    (∀ (c : CoreId) (cause : Cause) (glob : Bool) (a : Dword), s.cores[c.val].st = .running →
      ∃ t, exec (.coreException c cause glob a) s = .next t ∧ Faulted c (causeCode cause) glob a s t ∧
        (partOf c s = some n → s.parts[n.val].firstFault = none →
          (∀ k ∈ coresOf n s, ∀ b, s.cores[k.val].stall ≠ .bar b) → t.parts[n.val].firstFault = some c)) ∧
    (∀ (f : CoreId) (d : Nat) (x : Item), s.parts[n.val].firstFault = some f → s.parts[n.val].item = some d →
      findItem d s = some x → x.stage = .running → Fresh x s → s.cores[(coreAt s.parts[n.val] 0).val].st ≠ .exited →
      ∃ t, exec (.partitionStop n) s = .next t ∧ t.parts[n.val].item = none ∧
        (∀ k ∈ coresOf n s, t.cores[k.val].st = (if s.cores[k.val].st = .running then .stopped else s.cores[k.val].st) ∧
          t.cores[k.val].stall = .none ∧ t.cores[k.val].arr = [] ∧ t.cores[k.val].spx = [] ∧ t.cores[k.val].hac = [] ∧
          t.cores[k.val].ocu = [] ∧ t.cores[k.val].ni = []) ∧
        Completes d (if s.parts[n.val].fabricFirst then 0x21 else 0x14) (BitVec.ofNat 64 (f.val * 2 ^ 32)) s t)

/-- What brings results to a core that is not stalled. The completion of the entry at the head of a queue takes it out,
writes its registers, clears their pending marks, and changes nothing else; the bytes of the answers to a remote load, in
order, become its result, and those of a remote LADD a register pair. It is stated for an entry that waits for no lock and no
answer, has no sum to make and no row to post, and holds no context image. A WAITT goes on when its time has come; ctr_clear
clears the counters alone (R48, R187, R196, R213, R215, R288, R465). -/
def Obligations.ResultsArrive : Prop :=
  ∀ (c : CoreId) (s : State), live s = true →
    (∀ (q : QueueId) (e : QEntry) (rest : List QEntry), s.cores[c.val].stall = .none → queueOf s.cores[c.val] q = e :: rest →
      e.dead = false → e.lock = none → e.adds = [] → e.posts = 0 →
      let pop (k : Core) : Core :=
        match q with
        | .arr => { k with arr := rest }
        | .spx => { k with spx := rest }
        | .hac => { k with hac := rest }
        | .ocu => { k with ocu := rest }
        | .ni => { k with ni := rest }
      let gotS (r : BitVec 5) (v : Dword) (k : Core) : Core := { k.putS r v with pendS := k.pendS &&& ~~~(1#32 <<< r.toNat) }
      let gotV (r : BitVec 5) (v : BitVec 512) (k : Core) : Core := { k.putV r v with pendV := k.pendV &&& ~~~(1#32 <<< r.toNat) }
      let gotP (r : BitVec 3) (b : Bool) (k : Core) : Core :=
        { k.putP r (if b then 0xFFFF else 0) with pendP := k.pendP &&& ~~~(1#8 <<< r.toNat) }
      (e.parts = [] → e.answered = .none →
        (e.sres = [] → e.vres = none → e.pres = none → exec (.decoupledCompletion c q) s = .next (modCore c pop s)) ∧
        (∀ r v, e.sres = [(r, v)] → e.vres = none → e.pres = none →
          exec (.decoupledCompletion c q) s = .next (modCore c (fun k => gotS r v (pop k)) s)) ∧
        (∀ r v, e.sres = [] → e.vres = some (r, v) → e.pres = none →
          exec (.decoupledCompletion c q) s = .next (modCore c (fun k => gotV r v (pop k)) s)) ∧
        (∀ r v p b, e.sres = [(r, v)] → e.vres = none → e.pres = some (p, b) →
          exec (.decoupledCompletion c q) s = .next (modCore c (fun k => gotP p b (gotS r v (pop k))) s))) ∧
      (∀ bytes : List Byte, (∀ x ∈ e.parts, x.2.isSome = true) → bytes = e.parts.flatMap (fun x => x.2.getD []) → e.pres = none →
        (∀ r v, e.sres = [(r, v)] → e.vres = none → e.answered = .scalar false →
          exec (.decoupledCompletion c q) s = .next (modCore c (fun k => gotS r (BitVec.ofNat 64 (leNat bytes)) (pop k)) s)) ∧
        (∀ r v, e.sres = [(r, v)] → e.vres = none → e.answered = .scalar true →
          exec (.decoupledCompletion c q) s = .next (modCore c (fun k =>
            gotS r ((BitVec.ofNat (8 * bytes.length) (leNat bytes)).signExtend 64) (pop k)) s)) ∧
        (∀ r v r' v', e.sres = [(r, v), (r', v')] → e.vres = none → e.answered = .pair →
          exec (.decoupledCompletion c q) s = .next (modCore c (fun k =>
            gotS r' (BitVec.ofNat 64 (leNat ((bytes.drop 8).take 8)))
              (gotS r (BitVec.ofNat 64 (leNat (bytes.take 8))) (pop k))) s)) ∧
        (∀ r v, e.sres = [] → e.vres = some (r, v) → e.answered = .vector →
          exec (.decoupledCompletion c q) s = .next (modCore c (fun k => gotV r (BitVec.ofNat 512 (leNat bytes)) (pop k)) s)))) ∧
    (∀ t : Rts, s.cores[c.val].st = .running → s.cores[c.val].stall = .waitt t → t.toNat ≤ s.eph.now.toNat → NotLast c s →
      exec (.waittWake c) s = .next (modCore c (fun k => { k.issued with stall := .none }) s)) ∧
    exec (.ctrClear c) s = .next (modCore c (fun k =>
      { k with cnt := Vector.replicate 10 0, arrCnt := Vector.replicate 7 0, spxCnt := Vector.replicate 8 0
               msgSent := 0, msgRcvd := 0, msgDrop := 0 }) s)

/-! ### The array and the sparse units -/

/-- MMA of two INT8 tensors in local memory, without add, spill or ping-pong: entry (m, n) of the slot is the exact sum over
k of A[m, k]·B[n, k] on the grid of the slot's window, rows that a tensor lacks counting as 0 and columns out of service
reading 0, whatever the group size; the slot takes form L128; no ledger flag is set; nothing else changes outside the
counters of the core. Stated while no other queue works on data memory (R202, R211, R246 to R252, R267, R270, R275). -/
def Obligations.MatrixProduct : Prop :=
  ∀ (c : CoreId) (w : TFmt) (s : State) (g : Nat) (ta tb : Bool) (a b : Operand), Executes c w.g s → NotLast c s → w.e = 0 →
    int8Product w g ta tb 0 → NotPending s.cores[c.val] [w.a, w.b, w.c] [] [] → QueueRoom s.cores[c.val] .arr 1 →
    let k := s.cores[c.val]
    let K := (sreg k w.c).toNat
    let W := (k.slots[w.acc.toNat]'w.acc.isLt).wBase
    1 ≤ K → K ≤ 2 ^ 20 → a.k0 = !ta → b.k0 = !tb → LocalTensor k (sreg k w.a) a 0 K 16 → LocalTensor k (sreg k w.b) b 0 K 16 →
    CleanCore k → SlotsSettled k [w.acc.toNat / 2 * 2, w.acc.toNat / 2 * 2 + 1] true →
    k.cols ≠ 0 → k.cols.toNat ≤ 16 → -48 ≤ W → W ≤ 0 → Memory.wf 0 k.mem = true → NoRace (some .arr) k →
    ∃ t, exec (.mma c w none) s = .next t ∧ OnlyCore c s t ∧ t.cores[c.val].flags = k.flags ∧
      (t.cores[c.val].slots[w.acc.toNat]'w.acc.isLt).form = 0 ∧ (t.cores[c.val].slots[w.acc.toNat]'w.acc.isLt).wBase = W ∧
      (t.cores[c.val].slots[w.acc.toNat]'w.acc.isLt).run.toNat = (K + 15) / 16 * (4 / 2 ^ g) ∧
      t.cores[c.val].arr.length = k.arr.length + 1 ∧
      (∀ m < 16, ∀ n < 16, slotWord t.cores[c.val] w.acc.toNat (16 * m + n) =
        productWord ((List.range K).map fun j => int8At k a m j * int8At k b n j).sum W (n < k.cols.toNat)) ∧
      ∀ x, x < 0x1C0000 + 4096 * w.acc.toNat ∨ 0x1C0000 + 4096 * w.acc.toNat + 4096 ≤ x → t.localByte c x = s.localByte c x

/-- MMAS of one INT8 k-tile with an INT8 tensor, without add, spill, ping-pong or mask, gives the exact sums of the stored
elements of its rows 16·q to 16·q + 15, whichever of the dense and the sparse path it takes. Stated while no other
queue works on data memory (R202, R211, R302 to R312). -/
def Obligations.SparseProduct : Prop :=
  ∀ (c : CoreId) (w : TFmt) (s : State) (g path q a0 : Nat) (tb : Bool) (tl : Tile)
    (fs : List Stored) (b : Operand), Executes c w.g s → NotLast c s →
    int8Product w g false tb path → NotPending s.cores[c.val] [w.a, w.b, w.c, w.e] [] [] → QueueRoom s.cores[c.val] .arr 1 →
    let k := s.cores[c.val]
    let K := (sreg k w.c).toNat
    let W := (k.slots[w.acc.toNat]'w.acc.isLt).wBase
    let el (r j : Nat) : Int :=
      match fs.find? fun e => e.1 = r && e.2.1 = j with
      | some e => (BitVec.ofNat 8 e.2.2).toInt
      | none => 0
    1 ≤ K → K ≤ 64 → sreg k w.e = 0 → (sreg k w.a).toNat = a0 + q → q < 4 → a0 % 64 = 0 → a0 < 2 ^ 21 →
    LocalTile k a0 tl fs → tl.fmt = 0 → tl.mask = false → tl.trans = false → b.k0 = !tb → LocalTensor k (sreg k w.b) b 0 K 16 →
    CleanCore k → SlotsSettled k [w.acc.toNat / 2 * 2, w.acc.toNat / 2 * 2 + 1] true →
    k.cols ≠ 0 → k.cols.toNat ≤ 16 → -48 ≤ W → W ≤ 0 → Memory.wf 0 k.mem = true → NoRace (some .arr) k →
    ∃ t, exec (.mmas c ⟨w, none⟩) s = .next t ∧ OnlyCore c s t ∧ t.cores[c.val].flags = k.flags ∧
      (∀ m < 16, ∀ n < 16, slotWord t.cores[c.val] w.acc.toNat (16 * m + n) =
        productWord ((List.range K).map fun j => el (16 * q + m) j * int8At k b n j).sum W (n < k.cols.toNat)) ∧
      ∀ x, x < 0x1C0000 + 4096 * w.acc.toNat ∨ 0x1C0000 + 4096 * w.acc.toNat + 4096 ≤ x → t.localByte c x = s.localByte c x

/-- What works on one slot. MCFG gives it a window from −512 to 511, form L128, run 0 and zeros. DRAIN to L128, and to INT32
on a grid that is not finer than 1, writes the entries of a slot of form L128 to a 16 by 16 tensor, saturating. REDMAX and
REDMIN over the whole slot write the winner among the columns in service and its index, ties to the lowest. Without the clear
bit DRAIN, REDMAX and REDMIN leave the slot as it was. Stated while no other queue works on data memory (R202, R211, R273, R274, R283 to R285). -/
def Obligations.SlotInstructions : Prop :=
  ∀ (c : CoreId) (w : TFmt) (s : State), Executes c w.g s → NotLast c s → w.c = 0 → w.e = 0 →
    NotPending s.cores[c.val] [w.a, w.b] [] [] → QueueRoom s.cores[c.val] .arr 1 → Memory.wf 0 s.cores[c.val].mem = true →
    CleanCore s.cores[c.val] → SlotsSettled s.cores[c.val] [w.acc.toNat / 2 * 2, w.acc.toNat / 2 * 2 + 1] true →
    NoRace (some .arr) s.cores[c.val] →
    let k := s.cores[c.val]
    let base := 0x1C0000 + 4096 * w.acc.toNat
    let n := (readSlot k ⟨w.acc.toNat, w.acc.isLt⟩).val
    let W : Int := ((sreg k w.a).setWidth 16).toInt
    (w.b = 0 → w.x = 0 → k.cols ≠ 0 → -512 ≤ W → W ≤ 511 →
      ∃ t, exec (.mcfg c w) s = .next t ∧ OnlyCore c s t ∧ t.cores[c.val].flags = k.flags ∧ (t.cores[c.val].slots[w.acc.toNat]'w.acc.isLt).wBase = W ∧
        (t.cores[c.val].slots[w.acc.toNat]'w.acc.isLt).form = 0 ∧ (t.cores[c.val].slots[w.acc.toNat]'w.acc.isLt).run = 0 ∧
        (∀ x, base ≤ x → x < base + 4096 → t.localByte c x = 0) ∧
        ∀ x, x < base ∨ base + 4096 ≤ x → t.localByte c x = s.localByte c x) ∧
    ((k.slots[n]'(readSlot k ⟨w.acc.toNat, w.acc.isLt⟩).isLt).form = 0 →
      (∀ (tn : Tensor) (fmt : Nat), (sreg k w.a).toNat % 64 = 0 → Storable (sreg k w.a).toNat 128 →
        tensorJudge (Memory.read 0 k.mem (sreg k w.a).toNat 128) false true drainFmts true = .ok tn → tn.loc = true →
        tn.fmt = fmt → tn.dims = [(16, 1), (16, 16)] → w.x = BitVec.ofNat 23 (fmt * 2 ^ 19) →
        (fmt = 13 → sreg k w.b = 0 → Storable tn.base 4096 →
          ∃ t, exec (.drain c w) s = .next t ∧ OnlyCore c s t ∧ t.cores[c.val].flags = k.flags ∧ t.cores[c.val].slots = k.slots ∧
            (∀ i < 256, leNat (Memory.read 0 t.cores[c.val].mem (tn.base + 16 * i) 16) = (slotWord k n i).toNat) ∧
            ∀ x, x < tn.base ∨ tn.base + 4096 ≤ x → t.localByte c x = s.localByte c x) ∧
        (∀ e : Nat, fmt = 12 → (e : Int) = (k.slots[n]'(readSlot k ⟨w.acc.toNat, w.acc.isLt⟩).isLt).wBase + (sreg k w.b).toInt →
          -256 ≤ (sreg k w.b).toInt → (sreg k w.b).toInt ≤ 255 → Storable tn.base 1024 →
          ∃ t, exec (.drain c w) s = .next t ∧ OnlyCore c s t ∧ t.cores[c.val].slots = k.slots ∧
            (∀ i < 256, BitVec.ofNat 32 (leNat (Memory.read 0 t.cores[c.val].mem (tn.base + 4 * i) 4)) =
              (if slotWord k n i = 1#128 <<< 127 then 0x80000000
               else BitVec.ofInt 32 (max (-2 ^ 31) (min (2 ^ 31 - 1) ((slotWord k n i).toInt * 2 ^ e))))) ∧
            ∀ x, x < tn.base ∨ tn.base + 1024 ≤ x → t.localByte c x = s.localByte c x)) ∧
      (w.b = 0 → w.x = 0 → (sreg k w.a).toNat % 32 = 0 → Storable (sreg k w.a).toNat 32 → k.cols ≠ 0 → k.cols.toNat ≤ 16 →
        (∀ i < 256, slotWord k n i ≠ 1#128 <<< 127) →
        ∀ isMax : Bool, ∃ t i, exec (if isMax then .redmax c w else .redmin c w) s = .next t ∧ OnlyCore c s t ∧ i < 256 ∧ i % 16 < k.cols.toNat ∧
          t.cores[c.val].slots = k.slots ∧ t.cores[c.val].flags = k.flags ∧
          Memory.read 0 t.cores[c.val].mem (sreg k w.a).toNat 32 =
            leBytes 16 (slotWord k n i).toNat ++ leBytes 4 i ++ List.replicate 12 0 ∧
          (∀ j < 256, j % 16 < k.cols.toNat →
            (if isMax then (slotWord k n j).toInt ≤ (slotWord k n i).toInt else (slotWord k n i).toInt ≤ (slotWord k n j).toInt) ∧
            ((slotWord k n j).toInt = (slotWord k n i).toInt → i ≤ j)) ∧
          ∀ x, x < (sreg k w.a).toNat ∨ (sreg k w.a).toNat + 32 ≤ x → t.localByte c x = s.localByte c x))

/-- Context images in local memory. CTXSV writes the image of the slots it names and changes nothing else of memory; CTXLD of
an image that CTXSV wrote for slots of form L128 gives their data and state back, and leaves the other slots' data as it was.
Stated while no other queue works on data memory (R203, R211, R286, R287). -/
def Obligations.ContextImages : Prop :=
  ∀ (c : CoreId) (w : MFmt) (s : State) (f n : Nat), Executes c w.g s → NotLast c s → w.sp = 0 → w.n = 0 →
    NotPending s.cores[c.val] [w.t, w.a] [] [] → QueueRoom s.cores[c.val] .arr 1 → Memory.wf 0 s.cores[c.val].mem = true →
    CleanCore s.cores[c.val] → SlotsSettled s.cores[c.val] ((List.range n).map (f + ·)) false → NoRace (some .arr) s.cores[c.val] →
    w.x = BitVec.ofNat 8 f → f < 64 → 1 ≤ n → f + n ≤ 64 → (sreg s.cores[c.val] w.t).toNat = n →
    let k := s.cores[c.val]
    let a := (address c w s).toNat
    a % 64 = 0 → Storable a (1088 + 4096 * n) →
    (∃ t, exec (.ctxsv c w) s = .next t ∧ OnlyCore c s t ∧ Memory.read 0 t.cores[c.val].mem a (1088 + 4096 * n) = imageBytes k f n false ∧
      t.cores[c.val].slots = k.slots ∧
      ∀ x, x < a ∨ a + (1088 + 4096 * n) ≤ x → t.localByte c x = s.localByte c x) ∧
    (∀ k' : Core, Memory.read 0 k.mem a (1088 + 4096 * n) = imageBytes k' f n false →
      (∀ j : Fin 64, f ≤ j.val → j.val < f + n →
        (k'.slots[j.val]).form = 0 ∧ -512 ≤ (k'.slots[j.val]).wBase ∧ (k'.slots[j.val]).wBase ≤ 511) →
      ∃ t, exec (.ctxld c w) s = .next t ∧ OnlyCore c s t ∧ t.cores[c.val].flags = k.flags ∧
        (∀ j : Fin 64, f ≤ j.val → j.val < f + n → t.cores[c.val].slots[j.val] = k'.slots[j.val] ∧
          ∀ i < 256, slotWord t.cores[c.val] j.val i = slotWord k' j.val i) ∧
        ∀ x, x < 0x1C0000 + 4096 * f ∨ 0x1C0000 + 4096 * (f + n) ≤ x → t.localByte c x = s.localByte c x)

/-- The intersection and hash units. ISECT of two rising streams in local memory counts their common indices. HACC adds the 16
lanes of INT32 values into an empty HACC: each key has one sum at W = −48 and a count. HFLUSH of up to all keys writes their
records by rising key, answers how many, and removes them; HCLR empties the HACC and the spill ring. Stated while no
other queue works on data memory and no ISECT has an update of the HACC to make (R204, R211, R316 to R319, R336). -/
def Obligations.HashAndIntersect : Prop :=
  ∀ (c : CoreId) (w : RFmt) (s : State), Executes c w.g s → NotLast c s →
    NotPending s.cores[c.val] [w.a, w.b, w.c, w.d] [w.a, w.b] [] → QueueRoom s.cores[c.val] .spx 1 →
    QueueRoom s.cores[c.val] .hac 1 → CleanCore s.cores[c.val] → (∀ e ∈ s.cores[c.val].spx, e.adds = []) →
    let k := s.cores[c.val]
    let a := (sreg k w.a).toNat
    let b := (sreg k w.b).toNat
    (∀ (iw na nb : Nat) (wide : Bool), w.x = BitVec.ofNat 29 (b2n wide * 2 ^ 27 + 2 * 2 ^ 25) → iw = (if wide then 4 else 2) →
      na = bits (sreg k w.c) 31 0 → nb = bits (sreg k w.c) 63 32 → 1 ≤ na → 1 ≤ nb → Storable a (iw * na) → Storable b (iw * nb) →
      let xs := (List.range na).map fun i => leNat (Memory.read 0 k.mem (a + iw * i) iw)
      let ys := (List.range nb).map fun i => leNat (Memory.read 0 k.mem (b + iw * i) iw)
      xs.Pairwise (· < ·) → ys.Pairwise (· < ·) → NoRace (some .spx) k →
      ∃ t, exec (.isect c w) s = .next t ∧ OnlyCore c s t ∧ t.cores[c.val].mem = k.mem ∧ t.cores[c.val].hacc = k.hacc ∧
        t.cores[c.val].spx = k.spx ++
          [{ sres := [(w.d, BitVec.ofNat 64 (xs.filter fun x => ys.contains x).length)],
             read := [(a, iw * na), (b, iw * nb)], pc := k.pc }]) ∧
    (w.d = 0 → w.c = 0 → w.x = 0 → k.hacc = [] →
      let key (i : Nat) : Word := (vreg k w.a).extractLsb' (32 * i) 32
      let val (i : Nat) : Int := ((vreg k w.b).extractLsb' (32 * i) 32).toInt
      ∃ t, exec (.hacc c w) s = .next t ∧ OnlyCore c s t ∧ t.cores[c.val].mem = k.mem ∧ t.cores[c.val].spillCount = k.spillCount ∧
        (∀ e ∈ t.cores[c.val].hacc, ∃ i < 16, e.key = key i) ∧
        ∀ i < 16, ∃ e ∈ t.cores[c.val].hacc, e.key = key i ∧
          e.value = BitVec.ofInt 128 ((((List.range 16).filter fun j => key j = key i).map val).sum * 2 ^ 48) ∧
          e.count.toNat = ((List.range 16).filter fun j => key j = key i).length) ∧
    (w.d = 0 → w.a = 0 → w.b = 0 → w.c = 0 → w.x = 0 →
      exec (.hclr c w) s = .next (modCore c (fun k =>
        Core.issued { k with hac := k.hac ++ [{ hash := true, clears := true, pc := k.pc }], hacc := [], spillCount := 0 }) s)) ∧
    (w.c = 0 → w.x = 0 → k.spillCount = 0 → (k.hacc.map HaccEntry.key).Nodup → k.hacc.length ≤ b → a % 32 = 0 → k.hacc ≠ [] →
      Storable a (32 * k.hacc.length) → Memory.wf 0 k.mem = true → NoRace (some .hac) k →
      ∃ (t : State) (l : List HaccEntry), exec (.hflush c w) s = .next t ∧ OnlyCore c s t ∧ t.cores[c.val].hacc = [] ∧ l.Perm k.hacc ∧
        l.Pairwise (fun x y => x.key.toNat < y.key.toNat) ∧
        t.cores[c.val].hac = k.hac ++ [{ sres := [(w.d, BitVec.ofNat 64 l.length)], hash := true, clears := true,
                                         wrote := [(a, 32 * l.length)], pc := k.pc }] ∧
        ∀ i, (h : i < l.length) → Memory.read 0 t.cores[c.val].mem (a + 32 * i) 32 =
          leBytes 4 l[i].key.toNat ++ leBytes 4 l[i].count.toNat ++ List.replicate 8 0 ++ leBytes 16 l[i].value.toNat)

/-- The compression unit and the work bins. CMPR to a D tile of INT8 from slots with window base 0 writes each element,
saturated, at its place in the 64-byte record of its row, and a descriptor with nnz, rows and cols; its seal form counts a
seal of the bin set, the last of the partition sealing it. A post joins its queue and opens the set again; one of an old
generation is discarded and counted; where the queue has been full for timeout_us, UNIT with reason 9 is raised. CMPR is stated while no other queue works on data memory (R120, R204, R211, R304, R321, R322, R324, R326, R328, R330, R338, R340). -/
def Obligations.CompressAndBins : Prop :=
  ∀ (c : CoreId) (s : State),
    let k := s.cores[c.val]
    (∀ (w : TFmt) (cols : Nat), Executes c w.g s → NotLast c s → NotPending k [w.a, w.b, w.c, w.e] [] [] →
      QueueRoom k .ocu 1 → w.x = 0 → w.acc.toNat ≤ 48 → cols = (sreg k w.e).toNat → 1 ≤ cols → cols ≤ 64 →
      (sreg k w.c).toNat < 2 ^ 32 → CleanCore k → SlotsSettled k ((List.range 16).flatMap fun i =>
        let n := (w.acc.toNat + i) % 64
        [n / 2 * 2, n / 2 * 2 + 1]) false → Memory.wf 0 k.mem = true →
      (∀ n : Fin 64, (k.slots[n.val]).form = 0 ∧ (k.slots[n.val]).wBase = 0 ∧ (k.slots[n.val]).ppActive = false) →
      let body := (sreg k w.a).toNat
      let desc := (sreg k w.b).toNat
      let v (r x : Nat) : Int := (slotWord k (w.acc.toNat + 4 * (r / 16) + x / 16) (r % 16 * 16 + x % 16)).toInt
      body % 64 = 0 → Storable body 4096 → desc % 32 = 0 → Storable desc 32 → (desc + 32 ≤ body ∨ body + 4096 ≤ desc) →
      NoRace (some .ocu) k →
      ∃ t, exec (.cmpr c w) s = .next t ∧ OnlyCore c s t ∧ t.cores[c.val].slots = k.slots ∧
        (∀ r < 64, ∀ x < cols, v r x ≠ -2 ^ 127 → (t.localByte c (body + 64 * r + x)).toInt = clamp8 (v r x)) ∧
        (t.localByte c (desc + 18)).toNat = 64 ∧ (t.localByte c (desc + 19)).toNat = cols ∧
        leNat (Memory.read 0 t.cores[c.val].mem (desc + 8) 2) =
          ((List.range 64).map fun r => ((List.range cols).filter fun x => v r x ≠ 0).length).sum ∧
        leNat (Memory.read 0 t.cores[c.val].mem desc 6) = body) ∧
    (∀ (w : TFmt) (d b : Fin 4), Executes c w.g s → NotLast c s → NotPending k [w.a, w.b, w.c, w.e] [] [] →
      QueueRoom k .ocu 1 → w.x = BitVec.ofNat 23 (2 ^ 15) → sreg k w.e = 0 → w.acc.toNat ≤ 48 →
      s.inst[(coreInst c s).val].gen = k.gen → (∀ e ∈ k.ocu, e.posts = 0) →
      (sreg k w.c).toNat / 2 ^ 32 = b.val + 4 * d.val → k.posts = [] → s.dies[d.val].pulls = [] →
      let x := (s.dies[d.val]).sets[b.val]
      x.valid = true → partOf c s = some x.owner →
      ∃ t, exec (.cmpr c w) s = .next t ∧ t.cores[c.val].posts = [] ∧
        (t.dies[d.val]).sets[b.val] =
          (if partSize s.parts[x.owner.val] ≤ x.sealCount.toNat + 1 then { x with isSealed := true, sealCount := 0 }
           else { x with sealCount := BitVec.ofNat 10 (x.sealCount.toNat + 1) }) ∧
        t.dies[d.val].queues = s.dies[d.val].queues) ∧
    (∀ p : Post, live s = true → k.posts = [p] → s.dies[p.die.val].pulls = [] →
      ((s.dies[p.die.val].queues[p.queue.val]).length < 1024 → s.inst[(coreInst c s).val].gen = k.gen →
        ∃ t, exec (.wbPost c) s = .next t ∧ t.cores[c.val].posts = [] ∧
          t.dies[p.die.val].queues = upd s.dies[p.die.val].queues p.queue (fun l => l ++ [p.entry]) ∧
          (t.dies[p.die.val].sets[p.queue.val / 8]'(by omega)).isSealed = false) ∧
      ((s.dies[p.die.val].queues[p.queue.val]).length < 1024 → s.inst[(coreInst c s).val].gen ≠ k.gen →
        ∃ t, exec (.wbPost c) s = .next t ∧ t.cores[c.val].posts = [] ∧ t.dies = s.dies ∧
          t.mtu[(coreInst c s).val].suppressed = s.mtu[(coreInst c s).val].suppressed + 1) ∧
      (1024 ≤ (s.dies[p.die.val].queues[p.queue.val]).length → k.st = .running →
        ∃ t, exec (.wbPostTimeout c) s = .next t ∧ t.cores[c.val].posts = [] ∧ t.cores[c.val].st = .faulted ∧
          (∀ e, k.ocu.find? (fun e => e.posts != 0) = some e → t.cores[c.val].faultPc = e.pc) ∧ t.cores[c.val].faultCause = 10 ∧ t.cores[c.val].spxReason = 9 ∧ t.dies[p.die.val].wbTimeout = true ∧
          t.dies[p.die.val].queues = s.dies[p.die.val].queues))

/-! ### Rings, descriptors, interrupts -/

/-- Doorbells. A 4-byte write below the ring's size sets the tail of an ACTIVE SQ, or the head of an ACTIVE CQ where it
releases no more than stands written, and changes no more than that; another size, or a ring that is not ACTIVE, leaves every
ring as it was and sets db_size or db_disabled; a value out of range puts the ring into ERROR and sets db_range (R70, R71;
the held records that a CQ head write lets go are in CompletionRecords). -/
def Obligations.Doorbells : Prop :=
  ∀ (i : InstId) (q : Fin 16) (size : Nat) (v : Word) (s : State), live s = true →
    let r := s.inst[i.val].sq[q.val]
    let c := s.inst[i.val].cq[q.val]
    let released := (v.toNat + 2 ^ c.log2.toNat - c.head) % 2 ^ c.log2.toNat
    (size = 4 → r.st = .active → v.toNat < 2 ^ r.log2.toNat →
      exec (.sqTailDoorbell i q size v) s = .next (modSq i q (fun r => { r with tail := v.toNat }) s)) ∧
    (size ≠ 4 → ∃ t, exec (.sqTailDoorbell i q size v) s = .next t ∧ RingErrOnly i 4 false q s t) ∧
    (size = 4 → r.st ≠ .active → ∃ t, exec (.sqTailDoorbell i q size v) s = .next t ∧ RingErrOnly i 3 false q s t) ∧
    (size = 4 → r.st = .active → 2 ^ r.log2.toNat ≤ v.toNat →
      ∃ t, exec (.sqTailDoorbell i q size v) s = .next t ∧
        RingErrOnly i 2 false q (modSq i q (fun r => { r with st := .error }) s) t) ∧
    (size = 4 → c.st = .active → v.toNat < 2 ^ c.log2.toNat → released ≤ c.unreleased → c.held = [] → c.aborts = [] →
      exec (.cqHeadDoorbell i q size v) s =
        .next (modCq i q (fun c => { c with head := v.toNat, unreleased := c.unreleased - released }) s)) ∧
    (size ≠ 4 → ∃ t, exec (.cqHeadDoorbell i q size v) s = .next t ∧ RingErrOnly i 4 true q s t) ∧
    (size = 4 → c.st ≠ .active → ∃ t, exec (.cqHeadDoorbell i q size v) s = .next t ∧ RingErrOnly i 3 true q s t) ∧
    (size = 4 → c.st = .active → (2 ^ c.log2.toNat ≤ v.toNat ∨ c.unreleased < released) →
      ∃ t, exec (.cqHeadDoorbell i q size v) s = .next t ∧
        RingErrOnly i 2 true q (modCq i q (fun c => { c with st := .error }) s) t)

/-- Enabling and disabling rings of a READY instance. A DISABLED SQ takes its configuration, and with a size from 2^6 to
2^16 becomes ACTIVE in its next epoch with head and tail 0; a wrong size sets cfg_invalid. Outside DISABLED a write that
would change its configuration is ignored and sets cfg_invalid, and one that does not moves an ACTIVE or ERROR SQ to DRAINING,
from where it becomes DISABLED once it has no descriptor in flight. A CQ in DISABLED or ERROR becomes ACTIVE in its next epoch,
empty and with phase 1; it becomes DISABLED unless an SQ outside DISABLED names it (R74, R75, R80 to R82). -/
def Obligations.RingStates : Prop :=
  ∀ (i : InstId) (q : Fin 16) (v : Word) (s : State), live s = true →
    let r := s.inst[i.val].sq[q.val]
    let c := s.inst[i.val].cq[q.val]
    let same := r.cq.val = bits v 19 16 ∧ r.cls.toNat = bits v 13 12 ∧ r.log2.toNat = bits v 4 0
    let named := ∃ x : Fin 16, (s.inst[i.val].sq[x.val]).st ≠ .disabled ∧ (s.inst[i.val].sq[x.val]).cq = q
    (s.inst[i.val].st = .ready →
      (bit v 31 = true → r.st = .disabled → 6 ≤ bits v 4 0 → bits v 4 0 ≤ 16 →
        ∃ t, exec (.sqEnable i q v) s = .next t ∧ (t.inst[i.val].sq[q.val]).st = .active ∧
          (t.inst[i.val].sq[q.val]).epoch = r.epoch + 1 ∧ (t.inst[i.val].sq[q.val]).head = 0 ∧
          (t.inst[i.val].sq[q.val]).tail = 0 ∧ (t.inst[i.val].sq[q.val]).cq.val = bits v 19 16 ∧
          (t.inst[i.val].sq[q.val]).cls.toNat = bits v 13 12 ∧ (t.inst[i.val].sq[q.val]).log2.toNat = bits v 4 0 ∧
          (t.inst[i.val].sq[q.val]).base = r.base) ∧
      (bit v 31 = true → r.st = .disabled → (bits v 4 0 < 6 ∨ 16 < bits v 4 0) →
        ∃ t, exec (.sqEnable i q v) s = .next t ∧ (t.inst[i.val].sq[q.val]).st = .disabled ∧
          (t.inst[i.val].sq[q.val]).epoch = r.epoch ∧ bit t.inst[i.val].err.bits 5 = true) ∧
      (r.st ≠ .disabled → ¬ same →
        (bit v 31 = true → ∃ t, exec (.sqEnable i q v) s = .next t ∧ RingErrOnly i 5 false q s t) ∧
        (bit v 31 = false → ∃ t, exec (.sqDisable i q v) s = .next t ∧ RingErrOnly i 5 false q s t)) ∧
      (bit v 31 = false → (r.st = .active ∨ r.st = .error) → same →
        exec (.sqDisable i q v) s = .next (modSq i q (fun r => { r with st := .draining }) s)) ∧
      (bit v 31 = true → (c.st = .disabled ∨ c.st = .error) → 6 ≤ bits v 4 0 → bits v 4 0 ≤ 16 → c.held = [] → c.aborts = [] →
        ∃ t, exec (.cqEnable i q v) s = .next t ∧ (t.inst[i.val].cq[q.val]).st = .active ∧
          (t.inst[i.val].cq[q.val]).epoch = c.epoch + 1 ∧ (t.inst[i.val].cq[q.val]).head = 0 ∧
          (t.inst[i.val].cq[q.val]).tail = 0 ∧ (t.inst[i.val].cq[q.val]).unreleased = 0 ∧
          (t.inst[i.val].cq[q.val]).phase = true ∧ (t.inst[i.val].cq[q.val]).irqEn = bit v 15 ∧
          (t.inst[i.val].cq[q.val]).vector.val = bits v 20 16) ∧
      (bit v 31 = true → c.st = .active → c.log2.toNat ≠ bits v 4 0 →
        ∃ t, exec (.cqEnable i q v) s = .next t ∧ RingErrOnly i 5 true q s t) ∧
      (bit v 31 = false → ¬ named → (c.st = .active → c.log2.toNat = bits v 4 0) →
        ∃ t, exec (.cqDisable i q v) s = .next t ∧ (t.inst[i.val].cq[q.val]).st = .disabled ∧
          (t.inst[i.val].cq[q.val]).held = c.held ∧ (t.inst[i.val].cq[q.val]).aborts = c.aborts) ∧
      (bit v 31 = false → named → c.st ≠ .disabled →
        ∃ t, exec (.cqDisable i q v) s = .next t ∧ RingErrOnly i 5 true q s t)) ∧
    (r.st = .draining → (∀ x ∈ s.items, x.inst = i → x.sq ≠ q) →
      ∃ t, exec (.sqDrainDone i q) s = .next t ∧ (t.inst[i.val].sq[q.val]).st = .disabled)

/-- Fetch of one descriptor, the head shadow and completion records, where ring memory is reached. A fetched descriptor is
accepted under the next number with its 64 bytes, and the head passes it; an ill-formed one ends INVALID, a NOP that nothing
holds and that has no deadline is ready; a fetch that faults puts the SQ into ERROR and makes a ring-level record due. A due record is written with the
phase and epoch of its CQ, the tail moves on, phase inverting at the ring's end, and its descriptor's slot is free; while the CQ
has no room it is held (R76, R78, R79, R82 to R84, R87, R91, R106, R108). -/
def Obligations.CompletionRecords : Prop :=
  ∀ (i : InstId) (q : Fin 16) (s : State), live s = true →
    let r := s.inst[i.val].sq[q.val]
    let c := s.inst[i.val].cq[q.val]
    let a := r.base.toNat + r.head * 64
    (r.st = .active → r.busy = false → r.head ≠ r.tail → (s.items.filter fun x => x.inst = i).length < 1024 →
      s.items.length < 8192 → (∀ x ∈ s.items, x.id < s.nextId) → a % 64 = 0 →
      (∀ p raw, (translate i .read a s).1 = .ok (.dpa p) → GoodLine s p →
        raw = BitVec.ofNat 512 (leNat (Memory.read 0 s.mem.dpa p 64)) →
        ∃ t y, exec (.descriptorFetch i q 1 .ok) s = .next t ∧ y ∈ t.items ∧ t.items.length = s.items.length + 1 ∧
          (∀ x ∈ s.items, shedAtDeadline x s = false → x ∈ t.items) ∧ t.nextId = s.nextId + 1 ∧ y.id = s.nextId ∧ y.raw = raw ∧ y.inst = i ∧ y.sq = q ∧ y.cq = r.cq ∧ y.cls = r.cls ∧ y.gen = s.inst[i.val].gen ∧
          (t.inst[i.val].sq[q.val]).head = (r.head + 1) % 2 ^ r.log2.toNat ∧
          (descValid i raw = false → y.stage = .ended ∧ statusOf y.out = 0x10) ∧
          (descValid i raw = true → dfield raw 0 1 = 0 → dfield raw 8 8 = 0 → dfield raw 16 8 = 0 → (∀ x ∈ s.items, x.inst ≠ i) → y.stage = .ready)) ∧
      (∀ k, (translate i .read a s).1 = .error k →
        ∃ t, exec (.descriptorFetch i q 1 .ok) s = .next t ∧ t.items = s.items ∧ (t.inst[i.val].sq[q.val]).st = .error ∧
          bit t.inst[i.val].err.bits 0 = true ∧
          ∃ e ∈ (t.inst[i.val].cq[r.cq.val]).due, e.status = 0x11 ∧ e.item = none ∧ e.tag = BitVec.ofNat 32 r.head ∧
            e.opcode = 0xFF ∧ bit e.cond 6 = true)) ∧
    (∀ h, r.shadow ≠ 0 → 0 < r.sinceShadow → (translate i .write r.shadow.toNat s).1 = .ok (.host h) →
      ∃ t, exec (.headShadowWrite i q) s = .next t ∧ (t.inst[i.val].sq[q.val]).sinceShadow = 0 ∧
        t.mem.host = Memory.write 0 s.mem.host h (leBytes 4 r.head) ∧ t.mem.dpa = s.mem.dpa) ∧
    (∀ e rest, c.due = e :: rest →
      (∀ h d, c.st = .active → c.unreleased < 2 ^ c.log2.toNat → c.aborts = [] → c.held = [] → NoneWaits s → e.item = some d →
        e.sqHead = none → (translate i .write (c.base.toNat + c.tail * 32) s).1 = .ok (.host h) → Memory.wf 0 s.mem.host = true →
        ∃ t, exec (.completionRecord i q) s = .next t ∧ findItem d t = none ∧
          (∀ x ∈ s.items, x.id ≠ d → x ∈ t.items) ∧ (t.inst[i.val].cq[q.val]).due = rest ∧
          (t.inst[i.val].cq[q.val]).unreleased = c.unreleased + 1 ∧
          (t.inst[i.val].cq[q.val]).tail = (if c.tail + 1 = 2 ^ c.log2.toNat then 0 else c.tail + 1) ∧
          (t.inst[i.val].cq[q.val]).phase = (if c.tail + 1 = 2 ^ c.log2.toNat then !c.phase else c.phase) ∧
          leNat (Memory.read 0 t.mem.host h 4) = e.tag.toNat ∧ Memory.get 0 t.mem.host (h + 4) = e.status ∧
          (Memory.get 0 t.mem.host (h + 5)).toNat = (if c.phase then 128 else 0) + e.sq.val ∧
          leNat (Memory.read 0 t.mem.host (h + 6) 2) = e.cond.toNat ∧ leNat (Memory.read 0 t.mem.host (h + 8) 8) = e.doneRts.toNat ∧
          leNat (Memory.read 0 t.mem.host (h + 16) 8) = e.result.toNat ∧
          leNat (Memory.read 0 t.mem.host (h + 24) 4) = (s.inst[i.val].sq[e.sq.val]).head % 2 ^ 32 ∧
          leNat (Memory.read 0 t.mem.host (h + 28) 2) = c.epoch.toNat ∧ Memory.get 0 t.mem.host (h + 30) = e.opcode ∧
          Memory.get 0 t.mem.host (h + 31) = e.timeEpoch ∧
          ∀ b, b < h ∨ h + 32 ≤ b → Memory.get 0 t.mem.host b = Memory.get 0 s.mem.host b) ∧
      ((c.st ≠ .active ∨ 2 ^ c.log2.toNat ≤ c.unreleased) →
        exec (.completionRecord i q) s = .next (modCq i q (fun c => { c with due := rest, held := c.held ++ [e] }) s)))

/-- What time does to descriptors and rings. A NOP that is ready, and a FENCE that nothing before it keeps, complete OK with
result 0, and a NOP that its deadline did not shed LATE where the deadline has passed or is not later than its release; the
first release of those that are reached is taken, and a descriptor that nothing else holds is then ready, a FENCE running; once
no release waits, a deadline that is reached sheds a descriptor that has not started, unless it is marked no_shed or shed_mode
is 0; one that has been ready for age_us is aged. The timer of a CQ and the unmasking of a pending vector send one message. A
window's end moves every rate an eighth towards what was completed; pressure clears 1 ms after the last SHED_EARLY (R43 to R45,
R56, R58, R97, R99, R137, R138, R140, R143). -/
def Obligations.DescriptorsInTime : Prop :=
  ∀ (s : State), live s = true →
    (∀ d x, findItem d s = some x → Fresh x s →
      (x.opcode = 0 → x.stage = .ready → ∃ t, exec (.nop d) s = .next t ∧ Completes d 0x00 0 s t) ∧
      (x.opcode = 9 → x.stage = .running → (∀ y ∈ s.items, y.id < x.id → y.inst = x.inst →
          y.sq ≠ x.sq ∧ bit x.raw (192 + y.sq.val) = false) →
        ∃ t, exec (.fence d) s = .next t ∧ Completes d 0x00 0 s t)) ∧
    (∀ d x, findItem d s = some x → x.out = {} → x.last = none → x.resetHead = none → shedAtDeadline x s = false →
      (passed x.deadline s.eph.now = true ∨ beforeRelease x = true) → x.opcode = 0 → x.stage = .ready → ∃ t, exec (.nop d) s = .next t ∧ Completes d 0x01 0 s t) ∧
    (∀ d x, findItem d s = some x → x.out = {} → x.resetHead = none → releasePending s = false →
      (x.stage = .ready ∨ (x.stage = .waiting ∧ heldByOrder x s = false)) → (x.opcode ≤ 6 ∨ x.opcode = 10) → x.deadline ≠ 0 →
      (rtsNorm x.deadline).toNat ≤ s.eph.now.toNat → x.noShed = false → s.inst[x.inst.val].shedMode ≠ 0 →
      ∃ t, exec (.deadlineExpiry d) s = .next t ∧ Completes d 0x08 x.result s t) ∧
    (∀ d x, findItem d s = some x → x.stage = .waiting → x.released = false → reached x.release s.eph.now = true →
      (∀ y ∈ s.items, y.stage = .waiting → y.released = false → reached y.release s.eph.now = true →
        (rtsNorm x.release).toNat < (rtsNorm y.release).toNat ∨ ((rtsNorm x.release).toNat = (rtsNorm y.release).toNat ∧ x.id ≤ y.id)) →
      ∃ t y, exec (.descriptorRelease d) s = .next t ∧ findItem d t = some y ∧ y.released = true ∧
        (heldByOrder x s = false → heldByFence x s = false → x.deadline = 0 →
          y.stage = (if x.opcode = 9 then .running else .ready) ∧ y.readyAt = s.eph.ticks)) ∧
    (∀ d x, findItem d s = some x → x.stage = .ready →
      x.readyAt + usTicks (max 1 s.inst[x.inst.val].ageUs.toNat) ≤ s.eph.ticks →
      exec (.descriptorAged d) s = .next (modItem d (fun x => { x with aged := true }) s)) ∧
    (∀ (i : InstId) (q : Fin 16), (s.inst[i.val].cq[q.val]).irqEn = true → 0 < (s.inst[i.val].cq[q.val]).unsignalled →
      (s.inst[i.val].cq[q.val]).modTime ≠ 0 →
      (s.inst[i.val].cq[q.val]).oldest + usTicks (s.inst[i.val].cq[q.val]).modTime.toNat ≤ s.eph.ticks →
      VectorOpen i (s.inst[i.val].cq[q.val]).vector s →
      exec (.cqModTimer i q) s = .next (emit (.msix i (s.inst[i.val].cq[q.val]).vector)
        (modCq i q (fun c => { c with unsignalled := 0, urgent := false }) s))) ∧
    (∀ (fn : InstId) (vec : Fin 32), s.fns[fn.val].msix = true → s.fns[fn.val].master = true → s.fns[fn.val].fnMask = false →
      let f (g : Fn) : Fn :=
        { g with masked := g.masked &&& ~~~(1#32 <<< vec.val), pendingBits := g.pendingBits &&& ~~~(1#32 <<< vec.val) }
      exec (.msixUnmask fn vec) s = .next (if bit s.fns[fn.val].pendingBits vec.val
        then emit (.msix fn vec) { s with fns := upd s.fns fn f }
        else { s with fns := upd s.fns fn fun g => { g with masked := g.masked &&& ~~~(1#32 <<< vec.val) } })) ∧
    (∃ t, exec .estimatorWindow s = .next t ∧ ∀ (i : InstId) (ty : Fin 4),
      let e := s.inst[i.val].est[ty.val]
      (t.inst[i.val].est[ty.val]).inWindow = 0 ∧ (t.inst[i.val].est[ty.val]).svc = e.svc ∧
      ((t.inst[i.val].est[ty.val]).rate.toNat =
        if e.worked = true ∨ (∃ y ∈ s.items, y.inst = i ∧ engType y.opcode = some ty ∧ (y.stage = .ready ∨ y.stage = .running))
        then min (2 ^ 40 - 1) (stepTo e.rate.toNat (e.inWindow * 25600000)) else e.rate.toNat)) ∧
    (∀ i : InstId, s.inst[i.val].shedPressure = true → s.inst[i.val].shedAt + 24576 * 10 ≤ s.eph.ticks → (∀ q : Fin 16, (s.inst[i.val].sq[q.val]).busy = false) →
      exec (.pressureTimeout i) s =
        .next (modInst i (fun x => { x with shedPressure := false, pressure := false }) s))

/-! ### Radio time -/

/-- Arming and cancelling a load, and the qualification of the references. tod_arm leaves a load armed, tod_cancel leaves none
whatever else it writes; the PLL locks to a reference within 50 ppm and to no other; TREF_IN is qualified by a locked PLL
within 20 ppm, the estimate is kept, and the phase error is to be measured; its loss clears both, and a LOCKED Ephemeris enters HOLDOVER; so does the loss of
PPS_IN once no edge has come in time; HOLDOVER that outlasts its limit becomes FREE-RUN, and all-ones is no limit
(R35, R37, R39, R54, R61, R64). -/
def Obligations.References : Prop :=
  ∀ (s : State), live s = true →
    exec .todArm s = .next { s with eph := { s.eph with todPending := true } } ∧
    (∀ arm, exec (.todCancel arm) s = .next { s with eph := { s.eph with todPending := false } }) ∧
    (∀ ppm : Int, (ppm.natAbs ≤ 50 → exec (.pllLock ppm) s = .next { s with eph := { s.eph with pllLock := true } }) ∧
      (50 < ppm.natAbs → exec (.pllLock ppm) s = .next s) ∧
      (ppm.natAbs ≤ 20 → s.eph.pllLock = true →
        exec (.trefQualify ppm) s = .next { s with
          eph := { s.eph with trefQual := true, trefEst := some ppm, measure := s.eph.measure || !s.eph.trefQual } }) ∧
      (20 < ppm.natAbs ∨ s.eph.pllLock = false → exec (.trefQualify ppm) s = .next s)) ∧
    (∃ t, exec .trefLoss s = .next t ∧ t.eph.trefQual = false ∧ t.eph.pllLock = false ∧ t.eph.now = s.eph.now ∧
      t.eph.ppsQual = s.eph.ppsQual ∧ (s.eph.trefQual = true → bit t.eph.intStatus 1 = true) ∧
      t.eph.st = (if s.eph.st = .locked then .holdover else s.eph.st)) ∧
    (s.eph.ppsQual = true → (∀ l, s.eph.lastEdge = some l → l + s.eph.ppsComp.toInt + 245760000 + 1024 ≤ (s.eph.ticks : Int)) →
      ∃ t, exec .ppsLoss s = .next t ∧ t.eph.ppsQual = false ∧ t.eph.lastEdge = none ∧ t.eph.goodRun = 0 ∧
        bit t.eph.intStatus 2 = true ∧ t.eph.now = s.eph.now ∧
        t.eph.st = (if s.eph.st = .locked then .holdover else s.eph.st)) ∧
    (s.eph.st = .holdover → s.eph.holdLimit ≠ 0xFFFFFFFF → s.eph.holdLimit.toNat * 245760000 < s.eph.holdTicks →
      ∃ t, exec .holdLimitExpiry s = .next t ∧ Entered .freeRun s t ∧ t.eph.now = s.eph.now) ∧
    (s.eph.holdLimit = 0xFFFFFFFF → exec .holdLimitExpiry s = .next s)

/-- PPS_IN edges. The first only starts the count. An edge within two ticks of its boundary clears bad_count; the third in a
row qualifies PPS_IN, and at a qualified edge an armed load sets the time, which counts as a step and makes the time of day
valid; without one, an error against the grid of up to 1,024 ticks is slewed from then on, whatever TREF_IN does. An edge further off is a phase fault; the third such in a row disqualifies PPS_IN. On requalification an error of up
to two ticks locks Ephemeris, one up to 1,024 is slewed, one below a quarter of a second is stepped away if steps are allowed
and otherwise left, a larger one clears tod_valid and enters FREE-RUN. When slewing has brought the error within two ticks,
Ephemeris is LOCKED and the rest is trimmed (R36 to R40, R55, R61). -/
def Obligations.PpsEdges : Prop :=
  ∀ (s : State), live s = true →
    let at_ : Int := (s.eph.ticks : Int) - s.eph.ppsComp.toInt
    (¬ OnGrid s.eph → s.eph.lastEdge = none →
      exec .ppsEdge s = .next { s with eph := { s.eph with lastEdge := some at_ } }) ∧
    (∀ l, ¬ OnGrid s.eph → s.eph.lastEdge = some l → s.eph.ppsQual = false →
      ((at_ - l - 245760000).natAbs ≤ 2 → s.eph.goodRun + 1 < 3 →
        ∃ t, exec .ppsEdge s = .next t ∧ t = { s with eph := { s.eph with
          phaseErr := t.eph.phaseErr, lastEdge := some at_, badCount := 0, goodRun := s.eph.goodRun + 1 } } ∧
          t.eph.phaseErr.toInt = at_ - l - 245760000) ∧
      ((at_ - l - 245760000).natAbs ≤ 2 → 2 ≤ s.eph.goodRun → s.eph.todPending = true →
        ∃ t, exec .ppsEdge s = .next t ∧ t.eph.ppsQual = true ∧ t.eph.todValid = true ∧ t.eph.todPending = false ∧
          (rtsLin t.eph.now : Int) = ((rtsLin s.eph.todNext : Int) + s.eph.ppsComp.toInt) % (2 ^ 42 * 2457600) ∧
          t.eph.timeEpoch = s.eph.timeEpoch + 1 ∧ t.eph.stepCnt = satInc s.eph.stepCnt ∧ bit t.eph.intStatus 4 = true ∧
          bit t.eph.intStatus 5 = true ∧ (s.eph.trefQual = true → t.eph.st = .locked)) ∧
      (∀ err, (at_ - l - 245760000).natAbs ≤ 2 → 2 ≤ s.eph.goodRun → s.eph.todPending = false → s.eph.todValid = true →
        s.eph.slewing = none → GridError s.eph err → 2 < err.natAbs → err.natAbs ≤ 1024 →
        ∃ t, exec .ppsEdge s = .next t ∧ t.eph.ppsQual = true ∧ t.eph.slewing = some err ∧ t.eph.st = s.eph.st ∧
          t.eph.now = s.eph.now) ∧
      (2 < (at_ - l - 245760000).natAbs →
        ∃ t, exec .ppsEdge s = .next t ∧ t.eph.ppsQual = false ∧ t.eph.goodRun = 0 ∧
          t.eph.badCount = satInc s.eph.badCount ∧ bit t.eph.intStatus 3 = true ∧ t.eph.now = s.eph.now)) ∧
    (∀ err, OnGrid s.eph → GridError s.eph err →
      (2 < err.natAbs → 2 ≤ s.eph.badCount.toNat →
        ∃ t, exec .ppsEdge s = .next t ∧ t.eph.ppsQual = false ∧ bit t.eph.intStatus 3 = true ∧ bit t.eph.intStatus 2 = true ∧
          t.eph.st = (if s.eph.st = .locked then .holdover else s.eph.st)) ∧
      (s.eph.todPending = false → s.eph.measure = true → s.eph.trefQual = true →
        (err.natAbs ≤ 2 → ∃ t, exec .ppsEdge s = .next t ∧ Entered .locked s t ∧ t.eph.now = s.eph.now) ∧
        (2 < err.natAbs → s.eph.badCount.toNat < 2 →
          (err.natAbs ≤ 1024 → ∃ t, exec .ppsEdge s = .next t ∧ t.eph.slewing = some err ∧ t.eph.st = s.eph.st ∧
            t.eph.now = s.eph.now) ∧
          (1024 < err.natAbs → err.natAbs < 61440000 → s.eph.stepAllow = true →
            ∃ t, exec .ppsEdge s = .next t ∧ Entered .locked s t ∧
              (rtsLin t.eph.now : Int) = ((rtsLin s.eph.now : Int) - err) % (2 ^ 42 * 2457600) ∧
              t.eph.timeEpoch = s.eph.timeEpoch + 1) ∧
          (1024 < err.natAbs → err.natAbs < 61440000 → s.eph.stepAllow = false →
            ∃ t, exec .ppsEdge s = .next t ∧ t.eph.st = s.eph.st ∧ t.eph.stepRefused = true ∧ bit t.eph.intStatus 6 = true) ∧
          (61440000 ≤ err.natAbs →
            ∃ t, exec .ppsEdge s = .next t ∧ Entered .freeRun s t ∧ t.eph.todValid = false)))) ∧
    (∀ residual : Int, s.eph.slewing = some residual → residual.natAbs ≤ 2 → s.eph.trefQual = true → s.eph.ppsQual = true →
      s.eph.todValid = true →
      ∃ t, exec (.phaseSlewDone residual) s = .next t ∧ Entered .locked s t ∧ t.eph.slewing = none ∧
        t.eph.trim = residual ∧ t.eph.now = s.eph.now)

/-- EVENTs and timestamps. A pin's action whose time has come drives the pin, and its EVENT completes with that time; a late
one is shed under late_policy 1 and marked LATE otherwise; one whose pin is disabled or whose Ephemeris lies below min_state
is shed; a pulse's falling edge is performed whatever these hold. An EVENT enters its pin's queue, or is held while 16 stand
there, and starts when a place is free, entering the queue or ending INVALID without its grant; one whose time passes while it is held is judged once: shed under late_policy 1, on a
disabled pin or below min_state, and kept otherwise. An edge of EVTIN
puts the time into the FIFO, or sets overflow when eight stand there, and a read takes the oldest (R49 to R51, R53, R64, R90). -/
def Obligations.TimedPins : Prop :=
  ∀ (s : State) (pin : Fin 8) (a : EvtAction) (rest : List EvtAction) (x : Item), live s = true →
    let p := s.evt[pin.val]
    let open_ := p.enable = true ∧ ephAtLeast p.minState s.eph.st = true
    (p.queue = a :: rest → findItem a.item s = some x → x.stage = .running → x.opcode = 8 → x.resetHead = none →
      x.out = (if a.kind = .fall then effect {} else {}) →
      a.rts.toNat ≤ s.eph.now.toNat →
      (∀ lvl, open_ → (a.rts = s.eph.now ∨ p.latePolicy = false) →
        ((a.kind = .high ∧ lvl = true) ∨ (a.kind = .low ∧ lvl = false) ∨ (a.kind = .toggle ∧ lvl = !p.level)) →
        ∃ t, exec (.evtAction pin) s = .next t ∧ t.evt = upd s.evt pin (fun p => { p with queue := rest, level := lvl }) ∧
          Completes a.item (if a.rts = s.eph.now then 0x00 else 0x01) s.eph.now s t) ∧
      (∀ w, open_ → (a.rts = s.eph.now ∨ p.latePolicy = false) → a.kind = .pulse w →
        ∃ t f, exec (.evtAction pin) s = .next t ∧ (t.evt[pin.val]).level = true ∧ f ∈ (t.evt[pin.val]).queue ∧
          f.kind = .fall ∧ f.item = a.item ∧ f.rts = rtsAdd a.rts w.toNat ∧ f.rose = s.eph.now) ∧
      (a.kind ≠ .fall → (¬ open_ ∨ (a.rts ≠ s.eph.now ∧ p.latePolicy = true)) →
        ∃ t, exec (.evtAction pin) s = .next t ∧ t.evt = upd s.evt pin (fun p => { p with queue := rest }) ∧
          Completes a.item 0x08 0 s t) ∧
      (a.kind = .fall →
        ∃ t, exec (.evtPulseFall pin) s = .next t ∧ t.evt = upd s.evt pin (fun p => { p with queue := rest, level := false }) ∧
          Completes a.item (if a.late = true ∨ a.rts ≠ s.eph.now then 0x01 else 0x00) a.rose s t)) ∧
    (p.held = a :: rest → p.queue.length < 16 → findItem a.item s = some x →
      (bit s.inst[a.inst.val].evtMask pin.val = true →
        ∃ t, exec (.evtEnqueue pin) s = .next t ∧ t.evt = upd s.evt pin (fun p => { p with held := rest, queue := evtInsert a p.queue }) ∧
          findItem a.item t = some { x with stage := .running, startAt := s.eph.ticks, started := true }) ∧
      (bit s.inst[a.inst.val].evtMask pin.val = false → x.out = {} → x.opcode = 8 → x.resetHead = none →
        ∃ t, exec (.evtEnqueue pin) s = .next t ∧ t.evt = upd s.evt pin (fun p => { p with held := rest }) ∧
          Completes a.item 0x10 x.result s t)) ∧
    (a ∈ p.held → a.judged = false → a.rts.toNat < s.eph.now.toNat → (∀ k : Fin 8, k ≠ pin → ∀ b ∈ s.evt[k.val].held, b.item ≠ a.item) →
      findItem a.item s = some x → x.stage = .running → x.out = {} → x.opcode = 8 → x.resetHead = none →
      (p.latePolicy = true ∨ ¬ open_ → ∃ t, exec (.evtHeldExpiry a.item) s = .next t ∧
        (t.evt[pin.val]).held = p.held.filter (fun b => b.item ≠ a.item) ∧ Completes a.item 0x08 0 s t) ∧
      (p.latePolicy = false → open_ → exec (.evtHeldExpiry a.item) s = .next (modPin pin
        (fun p => { p with held := p.held.map (fun b => if b.item = a.item then { b with judged := true } else b) }) s))) ∧
    (∀ (n : Fin 4) (rising : Bool), bit s.evtin[n.val].edge (if rising then 0 else 1) = true →
      (s.evtin[n.val].fifo.length < 8 → ∃ t, exec (.evtinEdge n rising) s = .next t ∧
        t.evtin = upd s.evtin n fun e => { e with fifo := e.fifo ++ [s.eph.now] }) ∧
      (8 ≤ s.evtin[n.val].fifo.length →
        exec (.evtinEdge n rising) s = .next { s with evtin := upd s.evtin n fun e => { e with overflow := true } })) ∧
    (∀ (n : Fin 4) (ts : Rts) (more : List Rts), s.evtin[n.val].fifo = ts :: more →
      ∃ t, exec (.evtinTsRead n) s = .next t ∧ t.evtin = upd s.evtin n fun e => { e with fifo := more })

/-! ### Resets of instances, partitions, windows -/

/-- Resets of instances. A reset starts only where the instance is not OFF: its generation rises by one, its SQs are DISABLED
with their epochs kept, none of its descriptors waits or runs but for those that drain, and with none to drain zeroing
begins at once; every other instance is as before. A write of reset for instance 0 is ignored. A VF FLR does the same with
the function's configuration cleared; a PF FLR gives every instance that is not OFF its next generation. Halted cores are
RUNNING no more; an item that has drained leaves the count with an ABORT_RESET record held under its CQ, the last ends
the drain, as an escalation does; the engine it reset works again, or goes out of service. At the end of zeroing the
instance is READY with reset_done, every byte of its pages on memory in service is 0 and no other has changed; with VF Enable
cleared, it is OFF. VF Enable makes OFF instances up to NumVFs READY (R111, R128 to R132, R151, R152). -/
def Obligations.InstanceResets : Prop :=
  ∀ (s : State) (i : InstId), live s = true →
    (∀ c, c = .instanceReset i ∨ c = .vfFlr i → i ≠ 0 → s.inst[i.val].st ≠ .off → s.itemsWf →
      ∃ t, exec c s = .next t ∧ t.inst[i.val].gen = s.inst[i.val].gen + 1 ∧
        (t.inst[i.val].st = .draining ∨ t.inst[i.val].st = .zeroing) ∧
        (t.inst[i.val].st = .zeroing ↔ ∀ x ∈ t.items, x.inst = i → x.draining = false) ∧
        (∀ q : Fin 16, (t.inst[i.val].sq[q.val]) = { epoch := (s.inst[i.val].sq[q.val]).epoch }) ∧
        (∀ x ∈ t.items, x.inst = i → x.stage = .ended ∨ x.draining = true) ∧
        (c = .vfFlr i → t.fns[i.val] = {}) ∧ (∀ j : InstId, j ≠ i → t.inst[j.val] = s.inst[j.val])) ∧
    (∀ c, c = .instanceReset i ∨ c = .vfFlr i → i = 0 → exec c s = .next s) ∧
    (∃ t, exec .pfFlr s = .next t ∧ ∀ j : InstId, t.inst[j.val].gen =
      (if s.inst[j.val].st = .off then s.inst[j.val].gen else s.inst[j.val].gen + 1) ∧
      (t.inst[j.val].st = .off ↔ s.inst[j.val].st = .off)) ∧
    (resetting i s = true → ∃ t, exec (.resetHalt i) s = .next t ∧
      (∀ n ∈ partsOf i s, ∀ k ∈ coresOf n s, t.cores[k.val].st ≠ .running) ∧
      (∀ k : CoreId, (∀ n ∈ partsOf i s, k ∉ coresOf n s) → t.cores[k.val].st = s.cores[k.val].st)) ∧
    (resetting i s = true → ∃ t, exec (.resetObserve i) s = .next t ∧
      (∀ r ∈ t.halo.reqs, r.remote.isSome = true → r.inst = i → r.gen = s.inst[i.val].gen) ∧
      (∀ x ∈ s.items, x.inst = i → x.draining = true → x.stage = .running → (∀ w ∈ t.searches, w.item ≠ x.id) ∧
        ∀ r ∈ t.halo.reqs, r.remote = none → r.item ≠ x.id)) ∧
    (∀ d x, findItem d s = some x → x.inst = i → x.draining = true → s.inst[i.val].st = .draining → itemClear x s = true →
      ∃ t y, exec (.resetDrainItemDone i d) s = .next t ∧ findItem d t = some y ∧ y.stage = .ended ∧ y.draining = false ∧
        (∃ r ∈ (t.inst[i.val].cq[x.cq.val]).aborts, r.item = some d ∧ r.status = 0x20 ∧ r.tag = x.tag) ∧
        (t.inst[i.val].st = .zeroing ↔ ∀ z ∈ s.items, z.inst = i → z.id ≠ d → z.draining = false)) ∧
    (s.inst[i.val].st = .draining → drainItems i s ≠ [] → s.inst[i.val].resetAt + usTicks 1000 ≤ s.eph.ticks →
      ∃ t, exec (.resetEscalate i) s = .next t ∧ t.inst[i.val].st = .zeroing ∧
        ∀ e ∈ ((drainItems i s).flatMap fun x => enginesOf x s), e ∈ t.engReset) ∧
    (∀ e ∈ s.engReset, ∃ t, exec (.engineResetDone e) s = .next t ∧ t.engReset = s.engReset.filter (fun x => x != e) ∧
      (s.fab.queries = [] → t = { s with engReset := t.engReset })) ∧
    (∀ e ∈ s.engReset, ∃ t, exec (.engineResetTimeout e) s = .next t ∧ e ∉ t.engReset ∧
      ∀ u, unitOfEngine e = some u → t.nuc.units[u.val].fence = true) ∧
    (s.inst[i.val].st = .zeroing → s.inst[i.val].zeroed = false → s.inst[i.val].inPfFlr = false →
      ∃ t, exec (.resetZeroingDone i) s = .next t ∧
        (s.inst[i.val].removing = false → t.inst[i.val].st = .ready ∧ t.inst[i.val].resetDone = true ∧
          t.inst[i.val].gen = s.inst[i.val].gen ∧ (s.nuc.logs[0].enable = false → s.memoryWf →
            (s.halo.htuOwner = i → s.halo.job = none) → ∀ a,
            ((∃ p ∈ s.inst[i.val].zeroList, p.1 ≤ a ∧ a < p.1 + p.2) → channelOut s a = false → t.byte a = 0) ∧
            ((¬ ∃ p ∈ s.inst[i.val].zeroList, p.1 ≤ a ∧ a < p.1 + p.2) ∨ channelOut s a = true → t.byte a = s.byte a))) ∧
        (s.inst[i.val].removing = true → s.vfEnable = false → t.inst[i.val].st = .off ∧ t.fab.domain[i.val] = none)) ∧
    (s.hub.stage0 = true → s.vfEnable = true → ∃ t, exec .vfEnableClear s = .next t ∧ t.vfEnable = false ∧
      t.inst[0].st = s.inst[0].st ∧ ∀ j : InstId, j ≠ 0 → s.inst[j.val].st ≠ .off →
        t.inst[j.val].removing = true ∧ t.inst[j.val].gen = s.inst[j.val].gen + 1) ∧
    (∀ n : Fin 64, s.hub.stage0 = true → s.vfEnable = false → ∃ t, exec (.vfEnableSet n) s = .next t ∧ t.vfEnable = true ∧
      t.numVFs = n ∧ ∀ j : InstId, t.inst[j.val].st =
        (if j ≠ 0 ∧ j.val ≤ n.val ∧ s.inst[j.val].st = .off then .ready else s.inst[j.val].st))

/-- Partitions, invalidation and BAR windows. A commit that names a rectangle in the array that meets no other partition's,
over a partition on which no core runs, takes effect; one with a bad rectangle sets part_overlap and one over running cores
part_busy, and neither changes a partition. MTU_INVAL with go starts the one invalidation, and its end takes the named page or
all pages from the instance's cache. A window read of a READY VF whose page maps to a good line gives its bytes; a window
write stores them and no other byte (R10, R66, R67, R115, R116, R125, R153). -/
def Obligations.PartitionsAndWindows : Prop :=
  ∀ (s : State), live s = true →
    (∀ (n : Fin 64) (v lo : Word) (p : Part), lo = (Tab.find s.hold (partKey n)).getD (partLow s.parts[n.val]) →
      p = { gx0 := BitVec.ofNat 5 (bits lo 4 0), gy0 := BitVec.ofNat 5 (bits lo 9 5), width := BitVec.ofNat 5 (bits lo 14 10)
            height := BitVec.ofNat 5 (bits lo 19 15), valid := bit v 31, owner := Fin.ofNat 64 (bits v 5 0) } →
      (p.gx0, p.gy0, p.width, p.height, p.valid, p.owner) ≠ (s.parts[n.val].gx0, s.parts[n.val].gy0, s.parts[n.val].width,
        s.parts[n.val].height, s.parts[n.val].valid, s.parts[n.val].owner) →
      let bad := p.valid = true ∧ (p.width = 0 ∨ p.height = 0 ∨ 24 < p.gx0.toNat + p.width.toNat ∨
        24 < p.gy0.toNat + p.height.toNat ∨ ∃ m : Fin 64, m ≠ n ∧ s.parts[m.val].valid = true ∧ ∃ x y : Nat,
          p.gx0.toNat ≤ x ∧ x < p.gx0.toNat + p.width.toNat ∧ p.gy0.toNat ≤ y ∧ y < p.gy0.toNat + p.height.toNat ∧
          s.parts[m.val].gx0.toNat ≤ x ∧ x < s.parts[m.val].gx0.toNat + s.parts[m.val].width.toNat ∧
          s.parts[m.val].gy0.toNat ≤ y ∧ y < s.parts[m.val].gy0.toNat + s.parts[m.val].height.toNat)
      let busy := ∃ c ∈ coresOf n s, s.cores[c.val].st = .running
      ∃ t, exec (.partitionCommit n v) s = .next t ∧
        (¬ bad → ¬ busy → t.parts = upd s.parts n (fun _ => p) ∧ t.partOverlap = s.partOverlap ∧ t.partBusy = s.partBusy) ∧
        (bad ∨ busy → t.parts = s.parts ∧ (t.partOverlap = true ↔ bad ∨ s.partOverlap = true) ∧
          (t.partBusy = true ↔ busy ∨ s.partBusy = true))) ∧
    (∀ v : Word, bit v 30 = true → s.invalJob = none → ∃ t, exec (.mtuInvalGo v) s = .next t ∧
      t.invalJob = some (bit v 7, Fin.ofNat 64 (bits v 5 0), s.invalAddr) ∧ t.mtu = s.mtu) ∧
    (∀ all i a, s.invalJob = some (all, i, a) → exec .mtuInvalDone s = .next { s with
      invalJob := none
      mtu := upd s.mtu i fun m => { m with cache := m.cache.filter fun e =>
        !(all || e.1 = a.toNat / 2 ^ 21 || (bit e.2 4 && e.1 / 512 = a.toNat / 2 ^ 30)) } }) ∧
    (∀ (i : InstId) (off : BitVec 33) (p n : Nat), barInside i off = true → 0 < n → off.toNat % 64 + n ≤ 64 →
      (s.inst[i.val].st = .ready → GoodLine s p → (translate i .read off.toNat s).1 = .ok (.dpa p) →
        ∃ t, exec (.barWindowRead i off n) s = .next t ∧
          t = { s with out := s.out ++ [.readData (Memory.read 0 s.mem.dpa p n) false], mtu := t.mtu, free := t.free }) ∧
      (s.inst[i.val].st ≠ .ready →
        exec (.barWindowRead i off n) s = .next (emit (.readData (List.replicate n 0) false) s)) ∧
      (∀ d : List Byte, d.length = n → s.inst[i.val].st = .ready → GoodLine s p → Memory.wf 0 s.mem.dpa = true →
        (translate i .write off.toNat s).1 = .ok (.dpa p) →
        ∃ t, exec (.barWindowWrite i off d) s = .next t ∧ t = { s with mtu := t.mtu, free := t.free, mem := t.mem } ∧
          (∀ b, b < p ∨ p + n ≤ b → t.byte b = s.byte b) ∧ ∀ j < n, t.byte (p + j) = d.getD j 0) ∧
      (∀ d : List Byte, s.inst[i.val].st ≠ .ready → exec (.barWindowWrite i off d) s = .next s))

/-! ### DMA and EVENT -/

/-- DMA_COPY moves its bytes from source to destination, or fills the destination with its byte; DMA_GATHER moves its entries
in list order to consecutive bytes. Each completes OK with the bytes it wrote, the second with its entries above them, and
every other byte of device memory reads as before. Stated for ranges that map to consecutive good bytes, do not overlap, and
hold none of the instance's tables. An EVENT that is ready runs, its action taking its place in its pin's queue, or stays
ready, its action held, while 16 stand there or others are held; one that starts for a pin that its instance does not hold is
INVALID (R49, R51, R90, R117, R389, R394 to R396). -/
def Obligations.DmaAndEvents : Prop :=
  (∀ (s : State) (d : Nat) (x : Item) (ch : Fin 16) (pd : Nat), live s = true → Memory.wf 0 s.mem.dpa = true →
    let src := dfield x.raw 24 8
    let dst := dfield x.raw 32 8
    let n := dfield x.raw 40 4
    (∀ ps, DmaStarts d 2 x ch s → 0 < n → MapsRange x.inst .write dst n pd s → TablesClear x.inst pd n s →
      (dfield x.raw 45 1 = 0 → MapsRange x.inst .read src n ps s → sharesByte x.inst src n dst n s = false →
        ps + n ≤ pd ∨ pd + n ≤ ps →
        ∃ t, exec (.dmaCopy d ch none) s = .next t ∧ Completes d 0x00 (BitVec.ofNat 64 n) s t ∧
          (∀ j < n, t.byte (pd + j) = s.byte (ps + j)) ∧ ∀ b, b < pd ∨ pd + n ≤ b → t.byte b = s.byte b) ∧
      (dfield x.raw 45 1 = 1 →
        ∃ t, exec (.dmaCopy d ch none) s = .next t ∧ Completes d 0x00 (BitVec.ofNat 64 n) s t ∧
          (∀ j < n, t.byte (pd + j) = BitVec.ofNat 8 (dfield x.raw 46 1)) ∧
          ∀ b, b < pd ∨ pd + n ≤ b → t.byte b = s.byte b)) ∧
    (∀ (l : List Byte) (es : List (Nat × Nat × Nat)) (total : Nat), DmaStarts d 3 x ch s → ReadsAs x.inst src (16 * n) s l →
      (∃ p, translate x.inst .read src s = (.ok (.dpa p), s)) → total = (es.map fun e => e.2.1).sum → 0 < total →
      total < 2 ^ 32 → gatherEntries n l = es.map (fun e => (e.1, e.2.1, true)) →
      MapsRange x.inst .write dst total pd s → TablesClear x.inst pd total s →
      (∀ e ∈ es, MapsRange x.inst .read e.1 e.2.1 e.2.2 s ∧ sharesByte x.inst e.1 e.2.1 dst total s = false ∧
        (e.2.2 + e.2.1 ≤ pd ∨ pd + total ≤ e.2.2)) →
      ∃ t, exec (.dmaGather d ch none) s = .next t ∧ Completes d 0x00 (BitVec.ofNat 64 (total + 2 ^ 32 * es.length)) s t ∧
        (∀ pre e post, es = pre ++ e :: post → ∀ j < e.2.1,
          t.byte (pd + (pre.map fun e => e.2.1).sum + j) = s.byte (e.2.2 + j)) ∧
        ∀ b, b < pd ∨ pd + total ≤ b → t.byte b = s.byte b)) ∧
  (∀ (s : State) (d : Nat) (x : Item), live s = true → findItem d s = some x → x.opcode = 8 → x.stage = .ready → Calm x.inst s →
    let pin := evtPinOf x
    let p := s.evt[pin.val]
    (bit s.inst[x.inst.val].evtMask pin.val = true → p.queue.length < 16 → p.held = [] →
      ∃ t, exec (.event d) s = .next t ∧
        findItem d t = some { x with stage := .running, startAt := s.eph.ticks, started := true } ∧
        t.evt = upd s.evt pin (fun q => { q with queue := evtInsert (evtActionOf x) q.queue }) ∧
        ((∀ a ∈ p.queue, a.rts.toNat ≤ (evtActionOf x).rts.toNat) → (t.evt[pin.val]).queue = p.queue ++ [evtActionOf x])) ∧
    (16 ≤ p.queue.length ∨ p.held ≠ [] → (∀ a ∈ p.held, a.item ≠ d) →
      exec (.event d) s = .next (modPin pin (fun q => { q with held := q.held ++ [evtActionOf x] }) s)) ∧
    (bit s.inst[x.inst.val].evtMask pin.val = false → Fresh x s → p.queue.length < 16 → p.held = [] →
      ∃ t, exec (.event d) s = .next t ∧ t.evt = s.evt ∧ Completes d 0x10 0 s t))

/-! ### Search -/

/-- SEARCH and INDEX_UPDATE. A SEARCH whose blocks pass their checks starts and has no query done; one of an instance without
a walker is INVALID. A deterministic query that meets one node returns it alone: its result area holds the header with one
entry, kind 0, one shard, one expansion and one score, the entry with the score that R353 gives and the node's global ID,
and zeros; the SEARCH of that one query completes OK with 1. A root context that closes at stop_time() with shards missing
writes a result with cut, and no context of that query stands. A context that times out closes: the root with
FABRIC_UNREACH, another with one ANSWER upstream. A delete of a live node sets its del to the next generation, its status to 0 and the index to that
generation, changes no other byte, and completes with 1. Clearing a walker's counters leaves them 0
(R345, R349 to R353, R356, R361, R362, R367, R379, R472). -/
def Obligations.Searches : Prop :=
  ∀ (s : State) (d : Nat) (x : Item) (pd xd : List Byte), live s = true →
    let p := paramsOf pd
    let ix := indexOf xd
    let k := dfield x.raw 52 2
    (StartsNext d 4 2 (walkOk s) x s → SearchBlocks x pd xd s →
      searchOk pd xd (dfield x.raw 32 8) (dfield x.raw 40 8) k (dfield x.raw 54 1 = 1) = true →
      (∃ w : Fin 16, wkServes p.wkSel x.inst w s = true) →
      ∃ t, exec (.search d) s = .next t ∧ t.searches = s.searches ++ [{ item := d, next := 0, done := 0, params := pd }] ∧
        findItem d t = some { x with stage := .running, startAt := s.eph.ticks, started := true } ∧ t.mem = s.mem) ∧
    (StartsNext d 4 2 (walkOk s) x s → Fresh x s → s.inst[x.inst.val].wkMask = 0 →
      ∃ t, exec (.search d) s = .next t ∧ Completes d 0x10 0 s t ∧ t.searches = s.searches) ∧
    (∀ (wk : Fin 16) (n pa : Nat) (vec book code : List Byte), findItem d s = some x → x.opcode = 4 → x.stage = .running →
      Fresh x s → Calm x.inst s → x.draining = false → dfield x.raw 54 1 = 0 → dfield x.raw 48 4 = 1 →
      workOf d s = some { item := d, next := 0, done := 0, params := pd } → (∀ w ∈ s.searches, w.item = d → w.done = 0) →
      (∀ (w : Fin 16) (j : Nat), QueryKey.own d j ∉ s.wks[w.val].queries) → s.fab.queries = [] →
      engUp (.wk wk) s = true → wkServes p.wkSel x.inst wk s = true → s.wks[wk.val].queries.length < 8 →
      SearchBlocks x pd xd s → searchOk pd xd (dfield x.raw 32 8) (dfield x.raw 40 8) k false = true →
      p.fanout = false → p.rerank = false → p.nEntry = 1 → 0 < k → ReadsAs x.inst (dfield x.raw 32 8) ix.vs s vec →
      OneNode x.inst ix n book code s → MapsRange x.inst .write (dfield x.raw 40 8) (32 + 32 * k) pa s →
      TablesClear x.inst pa (32 + 32 * k) s → Memory.wf 0 s.mem.dpa = true →
      ∃ t, exec (.searchQueryStart d wk none) s = .next t ∧ Completes d 0x00 1 s t ∧ workOf d t = none ∧
        Memory.read 0 t.mem.dpa pa (32 + 32 * k) =
          leBytes 2 1 ++ [0, if 1 < k then 16 else 0] ++ leBytes 2 1 ++ leBytes 2 1 ++ leBytes 4 1 ++ leBytes 4 1 ++
            leBytes 4 ix.curGen ++ List.replicate 12 0 ++
            leBytes 16 (BitVec.ofInt 128 (detScore ix (vecNums ix ix.dim vec) book code)).toNat ++
            leBytes 6 (ix.shard * 2 ^ 32 + n) ++ List.replicate 10 0 ++ List.replicate (32 * (k - 1)) 0 ∧
        ∀ b, b < pa ∨ pa + 32 + 32 * k ≤ b → t.byte b = s.byte b) ∧
    (∀ (j pa : Nat) (m : Merge) (w : SearchWork), findItem d s = some x → x.opcode = 4 → x.stage = .running → Calm x.inst s →
      workOf d s = some w → rootOf d j s = some m → (∀ m' ∈ s.fab.merges, m'.root = some (d, j) → m' = m) →
      m.ans.shardsAns < m.shardsExp →
      (s.inst[x.inst.val].gen = x.gen → s.fab.queries = [] →
      MapsRange x.inst .write (dfield x.raw 40 8 + j * (32 + 32 * k)) (32 + 32 * k) pa s →
      TablesClear x.inst pa (32 + 32 * k) s → Memory.wf 0 s.mem.dpa = true →
        (∀ r ∈ s.halo.reqs, r.remote.isNone = true → ¬ (r.item = d ∧ r.query = j)) → dfield x.raw 54 1 = 1 →
        (paramsOf w.params).stopped x.deadline m.openedAt s = true →
        ∃ t, exec (.queryStopTime d j) s = .next t ∧ (∀ m' ∈ t.fab.merges, m'.root ≠ some (d, j)) ∧
          bit (t.byte (pa + 3)) 1 = true) ∧
      (mergeOf m.src m.req s = some m → m.openedAt + m.wait ≤ s.eph.ticks →
        ∃ t y, exec (.mergeTimeout m.src m.req) s = .next t ∧ (∀ m' ∈ t.fab.merges, m'.root ≠ some (d, j)) ∧
          findItem d t = some y ∧ y.out.fabricUnreach = true)) ∧
    (∀ (m : Merge) (u : Fin 8), mergeOf m.src m.req s = some m → m.root = none → m.up = some u →
      m.openedAt + m.wait ≤ s.eph.ticks → portInService u s = true →
      ∃ t y, exec (.mergeTimeout m.src m.req) s = .next t ∧ mergeOf m.src m.req t = none ∧ Leaves u y s t ∧ y.type = 0x28 ∧
        y.dst = m.src ∧ y.reqId = m.req) ∧
    (∀ (wk : Fin 16) (n ins pl pn pi : Nat) (r e : List Byte), StartsNext d 5 2 (walkOk s) x s → Fresh x s →
      s.inst[x.inst.val].gen = x.gen → wkServes 0 x.inst wk s = true → engUp (.wk wk) s = true → dfield x.raw 44 1 = 1 →
      dfield x.raw 40 4 = 1 → indexOk (dfield x.raw 32 8) xd = true → ix.curGen < 0xFFFFFFFF → n < ix.capacity →
      ReadsAs x.inst (dfield x.raw 32 8) 256 s xd → ReadsAs x.inst (dfield x.raw 24 8) 32 s e → imf e 0 4 = n →
      ReadsAs x.inst (ix.nodeBase + 16 * n) 16 s r → imf r 0 4 = ins → ins ≠ 0 → imf r 4 4 = 0 → imf r 8 1 % 2 = 0 →
      MapsRange x.inst .write (dfield x.raw 24 8) 32 pl s → MapsRange x.inst .write (ix.nodeBase + 16 * n) 16 pn s →
      MapsRange x.inst .write (dfield x.raw 32 8) 256 pi s →
      (∃ q, translate x.inst .read (dfield x.raw 24 8) s = (.ok q, s)) →
      (∃ q, translate x.inst .read (dfield x.raw 32 8) s = (.ok q, s)) →
      TablesClear x.inst pl 32 s → TablesClear x.inst pn 16 s → TablesClear x.inst pi 256 s → Memory.wf 0 s.mem.dpa = true →
      (pl + 32 ≤ pn ∨ pn + 16 ≤ pl) → (pl + 32 ≤ pi ∨ pi + 256 ≤ pl) → (pn + 16 ≤ pi ∨ pi + 256 ≤ pn) →
      ∃ t, exec (.indexUpdate d wk) s = .next t ∧ Completes d 0x00 1 s t ∧ t.byte (pl + 5) = 0 ∧
        Memory.read 0 t.mem.dpa pn 16 = leBytes 4 ins ++ leBytes 4 (ix.curGen + 1) ++ List.replicate 8 0 ∧
        Memory.read 0 t.mem.dpa (pi + 16) 4 = leBytes 4 (ix.curGen + 1) ∧
        ∀ b, b ≠ pl + 5 → (b < pn ∨ pn + 16 ≤ b) → (b < pi + 16 ∨ pi + 20 ≤ b) → t.byte b = s.byte b) ∧
    (∀ w : Fin 16, exec (.wkCtrClear w) s = .next { s with wks := upd s.wks w fun y => { y with cnt := Vector.replicate 9 0 } })

/-! ### The fabric -/

/-- Lanes. An up lane that goes down raises bit 0, and what it had not got acknowledged goes out on another selectable lane of
its port. A lane whose light is there and whose peer has trained comes up with sequences at 0, and a lane rejoins
selection. A message in one good data flit arrives as itself and E rises by one; the first flit that cannot be corrected, or
bubble in second position, makes the lane discard and send NAK with E, and what comes while it discards is dropped. A bad
control record does nothing; ACK drops the copies before it, credit and train records are taken over, NAK is answered with
REPLAY_START and the copies in order, and REPLAY_START with E ends discarding. The ACK timer sends ACK with E; a replay
timeout replays from the oldest copy (R449 to R461, R473, R474). -/
def Obligations.FabricLanes : Prop :=
  ∀ (s : State) (l : Fin 32), live s = true →
    let x := s.fab.lanes[l.val]
    let p := portOfLane l
    (x.up = true → ∃ t, exec (.laneDown l) s = .next t ∧ t.fab.lanes[l.val].up = false ∧ t.fab.lanes[l.val].copies = [] ∧
      bit t.fab.intStatus 0 = true ∧ t.fab.ports = s.fab.ports ∧
      ∀ k : Fin 32, k ≠ l → (((lanesUp p s).filter (· ≠ l)).find? fun k => s.fab.lanes[k.val].selectable) = some k →
        t.fab.lanes[k.val].sentMsgs.map Prod.snd = s.fab.lanes[k.val].sentMsgs.map Prod.snd ++ x.sentMsgs.map Prod.snd) ∧
    (x.up = false → exec (.laneDown l) s = .next s) ∧
    (x.up = false → bit s.fab.ports[p.val].laneEn (l.val % 4) = true → s.nuc.units[(unitPort p).val].st ≠ 3 → laneLit l s = true →
      x.peerTrained = true → x.peerMismatch = false →
      ∃ t, exec (.laneUp l) s = .next t ∧ t.fab.lanes[l.val].up = true ∧ t.fab.lanes[l.val].selectable = !x.rejoin ∧
        t.fab.lanes[l.val].rxE = 0 ∧ t.fab.lanes[l.val].txAck = 0) ∧
    (x.up = true → x.selectable = false → ∃ t, exec (.laneRejoin l) s = .next t ∧ t.fab.lanes[l.val].selectable = true ∧
      t.fab.lanes[l.val].up = true) ∧
    (∀ (f : Flit), x.up = true → flitOf 1 f.nib1 f.nib2 = false →
      (∀ m : Msg, f.fecOk = true → flitOf 0 f.nib1 f.nib2 = true → x.discarding = false → x.again = 0 → x.rx = [] → m.type ≠ 0 →
        m.length.toNat = m.payload.length → (msgUnits m).length ≤ 8 → (∀ i : Fin 8, (f.units[i.val]) = (msgUnits m).getD i.val 0) →
        ∃ t, exec (.dataFlit l f) s = .next t ∧ t.fab.lanes[l.val].rxE = x.rxE + 1 ∧ t.fab.lanes[l.val].rx = [] ∧
          t.fab.ports[p.val].inbox = s.fab.ports[p.val].inbox ++ [m]) ∧
      (f.fecOk = false → x.discarding = false →
        ∃ t, exec (.dataFlit l f) s = .next t ∧ t.fab.lanes[l.val].discarding = true ∧ t.fab.lanes[l.val].rxE = x.rxE ∧
          Sends l (fun r => { r with hasNak := true, rpSeq := x.rxE }) s t ∧
          t.fab.ports[p.val].inbox = s.fab.ports[p.val].inbox) ∧
      (x.discarding = true → ∃ t, exec (.dataFlit l f) s = .next t ∧ t.fab.lanes[l.val].rxE = x.rxE ∧ t.out = s.out ∧
        t.fab.ports[p.val].inbox = s.fab.ports[p.val].inbox)) ∧
    (∀ (n : BitVec 4) (first ahead : Bool), x.up = true → nibbleOk n = true → bits n 3 2 = 2 →
      (first = true → x.discarding = false → ∃ t, exec (.bubble l n first ahead) s = .next t ∧
        t.fab.lanes[l.val].discarding = true ∧ Sends l (fun r => { r with hasNak := true, rpSeq := x.rxE }) s t) ∧
      (first = false → ahead = true → exec (.bubble l n first ahead) s =
        .next (modLane l (fun y => { y with cnt := upd y.cnt 6 (· + 1) }) s)) ∧
      (first = false → ahead = false → exec (.bubble l n first ahead) s = .next s)) ∧
    (x.up = true → exec (.bubbleSend l) s = .next (emit (.bubble l) (modLane l (fun y => { y with flitsSinceBubble := 0 }) s))) ∧
    (∀ r : ControlRec, exec (.controlRecord l false r) s = .next s) ∧
    (∀ r : ControlRec, bit s.fab.ports[p.val].laneEn (l.val % 4) = true →
      (r.hasTrain = true → r.hasAck = false → r.hasNak = false → r.hasReplay = false → r.hasCredit = false →
        ∃ t, exec (.controlRecord l true r) s = .next t ∧ t.fab.lanes[l.val].peerTrained = true ∧
          t.fab.ports[p.val].peerNode = r.node ∧ t.fab.ports[p.val].peerEpoch = r.epoch ∧
          (t.fab.ports[p.val].peerReady = true ↔ r.state = 1 ∨ r.state = 2) ∧
          (t.fab.lanes[l.val].peerMismatch = true ↔ r.mode ≠ (s.fab.ports[p.val].mode).setWidth 8)) ∧
      (x.up = true → r.hasTrain = false → s.fab.ports[p.val].queue = [] →
        (∀ n, r.hasAck = true → r.hasNak = false → r.hasReplay = false → r.hasCredit = false → 0 < n → n < 65536 →
          r.ackSeq = x.txAck + BitVec.ofNat 16 n → n ≤ x.copies.length →
          ∃ t, exec (.controlRecord l true r) s = .next t ∧ t.fab.lanes[l.val].txAck = r.ackSeq ∧
            t.fab.lanes[l.val].copies = x.copies.drop n ∧ t.out = s.out) ∧
        (r.hasAck = false → r.hasNak = false → r.hasReplay = false → r.hasCredit = true →
          exec (.controlRecord l true r) s = .next (modPort p (fun y => { y with credit := r.credit }) s)) ∧
        (∀ n, r.hasAck = false → r.hasNak = true → r.hasCredit = false → n ≤ x.copies.length → n < 65536 →
          r.rpSeq = x.txAck + BitVec.ofNat 16 n → x.replaying ≠ some r.rpSeq →
          ∃ t, exec (.controlRecord l true r) s = .next t ∧
            t.out = s.out ++ [.control l { ctlOf l s with hasReplay := true, rpSeq := r.rpSeq }] ++
              (x.copies.drop n).map (Output.flit l) ∧ t.fab.lanes[l.val].copies = x.copies) ∧
        (r.hasAck = false → r.hasNak = false → r.hasReplay = true → r.hasCredit = false → r.rpSeq = x.rxE →
          exec (.controlRecord l true r) s = .next (modLane l (fun y => { y with discarding := false, again := 0 }) s)))) ∧
    (x.up = true → 0 < x.sinceAck → ∃ t, exec (.ackTimer l) s = .next t ∧
      t.out = s.out ++ [.control l { ctlOf l s with hasAck := true }] ∧ t.fab.lanes[l.val].sinceAck = 0) ∧
    (x.up = true → x.copies ≠ [] → (x.replaying = some x.txAck → x.storms < 7) → ∃ t, exec (.replayTimeout l) s = .next t ∧
      t.out = s.out ++ [.control l { ctlOf l s with hasReplay := true, rpSeq := x.txAck }] ++ x.copies.map (Output.flit l) ∧
      t.fab.lanes[l.val].copies = x.copies) ∧
    (x.up = true → x.copies ≠ [] → x.replaying = some x.txAck → 7 ≤ x.storms → ∃ t, exec (.replayTimeout l) s = .next t ∧
      t.fab.lanes[l.val].up = false ∧ bit t.fab.intStatus 3 = true ∧ bit t.fab.intStatus 0 = true)

/-- Requests of other nodes. A WRITE stores its payload and WACK leaves; READ answers RDATA with the bytes; LADD and LADDT add
L128 words and FADD an FP32 word, and ATM_RSP carries the old value where it is asked for and the inf indication; a SEND that
its mailbox can take is stored there under sender 0xFFFE and SACK leaves; BAR_ARRIVE joins its slot, and the last of n ends the
episode and sends each recorded core its release. Each frees its place in the receive buffer; one that carries another epoch
is refused with 4 (R267, R289, R291, R389, R461, R463, R466, R468, R474, R483). -/
def Obligations.FabricRequests : Prop :=
  ∀ (s : State) (p : Fin 8) (m : Msg), Memory.wf 0 s.mem.dpa = true →
    (∀ i, Inbound p m s → targetInst m.domain s = some i →
      (∀ pd, m.type = 0x01 → bit m.flags 0 = false → MapsRange i .write m.addr.toNat m.payload.length pd s →
        TablesClear i pd m.payload.length s →
        ∃ t, exec (.fabWrite p m) s = .next t ∧ StoredAt pd m.payload s t ∧ Responds m 0x21 0 0 0 [] s t ∧ Freed p m s t) ∧
      (∀ ps, m.type = 0x02 → MapsRange i .read m.addr.toNat (m.arg.toNat + 1) ps s →
        ∃ t, exec (.fabRead p m) s = .next t ∧ t.mem = s.mem ∧ Freed p m s t ∧
          Responds m 0x22 0 0 0 (Memory.read 0 s.mem.dpa ps (m.arg.toNat + 1)) s t) ∧
      (∀ pd, m.type = 0x03 → MapsRange i .atomic m.addr.toNat 16 pd s →
        let old := BitVec.ofNat 128 (leNat (Memory.read 0 s.mem.dpa pd 16))
        let v := BitVec.ofNat 128 (leNat m.payload)
        ∃ t, exec (.fabLadd p m) s = .next t ∧ StoredAt pd (leBytes 16 (sumL128 old v).toNat) s t ∧ Freed p m s t ∧
          Responds m 0x23 0 (if sumL128 old v = 1#128 <<< 127 then 1 else 0) 0
            (if bit m.flags 1 then Memory.read 0 s.mem.dpa pd 16 else List.replicate 16 0) s t) ∧
      (∀ pd, m.type = 0x04 → MapsRange i .atomic m.addr.toNat 4 pd s →
        ∃ t, exec (.fabFadd p m) s = .next t ∧ Freed p m s t ∧
          StoredAt pd (leBytes 4 (f32Add (leNat (Memory.read 0 s.mem.dpa pd 4)) (leNat m.payload))) s t ∧
          Responds m 0x23 0 0 0 (if bit m.flags 1 then Memory.read 0 s.mem.dpa pd 4 ++ List.replicate 12 0
            else List.replicate 16 0) s t) ∧
      (∀ pd, m.type = 0x05 → MapsRange i .atomic m.addr.toNat 4096 pd s → TablesClear i pd 4096 s →
        ∃ t, exec (.fabLaddt p m) s = .next t ∧ Freed p m s t ∧
          (∀ k < 256, Memory.read 0 t.mem.dpa (pd + 16 * k) 16 = leBytes 16
            (sumL128 (BitVec.ofNat 128 (leNat (Memory.read 0 s.mem.dpa (pd + 16 * k) 16)))
              (BitVec.ofNat 128 (leNat ((m.payload.drop (16 * k)).take 16)))).toNat) ∧
          (∀ b, b < pd ∨ pd + 4096 ≤ b → t.byte b = s.byte b) ∧ ∃ inf, Responds m 0x23 0 inf 0 (List.replicate 16 0) s t) ∧
      (∀ c, m.type = 0x06 → sendDest m s = some c → s.cores[c.val].st = .running → s.cores[c.val].stall = .none →
        let b := (s.cores[c.val].mbox[(sendBox m).val])
        b.closed = false → b.waiting = [] → (∀ r ∈ b.granted, r.src ≠ none) → mboxFill b < b.hw.toNat →
        mboxFill b + msgWords m.payload.length ≤ 64 → (∀ x ∈ s.fab.ingress, ¬ (sendDest x s = some c ∧ sendBox x = sendBox m)) →
        ∃ t, exec (.fabSend p m) s = .next t ∧ Freed p m s t ∧ Responds m 0x24 0 0 0 [] s t ∧ t.fab.ingress = s.fab.ingress ∧
          (t.cores[c.val].mbox[(sendBox m).val]).msgs = b.msgs ++ [{ sender := 0xFFFE, data := m.payload }])) ∧
    (∀ (b : Fin 64) (n : Nat), Inbound p m s → m.type = 0x07 → 2 ≤ n → n ≤ 64 → leNat m.payload = b.val + n * 65536 →
      let x := s.fab.bars[b.val]
      x.arrivals = [] ∨ x.expected.toNat = n →
      ∃ t, exec (.barArrive p m) s = .next t ∧ Freed p m s t ∧ Responds m 0x24 0 0 0 [] s t ∧
        (x.arrivals.length + 1 < n → t.fab.bars[b.val].episode = x.episode ∧ t.fab.bars[b.val].expected.toNat = n ∧
          ∃ idx, t.fab.bars[b.val].arrivals = x.arrivals ++ [{ node := m.src, partIdx := idx, mbox := m.arg, domain := m.domain }]) ∧
        (n ≤ x.arrivals.length + 1 → t.fab.bars[b.val] = { episode := x.episode + 1, expected := 0, arrivals := [] } ∧
          ∀ a ∈ x.arrivals, a.node ≠ s.fab.node → (pickPort a.node s).isSome →
            ∃ r y, Leaves r y s t ∧ y.type = 0x06 ∧ y.dst = a.node ∧ y.domain = a.domain ∧ y.arg = a.mbox ∧
              y.addr = a.partIdx.setWidth 64 ∧ y.payload = leBytes 8 (b.val + x.episode.toNat * 65536))) ∧
    (∀ (c : Fin 8 → Msg → Instr) (ty : Byte), (c, ty) ∈ [(Instr.fabWrite, 0x01), (Instr.fabRead, 0x02), (Instr.fabLadd, 0x03),
        (Instr.fabFadd, 0x04), (Instr.fabLaddt, 0x05), (Instr.fabSend, 0x06), (Instr.barArrive, 0x07)] →
      live s = true → m.type = ty → m.dst = s.fab.node → atPort p m s = true → portState p s = 2 → m.hopEpoch ≠ portEpoch p s →
      m.src ≠ s.fab.node → (pickPort m.src s).isSome → s.fab.hopLimit ≠ 1 →
      ∃ t, exec (c p m) s = .next t ∧ Freed p m s t ∧ bit t.fab.intStatus 6 = true ∧ t.fab.bars = s.fab.bars ∧
        t.cores = s.cores ∧ Responds m 0x25 0 4 (m.type.setWidth 64) [] s t)

/-- Responses, PROBE, merges and times. A response for an outstanding request of a core ends it and puts its bytes into the
entry that waits; poison raises POISON, REFUSE with a code but EPOCH, or a request that times out, FABRIC at the
instruction. A PROBE of this device that comes back is counted, one of the peer goes back; in SHADOW one is sent. A QUERY whose
group does not take it is answered empty; one that it takes goes to each port of the group in service but its own. An
ANSWER counts in its context, whose last closes it with one ANSWER upstream. A message for another node goes on with
hops one less; the coalescing WRITE of a core is sent when its time is up, or raises FABRIC where the instance may no longer
issue fabric operations (R118, R300, R465 to R472, R474, R483). -/
def Obligations.FabricResponses : Prop :=
  ∀ (s : State) (p : Fin 8) (m : Msg),
    (∀ (y : Fin 8 → Msg → Instr) (ty : Byte) (q : FabReq) (c : CoreId) (k : QueueId),
      (y, ty) ∈ [(Instr.wack, 0x21), (Instr.rdata, 0x22), (Instr.atmRsp, 0x23), (Instr.sack, 0x24)] → AtOpenPort p m s →
      m.dst = s.fab.node → m.type = ty → rspOk m = true → (s.fab.reqs.find? fun r => r.id = m.reqId) = some q →
      q.owner = .core c k → rspType q.msg.type = ty → waitsFor s.cores[c.val] q.id = true →
      (bit m.flags 0 = false →
        ∃ t, exec (y p m) s = .next t ∧ Freed p m s t ∧ t.fab.reqs = s.fab.reqs.filter (fun r => r.id ≠ q.id) ∧
          t.cores = (modCore c (fun k =>
            let k := { k with ni := fillParts q.id m.payload k.ni, arr := fillParts q.id m.payload k.arr }
            if ty = 0x23 ∧ bit m.arg 0 = true then k.metInf true else k) s).cores) ∧
      (bit m.flags 0 = true → s.cores[c.val].st = .running →
        ∃ t, exec (y p m) s = .next t ∧ t.fab.reqs = s.fab.reqs.filter (fun r => r.id ≠ q.id) ∧
          t.cores[c.val].st = .faulted ∧ t.cores[c.val].faultCause = 5 ∧ t.cores[c.val].faultAddr = q.msg.addr ∧
          t.cores[c.val].faultPc = waitPc s.cores[c.val] q.id)) ∧
    (∀ (q : FabReq) (c : CoreId) (k : QueueId), live s = true → (s.fab.reqs.find? fun r => r.id = q.id) = some q →
      q.owner = .core c k → waitsFor s.cores[c.val] q.id = true → s.cores[c.val].st = .running →
      ∀ x, x = .fabRespTimeout q.id ∨ (x = .refuse p m ∧ AtOpenPort p m s ∧ m.dst = s.fab.node ∧ m.type = 0x25 ∧
          rspOk m = true ∧ m.reqId = q.id ∧ m.arg ≠ 4) →
        ∃ t, exec x s = .next t ∧ (∀ r ∈ t.fab.reqs, r.id ≠ q.id) ∧
          (s.fab.queries = [] → t.fab.reqs = s.fab.reqs.filter (fun r => r.id ≠ q.id)) ∧ t.cores[c.val].st = .faulted ∧
          t.cores[c.val].faultCause = 11 ∧ t.cores[c.val].faultAddr = q.msg.addr ∧
          t.cores[c.val].faultPc = waitPc s.cores[c.val] q.id) ∧
    (AtOpenPort p m s → m.type = 0x09 → msgBad m = false →
      (m.src = s.fab.node → ∃ t, exec (.probe p m) s = .next t ∧ Freed p m s t ∧
        t.fab.ports[p.val].probes = s.fab.ports[p.val].probes + 1) ∧
      (m.src ≠ s.fab.node → ∃ t, exec (.probe p m) s = .next t ∧ Leaves p m s t)) ∧
    (live s = true → s.nuc.restarting = false → portState p s = 1 →
      ∃ t y, exec (.probeSend p) s = .next t ∧ Leaves p y s t ∧ y.type = 0x09 ∧ y.src = s.fab.node ∧
        y.dst = s.fab.ports[p.val].peerNode ∧ y.payload.length = 64) ∧
    (AtOpenPort p m s → m.type = 0x08 → queryBad m = false → passed m.deadline s.eph.now = false →
      (groupTakes (bits m.addr 11 0) m.domain s = false → portInService p s = true →
        ∃ t y, exec (.query p m) s = .next t ∧ t.fab.merges = s.fab.merges ∧ Leaves p y s t ∧ y.type = 0x28 ∧ y.dst = m.src ∧
          y.reqId = m.reqId ∧ y.arg = 0 ∧ y.payload.length = 32) ∧
      (groupTakes (bits m.addr 11 0) m.domain s = true → mergeOf m.src m.reqId s = none → s.fab.merges.length < 1024 →
        bit (Tab.get 0 s.fab.mcast (bits m.addr 11 0)) 30 = false →
        ∀ r : Fin 8, r ≠ p → bit (Tab.get 0 s.fab.mcast (bits m.addr 11 0)) r.val = true → portInService r s = true →
          ∃ t, exec (.query p m) s = .next t ∧ Leaves r m s t ∧ t.fab.merges.length = s.fab.merges.length + 1)) ∧
    (∀ c u, AtOpenPort p m s → m.type = 0x28 → m.length.toNat = m.payload.length → m.payload.length = 32 + 32 * imf m.payload 0 2 →
      mergeOf m.dst m.reqId s = some c → c.root = none → c.up = some u →
      (∀ q ∈ s.fab.queries, ¬ (q.src = m.dst ∧ q.reqId = m.reqId)) →
      (c.answered + 1 < c.branches →
        ∃ t c', exec (.answer p m) s = .next t ∧ mergeOf m.dst m.reqId t = some c' ∧ c'.answered = c.answered + 1) ∧
      (c.branches ≤ c.answered + 1 → portInService u s = true →
        ∃ t y, exec (.answer p m) s = .next t ∧ mergeOf m.dst m.reqId t = none ∧ Leaves u y s t ∧ y.type = 0x28 ∧
          y.dst = c.src ∧ y.reqId = c.req)) ∧
    (AtOpenPort p m s → m.dst ≠ s.fab.node → knownType m.type = true → m.type ≠ 0x08 → m.type ≠ 0x28 → m.type ≠ 0x09 →
      m.hops ≠ 1 → (pickPort m.dst s).isSome →
      ∃ t q, exec (.messageRoute p m) s = .next t ∧ Leaves q { m with hops := m.hops - 1 } s t ∧ Freed p m s t) ∧
    (∀ (c : CoreId) (w : Coalesce) (dom : Byte), live s = true → s.cores[c.val].coalesce = some w → RouteOpen c w.node dom s →
      ∃ t q y, exec (.writeCoalesceTimeout c) s = .next t ∧ t.cores[c.val].coalesce = none ∧ Leaves q y s t ∧
        y.type = 0x01 ∧ y.dst = w.node ∧ y.domain = dom ∧ y.addr = BitVec.ofNat 64 w.addr ∧ y.payload = w.data ∧
        y.reqId = w.req ∧ ∃ r ∈ t.fab.reqs, r.id = w.req ∧ r.owner = .core c .ni) ∧
    (∀ (c : CoreId) (w : Coalesce), live s = true → s.cores[c.val].coalesce = some w → domainOf (coreInst c s) s = none →
      s.cores[c.val].st = .running →
      ∃ t, exec (.writeCoalesceTimeout c) s = .next t ∧ t.cores[c.val].coalesce = none ∧ t.cores[c.val].st = .faulted ∧
        t.cores[c.val].faultCause = 11 ∧ t.cores[c.val].faultAddr = BitVec.ofNat 64 w.addr)

/-! ### The Halo die -/

/-- The HTU. An HTU_RUN with the matrix loaded and locked writes, for each vector, the clamped inputs times M, scaled, rounded,
with the analog error of each component (a free value, log entry 7) and saturated, and completes OK with its count of
vectors; no other byte changes. One that brings an image which passes its checks starts its load and waits. The end of a
load locks the HTU; re-characterisation waits while the HTU is busy or dark. A walker's request whose matrix is not loaded has
it loaded once no HTU_RUN is in progress; served, stopped by the clock, or with the HTU not locked, it leaves the queue (R359,
R427 to R432, R439, R441, R444). -/
def Obligations.HtuCommands : Prop :=
  ∀ (s : State),
    (∀ (d pi po : Nat) (x : Item), HtuStarts d x s → Memory.wf 0 s.mem.dpa = true →
      let n := dfield x.raw 48 4
      let bound := 2 ^ (dfield x.raw 52 1 - 1) - 1
      let a := dfield x.raw 24 8
      (a = 0 → s.halo.htuLoaded = true → s.halo.matrixAddr.isSome = true → s.halo.htuOwner = x.inst → s.halo.htuGen = x.gen →
        s.halo.htuLocked = true → 0 < n →
        n < 2 ^ 32 → MapsRange x.inst .read (dfield x.raw 32 8) (64 * n) pi s →
        MapsRange x.inst .write (dfield x.raw 40 8) (64 * n) po s → TablesClear x.inst po (64 * n) s →
        pi + 64 * n ≤ po ∨ po + 64 * n ≤ pi →
        ∃ t, exec (.htuRun d) s = .next t ∧ Completes d 0x00 (BitVec.ofNat 64 n) s t ∧
          (∀ k < n, Memory.read 0 t.mem.dpa (po + 64 * k) 64 = htuBytes (htuVector (imageOf s.halo.matrix) s.halo.outShift bound
            (htuInputs bound (Memory.read 0 s.mem.dpa (pi + 64 * k) 64)).1 (errStep (errAfter k (s.free, s.halo.errEnergy))).1)) ∧
          ∀ b, b < po ∨ po + 64 * n ≤ b → t.byte b = s.byte b) ∧
      (∀ img, a ≠ 0 → a % 64 = 0 → ReadsAs x.inst a 4160 s img → matrixOk img = true →
        (∀ r, (r = (.read, a) ∨ r = (.read, dfield x.raw 32 8) ∨ r = (.write, dfield x.raw 40 8)) →
          ∃ p, translate x.inst r.1 r.2 s = (.ok p, s)) →
        ∃ t, exec (.htuRun d) s = .next t ∧ t.halo.job = some { item := d, next := 0 } ∧ t.halo.loading = true ∧
          t.halo.htuLocked = false ∧ t.halo.matrix = img ∧ t.halo.outShift = shiftOf img ∧ t.halo.htuOwner = x.inst ∧
          t.mem = s.mem)) ∧
    (live s = true → s.halo.loading = true → htuLit s = true → s.halo.htuOos = false → s.halo.job = none →
      ∃ t, exec .htuMatrixLocked s = .next t ∧ t = { s with halo := t.halo } ∧ t.halo.loading = false ∧ t.halo.htuLoaded = true ∧
        t.halo.htuLocked = (if s.halo.calDone && !s.halo.calRunning then true else s.halo.htuLocked) ∧ t.halo.recharAt = none ∧
        t.halo.cnt[1] = s.halo.cnt[1] + 1 ∧ t.halo.cnt[2] = s.halo.cnt[2] + (if s.halo.recharAt.isSome then 1 else 0)) ∧
    (live s = true → s.halo.calDone = true → s.halo.htuOos = false →
      let busy := s.halo.loading || s.halo.job.isSome || s.halo.calRunning || !htuLit s
      (busy = true → ∃ t, exec .htuRecharacterise s = .next { s with halo := { s.halo with recharAt := some t } } ∧
        (s.halo.recharAt = none → t = s.eph.ticks) ∧ (s.halo.recharAt ≠ none → s.halo.recharAt = some t)) ∧
      (busy = false → exec .htuRecharacterise s =
        .next { s with halo := { s.halo with recharAt := none, cnt := upd s.halo.cnt 2 (· + 1) } })) ∧
    (∀ r, live s = true → (s.halo.reqs.find? fun r => reqStopped r s) = some r → s.fab.queries = [] →
      ∃ t, exec .htuWalkerRequest s = .next t ∧ t.halo.reqs.Sublist (s.halo.reqs.erase r) ∧ t.halo.matrix = s.halo.matrix) ∧
    (∀ r0 rest, live s = true → s.halo.reqs = r0 :: rest → s.halo.loading = false → s.fab.queries = [] →
      (∀ r ∈ s.halo.reqs, reqStopped r s = false) →
      (s.halo.htuLocked = true → s.halo.htuOos = false → unitClosed unitHtu s = false →
        (∀ img, (∀ r ∈ s.halo.reqs, isLoaded r.inst r.gen (indexOf r.index).htuMatrix s = false) → s.halo.job = none →
          s.inst[r0.inst.val].gen = r0.gen → (indexOf r0.index).htuMatrix % 64 = 0 →
          ReadsAs r0.inst (indexOf r0.index).htuMatrix 4160 s img → matrixOk img = true →
          exec .htuWalkerRequest s = .next { s with halo := { s.halo with
            htuLocked := false, loading := true, htuLoaded := false, matrix := img, outShift := shiftOf img
            matrixAddr := some (BitVec.ofNat 64 (indexOf r0.index).htuMatrix), htuOwner := r0.inst, htuGen := r0.gen } }) ∧
        (∀ r, (s.halo.reqs.find? fun r => isLoaded r.inst r.gen (indexOf r.index).htuMatrix s) = some r →
          ∃ t, exec .htuWalkerRequest s = .next t ∧ t.halo.reqs.Sublist (s.halo.reqs.erase r) ∧
            t.halo.matrix = s.halo.matrix)) ∧
      (s.halo.htuLocked = false ∨ s.halo.htuOos = true ∨ unitClosed unitHtu s = true → ∃ t, exec .htuWalkerRequest s = .next t ∧ t.halo.reqs.Sublist rest))

/-- Loops and calibration. A laser off the grid, an unlocked ring or HTU loop acquires again, a heater at its limit opens; each
sets its bit, and its lane or the HTU is down. A laser low in power, or a stuck monitor, is out of service with its resource;
20 ms without a relock take the HTU out. A loop that relocks is LOCKED. Over-temperature switches every loop and laser off;
once cooled, calibration starts; it waits for a start that is too hot or too cold; its end locks what passed, takes what
failed out of service and loads the identity matrix; a start that never comes fails everything. A ring's margin follows its
error signal, and 3.0 GHz end a laser's or ring's lock (R423 to R426, R438, R439, R443, R562, R582). -/
def Obligations.HaloLoops : Prop :=
  ∀ (s : State), haloOn s = true →
    (∀ n : Fin 32, ∃ t, exec (.laserOffGrid n) s = .next t ∧ LoopIn (laserLoop n) .acquiring s t ∧
      bit t.halo.intStatus 0 = true ∧ t.fab.lanes[n.val].up = false ∧ (n = 0 → t.halo.htuLocked = false)) ∧
    (∀ n : Fin 32, ∃ t, exec (.laserPowerLow n) s = .next t ∧ t.halo.loops[(laserLoop n).val].st = .outOfService ∧
      bit t.halo.intStatus 0 = true ∧ t.halo.laserOos = s.halo.laserOos ||| (1#32 <<< n.val) ∧
      t.halo.laserOn = s.halo.laserOn &&& ~~~(1#32 <<< n.val) ∧ t.fab.lanes[n.val].up = false) ∧
    (∀ r : Fin 64, ∃ t, exec (.ringUnlock r) s = .next t ∧ LoopIn (ringLoop r) .acquiring s t ∧ bit t.halo.intStatus 1 = true ∧
      t.fab.lanes[(ringLane r).val].up = false) ∧
    (∀ l : LoopId, ∃ t, exec (.heaterAtLimit l) s = .next t ∧ LoopIn l .opened s t ∧ bit t.halo.intStatus 2 = true ∧
      (l.val = 0 ∨ 96 ≤ l.val → t.halo.htuLocked = false) ∧ ∀ k, loopLane l = some k → t.fab.lanes[k.val].up = false) ∧
    (∀ l : LoopId, ∃ t, exec (.monitorStuck l) s = .next t ∧ t.halo.loops[l.val].st = .outOfService ∧
      bit t.halo.intStatus 3 = true ∧ (∀ k, loopLane l = some k → t.fab.lanes[k.val].up = false) ∧
      (96 ≤ l.val → t.halo.htuOos = true ∧ t.halo.htuLocked = false ∧ t.nuc.units[unitHtu.val].fence = true)) ∧
    (∀ l : LoopId, 96 ≤ l.val → ∃ t, exec (.htuLoopUnlock l) s = .next t ∧ LoopIn l .acquiring s t ∧
      bit t.halo.intStatus 4 = true ∧ t.halo.htuLocked = false) ∧
    (∀ t₀, s.halo.unlockAt = some t₀ → t₀ + usTicks 20000 ≤ s.eph.ticks → s.halo.htuOos = false → s.fab.queries = [] → ∃ t, exec .htuRelockTimeout s = .next t ∧
      t.halo.htuOos = true ∧ t.halo.htuLocked = false ∧ bit t.halo.intStatus 5 = true ∧
      t.nuc.units[unitHtu.val].fence = true ∧ t.halo.reqs = [] ∧ t.halo.job = none) ∧
    (∀ l : LoopId, s.halo.loops[l.val].st = .acquiring ∨ s.halo.loops[l.val].st = .opened → s.halo.overTemp = false →
      s.halo.calRunning = false → (l.val < 96 → s.halo.loops[l.val].error.toInt.natAbs < 3000) →
      ∃ t, exec (.loopRelock l) s = .next t ∧ LoopIn l .locked s t) ∧
    (∃ t, exec .laserOverTemp s = .next t ∧ t.halo.laserOn = 0 ∧ t.halo.htuLocked = false ∧ t.halo.overTemp = true ∧
      bit t.halo.intStatus 6 = true ∧ (∀ l : Fin 32, t.fab.lanes[l.val].up = false) ∧
      ∀ l : LoopId, t.halo.loops[l.val].st = .opened ∨ t.halo.loops[l.val].st = .outOfService) ∧
    (∀ temp : Int, s.halo.overTemp = true → temp ≤ 90 → exec (.laserCooledRecalibration temp) s =
      .next { s with halo := { s.halo with overTemp := false, calRunning := true } }) ∧
    (s.hub.stage = 3 → s.hub.cause = 0 → s.halo.calRunning = false → s.hub.haloDone = false →
      exec .calibrationStart s = .next { s with halo := { s.halo with
        calRunning := true, calWait := 90 < s.halo.laserMax.toInt || s.halo.dieTemp.toInt < -20 } }) ∧
    (∀ temp : Int, s.halo.calWait = true → -20 ≤ temp → temp ≤ 90 →
      exec (.calibrationTempReady temp) s = .next { s with halo := { s.halo with calWait := false } }) ∧
    (∀ r : CalResult, s.halo.calRunning = true → s.halo.calWait = false → ∃ t, exec (.calibrationDone r) s = .next t ∧
      t.halo.calDone = true ∧ t.halo.calRunning = false ∧ t.hub.haloDone = true ∧ t.hub.cal = r ∧
      t.halo.laserOn = ~~~(s.halo.laserOos ||| r.lasers) ∧
      t.halo.txOos = s.halo.txOos ||| r.transmitters ∧
      (∀ n : Fin 32, t.halo.loops[(laserLoop n).val].st = .locked ↔ bit r.lasers n.val = false ∧ bit s.halo.laserOos n.val = false ∧
        s.halo.loops[(laserLoop n).val].st ≠ .outOfService) ∧
      (∀ k : Fin 64, t.halo.loops[(ringLoop k).val].st = .locked ↔ bit r.rings k.val = false ∧
        s.halo.loops[(ringLoop k).val].st ≠ .outOfService) ∧
      (s.halo.htuOos = false → (r.htuOk && r.htuBias) = false → t.halo.htuOos = true ∧ t.halo.htuLocked = false) ∧
      (s.halo.htuOos = false → (r.htuOk && r.htuBias) = true → s.halo.job = none → s.halo.loading = false →
        t.halo.matrix = identityImage ∧ t.halo.outShift = 0 ∧ t.halo.matrixAddr = none ∧ t.halo.htuLoaded = true ∧
        (bit r.lasers 0 = false → bit s.halo.laserOos 0 = false → s.halo.loops[0].st ≠ .outOfService →
          (∀ l : LoopId, 96 ≤ l.val → s.halo.loops[l.val].st ≠ .outOfService) → t.halo.htuLocked = true))) ∧
    (∀ c, (c = .calibrationTempTimeout ∧ 90 < s.halo.laserMax.toInt) ∨ (c = .haloWarmupTimeout ∧ s.halo.dieTemp.toInt < -20) →
      s.halo.calWait = true → ∃ t, exec c s = .next t ∧ t.halo.calDone = true ∧ t.halo.laserOn = 0 ∧
        (s.halo.htuOos = false → t.halo.htuLocked = false) ∧ bit t.halo.intStatus 7 = true ∧ ∀ l : LoopId, t.halo.loops[l.val].st = .outOfService) ∧
    (∀ (l : LoopId) (e : BitVec 16) (v : BitVec 14), s.halo.loops[l.val].st ≠ .outOfService →
      ∃ t, exec (.heaterLoopUpdate l e v) s = .next t ∧ t.halo.loops[l.val].error = e ∧ t.halo.loops[l.val].drive = v ∧
        t.halo.loops[l.val].st = (if s.halo.loops[l.val].st = .locked ∧ l.val < 96 ∧ 3000 ≤ e.toInt.natAbs then .acquiring
          else s.halo.loops[l.val].st) ∧ (∀ k : LoopId, k ≠ l → t.halo.loops[k.val] = s.halo.loops[k.val]) ∧
        ∀ lim, 32 ≤ l.val → l.val < 96 → lim = (if loopMode l s = 2 then 900 else 1250) →
          t.halo.loops[l.val].margin.toNat = (lim - min lim e.toInt.natAbs) * 100 / lim)

/-! ### The sample port -/

/-- CAPTURE and the sample port. A CAPTURE of an instance that holds the port is armed by its release; one whose deadline passes
first is shed. The head's window opens at its release and closes at its deadline, when what the packer holds becomes its last
word. A beat puts the rising and falling bit of each enabled lane into the packer, in lane order; with 4,096 words stored it
is lost, counted, and SP_LOSS_N falls. The oldest word is written behind the header, 64 bytes; then the header is, and
the CAPTURE completes with the bytes taken. A flush discards what is stored; lost pointers are counted besides. Watermarks
are taken if lw lies below hw, else ignored. Loss of SP_CLK marks the open window
(R489 to R501, R506, R510, R513, R515). -/
def Obligations.SamplePort : Prop :=
  ∀ (s : State), live s = true →
    (∀ (d : Nat) (x : Item), findItem d s = some x → x.opcode = 7 → x.stage = .ready → engUp .sp s = true → capNext x s = true →
      Calm x.inst s →
      (s.inst[x.inst.val].spEn = true → unitClosed unitSp s = false → s.sp.armed.length < 4 → s.sp.window = none →
        (∃ p, translate x.inst .write (capBuf x) s = (.ok p, s)) →
        (∀ e ∈ s.sp.armed, let r := (rtsField x.release).getD s.eph.now; e.2.toNat < r.toNat ∨ (e.2 = r ∧ e.1 < d)) →
        ∃ t, exec (.capture d) s = .next t ∧ findItem d t = some { x with stage := .running, startAt := s.eph.ticks, started := true } ∧
          t.sp = { s.sp with armed := s.sp.armed ++ [(d, (rtsField x.release).getD s.eph.now)] }) ∧
      (s.inst[x.inst.val].spEn = false → Fresh x s → ∃ t, exec (.capture d) s = .next t ∧ Completes d 0x10 x.result s t ∧ t.sp = s.sp)) ∧
    (∀ (d : Nat) (x : Item), findItem d s = some x → x.opcode = 7 → x.out = {} → x.resetHead = none → passed x.deadline s.eph.now = true →
      (x.stage = .ready ∨ (x.stage = .running ∧ (∃ e ∈ s.sp.armed, e.1 = d) ∧ ∀ w, s.sp.window = some w → w.item ≠ d)) →
      ∃ t, exec (.captureShed d) s = .next t ∧ Completes d 0x08 x.result s t ∧ bit t.sp.intStatus 1 = true ∧
        t.sp.armed = s.sp.armed.filter (fun e => e.1 ≠ d)) ∧
    (∀ (d : Nat) (r : Rts) (rest : List (Nat × Rts)) (x : Item) (frm : Bool), s.sp.window = none → s.sp.armed = (d, r) :: rest →
      findItem d s = some x → s.sp.enable = true → r.toNat ≤ s.eph.now.toNat → (x.deadline = 0 ∨ reached x.deadline s.eph.now = false) →
      (s.sp.align = false ∨ (frm = true ∧ s.sp.lastFrm = false) ∨ d ∈ s.sp.frmSeen) →
      ∃ w, exec (.windowOpen frm) s = .next { s with sp := { s.sp with window := some w } } ∧ w.item = d ∧ w.bits = 0 ∧ w.lost = 0 ∧
        (bit w.flags 0 = true ↔ r ≠ s.eph.now) ∧ (bit w.flags 6 = true ↔ s.sp.align = true ∧ frm = true ∧ s.sp.lastFrm = false)) ∧
    (∀ (w : Window) (x : Item), s.sp.window = some w → findItem w.item s = some x →
      (x.deadline ≠ 0 → reached x.deadline s.eph.now = true →
        ∃ t v, exec .windowClose s = .next t ∧ t.sp.window = none ∧ t.sp.closing = s.sp.closing ++ [v] ∧ t.sp.partialBits = [] ∧
          (s.sp.partialBits = [] ∨ s.sp.words.length < 4096 → v = w) ∧
          (s.sp.partialBits ≠ [] → 4096 ≤ s.sp.words.length → t.sp.words = s.sp.words ∧ v.lost = satInc w.lost ∧
            v.bits = w.bits - s.sp.partialBits.length ∧ bit v.flags 2 = true) ∧
          (s.sp.partialBits ≠ [] → s.sp.words.length < 4096 → t.sp.words = s.sp.words ++ [(w.item, packBits s.sp.partialBits)]) ∧
          (s.sp.partialBits = [] → t.sp.words = s.sp.words)) ∧
      (s.sp.clkPresent = true → ∃ t, exec .spClkLoss s = .next t ∧ t.sp.clkPresent = false ∧ bit t.sp.intStatus 4 = true ∧
        (x.deadline = 0 → ∃ v, t.sp.window = some v ∧ v.bits = w.bits ∧ bit v.flags 3 = true)) ∧
      (∀ rise fall frm, s.sp.enable = true → (x.deadline = 0 ∨ reached x.deadline s.eph.now = false) →
        let b := (List.range 16).flatMap fun i => if bit (capLanes x) i then [bit rise i, bit fall i] else []
        (s.sp.words.length < 4096 → capWrap x = true ∨ w.bits + b.length < 8 * capRegion x →
          ∃ t v, exec (.sampleBeat rise fall frm) s = .next t ∧ t.sp.window = some v ∧ v.bits = w.bits + b.length ∧ v.lost = w.lost ∧
            v.lastRts = s.eph.now ∧ t.sp.cnt[0] = s.sp.cnt[0] + 1 ∧ t.sp.lastFrm = frm ∧
            (s.sp.partialBits.length + b.length < 512 → t.sp.partialBits = s.sp.partialBits ++ b ∧ t.sp.words = s.sp.words) ∧
            (512 ≤ s.sp.partialBits.length + b.length →
              t.sp.words = s.sp.words ++ [(w.item, packBits ((s.sp.partialBits ++ b).take 512))] ∧
              t.sp.partialBits = (s.sp.partialBits ++ b).drop 512)) ∧
        (4096 ≤ s.sp.words.length → capWrap x = true ∨ w.bits + b.length < 8 * capRegion x →
          ∃ t v, exec (.sampleBeat rise fall frm) s = .next t ∧ t.sp.window = some v ∧ v.bits = w.bits ∧ v.lost = satInc w.lost ∧
            bit v.flags 2 = true ∧ t.sp.lossN = false ∧ t.sp.words = s.sp.words ∧ bit t.sp.intStatus 3 = true))) ∧
    (∀ (d : Nat) (bytes : List Byte) (rest : List (Nat × List Byte)) (w : Window) (x : Item) (pa : Nat),
      s.sp.words = (d, bytes) :: rest → windowOf d s = some w → findItem d s = some x → bytes.length ≤ 64 →
      s.inst[x.inst.val].gen = x.gen →
      MapsRange x.inst .write (capBuf x + 64 + (if capWrap x then w.written % capRegion x else w.written)) 64 pa s → TablesClear x.inst pa 64 s →
      Memory.wf 0 s.mem.dpa = true →
      ∃ t v, exec .captureWordDrain s = .next t ∧ StoredAt pa (bytes ++ List.replicate (64 - bytes.length) 0) s t ∧
        t.sp.words = rest ∧ windowOf d t = some v ∧ v.written = w.written + bytes.length) ∧
    (∀ (w : Window) (rest : List Window) (x : Item) (pa : Nat), s.sp.closing = w :: rest → (∀ e ∈ s.sp.words, e.1 ≠ w.item) →
      findItem w.item s = some x → x.opcode = 7 → x.stage = .running → x.out = {} → x.resetHead = none → Calm x.inst s →
      s.inst[x.inst.val].gen = x.gen → MapsRange x.inst .write (capBuf x) 64 pa s → TablesClear x.inst pa 64 s →
      Memory.wf 0 s.mem.dpa = true →
      let n := (w.bits + 7) / 8
      ∃ t, exec .captureHeaderWrite s = .next t ∧ Completes w.item 0x00 (BitVec.ofNat 64 n) s t ∧
        StoredAt pa (leBytes 8 w.firstRts.toNat ++ leBytes 8 w.lastRts.toNat ++ leBytes 8 n ++
          leBytes 4 (if capWrap x then n % capRegion x else n) ++ leBytes 4 w.lost.toNat ++ leBytes 2 (capLanes x).toNat ++
          [w.flags ||| (if capWrap x && capRegion x < n then 128 else 0), BitVec.ofNat 8 (if w.bits = 0 then 0 else (w.bits - 1) % 8 + 1)] ++ List.replicate 28 0) s t) ∧
    (∃ t, exec .spFlush s = .next t ∧ t.sp.words = [] ∧ t.sp.partialBits = [] ∧
      (∀ w x, s.sp.window = some w → findItem w.item s = some x →
        ∃ v, t.sp.window = some v ∧ v.bits = 8 * w.written ∧ bit v.flags 5 = true)) ∧
    (∃ t, exec .qblockPtrMismatch s = .next t ∧ t.sp.words = [] ∧ t.sp.partialBits = [] ∧ t.sp.cnt[3] = s.sp.cnt[3] + 1 ∧
      bit t.sp.intStatus 2 = true) ∧
    (∀ v : Word, (bits v 12 0 < bits v 28 16 →
        ∃ t, exec (.spQbCfgWrite v) s = .next t ∧ t.sp.hw.toNat = bits v 28 16 ∧ t.sp.lw.toNat = bits v 12 0 ∧
          t.sp.words = s.sp.words) ∧
      (bits v 28 16 ≤ bits v 12 0 → exec (.spQbCfgWrite v) s = .next s))

/-! ### Memory, Tide and the clocks -/

/-- Upkeep of memory. A scrub of a clean line only moves on; a correctable error it finds is corrected and counted, an
uncorrectable one poisons its line and is counted with its address. The walk for owners logs a finding to the one instance that
maps the line, with the IVA, in the form of an entry. A retrain that succeeds clears the count of failures, the third failure
in a row takes the channel out; ZQ calibration changes nothing (R384, R387, R391 to R393, R417, R534). -/
def Obligations.MemoryUpkeep : Prop :=
  ∀ (s : State), live s = true →
    (∀ (pool : Bool) (a : Nat), (if pool then s.mem.dpEn else s.mem.lpEn && s.mem.lp5xPresent) = true →
      a = (if pool then poolLine s.mem.dpPos else s.mem.lpPos * 64) → channelOut s a = false → a / 64 ∉ s.mem.poisoned →
      let moved (m : Mem) : Mem :=
        if pool then { m with dpPos := (m.dpPos + 1) % 6291456 }
        else if m.lpPos + 1 < lpCapacity s / 64 then { m with lpPos := m.lpPos + 1 }
        else { m with lpPos := 0, passes := m.passes + 1 }
      ((∀ e ∈ s.mem.latent, e.1 ≠ a / 64) → exec (.scrubRead pool none) s = .next { s with mem := moved s.mem }) ∧
      (∀ unc, (s.mem.latent.find? fun e => e.1 = a / 64) = some (a / 64, unc) →
        (unc = false → exec (.scrubRead pool none) s = .next { s with mem := moved { s.mem with
          latent := s.mem.latent.filter fun e => e.1 ≠ a / 64, ceCount := satInc s.mem.ceCount } }) ∧
        (unc = true → ∃ t, exec (.scrubRead pool none) s = .next t ∧ a / 64 ∈ t.mem.poisoned ∧
          t.mem.ueCount = satInc s.mem.ueCount ∧ t.mem.lastUe = BitVec.ofNat 64 a ∧ (a / 64, true) ∈ t.mem.found)) ∧
      (∀ e, exec (.scrubRead pool (some e)) s = exec (.scrubRead pool none) (upset (some e) s))) ∧
    (∀ (line pl : Nat) (scrub : Bool) (i : InstId) (f : Leaf), s.mem.found = [(line, scrub)] → s.nuc.restarting = false →
      (∀ j : InstId, s.mtu[j.val].enable = true ↔ j = i) → tableBadLines s.mtu[i.val] s = [] →
      (tableLeaves s.mtu[i.val] s).filter (fun f => f.dpa ≤ line * 64 ∧ line * 64 < f.dpa + f.size) = [f] →
      s.nuc.logs[i.val].enable = true → MapsRange i .write (logSlot s.nuc.logs[i.val]) 32 pl s → Memory.wf 0 s.mem.dpa = true →
      ∃ t, exec (.poisonOwnerWalk line) s = .next t ∧ t.mem.found = [] ∧
        StoredAt pl (logEntry s s.nuc.logs[i.val].seq (if scrub then 0x0501 else 0x0500) i.val
          (f.iva + (line * 64 - f.dpa)) 0 0xFFFF) s t ∧
        (s.nuc.logs[i.val].seq ≠ 0xFFFFFFFF → t.nuc.logs[i.val].seq = s.nuc.logs[i.val].seq + 1)) ∧
    (∀ ch : Fin 4, s.mem.lp5xPresent = true → s.nuc.units[(unitLp ch).val].st ≠ 3 →
      exec (.lp5xRetrain ch true) s = .next { s with mem := { s.mem with retrainFail := upd s.mem.retrainFail ch fun _ => 0 } } ∧
      (∃ t, exec (.lp5xRetrain ch false) s = .next t ∧ t.mem.retrainFail[ch.val] = satInc s.mem.retrainFail[ch.val] ∧
        (s.mem.retrainFail[ch.val] = 2 → t.nuc.units[(unitLp ch).val].fence = true ∧
          (s.nuc.restarting = false → t.nuc.units[(unitLp ch).val].st = 3 ∧ t.nuc.units[(unitLp ch).val].cause = 2)) ∧
        (s.mem.retrainFail[ch.val].toNat < 2 → t.nuc.units = s.nuc.units)) ∧
      exec (.zqCalibration ch) s = .next s)

/-- Tide and CK_CORE. In each window a die whose loops hold has effective cap 0 for 20 ms and 0.5 W/ms after; otherwise its cap
is the configured one, the lower for 64QAM, halved below the upper margin and at most 0.5 W/ms below the lower. A window in
which a die's power moves by more than its cap, 1 mW for each 0.1 W/ms, counts once. A laser junction at 92 °C begins the
reduction, 2 W of every target in 10 ms, 90 °C ends it. A lower rate is taken at once and its voltage
commanded, a higher one waits for its voltage; the interpolation of R571 gives 0.60 V, 0.68 V, 0.75 V and 0.80 V at its
points. A regulator that times out leaves clock and voltage as they were; PM_ALERT logs each of four rails
(R434 to R436, R442, R446, R571, R585). -/
def Obligations.TideAndClocks : Prop :=
  ∀ (s : State),
    (∀ power busy, haloOn s = true →
      let base := if ∃ p : Fin 8, s.fab.ports[p.val].mode = 2 then min (min 100 s.tide.cap.toNat) (min 100 s.tide.cap64.toNat)
        else min 100 s.tide.cap.toNat
      let halves (x : TideDie) : Nat := 2 * x.effCap.toNat + b2n x.effHalf
      let broken := s.tide.enable = true ∧ s.tide.sums ≠ [] ∧ ∃ d : Fin 4,
        halves s.tide.die[d.val] < 2 * ((power[d.val].toNat : Int) - s.tide.die[d.val].power.toNat).natAbs
      ∃ t, exec (.tideWindow power busy) s = .next t ∧
      (∀ d : Fin 4, t.tide.die[d.val].power = power[d.val] ∧
        (loopHold s = true → s.tide.die[d.val].holdOver = false → halves t.tide.die[d.val] = 0 ∧ t.tide.die[d.val].hold = true) ∧
        (loopHold s = true → s.tide.die[d.val].holdOver = true → halves t.tide.die[d.val] = 10 ∧ t.tide.die[d.val].hold = false) ∧
        (loopHold s = false → t.tide.die[d.val].hold = false ∧ t.tide.die[d.val].holdOver = false ∧
          halves t.tide.die[d.val] =
            if marginBelow s.tide.lo s then min base 10 else if marginBelow s.tide.hi s then base else 2 * base) ∧
        ((busy[d.val] = false ∨ s.tide.enable = false) → t.tide.die[d.val].duty = 0) ∧
        ((busy[d.val] = true ∨ s.tide.enable = false) → t.tide.die[d.val].ballast = false) ∧
        ((s.tide.thermal = false ∧ 92 ≤ s.halo.laserMax.toInt) ∨
            (s.tide.thermal = true ∧ 90 < s.halo.laserMax.toInt ∧ s.tide.thermalAt + usTicks 10000 ≤ s.eph.ticks) →
          s.tide.die[d.val].lowered + 2000 ≤ t.tide.die[d.val].lowered)) ∧
      (broken → t.tide.viol = s.tide.viol + 1 ∧ bit t.tide.intStatus 0 = true) ∧ (¬ broken → t.tide.viol = s.tide.viol) ∧
      (92 ≤ s.halo.laserMax.toInt → t.tide.thermal = true) ∧ (s.halo.laserMax.toInt ≤ 90 → t.tide.thermal = false) ∧
      (s.tide.thermal = false → 92 ≤ s.halo.laserMax.toInt → bit t.tide.intStatus 3 = true)) ∧
    (∀ d : Fin 4, haloOn s = true → s.tide.die[d.val].hold = true → s.tide.die[d.val].holdAt + usTicks 20000 ≤ s.eph.ticks → ∃ t, exec (.tideHoldTimeout d) s = .next t ∧
      t.tide.die[d.val].hold = false ∧ t.tide.die[d.val].effCap = 5 ∧ t.tide.die[d.val].effHalf = false ∧ t.tide.die[d.val].holdOver = true ∧
      bit t.tide.intStatus 2 = true) ∧
    (∀ (d : Fin 4) (mhz : Nat), live s = true → 600 ≤ mhz → mhz ≤ 1500 → s.dies[d.val].change = none → s.dies[d.val].hot = false →
      (mhz < s.dies[d.val].mhz → exec (.dvfsChange d mhz) s =
        .next (emit (.vout d (voltOf mhz)) (modDie d (fun y => { y with change := some (mhz, voltOf mhz), mhz := mhz }) s))) ∧
      (s.dies[d.val].mhz < mhz → exec (.dvfsChange d mhz) s =
        .next (emit (.vout d (voltOf mhz)) (modDie d (fun y => { y with change := some (mhz, voltOf mhz) }) s)))) ∧
    (voltOf 600 = 15 * 600 ∧ voltOf 1000 = 15 * 680 ∧ voltOf 1350 = 15 * 750 ∧ voltOf 1500 = 15 * 800) ∧
    (∀ (d : Fin 4) mhz v, live s = true → s.dies[d.val].change = some (mhz, v) →
      exec (.dvfsVoltageReached d) s = .next (modDie d (fun y => { y with mhz := mhz, v15 := v, change := none }) s) ∧
      ∃ t, exec (.regulatorTimeout d) s = .next t ∧ t.dies[d.val].change = none ∧ t.dies[d.val].mhz = s.dies[d.val].mhz ∧
        t.dies[d.val].v15 = s.dies[d.val].v15) ∧
    (∀ pl : Nat, live s = true → s.nuc.logs[0].enable = true → s.nuc.logs[0].seq.toNat < 2 ^ 32 - 4 → Memory.wf 0 s.mem.dpa = true →
      0 < s.nuc.logs[0].seq.toNat → (s.nuc.logs[0].seq.toNat - 1) % 2 ^ s.nuc.logs[0].log2.toNat + 4 ≤ 2 ^ s.nuc.logs[0].log2.toNat →
      MapsRange 0 .write (logSlot s.nuc.logs[0]) 128 pl s → TablesClear 0 pl 128 s →
      ∃ t, exec .pmAlert s = .next t ∧ t.nuc.logs[0].seq = s.nuc.logs[0].seq + 4 ∧
        StoredAt pl ((List.range 4).flatMap fun k => logBytes s (s.nuc.logs[0].seq + BitVec.ofNat 32 k) 0x0A03 0xFF 0 0 0xFFFF) s t)

/-! ### Nucleus -/

/-- Commands to Nucleus. UNIT_QUERY answers the unit's state word and changes no unit. UNIT_SET with the unit's epoch sets its
state and closes tbl, leaves the fence as it is, and answers once the unit is idle: at once, at the end of its work, or with
TIMEOUT; force ends a core's work with UNIT. Another epoch is EPOCH_STALE. UNIT_RECONCILE closes the fence too, or starts the
check for a unit in SHADOW; the check opens both bits, or leaves QUARANTINE with CHECK_FAIL. TOD_LOAD arms its time; ATTEST
and FW_INFO answer with what they carry. A unit that does not exist is BAD_UNIT, a length outside its row BAD_CMD; while Nucleus
restarts, SMBus is answered BUSY; a mailbox command while one is in hand sets overrun. A host write of a port's target to
QUARANTINE is a UNIT_SET (R518 to R521, R523, R527 to R531, R537, R542). -/
def Obligations.NucleusCommands : Prop :=
  ∀ (s : State) (path : CmdPath) (q : NucReq) (u : Fin 622),
    (Serves path s →
      (UnitRequest q 1 u.val [] → ∃ t, exec (.unitQuery path q) s = .next t ∧ Answers path q 0 (leBytes 4 (unitWord u s).toNat) t ∧
        t.nuc.units = s.nuc.units) ∧
      (∀ n, UnitRequest q 1 n [] → 622 ≤ n → ∃ t, exec (.unitQuery path q) s = .next t ∧ Answers path q 2 [] t ∧
        t.nuc.units = s.nuc.units) ∧
      (q.opcode = 1 → q.length ≠ 2 → ∃ t, exec (.unitQuery path q) s = .next t ∧ Answers path q 1 [] t ∧
        t.nuc.units = s.nuc.units) ∧
      (MayChange path s →
        (∀ (c : CoreId) (ep : Byte) (force : Bool), u = unitCore c →
          (∀ st : BitVec 2, UnitRequest q 2 u.val [st.setWidth 8, ep, if force then 1 else 0] →
            (ep = s.nuc.units[u.val].epoch → (st = 2 ∨ st = 3 ∨ (st = 1 ∧ s.nuc.units[u.val].st = 2)) →
              ∃ t, exec (.unitSet path q) s = .next t ∧ t.nuc.units[u.val].st = st ∧ t.nuc.units[u.val].tbl = true ∧
                t.nuc.units[u.val].fence = s.nuc.units[u.val].fence ∧
                (st = 1 → t.nuc.units[u.val].epoch = s.nuc.units[u.val].epoch + 1) ∧
                (s.cores[c.val].st ≠ .running → Answers path q 0 (leBytes 4 (unitWord u t).toNat) t ∧ t.nuc.job = none) ∧
                (s.cores[c.val].st = .running → force = true → t.cores[c.val].st = .faulted ∧ t.cores[c.val].faultCause = 10 ∧
                  Answers path q 0 (leBytes 4 (unitWord u t).toNat) t) ∧
                (s.cores[c.val].st = .running → force = false → t.nuc.units[u.val].draining = true ∧
                  t.nuc.job = some { src := .path path, req := q, unit := u })) ∧
            (ep ≠ s.nuc.units[u.val].epoch → (st = 1 ∨ st = 2 ∨ st = 3) →
              ∃ t, exec (.unitSet path q) s = .next t ∧ Answers path q 4 (leBytes 4 (unitWord u s).toNat) t ∧
                t.nuc.units = s.nuc.units)) ∧
          (∀ st : BitVec 2, UnitRequest q 3 u.val [st.setWidth 8, ep] → ep = s.nuc.units[u.val].epoch →
            (st ≠ 0 → ∃ t, exec (.unitReconcile path q) s = .next t ∧ t.nuc.units[u.val].st = st ∧
              t.nuc.units[u.val].tbl = true ∧ t.nuc.units[u.val].fence = true ∧ t.nuc.units[u.val].mismatch = false ∧
              Answers path q 0 (leBytes 4 (unitWord u t).toNat) t) ∧
            (st = 0 → s.nuc.units[u.val].st = 1 → ∃ t, exec (.unitReconcile path q) s = .next t ∧ t.nuc.units = s.nuc.units ∧
              t.nuc.job = some { src := .path path, req := q, unit := u }) ∧
            (st = 0 → s.nuc.units[u.val].st = 2 → ∃ t, exec (.unitReconcile path q) s = .next t ∧ t.nuc.units = s.nuc.units ∧
              Answers path q 3 (leBytes 4 (unitWord u s).toNat) t))) ∧
        (q.opcode = 4 → q.length = 8 → 8 ≤ q.body.length → (path = .smbus → s.eph.cfgLock = false) →
          ∃ t, exec (.todLoad path q) s = .next t ∧ t.eph = { s.eph with todNext := BitVec.ofNat 64 (leNat (q.body.take 8))
                                                                         todPending := true } ∧
            Answers path q 0 (leBytes 4 (ephStatus t.eph).toNat) t)) ∧
      (q.opcode = 5 → q.length.toNat ≤ 4088 → ∃ t, exec (.attest path q) s = .next t ∧
        Answers path q 0 (spdmServe (spdmRead (q.body.take q.length.toNat)) s.nuc.spdmStep).1 t ∧
        t.nuc.spdmStep = (spdmServe (spdmRead (q.body.take q.length.toNat)) s.nuc.spdmStep).2) ∧
      (q.opcode = 6 → q.length = 0 → ∃ t, exec (.fwInfo path q) s = .next t ∧
        Answers path q 0 (leBytes 4 Config.fwVersion.toNat ++ leBytes 48 Config.fwDigest.toNat) t)) ∧
    (∀ j c, s.nuc.job = some j → j.src = .path path → j.unit = unitCore c → s.hub.ready = true → s.hub.rstN = true →
      s.nuc.restarting = false → s.nuc.waiting = [] →
      (j.req.opcode = 2 →
        (s.cores[c.val].st ≠ .running → ∃ t, exec .unitSetDrainDone s = .next t ∧ t.nuc.job = none ∧
          t.nuc.units[j.unit.val].draining = false ∧ Answers path j.req 0 (leBytes 4 (unitWord j.unit t).toNat) t) ∧
        (∃ t, exec .unitSetTimeout s = .next t ∧ t.nuc.job = none ∧ t.nuc.units[j.unit.val].draining = false ∧
          Answers path j.req 6 (leBytes 4 (unitWord j.unit t).toNat) t)) ∧
      (j.req.opcode = 3 → j.failed = false →
        (∃ t, exec (.reconcileCheckDone true) s = .next t ∧ t.nuc.job = none ∧ t.nuc.units[j.unit.val].st = 0 ∧
          t.nuc.units[j.unit.val].fence = false ∧ t.nuc.units[j.unit.val].tbl = false ∧
          Answers path j.req 0 (leBytes 4 (unitWord j.unit t).toNat) t) ∧
        (∃ t, exec (.reconcileCheckDone false) s = .next t ∧ t.nuc.job = none ∧ t.nuc.units[j.unit.val].st = 2 ∧
          t.nuc.units[j.unit.val].fence = true ∧ t.nuc.units[j.unit.val].tbl = true ∧
          Answers path j.req 5 (leBytes 4 (unitWord j.unit t).toNat) t))) ∧
    (∀ y op, (y, op) ∈ [(Instr.unitQuery, 1), (Instr.unitSet, 2), (Instr.unitReconcile, 3), (Instr.todLoad, 4), (Instr.attest, 5),
        (Instr.fwInfo, 6)] → q.opcode.toNat = op →
      (live s = true → s.nuc.busy = true → exec (y .mailbox q) s = .next { s with nuc := { s.nuc with overrun := true } }) ∧
      (s.hub.ready = true → s.hub.rstN = true → s.nuc.restarting = true →
        exec (y .smbus q) s = .next (emit (.nuc .smbus q.opcode q.seq 7 []) s))) ∧
    (∀ (p : Fin 8) (v : Word), Serves .mailbox s → bits v 29 28 = 0 →
      ∃ t, exec (.portTargetWrite p v) s = .next t ∧ t.fab.ports[p.val].target = 0 ∧
        t.fab.ports[p.val].laneEn.toNat = bits v 23 20 ∧ t.nuc.units[(unitPort p).val].st = 2 ∧
        t.nuc.units[(unitPort p).val].tbl = true ∧ t.nuc.units[(unitPort p).val].fence = s.nuc.units[(unitPort p).val].fence)

/-- Faults, audit, sensors, logs and the standard protocols. A reported fault closes the unit's fence, and its entry is OUT once
Nucleus takes the report. A bit found wrong sets the mismatch, which the audit mends for a unit that is not in service. A
sensor's reading sets its warn and crit bits by its thresholds, and a critical junction drives THERM_N. The log timer signals
what was suppressed, a log is enabled with 64 to 65,536 entries or refused, and starts at 1. A watchdog expiry restarts Nucleus,
a second within 10 s is FATAL; after restart the waiting reports are taken. MCTP, PLDM and SPDM requests are answered
(layouts of the standards: log entry 8) (R518, R525, R526, R532 to R537, R541 to R543, R578). -/
def Obligations.NucleusUpkeep : Prop :=
  ∀ (s : State),
    (∀ (u : Fin 622) (cause : Byte), live s = true → u.val < 576 → ∃ t, exec (.unitFault u cause) s = .next t ∧
      t.nuc.units[u.val].fence = true ∧ (∀ v : Fin 622, v ≠ u → t.nuc.units[v.val] = s.nuc.units[v.val]) ∧
      (s.nuc.restarting = false → t.nuc.units[u.val].st = 3 ∧ t.nuc.units[u.val].tbl = true ∧ t.nuc.units[u.val].cause = cause ∧
        t.nuc.units[u.val].faults = satInc s.nuc.units[u.val].faults) ∧
      (s.nuc.restarting = true → t.nuc.pendFaults = s.nuc.pendFaults ++ [(u, cause)] ∧
        t.nuc.units[u.val].st = s.nuc.units[u.val].st)) ∧
    (∀ (u : Fin 622) (b : Bool), live s = true → s.nuc.units[u.val].fence = !b → s.nuc.units[u.val].tbl = !b →
      s.nuc.pendFaults = [] → s.nuc.units[u.val].mismatch = false →
      ∃ t, exec (.stateMismatch u b) s = .next t ∧ t.nuc.units[u.val].fence = b ∧ t.nuc.units[u.val].mismatch = true ∧
        t.nuc.mmValid = true ∧ t.nuc.mmUnit.toNat = u.val ∧ t.nuc.mmCount = satInc s.nuc.mmCount) ∧
    (s.hub.ready = true → s.hub.rstN = true → s.nuc.restarting = false → ∃ t, exec .nucleusAudit s = .next t ∧
      ∀ u : Fin 622, s.nuc.units[u.val].bySet = false →
        (s.nuc.units[u.val].st ≠ 0 → t.nuc.units[u.val].fence = true ∧ t.nuc.units[u.val].tbl = true) ∧
        (s.nuc.units[u.val].st = 0 → (t.nuc.units[u.val].mismatch = true ↔ s.nuc.units[u.val].mismatch = true ∨
          s.nuc.units[u.val].fence = true ∨ s.nuc.units[u.val].tbl = true))) ∧
    (∀ (k : Fin 32) (v : BitVec 16) (w c : Int), s.hub.rstN = true → s.hub.stage0 = true → s.nuc.restarting = false →
      limitsOf k.val = some (w, c) → ∃ t, exec (.sensorSample k v) s = .next t ∧ t.nuc.sens[k.val] = v ∧
        (bit t.nuc.sensWarn k.val = true ↔ w ≤ v.toInt) ∧ (bit t.nuc.sensCrit k.val = true ↔ c ≤ v.toInt) ∧
        (k.val < 7 → c ≤ v.toInt → t.hub.therm = true) ∧ (k.val < 4 → c ≤ v.toInt → t.dies[k.val]?.map (·.mhz) = some 600 ∨
          ∃ d : Fin 4, d.val = k.val ∧ s.dies[d.val].mhz < 600)) ∧
    (∀ i : InstId, live s = true → s.nuc.logs[i.val].quiet = true →
      (s.nuc.logs[i.val].suppressed = false →
        exec (.logIrqTimer i) s = .next (modLog i (fun r => { r with quiet := false }) s)) ∧
      (s.nuc.logs[i.val].suppressed = true → VectorOpen i s.nuc.logs[i.val].vector s → exec (.logIrqTimer i) s =
        .next (emit (.msix i s.nuc.logs[i.val].vector) (modLog i (fun r => { r with suppressed := false }) s)))) ∧
    (∀ (i : InstId) (v : Word), live s = true → bit v 31 = true → s.nuc.logs[i.val].enable = false → s.hub.unlogged = [] →
      (6 ≤ bits v 4 0 ∧ bits v 4 0 ≤ 16 → exec (.errLogEnable i v) s = .next (modLog i (fun r => { r with
        vector := Fin.ofNat 32 (bits v 20 16), log2 := BitVec.ofNat 5 (bits v 4 0), enable := true, seq := 1 }) s)) ∧
      (bits v 4 0 < 6 ∨ 16 < bits v 4 0 → exec (.errLogEnable i v) s = .next (modLog i (fun r => { r with
        vector := Fin.ofNat 32 (bits v 20 16), log2 := BitVec.ofNat 5 (bits v 4 0), enable := false, cfgInvalid := true }) s))) ∧
    (s.hub.ready = true → s.hub.rstN = true → s.nuc.fatal = false → ∃ t, exec .nucleusWatchdog s = .next t ∧
      t.nuc.restarting = true ∧ t.nuc.ready = false ∧ t.nuc.lastExpiry = some s.eph.ticks ∧ t.nuc.units = s.nuc.units ∧
      ((∀ l, s.nuc.lastExpiry = some l → l + 10 * 245760000 < s.eph.ticks) → t.nuc.fatal = false) ∧
      (∀ l, s.nuc.lastExpiry = some l → s.eph.ticks ≤ l + 10 * 245760000 → t.nuc.fatal = true ∧
        Output.aer .uncorrectableInternal ∈ t.out)) ∧
    (s.hub.ready = true → s.hub.rstN = true → s.nuc.restarting = true → s.nuc.fatal = false → s.nuc.waiting = [] →
      ∃ t, exec .nucleusRestart s = .next t ∧ t.nuc.restarting = false ∧ t.nuc.ready = true ∧ t.nuc.pendFaults = [] ∧
        ∀ f ∈ s.nuc.pendFaults, t.nuc.units[f.1.val].st = 3 ∧ t.nuc.units[f.1.val].tbl = true) ∧
    (s.hub.ready = true → s.hub.rstN = true → s.nuc.restarting = false →
      let reply (name : String) (d : List Byte) : Output := .mctp (Config.standardAnswer name d)
      (∀ eid, eid ≠ 0 → eid ≠ 0xFF → exec (.setEndpointId eid) s =
        .next (emit (reply "SetEndpointID" [eid, eid]) { s with nuc := { s.nuc with eid := eid } })) ∧
      exec .getEndpointId s = .next (emit (reply "GetEndpointID" [s.nuc.eid]) s) ∧
      (∀ b, exec (.getMctpVersionSupport b) s = .next (emit (reply "GetMCTPVersionSupport" [b]) s)) ∧
      exec .getMessageTypeSupport s = .next (emit (reply "GetMessageTypeSupport" [0x01, 0x05, 0x7E]) s) ∧
      (∀ b, exec (.pldmBase b) s = .next (emit (reply "PLDMBase" [b]) s)) ∧
      (∀ k : Fin 32, exec (.getSensorReading (BitVec.ofNat 16 k.val)) s = .next (emit (reply "GetSensorReading"
        (leBytes 2 k.val ++ leBytes 2 s.nuc.sens[k.val].toNat ++
          [BitVec.ofNat 8 (b2n (bit s.nuc.sensWarn k.val) + 2 * b2n (bit s.nuc.sensCrit k.val))])) s)) ∧
      exec .getVersion s = .next (emit (reply "VERSION" []) { s with nuc := { s.nuc with spdmStep := 1 } }) ∧
      (1 ≤ s.nuc.spdmStep → exec .getCapabilities s =
        .next (emit (reply "CAPABILITIES" []) { s with nuc := { s.nuc with spdmStep := 2 } })) ∧
      (∀ a h : Word, 2 ≤ s.nuc.spdmStep → bit a 7 = true → bit h 1 = true → exec (.negotiateAlgorithms a h) s =
        .next (emit (reply "ALGORITHMS" []) { s with nuc := { s.nuc with spdmStep := 3 } })) ∧
      (3 ≤ s.nuc.spdmStep →
        exec .getDigests s = .next (emit (reply "DIGESTS" (leBytes 48 (Config.digest384 Config.certChain).toNat)) s) ∧
        (∀ off len : BitVec 16, exec (.getCertificate 0 off len) s =
          .next (emit (if off.toNat < Config.certChain.length
            then reply "CERTIFICATE" ((Config.certChain.drop off.toNat).take len.toNat) else reply "ERROR" []) s)) ∧
        (∀ n : BitVec 256, exec (.challenge 0 n) s = .next (emit (reply "CHALLENGE_AUTH"
          (leBytes 32 n.toNat ++ leBytes 96 (Config.signature (leBytes 32 n.toNat)).toNat)) s)) ∧
        (∀ k : Fin 5, exec (.getMeasurements (BitVec.ofNat 8 (k.val + 1))) s =
          .next (emit (reply "MEASUREMENTS" (leBytes 48 (Config.measurement k).toNat)) s))))

/-! ### Resets, bring-up, board, registers -/

/-- Resets of the device. COLD_RESET leaves the reset state, with the fuses, the flash, host memory and the pins' history kept;
a conventional reset keeps radio time with the pins and the Halo and Tide blocks but for the matrix, resets the instances and the
rest, and reports its cause; a warm reset needs its key, and keeps the PCIe functions and the link; each takes ready away. RST_N,
PERST_N and the end of stage 0 set what they say. Configuration requests get retry status until then; then a read gives the
identity and settings of its function, a write changes those. The loss of HREF_IN
stops the device, switches the lasers off and ends Nucleus (R543, R549 to R551, R555, R558, R560, R561, R566, R586). -/
def Obligations.DeviceResets : Prop :=
  ∀ (s : State),
    (∃ o, exec .coldReset s = .next { State.reset with
      hub := hubKeeps s.hub, mem := { State.reset.mem with host := s.mem.host, hostPoisoned := s.mem.hostPoisoned }
      free := s.free, out := s.out ++ o, pending := s.pending }) ∧
    (∀ c y, (y = .conventionalReset c ∧ s.hub.rstN = true) ∨ (∃ v, y = .warmReset v ∧ s.hub.rstN = true ∧ s.hub.stage0 = true ∧
        bit v 31 = true ∧ bits v 7 0 = 0xA5 ∧ (s.hub.ready = true ∨ s.hub.recovery = true)) →
      ∃ t, exec y s = .next t ∧ t.eph = s.eph ∧ t.tide = s.tide ∧ t.halo.loops = s.halo.loops ∧ t.halo.laserOn = s.halo.laserOn ∧
        t.halo.htuLoaded = false ∧ t.halo.matrix = [] ∧ t.hub.ready = false ∧ t.hub.rstN = true ∧ t.items = [] ∧
        t.inst = State.reset.inst ∧ t.cores = State.reset.cores ∧ t.fab = State.reset.fab ∧ t.hub.flash = s.hub.flash ∧
        (∀ n : Fin 8, t.evt[n.val].queue = [] ∧ t.evt[n.val].level = s.evt[n.val].level) ∧
        t.hub.cause = (if y = .conventionalReset c then causeOf c else 4) ∧
        (∀ v, y = .warmReset v → t.fns = s.fns ∧ t.hub.linkUp = s.hub.linkUp ∧ t.vfEnable = s.vfEnable) ∧
        (∀ k, y = .conventionalReset k → t.fns = State.reset.fns ∧ (k = .perst → t.hub.perstN = false))) ∧
    (∀ v, bit v 31 = false ∨ bits v 7 0 ≠ 0xA5 → exec (.warmReset v) s = .next s) ∧
    (s.hub.rstN = false → exec .rstNRelease s = .next { s with hub := { s.hub with rstN := true } }) ∧
    (s.hub.rstN = true → s.hub.perstN = false →
      exec .perstNRelease s = .next { s with hub := { s.hub with perstN := true, linkUp := s.hub.stage0 } }) ∧
    (s.hub.rstN = true → s.hub.stage0 = false → exec .stage0Done s =
      .next { s with hub := { s.hub with stage0 := true, stage := 1, linkUp := s.hub.linkUp || s.hub.perstN } }) ∧
    (∀ (fn : InstId) w, s.hub.rstN = true → (fn = 0 ∨ (s.vfEnable = true ∧ fn.val ≤ s.numVFs.val)) →
      (s.hub.stage0 = false → exec (.configRequest fn w) s = .next (emit (.config fn true none) s)) ∧
      (s.hub.stage0 = true → exec (.configRequest fn none) s = .next (emit (.config fn false (some {
        deviceId := if fn = 0 then 0x0460 else 0x0461, classCode := 0x120000, totalVFs := 63, firstVfOffset := 1, vfStride := 1
        vfEnable := s.vfEnable, numVFs := s.numVFs, fn := s.fns[fn.val] })) s)) ∧
      (∀ c : FnConfig, s.hub.stage0 = true → s.fns[fn.val].pendingBits = 0 → exec (.configRequest fn (some c)) s =
        .next (emit (.config fn false none) { s with fns := upd s.fns fn fun f =>
          { f with memory := c.memory, master := c.master, msix := c.msix, fnMask := c.fnMask, mps := c.mps, mrrs := c.mrrs
                   relaxed := c.relaxed } }))) ∧
    (s.hub.rstN = true → s.hub.hrefLost = false → ∃ t, exec .hrefLoss s = .next t ∧ t.hub.hrefLost = true ∧ live t = false ∧
      t.halo.laserOn = 0 ∧ t.halo.htuLocked = false ∧ t.nuc.fatal = true ∧ (∀ l : Fin 32, t.fab.lanes[l.val].up = false) ∧
      Output.aer .uncorrectableInternal ∈ t.out)

/-- Bring-up, flash and JTAG. The image of slot A runs if it passes, else that of slot B, else the device enters recovery; stage 3
trains LP5X at the rate the board allows, zeroes it, and sets up the compute dies with the fused columns; once it has ended the
unit table is built, what passed is in service and ready sets; stage 3 that takes too long is recovery. A flash operation at
an aligned address runs and then moves its bytes, one elsewhere sets error. IDCODE shifts out the 32 bits of R579, BYPASS
one 0 (R419, R545, R552 to R558, R563 to R567, R579). -/
def Obligations.BringUp : Prop :=
  ∀ (s : State), s.hub.rstN = true →
    (∀ a b : SlotCheck, s.hub.stage = 1 →
      (∀ adv v c, a = .pass adv v c → slotError s.hub a = 0 → ∃ t, exec (.imageVerified a b) s = .next t ∧ t.hub.slot = false ∧
        t.hub.stage = 3 ∧ t.hub.errA = 0 ∧ t.hub.board = c ∧ t.hub.recovery = s.hub.recovery ∧
        (s.hub.cause = 0 → t.eph.trefSel = c.trefSel ∧ t.tide.setpoint = c.setpoint) ∧
        ∀ p : Fin 8, t.fab.ports[p.val].mode = c.portMode[p.val]) ∧
      (∀ adv v c, slotError s.hub a ≠ 0 → b = .pass adv v c → slotError s.hub b = 0 → ∃ t, exec (.imageVerified a b) s = .next t ∧
        t.hub.slot = true ∧ t.hub.stage = 3 ∧ t.hub.errA = BitVec.ofNat 8 (slotError s.hub a) ∧ t.hub.errB = 0 ∧ t.hub.board = c) ∧
      (slotError s.hub a ≠ 0 → slotError s.hub b ≠ 0 → ∃ t, exec (.imageVerified a b) s = .next t ∧ t.hub.recovery = true ∧
        t.hub.bootFail = true ∧ t.hub.stage = 15 ∧ t.hub.errA = BitVec.ofNat 8 (slotError s.hub a) ∧
        t.hub.errB = BitVec.ofNat 8 (slotError s.hub b))) ∧
    (s.hub.stage = 3 →
      (∀ f8 f6 : BitVec 4, s.hub.lp5xDone = false → ∃ t, exec (.lp5xTrainingDone f8 f6) s = .next t ∧ t.hub.lp5xDone = true ∧
        (t.hub.rate6400 = true ↔ s.hub.board.force6400 = true ∨ (f8 ≠ 0 ∧ s.hub.board.fallback = true)) ∧
        (t.mem.lp5xPresent = true ↔ (if t.hub.rate6400 then f6 else f8) = 0) ∧
        t.mem.capacity = s.hub.fusedCapacity ∧ t.mem.ranks = s.hub.fusedRanks ∧ t.mem.dpa = s.mem.dpa) ∧
      (s.hub.lp5xDone = true → s.mem.lp5xPresent = true → s.hub.zeroDone = false → Memory.wf 0 s.mem.dpa = true →
        ∃ t, exec .lp5xZeroingDone s = .next t ∧ t.hub.zeroDone = true ∧
          (∀ a, inLp5x s a = true → t.byte a = 0) ∧ ∀ a, inLp5x s a = false → t.byte a = s.byte a) ∧
      (∀ failed, s.hub.computeDone = false → ∃ t, exec (.computeBringupDone failed) s = .next t ∧ t.hub.computeDone = true ∧
        (∀ u : Fin 622, u ∈ t.hub.testFailed ↔ u ∈ failed ∧ u.val < 0x260) ∧
        ∀ c : CoreId, t.cores[c.val].mem = [] ∧ t.cores[c.val].hacc = [] ∧
          (t.cores[c.val].bypassed, t.cores[c.val].badCol, t.cores[c.val].cols) = Tab.get (false, 0, 16) s.hub.colMap c.val) ∧
      (∀ ms, s.hub.lp5xDone = true → s.hub.haloDone = true → s.hub.computeDone = true →
        (s.hub.zeroDone = true ∨ s.mem.lp5xPresent = false) → ∃ t, exec (.unitsBuilt ms) s = .next t ∧ t.hub.ready = true ∧
          t.hub.stage = 5 ∧ t.nuc.ready = true ∧ t.hub.bootMs = satNat 16 ms ∧
          (∀ u : Fin 622, t.nuc.units[u.val].fence = t.nuc.units[u.val].tbl ∧
            (t.nuc.units[u.val].fence = false ↔ t.nuc.units[u.val].st = 0)) ∧
          (∀ u : Fin 622, u.val < 0x260 → (t.nuc.units[u.val].st = 0 ↔ u ∉ s.hub.testFailed)) ∧
          (∀ p : Fin 8, t.nuc.units[(unitPort p).val].st = 2 ∨ t.nuc.units[(unitPort p).val].st = 3)) ∧
      (s.halo.calWait = false → exec .stage3Timeout s = .next { s with hub := { s.hub with
        bootFail := true, recovery := true, stage := 15, stageTimeout := 1 } })) ∧
    (s.hub.stage0 = true →
      (∀ y op, (y, op) ∈ [(Instr.flashRead, 0), (Instr.flashProgram, 1), (Instr.flashErase, 2)] → s.hub.flashBusy = false →
        (flashAligned op s.hub.flashAddr = true → exec y s = .next { s with hub := { s.hub with
          opField := BitVec.ofNat 2 op, flashBusy := true, flashOp := BitVec.ofNat 2 op, flashAt := s.hub.flashAddr.toNat } }) ∧
        (flashAligned op s.hub.flashAddr = false → exec y s =
          .next { s with hub := { s.hub with opField := BitVec.ofNat 2 op, flashError := true } })) ∧
      (s.hub.flashBusy = true → Memory.wf 0xFF s.hub.flash = true →
        (s.hub.flashOp = 0 → ∃ t, exec (.flashOpDone true) s = .next t ∧ t.hub.flashBusy = false ∧ t.hub.flash = s.hub.flash ∧
          ∀ k < 4096, Memory.get 0 t.hub.flashBuf k = Memory.get 0xFF s.hub.flash (s.hub.flashAt + k)) ∧
        (s.hub.flashOp = 1 → ∃ t, exec (.flashOpDone true) s = .next t ∧ t.hub.flashBusy = false ∧
          (∀ k < 4096, Memory.get 0xFF t.hub.flash (s.hub.flashAt + k) = Memory.get 0 s.hub.flashBuf k) ∧
          ∀ k, k < s.hub.flashAt ∨ s.hub.flashAt + 4096 ≤ k → Memory.get 0xFF t.hub.flash k = Memory.get 0xFF s.hub.flash k) ∧
        (s.hub.flashOp = 2 → ∃ t, exec (.flashOpDone true) s = .next t ∧ t.hub.flashBusy = false ∧
          (∀ k < 65536, Memory.get 0xFF t.hub.flash (s.hub.flashAt + k) = 0xFF) ∧
          ∀ k, k < s.hub.flashAt ∨ s.hub.flashAt + 65536 ≤ k → Memory.get 0xFF t.hub.flash k = Memory.get 0xFF s.hub.flash k) ∧
        (∃ t, exec (.flashOpDone false) s = .next t ∧ t.hub.flashBusy = false ∧ t.hub.flashError = true ∧
          ∀ k, k < s.hub.flashAt ∨ s.hub.flashAt + 65536 ≤ k → Memory.get 0xFF t.hub.flash k = Memory.get 0xFF s.hub.flash k))) ∧
    exec (.jtagInstruction .bypass) s = .next { s with hub := { s.hub with jtag := .bypass }, out := s.out ++ [.jtag [false]] } ∧
    (∃ b : List Bool, exec (.jtagInstruction .idcode) s = .next { s with hub := { s.hub with jtag := .idcode }, out := s.out ++ [.jtag b] } ∧
      b.length = 32 ∧ b.getD 0 false = true ∧ ∀ k < 4, b.getD (28 + k) false = bit s.hub.stepping k)

/-- Registers. A low word read returns it and latches the high word; a low word written is held; the high word commits both,
without the bits that are reserved, and clears the hold; a pair that is read only ignores both. Where no register stands a read
gives 0 and a write does nothing; nothing answers before ready but the HUB block. A write of another size writes at most a free
value, into a register that belongs to the writer (log entry 5). A status bit clears where 1 is written; a locked field keeps
its value (R9 to R12, R64, R153, R558, R567). -/
def Obligations.RegisterAccess : Prop :=
  ∀ (s : State) (a : BarAddr) (v : Word),
    (∀ p : Pair, live s = true → regAt a = some (.lo p) →
      ((∀ n, p ≠ .evtinTs n) → exec (.regPairLowRead a) s = .next { s with
        out := s.out ++ [.readData (leBytes 4 ((pairValue p s).setWidth 32).toNat) false]
        latch := Tab.set s.latch (pairKey p) ((pairValue p s >>> 32).setWidth 32) }) ∧
      (pairMask p ≠ none → exec (.regPairLowWrite a v) s = .next { s with hold := Tab.set s.hold (pairKey p) v }) ∧
      (pairMask p = none → exec (.regPairLowWrite a v) s = .next s)) ∧
    (∀ p : Pair, live s = true → regAt a = some (.hi p) →
      (∀ m lo, pairMask p = some m → TakesCommit p s →
        lo = (Tab.find s.hold (pairKey p)).getD ((pairValue p s).setWidth 32) →
        ∃ t, exec (.regPairHighWrite a v) s = .next t ∧ pairValue p t = (v ++ lo) &&& m ∧
          t.hold = Tab.del s.hold (pairKey p) ∧ t.latch = s.latch ∧ t.cores = s.cores ∧ t.mem = s.mem) ∧
      (pairMask p = none → exec (.regPairHighWrite a v) s = .next s)) ∧
    (hubUp s = true → regAt a = none →
      exec (.regPairLowRead a) s = .next { s with out := s.out ++ [.readData [0, 0, 0, 0] false] }) ∧
    (a.off % 4 = 0 →
      (regAt a = none → exec (.registerWrite a 4 v) s = .next s) ∧
      (∀ r, regAt a = some r → regOpen r s = false → exec (.registerWrite a 4 v) s = .next s) ∧
      (live s = true →
        (regAt a = some .ephIntStatus → exec (.registerWrite a 4 v) s =
          .next { s with eph := { s.eph with intStatus := s.eph.intStatus &&& ~~~(v.setWidth 7) } }) ∧
        (regAt a = some .ephHoldLimit → exec (.registerWrite a 4 v) s =
          .next (if s.eph.cfgLock then s else { s with eph := { s.eph with holdLimit := v } })) ∧
        (∀ i, regAt a = some (.instSched i) → exec (.registerWrite a 4 v) s = .next (modInst i (fun x =>
          { x with weight := BitVec.ofNat 8 (bits v 23 16), ageUs := BitVec.ofNat 16 (bits v 15 0) }) s)) ∧
        (∀ i, regAt a = some (.instEng i) → exec (.registerWrite a 4 v) s = .next (modInst i (fun x =>
          { x with wkMask := BitVec.ofNat 16 (bits v 31 16), dmaMask := BitVec.ofNat 16 (bits v 15 0) }) s)) ∧
        (regAt a = some .tideMargin → s.tide.cfgLock = false → bits v 14 8 ≤ bits v 6 0 → exec (.registerWrite a 4 v) s = .next s) ∧
        (∀ k, regAt a = some (.nucReq k) → exec (.registerWrite a 4 v) s =
          .next { s with nuc := { s.nuc with reqBuf := Tab.set s.nuc.reqBuf k v } }))) ∧
    (∀ size r, a.off % 4 = 0 → 0 < size → size < 4 → regAt a = some r → regOpen r s = true →
      (∀ i q, r ≠ .sqDoorbell i q ∧ r ≠ .cqDoorbell i q) →
      ∃ x, exec (.registerWrite a size v) s = .next { s with free := s.free + 2 } ∨
        (regOwn (barInst a) r = true ∧ exec (.registerWrite a size v) s = .next (regWrite r x { s with free := s.free + 2 })))
end

