-- ==== Sys2Proof/Laws/Memory.lean ====
section
/-! SUPPORT. Byte memories: what a store changes, and that every operation keeps the canonical form. -/

namespace Sys2Proof.Machine

open Sys2Proof

/-! ### The canonical form -/

@[simp] theorem Memory.wfFrom_nil (d : Byte) (lo : Option Nat) : Memory.wfFrom d lo [] = true := rfl

theorem Memory.wfFrom_cons (d : Byte) (l a : Nat) (v : Byte) (t : Memory) :
    Memory.wfFrom d (some l) ((a, v) :: t) = true ↔ l < a ∧ v ≠ d ∧ Memory.wfFrom d (some a) t = true := by
  simp [Memory.wfFrom, and_assoc]

theorem Memory.wf_cons (d : Byte) (a : Nat) (v : Byte) (t : Memory) :
    Memory.wfFrom d none ((a, v) :: t) = true ↔ v ≠ d ∧ Memory.wfFrom d (some a) t = true := by
  simp [Memory.wfFrom]

/-- A lower bound may be lowered, or dropped. -/
theorem Memory.wfFrom_mono (d : Byte) {l k : Nat} (h : k ≤ l) {m : Memory} (w : Memory.wfFrom d (some l) m = true) :
    Memory.wfFrom d (some k) m = true := by
  cases m with
  | nil => rfl
  | cons e t =>
    rw [Memory.wfFrom_cons] at w ⊢
    exact ⟨by omega, w.2⟩

theorem Memory.wfFrom_none (d : Byte) {l : Nat} {m : Memory} (w : Memory.wfFrom d (some l) m = true) :
    Memory.wfFrom d none m = true := by
  cases m with
  | nil => rfl
  | cons e t =>
    rw [Memory.wfFrom_cons] at w
    rw [Memory.wf_cons]
    exact w.2

/-- Below the bound nothing is listed. -/
theorem Memory.get_below (d : Byte) {l a : Nat} {m : Memory} (w : Memory.wfFrom d (some l) m = true) (h : a ≤ l) :
    Memory.get d m a = d := by
  cases m with
  | nil => rfl
  | cons e t =>
    rw [Memory.wfFrom_cons] at w
    have h1 : ¬ a = e.1 := by omega
    have h2 : a < e.1 := by omega
    simp [Memory.get, h1, h2]

/-! ### One byte -/

/-- A byte that is stored reads back. -/
theorem Memory.get_set_same (d : Byte) (m : Memory) (a : Nat) (v : Byte) (lo : Option Nat)
    (w : Memory.wfFrom d lo m = true) : Memory.get d (Memory.set d m a v) a = v := by
  induction m generalizing lo with
  | nil =>
    by_cases h : v = d <;> simp [Memory.set, Memory.get, h]
  | cons e t ih =>
    obtain ⟨b, x⟩ := e
    have wt : Memory.wfFrom d (some b) t = true := by
      cases lo with
      | none => exact ((Memory.wf_cons d b x t).1 w).2
      | some l => exact ((Memory.wfFrom_cons d l b x t).1 w).2.2
    by_cases h1 : a < b
    · by_cases h : v = d
      · have : ¬ a = b := by omega
        simp [Memory.set, Memory.get, h1, h, this]
      · simp [Memory.set, Memory.get, h1, h]
    · by_cases h2 : a = b
      · subst h2
        by_cases h : v = d
        · simp [Memory.set, h, Memory.get_below d wt (Nat.le_refl a)]
        · simp [Memory.set, Memory.get, h]
      · simp [Memory.set, Memory.get, h1, h2, ih (some b) wt]

/-- Every other byte reads as before. -/
theorem Memory.get_set_other (d : Byte) (m : Memory) (a b : Nat) (v : Byte) (lo : Option Nat)
    (w : Memory.wfFrom d lo m = true) (h : b ≠ a) : Memory.get d (Memory.set d m a v) b = Memory.get d m b := by
  induction m generalizing lo with
  | nil =>
    by_cases hv : v = d <;> simp [Memory.set, Memory.get, hv, h]
  | cons e t ih =>
    obtain ⟨k, x⟩ := e
    have wt : Memory.wfFrom d (some k) t = true := by
      cases lo with
      | none => exact ((Memory.wf_cons d k x t).1 w).2
      | some l => exact ((Memory.wfFrom_cons d l k x t).1 w).2.2
    by_cases h1 : a < k
    · by_cases hv : v = d
      · simp [Memory.set, h1, hv]
      · by_cases hb : b < a
        · have : ¬ b = k := by omega
          have h3 : b < k := by omega
          simp [Memory.set, Memory.get, h1, hv, h, hb, this, h3]
        · simp [Memory.set, Memory.get, h1, hv, h, hb]
    · by_cases h2 : a = k
      · subst h2
        by_cases hv : v = d
        · by_cases hb : b < a
          · simp [Memory.set, Memory.get, hv, h, hb, Memory.get_below d wt (Nat.le_of_lt hb)]
          · simp [Memory.set, Memory.get, hv, h, hb]
        · simp [Memory.set, Memory.get, hv, h]
      · simp [Memory.set, Memory.get, h1, h2, ih (some k) wt]

/-- A store keeps the canonical form. -/
theorem Memory.wfFrom_set (d : Byte) (m : Memory) (a : Nat) (v : Byte) (l : Nat) (h : l < a)
    (w : Memory.wfFrom d (some l) m = true) : Memory.wfFrom d (some l) (Memory.set d m a v) = true := by
  induction m generalizing l with
  | nil =>
    by_cases hv : v = d <;> simp [Memory.set, hv, Memory.wfFrom, h]
  | cons e t ih =>
    obtain ⟨b, x⟩ := e
    obtain ⟨w1, w2, w3⟩ := (Memory.wfFrom_cons d l b x t).1 w
    by_cases h1 : a < b
    · by_cases hv : v = d
      · simp [Memory.set, h1, hv, w]
      · rw [Memory.set, if_pos h1, if_neg hv, Memory.wfFrom_cons, Memory.wfFrom_cons]
        exact ⟨h, hv, h1, w2, w3⟩
    · by_cases h2 : a = b
      · subst h2
        by_cases hv : v = d
        · simp only [Memory.set, hv, Nat.lt_irrefl, if_true, if_false]
          exact Memory.wfFrom_mono d (Nat.le_of_lt w1) w3
        · simp only [Memory.set, hv, Nat.lt_irrefl, if_true, if_false, Memory.wfFrom_cons]
          exact ⟨w1, hv, w3⟩
      · simp only [Memory.set, h1, h2, if_false, Memory.wfFrom_cons]
        exact ⟨w1, w2, ih b (by omega) w3⟩

theorem Memory.wf_set (d : Byte) (m : Memory) (a : Nat) (v : Byte) (w : Memory.wf d m = true) :
    Memory.wf d (Memory.set d m a v) = true := by
  unfold Memory.wf at *
  cases m with
  | nil =>
    by_cases hv : v = d <;> simp [Memory.set, hv, Memory.wfFrom]
  | cons e t =>
    obtain ⟨b, x⟩ := e
    obtain ⟨w2, w3⟩ := (Memory.wf_cons d b x t).1 w
    by_cases h1 : a < b
    · by_cases hv : v = d
      · simp [Memory.set, h1, hv, w]
      · rw [Memory.set, if_pos h1, if_neg hv, Memory.wf_cons, Memory.wfFrom_cons]
        exact ⟨hv, h1, w2, w3⟩
    · by_cases h2 : a = b
      · subst h2
        by_cases hv : v = d
        · simp only [Memory.set, hv, Nat.lt_irrefl, if_true, if_false]
          exact Memory.wfFrom_none d w3
        · simp only [Memory.set, hv, Nat.lt_irrefl, if_true, if_false, Memory.wf_cons]
          exact ⟨hv, w3⟩
      · simp only [Memory.set, h1, h2, if_false, Memory.wf_cons]
        exact ⟨w2, Memory.wfFrom_set d t a v b (by omega) w3⟩

/-! ### Ranges -/

/-- Storing bytes in order keeps the canonical form. -/
theorem Memory.wf_write (d : Byte) (m : Memory) (a : Nat) (l : List Byte) (w : Memory.wf d m = true) :
    Memory.wf d (Memory.write d m a l) = true := by
  induction l generalizing m a with
  | nil => exact w
  | cons v t ih => exact ih (Memory.set d m a v) (a + 1) (Memory.wf_set d m a v w)

/-- What a write of bytes leaves: these bytes in their range, and every other byte as it was. -/
theorem Memory.get_write (d : Byte) (m : Memory) (a b : Nat) (l : List Byte) (w : Memory.wf d m = true) :
    Memory.get d (Memory.write d m a l) b = if a ≤ b ∧ b < a + l.length then l.getD (b - a) 0 else Memory.get d m b := by
  induction l generalizing m a with
  | nil => simp [Memory.write]
  | cons v t ih =>
    rw [Memory.write, ih (Memory.set d m a v) (a + 1) (Memory.wf_set d m a v w)]
    by_cases h : b = a
    · subst h
      simp [Memory.get_set_same d m b v none w]
    · rw [Memory.get_set_other d m a b v none w h]
      by_cases h1 : a + 1 ≤ b ∧ b < a + 1 + t.length
      · have h2 : a ≤ b ∧ b < a + (v :: t).length := by simp; omega
        rw [if_pos h1, if_pos h2]
        have e : b - a = b - (a + 1) + 1 := by omega
        rw [e]; rfl
      · have h2 : ¬ (a ≤ b ∧ b < a + (v :: t).length) := by simp; omega
        rw [if_neg h1, if_neg h2]

@[simp] theorem Memory.length_read (d : Byte) (m : Memory) (a n : Nat) : (Memory.read d m a n).length = n := by
  induction n generalizing a with
  | zero => rfl
  | succ n ih => simp [Memory.read, ih]

/-- Reading a range reads its bytes. -/
theorem Memory.getElem_read (d : Byte) (m : Memory) (a n j : Nat) (h : j < (Memory.read d m a n).length) :
    (Memory.read d m a n)[j] = Memory.get d m (a + j) := by
  induction n generalizing a j with
  | zero => simp [Memory.read] at h
  | succ n ih =>
    cases j with
    | zero => rfl
    | succ j =>
      simp only [Memory.read, List.getElem_cons_succ]
      rw [ih]
      congr 1; omega

/-- A part of a memory chosen by address is in canonical form. -/
theorem Memory.wfFrom_filter (d : Byte) (f : Nat → Bool) (m : Memory) (l : Nat) (w : Memory.wfFrom d (some l) m = true) :
    Memory.wfFrom d (some l) (m.filter fun e => f e.1) = true := by
  induction m generalizing l with
  | nil => rfl
  | cons e t ih =>
    obtain ⟨b, x⟩ := e
    obtain ⟨w1, w2, w3⟩ := (Memory.wfFrom_cons d l b x t).1 w
    by_cases h : f b = true
    · simp only [List.filter_cons, h, if_true, Memory.wfFrom_cons]
      exact ⟨w1, w2, ih b w3⟩
    · simp only [List.filter_cons, h]
      exact Memory.wfFrom_mono d (Nat.le_of_lt w1) (ih b w3)

theorem Memory.wf_filter (d : Byte) (f : Nat → Bool) (m : Memory) (w : Memory.wf d m = true) :
    Memory.wf d (m.filter fun e => f e.1) = true := by
  unfold Memory.wf at *
  cases m with
  | nil => rfl
  | cons e t =>
    obtain ⟨b, x⟩ := e
    obtain ⟨w2, w3⟩ := (Memory.wf_cons d b x t).1 w
    have := Memory.wfFrom_filter d f t b w3
    by_cases h : f b = true
    · simp only [List.filter_cons, h, if_true, Memory.wf_cons]
      exact ⟨w2, this⟩
    · simp only [List.filter_cons, h]
      exact Memory.wfFrom_none d this

/-- What is left of a memory reads as before where it was chosen, and as unlisted elsewhere. -/
theorem Memory.get_filter (d : Byte) (f : Nat → Bool) (m : Memory) (lo : Option Nat) (a : Nat)
    (w : Memory.wfFrom d lo m = true) :
    Memory.get d (m.filter fun e => f e.1) a = if f a then Memory.get d m a else d := by
  induction m generalizing lo with
  | nil => simp [Memory.get]
  | cons e t ih =>
    obtain ⟨b, x⟩ := e
    have wt : Memory.wfFrom d (some b) t = true := by
      cases lo with
      | none => exact ((Memory.wf_cons d b x t).1 w).2
      | some l => exact ((Memory.wfFrom_cons d l b x t).1 w).2.2
    have hb : ∀ c ≤ b, Memory.get d t c = d := fun c hc => Memory.get_below d wt hc
    have ht := ih (some b) wt
    by_cases h : f b = true
    · by_cases h1 : a = b
      · subst h1; simp [h, Memory.get]
      · by_cases h2 : a < b
        · simp [h, Memory.get, h1, h2]
        · simp [h, Memory.get, h1, h2, ht]
    · by_cases h1 : a = b
      · subst h1
        have z : Memory.get d (t.filter fun e => f e.1) a = d := by rw [ht, hb a (Nat.le_refl a)]; split <;> rfl
        simpa [List.filter_cons, h] using z
      · by_cases h2 : a < b
        · have z : Memory.get d (t.filter fun e => f e.1) a = d := by rw [ht, hb a (Nat.le_of_lt h2)]; split <;> rfl
          simpa [List.filter_cons, h, Memory.get, h1, h2] using z
        · simp [h, Memory.get, h1, h2, ht]

/-- Filling a range keeps the canonical form. -/
theorem Memory.wf_fill (d : Byte) (m : Memory) (a n : Nat) (v : Byte) (w : Memory.wf d m = true) :
    Memory.wf d (Memory.fill d m a n v) = true := by
  unfold Memory.fill
  split
  · simpa using Memory.wf_filter d (fun c => decide (c < a) || decide (a + n ≤ c)) m w
  · exact Memory.wf_write d m a _ w

/-- What filling leaves. -/
theorem Memory.get_fill (d : Byte) (m : Memory) (a n b : Nat) (v : Byte) (w : Memory.wf d m = true) :
    Memory.get d (Memory.fill d m a n v) b = if a ≤ b ∧ b < a + n then v else Memory.get d m b := by
  unfold Memory.fill
  split
  · rename_i h
    have := Memory.get_filter d (fun c => decide (c < a) || decide (a + n ≤ c)) m none b w
    simp only [Bool.or_eq_true, decide_eq_true_eq] at this ⊢
    rw [this]
    by_cases h1 : a ≤ b ∧ b < a + n
    · rw [if_pos h1, if_neg (by omega), h]
    · rw [if_neg h1, if_pos (by omega)]
  · rw [Memory.get_write d m a b _ w]
    by_cases h1 : a ≤ b ∧ b < a + n
    · rw [if_pos h1, if_pos (by simpa using h1), List.getD_eq_getElem _ _ (by simp; omega)]
      simp
    · rw [if_neg h1, if_neg (by simpa using h1)]

/-! ### Memories that read alike -/

theorem Memory.ext_from (d : Byte) (m n : Memory) (l : Nat) (wm : Memory.wfFrom d (some l) m = true)
    (wn : Memory.wfFrom d (some l) n = true) (h : ∀ a, l < a → Memory.get d m a = Memory.get d n a) : m = n := by
  induction m generalizing n l with
  | nil =>
    cases n with
    | nil => rfl
    | cons e t =>
      obtain ⟨b, x⟩ := e
      obtain ⟨w1, w2, -⟩ := (Memory.wfFrom_cons d l b x t).1 wn
      have := h b w1
      simp [Memory.get] at this
      exact absurd this.symm w2
  | cons e t ih =>
    obtain ⟨b, x⟩ := e
    obtain ⟨w1, w2, w3⟩ := (Memory.wfFrom_cons d l b x t).1 wm
    cases n with
    | nil =>
      have := h b w1
      simp [Memory.get] at this
      exact absurd this w2
    | cons f u =>
      obtain ⟨c, y⟩ := f
      obtain ⟨v1, v2, v3⟩ := (Memory.wfFrom_cons d l c y u).1 wn
      have hbc : b = c := by
        rcases Nat.lt_trichotomy b c with hlt | heq | hgt
        · have := h b w1
          have h1 : ¬ b = c := by omega
          simp [Memory.get, h1, hlt] at this
          exact absurd this w2
        · exact heq
        · have := h c v1
          have h1 : ¬ c = b := by omega
          simp [Memory.get, h1, hgt] at this
          exact absurd this.symm v2
      subst hbc
      have hxy : x = y := by simpa [Memory.get] using h b w1
      subst hxy
      have : t = u := ih u b w3 v3 fun a ha => by
        have := h a (by omega)
        have h1 : ¬ a = b := by omega
        have h2 : ¬ a < b := by omega
        simpa [Memory.get, h1, h2] using this
      rw [this]

/-- Two memories in canonical form that read alike at every address are the same list. -/
theorem Memory.ext_wf (d : Byte) (m n : Memory) (wm : Memory.wf d m = true) (wn : Memory.wf d n = true)
    (h : ∀ a, Memory.get d m a = Memory.get d n a) : m = n := by
  unfold Memory.wf at *
  have shift : ∀ k : Memory, Memory.wfFrom d none k = true →
      Memory.wfFrom d (some 0) (k.map fun e => (e.1 + 1, e.2)) = true ∧
        ∀ a, Memory.get d (k.map fun e => (e.1 + 1, e.2)) (a + 1) = Memory.get d k a := by
    intro k wk
    constructor
    · have up : ∀ (k : Memory) (l : Nat), Memory.wfFrom d (some l) k = true →
          Memory.wfFrom d (some (l + 1)) (k.map fun e => (e.1 + 1, e.2)) = true := by
        intro k
        induction k with
        | nil => intro l _; rfl
        | cons e t ih =>
          intro l w
          obtain ⟨w1, w2, w3⟩ := (Memory.wfFrom_cons d l e.1 e.2 t).1 w
          exact (Memory.wfFrom_cons d (l + 1) (e.1 + 1) e.2 _).2 ⟨by omega, w2, ih e.1 w3⟩
      cases k with
      | nil => rfl
      | cons e t =>
        obtain ⟨w2, w3⟩ := (Memory.wf_cons d e.1 e.2 t).1 wk
        exact (Memory.wfFrom_cons d 0 (e.1 + 1) e.2 _).2 ⟨by omega, w2, up t e.1 w3⟩
    · intro a
      clear wk
      induction k with
      | nil => rfl
      | cons e t ih => simp [Memory.get, ih]
  have hm := shift m wm
  have hn := shift n wn
  have heq := Memory.ext_from d _ _ 0 hm.1 hn.1 fun a ha => by
    obtain ⟨b, rfl⟩ : ∃ b, a = b + 1 := ⟨a - 1, by omega⟩
    rw [hm.2 b, hn.2 b, h b]
  have inj : ∀ a b : Nat × Byte, (a.1 + 1, a.2) = (b.1 + 1, b.2) → a = b := by
    intro a b hab
    simp only [Prod.mk.injEq, Nat.add_right_cancel_iff] at hab
    exact Prod.ext hab.1 hab.2
  exact List.map_injective_iff.2 (fun a b hab => inj a b hab) heq

/-! ### At reset -/

/-- Every byte memory of the block is in its canonical form at reset. -/
theorem reset_memory_wf : Memory.wf 0 State.reset.mem.dpa = true ∧ Memory.wf 0 State.reset.mem.host = true ∧
    Memory.wf 0xFF State.reset.hub.flash = true ∧ Memory.wf 0 State.reset.hub.flashBuf = true := ⟨rfl, rfl, rfl, rfl⟩

end Sys2Proof.Machine
end

