-- ==== Sys2Proof/Laws/State.lean ====
section
/-! SUPPORT. One lemma for each field of State under each named update, and for the fields of a core under what issue and the
writes of registers do to it. -/

namespace Sys2Proof.Machine

open Sys2Proof

/-! ### modInst -/

section
variable (i : InstId) (f : Inst → Inst) (s : State)
@[simp] theorem modInst_inst : (modInst i f s).inst = upd s.inst i f := rfl
@[simp] theorem modInst_eph : (modInst i f s).eph = s.eph := rfl
@[simp] theorem modInst_evt : (modInst i f s).evt = s.evt := rfl
@[simp] theorem modInst_evtin : (modInst i f s).evtin = s.evtin := rfl
@[simp] theorem modInst_parts : (modInst i f s).parts = s.parts := rfl
@[simp] theorem modInst_mtu : (modInst i f s).mtu = s.mtu := rfl
@[simp] theorem modInst_invalJob : (modInst i f s).invalJob = s.invalJob := rfl
@[simp] theorem modInst_invalAll : (modInst i f s).invalAll = s.invalAll := rfl
@[simp] theorem modInst_invalInst : (modInst i f s).invalInst = s.invalInst := rfl
@[simp] theorem modInst_invalAddr : (modInst i f s).invalAddr = s.invalAddr := rfl
@[simp] theorem modInst_partOverlap : (modInst i f s).partOverlap = s.partOverlap := rfl
@[simp] theorem modInst_partBusy : (modInst i f s).partBusy = s.partBusy := rfl
@[simp] theorem modInst_escalations : (modInst i f s).escalations = s.escalations := rfl
@[simp] theorem modInst_vfEnable : (modInst i f s).vfEnable = s.vfEnable := rfl
@[simp] theorem modInst_numVFs : (modInst i f s).numVFs = s.numVFs := rfl
@[simp] theorem modInst_fns : (modInst i f s).fns = s.fns := rfl
@[simp] theorem modInst_items : (modInst i f s).items = s.items := rfl
@[simp] theorem modInst_nextId : (modInst i f s).nextId = s.nextId := rfl
@[simp] theorem modInst_disp : (modInst i f s).disp = s.disp := rfl
@[simp] theorem modInst_searches : (modInst i f s).searches = s.searches := rfl
@[simp] theorem modInst_engReset : (modInst i f s).engReset = s.engReset := rfl
@[simp] theorem modInst_cores : (modInst i f s).cores = s.cores := rfl
@[simp] theorem modInst_dies : (modInst i f s).dies = s.dies := rfl
@[simp] theorem modInst_thresh : (modInst i f s).thresh = s.thresh := rfl
@[simp] theorem modInst_wks : (modInst i f s).wks = s.wks := rfl
@[simp] theorem modInst_mem : (modInst i f s).mem = s.mem := rfl
@[simp] theorem modInst_bfm : (modInst i f s).bfm = s.bfm := rfl
@[simp] theorem modInst_lku : (modInst i f s).lku = s.lku := rfl
@[simp] theorem modInst_halo : (modInst i f s).halo = s.halo := rfl
@[simp] theorem modInst_tide : (modInst i f s).tide = s.tide := rfl
@[simp] theorem modInst_fab : (modInst i f s).fab = s.fab := rfl
@[simp] theorem modInst_sp : (modInst i f s).sp = s.sp := rfl
@[simp] theorem modInst_nuc : (modInst i f s).nuc = s.nuc := rfl
@[simp] theorem modInst_hub : (modInst i f s).hub = s.hub := rfl
@[simp] theorem modInst_latch : (modInst i f s).latch = s.latch := rfl
@[simp] theorem modInst_hold : (modInst i f s).hold = s.hold := rfl
@[simp] theorem modInst_free : (modInst i f s).free = s.free := rfl
@[simp] theorem modInst_out : (modInst i f s).out = s.out := rfl
@[simp] theorem modInst_pending : (modInst i f s).pending = s.pending := rfl
end

/-! ### modPart -/

section
variable (n : Fin 64) (f : Part → Part) (s : State)
@[simp] theorem modPart_parts : (modPart n f s).parts = upd s.parts n f := rfl
@[simp] theorem modPart_eph : (modPart n f s).eph = s.eph := rfl
@[simp] theorem modPart_evt : (modPart n f s).evt = s.evt := rfl
@[simp] theorem modPart_evtin : (modPart n f s).evtin = s.evtin := rfl
@[simp] theorem modPart_inst : (modPart n f s).inst = s.inst := rfl
@[simp] theorem modPart_mtu : (modPart n f s).mtu = s.mtu := rfl
@[simp] theorem modPart_invalJob : (modPart n f s).invalJob = s.invalJob := rfl
@[simp] theorem modPart_invalAll : (modPart n f s).invalAll = s.invalAll := rfl
@[simp] theorem modPart_invalInst : (modPart n f s).invalInst = s.invalInst := rfl
@[simp] theorem modPart_invalAddr : (modPart n f s).invalAddr = s.invalAddr := rfl
@[simp] theorem modPart_partOverlap : (modPart n f s).partOverlap = s.partOverlap := rfl
@[simp] theorem modPart_partBusy : (modPart n f s).partBusy = s.partBusy := rfl
@[simp] theorem modPart_escalations : (modPart n f s).escalations = s.escalations := rfl
@[simp] theorem modPart_vfEnable : (modPart n f s).vfEnable = s.vfEnable := rfl
@[simp] theorem modPart_numVFs : (modPart n f s).numVFs = s.numVFs := rfl
@[simp] theorem modPart_fns : (modPart n f s).fns = s.fns := rfl
@[simp] theorem modPart_items : (modPart n f s).items = s.items := rfl
@[simp] theorem modPart_nextId : (modPart n f s).nextId = s.nextId := rfl
@[simp] theorem modPart_disp : (modPart n f s).disp = s.disp := rfl
@[simp] theorem modPart_searches : (modPart n f s).searches = s.searches := rfl
@[simp] theorem modPart_engReset : (modPart n f s).engReset = s.engReset := rfl
@[simp] theorem modPart_cores : (modPart n f s).cores = s.cores := rfl
@[simp] theorem modPart_dies : (modPart n f s).dies = s.dies := rfl
@[simp] theorem modPart_thresh : (modPart n f s).thresh = s.thresh := rfl
@[simp] theorem modPart_wks : (modPart n f s).wks = s.wks := rfl
@[simp] theorem modPart_mem : (modPart n f s).mem = s.mem := rfl
@[simp] theorem modPart_bfm : (modPart n f s).bfm = s.bfm := rfl
@[simp] theorem modPart_lku : (modPart n f s).lku = s.lku := rfl
@[simp] theorem modPart_halo : (modPart n f s).halo = s.halo := rfl
@[simp] theorem modPart_tide : (modPart n f s).tide = s.tide := rfl
@[simp] theorem modPart_fab : (modPart n f s).fab = s.fab := rfl
@[simp] theorem modPart_sp : (modPart n f s).sp = s.sp := rfl
@[simp] theorem modPart_nuc : (modPart n f s).nuc = s.nuc := rfl
@[simp] theorem modPart_hub : (modPart n f s).hub = s.hub := rfl
@[simp] theorem modPart_latch : (modPart n f s).latch = s.latch := rfl
@[simp] theorem modPart_hold : (modPart n f s).hold = s.hold := rfl
@[simp] theorem modPart_free : (modPart n f s).free = s.free := rfl
@[simp] theorem modPart_out : (modPart n f s).out = s.out := rfl
@[simp] theorem modPart_pending : (modPart n f s).pending = s.pending := rfl
end

/-! ### modMtu -/

section
variable (i : InstId) (f : Mtu → Mtu) (s : State)
@[simp] theorem modMtu_mtu : (modMtu i f s).mtu = upd s.mtu i f := rfl
@[simp] theorem modMtu_eph : (modMtu i f s).eph = s.eph := rfl
@[simp] theorem modMtu_evt : (modMtu i f s).evt = s.evt := rfl
@[simp] theorem modMtu_evtin : (modMtu i f s).evtin = s.evtin := rfl
@[simp] theorem modMtu_inst : (modMtu i f s).inst = s.inst := rfl
@[simp] theorem modMtu_parts : (modMtu i f s).parts = s.parts := rfl
@[simp] theorem modMtu_invalJob : (modMtu i f s).invalJob = s.invalJob := rfl
@[simp] theorem modMtu_invalAll : (modMtu i f s).invalAll = s.invalAll := rfl
@[simp] theorem modMtu_invalInst : (modMtu i f s).invalInst = s.invalInst := rfl
@[simp] theorem modMtu_invalAddr : (modMtu i f s).invalAddr = s.invalAddr := rfl
@[simp] theorem modMtu_partOverlap : (modMtu i f s).partOverlap = s.partOverlap := rfl
@[simp] theorem modMtu_partBusy : (modMtu i f s).partBusy = s.partBusy := rfl
@[simp] theorem modMtu_escalations : (modMtu i f s).escalations = s.escalations := rfl
@[simp] theorem modMtu_vfEnable : (modMtu i f s).vfEnable = s.vfEnable := rfl
@[simp] theorem modMtu_numVFs : (modMtu i f s).numVFs = s.numVFs := rfl
@[simp] theorem modMtu_fns : (modMtu i f s).fns = s.fns := rfl
@[simp] theorem modMtu_items : (modMtu i f s).items = s.items := rfl
@[simp] theorem modMtu_nextId : (modMtu i f s).nextId = s.nextId := rfl
@[simp] theorem modMtu_disp : (modMtu i f s).disp = s.disp := rfl
@[simp] theorem modMtu_searches : (modMtu i f s).searches = s.searches := rfl
@[simp] theorem modMtu_engReset : (modMtu i f s).engReset = s.engReset := rfl
@[simp] theorem modMtu_cores : (modMtu i f s).cores = s.cores := rfl
@[simp] theorem modMtu_dies : (modMtu i f s).dies = s.dies := rfl
@[simp] theorem modMtu_thresh : (modMtu i f s).thresh = s.thresh := rfl
@[simp] theorem modMtu_wks : (modMtu i f s).wks = s.wks := rfl
@[simp] theorem modMtu_mem : (modMtu i f s).mem = s.mem := rfl
@[simp] theorem modMtu_bfm : (modMtu i f s).bfm = s.bfm := rfl
@[simp] theorem modMtu_lku : (modMtu i f s).lku = s.lku := rfl
@[simp] theorem modMtu_halo : (modMtu i f s).halo = s.halo := rfl
@[simp] theorem modMtu_tide : (modMtu i f s).tide = s.tide := rfl
@[simp] theorem modMtu_fab : (modMtu i f s).fab = s.fab := rfl
@[simp] theorem modMtu_sp : (modMtu i f s).sp = s.sp := rfl
@[simp] theorem modMtu_nuc : (modMtu i f s).nuc = s.nuc := rfl
@[simp] theorem modMtu_hub : (modMtu i f s).hub = s.hub := rfl
@[simp] theorem modMtu_latch : (modMtu i f s).latch = s.latch := rfl
@[simp] theorem modMtu_hold : (modMtu i f s).hold = s.hold := rfl
@[simp] theorem modMtu_free : (modMtu i f s).free = s.free := rfl
@[simp] theorem modMtu_out : (modMtu i f s).out = s.out := rfl
@[simp] theorem modMtu_pending : (modMtu i f s).pending = s.pending := rfl
end

/-! ### modCore -/

section
variable (c : CoreId) (f : Core → Core) (s : State)
@[simp] theorem modCore_cores : (modCore c f s).cores = upd s.cores c f := rfl
@[simp] theorem modCore_eph : (modCore c f s).eph = s.eph := rfl
@[simp] theorem modCore_evt : (modCore c f s).evt = s.evt := rfl
@[simp] theorem modCore_evtin : (modCore c f s).evtin = s.evtin := rfl
@[simp] theorem modCore_inst : (modCore c f s).inst = s.inst := rfl
@[simp] theorem modCore_parts : (modCore c f s).parts = s.parts := rfl
@[simp] theorem modCore_mtu : (modCore c f s).mtu = s.mtu := rfl
@[simp] theorem modCore_invalJob : (modCore c f s).invalJob = s.invalJob := rfl
@[simp] theorem modCore_invalAll : (modCore c f s).invalAll = s.invalAll := rfl
@[simp] theorem modCore_invalInst : (modCore c f s).invalInst = s.invalInst := rfl
@[simp] theorem modCore_invalAddr : (modCore c f s).invalAddr = s.invalAddr := rfl
@[simp] theorem modCore_partOverlap : (modCore c f s).partOverlap = s.partOverlap := rfl
@[simp] theorem modCore_partBusy : (modCore c f s).partBusy = s.partBusy := rfl
@[simp] theorem modCore_escalations : (modCore c f s).escalations = s.escalations := rfl
@[simp] theorem modCore_vfEnable : (modCore c f s).vfEnable = s.vfEnable := rfl
@[simp] theorem modCore_numVFs : (modCore c f s).numVFs = s.numVFs := rfl
@[simp] theorem modCore_fns : (modCore c f s).fns = s.fns := rfl
@[simp] theorem modCore_items : (modCore c f s).items = s.items := rfl
@[simp] theorem modCore_nextId : (modCore c f s).nextId = s.nextId := rfl
@[simp] theorem modCore_disp : (modCore c f s).disp = s.disp := rfl
@[simp] theorem modCore_searches : (modCore c f s).searches = s.searches := rfl
@[simp] theorem modCore_engReset : (modCore c f s).engReset = s.engReset := rfl
@[simp] theorem modCore_dies : (modCore c f s).dies = s.dies := rfl
@[simp] theorem modCore_thresh : (modCore c f s).thresh = s.thresh := rfl
@[simp] theorem modCore_wks : (modCore c f s).wks = s.wks := rfl
@[simp] theorem modCore_mem : (modCore c f s).mem = s.mem := rfl
@[simp] theorem modCore_bfm : (modCore c f s).bfm = s.bfm := rfl
@[simp] theorem modCore_lku : (modCore c f s).lku = s.lku := rfl
@[simp] theorem modCore_halo : (modCore c f s).halo = s.halo := rfl
@[simp] theorem modCore_tide : (modCore c f s).tide = s.tide := rfl
@[simp] theorem modCore_fab : (modCore c f s).fab = s.fab := rfl
@[simp] theorem modCore_sp : (modCore c f s).sp = s.sp := rfl
@[simp] theorem modCore_nuc : (modCore c f s).nuc = s.nuc := rfl
@[simp] theorem modCore_hub : (modCore c f s).hub = s.hub := rfl
@[simp] theorem modCore_latch : (modCore c f s).latch = s.latch := rfl
@[simp] theorem modCore_hold : (modCore c f s).hold = s.hold := rfl
@[simp] theorem modCore_free : (modCore c f s).free = s.free := rfl
@[simp] theorem modCore_out : (modCore c f s).out = s.out := rfl
@[simp] theorem modCore_pending : (modCore c f s).pending = s.pending := rfl
end

/-! ### modDie -/

section
variable (d : Fin 4) (f : Die → Die) (s : State)
@[simp] theorem modDie_dies : (modDie d f s).dies = upd s.dies d f := rfl
@[simp] theorem modDie_eph : (modDie d f s).eph = s.eph := rfl
@[simp] theorem modDie_evt : (modDie d f s).evt = s.evt := rfl
@[simp] theorem modDie_evtin : (modDie d f s).evtin = s.evtin := rfl
@[simp] theorem modDie_inst : (modDie d f s).inst = s.inst := rfl
@[simp] theorem modDie_parts : (modDie d f s).parts = s.parts := rfl
@[simp] theorem modDie_mtu : (modDie d f s).mtu = s.mtu := rfl
@[simp] theorem modDie_invalJob : (modDie d f s).invalJob = s.invalJob := rfl
@[simp] theorem modDie_invalAll : (modDie d f s).invalAll = s.invalAll := rfl
@[simp] theorem modDie_invalInst : (modDie d f s).invalInst = s.invalInst := rfl
@[simp] theorem modDie_invalAddr : (modDie d f s).invalAddr = s.invalAddr := rfl
@[simp] theorem modDie_partOverlap : (modDie d f s).partOverlap = s.partOverlap := rfl
@[simp] theorem modDie_partBusy : (modDie d f s).partBusy = s.partBusy := rfl
@[simp] theorem modDie_escalations : (modDie d f s).escalations = s.escalations := rfl
@[simp] theorem modDie_vfEnable : (modDie d f s).vfEnable = s.vfEnable := rfl
@[simp] theorem modDie_numVFs : (modDie d f s).numVFs = s.numVFs := rfl
@[simp] theorem modDie_fns : (modDie d f s).fns = s.fns := rfl
@[simp] theorem modDie_items : (modDie d f s).items = s.items := rfl
@[simp] theorem modDie_nextId : (modDie d f s).nextId = s.nextId := rfl
@[simp] theorem modDie_disp : (modDie d f s).disp = s.disp := rfl
@[simp] theorem modDie_searches : (modDie d f s).searches = s.searches := rfl
@[simp] theorem modDie_engReset : (modDie d f s).engReset = s.engReset := rfl
@[simp] theorem modDie_cores : (modDie d f s).cores = s.cores := rfl
@[simp] theorem modDie_thresh : (modDie d f s).thresh = s.thresh := rfl
@[simp] theorem modDie_wks : (modDie d f s).wks = s.wks := rfl
@[simp] theorem modDie_mem : (modDie d f s).mem = s.mem := rfl
@[simp] theorem modDie_bfm : (modDie d f s).bfm = s.bfm := rfl
@[simp] theorem modDie_lku : (modDie d f s).lku = s.lku := rfl
@[simp] theorem modDie_halo : (modDie d f s).halo = s.halo := rfl
@[simp] theorem modDie_tide : (modDie d f s).tide = s.tide := rfl
@[simp] theorem modDie_fab : (modDie d f s).fab = s.fab := rfl
@[simp] theorem modDie_sp : (modDie d f s).sp = s.sp := rfl
@[simp] theorem modDie_nuc : (modDie d f s).nuc = s.nuc := rfl
@[simp] theorem modDie_hub : (modDie d f s).hub = s.hub := rfl
@[simp] theorem modDie_latch : (modDie d f s).latch = s.latch := rfl
@[simp] theorem modDie_hold : (modDie d f s).hold = s.hold := rfl
@[simp] theorem modDie_free : (modDie d f s).free = s.free := rfl
@[simp] theorem modDie_out : (modDie d f s).out = s.out := rfl
@[simp] theorem modDie_pending : (modDie d f s).pending = s.pending := rfl
end

/-! ### modWk -/

section
variable (w : Fin 16) (f : Walker → Walker) (s : State)
@[simp] theorem modWk_wks : (modWk w f s).wks = upd s.wks w f := rfl
@[simp] theorem modWk_eph : (modWk w f s).eph = s.eph := rfl
@[simp] theorem modWk_evt : (modWk w f s).evt = s.evt := rfl
@[simp] theorem modWk_evtin : (modWk w f s).evtin = s.evtin := rfl
@[simp] theorem modWk_inst : (modWk w f s).inst = s.inst := rfl
@[simp] theorem modWk_parts : (modWk w f s).parts = s.parts := rfl
@[simp] theorem modWk_mtu : (modWk w f s).mtu = s.mtu := rfl
@[simp] theorem modWk_invalJob : (modWk w f s).invalJob = s.invalJob := rfl
@[simp] theorem modWk_invalAll : (modWk w f s).invalAll = s.invalAll := rfl
@[simp] theorem modWk_invalInst : (modWk w f s).invalInst = s.invalInst := rfl
@[simp] theorem modWk_invalAddr : (modWk w f s).invalAddr = s.invalAddr := rfl
@[simp] theorem modWk_partOverlap : (modWk w f s).partOverlap = s.partOverlap := rfl
@[simp] theorem modWk_partBusy : (modWk w f s).partBusy = s.partBusy := rfl
@[simp] theorem modWk_escalations : (modWk w f s).escalations = s.escalations := rfl
@[simp] theorem modWk_vfEnable : (modWk w f s).vfEnable = s.vfEnable := rfl
@[simp] theorem modWk_numVFs : (modWk w f s).numVFs = s.numVFs := rfl
@[simp] theorem modWk_fns : (modWk w f s).fns = s.fns := rfl
@[simp] theorem modWk_items : (modWk w f s).items = s.items := rfl
@[simp] theorem modWk_nextId : (modWk w f s).nextId = s.nextId := rfl
@[simp] theorem modWk_disp : (modWk w f s).disp = s.disp := rfl
@[simp] theorem modWk_searches : (modWk w f s).searches = s.searches := rfl
@[simp] theorem modWk_engReset : (modWk w f s).engReset = s.engReset := rfl
@[simp] theorem modWk_cores : (modWk w f s).cores = s.cores := rfl
@[simp] theorem modWk_dies : (modWk w f s).dies = s.dies := rfl
@[simp] theorem modWk_thresh : (modWk w f s).thresh = s.thresh := rfl
@[simp] theorem modWk_mem : (modWk w f s).mem = s.mem := rfl
@[simp] theorem modWk_bfm : (modWk w f s).bfm = s.bfm := rfl
@[simp] theorem modWk_lku : (modWk w f s).lku = s.lku := rfl
@[simp] theorem modWk_halo : (modWk w f s).halo = s.halo := rfl
@[simp] theorem modWk_tide : (modWk w f s).tide = s.tide := rfl
@[simp] theorem modWk_fab : (modWk w f s).fab = s.fab := rfl
@[simp] theorem modWk_sp : (modWk w f s).sp = s.sp := rfl
@[simp] theorem modWk_nuc : (modWk w f s).nuc = s.nuc := rfl
@[simp] theorem modWk_hub : (modWk w f s).hub = s.hub := rfl
@[simp] theorem modWk_latch : (modWk w f s).latch = s.latch := rfl
@[simp] theorem modWk_hold : (modWk w f s).hold = s.hold := rfl
@[simp] theorem modWk_free : (modWk w f s).free = s.free := rfl
@[simp] theorem modWk_out : (modWk w f s).out = s.out := rfl
@[simp] theorem modWk_pending : (modWk w f s).pending = s.pending := rfl
end

/-! ### modPin -/

section
variable (n : Fin 8) (f : EvtPin → EvtPin) (s : State)
@[simp] theorem modPin_evt : (modPin n f s).evt = upd s.evt n f := rfl
@[simp] theorem modPin_eph : (modPin n f s).eph = s.eph := rfl
@[simp] theorem modPin_evtin : (modPin n f s).evtin = s.evtin := rfl
@[simp] theorem modPin_inst : (modPin n f s).inst = s.inst := rfl
@[simp] theorem modPin_parts : (modPin n f s).parts = s.parts := rfl
@[simp] theorem modPin_mtu : (modPin n f s).mtu = s.mtu := rfl
@[simp] theorem modPin_invalJob : (modPin n f s).invalJob = s.invalJob := rfl
@[simp] theorem modPin_invalAll : (modPin n f s).invalAll = s.invalAll := rfl
@[simp] theorem modPin_invalInst : (modPin n f s).invalInst = s.invalInst := rfl
@[simp] theorem modPin_invalAddr : (modPin n f s).invalAddr = s.invalAddr := rfl
@[simp] theorem modPin_partOverlap : (modPin n f s).partOverlap = s.partOverlap := rfl
@[simp] theorem modPin_partBusy : (modPin n f s).partBusy = s.partBusy := rfl
@[simp] theorem modPin_escalations : (modPin n f s).escalations = s.escalations := rfl
@[simp] theorem modPin_vfEnable : (modPin n f s).vfEnable = s.vfEnable := rfl
@[simp] theorem modPin_numVFs : (modPin n f s).numVFs = s.numVFs := rfl
@[simp] theorem modPin_fns : (modPin n f s).fns = s.fns := rfl
@[simp] theorem modPin_items : (modPin n f s).items = s.items := rfl
@[simp] theorem modPin_nextId : (modPin n f s).nextId = s.nextId := rfl
@[simp] theorem modPin_disp : (modPin n f s).disp = s.disp := rfl
@[simp] theorem modPin_searches : (modPin n f s).searches = s.searches := rfl
@[simp] theorem modPin_engReset : (modPin n f s).engReset = s.engReset := rfl
@[simp] theorem modPin_cores : (modPin n f s).cores = s.cores := rfl
@[simp] theorem modPin_dies : (modPin n f s).dies = s.dies := rfl
@[simp] theorem modPin_thresh : (modPin n f s).thresh = s.thresh := rfl
@[simp] theorem modPin_wks : (modPin n f s).wks = s.wks := rfl
@[simp] theorem modPin_mem : (modPin n f s).mem = s.mem := rfl
@[simp] theorem modPin_bfm : (modPin n f s).bfm = s.bfm := rfl
@[simp] theorem modPin_lku : (modPin n f s).lku = s.lku := rfl
@[simp] theorem modPin_halo : (modPin n f s).halo = s.halo := rfl
@[simp] theorem modPin_tide : (modPin n f s).tide = s.tide := rfl
@[simp] theorem modPin_fab : (modPin n f s).fab = s.fab := rfl
@[simp] theorem modPin_sp : (modPin n f s).sp = s.sp := rfl
@[simp] theorem modPin_nuc : (modPin n f s).nuc = s.nuc := rfl
@[simp] theorem modPin_hub : (modPin n f s).hub = s.hub := rfl
@[simp] theorem modPin_latch : (modPin n f s).latch = s.latch := rfl
@[simp] theorem modPin_hold : (modPin n f s).hold = s.hold := rfl
@[simp] theorem modPin_free : (modPin n f s).free = s.free := rfl
@[simp] theorem modPin_out : (modPin n f s).out = s.out := rfl
@[simp] theorem modPin_pending : (modPin n f s).pending = s.pending := rfl
end

/-! ### modPort -/

section
variable (p : Fin 8) (f : Port → Port) (s : State)
@[simp] theorem modPort_fab : (modPort p f s).fab = { s.fab with ports := upd s.fab.ports p f } := rfl
@[simp] theorem modPort_eph : (modPort p f s).eph = s.eph := rfl
@[simp] theorem modPort_evt : (modPort p f s).evt = s.evt := rfl
@[simp] theorem modPort_evtin : (modPort p f s).evtin = s.evtin := rfl
@[simp] theorem modPort_inst : (modPort p f s).inst = s.inst := rfl
@[simp] theorem modPort_parts : (modPort p f s).parts = s.parts := rfl
@[simp] theorem modPort_mtu : (modPort p f s).mtu = s.mtu := rfl
@[simp] theorem modPort_invalJob : (modPort p f s).invalJob = s.invalJob := rfl
@[simp] theorem modPort_invalAll : (modPort p f s).invalAll = s.invalAll := rfl
@[simp] theorem modPort_invalInst : (modPort p f s).invalInst = s.invalInst := rfl
@[simp] theorem modPort_invalAddr : (modPort p f s).invalAddr = s.invalAddr := rfl
@[simp] theorem modPort_partOverlap : (modPort p f s).partOverlap = s.partOverlap := rfl
@[simp] theorem modPort_partBusy : (modPort p f s).partBusy = s.partBusy := rfl
@[simp] theorem modPort_escalations : (modPort p f s).escalations = s.escalations := rfl
@[simp] theorem modPort_vfEnable : (modPort p f s).vfEnable = s.vfEnable := rfl
@[simp] theorem modPort_numVFs : (modPort p f s).numVFs = s.numVFs := rfl
@[simp] theorem modPort_fns : (modPort p f s).fns = s.fns := rfl
@[simp] theorem modPort_items : (modPort p f s).items = s.items := rfl
@[simp] theorem modPort_nextId : (modPort p f s).nextId = s.nextId := rfl
@[simp] theorem modPort_disp : (modPort p f s).disp = s.disp := rfl
@[simp] theorem modPort_searches : (modPort p f s).searches = s.searches := rfl
@[simp] theorem modPort_engReset : (modPort p f s).engReset = s.engReset := rfl
@[simp] theorem modPort_cores : (modPort p f s).cores = s.cores := rfl
@[simp] theorem modPort_dies : (modPort p f s).dies = s.dies := rfl
@[simp] theorem modPort_thresh : (modPort p f s).thresh = s.thresh := rfl
@[simp] theorem modPort_wks : (modPort p f s).wks = s.wks := rfl
@[simp] theorem modPort_mem : (modPort p f s).mem = s.mem := rfl
@[simp] theorem modPort_bfm : (modPort p f s).bfm = s.bfm := rfl
@[simp] theorem modPort_lku : (modPort p f s).lku = s.lku := rfl
@[simp] theorem modPort_halo : (modPort p f s).halo = s.halo := rfl
@[simp] theorem modPort_tide : (modPort p f s).tide = s.tide := rfl
@[simp] theorem modPort_sp : (modPort p f s).sp = s.sp := rfl
@[simp] theorem modPort_nuc : (modPort p f s).nuc = s.nuc := rfl
@[simp] theorem modPort_hub : (modPort p f s).hub = s.hub := rfl
@[simp] theorem modPort_latch : (modPort p f s).latch = s.latch := rfl
@[simp] theorem modPort_hold : (modPort p f s).hold = s.hold := rfl
@[simp] theorem modPort_free : (modPort p f s).free = s.free := rfl
@[simp] theorem modPort_out : (modPort p f s).out = s.out := rfl
@[simp] theorem modPort_pending : (modPort p f s).pending = s.pending := rfl
end

/-! ### modLane -/

section
variable (l : Fin 32) (f : Lane → Lane) (s : State)
@[simp] theorem modLane_fab : (modLane l f s).fab = { s.fab with lanes := upd s.fab.lanes l f } := rfl
@[simp] theorem modLane_eph : (modLane l f s).eph = s.eph := rfl
@[simp] theorem modLane_evt : (modLane l f s).evt = s.evt := rfl
@[simp] theorem modLane_evtin : (modLane l f s).evtin = s.evtin := rfl
@[simp] theorem modLane_inst : (modLane l f s).inst = s.inst := rfl
@[simp] theorem modLane_parts : (modLane l f s).parts = s.parts := rfl
@[simp] theorem modLane_mtu : (modLane l f s).mtu = s.mtu := rfl
@[simp] theorem modLane_invalJob : (modLane l f s).invalJob = s.invalJob := rfl
@[simp] theorem modLane_invalAll : (modLane l f s).invalAll = s.invalAll := rfl
@[simp] theorem modLane_invalInst : (modLane l f s).invalInst = s.invalInst := rfl
@[simp] theorem modLane_invalAddr : (modLane l f s).invalAddr = s.invalAddr := rfl
@[simp] theorem modLane_partOverlap : (modLane l f s).partOverlap = s.partOverlap := rfl
@[simp] theorem modLane_partBusy : (modLane l f s).partBusy = s.partBusy := rfl
@[simp] theorem modLane_escalations : (modLane l f s).escalations = s.escalations := rfl
@[simp] theorem modLane_vfEnable : (modLane l f s).vfEnable = s.vfEnable := rfl
@[simp] theorem modLane_numVFs : (modLane l f s).numVFs = s.numVFs := rfl
@[simp] theorem modLane_fns : (modLane l f s).fns = s.fns := rfl
@[simp] theorem modLane_items : (modLane l f s).items = s.items := rfl
@[simp] theorem modLane_nextId : (modLane l f s).nextId = s.nextId := rfl
@[simp] theorem modLane_disp : (modLane l f s).disp = s.disp := rfl
@[simp] theorem modLane_searches : (modLane l f s).searches = s.searches := rfl
@[simp] theorem modLane_engReset : (modLane l f s).engReset = s.engReset := rfl
@[simp] theorem modLane_cores : (modLane l f s).cores = s.cores := rfl
@[simp] theorem modLane_dies : (modLane l f s).dies = s.dies := rfl
@[simp] theorem modLane_thresh : (modLane l f s).thresh = s.thresh := rfl
@[simp] theorem modLane_wks : (modLane l f s).wks = s.wks := rfl
@[simp] theorem modLane_mem : (modLane l f s).mem = s.mem := rfl
@[simp] theorem modLane_bfm : (modLane l f s).bfm = s.bfm := rfl
@[simp] theorem modLane_lku : (modLane l f s).lku = s.lku := rfl
@[simp] theorem modLane_halo : (modLane l f s).halo = s.halo := rfl
@[simp] theorem modLane_tide : (modLane l f s).tide = s.tide := rfl
@[simp] theorem modLane_sp : (modLane l f s).sp = s.sp := rfl
@[simp] theorem modLane_nuc : (modLane l f s).nuc = s.nuc := rfl
@[simp] theorem modLane_hub : (modLane l f s).hub = s.hub := rfl
@[simp] theorem modLane_latch : (modLane l f s).latch = s.latch := rfl
@[simp] theorem modLane_hold : (modLane l f s).hold = s.hold := rfl
@[simp] theorem modLane_free : (modLane l f s).free = s.free := rfl
@[simp] theorem modLane_out : (modLane l f s).out = s.out := rfl
@[simp] theorem modLane_pending : (modLane l f s).pending = s.pending := rfl
end

/-! ### modUnit -/

section
variable (u : Fin 622) (f : UnitSt → UnitSt) (s : State)
@[simp] theorem modUnit_nuc : (modUnit u f s).nuc = { s.nuc with units := upd s.nuc.units u f } := rfl
@[simp] theorem modUnit_eph : (modUnit u f s).eph = s.eph := rfl
@[simp] theorem modUnit_evt : (modUnit u f s).evt = s.evt := rfl
@[simp] theorem modUnit_evtin : (modUnit u f s).evtin = s.evtin := rfl
@[simp] theorem modUnit_inst : (modUnit u f s).inst = s.inst := rfl
@[simp] theorem modUnit_parts : (modUnit u f s).parts = s.parts := rfl
@[simp] theorem modUnit_mtu : (modUnit u f s).mtu = s.mtu := rfl
@[simp] theorem modUnit_invalJob : (modUnit u f s).invalJob = s.invalJob := rfl
@[simp] theorem modUnit_invalAll : (modUnit u f s).invalAll = s.invalAll := rfl
@[simp] theorem modUnit_invalInst : (modUnit u f s).invalInst = s.invalInst := rfl
@[simp] theorem modUnit_invalAddr : (modUnit u f s).invalAddr = s.invalAddr := rfl
@[simp] theorem modUnit_partOverlap : (modUnit u f s).partOverlap = s.partOverlap := rfl
@[simp] theorem modUnit_partBusy : (modUnit u f s).partBusy = s.partBusy := rfl
@[simp] theorem modUnit_escalations : (modUnit u f s).escalations = s.escalations := rfl
@[simp] theorem modUnit_vfEnable : (modUnit u f s).vfEnable = s.vfEnable := rfl
@[simp] theorem modUnit_numVFs : (modUnit u f s).numVFs = s.numVFs := rfl
@[simp] theorem modUnit_fns : (modUnit u f s).fns = s.fns := rfl
@[simp] theorem modUnit_items : (modUnit u f s).items = s.items := rfl
@[simp] theorem modUnit_nextId : (modUnit u f s).nextId = s.nextId := rfl
@[simp] theorem modUnit_disp : (modUnit u f s).disp = s.disp := rfl
@[simp] theorem modUnit_searches : (modUnit u f s).searches = s.searches := rfl
@[simp] theorem modUnit_engReset : (modUnit u f s).engReset = s.engReset := rfl
@[simp] theorem modUnit_cores : (modUnit u f s).cores = s.cores := rfl
@[simp] theorem modUnit_dies : (modUnit u f s).dies = s.dies := rfl
@[simp] theorem modUnit_thresh : (modUnit u f s).thresh = s.thresh := rfl
@[simp] theorem modUnit_wks : (modUnit u f s).wks = s.wks := rfl
@[simp] theorem modUnit_mem : (modUnit u f s).mem = s.mem := rfl
@[simp] theorem modUnit_bfm : (modUnit u f s).bfm = s.bfm := rfl
@[simp] theorem modUnit_lku : (modUnit u f s).lku = s.lku := rfl
@[simp] theorem modUnit_halo : (modUnit u f s).halo = s.halo := rfl
@[simp] theorem modUnit_tide : (modUnit u f s).tide = s.tide := rfl
@[simp] theorem modUnit_fab : (modUnit u f s).fab = s.fab := rfl
@[simp] theorem modUnit_sp : (modUnit u f s).sp = s.sp := rfl
@[simp] theorem modUnit_hub : (modUnit u f s).hub = s.hub := rfl
@[simp] theorem modUnit_latch : (modUnit u f s).latch = s.latch := rfl
@[simp] theorem modUnit_hold : (modUnit u f s).hold = s.hold := rfl
@[simp] theorem modUnit_free : (modUnit u f s).free = s.free := rfl
@[simp] theorem modUnit_out : (modUnit u f s).out = s.out := rfl
@[simp] theorem modUnit_pending : (modUnit u f s).pending = s.pending := rfl
end

/-! ### modLog -/

section
variable (i : InstId) (f : LogRing → LogRing) (s : State)
@[simp] theorem modLog_nuc : (modLog i f s).nuc = { s.nuc with logs := upd s.nuc.logs i f } := rfl
@[simp] theorem modLog_eph : (modLog i f s).eph = s.eph := rfl
@[simp] theorem modLog_evt : (modLog i f s).evt = s.evt := rfl
@[simp] theorem modLog_evtin : (modLog i f s).evtin = s.evtin := rfl
@[simp] theorem modLog_inst : (modLog i f s).inst = s.inst := rfl
@[simp] theorem modLog_parts : (modLog i f s).parts = s.parts := rfl
@[simp] theorem modLog_mtu : (modLog i f s).mtu = s.mtu := rfl
@[simp] theorem modLog_invalJob : (modLog i f s).invalJob = s.invalJob := rfl
@[simp] theorem modLog_invalAll : (modLog i f s).invalAll = s.invalAll := rfl
@[simp] theorem modLog_invalInst : (modLog i f s).invalInst = s.invalInst := rfl
@[simp] theorem modLog_invalAddr : (modLog i f s).invalAddr = s.invalAddr := rfl
@[simp] theorem modLog_partOverlap : (modLog i f s).partOverlap = s.partOverlap := rfl
@[simp] theorem modLog_partBusy : (modLog i f s).partBusy = s.partBusy := rfl
@[simp] theorem modLog_escalations : (modLog i f s).escalations = s.escalations := rfl
@[simp] theorem modLog_vfEnable : (modLog i f s).vfEnable = s.vfEnable := rfl
@[simp] theorem modLog_numVFs : (modLog i f s).numVFs = s.numVFs := rfl
@[simp] theorem modLog_fns : (modLog i f s).fns = s.fns := rfl
@[simp] theorem modLog_items : (modLog i f s).items = s.items := rfl
@[simp] theorem modLog_nextId : (modLog i f s).nextId = s.nextId := rfl
@[simp] theorem modLog_disp : (modLog i f s).disp = s.disp := rfl
@[simp] theorem modLog_searches : (modLog i f s).searches = s.searches := rfl
@[simp] theorem modLog_engReset : (modLog i f s).engReset = s.engReset := rfl
@[simp] theorem modLog_cores : (modLog i f s).cores = s.cores := rfl
@[simp] theorem modLog_dies : (modLog i f s).dies = s.dies := rfl
@[simp] theorem modLog_thresh : (modLog i f s).thresh = s.thresh := rfl
@[simp] theorem modLog_wks : (modLog i f s).wks = s.wks := rfl
@[simp] theorem modLog_mem : (modLog i f s).mem = s.mem := rfl
@[simp] theorem modLog_bfm : (modLog i f s).bfm = s.bfm := rfl
@[simp] theorem modLog_lku : (modLog i f s).lku = s.lku := rfl
@[simp] theorem modLog_halo : (modLog i f s).halo = s.halo := rfl
@[simp] theorem modLog_tide : (modLog i f s).tide = s.tide := rfl
@[simp] theorem modLog_fab : (modLog i f s).fab = s.fab := rfl
@[simp] theorem modLog_sp : (modLog i f s).sp = s.sp := rfl
@[simp] theorem modLog_hub : (modLog i f s).hub = s.hub := rfl
@[simp] theorem modLog_latch : (modLog i f s).latch = s.latch := rfl
@[simp] theorem modLog_hold : (modLog i f s).hold = s.hold := rfl
@[simp] theorem modLog_free : (modLog i f s).free = s.free := rfl
@[simp] theorem modLog_out : (modLog i f s).out = s.out := rfl
@[simp] theorem modLog_pending : (modLog i f s).pending = s.pending := rfl
end

/-! ### modSq -/

section
variable (i : InstId) (q : Fin 16) (f : Sq → Sq) (s : State)
@[simp] theorem modSq_inst : (modSq i q f s).inst = upd s.inst i fun x => { x with sq := upd x.sq q f } := rfl
@[simp] theorem modSq_eph : (modSq i q f s).eph = s.eph := rfl
@[simp] theorem modSq_evt : (modSq i q f s).evt = s.evt := rfl
@[simp] theorem modSq_evtin : (modSq i q f s).evtin = s.evtin := rfl
@[simp] theorem modSq_parts : (modSq i q f s).parts = s.parts := rfl
@[simp] theorem modSq_mtu : (modSq i q f s).mtu = s.mtu := rfl
@[simp] theorem modSq_invalJob : (modSq i q f s).invalJob = s.invalJob := rfl
@[simp] theorem modSq_invalAll : (modSq i q f s).invalAll = s.invalAll := rfl
@[simp] theorem modSq_invalInst : (modSq i q f s).invalInst = s.invalInst := rfl
@[simp] theorem modSq_invalAddr : (modSq i q f s).invalAddr = s.invalAddr := rfl
@[simp] theorem modSq_partOverlap : (modSq i q f s).partOverlap = s.partOverlap := rfl
@[simp] theorem modSq_partBusy : (modSq i q f s).partBusy = s.partBusy := rfl
@[simp] theorem modSq_escalations : (modSq i q f s).escalations = s.escalations := rfl
@[simp] theorem modSq_vfEnable : (modSq i q f s).vfEnable = s.vfEnable := rfl
@[simp] theorem modSq_numVFs : (modSq i q f s).numVFs = s.numVFs := rfl
@[simp] theorem modSq_fns : (modSq i q f s).fns = s.fns := rfl
@[simp] theorem modSq_items : (modSq i q f s).items = s.items := rfl
@[simp] theorem modSq_nextId : (modSq i q f s).nextId = s.nextId := rfl
@[simp] theorem modSq_disp : (modSq i q f s).disp = s.disp := rfl
@[simp] theorem modSq_searches : (modSq i q f s).searches = s.searches := rfl
@[simp] theorem modSq_engReset : (modSq i q f s).engReset = s.engReset := rfl
@[simp] theorem modSq_cores : (modSq i q f s).cores = s.cores := rfl
@[simp] theorem modSq_dies : (modSq i q f s).dies = s.dies := rfl
@[simp] theorem modSq_thresh : (modSq i q f s).thresh = s.thresh := rfl
@[simp] theorem modSq_wks : (modSq i q f s).wks = s.wks := rfl
@[simp] theorem modSq_mem : (modSq i q f s).mem = s.mem := rfl
@[simp] theorem modSq_bfm : (modSq i q f s).bfm = s.bfm := rfl
@[simp] theorem modSq_lku : (modSq i q f s).lku = s.lku := rfl
@[simp] theorem modSq_halo : (modSq i q f s).halo = s.halo := rfl
@[simp] theorem modSq_tide : (modSq i q f s).tide = s.tide := rfl
@[simp] theorem modSq_fab : (modSq i q f s).fab = s.fab := rfl
@[simp] theorem modSq_sp : (modSq i q f s).sp = s.sp := rfl
@[simp] theorem modSq_nuc : (modSq i q f s).nuc = s.nuc := rfl
@[simp] theorem modSq_hub : (modSq i q f s).hub = s.hub := rfl
@[simp] theorem modSq_latch : (modSq i q f s).latch = s.latch := rfl
@[simp] theorem modSq_hold : (modSq i q f s).hold = s.hold := rfl
@[simp] theorem modSq_free : (modSq i q f s).free = s.free := rfl
@[simp] theorem modSq_out : (modSq i q f s).out = s.out := rfl
@[simp] theorem modSq_pending : (modSq i q f s).pending = s.pending := rfl
end

/-! ### modCq -/

section
variable (i : InstId) (q : Fin 16) (f : Cq → Cq) (s : State)
@[simp] theorem modCq_inst : (modCq i q f s).inst = upd s.inst i fun x => { x with cq := upd x.cq q f } := rfl
@[simp] theorem modCq_eph : (modCq i q f s).eph = s.eph := rfl
@[simp] theorem modCq_evt : (modCq i q f s).evt = s.evt := rfl
@[simp] theorem modCq_evtin : (modCq i q f s).evtin = s.evtin := rfl
@[simp] theorem modCq_parts : (modCq i q f s).parts = s.parts := rfl
@[simp] theorem modCq_mtu : (modCq i q f s).mtu = s.mtu := rfl
@[simp] theorem modCq_invalJob : (modCq i q f s).invalJob = s.invalJob := rfl
@[simp] theorem modCq_invalAll : (modCq i q f s).invalAll = s.invalAll := rfl
@[simp] theorem modCq_invalInst : (modCq i q f s).invalInst = s.invalInst := rfl
@[simp] theorem modCq_invalAddr : (modCq i q f s).invalAddr = s.invalAddr := rfl
@[simp] theorem modCq_partOverlap : (modCq i q f s).partOverlap = s.partOverlap := rfl
@[simp] theorem modCq_partBusy : (modCq i q f s).partBusy = s.partBusy := rfl
@[simp] theorem modCq_escalations : (modCq i q f s).escalations = s.escalations := rfl
@[simp] theorem modCq_vfEnable : (modCq i q f s).vfEnable = s.vfEnable := rfl
@[simp] theorem modCq_numVFs : (modCq i q f s).numVFs = s.numVFs := rfl
@[simp] theorem modCq_fns : (modCq i q f s).fns = s.fns := rfl
@[simp] theorem modCq_items : (modCq i q f s).items = s.items := rfl
@[simp] theorem modCq_nextId : (modCq i q f s).nextId = s.nextId := rfl
@[simp] theorem modCq_disp : (modCq i q f s).disp = s.disp := rfl
@[simp] theorem modCq_searches : (modCq i q f s).searches = s.searches := rfl
@[simp] theorem modCq_engReset : (modCq i q f s).engReset = s.engReset := rfl
@[simp] theorem modCq_cores : (modCq i q f s).cores = s.cores := rfl
@[simp] theorem modCq_dies : (modCq i q f s).dies = s.dies := rfl
@[simp] theorem modCq_thresh : (modCq i q f s).thresh = s.thresh := rfl
@[simp] theorem modCq_wks : (modCq i q f s).wks = s.wks := rfl
@[simp] theorem modCq_mem : (modCq i q f s).mem = s.mem := rfl
@[simp] theorem modCq_bfm : (modCq i q f s).bfm = s.bfm := rfl
@[simp] theorem modCq_lku : (modCq i q f s).lku = s.lku := rfl
@[simp] theorem modCq_halo : (modCq i q f s).halo = s.halo := rfl
@[simp] theorem modCq_tide : (modCq i q f s).tide = s.tide := rfl
@[simp] theorem modCq_fab : (modCq i q f s).fab = s.fab := rfl
@[simp] theorem modCq_sp : (modCq i q f s).sp = s.sp := rfl
@[simp] theorem modCq_nuc : (modCq i q f s).nuc = s.nuc := rfl
@[simp] theorem modCq_hub : (modCq i q f s).hub = s.hub := rfl
@[simp] theorem modCq_latch : (modCq i q f s).latch = s.latch := rfl
@[simp] theorem modCq_hold : (modCq i q f s).hold = s.hold := rfl
@[simp] theorem modCq_free : (modCq i q f s).free = s.free := rfl
@[simp] theorem modCq_out : (modCq i q f s).out = s.out := rfl
@[simp] theorem modCq_pending : (modCq i q f s).pending = s.pending := rfl
end

/-! ### modLock -/

section
variable (n : Fin 4096) (f : Lock → Lock) (s : State)
@[simp] theorem modLock_lku : (modLock n f s).lku = { s.lku with locks := upd s.lku.locks n f } := rfl
@[simp] theorem modLock_eph : (modLock n f s).eph = s.eph := rfl
@[simp] theorem modLock_evt : (modLock n f s).evt = s.evt := rfl
@[simp] theorem modLock_evtin : (modLock n f s).evtin = s.evtin := rfl
@[simp] theorem modLock_inst : (modLock n f s).inst = s.inst := rfl
@[simp] theorem modLock_parts : (modLock n f s).parts = s.parts := rfl
@[simp] theorem modLock_mtu : (modLock n f s).mtu = s.mtu := rfl
@[simp] theorem modLock_invalJob : (modLock n f s).invalJob = s.invalJob := rfl
@[simp] theorem modLock_invalAll : (modLock n f s).invalAll = s.invalAll := rfl
@[simp] theorem modLock_invalInst : (modLock n f s).invalInst = s.invalInst := rfl
@[simp] theorem modLock_invalAddr : (modLock n f s).invalAddr = s.invalAddr := rfl
@[simp] theorem modLock_partOverlap : (modLock n f s).partOverlap = s.partOverlap := rfl
@[simp] theorem modLock_partBusy : (modLock n f s).partBusy = s.partBusy := rfl
@[simp] theorem modLock_escalations : (modLock n f s).escalations = s.escalations := rfl
@[simp] theorem modLock_vfEnable : (modLock n f s).vfEnable = s.vfEnable := rfl
@[simp] theorem modLock_numVFs : (modLock n f s).numVFs = s.numVFs := rfl
@[simp] theorem modLock_fns : (modLock n f s).fns = s.fns := rfl
@[simp] theorem modLock_items : (modLock n f s).items = s.items := rfl
@[simp] theorem modLock_nextId : (modLock n f s).nextId = s.nextId := rfl
@[simp] theorem modLock_disp : (modLock n f s).disp = s.disp := rfl
@[simp] theorem modLock_searches : (modLock n f s).searches = s.searches := rfl
@[simp] theorem modLock_engReset : (modLock n f s).engReset = s.engReset := rfl
@[simp] theorem modLock_cores : (modLock n f s).cores = s.cores := rfl
@[simp] theorem modLock_dies : (modLock n f s).dies = s.dies := rfl
@[simp] theorem modLock_thresh : (modLock n f s).thresh = s.thresh := rfl
@[simp] theorem modLock_wks : (modLock n f s).wks = s.wks := rfl
@[simp] theorem modLock_mem : (modLock n f s).mem = s.mem := rfl
@[simp] theorem modLock_bfm : (modLock n f s).bfm = s.bfm := rfl
@[simp] theorem modLock_halo : (modLock n f s).halo = s.halo := rfl
@[simp] theorem modLock_tide : (modLock n f s).tide = s.tide := rfl
@[simp] theorem modLock_fab : (modLock n f s).fab = s.fab := rfl
@[simp] theorem modLock_sp : (modLock n f s).sp = s.sp := rfl
@[simp] theorem modLock_nuc : (modLock n f s).nuc = s.nuc := rfl
@[simp] theorem modLock_hub : (modLock n f s).hub = s.hub := rfl
@[simp] theorem modLock_latch : (modLock n f s).latch = s.latch := rfl
@[simp] theorem modLock_hold : (modLock n f s).hold = s.hold := rfl
@[simp] theorem modLock_free : (modLock n f s).free = s.free := rfl
@[simp] theorem modLock_out : (modLock n f s).out = s.out := rfl
@[simp] theorem modLock_pending : (modLock n f s).pending = s.pending := rfl
end

/-! ### modPool -/

section
variable (p : Fin 16) (f : Pool → Pool) (s : State)
@[simp] theorem modPool_bfm : (modPool p f s).bfm = { s.bfm with pools := upd s.bfm.pools p f } := rfl
@[simp] theorem modPool_eph : (modPool p f s).eph = s.eph := rfl
@[simp] theorem modPool_evt : (modPool p f s).evt = s.evt := rfl
@[simp] theorem modPool_evtin : (modPool p f s).evtin = s.evtin := rfl
@[simp] theorem modPool_inst : (modPool p f s).inst = s.inst := rfl
@[simp] theorem modPool_parts : (modPool p f s).parts = s.parts := rfl
@[simp] theorem modPool_mtu : (modPool p f s).mtu = s.mtu := rfl
@[simp] theorem modPool_invalJob : (modPool p f s).invalJob = s.invalJob := rfl
@[simp] theorem modPool_invalAll : (modPool p f s).invalAll = s.invalAll := rfl
@[simp] theorem modPool_invalInst : (modPool p f s).invalInst = s.invalInst := rfl
@[simp] theorem modPool_invalAddr : (modPool p f s).invalAddr = s.invalAddr := rfl
@[simp] theorem modPool_partOverlap : (modPool p f s).partOverlap = s.partOverlap := rfl
@[simp] theorem modPool_partBusy : (modPool p f s).partBusy = s.partBusy := rfl
@[simp] theorem modPool_escalations : (modPool p f s).escalations = s.escalations := rfl
@[simp] theorem modPool_vfEnable : (modPool p f s).vfEnable = s.vfEnable := rfl
@[simp] theorem modPool_numVFs : (modPool p f s).numVFs = s.numVFs := rfl
@[simp] theorem modPool_fns : (modPool p f s).fns = s.fns := rfl
@[simp] theorem modPool_items : (modPool p f s).items = s.items := rfl
@[simp] theorem modPool_nextId : (modPool p f s).nextId = s.nextId := rfl
@[simp] theorem modPool_disp : (modPool p f s).disp = s.disp := rfl
@[simp] theorem modPool_searches : (modPool p f s).searches = s.searches := rfl
@[simp] theorem modPool_engReset : (modPool p f s).engReset = s.engReset := rfl
@[simp] theorem modPool_cores : (modPool p f s).cores = s.cores := rfl
@[simp] theorem modPool_dies : (modPool p f s).dies = s.dies := rfl
@[simp] theorem modPool_thresh : (modPool p f s).thresh = s.thresh := rfl
@[simp] theorem modPool_wks : (modPool p f s).wks = s.wks := rfl
@[simp] theorem modPool_mem : (modPool p f s).mem = s.mem := rfl
@[simp] theorem modPool_lku : (modPool p f s).lku = s.lku := rfl
@[simp] theorem modPool_halo : (modPool p f s).halo = s.halo := rfl
@[simp] theorem modPool_tide : (modPool p f s).tide = s.tide := rfl
@[simp] theorem modPool_fab : (modPool p f s).fab = s.fab := rfl
@[simp] theorem modPool_sp : (modPool p f s).sp = s.sp := rfl
@[simp] theorem modPool_nuc : (modPool p f s).nuc = s.nuc := rfl
@[simp] theorem modPool_hub : (modPool p f s).hub = s.hub := rfl
@[simp] theorem modPool_latch : (modPool p f s).latch = s.latch := rfl
@[simp] theorem modPool_hold : (modPool p f s).hold = s.hold := rfl
@[simp] theorem modPool_free : (modPool p f s).free = s.free := rfl
@[simp] theorem modPool_out : (modPool p f s).out = s.out := rfl
@[simp] theorem modPool_pending : (modPool p f s).pending = s.pending := rfl
end

/-! ### modMbox -/

section
variable (c : CoreId) (m : Fin 8) (f : Mbox → Mbox) (s : State)
@[simp] theorem modMbox_cores : (modMbox c m f s).cores = upd s.cores c fun k => { k with mbox := upd k.mbox m f } := rfl
@[simp] theorem modMbox_eph : (modMbox c m f s).eph = s.eph := rfl
@[simp] theorem modMbox_evt : (modMbox c m f s).evt = s.evt := rfl
@[simp] theorem modMbox_evtin : (modMbox c m f s).evtin = s.evtin := rfl
@[simp] theorem modMbox_inst : (modMbox c m f s).inst = s.inst := rfl
@[simp] theorem modMbox_parts : (modMbox c m f s).parts = s.parts := rfl
@[simp] theorem modMbox_mtu : (modMbox c m f s).mtu = s.mtu := rfl
@[simp] theorem modMbox_invalJob : (modMbox c m f s).invalJob = s.invalJob := rfl
@[simp] theorem modMbox_invalAll : (modMbox c m f s).invalAll = s.invalAll := rfl
@[simp] theorem modMbox_invalInst : (modMbox c m f s).invalInst = s.invalInst := rfl
@[simp] theorem modMbox_invalAddr : (modMbox c m f s).invalAddr = s.invalAddr := rfl
@[simp] theorem modMbox_partOverlap : (modMbox c m f s).partOverlap = s.partOverlap := rfl
@[simp] theorem modMbox_partBusy : (modMbox c m f s).partBusy = s.partBusy := rfl
@[simp] theorem modMbox_escalations : (modMbox c m f s).escalations = s.escalations := rfl
@[simp] theorem modMbox_vfEnable : (modMbox c m f s).vfEnable = s.vfEnable := rfl
@[simp] theorem modMbox_numVFs : (modMbox c m f s).numVFs = s.numVFs := rfl
@[simp] theorem modMbox_fns : (modMbox c m f s).fns = s.fns := rfl
@[simp] theorem modMbox_items : (modMbox c m f s).items = s.items := rfl
@[simp] theorem modMbox_nextId : (modMbox c m f s).nextId = s.nextId := rfl
@[simp] theorem modMbox_disp : (modMbox c m f s).disp = s.disp := rfl
@[simp] theorem modMbox_searches : (modMbox c m f s).searches = s.searches := rfl
@[simp] theorem modMbox_engReset : (modMbox c m f s).engReset = s.engReset := rfl
@[simp] theorem modMbox_dies : (modMbox c m f s).dies = s.dies := rfl
@[simp] theorem modMbox_thresh : (modMbox c m f s).thresh = s.thresh := rfl
@[simp] theorem modMbox_wks : (modMbox c m f s).wks = s.wks := rfl
@[simp] theorem modMbox_mem : (modMbox c m f s).mem = s.mem := rfl
@[simp] theorem modMbox_bfm : (modMbox c m f s).bfm = s.bfm := rfl
@[simp] theorem modMbox_lku : (modMbox c m f s).lku = s.lku := rfl
@[simp] theorem modMbox_halo : (modMbox c m f s).halo = s.halo := rfl
@[simp] theorem modMbox_tide : (modMbox c m f s).tide = s.tide := rfl
@[simp] theorem modMbox_fab : (modMbox c m f s).fab = s.fab := rfl
@[simp] theorem modMbox_sp : (modMbox c m f s).sp = s.sp := rfl
@[simp] theorem modMbox_nuc : (modMbox c m f s).nuc = s.nuc := rfl
@[simp] theorem modMbox_hub : (modMbox c m f s).hub = s.hub := rfl
@[simp] theorem modMbox_latch : (modMbox c m f s).latch = s.latch := rfl
@[simp] theorem modMbox_hold : (modMbox c m f s).hold = s.hold := rfl
@[simp] theorem modMbox_free : (modMbox c m f s).free = s.free := rfl
@[simp] theorem modMbox_out : (modMbox c m f s).out = s.out := rfl
@[simp] theorem modMbox_pending : (modMbox c m f s).pending = s.pending := rfl
end

/-! ### modItem -/

section
variable (d : Nat) (f : Item → Item) (s : State)
@[simp] theorem modItem_items : (modItem d f s).items = s.items.map fun x => if x.id = d then f x else x := rfl
@[simp] theorem modItem_eph : (modItem d f s).eph = s.eph := rfl
@[simp] theorem modItem_evt : (modItem d f s).evt = s.evt := rfl
@[simp] theorem modItem_evtin : (modItem d f s).evtin = s.evtin := rfl
@[simp] theorem modItem_inst : (modItem d f s).inst = s.inst := rfl
@[simp] theorem modItem_parts : (modItem d f s).parts = s.parts := rfl
@[simp] theorem modItem_mtu : (modItem d f s).mtu = s.mtu := rfl
@[simp] theorem modItem_invalJob : (modItem d f s).invalJob = s.invalJob := rfl
@[simp] theorem modItem_invalAll : (modItem d f s).invalAll = s.invalAll := rfl
@[simp] theorem modItem_invalInst : (modItem d f s).invalInst = s.invalInst := rfl
@[simp] theorem modItem_invalAddr : (modItem d f s).invalAddr = s.invalAddr := rfl
@[simp] theorem modItem_partOverlap : (modItem d f s).partOverlap = s.partOverlap := rfl
@[simp] theorem modItem_partBusy : (modItem d f s).partBusy = s.partBusy := rfl
@[simp] theorem modItem_escalations : (modItem d f s).escalations = s.escalations := rfl
@[simp] theorem modItem_vfEnable : (modItem d f s).vfEnable = s.vfEnable := rfl
@[simp] theorem modItem_numVFs : (modItem d f s).numVFs = s.numVFs := rfl
@[simp] theorem modItem_fns : (modItem d f s).fns = s.fns := rfl
@[simp] theorem modItem_nextId : (modItem d f s).nextId = s.nextId := rfl
@[simp] theorem modItem_disp : (modItem d f s).disp = s.disp := rfl
@[simp] theorem modItem_searches : (modItem d f s).searches = s.searches := rfl
@[simp] theorem modItem_engReset : (modItem d f s).engReset = s.engReset := rfl
@[simp] theorem modItem_cores : (modItem d f s).cores = s.cores := rfl
@[simp] theorem modItem_dies : (modItem d f s).dies = s.dies := rfl
@[simp] theorem modItem_thresh : (modItem d f s).thresh = s.thresh := rfl
@[simp] theorem modItem_wks : (modItem d f s).wks = s.wks := rfl
@[simp] theorem modItem_mem : (modItem d f s).mem = s.mem := rfl
@[simp] theorem modItem_bfm : (modItem d f s).bfm = s.bfm := rfl
@[simp] theorem modItem_lku : (modItem d f s).lku = s.lku := rfl
@[simp] theorem modItem_halo : (modItem d f s).halo = s.halo := rfl
@[simp] theorem modItem_tide : (modItem d f s).tide = s.tide := rfl
@[simp] theorem modItem_fab : (modItem d f s).fab = s.fab := rfl
@[simp] theorem modItem_sp : (modItem d f s).sp = s.sp := rfl
@[simp] theorem modItem_nuc : (modItem d f s).nuc = s.nuc := rfl
@[simp] theorem modItem_hub : (modItem d f s).hub = s.hub := rfl
@[simp] theorem modItem_latch : (modItem d f s).latch = s.latch := rfl
@[simp] theorem modItem_hold : (modItem d f s).hold = s.hold := rfl
@[simp] theorem modItem_free : (modItem d f s).free = s.free := rfl
@[simp] theorem modItem_out : (modItem d f s).out = s.out := rfl
@[simp] theorem modItem_pending : (modItem d f s).pending = s.pending := rfl
end

/-! ### emit -/

section
variable (o : Output) (s : State)
@[simp] theorem emit_out : (emit o s).out = s.out ++ [o] := rfl
@[simp] theorem emit_eph : (emit o s).eph = s.eph := rfl
@[simp] theorem emit_evt : (emit o s).evt = s.evt := rfl
@[simp] theorem emit_evtin : (emit o s).evtin = s.evtin := rfl
@[simp] theorem emit_inst : (emit o s).inst = s.inst := rfl
@[simp] theorem emit_parts : (emit o s).parts = s.parts := rfl
@[simp] theorem emit_mtu : (emit o s).mtu = s.mtu := rfl
@[simp] theorem emit_invalJob : (emit o s).invalJob = s.invalJob := rfl
@[simp] theorem emit_invalAll : (emit o s).invalAll = s.invalAll := rfl
@[simp] theorem emit_invalInst : (emit o s).invalInst = s.invalInst := rfl
@[simp] theorem emit_invalAddr : (emit o s).invalAddr = s.invalAddr := rfl
@[simp] theorem emit_partOverlap : (emit o s).partOverlap = s.partOverlap := rfl
@[simp] theorem emit_partBusy : (emit o s).partBusy = s.partBusy := rfl
@[simp] theorem emit_escalations : (emit o s).escalations = s.escalations := rfl
@[simp] theorem emit_vfEnable : (emit o s).vfEnable = s.vfEnable := rfl
@[simp] theorem emit_numVFs : (emit o s).numVFs = s.numVFs := rfl
@[simp] theorem emit_fns : (emit o s).fns = s.fns := rfl
@[simp] theorem emit_items : (emit o s).items = s.items := rfl
@[simp] theorem emit_nextId : (emit o s).nextId = s.nextId := rfl
@[simp] theorem emit_disp : (emit o s).disp = s.disp := rfl
@[simp] theorem emit_searches : (emit o s).searches = s.searches := rfl
@[simp] theorem emit_engReset : (emit o s).engReset = s.engReset := rfl
@[simp] theorem emit_cores : (emit o s).cores = s.cores := rfl
@[simp] theorem emit_dies : (emit o s).dies = s.dies := rfl
@[simp] theorem emit_thresh : (emit o s).thresh = s.thresh := rfl
@[simp] theorem emit_wks : (emit o s).wks = s.wks := rfl
@[simp] theorem emit_mem : (emit o s).mem = s.mem := rfl
@[simp] theorem emit_bfm : (emit o s).bfm = s.bfm := rfl
@[simp] theorem emit_lku : (emit o s).lku = s.lku := rfl
@[simp] theorem emit_halo : (emit o s).halo = s.halo := rfl
@[simp] theorem emit_tide : (emit o s).tide = s.tide := rfl
@[simp] theorem emit_fab : (emit o s).fab = s.fab := rfl
@[simp] theorem emit_sp : (emit o s).sp = s.sp := rfl
@[simp] theorem emit_nuc : (emit o s).nuc = s.nuc := rfl
@[simp] theorem emit_hub : (emit o s).hub = s.hub := rfl
@[simp] theorem emit_latch : (emit o s).latch = s.latch := rfl
@[simp] theorem emit_hold : (emit o s).hold = s.hold := rfl
@[simp] theorem emit_free : (emit o s).free = s.free := rfl
@[simp] theorem emit_pending : (emit o s).pending = s.pending := rfl
end

/-! ### modEph -/

section
variable (f : Eph → Eph) (s : State)
@[simp] theorem modEph_eph : (modEph f s).eph = f s.eph := rfl
@[simp] theorem modEph_evt : (modEph f s).evt = s.evt := rfl
@[simp] theorem modEph_evtin : (modEph f s).evtin = s.evtin := rfl
@[simp] theorem modEph_inst : (modEph f s).inst = s.inst := rfl
@[simp] theorem modEph_parts : (modEph f s).parts = s.parts := rfl
@[simp] theorem modEph_mtu : (modEph f s).mtu = s.mtu := rfl
@[simp] theorem modEph_invalJob : (modEph f s).invalJob = s.invalJob := rfl
@[simp] theorem modEph_invalAll : (modEph f s).invalAll = s.invalAll := rfl
@[simp] theorem modEph_invalInst : (modEph f s).invalInst = s.invalInst := rfl
@[simp] theorem modEph_invalAddr : (modEph f s).invalAddr = s.invalAddr := rfl
@[simp] theorem modEph_partOverlap : (modEph f s).partOverlap = s.partOverlap := rfl
@[simp] theorem modEph_partBusy : (modEph f s).partBusy = s.partBusy := rfl
@[simp] theorem modEph_escalations : (modEph f s).escalations = s.escalations := rfl
@[simp] theorem modEph_vfEnable : (modEph f s).vfEnable = s.vfEnable := rfl
@[simp] theorem modEph_numVFs : (modEph f s).numVFs = s.numVFs := rfl
@[simp] theorem modEph_fns : (modEph f s).fns = s.fns := rfl
@[simp] theorem modEph_items : (modEph f s).items = s.items := rfl
@[simp] theorem modEph_nextId : (modEph f s).nextId = s.nextId := rfl
@[simp] theorem modEph_disp : (modEph f s).disp = s.disp := rfl
@[simp] theorem modEph_searches : (modEph f s).searches = s.searches := rfl
@[simp] theorem modEph_engReset : (modEph f s).engReset = s.engReset := rfl
@[simp] theorem modEph_cores : (modEph f s).cores = s.cores := rfl
@[simp] theorem modEph_dies : (modEph f s).dies = s.dies := rfl
@[simp] theorem modEph_thresh : (modEph f s).thresh = s.thresh := rfl
@[simp] theorem modEph_wks : (modEph f s).wks = s.wks := rfl
@[simp] theorem modEph_mem : (modEph f s).mem = s.mem := rfl
@[simp] theorem modEph_bfm : (modEph f s).bfm = s.bfm := rfl
@[simp] theorem modEph_lku : (modEph f s).lku = s.lku := rfl
@[simp] theorem modEph_halo : (modEph f s).halo = s.halo := rfl
@[simp] theorem modEph_tide : (modEph f s).tide = s.tide := rfl
@[simp] theorem modEph_fab : (modEph f s).fab = s.fab := rfl
@[simp] theorem modEph_sp : (modEph f s).sp = s.sp := rfl
@[simp] theorem modEph_nuc : (modEph f s).nuc = s.nuc := rfl
@[simp] theorem modEph_hub : (modEph f s).hub = s.hub := rfl
@[simp] theorem modEph_latch : (modEph f s).latch = s.latch := rfl
@[simp] theorem modEph_hold : (modEph f s).hold = s.hold := rfl
@[simp] theorem modEph_free : (modEph f s).free = s.free := rfl
@[simp] theorem modEph_out : (modEph f s).out = s.out := rfl
@[simp] theorem modEph_pending : (modEph f s).pending = s.pending := rfl
end

/-! ### modSp -/

section
variable (f : Sp → Sp) (s : State)
@[simp] theorem modSp_sp : (modSp f s).sp = f s.sp := rfl
@[simp] theorem modSp_eph : (modSp f s).eph = s.eph := rfl
@[simp] theorem modSp_evt : (modSp f s).evt = s.evt := rfl
@[simp] theorem modSp_evtin : (modSp f s).evtin = s.evtin := rfl
@[simp] theorem modSp_inst : (modSp f s).inst = s.inst := rfl
@[simp] theorem modSp_parts : (modSp f s).parts = s.parts := rfl
@[simp] theorem modSp_mtu : (modSp f s).mtu = s.mtu := rfl
@[simp] theorem modSp_invalJob : (modSp f s).invalJob = s.invalJob := rfl
@[simp] theorem modSp_invalAll : (modSp f s).invalAll = s.invalAll := rfl
@[simp] theorem modSp_invalInst : (modSp f s).invalInst = s.invalInst := rfl
@[simp] theorem modSp_invalAddr : (modSp f s).invalAddr = s.invalAddr := rfl
@[simp] theorem modSp_partOverlap : (modSp f s).partOverlap = s.partOverlap := rfl
@[simp] theorem modSp_partBusy : (modSp f s).partBusy = s.partBusy := rfl
@[simp] theorem modSp_escalations : (modSp f s).escalations = s.escalations := rfl
@[simp] theorem modSp_vfEnable : (modSp f s).vfEnable = s.vfEnable := rfl
@[simp] theorem modSp_numVFs : (modSp f s).numVFs = s.numVFs := rfl
@[simp] theorem modSp_fns : (modSp f s).fns = s.fns := rfl
@[simp] theorem modSp_items : (modSp f s).items = s.items := rfl
@[simp] theorem modSp_nextId : (modSp f s).nextId = s.nextId := rfl
@[simp] theorem modSp_disp : (modSp f s).disp = s.disp := rfl
@[simp] theorem modSp_searches : (modSp f s).searches = s.searches := rfl
@[simp] theorem modSp_engReset : (modSp f s).engReset = s.engReset := rfl
@[simp] theorem modSp_cores : (modSp f s).cores = s.cores := rfl
@[simp] theorem modSp_dies : (modSp f s).dies = s.dies := rfl
@[simp] theorem modSp_thresh : (modSp f s).thresh = s.thresh := rfl
@[simp] theorem modSp_wks : (modSp f s).wks = s.wks := rfl
@[simp] theorem modSp_mem : (modSp f s).mem = s.mem := rfl
@[simp] theorem modSp_bfm : (modSp f s).bfm = s.bfm := rfl
@[simp] theorem modSp_lku : (modSp f s).lku = s.lku := rfl
@[simp] theorem modSp_halo : (modSp f s).halo = s.halo := rfl
@[simp] theorem modSp_tide : (modSp f s).tide = s.tide := rfl
@[simp] theorem modSp_fab : (modSp f s).fab = s.fab := rfl
@[simp] theorem modSp_nuc : (modSp f s).nuc = s.nuc := rfl
@[simp] theorem modSp_hub : (modSp f s).hub = s.hub := rfl
@[simp] theorem modSp_latch : (modSp f s).latch = s.latch := rfl
@[simp] theorem modSp_hold : (modSp f s).hold = s.hold := rfl
@[simp] theorem modSp_free : (modSp f s).free = s.free := rfl
@[simp] theorem modSp_out : (modSp f s).out = s.out := rfl
@[simp] theorem modSp_pending : (modSp f s).pending = s.pending := rfl
end

/-! ### modHalo -/

section
variable (f : Halo → Halo) (s : State)
@[simp] theorem modHalo_halo : (modHalo f s).halo = f s.halo := rfl
@[simp] theorem modHalo_eph : (modHalo f s).eph = s.eph := rfl
@[simp] theorem modHalo_evt : (modHalo f s).evt = s.evt := rfl
@[simp] theorem modHalo_evtin : (modHalo f s).evtin = s.evtin := rfl
@[simp] theorem modHalo_inst : (modHalo f s).inst = s.inst := rfl
@[simp] theorem modHalo_parts : (modHalo f s).parts = s.parts := rfl
@[simp] theorem modHalo_mtu : (modHalo f s).mtu = s.mtu := rfl
@[simp] theorem modHalo_invalJob : (modHalo f s).invalJob = s.invalJob := rfl
@[simp] theorem modHalo_invalAll : (modHalo f s).invalAll = s.invalAll := rfl
@[simp] theorem modHalo_invalInst : (modHalo f s).invalInst = s.invalInst := rfl
@[simp] theorem modHalo_invalAddr : (modHalo f s).invalAddr = s.invalAddr := rfl
@[simp] theorem modHalo_partOverlap : (modHalo f s).partOverlap = s.partOverlap := rfl
@[simp] theorem modHalo_partBusy : (modHalo f s).partBusy = s.partBusy := rfl
@[simp] theorem modHalo_escalations : (modHalo f s).escalations = s.escalations := rfl
@[simp] theorem modHalo_vfEnable : (modHalo f s).vfEnable = s.vfEnable := rfl
@[simp] theorem modHalo_numVFs : (modHalo f s).numVFs = s.numVFs := rfl
@[simp] theorem modHalo_fns : (modHalo f s).fns = s.fns := rfl
@[simp] theorem modHalo_items : (modHalo f s).items = s.items := rfl
@[simp] theorem modHalo_nextId : (modHalo f s).nextId = s.nextId := rfl
@[simp] theorem modHalo_disp : (modHalo f s).disp = s.disp := rfl
@[simp] theorem modHalo_searches : (modHalo f s).searches = s.searches := rfl
@[simp] theorem modHalo_engReset : (modHalo f s).engReset = s.engReset := rfl
@[simp] theorem modHalo_cores : (modHalo f s).cores = s.cores := rfl
@[simp] theorem modHalo_dies : (modHalo f s).dies = s.dies := rfl
@[simp] theorem modHalo_thresh : (modHalo f s).thresh = s.thresh := rfl
@[simp] theorem modHalo_wks : (modHalo f s).wks = s.wks := rfl
@[simp] theorem modHalo_mem : (modHalo f s).mem = s.mem := rfl
@[simp] theorem modHalo_bfm : (modHalo f s).bfm = s.bfm := rfl
@[simp] theorem modHalo_lku : (modHalo f s).lku = s.lku := rfl
@[simp] theorem modHalo_tide : (modHalo f s).tide = s.tide := rfl
@[simp] theorem modHalo_fab : (modHalo f s).fab = s.fab := rfl
@[simp] theorem modHalo_sp : (modHalo f s).sp = s.sp := rfl
@[simp] theorem modHalo_nuc : (modHalo f s).nuc = s.nuc := rfl
@[simp] theorem modHalo_hub : (modHalo f s).hub = s.hub := rfl
@[simp] theorem modHalo_latch : (modHalo f s).latch = s.latch := rfl
@[simp] theorem modHalo_hold : (modHalo f s).hold = s.hold := rfl
@[simp] theorem modHalo_free : (modHalo f s).free = s.free := rfl
@[simp] theorem modHalo_out : (modHalo f s).out = s.out := rfl
@[simp] theorem modHalo_pending : (modHalo f s).pending = s.pending := rfl
end

/-! ### modNuc -/

section
variable (f : Nuc → Nuc) (s : State)
@[simp] theorem modNuc_nuc : (modNuc f s).nuc = f s.nuc := rfl
@[simp] theorem modNuc_eph : (modNuc f s).eph = s.eph := rfl
@[simp] theorem modNuc_evt : (modNuc f s).evt = s.evt := rfl
@[simp] theorem modNuc_evtin : (modNuc f s).evtin = s.evtin := rfl
@[simp] theorem modNuc_inst : (modNuc f s).inst = s.inst := rfl
@[simp] theorem modNuc_parts : (modNuc f s).parts = s.parts := rfl
@[simp] theorem modNuc_mtu : (modNuc f s).mtu = s.mtu := rfl
@[simp] theorem modNuc_invalJob : (modNuc f s).invalJob = s.invalJob := rfl
@[simp] theorem modNuc_invalAll : (modNuc f s).invalAll = s.invalAll := rfl
@[simp] theorem modNuc_invalInst : (modNuc f s).invalInst = s.invalInst := rfl
@[simp] theorem modNuc_invalAddr : (modNuc f s).invalAddr = s.invalAddr := rfl
@[simp] theorem modNuc_partOverlap : (modNuc f s).partOverlap = s.partOverlap := rfl
@[simp] theorem modNuc_partBusy : (modNuc f s).partBusy = s.partBusy := rfl
@[simp] theorem modNuc_escalations : (modNuc f s).escalations = s.escalations := rfl
@[simp] theorem modNuc_vfEnable : (modNuc f s).vfEnable = s.vfEnable := rfl
@[simp] theorem modNuc_numVFs : (modNuc f s).numVFs = s.numVFs := rfl
@[simp] theorem modNuc_fns : (modNuc f s).fns = s.fns := rfl
@[simp] theorem modNuc_items : (modNuc f s).items = s.items := rfl
@[simp] theorem modNuc_nextId : (modNuc f s).nextId = s.nextId := rfl
@[simp] theorem modNuc_disp : (modNuc f s).disp = s.disp := rfl
@[simp] theorem modNuc_searches : (modNuc f s).searches = s.searches := rfl
@[simp] theorem modNuc_engReset : (modNuc f s).engReset = s.engReset := rfl
@[simp] theorem modNuc_cores : (modNuc f s).cores = s.cores := rfl
@[simp] theorem modNuc_dies : (modNuc f s).dies = s.dies := rfl
@[simp] theorem modNuc_thresh : (modNuc f s).thresh = s.thresh := rfl
@[simp] theorem modNuc_wks : (modNuc f s).wks = s.wks := rfl
@[simp] theorem modNuc_mem : (modNuc f s).mem = s.mem := rfl
@[simp] theorem modNuc_bfm : (modNuc f s).bfm = s.bfm := rfl
@[simp] theorem modNuc_lku : (modNuc f s).lku = s.lku := rfl
@[simp] theorem modNuc_halo : (modNuc f s).halo = s.halo := rfl
@[simp] theorem modNuc_tide : (modNuc f s).tide = s.tide := rfl
@[simp] theorem modNuc_fab : (modNuc f s).fab = s.fab := rfl
@[simp] theorem modNuc_sp : (modNuc f s).sp = s.sp := rfl
@[simp] theorem modNuc_hub : (modNuc f s).hub = s.hub := rfl
@[simp] theorem modNuc_latch : (modNuc f s).latch = s.latch := rfl
@[simp] theorem modNuc_hold : (modNuc f s).hold = s.hold := rfl
@[simp] theorem modNuc_free : (modNuc f s).free = s.free := rfl
@[simp] theorem modNuc_out : (modNuc f s).out = s.out := rfl
@[simp] theorem modNuc_pending : (modNuc f s).pending = s.pending := rfl
end

/-! ### modHub -/

section
variable (f : Hub → Hub) (s : State)
@[simp] theorem modHub_hub : (modHub f s).hub = f s.hub := rfl
@[simp] theorem modHub_eph : (modHub f s).eph = s.eph := rfl
@[simp] theorem modHub_evt : (modHub f s).evt = s.evt := rfl
@[simp] theorem modHub_evtin : (modHub f s).evtin = s.evtin := rfl
@[simp] theorem modHub_inst : (modHub f s).inst = s.inst := rfl
@[simp] theorem modHub_parts : (modHub f s).parts = s.parts := rfl
@[simp] theorem modHub_mtu : (modHub f s).mtu = s.mtu := rfl
@[simp] theorem modHub_invalJob : (modHub f s).invalJob = s.invalJob := rfl
@[simp] theorem modHub_invalAll : (modHub f s).invalAll = s.invalAll := rfl
@[simp] theorem modHub_invalInst : (modHub f s).invalInst = s.invalInst := rfl
@[simp] theorem modHub_invalAddr : (modHub f s).invalAddr = s.invalAddr := rfl
@[simp] theorem modHub_partOverlap : (modHub f s).partOverlap = s.partOverlap := rfl
@[simp] theorem modHub_partBusy : (modHub f s).partBusy = s.partBusy := rfl
@[simp] theorem modHub_escalations : (modHub f s).escalations = s.escalations := rfl
@[simp] theorem modHub_vfEnable : (modHub f s).vfEnable = s.vfEnable := rfl
@[simp] theorem modHub_numVFs : (modHub f s).numVFs = s.numVFs := rfl
@[simp] theorem modHub_fns : (modHub f s).fns = s.fns := rfl
@[simp] theorem modHub_items : (modHub f s).items = s.items := rfl
@[simp] theorem modHub_nextId : (modHub f s).nextId = s.nextId := rfl
@[simp] theorem modHub_disp : (modHub f s).disp = s.disp := rfl
@[simp] theorem modHub_searches : (modHub f s).searches = s.searches := rfl
@[simp] theorem modHub_engReset : (modHub f s).engReset = s.engReset := rfl
@[simp] theorem modHub_cores : (modHub f s).cores = s.cores := rfl
@[simp] theorem modHub_dies : (modHub f s).dies = s.dies := rfl
@[simp] theorem modHub_thresh : (modHub f s).thresh = s.thresh := rfl
@[simp] theorem modHub_wks : (modHub f s).wks = s.wks := rfl
@[simp] theorem modHub_mem : (modHub f s).mem = s.mem := rfl
@[simp] theorem modHub_bfm : (modHub f s).bfm = s.bfm := rfl
@[simp] theorem modHub_lku : (modHub f s).lku = s.lku := rfl
@[simp] theorem modHub_halo : (modHub f s).halo = s.halo := rfl
@[simp] theorem modHub_tide : (modHub f s).tide = s.tide := rfl
@[simp] theorem modHub_fab : (modHub f s).fab = s.fab := rfl
@[simp] theorem modHub_sp : (modHub f s).sp = s.sp := rfl
@[simp] theorem modHub_nuc : (modHub f s).nuc = s.nuc := rfl
@[simp] theorem modHub_latch : (modHub f s).latch = s.latch := rfl
@[simp] theorem modHub_hold : (modHub f s).hold = s.hold := rfl
@[simp] theorem modHub_free : (modHub f s).free = s.free := rfl
@[simp] theorem modHub_out : (modHub f s).out = s.out := rfl
@[simp] theorem modHub_pending : (modHub f s).pending = s.pending := rfl
end

/-! ### Core.putV -/

section
variable (k : Core) (r : BitVec 5) (x : BitVec 512)
@[simp] theorem Core.putV_st : (k.putV r x).st = k.st := rfl
@[simp] theorem Core.putV_stall : (k.putV r x).stall = k.stall := rfl
@[simp] theorem Core.putV_pc : (k.putV r x).pc = k.pc := rfl
@[simp] theorem Core.putV_s : (k.putV r x).s = k.s := rfl
@[simp] theorem Core.putV_p : (k.putV r x).p = k.p := rfl
@[simp] theorem Core.putV_flags : (k.putV r x).flags = k.flags := rfl
@[simp] theorem Core.putV_everFlags : (k.putV r x).everFlags = k.everFlags := rfl
@[simp] theorem Core.putV_orphan : (k.putV r x).orphan = k.orphan := rfl
@[simp] theorem Core.putV_last : (k.putV r x).last = k.last := rfl
@[simp] theorem Core.putV_pendS : (k.putV r x).pendS = k.pendS := rfl
@[simp] theorem Core.putV_pendV : (k.putV r x).pendV = k.pendV := rfl
@[simp] theorem Core.putV_pendP : (k.putV r x).pendP = k.pendP := rfl
@[simp] theorem Core.putV_mem : (k.putV r x).mem = k.mem := rfl
@[simp] theorem Core.putV_poisoned : (k.putV r x).poisoned = k.poisoned := rfl
@[simp] theorem Core.putV_latent : (k.putV r x).latent = k.latent := rfl
@[simp] theorem Core.putV_arr : (k.putV r x).arr = k.arr := rfl
@[simp] theorem Core.putV_spx : (k.putV r x).spx = k.spx := rfl
@[simp] theorem Core.putV_hac : (k.putV r x).hac = k.hac := rfl
@[simp] theorem Core.putV_ocu : (k.putV r x).ocu = k.ocu := rfl
@[simp] theorem Core.putV_ni : (k.putV r x).ni = k.ni := rfl
@[simp] theorem Core.putV_gen : (k.putV r x).gen = k.gen := rfl
@[simp] theorem Core.putV_arrived : (k.putV r x).arrived = k.arrived := rfl
@[simp] theorem Core.putV_sendBuf : (k.putV r x).sendBuf = k.sendBuf := rfl
@[simp] theorem Core.putV_mbox : (k.putV r x).mbox = k.mbox := rfl
@[simp] theorem Core.putV_coalesce : (k.putV r x).coalesce = k.coalesce := rfl
@[simp] theorem Core.putV_exitWord : (k.putV r x).exitWord = k.exitWord := rfl
@[simp] theorem Core.putV_faultValid : (k.putV r x).faultValid = k.faultValid := rfl
@[simp] theorem Core.putV_faultGlobal : (k.putV r x).faultGlobal = k.faultGlobal := rfl
@[simp] theorem Core.putV_faultCause : (k.putV r x).faultCause = k.faultCause := rfl
@[simp] theorem Core.putV_faultPc : (k.putV r x).faultPc = k.faultPc := rfl
@[simp] theorem Core.putV_faultAddr : (k.putV r x).faultAddr = k.faultAddr := rfl
@[simp] theorem Core.putV_cols : (k.putV r x).cols = k.cols := rfl
@[simp] theorem Core.putV_bypassed : (k.putV r x).bypassed = k.bypassed := rfl
@[simp] theorem Core.putV_badCol : (k.putV r x).badCol = k.badCol := rfl
@[simp] theorem Core.putV_ctrFreeze : (k.putV r x).ctrFreeze = k.ctrFreeze := rfl
@[simp] theorem Core.putV_cnt : (k.putV r x).cnt = k.cnt := rfl
@[simp] theorem Core.putV_msgSent : (k.putV r x).msgSent = k.msgSent := rfl
@[simp] theorem Core.putV_msgRcvd : (k.putV r x).msgRcvd = k.msgRcvd := rfl
@[simp] theorem Core.putV_msgDrop : (k.putV r x).msgDrop = k.msgDrop := rfl
@[simp] theorem Core.putV_slots : (k.putV r x).slots = k.slots := rfl
@[simp] theorem Core.putV_ledger : (k.putV r x).ledger = k.ledger := rfl
@[simp] theorem Core.putV_foldSteps : (k.putV r x).foldSteps = k.foldSteps := rfl
@[simp] theorem Core.putV_arrCnt : (k.putV r x).arrCnt = k.arrCnt := rfl
@[simp] theorem Core.putV_checkFail : (k.putV r x).checkFail = k.checkFail := rfl
@[simp] theorem Core.putV_checkCol : (k.putV r x).checkCol = k.checkCol := rfl
@[simp] theorem Core.putV_checkCount : (k.putV r x).checkCount = k.checkCount := rfl
@[simp] theorem Core.putV_hacc : (k.putV r x).hacc = k.hacc := rfl
@[simp] theorem Core.putV_spillCount : (k.putV r x).spillCount = k.spillCount := rfl
@[simp] theorem Core.putV_spxCnt : (k.putV r x).spxCnt = k.spxCnt := rfl
@[simp] theorem Core.putV_spxErr : (k.putV r x).spxErr = k.spxErr := rfl
@[simp] theorem Core.putV_spxUnit : (k.putV r x).spxUnit = k.spxUnit := rfl
@[simp] theorem Core.putV_spxReason : (k.putV r x).spxReason = k.spxReason := rfl
@[simp] theorem Core.putV_posts : (k.putV r x).posts = k.posts := rfl
end

/-! ### Core.putP -/

section
variable (k : Core) (r : BitVec 3) (x : BitVec 16)
@[simp] theorem Core.putP_st : (k.putP r x).st = k.st := rfl
@[simp] theorem Core.putP_stall : (k.putP r x).stall = k.stall := rfl
@[simp] theorem Core.putP_pc : (k.putP r x).pc = k.pc := rfl
@[simp] theorem Core.putP_s : (k.putP r x).s = k.s := rfl
@[simp] theorem Core.putP_v : (k.putP r x).v = k.v := rfl
@[simp] theorem Core.putP_flags : (k.putP r x).flags = k.flags := rfl
@[simp] theorem Core.putP_everFlags : (k.putP r x).everFlags = k.everFlags := rfl
@[simp] theorem Core.putP_orphan : (k.putP r x).orphan = k.orphan := rfl
@[simp] theorem Core.putP_last : (k.putP r x).last = k.last := rfl
@[simp] theorem Core.putP_pendS : (k.putP r x).pendS = k.pendS := rfl
@[simp] theorem Core.putP_pendV : (k.putP r x).pendV = k.pendV := rfl
@[simp] theorem Core.putP_pendP : (k.putP r x).pendP = k.pendP := rfl
@[simp] theorem Core.putP_mem : (k.putP r x).mem = k.mem := rfl
@[simp] theorem Core.putP_poisoned : (k.putP r x).poisoned = k.poisoned := rfl
@[simp] theorem Core.putP_latent : (k.putP r x).latent = k.latent := rfl
@[simp] theorem Core.putP_arr : (k.putP r x).arr = k.arr := rfl
@[simp] theorem Core.putP_spx : (k.putP r x).spx = k.spx := rfl
@[simp] theorem Core.putP_hac : (k.putP r x).hac = k.hac := rfl
@[simp] theorem Core.putP_ocu : (k.putP r x).ocu = k.ocu := rfl
@[simp] theorem Core.putP_ni : (k.putP r x).ni = k.ni := rfl
@[simp] theorem Core.putP_gen : (k.putP r x).gen = k.gen := rfl
@[simp] theorem Core.putP_arrived : (k.putP r x).arrived = k.arrived := rfl
@[simp] theorem Core.putP_sendBuf : (k.putP r x).sendBuf = k.sendBuf := rfl
@[simp] theorem Core.putP_mbox : (k.putP r x).mbox = k.mbox := rfl
@[simp] theorem Core.putP_coalesce : (k.putP r x).coalesce = k.coalesce := rfl
@[simp] theorem Core.putP_exitWord : (k.putP r x).exitWord = k.exitWord := rfl
@[simp] theorem Core.putP_faultValid : (k.putP r x).faultValid = k.faultValid := rfl
@[simp] theorem Core.putP_faultGlobal : (k.putP r x).faultGlobal = k.faultGlobal := rfl
@[simp] theorem Core.putP_faultCause : (k.putP r x).faultCause = k.faultCause := rfl
@[simp] theorem Core.putP_faultPc : (k.putP r x).faultPc = k.faultPc := rfl
@[simp] theorem Core.putP_faultAddr : (k.putP r x).faultAddr = k.faultAddr := rfl
@[simp] theorem Core.putP_cols : (k.putP r x).cols = k.cols := rfl
@[simp] theorem Core.putP_bypassed : (k.putP r x).bypassed = k.bypassed := rfl
@[simp] theorem Core.putP_badCol : (k.putP r x).badCol = k.badCol := rfl
@[simp] theorem Core.putP_ctrFreeze : (k.putP r x).ctrFreeze = k.ctrFreeze := rfl
@[simp] theorem Core.putP_cnt : (k.putP r x).cnt = k.cnt := rfl
@[simp] theorem Core.putP_msgSent : (k.putP r x).msgSent = k.msgSent := rfl
@[simp] theorem Core.putP_msgRcvd : (k.putP r x).msgRcvd = k.msgRcvd := rfl
@[simp] theorem Core.putP_msgDrop : (k.putP r x).msgDrop = k.msgDrop := rfl
@[simp] theorem Core.putP_slots : (k.putP r x).slots = k.slots := rfl
@[simp] theorem Core.putP_ledger : (k.putP r x).ledger = k.ledger := rfl
@[simp] theorem Core.putP_foldSteps : (k.putP r x).foldSteps = k.foldSteps := rfl
@[simp] theorem Core.putP_arrCnt : (k.putP r x).arrCnt = k.arrCnt := rfl
@[simp] theorem Core.putP_checkFail : (k.putP r x).checkFail = k.checkFail := rfl
@[simp] theorem Core.putP_checkCol : (k.putP r x).checkCol = k.checkCol := rfl
@[simp] theorem Core.putP_checkCount : (k.putP r x).checkCount = k.checkCount := rfl
@[simp] theorem Core.putP_hacc : (k.putP r x).hacc = k.hacc := rfl
@[simp] theorem Core.putP_spillCount : (k.putP r x).spillCount = k.spillCount := rfl
@[simp] theorem Core.putP_spxCnt : (k.putP r x).spxCnt = k.spxCnt := rfl
@[simp] theorem Core.putP_spxErr : (k.putP r x).spxErr = k.spxErr := rfl
@[simp] theorem Core.putP_spxUnit : (k.putP r x).spxUnit = k.spxUnit := rfl
@[simp] theorem Core.putP_spxReason : (k.putP r x).spxReason = k.spxReason := rfl
@[simp] theorem Core.putP_posts : (k.putP r x).posts = k.posts := rfl
end

/-! ### Core.putS -/

section
variable (k : Core) (r : BitVec 5) (x : Dword)
@[simp] theorem Core.putS_st : (k.putS r x).st = k.st := by unfold Core.putS; split <;> rfl
@[simp] theorem Core.putS_stall : (k.putS r x).stall = k.stall := by unfold Core.putS; split <;> rfl
@[simp] theorem Core.putS_pc : (k.putS r x).pc = k.pc := by unfold Core.putS; split <;> rfl
@[simp] theorem Core.putS_p : (k.putS r x).p = k.p := by unfold Core.putS; split <;> rfl
@[simp] theorem Core.putS_v : (k.putS r x).v = k.v := by unfold Core.putS; split <;> rfl
@[simp] theorem Core.putS_flags : (k.putS r x).flags = k.flags := by unfold Core.putS; split <;> rfl
@[simp] theorem Core.putS_everFlags : (k.putS r x).everFlags = k.everFlags := by unfold Core.putS; split <;> rfl
@[simp] theorem Core.putS_orphan : (k.putS r x).orphan = k.orphan := by unfold Core.putS; split <;> rfl
@[simp] theorem Core.putS_last : (k.putS r x).last = k.last := by unfold Core.putS; split <;> rfl
@[simp] theorem Core.putS_pendS : (k.putS r x).pendS = k.pendS := by unfold Core.putS; split <;> rfl
@[simp] theorem Core.putS_pendV : (k.putS r x).pendV = k.pendV := by unfold Core.putS; split <;> rfl
@[simp] theorem Core.putS_pendP : (k.putS r x).pendP = k.pendP := by unfold Core.putS; split <;> rfl
@[simp] theorem Core.putS_mem : (k.putS r x).mem = k.mem := by unfold Core.putS; split <;> rfl
@[simp] theorem Core.putS_poisoned : (k.putS r x).poisoned = k.poisoned := by unfold Core.putS; split <;> rfl
@[simp] theorem Core.putS_latent : (k.putS r x).latent = k.latent := by unfold Core.putS; split <;> rfl
@[simp] theorem Core.putS_arr : (k.putS r x).arr = k.arr := by unfold Core.putS; split <;> rfl
@[simp] theorem Core.putS_spx : (k.putS r x).spx = k.spx := by unfold Core.putS; split <;> rfl
@[simp] theorem Core.putS_hac : (k.putS r x).hac = k.hac := by unfold Core.putS; split <;> rfl
@[simp] theorem Core.putS_ocu : (k.putS r x).ocu = k.ocu := by unfold Core.putS; split <;> rfl
@[simp] theorem Core.putS_ni : (k.putS r x).ni = k.ni := by unfold Core.putS; split <;> rfl
@[simp] theorem Core.putS_gen : (k.putS r x).gen = k.gen := by unfold Core.putS; split <;> rfl
@[simp] theorem Core.putS_arrived : (k.putS r x).arrived = k.arrived := by unfold Core.putS; split <;> rfl
@[simp] theorem Core.putS_sendBuf : (k.putS r x).sendBuf = k.sendBuf := by unfold Core.putS; split <;> rfl
@[simp] theorem Core.putS_mbox : (k.putS r x).mbox = k.mbox := by unfold Core.putS; split <;> rfl
@[simp] theorem Core.putS_coalesce : (k.putS r x).coalesce = k.coalesce := by unfold Core.putS; split <;> rfl
@[simp] theorem Core.putS_exitWord : (k.putS r x).exitWord = k.exitWord := by unfold Core.putS; split <;> rfl
@[simp] theorem Core.putS_faultValid : (k.putS r x).faultValid = k.faultValid := by unfold Core.putS; split <;> rfl
@[simp] theorem Core.putS_faultGlobal : (k.putS r x).faultGlobal = k.faultGlobal := by unfold Core.putS; split <;> rfl
@[simp] theorem Core.putS_faultCause : (k.putS r x).faultCause = k.faultCause := by unfold Core.putS; split <;> rfl
@[simp] theorem Core.putS_faultPc : (k.putS r x).faultPc = k.faultPc := by unfold Core.putS; split <;> rfl
@[simp] theorem Core.putS_faultAddr : (k.putS r x).faultAddr = k.faultAddr := by unfold Core.putS; split <;> rfl
@[simp] theorem Core.putS_cols : (k.putS r x).cols = k.cols := by unfold Core.putS; split <;> rfl
@[simp] theorem Core.putS_bypassed : (k.putS r x).bypassed = k.bypassed := by unfold Core.putS; split <;> rfl
@[simp] theorem Core.putS_badCol : (k.putS r x).badCol = k.badCol := by unfold Core.putS; split <;> rfl
@[simp] theorem Core.putS_ctrFreeze : (k.putS r x).ctrFreeze = k.ctrFreeze := by unfold Core.putS; split <;> rfl
@[simp] theorem Core.putS_cnt : (k.putS r x).cnt = k.cnt := by unfold Core.putS; split <;> rfl
@[simp] theorem Core.putS_msgSent : (k.putS r x).msgSent = k.msgSent := by unfold Core.putS; split <;> rfl
@[simp] theorem Core.putS_msgRcvd : (k.putS r x).msgRcvd = k.msgRcvd := by unfold Core.putS; split <;> rfl
@[simp] theorem Core.putS_msgDrop : (k.putS r x).msgDrop = k.msgDrop := by unfold Core.putS; split <;> rfl
@[simp] theorem Core.putS_slots : (k.putS r x).slots = k.slots := by unfold Core.putS; split <;> rfl
@[simp] theorem Core.putS_ledger : (k.putS r x).ledger = k.ledger := by unfold Core.putS; split <;> rfl
@[simp] theorem Core.putS_foldSteps : (k.putS r x).foldSteps = k.foldSteps := by unfold Core.putS; split <;> rfl
@[simp] theorem Core.putS_arrCnt : (k.putS r x).arrCnt = k.arrCnt := by unfold Core.putS; split <;> rfl
@[simp] theorem Core.putS_checkFail : (k.putS r x).checkFail = k.checkFail := by unfold Core.putS; split <;> rfl
@[simp] theorem Core.putS_checkCol : (k.putS r x).checkCol = k.checkCol := by unfold Core.putS; split <;> rfl
@[simp] theorem Core.putS_checkCount : (k.putS r x).checkCount = k.checkCount := by unfold Core.putS; split <;> rfl
@[simp] theorem Core.putS_hacc : (k.putS r x).hacc = k.hacc := by unfold Core.putS; split <;> rfl
@[simp] theorem Core.putS_spillCount : (k.putS r x).spillCount = k.spillCount := by unfold Core.putS; split <;> rfl
@[simp] theorem Core.putS_spxCnt : (k.putS r x).spxCnt = k.spxCnt := by unfold Core.putS; split <;> rfl
@[simp] theorem Core.putS_spxErr : (k.putS r x).spxErr = k.spxErr := by unfold Core.putS; split <;> rfl
@[simp] theorem Core.putS_spxUnit : (k.putS r x).spxUnit = k.spxUnit := by unfold Core.putS; split <;> rfl
@[simp] theorem Core.putS_spxReason : (k.putS r x).spxReason = k.spxReason := by unfold Core.putS; split <;> rfl
@[simp] theorem Core.putS_posts : (k.putS r x).posts = k.posts := by unfold Core.putS; split <;> rfl
end

/-! ### Core.issued -/

section
variable (k : Core) 
@[simp] theorem Core.issued_st : (k.issued ).st = k.st := by unfold Core.issued; split <;> rfl
@[simp] theorem Core.issued_stall : (k.issued ).stall = k.stall := by unfold Core.issued; split <;> rfl
@[simp] theorem Core.issued_s : (k.issued ).s = k.s := by unfold Core.issued; split <;> rfl
@[simp] theorem Core.issued_p : (k.issued ).p = k.p := by unfold Core.issued; split <;> rfl
@[simp] theorem Core.issued_v : (k.issued ).v = k.v := by unfold Core.issued; split <;> rfl
@[simp] theorem Core.issued_flags : (k.issued ).flags = k.flags := by unfold Core.issued; split <;> rfl
@[simp] theorem Core.issued_everFlags : (k.issued ).everFlags = k.everFlags := by unfold Core.issued; split <;> rfl
@[simp] theorem Core.issued_orphan : (k.issued ).orphan = k.orphan := by unfold Core.issued; split <;> rfl
@[simp] theorem Core.issued_last : (k.issued ).last = k.last := by unfold Core.issued; split <;> rfl
@[simp] theorem Core.issued_pendS : (k.issued ).pendS = k.pendS := by unfold Core.issued; split <;> rfl
@[simp] theorem Core.issued_pendV : (k.issued ).pendV = k.pendV := by unfold Core.issued; split <;> rfl
@[simp] theorem Core.issued_pendP : (k.issued ).pendP = k.pendP := by unfold Core.issued; split <;> rfl
@[simp] theorem Core.issued_mem : (k.issued ).mem = k.mem := by unfold Core.issued; split <;> rfl
@[simp] theorem Core.issued_poisoned : (k.issued ).poisoned = k.poisoned := by unfold Core.issued; split <;> rfl
@[simp] theorem Core.issued_latent : (k.issued ).latent = k.latent := by unfold Core.issued; split <;> rfl
@[simp] theorem Core.issued_arr : (k.issued ).arr = k.arr := by unfold Core.issued; split <;> rfl
@[simp] theorem Core.issued_spx : (k.issued ).spx = k.spx := by unfold Core.issued; split <;> rfl
@[simp] theorem Core.issued_hac : (k.issued ).hac = k.hac := by unfold Core.issued; split <;> rfl
@[simp] theorem Core.issued_ocu : (k.issued ).ocu = k.ocu := by unfold Core.issued; split <;> rfl
@[simp] theorem Core.issued_ni : (k.issued ).ni = k.ni := by unfold Core.issued; split <;> rfl
@[simp] theorem Core.issued_gen : (k.issued ).gen = k.gen := by unfold Core.issued; split <;> rfl
@[simp] theorem Core.issued_arrived : (k.issued ).arrived = k.arrived := by unfold Core.issued; split <;> rfl
@[simp] theorem Core.issued_sendBuf : (k.issued ).sendBuf = k.sendBuf := by unfold Core.issued; split <;> rfl
@[simp] theorem Core.issued_mbox : (k.issued ).mbox = k.mbox := by unfold Core.issued; split <;> rfl
@[simp] theorem Core.issued_coalesce : (k.issued ).coalesce = k.coalesce := by unfold Core.issued; split <;> rfl
@[simp] theorem Core.issued_exitWord : (k.issued ).exitWord = k.exitWord := by unfold Core.issued; split <;> rfl
@[simp] theorem Core.issued_faultValid : (k.issued ).faultValid = k.faultValid := by unfold Core.issued; split <;> rfl
@[simp] theorem Core.issued_faultGlobal : (k.issued ).faultGlobal = k.faultGlobal := by unfold Core.issued; split <;> rfl
@[simp] theorem Core.issued_faultCause : (k.issued ).faultCause = k.faultCause := by unfold Core.issued; split <;> rfl
@[simp] theorem Core.issued_faultPc : (k.issued ).faultPc = k.faultPc := by unfold Core.issued; split <;> rfl
@[simp] theorem Core.issued_faultAddr : (k.issued ).faultAddr = k.faultAddr := by unfold Core.issued; split <;> rfl
@[simp] theorem Core.issued_cols : (k.issued ).cols = k.cols := by unfold Core.issued; split <;> rfl
@[simp] theorem Core.issued_bypassed : (k.issued ).bypassed = k.bypassed := by unfold Core.issued; split <;> rfl
@[simp] theorem Core.issued_badCol : (k.issued ).badCol = k.badCol := by unfold Core.issued; split <;> rfl
@[simp] theorem Core.issued_ctrFreeze : (k.issued ).ctrFreeze = k.ctrFreeze := by unfold Core.issued; split <;> rfl
@[simp] theorem Core.issued_msgSent : (k.issued ).msgSent = k.msgSent := by unfold Core.issued; split <;> rfl
@[simp] theorem Core.issued_msgRcvd : (k.issued ).msgRcvd = k.msgRcvd := by unfold Core.issued; split <;> rfl
@[simp] theorem Core.issued_msgDrop : (k.issued ).msgDrop = k.msgDrop := by unfold Core.issued; split <;> rfl
@[simp] theorem Core.issued_slots : (k.issued ).slots = k.slots := by unfold Core.issued; split <;> rfl
@[simp] theorem Core.issued_ledger : (k.issued ).ledger = k.ledger := by unfold Core.issued; split <;> rfl
@[simp] theorem Core.issued_foldSteps : (k.issued ).foldSteps = k.foldSteps := by unfold Core.issued; split <;> rfl
@[simp] theorem Core.issued_checkFail : (k.issued ).checkFail = k.checkFail := by unfold Core.issued; split <;> rfl
@[simp] theorem Core.issued_checkCol : (k.issued ).checkCol = k.checkCol := by unfold Core.issued; split <;> rfl
@[simp] theorem Core.issued_checkCount : (k.issued ).checkCount = k.checkCount := by unfold Core.issued; split <;> rfl
@[simp] theorem Core.issued_hacc : (k.issued ).hacc = k.hacc := by unfold Core.issued; split <;> rfl
@[simp] theorem Core.issued_spillCount : (k.issued ).spillCount = k.spillCount := by unfold Core.issued; split <;> rfl
@[simp] theorem Core.issued_spxCnt : (k.issued ).spxCnt = k.spxCnt := by unfold Core.issued; split <;> rfl
@[simp] theorem Core.issued_spxErr : (k.issued ).spxErr = k.spxErr := by unfold Core.issued; split <;> rfl
@[simp] theorem Core.issued_spxUnit : (k.issued ).spxUnit = k.spxUnit := by unfold Core.issued; split <;> rfl
@[simp] theorem Core.issued_spxReason : (k.issued ).spxReason = k.spxReason := by unfold Core.issued; split <;> rfl
@[simp] theorem Core.issued_posts : (k.issued ).posts = k.posts := by unfold Core.issued; split <;> rfl
end

/-! ### Core.markS -/

section
variable (k : Core) (r : BitVec 5)
@[simp] theorem Core.markS_st : (k.markS r).st = k.st := by unfold Core.markS; split <;> rfl
@[simp] theorem Core.markS_stall : (k.markS r).stall = k.stall := by unfold Core.markS; split <;> rfl
@[simp] theorem Core.markS_pc : (k.markS r).pc = k.pc := by unfold Core.markS; split <;> rfl
@[simp] theorem Core.markS_s : (k.markS r).s = k.s := by unfold Core.markS; split <;> rfl
@[simp] theorem Core.markS_p : (k.markS r).p = k.p := by unfold Core.markS; split <;> rfl
@[simp] theorem Core.markS_v : (k.markS r).v = k.v := by unfold Core.markS; split <;> rfl
@[simp] theorem Core.markS_flags : (k.markS r).flags = k.flags := by unfold Core.markS; split <;> rfl
@[simp] theorem Core.markS_everFlags : (k.markS r).everFlags = k.everFlags := by unfold Core.markS; split <;> rfl
@[simp] theorem Core.markS_orphan : (k.markS r).orphan = k.orphan := by unfold Core.markS; split <;> rfl
@[simp] theorem Core.markS_last : (k.markS r).last = k.last := by unfold Core.markS; split <;> rfl
@[simp] theorem Core.markS_pendV : (k.markS r).pendV = k.pendV := by unfold Core.markS; split <;> rfl
@[simp] theorem Core.markS_pendP : (k.markS r).pendP = k.pendP := by unfold Core.markS; split <;> rfl
@[simp] theorem Core.markS_mem : (k.markS r).mem = k.mem := by unfold Core.markS; split <;> rfl
@[simp] theorem Core.markS_poisoned : (k.markS r).poisoned = k.poisoned := by unfold Core.markS; split <;> rfl
@[simp] theorem Core.markS_latent : (k.markS r).latent = k.latent := by unfold Core.markS; split <;> rfl
@[simp] theorem Core.markS_arr : (k.markS r).arr = k.arr := by unfold Core.markS; split <;> rfl
@[simp] theorem Core.markS_spx : (k.markS r).spx = k.spx := by unfold Core.markS; split <;> rfl
@[simp] theorem Core.markS_hac : (k.markS r).hac = k.hac := by unfold Core.markS; split <;> rfl
@[simp] theorem Core.markS_ocu : (k.markS r).ocu = k.ocu := by unfold Core.markS; split <;> rfl
@[simp] theorem Core.markS_ni : (k.markS r).ni = k.ni := by unfold Core.markS; split <;> rfl
@[simp] theorem Core.markS_gen : (k.markS r).gen = k.gen := by unfold Core.markS; split <;> rfl
@[simp] theorem Core.markS_arrived : (k.markS r).arrived = k.arrived := by unfold Core.markS; split <;> rfl
@[simp] theorem Core.markS_sendBuf : (k.markS r).sendBuf = k.sendBuf := by unfold Core.markS; split <;> rfl
@[simp] theorem Core.markS_mbox : (k.markS r).mbox = k.mbox := by unfold Core.markS; split <;> rfl
@[simp] theorem Core.markS_coalesce : (k.markS r).coalesce = k.coalesce := by unfold Core.markS; split <;> rfl
@[simp] theorem Core.markS_exitWord : (k.markS r).exitWord = k.exitWord := by unfold Core.markS; split <;> rfl
@[simp] theorem Core.markS_faultValid : (k.markS r).faultValid = k.faultValid := by unfold Core.markS; split <;> rfl
@[simp] theorem Core.markS_faultGlobal : (k.markS r).faultGlobal = k.faultGlobal := by unfold Core.markS; split <;> rfl
@[simp] theorem Core.markS_faultCause : (k.markS r).faultCause = k.faultCause := by unfold Core.markS; split <;> rfl
@[simp] theorem Core.markS_faultPc : (k.markS r).faultPc = k.faultPc := by unfold Core.markS; split <;> rfl
@[simp] theorem Core.markS_faultAddr : (k.markS r).faultAddr = k.faultAddr := by unfold Core.markS; split <;> rfl
@[simp] theorem Core.markS_cols : (k.markS r).cols = k.cols := by unfold Core.markS; split <;> rfl
@[simp] theorem Core.markS_bypassed : (k.markS r).bypassed = k.bypassed := by unfold Core.markS; split <;> rfl
@[simp] theorem Core.markS_badCol : (k.markS r).badCol = k.badCol := by unfold Core.markS; split <;> rfl
@[simp] theorem Core.markS_ctrFreeze : (k.markS r).ctrFreeze = k.ctrFreeze := by unfold Core.markS; split <;> rfl
@[simp] theorem Core.markS_cnt : (k.markS r).cnt = k.cnt := by unfold Core.markS; split <;> rfl
@[simp] theorem Core.markS_msgSent : (k.markS r).msgSent = k.msgSent := by unfold Core.markS; split <;> rfl
@[simp] theorem Core.markS_msgRcvd : (k.markS r).msgRcvd = k.msgRcvd := by unfold Core.markS; split <;> rfl
@[simp] theorem Core.markS_msgDrop : (k.markS r).msgDrop = k.msgDrop := by unfold Core.markS; split <;> rfl
@[simp] theorem Core.markS_slots : (k.markS r).slots = k.slots := by unfold Core.markS; split <;> rfl
@[simp] theorem Core.markS_ledger : (k.markS r).ledger = k.ledger := by unfold Core.markS; split <;> rfl
@[simp] theorem Core.markS_foldSteps : (k.markS r).foldSteps = k.foldSteps := by unfold Core.markS; split <;> rfl
@[simp] theorem Core.markS_arrCnt : (k.markS r).arrCnt = k.arrCnt := by unfold Core.markS; split <;> rfl
@[simp] theorem Core.markS_checkFail : (k.markS r).checkFail = k.checkFail := by unfold Core.markS; split <;> rfl
@[simp] theorem Core.markS_checkCol : (k.markS r).checkCol = k.checkCol := by unfold Core.markS; split <;> rfl
@[simp] theorem Core.markS_checkCount : (k.markS r).checkCount = k.checkCount := by unfold Core.markS; split <;> rfl
@[simp] theorem Core.markS_hacc : (k.markS r).hacc = k.hacc := by unfold Core.markS; split <;> rfl
@[simp] theorem Core.markS_spillCount : (k.markS r).spillCount = k.spillCount := by unfold Core.markS; split <;> rfl
@[simp] theorem Core.markS_spxCnt : (k.markS r).spxCnt = k.spxCnt := by unfold Core.markS; split <;> rfl
@[simp] theorem Core.markS_spxErr : (k.markS r).spxErr = k.spxErr := by unfold Core.markS; split <;> rfl
@[simp] theorem Core.markS_spxUnit : (k.markS r).spxUnit = k.spxUnit := by unfold Core.markS; split <;> rfl
@[simp] theorem Core.markS_spxReason : (k.markS r).spxReason = k.spxReason := by unfold Core.markS; split <;> rfl
@[simp] theorem Core.markS_posts : (k.markS r).posts = k.posts := by unfold Core.markS; split <;> rfl
end

/-! ### Core.markV -/

section
variable (k : Core) (r : BitVec 5)
@[simp] theorem Core.markV_st : (k.markV r).st = k.st := rfl
@[simp] theorem Core.markV_stall : (k.markV r).stall = k.stall := rfl
@[simp] theorem Core.markV_pc : (k.markV r).pc = k.pc := rfl
@[simp] theorem Core.markV_s : (k.markV r).s = k.s := rfl
@[simp] theorem Core.markV_p : (k.markV r).p = k.p := rfl
@[simp] theorem Core.markV_v : (k.markV r).v = k.v := rfl
@[simp] theorem Core.markV_flags : (k.markV r).flags = k.flags := rfl
@[simp] theorem Core.markV_everFlags : (k.markV r).everFlags = k.everFlags := rfl
@[simp] theorem Core.markV_orphan : (k.markV r).orphan = k.orphan := rfl
@[simp] theorem Core.markV_last : (k.markV r).last = k.last := rfl
@[simp] theorem Core.markV_pendS : (k.markV r).pendS = k.pendS := rfl
@[simp] theorem Core.markV_pendP : (k.markV r).pendP = k.pendP := rfl
@[simp] theorem Core.markV_mem : (k.markV r).mem = k.mem := rfl
@[simp] theorem Core.markV_poisoned : (k.markV r).poisoned = k.poisoned := rfl
@[simp] theorem Core.markV_latent : (k.markV r).latent = k.latent := rfl
@[simp] theorem Core.markV_arr : (k.markV r).arr = k.arr := rfl
@[simp] theorem Core.markV_spx : (k.markV r).spx = k.spx := rfl
@[simp] theorem Core.markV_hac : (k.markV r).hac = k.hac := rfl
@[simp] theorem Core.markV_ocu : (k.markV r).ocu = k.ocu := rfl
@[simp] theorem Core.markV_ni : (k.markV r).ni = k.ni := rfl
@[simp] theorem Core.markV_gen : (k.markV r).gen = k.gen := rfl
@[simp] theorem Core.markV_arrived : (k.markV r).arrived = k.arrived := rfl
@[simp] theorem Core.markV_sendBuf : (k.markV r).sendBuf = k.sendBuf := rfl
@[simp] theorem Core.markV_mbox : (k.markV r).mbox = k.mbox := rfl
@[simp] theorem Core.markV_coalesce : (k.markV r).coalesce = k.coalesce := rfl
@[simp] theorem Core.markV_exitWord : (k.markV r).exitWord = k.exitWord := rfl
@[simp] theorem Core.markV_faultValid : (k.markV r).faultValid = k.faultValid := rfl
@[simp] theorem Core.markV_faultGlobal : (k.markV r).faultGlobal = k.faultGlobal := rfl
@[simp] theorem Core.markV_faultCause : (k.markV r).faultCause = k.faultCause := rfl
@[simp] theorem Core.markV_faultPc : (k.markV r).faultPc = k.faultPc := rfl
@[simp] theorem Core.markV_faultAddr : (k.markV r).faultAddr = k.faultAddr := rfl
@[simp] theorem Core.markV_cols : (k.markV r).cols = k.cols := rfl
@[simp] theorem Core.markV_bypassed : (k.markV r).bypassed = k.bypassed := rfl
@[simp] theorem Core.markV_badCol : (k.markV r).badCol = k.badCol := rfl
@[simp] theorem Core.markV_ctrFreeze : (k.markV r).ctrFreeze = k.ctrFreeze := rfl
@[simp] theorem Core.markV_cnt : (k.markV r).cnt = k.cnt := rfl
@[simp] theorem Core.markV_msgSent : (k.markV r).msgSent = k.msgSent := rfl
@[simp] theorem Core.markV_msgRcvd : (k.markV r).msgRcvd = k.msgRcvd := rfl
@[simp] theorem Core.markV_msgDrop : (k.markV r).msgDrop = k.msgDrop := rfl
@[simp] theorem Core.markV_slots : (k.markV r).slots = k.slots := rfl
@[simp] theorem Core.markV_ledger : (k.markV r).ledger = k.ledger := rfl
@[simp] theorem Core.markV_foldSteps : (k.markV r).foldSteps = k.foldSteps := rfl
@[simp] theorem Core.markV_arrCnt : (k.markV r).arrCnt = k.arrCnt := rfl
@[simp] theorem Core.markV_checkFail : (k.markV r).checkFail = k.checkFail := rfl
@[simp] theorem Core.markV_checkCol : (k.markV r).checkCol = k.checkCol := rfl
@[simp] theorem Core.markV_checkCount : (k.markV r).checkCount = k.checkCount := rfl
@[simp] theorem Core.markV_hacc : (k.markV r).hacc = k.hacc := rfl
@[simp] theorem Core.markV_spillCount : (k.markV r).spillCount = k.spillCount := rfl
@[simp] theorem Core.markV_spxCnt : (k.markV r).spxCnt = k.spxCnt := rfl
@[simp] theorem Core.markV_spxErr : (k.markV r).spxErr = k.spxErr := rfl
@[simp] theorem Core.markV_spxUnit : (k.markV r).spxUnit = k.spxUnit := rfl
@[simp] theorem Core.markV_spxReason : (k.markV r).spxReason = k.spxReason := rfl
@[simp] theorem Core.markV_posts : (k.markV r).posts = k.posts := rfl
end

/-! ### Core.markP -/

section
variable (k : Core) (r : BitVec 3)
@[simp] theorem Core.markP_st : (k.markP r).st = k.st := rfl
@[simp] theorem Core.markP_stall : (k.markP r).stall = k.stall := rfl
@[simp] theorem Core.markP_pc : (k.markP r).pc = k.pc := rfl
@[simp] theorem Core.markP_s : (k.markP r).s = k.s := rfl
@[simp] theorem Core.markP_p : (k.markP r).p = k.p := rfl
@[simp] theorem Core.markP_v : (k.markP r).v = k.v := rfl
@[simp] theorem Core.markP_flags : (k.markP r).flags = k.flags := rfl
@[simp] theorem Core.markP_everFlags : (k.markP r).everFlags = k.everFlags := rfl
@[simp] theorem Core.markP_orphan : (k.markP r).orphan = k.orphan := rfl
@[simp] theorem Core.markP_last : (k.markP r).last = k.last := rfl
@[simp] theorem Core.markP_pendS : (k.markP r).pendS = k.pendS := rfl
@[simp] theorem Core.markP_pendV : (k.markP r).pendV = k.pendV := rfl
@[simp] theorem Core.markP_mem : (k.markP r).mem = k.mem := rfl
@[simp] theorem Core.markP_poisoned : (k.markP r).poisoned = k.poisoned := rfl
@[simp] theorem Core.markP_latent : (k.markP r).latent = k.latent := rfl
@[simp] theorem Core.markP_arr : (k.markP r).arr = k.arr := rfl
@[simp] theorem Core.markP_spx : (k.markP r).spx = k.spx := rfl
@[simp] theorem Core.markP_hac : (k.markP r).hac = k.hac := rfl
@[simp] theorem Core.markP_ocu : (k.markP r).ocu = k.ocu := rfl
@[simp] theorem Core.markP_ni : (k.markP r).ni = k.ni := rfl
@[simp] theorem Core.markP_gen : (k.markP r).gen = k.gen := rfl
@[simp] theorem Core.markP_arrived : (k.markP r).arrived = k.arrived := rfl
@[simp] theorem Core.markP_sendBuf : (k.markP r).sendBuf = k.sendBuf := rfl
@[simp] theorem Core.markP_mbox : (k.markP r).mbox = k.mbox := rfl
@[simp] theorem Core.markP_coalesce : (k.markP r).coalesce = k.coalesce := rfl
@[simp] theorem Core.markP_exitWord : (k.markP r).exitWord = k.exitWord := rfl
@[simp] theorem Core.markP_faultValid : (k.markP r).faultValid = k.faultValid := rfl
@[simp] theorem Core.markP_faultGlobal : (k.markP r).faultGlobal = k.faultGlobal := rfl
@[simp] theorem Core.markP_faultCause : (k.markP r).faultCause = k.faultCause := rfl
@[simp] theorem Core.markP_faultPc : (k.markP r).faultPc = k.faultPc := rfl
@[simp] theorem Core.markP_faultAddr : (k.markP r).faultAddr = k.faultAddr := rfl
@[simp] theorem Core.markP_cols : (k.markP r).cols = k.cols := rfl
@[simp] theorem Core.markP_bypassed : (k.markP r).bypassed = k.bypassed := rfl
@[simp] theorem Core.markP_badCol : (k.markP r).badCol = k.badCol := rfl
@[simp] theorem Core.markP_ctrFreeze : (k.markP r).ctrFreeze = k.ctrFreeze := rfl
@[simp] theorem Core.markP_cnt : (k.markP r).cnt = k.cnt := rfl
@[simp] theorem Core.markP_msgSent : (k.markP r).msgSent = k.msgSent := rfl
@[simp] theorem Core.markP_msgRcvd : (k.markP r).msgRcvd = k.msgRcvd := rfl
@[simp] theorem Core.markP_msgDrop : (k.markP r).msgDrop = k.msgDrop := rfl
@[simp] theorem Core.markP_slots : (k.markP r).slots = k.slots := rfl
@[simp] theorem Core.markP_ledger : (k.markP r).ledger = k.ledger := rfl
@[simp] theorem Core.markP_foldSteps : (k.markP r).foldSteps = k.foldSteps := rfl
@[simp] theorem Core.markP_arrCnt : (k.markP r).arrCnt = k.arrCnt := rfl
@[simp] theorem Core.markP_checkFail : (k.markP r).checkFail = k.checkFail := rfl
@[simp] theorem Core.markP_checkCol : (k.markP r).checkCol = k.checkCol := rfl
@[simp] theorem Core.markP_checkCount : (k.markP r).checkCount = k.checkCount := rfl
@[simp] theorem Core.markP_hacc : (k.markP r).hacc = k.hacc := rfl
@[simp] theorem Core.markP_spillCount : (k.markP r).spillCount = k.spillCount := rfl
@[simp] theorem Core.markP_spxCnt : (k.markP r).spxCnt = k.spxCnt := rfl
@[simp] theorem Core.markP_spxErr : (k.markP r).spxErr = k.spxErr := rfl
@[simp] theorem Core.markP_spxUnit : (k.markP r).spxUnit = k.spxUnit := rfl
@[simp] theorem Core.markP_spxReason : (k.markP r).spxReason = k.spxReason := rfl
@[simp] theorem Core.markP_posts : (k.markP r).posts = k.posts := rfl
end

/-! ### Core.addNi -/

section
variable (k : Core) (e : QEntry)
@[simp] theorem Core.addNi_st : (k.addNi e).st = k.st := rfl
@[simp] theorem Core.addNi_stall : (k.addNi e).stall = k.stall := rfl
@[simp] theorem Core.addNi_pc : (k.addNi e).pc = k.pc := rfl
@[simp] theorem Core.addNi_s : (k.addNi e).s = k.s := rfl
@[simp] theorem Core.addNi_p : (k.addNi e).p = k.p := rfl
@[simp] theorem Core.addNi_v : (k.addNi e).v = k.v := rfl
@[simp] theorem Core.addNi_flags : (k.addNi e).flags = k.flags := rfl
@[simp] theorem Core.addNi_everFlags : (k.addNi e).everFlags = k.everFlags := rfl
@[simp] theorem Core.addNi_orphan : (k.addNi e).orphan = k.orphan := rfl
@[simp] theorem Core.addNi_last : (k.addNi e).last = k.last := rfl
@[simp] theorem Core.addNi_pendS : (k.addNi e).pendS = k.pendS := rfl
@[simp] theorem Core.addNi_pendV : (k.addNi e).pendV = k.pendV := rfl
@[simp] theorem Core.addNi_pendP : (k.addNi e).pendP = k.pendP := rfl
@[simp] theorem Core.addNi_mem : (k.addNi e).mem = k.mem := rfl
@[simp] theorem Core.addNi_poisoned : (k.addNi e).poisoned = k.poisoned := rfl
@[simp] theorem Core.addNi_latent : (k.addNi e).latent = k.latent := rfl
@[simp] theorem Core.addNi_arr : (k.addNi e).arr = k.arr := rfl
@[simp] theorem Core.addNi_spx : (k.addNi e).spx = k.spx := rfl
@[simp] theorem Core.addNi_hac : (k.addNi e).hac = k.hac := rfl
@[simp] theorem Core.addNi_ocu : (k.addNi e).ocu = k.ocu := rfl
@[simp] theorem Core.addNi_gen : (k.addNi e).gen = k.gen := rfl
@[simp] theorem Core.addNi_arrived : (k.addNi e).arrived = k.arrived := rfl
@[simp] theorem Core.addNi_sendBuf : (k.addNi e).sendBuf = k.sendBuf := rfl
@[simp] theorem Core.addNi_mbox : (k.addNi e).mbox = k.mbox := rfl
@[simp] theorem Core.addNi_coalesce : (k.addNi e).coalesce = k.coalesce := rfl
@[simp] theorem Core.addNi_exitWord : (k.addNi e).exitWord = k.exitWord := rfl
@[simp] theorem Core.addNi_faultValid : (k.addNi e).faultValid = k.faultValid := rfl
@[simp] theorem Core.addNi_faultGlobal : (k.addNi e).faultGlobal = k.faultGlobal := rfl
@[simp] theorem Core.addNi_faultCause : (k.addNi e).faultCause = k.faultCause := rfl
@[simp] theorem Core.addNi_faultPc : (k.addNi e).faultPc = k.faultPc := rfl
@[simp] theorem Core.addNi_faultAddr : (k.addNi e).faultAddr = k.faultAddr := rfl
@[simp] theorem Core.addNi_cols : (k.addNi e).cols = k.cols := rfl
@[simp] theorem Core.addNi_bypassed : (k.addNi e).bypassed = k.bypassed := rfl
@[simp] theorem Core.addNi_badCol : (k.addNi e).badCol = k.badCol := rfl
@[simp] theorem Core.addNi_ctrFreeze : (k.addNi e).ctrFreeze = k.ctrFreeze := rfl
@[simp] theorem Core.addNi_cnt : (k.addNi e).cnt = k.cnt := rfl
@[simp] theorem Core.addNi_msgSent : (k.addNi e).msgSent = k.msgSent := rfl
@[simp] theorem Core.addNi_msgRcvd : (k.addNi e).msgRcvd = k.msgRcvd := rfl
@[simp] theorem Core.addNi_msgDrop : (k.addNi e).msgDrop = k.msgDrop := rfl
@[simp] theorem Core.addNi_slots : (k.addNi e).slots = k.slots := rfl
@[simp] theorem Core.addNi_ledger : (k.addNi e).ledger = k.ledger := rfl
@[simp] theorem Core.addNi_foldSteps : (k.addNi e).foldSteps = k.foldSteps := rfl
@[simp] theorem Core.addNi_arrCnt : (k.addNi e).arrCnt = k.arrCnt := rfl
@[simp] theorem Core.addNi_checkFail : (k.addNi e).checkFail = k.checkFail := rfl
@[simp] theorem Core.addNi_checkCol : (k.addNi e).checkCol = k.checkCol := rfl
@[simp] theorem Core.addNi_checkCount : (k.addNi e).checkCount = k.checkCount := rfl
@[simp] theorem Core.addNi_hacc : (k.addNi e).hacc = k.hacc := rfl
@[simp] theorem Core.addNi_spillCount : (k.addNi e).spillCount = k.spillCount := rfl
@[simp] theorem Core.addNi_spxCnt : (k.addNi e).spxCnt = k.spxCnt := rfl
@[simp] theorem Core.addNi_spxErr : (k.addNi e).spxErr = k.spxErr := rfl
@[simp] theorem Core.addNi_spxUnit : (k.addNi e).spxUnit = k.spxUnit := rfl
@[simp] theorem Core.addNi_spxReason : (k.addNi e).spxReason = k.spxReason := rfl
@[simp] theorem Core.addNi_posts : (k.addNi e).posts = k.posts := rfl
end

/-- Issue moves the pc to the next instruction. -/
@[simp] theorem Core.issued_pc (k : Core) : k.issued.pc = k.pc + 8 := by
  unfold Core.issued; split <;> rfl

/-- A queue entry joins under the pc of its instruction. -/
@[simp] theorem Core.addNi_ni (k : Core) (e : QEntry) : (k.addNi e).ni = k.ni ++ [{ e with pc := k.pc }] := rfl

/-- A scalar register other than s0 reads back what was written. -/
@[simp] theorem Core.putS_same (k : Core) (r : BitVec 5) (x : Dword) (h : r ≠ 0) : sreg (k.putS r x) r = x := by
  rw [sreg, Core.putS, if_neg h, if_neg h]
  simp [upd]

/-- s0 reads 0 whatever is written (R188). -/
@[simp] theorem sreg_zero (k : Core) : sreg k 0 = 0 := rfl

/-- Another register reads as before. -/
theorem Core.putS_other (k : Core) (r q : BitVec 5) (x : Dword) (h : q ≠ r) : sreg (k.putS r x) q = sreg k q := by
  have e : r.toNat ≠ q.toNat := fun e => h (BitVec.eq_of_toNat_eq e.symm)
  by_cases hr : r = 0
  · simp [Core.putS, hr]
  · by_cases hq : q = 0
    · simp [sreg, hq]
    · rw [sreg, sreg, Core.putS, if_neg hr, if_neg hq, if_neg hq]
      simp [upd, e]

/-- A vector register reads back what was written. -/
@[simp] theorem Core.putV_same (k : Core) (r : BitVec 5) (x : BitVec 512) : vreg (k.putV r x) r = x := by
  simp [vreg, Core.putV, upd]

/-- A predicate register reads back what was written. -/
@[simp] theorem Core.putP_same (k : Core) (r : BitVec 3) (x : BitVec 16) : preg (k.putP r x) r = x := by
  simp [preg, Core.putP, upd]

end Sys2Proof.Machine
end

