-- ==== Sys2Proof/Laws/Ops.lean ====
section
/-! SUPPORT. What the shared operations do: entries of vectors and tables, the outcome of a command, the issue of a core
instruction, and what an interrupt, a log entry, a translation and an access to memory can change. -/

namespace Sys2Proof.Machine

open Sys2Proof

/-! ### Vectors and tables -/

@[simp] theorem upd_same {α : Type} {n : Nat} (v : Vector α n) (i : Fin n) (f : α → α) : (upd v i f)[i.val] = f v[i.val] := by
  simp [upd]

theorem upd_other {α : Type} {n : Nat} (v : Vector α n) (i : Fin n) (f : α → α) (j : Nat) (hj : j < n) (h : j ≠ i.val) :
    (upd v i f)[j] = v[j] := by
  simp [upd, Ne.symm h]

@[simp] theorem upd_upd {α : Type} {n : Nat} (v : Vector α n) (i : Fin n) (f g : α → α) :
    upd (upd v i f) i g = upd v i fun x => g (f x) := by
  apply Vector.ext
  intro j hj
  by_cases h : j = i.val
  · subst h; simp
  · rw [upd_other _ _ _ _ hj h, upd_other _ _ _ _ hj h, upd_other _ _ _ _ hj h]

/-- Two changes of one core are one. -/
@[simp] theorem modCore_modCore (c : CoreId) (f g : Core → Core) (s : State) :
    modCore c f (modCore c g s) = modCore c (fun k => f (g k)) s := by
  simp [modCore]

@[simp] theorem Tab.find_set {α : Type} (t : Tab α) (k : Nat) (x : α) : Tab.find (Tab.set t k x) k = some x := by
  induction t with
  | nil => simp [Tab.set, Tab.find]
  | cons e t ih =>
    obtain ⟨j, y⟩ := e
    by_cases h1 : k < j
    · simp [Tab.set, Tab.find, h1]
    · by_cases h2 : k = j
      · simp [Tab.set, Tab.find, h2]
      · simp [Tab.set, Tab.find, h1, h2, ih]

@[simp] theorem Tab.find_del {α : Type} (t : Tab α) (k : Nat) : Tab.find (Tab.del t k) k = none := by
  induction t with
  | nil => rfl
  | cons e t ih =>
    by_cases h : e.1 = k
    · simpa [Tab.del, h] using ih
    · have h2 : ¬ k = e.1 := fun q => h q.symm
      rw [Tab.del, List.filter_cons_of_pos (by simpa using h), Tab.find, if_neg h2]
      exact ih

/-! ### Outcomes of commands -/

/-- Every command over `act` answers a next state. -/
theorem act_next (c : Bool) (f : State → State) (s : State) : act c f s = .next (if c then f s else s) := rfl

@[simp] theorem act_true (f : State → State) (s : State) : act true f s = .next (f s) := rfl
@[simp] theorem act_false (f : State → State) (s : State) : act false f s = .next s := rfl

/-- A step takes the command at the front. -/
theorem step_cons (c : Instr) (rest : List Instr) (s : State) (h : s.pending = c :: rest) :
    step s = exec c { s with pending := rest } := by
  simp [step, h]

/-! ### Core instructions -/

/-- Writes of registers of a core in the State are the writes of the core. -/
theorem setS_eq (c : CoreId) (r : BitVec 5) (v : Dword) (s : State) : setS c r v s = modCore c (fun k => k.putS r v) s := by
  unfold setS Core.putS
  by_cases h : r = 0
  · simp [h, modCore, upd]
  · rw [if_neg h]
    congr 1
    funext k
    rw [if_neg h]

theorem setV_eq (c : CoreId) (r : BitVec 5) (v : BitVec 512) (s : State) : setV c r v s = modCore c (fun k => k.putV r v) s := rfl

theorem setP_eq (c : CoreId) (r : BitVec 3) (v : BitVec 16) (s : State) : setP c r v s = modCore c (fun k => k.putP r v) s := rfl

/-- Moving on, before the end of instruction memory, is what issue does to the core. -/
theorem advance_eq (c : CoreId) (s : State) (h : NotLast c s) : advance c s = modCore c Core.issued s := by
  have hc : (countIssue c s).cores[c.val].pc = s.cores[c.val].pc := by
    simp only [countIssue, modCore_cores, upd_same]
    split <;> rfl
  unfold NotLast at h
  unfold advance
  simp only [hc]
  rw [if_pos h, countIssue, modCore_modCore]
  congr 1
  funext k
  unfold Core.issued
  split <;> rfl

/-- A legal instruction that executes and meets no hazard has its effect. -/
theorem coreInstr_executes (c : CoreId) (g : Guard) (u : Use) (f : State → State) (s : State) (h : Executes c g s)
    (hz : noHazard s.cores[c.val] u = true) : coreInstr c g true u f s = .next (f s) := by
  obtain ⟨h1, h2, h3, h4⟩ := h
  simp [coreInstr, act, h1, h2, h3, h4, hz]

/-- An illegal encoding raises ILLEGAL whatever its guard (R191). -/
theorem coreInstr_illegal (c : CoreId) (g : Guard) (u : Use) (f : State → State) (s : State) (h : canIssue c s = true) :
    coreInstr c g false u f s = .next (raise c .illegal false 0 s) := by
  simp [coreInstr, act, h]

/-- A guard that does not pass lets the instruction issue as a no-op (R190). -/
theorem coreInstr_off (c : CoreId) (g : Guard) (u : Use) (f : State → State) (s : State) (h : canIssue c s = true)
    (h2 : guardOk g = true) (h3 : guardReady g s.cores[c.val] = true) (h4 : guardPass g s.cores[c.val] = false) :
    coreInstr c g true u f s = .next (advance c s) := by
  simp [coreInstr, act, h, h2, h3, h4]

/-- A core that may not issue takes no instruction. -/
theorem coreInstr_idle (c : CoreId) (g : Guard) (l : Bool) (u : Use) (f : State → State) (s : State) (h : canIssue c s = false) :
    coreInstr c g l u f s = .next s := by
  simp [coreInstr, act, h]

/-- Registers without a pending write are no hazard. -/
theorem noHazard_of_notPending (k : Core) (rs vs : List (BitVec 5)) (ps : List (BitVec 3)) (h : NotPending k rs vs ps) :
    noHazard k { s := rs, v := vs, p := ps } = true := by
  obtain ⟨h1, h2, h3⟩ := h
  have h4 : slotsAwaited k { s := rs, v := vs, p := ps } = false := by
    unfold slotsAwaited
    rw [List.any_eq_false]
    intro e _
    split <;> simp
  unfold noHazard
  rw [h4]
  simp only [Bool.and_eq_true, List.all_eq_true, Bool.not_eq_true', Bool.not_false, and_true]
  exact ⟨⟨h1, h2⟩, h3⟩

/-! ### What interrupts, translation and the error log can change -/

/-- A relation between states that holds of each single change that interrupts, translation and logging make. -/
structure AccessRel (Q : State → State → Prop) : Prop where
  refl : ∀ s, Q s s
  trans : ∀ {s t u}, Q s t → Q t u → Q s u
  log : ∀ i f s, Q s (modLog i f s)
  mtu : ∀ i f s, Q s (modMtu i f s)
  dpa : ∀ a d s, Q s (putDpa a d s)
  host : ∀ a d p s, Q s (putHost a d p s)
  msix : ∀ fn v s, Q s (Machine.msix fn v s)
  free : ∀ n s, Q s (takeFree n s).2
  lines : ∀ p l s, Q s { s with mem := { s.mem with poisoned := p, latent := l } }
  found : ∀ l s, Q s { s with mem := { s.mem with found := l } }
  fix : ∀ a s, Q s (fixLine a s)
  bfm : ∀ k i h n s, Q s (bfmCount k i h n s)

namespace AccessRel

variable {Q : State → State → Prop} (q : AccessRel Q)
include q

/-- A change repeated over a list. -/
theorem foldl {α : Type} (f : State → α → State) (h : ∀ s x, Q s (f s x)) (l : List α) (s : State) : Q s (l.foldl f s) := by
  induction l generalizing s with
  | nil => exact q.refl s
  | cons x t ih => exact q.trans (h s x) (ih _)

theorem poisonFound (ls : List Nat) (s : State) : Q s (Machine.poisonFound ls s) :=
  q.foldl _ (fun s l => q.trans (q.lines _ _ s) (q.found _ (poisonLine l s))) ls s

/-- Choosing a leaf corrects table lines, keeps the leaf, and may take a free value. -/
theorem leafFor (i : InstId) (iva : Nat) (s : State) : Q s (Machine.leafFor i iva s).2 := by
  unfold Machine.leafFor
  simp only
  split
  · have k := q.foldl (fun s a => fixLine a s) (fun s a => q.fix a s) (tableEntries s.mtu[i.val] s iva) s
    split
    · exact k
    · exact q.trans k (q.mtu _ _ _)
  · have k1 := q.free 1 s
    have k2 := fun e => q.trans k1 (q.mtu i (fun x =>
      { x with cache := if x.cache.contains (iva / 2 ^ 21, e) then x.cache else x.cache ++ [(iva / 2 ^ 21, e)] }) _)
    repeat' split
    all_goals first
      | exact q.refl s
      | exact q.trans k1 (q.free 32 _)
      | exact k1
      | exact q.trans (k2 _) (q.free 32 _)
      | exact k2 _

theorem translate (i : InstId) (acc : Access) (iva : Nat) (s : State) : Q s (Machine.translate i acc iva s).2 := by
  have key : ∀ (x : Except (BitVec 3) Dword) (u : State), Machine.leafFor i iva s = (x, u) → Q s u := by
    intro x u h
    have := q.leafFor i iva s
    rwa [h] at this
  unfold Machine.translate
  split
  · exact q.refl s
  · split
    · exact q.refl s
    · split
      · next h => exact key _ _ h
      · next h =>
        repeat' split
        all_goals exact key _ _ h

/-- One entry of the error log. -/
theorem logWrite (i : InstId) (event inst addr detail unit : Nat) (s : State) :
    Q s (Machine.logWrite i event inst addr detail unit s).2.2 := by
  unfold Machine.logWrite
  simp only
  split
  · exact q.refl s
  · have key := q.translate i .write (logSlot s.nuc.logs[i.val]) s
    split
    · next h =>
      rw [h] at key
      exact q.trans key (q.trans (q.poisonFound _ _) (q.mtu _ _ _))
    · next h =>
      rw [h] at key
      refine q.trans key ?_
      have go : ∀ (b : Bool) (f : LogRing → LogRing) (v : Fin 32) (u : State),
          Q u (if b = true then modLog i f u else Machine.msix i v (modLog i f u)) := by
        intro b f v u
        split
        · exact q.log i f u
        · exact q.trans (q.log i f u) (q.msix i v _)
      split
      · dsimp only
        exact q.trans (q.host _ _ _ _) (go _ _ _ _)
      · split
        · split
          · exact q.trans (q.bfm _ _ _ _ _) (go _ _ _ _)
          · exact go _ _ _ _
        · split
          · exact q.refl _
          · dsimp only
            exact q.trans (q.poisonFound _ _) (q.trans (q.fix _ _) (q.trans (q.dpa _ _ _) (go _ _ _ _)))

theorem logItems (n : Nat) (xs : List LogItem) (s : State) : Q s (Machine.logItems n xs s) := by
  induction n generalizing xs s with
  | zero => cases xs <;> exact q.refl s
  | succ n ih =>
    cases xs with
    | nil => exact q.refl s
    | cons x t =>
      have k := q.logWrite x.ring x.event x.inst x.addr x.detail x.unit s
      unfold Machine.logItems
      split
      · next h => rw [h] at k; exact q.trans k (ih _ _)
      · next h => rw [h] at k; exact q.trans k (q.trans (q.log _ _ _) (ih _ _))

theorem logOne (i : InstId) (event inst addr detail unit : Nat) (s : State) : Q s (Machine.logOne i event inst addr detail unit s) :=
  q.logItems _ _ s

/-- A log entry to the PF. -/
theorem logPf (event inst addr detail unit : Nat) (s : State) : Q s (Machine.logPf event inst addr detail unit s) :=
  q.logOne 0 event inst addr detail unit s

/-- A log entry to an instance and the PF. -/
theorem logBoth (i : InstId) (event addr detail unit : Nat) (s : State) : Q s (Machine.logBoth i event addr detail unit s) := by
  unfold Machine.logBoth
  simp only
  split
  · exact q.logPf _ _ _ _ _ _
  · exact q.trans (q.logOne _ _ _ _ _ _ _) (q.logPf _ _ _ _ _ _)

/-- An error that a read finds. -/
theorem findErrors (a : Nat) (s : State) : Q s (Machine.findErrors a s) := by
  unfold Machine.findErrors
  split
  · exact q.fix a s
  · exact q.trans (q.poisonFound _ _) (q.logPf _ _ _ _ _ _)

theorem bfmEvent (kind : BitVec 3) (i holder : InstId) (h : Word) (s : State) : Q s (Machine.bfmEvent kind i holder h s) :=
  q.trans (q.bfm _ _ _ _ _) (q.logBoth _ _ _ _ _ _)

/-- A translation fault: recorded and logged. -/
theorem mtuFault (i : InstId) (src : Nat) (kind : BitVec 3) (wr : Bool) (iva : Nat) (s : State) :
    Q s (Machine.mtuFault i src kind wr iva s) := by
  unfold Machine.mtuFault
  dsimp only
  have first : Q s (recordFault i src kind wr iva s) := q.mtu i _ s
  refine q.trans first (q.trans ?_ (q.logBoth _ _ _ _ _ _))
  split
  · refine q.foldl _ (fun s a => ?_) _ _
    unfold walkMeets
    split
    · split
      · exact q.bfmEvent _ _ _ _ _
      · exact q.refl _
    · exact q.refl _
    · exact q.findErrors _ _
  · exact q.refl _

/-- A read of a target that lies in one line. -/
theorem readTarget (i : InstId) (t : Target) (n : Nat) (s : State) : Q s (Machine.readTarget i t n s).s := by
  unfold Machine.readTarget
  split
  · exact q.refl s
  · split
    · split
      · exact q.bfmEvent _ _ _ _ _
      · exact q.refl s
    · split
      · exact q.refl s
      · exact q.findErrors _ _

/-- A read request in one line. -/
theorem readLine (w : Who) (acc : Access) (iva n : Nat) (s : State) : Q s (Machine.readLine w acc iva n s).s := by
  unfold Machine.readLine
  split
  · exact q.refl s
  · have k := q.translate w.inst acc iva s
    split
    · next h => rw [h] at k; exact q.trans k (q.mtuFault _ _ _ _ _ _)
    · next h => rw [h] at k; exact q.trans k (q.readTarget _ _ _ _)

theorem readChunks (w : Who) (l : List (Nat × Nat)) (r : RdRes) : Q r.s (Machine.readChunks w l r).s := by
  induction l generalizing r with
  | nil => exact q.refl _
  | cons x t ih =>
    obtain ⟨a, n⟩ := x
    have k := q.readLine w .read a n r.s
    unfold Machine.readChunks
    split
    · next h => rw [h] at k; exact k
    · next d p u h => rw [h] at k; exact q.trans k (ih ⟨none, r.data ++ d, r.poison || p, u⟩)

/-- A read of bytes at an IVA. -/
theorem readIva (w : Who) (iva len : Nat) (s : State) : Q s (Machine.readIva w iva len s).s :=
  q.readChunks w (chunks iva len) ⟨none, [], false, s⟩

/-- A write to a target that lies in one line. -/
theorem writeTarget (i : InstId) (t : Target) (d : List Byte) (p : Bool) (s : State) : Q s (Machine.writeTarget i t d p s).2 := by
  have pois : ∀ (b : Bool) l u, Q u (if b = true then poisonLine l u else u) := by
    intro b l u
    split
    · exact q.lines _ _ _
    · exact q.refl _
  unfold Machine.writeTarget
  split
  · exact q.host _ _ _ _
  · split
    · dsimp only
      split
      · exact q.bfmEvent _ _ _ _ _
      · exact q.refl s
    · split
      · exact q.refl s
      · simp only
        split
        · exact q.trans (q.lines _ _ _) (q.trans (q.dpa _ _ _) (pois _ _ _))
        · exact q.trans (q.findErrors _ _) (q.trans (q.dpa _ _ _) (pois _ _ _))

/-- A write request in one line. -/
theorem writeLine (w : Who) (iva : Nat) (d : List Byte) (p : Bool) (s : State) : Q s (Machine.writeLine w iva d p s).2 := by
  unfold Machine.writeLine
  split
  · exact q.mtu _ _ _
  · have k := q.translate w.inst .write iva s
    split
    · next h => rw [h] at k; exact q.trans k (q.mtuFault _ _ _ _ _ _)
    · next h => rw [h] at k; exact q.trans k (q.writeTarget _ _ _ _ _)

theorem writeChunks (w : Who) (p : Bool) (l : List (Nat × Nat)) (d : List Byte) (n : Nat) (s : State) :
    Q s (Machine.writeChunks w p l d n s).2.2 := by
  induction l generalizing d n s with
  | nil => exact q.refl s
  | cons x t ih =>
    obtain ⟨a, m⟩ := x
    have k := q.writeLine w a (d.take m) p s
    unfold Machine.writeChunks
    split
    · next h => rw [h] at k; exact q.trans k (ih _ _ _)
    · next h => rw [h] at k; exact k
    · next h => rw [h] at k; exact q.trans k (ih _ _ _)

/-- A write of bytes at an IVA. -/
theorem writeIva (w : Who) (iva : Nat) (d : List Byte) (p : Bool) (s : State) : Q s (Machine.writeIva w iva d p s).2.2 :=
  q.writeChunks w p _ d 0 s

end AccessRel

/-- Only these parts may differ: what interrupts, translation and logging touch; of a die the count of corrected errors. -/
def OnlyAccess (s t : State) : Prop :=
  t = { s with mem := t.mem, nuc := t.nuc, mtu := t.mtu, fns := t.fns, out := t.out, free := t.free, bfm := t.bfm
               dies := t.dies } ∧
    ∀ d : Fin 4, t.dies[d.val] = { s.dies[d.val] with sramCe := (t.dies[d.val]).sramCe }

/-- A change that leaves the dies alone. -/
theorem OnlyAccess.of_eq {s t : State}
    (h : t = { s with mem := t.mem, nuc := t.nuc, mtu := t.mtu, fns := t.fns, out := t.out, free := t.free, bfm := t.bfm }) :
    OnlyAccess s t := by
  have hd : t.dies = s.dies := by rw [h]
  refine ⟨?_, fun d => by rw [hd]⟩
  rw [hd]
  exact h

theorem OnlyAccess.trans {s t u : State} (h : OnlyAccess s t) (k : OnlyAccess t u) : OnlyAccess s u := by
  obtain ⟨h1, h2⟩ := h
  obtain ⟨k1, k2⟩ := k
  refine ⟨?_, fun d => by rw [k2 d, h2 d]⟩
  rw [k1, h1]

/-- An interrupt sends a message or sets a pending bit. -/
theorem msix_frame (fn : InstId) (v : Fin 32) (s : State) :
    msix fn v s = { s with fns := (msix fn v s).fns, out := (msix fn v s).out } := by
  unfold msix
  simp only
  split
  · split <;> rfl
  · rfl

theorem fixLine_onlyAccess (a : Nat) (s : State) : OnlyAccess s (fixLine a s) := by
  unfold fixLine
  simp only
  split
  · split
    · exact .of_eq rfl
    · next d _ =>
      refine ⟨rfl, fun e => ?_⟩
      simp only [modDie]
      by_cases h : e.val = d.val
      · obtain rfl : e = d := Fin.ext h
        simp
      · rw [upd_other _ _ _ _ e.isLt h]
    · exact .of_eq rfl
  · exact .of_eq rfl

theorem onlyAccess : AccessRel OnlyAccess where
  refl _ := .of_eq rfl
  trans := OnlyAccess.trans
  log _ _ _ := .of_eq rfl
  mtu _ _ _ := .of_eq rfl
  dpa _ _ _ := .of_eq rfl
  host _ _ _ _ := .of_eq rfl
  msix fn v s := .of_eq (by rw [msix_frame fn v s])
  free _ _ := .of_eq rfl
  lines _ _ _ := .of_eq rfl
  found _ _ := .of_eq rfl
  fix := fixLine_onlyAccess
  bfm _ _ _ _ _ := .of_eq rfl

/-! ### Memories of the block stay in their canonical form -/

/-- A change that leaves the memories alone keeps their form. -/
theorem State.memoryWf_of_same {s t : State} (w : s.memoryWf) (h1 : t.mem.dpa = s.mem.dpa) (h2 : t.mem.host = s.mem.host)
    (h3 : t.hub.flash = s.hub.flash) (h4 : t.hub.flashBuf = s.hub.flashBuf)
    (h5 : ∀ c : CoreId, t.cores[c.val].mem = s.cores[c.val].mem) : t.memoryWf := by
  unfold State.memoryWf at *
  rw [h1, h2, h3, h4]
  exact ⟨w.1, w.2.1, w.2.2.1, w.2.2.2.1, fun c => by rw [h5 c]; exact w.2.2.2.2 c⟩

theorem putDpa_memoryWf (a : Nat) (d : List Byte) (s : State) (w : s.memoryWf) : (putDpa a d s).memoryWf :=
  ⟨Memory.wf_write 0 _ a d w.1, w.2⟩

theorem putHost_memoryWf (a : Nat) (d : List Byte) (p : Bool) (s : State) (w : s.memoryWf) : (putHost a d p s).memoryWf :=
  ⟨w.1, Memory.wf_write 0 _ a d w.2.1, w.2.2⟩

/-- Interrupts, translation and logging keep the form of the memories. -/
theorem keepsWf : AccessRel fun s t => s.memoryWf → t.memoryWf where
  refl _ w := w
  trans h k w := k (h w)
  log _ _ _ w := w
  mtu _ _ _ w := w
  dpa a d s w := putDpa_memoryWf a d s w
  host a d p s w := putHost_memoryWf a d p s w
  msix fn v s w := by rw [msix_frame fn v s]; exact w
  free _ _ w := w
  lines _ _ _ w := w
  found _ _ w := w
  fix a s w := by
    unfold fixLine
    simp only
    split
    · split <;> exact w
    · exact w
  bfm _ _ _ _ _ w := w

theorem localPut_memoryWf (c : CoreId) (a : Nat) (d : List Byte) (s : State) (w : s.memoryWf) : (localPut c a d s).memoryWf := by
  refine ⟨w.1, w.2.1, w.2.2.1, w.2.2.2.1, fun k => ?_⟩
  by_cases h : k.val = c.val
  · have e : k = c := Fin.ext h
    subst e
    simp only [localPut, modCore_cores, upd_same]
    exact Memory.wf_write 0 _ a d (w.2.2.2.2 k)
  · simp only [localPut, modCore_cores]
    rw [upd_other _ _ _ _ k.isLt h]
    exact w.2.2.2.2 k

/-- A change of a core that keeps the form of its local memory keeps the form of every memory. -/
theorem modCore_memoryWf (c : CoreId) (f : Core → Core) (s : State) (w : s.memoryWf)
    (h : Memory.wf 0 (f s.cores[c.val]).mem = true) : (modCore c f s).memoryWf := by
  refine ⟨w.1, w.2.1, w.2.2.1, w.2.2.2.1, fun k => ?_⟩
  by_cases e : k.val = c.val
  · obtain rfl : k = c := Fin.ext e
    simpa only [modCore_cores, upd_same] using h
  · simp only [modCore_cores]
    rw [upd_other _ _ _ _ k.isLt e]
    exact w.2.2.2.2 k

theorem localUndefined_memoryWf (c : CoreId) (r : Nat × Nat) (s : State) (w : s.memoryWf) : (localUndefined c r s).memoryWf := by
  have k : (takeFree (8 * r.2) s).2.memoryWf := w
  unfold localUndefined
  simp only
  exact modCore_memoryWf c _ _ k (Memory.wf_write 0 _ _ _ (k.2.2.2.2 c))

theorem globalUndefined_memoryWf (c : CoreId) (r : Nat × Nat) (s : State) (w : s.memoryWf) : (globalUndefined c r s).memoryWf :=
  keepsWf.writeIva _ _ _ _ _ (show (takeFree (8 * r.2) s).2.memoryWf from w)

theorem setFlags_memoryWf (c : CoreId) (f : Word) (s : State) (w : s.memoryWf) : (setFlags c f s).memoryWf :=
  modCore_memoryWf c _ s w (w.2.2.2.2 c)

theorem spoilEntry_memoryWf (c : CoreId) (e : QEntry) (s : State) (w : s.memoryWf) : (spoilEntry c e s).2.memoryWf := by
  have k := keepsWf.foldl _ (fun s r => localUndefined_memoryWf c r s) e.wrote s w
  have k1 := keepsWf.foldl _ (fun s r => globalUndefined_memoryWf c r s) e.gwrote _ k
  unfold spoilEntry
  simp only
  generalize e.gwrote.foldl (fun s r => globalUndefined c r s) (e.wrote.foldl (fun s r => localUndefined c r s) s) = u0 at k1 ⊢
  have k1 : (setFlags c ((takeFree 6 u0).1.setWidth 32) (takeFree 6 u0).2).memoryWf := setFlags_memoryWf c _ _ k1
  generalize setFlags c ((takeFree 6 u0).1.setWidth 32) (takeFree 6 u0).2 = u at k1 ⊢
  have k2 : (if e.arrays = true then arraysUndefined c u else u).memoryWf := by
    split
    · have k' : (takeFree (32 * 256) (takeFree (128 * 256) u).2).2.memoryWf := k1
      unfold arraysUndefined
      simp only
      generalize (takeFree (32 * 256) (takeFree (128 * 256) u).2) = x at k' ⊢
      exact modCore_memoryWf c _ _ k' (k'.2.2.2.2 c)
    · exact k1
  generalize (if e.arrays = true then arraysUndefined c u else u) = v at k2 ⊢
  have k3 : (if e.hash = true then haccUndefined c v else v).memoryWf := by
    split
    · have k' : (takeFree (192 * v.cores[c.val].hacc.length) v).2.memoryWf := k2
      unfold haccUndefined
      simp only
      exact modCore_memoryWf c _ _ k' (k'.2.2.2.2 c)
    · exact k2
  exact k3

theorem setQueue_memoryWf (c : CoreId) (q : QueueId) (es : List QEntry) (s : State) (w : s.memoryWf) : (setQueue c q es s).memoryWf :=
  modCore_memoryWf c _ s w (by cases q <;> exact w.2.2.2.2 c)

theorem spoilList_memoryWf (c : CoreId) (f : QEntry → Bool) (l : List QEntry) (s : State) (w : s.memoryWf) :
    (spoilList c f l s).2.memoryWf := by
  induction l generalizing s with
  | nil => exact w
  | cons e t ih =>
    simp only [spoilList]
    split
    · exact ih _ (spoilEntry_memoryWf c e s w)
    · exact ih _ w

theorem spoilQueue_memoryWf (c : CoreId) (f : QEntry → Bool) (s : State) (q : QueueId) (w : s.memoryWf) :
    (spoilQueue c f s q).memoryWf :=
  setQueue_memoryWf c q _ _ (spoilList_memoryWf c f _ s w)

theorem freeRaced_memoryWf (q : Option QueueId) (k : Core) (a : Nat) (d : List Byte) (s : State) (w : s.memoryWf) :
    (freeRaced q k a d s).2.memoryWf := by
  unfold freeRaced
  split
  · exact w
  · exact w

theorem localWrite_memoryWf (q : Option QueueId) (c : CoreId) (a : Nat) (d : List Byte) (s : State) (w : s.memoryWf) :
    (localWrite q c a d s).memoryWf := by
  have k : ∀ (f : QEntry → Bool) (l : List QueueId) (s : State), s.memoryWf → (l.foldl (spoilQueue c f) s).memoryWf := by
    intro f l
    induction l with
    | nil => exact fun _ h => h
    | cons x t ih => exact fun s h => ih _ (spoilQueue_memoryWf c f s x h)
  unfold localWrite
  simp only
  refine localPut_memoryWf c a _ _ (freeRaced_memoryWf _ _ _ _ _ ?_)
  split
  · exact k _ _ _ w
  · exact w

/-- Without a race a read gives the bytes that stand there. -/
theorem localRead_calm (q : Option QueueId) (c : CoreId) (a n : Nat) (s : State)
    (h : raced q s.cores[c.val] a (localBytes s.cores[c.val] a n).length = false) :
    localRead q c a n s = (localBytes s.cores[c.val] a n, s) := by
  simp [localRead, freeRaced, h]

/-- Without a race a write is no more than that. -/
theorem localWrite_calm (q : Option QueueId) (c : CoreId) (a : Nat) (d : List Byte) (s : State)
    (h : raced q s.cores[c.val] a d.length = false) (h2 : (others q s.cores[c.val]).any (reads a d.length) = false) :
    localWrite q c a d s = localPut c a d s := by
  simp [localWrite, freeRaced, h, h2]

/-- Every byte memory of the block is in its canonical form at reset. -/
theorem reset_cores_wf (c : CoreId) : Memory.wf 0 State.reset.cores[c.val].mem = true := by
  simp [State.reset, Memory.wf]

end Sys2Proof.Machine
end

