-- ==== Sys2Proof/Tests/Slice0.lean ====
section
/-! SUPPORT. The model's own tests: what well-formedness refuses, the manual's worked encodings, and, for the hypotheses of each
statement, states and operands that meet them together with what the command then does there. -/

namespace Sys2Proof.Tests

open Sys2Proof Sys2Proof.Machine

set_option maxRecDepth 8000
set_option exponentiation.threshold 1024
set_option Elab.async false
set_option synthInstance.maxSize 1024
set_option synthInstance.maxHeartbeats 200000

/-! ### Small states -/

/-- A device that has come up, every unit in service. -/
def up : State :=
  { State.reset with
    hub := { State.reset.hub with rstN := true, perstN := true, stage0 := true, linkUp := true, ready := true, stage := 5 }
    nuc := { State.reset.nuc with ready := true, units := Vector.replicate 622 { st := 0, fence := false, tbl := false } } }

/-- The state that an outcome answers. -/
def nextOf (o : Out) : State :=
  match o with
  | .next t => t
  | _ => State.reset

/-- The outcome is a next state. -/
def isNext (o : Out) : Bool :=
  match o with
  | .next _ => true
  | _ => false

/-- No guard. -/
def ng : Guard := { en := false, neg := false, p := 0 }

/-- Core 5 is the one core of partition 0 of instance 0 and runs, with these registers. -/
def run (f : Core → Core) : State :=
  modCore 5 (fun k => f { k with st := .running })
    (modPart 0 (fun _ => { valid := true, owner := 0, gx0 := 5, gy0 := 0, width := 1, height := 1 }) up)

/-- Scalar registers 1 to 4. -/
def regs (a b c d : Dword) (k : Core) : Core := (((k.putS 1 a).putS 2 b).putS 3 c).putS 4 d

/-- An R word. -/
def r (d a b : BitVec 5) (c : BitVec 5 := 0) (x : BitVec 29 := 0) : RFmt := { g := ng, d := d, a := a, b := b, c := c, x := x }

/-- An M word. -/
def m (t a : BitVec 5) (sp : BitVec 2) (x : BitVec 8) (off : BitVec 24 := 0) (n : BitVec 5 := 0) : MFmt :=
  { g := ng, t := t, a := a, n := n, sp := sp, x := x, off := off }

/-! ### Well-formedness refuses -/

theorem wf_size : Instr.wf (.registerWrite ⟨.pf, 0⟩ 3 0) = false := by decide
theorem wf_window : Instr.wf (.registerWrite ⟨.pf, 0x4000000⟩ 4 0) = false := by decide
theorem wf_page : Instr.wf (.registerWrite ⟨.page 3, 0x10000⟩ 4 0) = false := by decide
theorem wf_pair : Instr.wf (.regPairLowRead ⟨.pf, 0x100011⟩) = false := by decide
theorem wf_doorbell : Instr.wf (.sqTailDoorbell 0 0 0 1) = false := by decide
theorem wf_fetch : Instr.wf (.descriptorFetch 0 0 9 .ok) = false := by decide
theorem wf_pll : Instr.wf (.pllLock (-51)) = false := by decide
theorem wf_tref : Instr.wf (.trefQualify 21) = false := by decide
theorem wf_slew : Instr.wf (.phaseSlewDone 3) = false := by decide
theorem wf_bar : Instr.wf (.barWindowRead 1 0x10000000 1) = false := by decide
theorem wf_flr : Instr.wf (.vfFlr 0) = false := by decide
theorem wf_dvfs : Instr.wf (.dvfsChange 0 1501) = false := by decide
theorem wf_message : Instr.wf (.probe 0 ⟨0x2D, 0, 0, 0, 0, 0, 1, 0, 0, 0, 0, 0, []⟩) = false := by decide
theorem wf_request : Instr.wf (.unitQuery .mailbox ⟨1, 2, 0, [0]⟩) = false := by decide
theorem wf_guard : Instr.wf (.add 0 { r 0 0 0 with g := { en := false, neg := true, p := 0 } }) = false := by decide
theorem wf_accepts : Instr.wf (.registerWrite ⟨.page 63, 0xFFFC⟩ 4 0) = true := by decide

/-! ### The words that the manual encodes by hand (06_isa.md, Example: encodings) -/

theorem decode_addi : coreDecode 0 0x08347180FFFFFFF0 =
    .addi 0 { g := { en := true, neg := true, p := 2 }, d := 7, a := 3, x := 0, imm := 0xFFFFFFF0 } := by decide

theorem decode_mma : coreDecode 5 0x40003296C0054000 =
    .mma 5 { g := ng, acc := 6, a := 10, b := 11, c := 12, e := 0, x := 0x54000 } none := by decide

theorem decode_family_f : coreDecode 0 0xF000000000000000 = .coreException 0 .illegal false 0 := by decide

theorem table_gives_no_bits (n w : Nat) : decodeTableWord n w = none := rfl

/-! ### The queue -/

theorem step_takes_the_front : (nextOf (step { up with pending := [.todArm] })).eph.todPending = true ∧
    (nextOf (step { up with pending := [.todArm] })).pending = [] := by decide

theorem step_ticks : (nextOf (step up)).eph.ticks = 1 ∧ (nextOf (step up)).eph.now = 1 := by decide

theorem step_held_in_reset : (nextOf (step State.reset)).eph.ticks = 0 := by decide

/-- An accepted descriptor of instance 0, with its opcode and further fields by byte offset. -/
def item (d op : Nat) (fs : List (Nat × Nat)) (stage : Stage := .ready) : Item :=
  let raw := BitVec.ofNat 512 (op + (fs.map fun e => e.2 * 2 ^ (8 * e.1)).sum)
  { id := d, inst := 0, sq := 0, cq := 0, cls := 1, raw := raw, gen := 0, stage := stage, result := firstResult raw }

/-- The state with these descriptors. -/
def withItems (l : List Item) (s : State) : State := { s with items := l, nextId := l.length }

/-- The statuses and results of the records due at CQ 0 of instance 0. -/
def dues (s : State) : List (BitVec 8 × Dword) := (s.inst[0].cq[0]).due.map fun x => (x.status, x.result)

/-! ### Scalar, predicate and branch instructions -/

/-- ScalarResults: the register forms, and the immediate forms. -/
theorem scalarResults : Executes 5 ng (run (regs (-1) 2 0 0)) ∧ NotLast 5 (run (regs (-1) 2 0 0)) ∧
    NotPending (run (regs (-1) 2 0 0)).cores[5] [3, 1, 2] [] [] ∧
    exec (.add 5 (r 3 1 2)) (run (regs (-1) 2 0 0)) = .next (modCore 5 (fun k => (k.putS 3 1).issued) (run (regs (-1) 2 0 0))) := by
  refine ⟨?_, ?_, ?_, rfl⟩
  · unfold Executes; decide
  · unfold NotLast; decide
  · unfold NotPending; decide

/-- An I word. -/
def ii (d a : BitVec 5) (imm : BitVec 32) (x : BitVec 7 := 0) : IFmt := { g := ng, d := d, a := a, x := x, imm := imm }

/-- A B word. -/
def bb (d a : BitVec 5) (off : BitVec 16) : BFmt := { g := ng, d := d, a := a, rsv := 0, off := off }

theorem scalar_sra : (nextOf (exec (.sra 5 (r 3 1 2)) (run (regs (-8) 65 0 0)))).cores[5].s[3] = -4 := by decide
theorem scalar_mulh : (nextOf (exec (.mulh 5 (r 3 1 2)) (run (regs (-1) 2 0 0)))).cores[5].s[3] = -1 := by decide
theorem scalar_mulhu : (nextOf (exec (.mulhu 5 (r 3 1 2)) (run (regs (-1) 2 0 0)))).cores[5].s[3] = 1 := by decide
theorem scalar_maxu : (nextOf (exec (.maxu 5 (r 3 1 2)) (run (regs (-1) 2 0 0)))).cores[5].s[3] = -1 := by decide
theorem scalar_min : (nextOf (exec (.min 5 (r 3 1 2)) (run (regs (-1) 2 0 0)))).cores[5].s[3] = -1 := by decide
theorem scalar_s0 : (nextOf (exec (.add 5 (r 0 1 2)) (run (regs 1 2 0 0)))).cores[5].s = (run (regs 1 2 0 0)).cores[5].s := by decide
theorem scalar_addi : (nextOf (exec (.addi 5 (ii 3 1 0xFFFFFFF0)) (run (regs 1 2 0 0)))).cores[5].s[3] = -15 := by decide
theorem scalar_movhi : (nextOf (exec (.movhi 5 (ii 3 1 0x80000000)) (run (regs 7 2 0 0)))).cores[5].s[3] = 0x8000000000000007 := by decide
theorem scalar_srai_63 : (nextOf (exec (.srai 5 (ii 3 1 63)) (run (regs (-1) 2 0 0)))).cores[5].s[3] = -1 := by decide
theorem scalar_shli_64_illegal : (nextOf (exec (.shli 5 (ii 3 1 64)) (run (regs 1 2 0 0)))).cores[5].faultCause = 1 := by decide

/-- ScalarPredicate: SEL by p3, CMP lt signed, CMPI geu, PLOG andnot, PMOV, PSET, RDF with and without the clear. -/
theorem scalarPredicate : let s := run (fun k => { (regs (-1) 2 0 0 k).putP 3 1 with flags := 5 })
    Executes 5 ng s ∧ NotLast 5 s ∧ NotPending s.cores[5] [3, 1, 2] [] [3] ∧ NotPending s.cores[5] [] [] [1, 3, 0] ∧
    (nextOf (exec (.sel 5 (r 4 1 2 0 3)) s)).cores[5].s[4] = -1 ∧
    (nextOf (exec (.cmp 5 (r 1 1 2 0 2)) s)).cores[5].p[1] = 0xFFFF ∧
    (nextOf (exec (.cmp 5 (r 1 1 2 0 4)) s)).cores[5].p[1] = 0 ∧
    (nextOf (exec (.cmpi 5 (ii 1 2 2 5)) s)).cores[5].p[1] = 0xFFFF ∧
    (nextOf (exec (.plog 5 (r 1 3 0 0 3)) s)).cores[5].p[1] = 1 ∧
    (nextOf (exec (.pmov 5 (r 4 3 0)) s)).cores[5].s[4] = 1 ∧
    (nextOf (exec (.pset 5 (r 1 2 0)) s)).cores[5].p[1] = 2 ∧
    (nextOf (exec (.rdf 5 (r 4 0 0)) s)).cores[5].s[4] = 5 ∧ (nextOf (exec (.rdf 5 (r 4 0 0)) s)).cores[5].flags = 5 ∧
    (nextOf (exec (.rdf 5 (r 4 0 0 0 1)) s)).cores[5].flags = 0 := by
  unfold Executes NotLast NotPending; decide +kernel

/-- Branches: B back to 0, BL, LOOP that takes its branch, BR and BLR to sa, LOOP at its end and on s0. -/
theorem branches : let s := run (fun k => { regs 2 1 0x1F0 0 k with pc := 0x100 })
    Executes 5 ng s ∧ NotLast 5 s ∧ NotPending s.cores[5] [1, 2, 3, 4] [] [] ∧
    ((0 : Nat) : Int) = (s.cores[5].pc.toNat : Int) + 8 * (0xFFE0 : BitVec 16).toInt ∧
    (nextOf (exec (.b 5 (bb 0 0 0xFFE0)) s)).cores[5].pc = 0 ∧
    (nextOf (exec (.bl 5 (bb 4 0 2)) s)).cores[5].pc = 0x110 ∧ (nextOf (exec (.bl 5 (bb 4 0 2)) s)).cores[5].s[4] = 0x108 ∧
    (nextOf (exec (.loop 5 (bb 0 1 0xFFE0)) s)).cores[5].pc = 0 ∧ (nextOf (exec (.loop 5 (bb 0 1 0xFFE0)) s)).cores[5].s[1] = 1 ∧
    (nextOf (exec (.br 5 (bb 0 3 0)) s)).cores[5].pc = 0x1F0 ∧
    (nextOf (exec (.blr 5 (bb 3 3 0)) s)).cores[5].pc = 0x1F0 ∧ (nextOf (exec (.blr 5 (bb 3 3 0)) s)).cores[5].s[3] = 0x108 ∧
    (nextOf (exec (.loop 5 (bb 0 2 0xFFE0)) s)).cores[5].pc = 0x108 ∧ (nextOf (exec (.loop 5 (bb 0 2 0xFFE0)) s)).cores[5].s[2] = 0 ∧
    (nextOf (exec (.loop 5 (bb 0 0 0xFFE0)) s)).cores[5].pc = 0x108 := by
  unfold Executes NotLast NotPending; decide +kernel

/-- Traps of branches: a misaligned BR and BLR, a B, BL and LOOP to 0x2_0000 and a NOP at the end of instruction memory. -/
theorem traps_branches : let s := run (fun k => { regs 0x104 0 0 0 k with pc := 0x1FFF8 })
    Executes 5 ng s ∧ ¬ NotLast 5 s ∧ NotPending s.cores[5] [1, 3] [] [] ∧ sreg s.cores[5] 1 ≠ 1 ∧
    0x20000 ≤ (s.cores[5].pc.toNat : Int) + 8 * (1 : BitVec 16).toInt ∧
    (nextOf (exec (.br 5 (bb 0 1 0)) s)).cores[5].faultCause = 3 ∧ (nextOf (exec (.blr 5 (bb 3 1 0)) s)).cores[5].faultCause = 3 ∧
    (nextOf (exec (.bl 5 (bb 3 0 1)) s)).cores[5].faultCause = 2 ∧ (nextOf (exec (.loop 5 (bb 0 1 1)) s)).cores[5].faultCause = 2 ∧
    (nextOf (exec (.b 5 (bb 0 0 1)) s)).cores[5].faultCause = 2 ∧ (nextOf (exec (.b 5 (bb 0 0 1)) s)).cores[5].st = .faulted ∧
    (nextOf (exec (.syncNop 5 (r 0 0 0)) s)).cores[5].faultCause = 2 ∧
    (nextOf (exec (.syncNop 5 (r 0 0 0)) s)).cores[5].faultPc = 0x1FFF8 := by
  unfold Executes NotLast NotPending; decide +kernel

/-- Lane i of v1 is i + 1 and of v2 is 10·i; p0 lets the even lanes through. -/
def vecs (k : Core) : Core := ((k.putV 1 (ofLanes fun i => BitVec.ofNat 32 (i + 1))).putV 2 (ofLanes fun i => BitVec.ofNat 32 (10 * i))).putP 1 0x5555

/-- VectorElements: VADD of i32 (type 0), unmasked and under a mask, and VMUL. -/
theorem vectorElements : let s := run vecs
    Executes 5 ng s ∧ NotLast 5 s ∧ vecX (r 3 1 2) 6 0 = true ∧ NotPending s.cores[5] [] [3, 1, 2] (vecMask (r 3 1 2)) ∧
    lane (nextOf (exec (.vadd 5 (r 3 1 2)) s)).cores[5].v[3] 4 = 45 ∧
    lane (nextOf (exec (.vmul 5 (r 3 1 2)) s)).cores[5].v[3] 15 = 2400 ∧
    lane (nextOf (exec (.vsub 5 (r 3 1 2)) s)).cores[5].v[3] 1 = 0xFFFFFFF8 := by
  unfold Executes NotLast NotPending; decide +kernel
/-- VectorOthers: VADD masked by p1, VSEL by p1, VCMP lt, VCVT, VBC, VINS into lane 9, VPERM, VEXT and VRSUM. -/
theorem vectorOthers : let s := run fun k => vecs (regs 7 0 0 0 k)
    let masked : RFmt := r 3 1 2 0 0x02400000
    Executes 5 ng s ∧ NotLast 5 s ∧ NotPending s.cores[5] [1, 4] [3, 1, 2] [1] ∧ vecX masked 6 0 = true ∧ vecX (r 3 1 0 0 9) 6 15 = true ∧
    lane (nextOf (exec (.vadd 5 masked) s)).cores[5].v[3] 2 = 23 ∧ lane (nextOf (exec (.vadd 5 masked) s)).cores[5].v[3] 3 = 0 ∧
    lane (nextOf (exec (.vsel 5 (r 3 1 2 1)) s)).cores[5].v[3] 4 = 5 ∧ lane (nextOf (exec (.vsel 5 (r 3 1 2 1)) s)).cores[5].v[3] 5 = 50 ∧
    (nextOf (exec (.vcmp 5 (r 2 1 2 0 2)) s)).cores[5].p[2] = 0xFFFE ∧
    lane (nextOf (exec (.vbc 5 (r 3 1 0)) s)).cores[5].v[3] 11 = 7 ∧
    lane (nextOf (exec (.vins 5 (r 2 1 0 0 9)) s)).cores[5].v[2] 9 = 7 ∧ lane (nextOf (exec (.vins 5 (r 2 1 0 0 9)) s)).cores[5].v[2] 8 = 80 ∧
    lane (nextOf (exec (.vperm 5 (r 3 2 1)) s)).cores[5].v[3] 15 = 0 ∧ lane (nextOf (exec (.vperm 5 (r 3 2 1)) s)).cores[5].v[3] 0 = 10 ∧
    (nextOf (exec (.vext 5 (r 4 2 0 0 15)) s)).cores[5].s[4] = 150 ∧
    (nextOf (exec (.vrsum 5 (r 4 1 0)) s)).cores[5].s[4] = 136 ∧
    isNext (exec (.vcvt 5 (r 3 1 0 0 1)) s) = true := by
  unfold Executes NotLast NotPending; decide +kernel

/-- GuardedOff: an ADD whose guard p1 does not pass only moves on; one with c not 0 is illegal all the same. -/
theorem guardedOff : let s := run (regs 1 2 0 0)
    let g : Guard := { en := true, neg := false, p := 1 }
    let w : RFmt := { r 3 1 2 with g := g }
    (∃ v, coreEncode (.add 5 w) = some (5, v) ∧ guardOf v = g) ∧ canIssue 5 s = true ∧ guardOk g = true ∧
    guardReady g s.cores[5] = true ∧ guardPass g s.cores[5] = false ∧ NotLast 5 s ∧
    exec (.add 5 w) s = .next (modCore 5 Core.issued s) ∧
    (nextOf (exec (.add 5 { w with c := 1 }) s)).cores[5].st = .faulted := by
  refine ⟨⟨_, rfl, by decide⟩, ?_, ?_, ?_, ?_, ?_, rfl, ?_⟩ <;> first | decide | (unfold NotLast; decide)

/-! ### Loads and stores -/

/-- An error in line 0x800 of the core's local memory. -/
def localErr (unc : Bool) : Option LineErr := some { loc := true, line := 0x800, unc := unc }

/-- LocalLoads: LD of 2 bytes and LDS of 1 from data memory, VLD from AccMem; LD that meets an error of each kind. -/
theorem localLoads : let s := run fun k => { regs 0x20002 0x1C0040 0 0 k with mem := [(0x20002, 0xFE), (0x20003, 0x81), (0x1C0041, 3)] }
    Executes 5 ng s ∧ NotLast 5 s ∧ NotPending s.cores[5] [3, 1, 2] [3] [] ∧
    (address 5 (m 3 1 0 1) s).toNat % 2 = 0 ∧ Loadable (address 5 (m 3 1 0 1) s).toNat 2 ∧
    Loadable (address 5 (m 3 2 0 0) s).toNat 64 ∧ CleanLines s.cores[5] 0x20002 1 ∧ CleanLines s.cores[5] 0x1C0040 1 ∧
    SlotsSettled s.cores[5] [0] false ∧ MeetsError (localErr false) ((address 5 (m 3 1 0 1) s).toNat / 64) false ∧
    MeetsError (localErr true) ((address 5 (m 3 1 0 1) s).toNat / 64) true ∧
    (nextOf (exec (.ld 5 (m 3 1 0 1) (localErr false)) s)).cores[5].s[3] = 0x81FE ∧
    (nextOf (exec (.ld 5 (m 3 1 0 1) (localErr false)) s)).dies[0].sramCe = 1 ∧
    (nextOf (exec (.ld 5 (m 3 1 0 1) (localErr true)) s)).cores[5].faultCause = 5 ∧
    (nextOf (exec (.ld 5 (m 3 1 0 1) (localErr true)) s)).cores[5].poisoned = [0x800] ∧
    (nextOf (exec (.ld 5 (m 3 1 0 1) none) s)).cores[5].s[3] = 0x81FE ∧
    (nextOf (exec (.lds 5 (m 3 1 0 0) none) s)).cores[5].s[3] = -2 ∧
    (nextOf (exec (.vld 5 (m 3 2 0 0) none) s)).cores[5].v[3] = 0x300 := by
  unfold Executes NotLast NotPending Loadable CleanLines SlotsSettled MeetsError; decide +kernel

/-- LocalStores: ST of 4 bytes, and VST to the last line of data memory, which takes its poison. -/
theorem localStores : let s := run fun k =>
      { ((regs 0x20000 0x1BFFC0 0xAABBCCDDEE 0 k).putV 3 0x1234) with mem := [(0x20004, 9)], poisoned := [0x6FFF] }
    Executes 5 ng s ∧ NotLast 5 s ∧ NotPending s.cores[5] [3, 1, 2] [3] [] ∧ Memory.wf 0 s.cores[5].mem = true ∧ NoRace none s.cores[5] ∧
    Storable (address 5 (m 3 1 0 2) s).toNat 4 ∧ Storable (address 5 (m 3 2 0 0) s).toNat 64 ∧
    (nextOf (exec (.st 5 (m 3 1 0 2)) s)).cores[5].mem = [(0x20000, 0xEE), (0x20001, 0xDD), (0x20002, 0xCC), (0x20003, 0xBB), (0x20004, 9)] ∧
    (nextOf (exec (.vst 5 (m 3 2 0 0)) s)).cores[5].mem = [(0x20004, 9), (0x1BFFC0, 0x34), (0x1BFFC1, 0x12)] ∧
    (nextOf (exec (.vst 5 (m 3 2 0 0)) s)).cores[5].poisoned = [] := by
  unfold Executes NotLast NotPending Storable NoRace; decide +kernel

/-- A DRAIN that has not completed writes 0x20004 to 0x20007, and an ISECT reads 0x20010: of a load of 8 bytes at 0x20000 the
upper four are free; a store to 0x20010 spoils the ISECT, whose result is free (R211, R218). -/
theorem raced_access : let s := run fun k => { regs 0x20000 0x20010 5 0 k with
        mem := [(0x20000, 1), (0x20004, 9)], arr := [{ wrote := [(0x20004, 4)] }], spx := [{ sres := [(4, 7)], read := [(0x20010, 2)] }] }
    let l := nextOf (exec (.ld 5 (m 3 1 0 3) none) s)
    let t := nextOf (exec (.st 5 (m 3 2 0 0)) s)
    l.free = 1 ∧ (localRead none 5 0x20000 8 s).1.take 4 = [1, 0, 0, 0] ∧ (nextOf (exec (.ld 5 (m 3 1 0 2) none) s)).free = 0 ∧
    t.free = 2 ∧ t.cores[5].spx.map (fun e => e.sres.map Prod.fst) = [[4]] ∧ (nextOf (exec (.st 5 (m 3 1 0 0)) s)).free = 0 := by
  decide +kernel

/-- The context of instance 0 maps its first 1 GiB to the first 1 GiB of device memory: one L1 block at 0x4000_0000. -/
def mapped (s : State) : State :=
  { s with mem := { s.mem with lp5xPresent := true, chOk := 15, dpa := [(0x40000000, 0x1F)] }
           mtu := upd s.mtu 0 fun x => { x with root := 0x40000000, enable := true, cache := [(0, 0x1F)] } }

/-- Put bytes into device memory. -/
def poke (a : Nat) (d : List Byte) (s : State) : State := { s with mem := { s.mem with dpa := Memory.write 0 s.mem.dpa a d } }

/-- GlobalAccess: a load of 8 bytes at 0x1038, the end of its line, and a store of 1. -/
theorem globalAccess : let s := poke 0x1038 [1, 2, 3, 4, 5, 6, 7, 8] (mapped (run (regs 0x1038 0x99 0 0)))
    Executes 5 ng s ∧ NotLast 5 s ∧ NiFree 5 1 s ∧ GoodLine s 0x1038 ∧ MapsTo 5 .read 0x1038 s 0x1038 ∧
    MapsTo 5 .write 0x1038 s 0x1038 ∧ Memory.wf 0 s.mem.dpa = true ∧ NotPending s.cores[5] [3, 2, 1] [] [] ∧
    (address 5 (m 3 1 1 3) s).toNat % 64 + 8 ≤ 64 ∧
    (nextOf (exec (.ld 5 (m 3 1 1 3) none) s)).cores[5].ni.map QEntry.sres = [[(3, 0x0807060504030201)]] ∧
    (nextOf (exec (.ld 5 (m 3 1 1 3) none) s)).cores[5].pendS = 8 ∧
    (nextOf (exec (.st 5 (m 2 1 1 0)) s)).mem.dpa.head? = some (0x1038, 0x99) := by
  unfold Executes NotLast NiFree NotPending GoodLine MapsTo QueueRoom; decide +kernel

/-- Instance 0 may use the fabric in domain 9; this is node 1, and node 7 lies behind port 2, whose lane 8 is up. -/
def routed (s : State) : State :=
  { s with inst := upd s.inst 0 fun x => { x with fabEn := true }
           fab := { s.fab with
             node := 1, hopLimit := 8, domain := upd s.fab.domain 0 fun _ => some 9, routes := [(7, 0xA000)]
             ports := Vector.replicate 8 { mode := 1, peerReady := true }
             lanes := upd s.fab.lanes 8 fun l => { l with up := true, selectable := true, peerTrained := true } } }

/-- RemoteAccess: LD of 8 bytes and ST of 8 at node 7. -/
theorem remoteAccess : let s := routed (run (regs 0x2008 7 0x55 0))
    Executes 5 ng s ∧ NotLast 5 s ∧ NiFree 5 1 s ∧ RouteOpen 5 7 9 s ∧ (address 5 (m 3 1 2 3 0 2) s).toNat % 64 + 8 ≤ 64 ∧
    NotPending s.cores[5] [3, 1, 2] [] [] ∧
    (nextOf (exec (.ld 5 (m 3 1 2 3 0 2) none) s)).fab.reqs.map (fun q => (q.id, q.msg.type, q.msg.dst, q.msg.arg)) = [(0, 2, 7, 7)] ∧
    (nextOf (exec (.ld 5 (m 3 1 2 3 0 2) none) s)).cores[5].ni.map QEntry.parts = [[(0, none)]] ∧
    (nextOf (exec (.st 5 (m 3 1 2 3 0 2)) s)).cores[5].coalesce = some ⟨7, 0x2008, [0x55, 0, 0, 0, 0, 0, 0, 0], 0⟩ := by
  unfold Executes NotLast NiFree NotPending RouteOpen QueueRoom; decide +kernel

/-- ST of the last 8 bytes of a 4 KiB block closes its WRITE. -/
theorem remoteStore_closes : let s := routed (run (regs 0x2008 7 0x55 0))
    (address 5 (m 3 1 2 3 0xFF0 2) s).toNat % 4096 + 8 = 4096 ∧
    (nextOf (exec (.st 5 (m 3 1 2 3 0xFF0 2)) s)).fab.reqs.map (fun q => (q.id, q.msg.type, q.msg.addr)) = [(0, 1, 0x2FF8)] ∧
    (nextOf (exec (.st 5 (m 3 1 2 3 0xFF0 2)) s)).cores[5].coalesce = none := by
  decide +kernel

/-- Traps: a misaligned LD, a store to AccMem, a poisoned line, an unmapped global address, a remote access above 2^40. -/
theorem traps_accesses : let s := mapped (run fun k => { regs 0x20001 0x1C0000 0x40000000 (1 <<< 40) k with poisoned := [0x800] })
    Executes 5 ng s ∧ Moves 5 (m 3 1 0 1) (.ld 5 (m 3 1 0 1) none) 2 true ∧ NotPending s.cores[5] [3, 1, 2, 4] [3] [] ∧ NiFree 5 2 s ∧
    SlotsSettled s.cores[5] [0] false ∧ (translate 0 .read 0x40000000 s).1 = .error 0 ∧ ¬ Storable 0x1C0000 8 ∧
    (nextOf (exec (.ld 5 (m 3 1 0 1) none) s)).cores[5].faultCause = 3 ∧
    (nextOf (exec (.st 5 (m 3 2 0 3)) s)).cores[5].faultCause = 2 ∧
    (nextOf (exec (.ld 5 (m 3 1 0 0) none) s)).cores[5].faultCause = 5 ∧
    (nextOf (exec (.ld 5 (m 3 3 1 3) none) s)).cores[5].faultCause = 4 ∧
    (nextOf (exec (.ld 5 (m 3 3 1 3) none) s)).cores[5].faultAddr = 0x40000000 ∧
    (nextOf (exec (.ld 5 (m 3 3 1 3) none) s)).mtu[0].faultSource = 5 ∧
    (nextOf (exec (.ld 5 (m 3 4 2 3) none) s)).cores[5].faultCause = 11 := by
  unfold Executes NiFree NotPending Storable Moves QueueRoom SlotsSettled; decide +kernel

/-- Traps in global space: LD of a poisoned line and ST to a channel out of service. -/
theorem traps_global : let g := mapped (run (regs 0x1100 0 0 0))
    let p : State := { g with mem := { g.mem with poisoned := [0x44] } }
    let o : State := { g with nuc := { g.nuc with units := upd g.nuc.units 0x263 fun u => { u with st := 3, fence := true, tbl := true } } }
    MapsTo 5 .read 0x1100 p 0x1100 ∧ MapsTo 5 .write 0x1100 o 0x1100 ∧ regionOf p 0x1100 = .lp5x 1 ∧ channelOut p 0x1100 = false ∧
    channelOut o 0x1100 = true ∧ (nextOf (exec (.ld 5 (m 3 1 1 3) none) p)).cores[5].faultCause = 5 ∧
    (nextOf (exec (.st 5 (m 3 1 1 3)) o)).cores[5].faultCause = 10 := by
  unfold MapsTo; decide +kernel
/-! ### Atomic adds, locks, buffers -/

/-- AtomicAdds: LADD local to the last word of AccMem with its old value returned, LADD of INF in global space, FADD. -/
theorem atomicAdds : let s := poke 0x2000 [5] (mapped (run fun k => { regs 0x1FFFF0 7 0 0x2000 k with
        mem := [(0x1FFFF0, 3)], s := upd (upd (regs 0x1FFFF0 7 0 0x2000 k).s 6 fun _ => 0) 7 fun _ => 0x8000000000000000 }))
    let l : MFmt := m 2 1 0 1
    Executes 5 ng s ∧ NotLast 5 s ∧ NiFree 5 1 s ∧ NotPending s.cores[5] [2, 3, 1] [] [] ∧ bit l.t 0 = false ∧
    (address 5 l s).toNat % 16 = 0 ∧ Loadable (address 5 l s).toNat 16 ∧ CleanLines s.cores[5] (address 5 l s).toNat 16 ∧ NoRace (some .ni) s.cores[5] ∧
    MapsTo 5 .atomic 0x2000 s 0x2000 ∧ GoodLine s 0x2000 ∧
    (nextOf (exec (.ladd 5 l) s)).cores[5].mem = [(0x1FFFF0, 10)] ∧
    (nextOf (exec (.ladd 5 l) s)).cores[5].ni.map QEntry.sres = [[(2, 3), (3, 0)]] ∧
    (nextOf (exec (.ladd 5 (m 6 4 1 0)) s)).mem.dpa.head? = some (0x200F, 0x80) ∧
    (nextOf (exec (.ladd 5 (m 6 4 1 0)) s)).cores[5].flags = 4 ∧
    (nextOf (exec (.ladd 5 l) (modCore 5 (fun k => k.putS 3 0x8000000000) s))).cores[5].flags = 2 ∧
    (nextOf (exec (.ladd 5 l) (modCore 5 (fun k => k.putS 3 0x7FFFFFFFFF) s))).cores[5].flags = 0 ∧
    Memory.get 0 (nextOf (exec (.fadd 5 (m 2 1 0 0)) s)).cores[5].mem 0x1FFFF0 = 10 ∧
    (nextOf (exec (.fadd 5 (m 2 4 1 0)) s)).cores[5].last = some (stampNow s) := by
  unfold Executes NotLast NiFree NotPending Loadable GoodLine MapsTo QueueRoom NoRace CleanLines; decide +kernel

/-- LADD and FADD to remote memory, with and without the old value returned; on a misaligned address they raise UNIT, and on a
poisoned local word POISON. -/
theorem atomicAdds_remote : let s := routed (run fun k => { regs 0x2000 7 0x55 0 k with poisoned := [0x7FFF] })
    let q (i : Instr) : List (Byte × Byte × BitVec 16 × Nat) :=
      (nextOf (exec i s)).fab.reqs.map fun q => (q.msg.type, q.msg.flags, q.msg.dst, q.msg.payload.length)
    Executes 5 ng s ∧ NotLast 5 s ∧ NiFree 5 1 s ∧ NotPending s.cores[5] [6, 7, 3, 4, 1, 2] [] [] ∧ RouteOpen 5 7 9 s ∧
    (address 5 (m 6 1 2 1 0 2) s).toNat % 16 = 0 ∧ (address 5 (m 6 1 2 1 4 2) s).toNat % 16 ≠ 0 ∧
    q (.ladd 5 (m 6 1 2 1 0 2)) = [(3, 2, 7, 16)] ∧ q (.ladd 5 (m 6 1 2 0 0 2)) = [(3, 0, 7, 16)] ∧
    q (.fadd 5 (m 3 1 2 1 4 2)) = [(4, 2, 7, 4)] ∧
    (nextOf (exec (.ladd 5 (m 6 1 2 1 4 2)) s)).cores[5].faultCause = 10 ∧
    (nextOf (exec (.fadd 5 (m 3 1 2 1 2 2)) s)).cores[5].faultCause = 10 ∧
    (nextOf (exec (.ladd 5 (m 6 0 0 0 0x1FFFC0)) s)).cores[5].faultCause = 5 ∧
    (nextOf (exec (.fadd 5 (m 3 0 0 0 0x1FFFFC)) s)).cores[5].faultCause = 5 ∧
    0x1FFFF0 / 64 ∈ s.cores[5].poisoned ∧ Loadable 0x1FFFC0 16 := by
  unfold Executes NotLast NiFree NotPending RouteOpen QueueRoom Loadable; decide +kernel

/-- SlotAdds: slot 3 holds 9 in its first word, and is added to data memory at its start. -/
theorem slotAdds : let s := run fun k => { regs 0x20000 0 0 0 k with mem := [(0x20000, 1), (0x1C3000, 9)] }
    Executes 5 ng s ∧ NotLast 5 s ∧ NiFree 5 1 s ∧ NotPending s.cores[5] [1] [] [] ∧ Loadable (address 5 (m 0 1 0 3) s).toNat 4096 ∧
    Memory.wf 0 s.cores[5].mem = true ∧ NoRace (some .ni) s.cores[5] ∧ CleanCore s.cores[5] ∧ SlotsSettled s.cores[5] [2, 3] false ∧ (s.cores[5].slots[(readSlot s.cores[5] (Fin.ofNat 64 3)).val]).form = 0 ∧
    (nextOf (exec (.laddt 5 (m 0 1 0 3)) s)).cores[5].mem = [(0x20000, 10), (0x1C3000, 9)] ∧
    (nextOf (exec (.laddt 5 (m 0 1 0 3)) s)).cores[5].ni.length = 1 := by
  unfold Executes NotLast NiFree NotPending Loadable QueueRoom NoRace CleanCore SlotsSettled; decide +kernel

/-- LADDT of the same slot to a node: one request of 4,096 bytes. -/
theorem slotAdds_remote : let s := routed (run fun k => { regs 0x2000 7 0 0 k with mem := [(0x1C3000, 9)] })
    NotPending s.cores[5] [1, 2] [] [] ∧ RouteOpen 5 7 9 s ∧ (address 5 (m 0 1 2 3 0 2) s).toNat % 64 = 0 ∧
    (nextOf (exec (.laddt 5 (m 0 1 2 3 0 2)) s)).fab.reqs.map (fun q => (q.msg.type, q.msg.dst, q.msg.payload.length,
      q.msg.payload.take 2)) = [(5, 7, 4096, [9, 0])] := by
  unfold NotPending RouteOpen; decide +kernel

/-- Lock n in this state. -/
def withLock (n : Fin 4096) (l : Lock) (s : State) : State := modLock n (fun _ => l) s

/-- LockAcquire: a FREE lock, an ORPHANED one with a lease, a HELD one with and without nowait, one's own. -/
theorem lockAcquire : let s := withLock 65 ⟨.orphaned, 0, 0, 0, 0, []⟩ (withLock 66 ⟨.held, 0, 9, 0, 0, []⟩
      (withLock 67 ⟨.held, 0, 5, 0, 0, []⟩ (run (regs 64 65 66 67))))
    let a (n : BitVec 5) (x : BitVec 29) : State := nextOf (exec (.lacq 5 (r 8 n 0 0 x)) s)
    Executes 5 ng s ∧ NotLast 5 s ∧ NiFree 5 1 s ∧ NotPending s.cores[5] [8, 1, 2, 3, 4, 0] [] [1] ∧ LockOpen 5 64 s ∧ LockOpen 5 67 s ∧
    LeaseOpen (sreg s.cores[5] 0) s.eph.now ∧ (1 : BitVec 29) = (1 : BitVec 3).setWidth 29 + 0 ∧
    (a 1 1).lku.locks[64].st = .held ∧ (a 1 1).cores[5].ni.map QEntry.sres = [[(8, 0)]] ∧
    (a 2 1).lku.locks[65].core = 5 ∧ (a 2 1).cores[5].ni.map QEntry.sres = [[(8, 1)]] ∧ (a 2 1).cores[5].orphan = true ∧
    (a 3 9).cores[5].ni.map QEntry.sres = [[(8, 2)]] ∧ ((a 3 1).lku.locks[66].waiters).map LockReq.core = [5] ∧
    (a 4 1).cores[5].ni.map QEntry.sres = [[(8, 2)]] ∧ ((a 4 1).lku.locks[67].waiters) = [] := by
  unfold Executes NotLast NiFree NotPending LockOpen LeaseOpen QueueRoom; decide +kernel

/-- A lock outside the grant raises UNIT. -/
theorem lockAcquire_ungranted : let s := { run (regs 64 0 0 0) with lku := { (run (regs 64 0 0 0)).lku with grants := Vector.replicate 64 0 } }
    bit s.lku.grants[(coreInst 5 s).val] 1 = false ∧ (nextOf (exec (.lacq 5 (r 8 1 0)) s)).cores[5].faultCause = 10 := by decide +kernel

/-- Radio time stands at tick 2. -/
def timed (s : State) : State := { s with eph := { s.eph with now := 2, ticks := 2 } }

/-- LockRelease: by the holder with and without a waiter, by another, at the end of a lease, and LOCK_ADMIN. -/
theorem lockRelease : let s := withLock 64 ⟨.held, 0, 5, 0, 1, []⟩ (withLock 65 ⟨.orphaned, 0, 5, 0, 0, []⟩
      (withLock 66 ⟨.held, 0, 5, 0, 0, [⟨9, 0, 0, 0⟩]⟩ (withItems [item 0 10 [(24, 65 + 65536 * 1)], item 1 10 [(24, 66 + 65536 * 2)],
        item 2 10 [(24, 64)]] (timed (run (regs 64 65 66 0))))))
    let l (n : BitVec 5) : State := nextOf (exec (.lrel 5 (r 0 n 0)) s)
    Executes 5 ng s ∧ NotLast 5 s ∧ NiFree 5 1 s ∧ NotPending s.cores[5] [1, 2, 3] [] [] ∧ LockOpen 5 64 s ∧ LeaseOpen 0 s.eph.now ∧
    LeaseOpen 2 s.eph.now ∧ ¬ LeaseOpen s.lku.locks[64].lease s.eph.now ∧
    isItem 0 10 .ready s = true ∧ isItem 1 10 .ready s = true ∧ Fresh (item 0 10 [(24, 65 + 65536 * 1)]) s ∧
    (l 1).lku.locks[64].st = .free ∧ (l 3).lku.locks[66].core = 9 ∧ (l 2).lku.badRelease = 1 ∧
    (nextOf (exec (.leaseExpiry 64) s)).lku.locks[64].st = .orphaned ∧ (nextOf (exec (.leaseExpiry 64) s)).lku.orphans = 1 ∧
    (nextOf (exec (.leaseExpiry 67) (withLock 67 ⟨.held, 0, 5, 0, 2, []⟩ s))).lku.locks[67].st = .held ∧
    dues (nextOf (exec (.lockAdmin 0) s)) = [(4, 0)] ∧ (nextOf (exec (.lockAdmin 0) s)).lku.locks[65].st = .free ∧
    (nextOf (exec (.lockAdmin 1) s)).lku.locks[66].core = 9 ∧ dues (nextOf (exec (.lockAdmin 2) s)) = [(0, 1)] := by
  unfold Executes NotLast NiFree NotPending LockOpen LeaseOpen Fresh QueueRoom; decide +kernel

/-- A lock whose first waiter's lease has passed goes to the second; LOCK_ADMIN to state HELD reports it. -/
theorem lockRelease_gone : let s := withLock 66 ⟨.held, 0, 5, 0, 0, [⟨8, 0, 0, 1⟩, ⟨9, 0, 0, 0⟩]⟩ (withItems [item 0 10 [(24, 66)]]
      (timed (run (regs 66 0 0 0))))
    let t := nextOf (exec (.lrel 5 (r 0 1 0)) s)
    ¬ LeaseOpen 1 s.eph.now ∧ t.lku.locks[66].core = 9 ∧ t.lku.locks[66].waiters = [] ∧
    Fresh (item 0 10 [(24, 66)]) s ∧ dues (nextOf (exec (.lockAdmin 0) s)) = [(0, 1)] := by
  unfold LeaseOpen Fresh; decide +kernel

/-- Pool 3 of two buffers, of which instance 0 holds the first. -/
def pooled : State := modPool 3 (fun _ => { enable := true, sizeLog2 := 12, count := 2, free := [1], held := [(0, 0)], reuse := [(0, 7)] }) up

/-- Buffers: ALLOC, ALLOC with none free, FREE by the holder, twice, by another, of a wrong handle, enabling, parity errors. -/
theorem buffers :
    (nextOf (exec (.alloc 0 3) pooled)).out = [.readData [0, 1, 0, 0x30, 0, 0, 0, 0] false] ∧
    (nextOf (exec (.alloc 0 3) pooled)).bfm.pools[3].free = [] ∧ (nextOf (exec (.alloc 0 4) pooled)).bfm.badAccess = 1 ∧
    (nextOf (exec (.free 0 3 0x30000007) pooled)).bfm.pools[3].free = [1, 0] ∧
    Tab.get (0 : Byte) (nextOf (exec (.free 0 3 0x30000007) pooled)).bfm.pools[3].reuse 0 = 8 ∧
    (nextOf (exec (.free 0 3 0x30000006) pooled)).bfm.evtKind = 1 ∧ (nextOf (exec (.free 2 3 0x30000007) pooled)).bfm.evtKind = 2 ∧
    (nextOf (exec (.free 0 3 0x30000207) pooled)).bfm.badHandle = 1 ∧
    (nextOf (exec (.poolEnable 4 0x8C000003) pooled)).bfm.pools[4].free = [0, 1, 2] ∧
    (nextOf (exec (.bfmLkuParityError (.pool 3)) pooled)).bfm.pools[3].broken = true ∧
    (nextOf (exec (.bfmLkuParityError (.bank 63)) pooled)).lku.broken = 0x8000000000000000 := by decide +kernel
/-! ### Messages, time, programs -/

/-- Partition 0 holds cores 5 and 6, both running; f and g change them. -/
def pair (f g : Core → Core) : State :=
  modCore 6 (fun k => g { k with st := .running }) (modPart 0 (fun p => { p with width := 2 }) (run f))

/-- SendMessage: 8 bytes to index 1, to index 2 outside the partition, of length 12, with a full buffer, and to node 7. -/
theorem sendMessage : let s := routed (pair (fun k => { regs 1 0x20000 8 0x70001 k with mem := [(0x20003, 9)] }) id)
    let full := modCore 5 (fun k => { k with sendBuf := List.replicate 4 ⟨6, 0, List.replicate 512 0, 0, .new⟩ }) s
    Executes 5 ng s ∧ NotLast 5 s ∧ NiFree 5 1 s ∧ NotPending s.cores[5] [1, 2, 3] [] [] ∧ partOf 5 s = some 0 ∧
    partSize s.parts[0] = 2 ∧ Storable 0x20000 8 ∧ CleanLines s.cores[5] 0x20000 8 ∧ NoRace (some .ni) s.cores[5] ∧ RouteOpen 5 7 9 s ∧
    (nextOf (exec (.send 5 (r 0 1 2 3 7)) s)).cores[5].sendBuf = [⟨6, 7, [0, 0, 0, 9, 0, 0, 0, 0], 0, .new⟩] ∧
    (nextOf (exec (.send 5 (r 0 1 2 3 7)) s)).cores[5].msgSent = 1 ∧
    (nextOf (exec (.send 5 (r 0 3 2 3 7)) s)).cores[5].faultCause = 6 ∧
    (nextOf (exec (.send 5 (r 0 1 2 1 7)) s)).cores[5].faultCause = 6 ∧
    (nextOf (exec (.send 5 (r 0 1 2 3 7)) full)).cores[5].pc = 0 ∧
    (nextOf (exec (.send 5 (r 0 4 2 3 15)) s)).fab.reqs.map (fun q => (q.msg.type, q.msg.dst, q.msg.addr, q.msg.arg)) = [(6, 7, 1, 7)] ∧
    (nextOf (exec (.send 5 (r 0 4 2 3 9)) (modCore 5 (fun k => k.putS 4 0x7FFFF) s))).fab.reqs.map (fun q => (q.msg.type, q.msg.addr)) =
      [(7, 0)] := by
  unfold Executes NotLast NiFree QueueRoom NotPending Storable RouteOpen NoRace CleanLines; decide +kernel

/-- One message of core 5 for mailbox 2 of core 6, and what waits or is granted there. -/
def mailing (step : SendStep) (box : Mbox) : State :=
  pair (fun k => { k with sendBuf := [⟨6, 2, List.replicate 72 1, 0, step⟩] }) fun k => { k with mbox := upd k.mbox 2 fun _ => box }

/-- MessageJourney: reservation, RETRY when 32 wait, its timer, the grant, the data, an old generation, a pointer mismatch. -/
theorem messageJourney :
    ((nextOf (exec (.mbxReservation 5) (mailing .new {}))).cores[6].mbox[2]).granted = [⟨some 5, 2⟩] ∧
    (nextOf (exec (.mbxReservation 5) (mailing .new {}))).cores[5].sendBuf.map OutMsg.step = [.reserved] ∧
    (nextOf (exec (.mbxReservation 5) (mailing .new { closed := true, waiting := List.replicate 32 ⟨none, 1⟩ }))).cores[5].sendBuf.map
      OutMsg.step = [.retry] ∧
    ((nextOf (exec (.mbxReservation 5) (mailing .new { closed := true, lw := 0, msgs := [⟨0, [1]⟩] }))).cores[6].mbox[2]).waiting =
      [⟨some 5, 2⟩] ∧
    ((nextOf (exec (.mbxReservation 5) (modCore 6 (fun k => { k with st := .exited }) (mailing .new { waiting := [⟨none, 1⟩] })))).cores[6].mbox[2]).granted =
      [⟨none, 1⟩, ⟨some 5, 2⟩] ∧
    (nextOf (exec (.mbxRetryTimer 5) (mailing .retry {}))).cores[5].sendBuf.map OutMsg.step = [.new] ∧
    grantedTo 5 6 2 (mailing .reserved { granted := [⟨some 5, 2⟩] }) < grantsTo 5 6 2 (mailing .reserved { granted := [⟨some 5, 2⟩] }) ∧
    (nextOf (exec (.mbxGrant 5) (mailing .reserved { granted := [⟨some 5, 2⟩] }))).cores[5].sendBuf.map OutMsg.step = [.granted] ∧
    ((nextOf (exec (.mbxData 5 false) (mailing .granted { granted := [⟨some 5, 2⟩] }))).cores[6].mbox[2]).msgs =
      [⟨0, List.replicate 72 1⟩] ∧
    (nextOf (exec (.mbxData 5 false) (mailing .granted { granted := [⟨some 5, 2⟩] }))).cores[5].sendBuf = [] ∧
    ((nextOf (exec (.mbxData 5 false) (modInst 0 (fun x => { x with gen := 1 }) (mailing .granted {})))).cores[6].mbox[2]).msgs = [] ∧
    (nextOf (exec (.mbxData 5 false) (modInst 0 (fun x => { x with gen := 1 }) (mailing .granted {})))).cores[6].msgDrop = 1 ∧
    (nextOf (exec (.mbxData 5 true) (mailing .granted {}))).cores[6].faultCause = 9 ∧
    ((nextOf (exec (.mbxData 5 true) (mailing .granted { msgs := [⟨0, []⟩] }))).cores[6].mbox[2]).ptrResets = 1 := by decide +kernel

/-- MailboxWatermarks: a mailbox that holds 2 words, closed by hw 2, let open by lw 2, and a write with lw not below hw. -/
theorem mailboxWatermarks : let s := mailing .new { msgs := [⟨0, List.replicate 72 1⟩] }
    let w := mailing .new { closed := true, msgs := [⟨0, List.replicate 72 1⟩], waiting := [⟨some 5, 1⟩, ⟨some 5, 1⟩] }
    ((nextOf (exec (.mbxCfgWrite 6 2 0x00020001) s)).cores[6].mbox[2]).closed = true ∧
    ((nextOf (exec (.mbxCfgWrite 6 2 0x00030002) w)).cores[6].mbox[2]).granted = [⟨some 5, 1⟩] ∧
    ((nextOf (exec (.mbxCfgWrite 6 2 0x00030002) w)).cores[6].mbox[2]).waiting = [⟨some 5, 1⟩] ∧
    ((nextOf (exec (.mbxCfgWrite 6 2 0x00030002) w)).cores[6].mbox[2]).closed = true ∧
    ((nextOf (exec (.mbxCfgWrite 6 2 0x00020002) s)).cores[6].mbox[2]).hw = 48 := by decide +kernel

/-- Core 6 holds these messages in mailbox 2, and queue 5 of die 0, in set 0, these entries. -/
def receiving (l : List MboxMsg) (q : List (List Byte)) (sealed : Bool) (a : Dword) : State :=
  modDie 0 (fun d => { d with sets := upd d.sets 0 fun x => { x with valid := true, owner := 0, isSealed := sealed }
                              queues := upd d.queues 5 fun _ => q })
    (pair id fun k => { regs a 0 0 0 k with mbox := upd k.mbox 2 fun b => { b with msgs := l } })

/-- ReceiveMessage: from a mailbox, from an empty one, to a bad destination, from a queue, an empty and a sealed one. -/
theorem receiveMessage : let s := receiving [⟨3, [7, 8]⟩] [[1, 2]] false 0x20000
    let e := receiving [] [] false 0x20000
    let z := receiving [] [] true 0x20000
    let w : RFmt := r 4 1 0 0 33
    let q : RFmt := r 4 1 0 0 (512 * 5 + 8 + 1)
    Executes 6 ng s ∧ NotLast 6 s ∧ NotPending s.cores[6] [4, 1] [] [1] ∧ Storable 0x20000 2 ∧ queueAssigned 6 0 5 s = true ∧
    queueAssigned 6 1 5 s = false ∧ NoRace none s.cores[6] ∧ CleanCore s.cores[6] ∧ s.fab.ingress = [] ∧ queueSealed 0 5 z = true ∧
    (nextOf (exec (.recv 6 ⟨w, none⟩) s)).cores[6].s[4] = 0x30002 ∧ (nextOf (exec (.recv 6 ⟨w, none⟩) s)).cores[6].mem = [(0x20000, 7), (0x20001, 8)] ∧
    (nextOf (exec (.recv 6 ⟨w, none⟩) s)).cores[6].p[1] = 0xFFFF ∧ (nextOf (exec (.recv 6 ⟨w, none⟩) e)).cores[6].stall = .recv w ∧
    (nextOf (exec (.recvnb 6 ⟨w, none⟩) e)).cores[6].pc = 8 ∧
    (nextOf (exec (.recv 6 ⟨w, none⟩) (receiving [⟨3, [7, 8]⟩] [] false 0x1FFFF))).cores[6].faultCause = 2 ∧
    (nextOf (exec (.recv 6 ⟨q, none⟩) s)).cores[6].s[4] = 0xFFFF0002 ∧ ((nextOf (exec (.recv 6 ⟨q, none⟩) s)).dies[0].queues[5]) = [] ∧
    (nextOf (exec (.recv 6 ⟨q, none⟩) e)).dies[0].pulls = [(5, 6)] ∧ (nextOf (exec (.recv 6 ⟨q, none⟩) z)).cores[6].s[4] = 0 ∧
    (nextOf (exec (.recv 6 ⟨q, none⟩) z)).cores[6].pc = 8 ∧
    (nextOf (exec (.recv 6 ⟨(r 4 1 0 0 (512 * 5 + 128 + 8 + 1)), none⟩) s)).cores[6].faultCause = 7 := by
  unfold Executes NotLast NotPending Storable NoRace CleanCore; decide +kernel

/-- RECV and RECVNB that meet an error of each kind, in a mailbox and in a queue. -/
theorem receiveMessage_errors : let s := receiving [⟨3, [7, 8]⟩] [[1, 2]] false 0x20000
    let w : RFmt := r 4 1 0 0 33
    let q : RFmt := r 4 1 0 0 (512 * 5 + 8 + 1)
    (nextOf (exec (.recv 6 ⟨w, some .corrected⟩) s)).cores[6].s[4] = 0x30002 ∧
    (nextOf (exec (.recv 6 ⟨w, some .corrected⟩) s)).dies[0].sramCe = 1 ∧
    (nextOf (exec (.recvnb 6 ⟨w, some .uncorrectable⟩) s)).cores[6].faultCause = 5 ∧
    ((nextOf (exec (.recvnb 6 ⟨w, some .uncorrectable⟩) s)).cores[6].mbox[2]).msgs = [⟨3, [7, 8]⟩] ∧
    (nextOf (exec (.recv 6 ⟨w, some .pointers⟩) s)).cores[6].faultCause = 9 ∧
    ((nextOf (exec (.recv 6 ⟨w, some .pointers⟩) s)).cores[6].mbox[2]).ptrResets = 1 ∧
    ((nextOf (exec (.recv 6 ⟨w, some .pointers⟩) s)).cores[6].mbox[2]).msgs = [] ∧
    (nextOf (exec (.recv 6 ⟨q, some .corrected⟩) s)).dies[0].sramCe = 1 ∧
    (nextOf (exec (.recv 6 ⟨q, some .uncorrectable⟩) s)).cores[6].faultCause = 5 := by decide +kernel

/-- TimeAndOrder: GETT when LOCKED, WAITT for a time that has come and one that has not, TCHK, FENCE, BAR of two cores. -/
theorem timeAndOrder : let s := { pair (fun k => regs 50 51 49 0 k) (fun k => { k with stall := .bar 2, arrived := 4 }) with
        eph := { now := 50, ticks := 50, st := .locked } }
    let late := modCore 5 (fun k => { k with ni := [{}] }) s
    Executes 5 ng s ∧ NotLast 5 s ∧ NotPending s.cores[5] [4, 1, 2, 3] [] [1] ∧ partOf 5 s = some 0 ∧
    LeaseOpen (sreg s.cores[5] 1) s.eph.now ∧ ¬ LeaseOpen (sreg s.cores[5] 3) s.eph.now ∧ queuesDone (31 : BitVec 5) s.cores[5] = true ∧
    queuesDone (1 : BitVec 5) late.cores[5] = false ∧
    (nextOf (exec (.gett 5 (r 4 0 0 0 1)) s)).cores[5].s[4] = 50 ∧ (nextOf (exec (.gett 5 (r 4 0 0 0 1)) s)).cores[5].p[1] = 0xFFFF ∧
    (nextOf (exec (.waitt 5 (r 0 1 0 0 1)) s)).cores[5].pc = 8 ∧ (nextOf (exec (.waitt 5 (r 0 2 0 0 1)) s)).cores[5].stall = .waitt 51 ∧
    (nextOf (exec (.tchk 5 (r 0 1 0 0 1)) s)).cores[5].p[1] = 0xFFFF ∧ (nextOf (exec (.tchk 5 (r 0 3 0 0 1)) s)).cores[5].p[1] = 0 ∧
    (nextOf (exec (.syncFence 5 (r 0 0 0 0 31)) s)).cores[5].pc = 8 ∧
    (nextOf (exec (.syncFence 5 (r 0 0 0 0 1)) late)).cores[5].stall = .fence 1 ∧
    (nextOf (exec (.bar 5 (r 0 0 0 0 1)) s)).cores[5].stall = .bar 1 ∧ (nextOf (exec (.bar 5 (r 0 0 0 0 2)) s)).cores[6].pc = 8 ∧
    (nextOf (exec (.bar 5 (r 0 0 0 0 2)) s)).cores[6].stall = .none ∧ (nextOf (exec (.bar 5 (r 0 0 0 0 2)) s)).cores[5].pc = 8 ∧
    (nextOf (exec (.bar 5 (r 0 0 0 0 2)) (run id))).cores[5].pc = 8 := by
  unfold Executes NotLast NotPending LeaseOpen; decide +kernel

/-- FENCE and EXIT close a coalescing WRITE, which leaves for its node. -/
theorem closesWrite : let s := routed (run fun k => { regs 0x123 0 0 0 k with coalesce := some ⟨7, 0x2000, [1, 2], 4⟩, ni := [{ parts := [(4, none)] }] })
    let f := nextOf (exec (.syncFence 5 (r 0 0 0 0 1)) s)
    let e := nextOf (exec (.exit 5 (r 0 1 0)) s)
    Executes 5 ng s ∧ RouteOpen 5 7 9 s ∧ f.cores[5].coalesce = none ∧ e.cores[5].coalesce = none ∧
    f.fab.reqs.map (fun q => (q.id, q.msg.type, q.msg.dst, q.msg.addr, q.msg.payload)) = [(4, 1, 7, 0x2000, [1, 2])] ∧
    e.fab.reqs.map (fun q => (q.id, q.msg.type)) = [(4, 1)] ∧ e.cores[5].stall = .exit 0x123 ∧ e.cores[5].last = some (stampNow s) := by
  unfold Executes RouteOpen; decide +kernel

/-! ### Programs -/

/-- A LAUNCH of partition 0 with an image of 16 bytes at 0x1000, entry 8, and 8 bytes of arguments at 0x1040. -/
def launching : State :=
  poke 0x1000 [1, 2, 3, 4, 5, 6, 7, 8, 9] (poke 0x1040 [0xAA] (mapped (withItems [item 0 1 [(24, 0x1000), (32, 16), (36, 8), (40, 0x1040), (48, 8),
    (52, 0)], item 1 1 [(52, 1)]] (modPart 0 (fun _ => { valid := true, owner := 0, gx0 := 5, gy0 := 0, width := 2, height := 1 }) up))))

theorem launchStarts : let x := item 0 1 [(24, 0x1000), (32, 16), (36, 8), (40, 0x1040), (48, 8), (52, 0)]
    live launching = true ∧ (dispatchPick 0 (launchFree launching) launching).map (fun e => e.1.id) = some 0 ∧ Fresh x launching ∧
    (readIva { inst := 0, src := 0, gen := 0 } 0x1000 16 launching).data = [1, 2, 3, 4, 5, 6, 7, 8, 9, 0, 0, 0, 0, 0, 0, 0] ∧
    (nextOf (exec (.launch 0) launching)).parts[0].item = some 0 ∧ (nextOf (exec (.launch 0) launching)).cores[6].st = .running ∧
    (nextOf (exec (.launch 0) launching)).cores[6].pc = 8 ∧ (nextOf (exec (.launch 0) launching)).cores[6].s[1] = 1 ∧
    (nextOf (exec (.launch 0) launching)).cores[6].s[2] = 0x1020001 ∧ (nextOf (exec (.launch 0) launching)).cores[6].s[4] = 8 ∧
    Memory.read 0 (nextOf (exec (.launch 0) launching)).cores[5].mem 7 3 = [8, 9, 0] ∧
    Memory.get 0 (nextOf (exec (.launch 0) launching)).cores[5].mem 0x20000 = 0xAA := by
  unfold Fresh; decide +kernel

/-- Without a valid partition a LAUNCH ends INVALID. -/
theorem launch_invalid : let s := withItems [item 0 1 [(52, 1)]] up
    (dispatchPick 0 (launchFree s) s).map (fun e => e.1.id) = some 0 ∧ dues (nextOf (exec (.launch 0) s)) = [(0x10, 0xFFFF00000000)] ∧ Fresh (item 0 1 [(52, 1)]) s := by
  unfold Fresh; decide +kernel

/-- A program runs on partition 0 for descriptor 0. -/
def program (s : State) : State := modPart 0 (fun p => { p with item := some 0 }) (withItems [item 0 1 [(52, 0)] .running] s)

/-- ProgramEnds: where EXIT ends the program, EXIT that waits, an exception, after which the partition may stop. -/
theorem programEnds : let s := program (run (regs 0x123 0 0 0))
    let t := nextOf (exec (.coreException 5 .unit true 0x77) s)
    Executes 5 ng s ∧ NotPending s.cores[5] [1] [] [] ∧ queuesDone 0 s.cores[5] = true ∧ coresOf 0 s = [5] ∧ partOf 5 s = some 0 ∧
    coreAt s.parts[0] 0 = 5 ∧ Fresh (item 0 1 [(52, 0)] .running) s ∧
    (nextOf (exec (.exit 5 (r 0 1 0)) (modCore 5 (fun k => { k with ni := [{}] }) s))).cores[5].stall = .exit 0x123 ∧
    t.cores[5].st = .faulted ∧ t.cores[5].faultCause = 10 ∧ t.parts[0].firstFault = some 5 ∧ t.parts[0].item = some 0 := by
  unfold Executes NotPending Fresh; decide +kernel

/-- ResultsArrive: a load's result, a remote load's answer sign left alone, WAITT, ctr_clear. -/
theorem resultsArrive : let s := run fun k => { k with ni := [{ sres := [(3, 9)] }, {}], pendS := 8, cnt := Vector.replicate 10 5 }
    let a := run fun k => { k with ni := [{ sres := [(3, 0)], parts := [(0, some [1, 2])], answered := .scalar false }], pendS := 8 }
    let w := run fun k => { k with stall := .waitt 0 }
    (nextOf (exec (.decoupledCompletion 5 .ni) s)).cores[5].s[3] = 9 ∧ (nextOf (exec (.decoupledCompletion 5 .ni) s)).cores[5].pendS = 0 ∧
    (nextOf (exec (.decoupledCompletion 5 .ni) s)).cores[5].ni.length = 1 ∧
    (nextOf (exec (.decoupledCompletion 5 .ni) a)).cores[5].s[3] = 0x201 ∧
    (nextOf (exec (.waittWake 5) w)).cores[5].pc = 8 ∧ (nextOf (exec (.ctrClear 5) s)).cores[5].cnt[7] = 0 := by decide +kernel

/-! ### The array and the sparse units -/

/-- A descriptor of a tensor in local memory: its base, its format and its dimensions (R230). -/
def tensor (base fmt : Nat) (dims : List (Nat × Nat)) : List Byte :=
  leBytes 8 base ++ [1, BitVec.ofNat 8 fmt, BitVec.ofNat 8 dims.length, 2] ++ List.replicate 20 0 ++
    dims.flatMap (fun d => leBytes 8 d.1 ++ leBytes 8 d.2) ++ List.replicate (96 - 16 * dims.length) 0

/-- Bytes in a core's memory. -/
def local' (l : List (Nat × List Byte)) : List Host.Cell := l.foldl (fun t e => Memory.write 0 t e.1 e.2) []

/-- A row 3 at K = 1 and a column of 4 and −2, INT8; slot 2 stands at W = 0 and two columns are in service. -/
def matrices : State :=
  run fun k => { regs 0x20000 0x20100 1 0 k with
    mem := local' [(0x20000, tensor 0x20400 0 [(1, 1), (1, 1)]), (0x20100, tensor 0x20480 0 [(1, 1), (2, 16)]), (0x20400, [3]),
                   (0x20480, [4]), (0x20490, [0xFE])]
    slots := upd k.slots 2 fun x => { x with wBase := 0 }, cols := 2 }

/-- The operands of `matrices`, as its descriptors give them. -/
def matA : Operand := ⟨tensorOf (tensor 0x20400 0 [(1, 1), (1, 1)]), true⟩
def matB : Operand := ⟨tensorOf (tensor 0x20480 0 [(1, 1), (2, 16)]), true⟩

theorem localTensors : LocalTensor matrices.cores[5] 0x20000 matA 0 1 16 ∧ LocalTensor matrices.cores[5] 0x20100 matB 0 1 16 := by
  unfold LocalTensor Storable
  refine ⟨⟨by decide +kernel, by decide +kernel, by decide +kernel, by decide +kernel, by decide +kernel, by decide +kernel, by decide +kernel, ?_⟩,
    ⟨by decide +kernel, by decide +kernel, by decide +kernel, by decide +kernel, by decide +kernel, by decide +kernel, by decide +kernel, ?_⟩⟩
  · intro r j _ h1 h2
    have e : matA.extR = 1 := by decide +kernel
    obtain rfl : r = 0 := by omega
    obtain rfl : j = 0 := by omega
    decide +kernel
  · intro r j _ h1 h2
    have e : matB.extR = 2 := by decide +kernel
    obtain rfl : j = 0 := by omega
    obtain rfl | rfl : r = 0 ∨ r = 1 := by omega
    · decide +kernel
    · decide +kernel

/-- MatrixProduct: one step of each of the groups of four rows. -/
theorem matrixProduct : let w : TFmt := { g := ng, acc := 2, a := 1, b := 2, c := 3, e := 0, x := 0 }
    let t := nextOf (exec (.mma 5 w none) matrices)
    Executes 5 ng matrices ∧ NotLast 5 matrices ∧ int8Product w 0 false false 0 ∧ NotPending matrices.cores[5] [1, 2, 3] [] [] ∧
    QueueRoom matrices.cores[5] .arr 1 ∧ NoRace (some .arr) matrices.cores[5] ∧ Memory.wf 0 matrices.cores[5].mem = true ∧ matrices.cores[5].slots[2].wBase = 0 ∧
    CleanCore matrices.cores[5] ∧ SlotsSettled matrices.cores[5] [2, 3] true ∧ t.cores[5].slots[2].run = 4 := by
  unfold Executes NotLast int8Product NotPending QueueRoom NoRace CleanCore SlotsSettled; decide +kernel

/-- A D tile of one INT8 element, 3, at 0x20000 with its body at 0x20200, and a column of 4 and −2. -/
def tiles : State :=
  run fun k => { regs 0x20000 0x20100 1 0 k with
    mem := local' [(0x20000, leBytes 6 0x20200 ++ [0, 0, 1, 0, 0, 0, 0, 0, 0, 0, 1, 0, 1, 1]), (0x20100, tensor 0x20480 0 [(1, 1), (2, 16)]),
                   (0x20200, [3]), (0x20480, [4]), (0x20490, [0xFE])]
    slots := upd k.slots 2 fun x => { x with wBase := 0 }, cols := 2 }

/-- SparseProduct: what the tile reads as, and the other premises. -/
theorem sparseProduct_tile : LocalTile tiles.cores[5] 0x20000
    { glob := false, body := 0x20200, fmt := 0, sfmt := 0, mask := false, trans := false, nnz := 1, bands := [0, 0, 0], lines := 1,
      rows := 1, cols := 1, rowBase := 0 } [(0, 0, 3)] := by
  unfold LocalTile Storable; decide +kernel

theorem sparseProduct : let w : TFmt := { g := ng, acc := 2, a := 1, b := 2, c := 3, e := 4, x := 0 }
    Executes 5 ng tiles ∧ NotLast 5 tiles ∧ int8Product w 0 false false 0 ∧ NotPending tiles.cores[5] [1, 2, 3, 4] [] [] ∧
    QueueRoom tiles.cores[5] .arr 1 ∧ NoRace (some .arr) tiles.cores[5] ∧ Memory.wf 0 tiles.cores[5].mem = true ∧ tiles.cores[5].slots[2].wBase = 0 ∧
    CleanCore tiles.cores[5] ∧ SlotsSettled tiles.cores[5] [2, 3] true ∧
    (nextOf (exec (.mmas 5 ⟨w, none⟩) tiles)).cores[5].arr.length = 1 := by
  unfold Executes NotLast int8Product NotPending QueueRoom NoRace CleanCore SlotsSettled; decide +kernel

/-- Entry 17 of slot 2, in the second column of the second row, is 5; register 1 names a tensor of this format at 0x20400. -/
def slotFive (fmt : Nat) : State :=
  run fun k => { regs 0x20000 0 0 0 k with
    mem := local' [(0x20000, tensor 0x20400 fmt [(16, 1), (16, 16)]), (0x1C0000 + 8192 + 272, [5])]
    slots := upd k.slots 2 fun x => { x with wBase := 0 }, cols := 2 }

/-- SlotInstructions: MCFG, DRAIN to L128 and to INT32, REDMAX. -/
theorem slotInstructions : let w (x : BitVec 23) : TFmt := { g := ng, acc := 2, a := 1, b := 0, c := 0, e := 0, x := x }
    let s := slotFive 13
    let z := slotFive 12
    let o := run fun k => { regs 0x20000 0 0 0 k with mem := local' [(0x1C0000 + 8192 + 272, [5])], cols := 2 }
    Executes 5 ng s ∧ NotLast 5 s ∧ NotPending s.cores[5] [1, 0] [] [] ∧ QueueRoom s.cores[5] .arr 1 ∧ Memory.wf 0 s.cores[5].mem = true ∧
    NoRace (some .arr) s.cores[5] ∧ NoRace (some .arr) o.cores[5] ∧ Memory.wf 0 z.cores[5].mem = true ∧ Memory.wf 0 o.cores[5].mem = true ∧ readSlot s.cores[5] 2 = 2 ∧
    tensorJudge (Memory.read 0 s.cores[5].mem 0x20000 128) false true drainFmts true = .ok (tensorOf (tensor 0x20400 13 [(16, 1), (16, 16)])) ∧
    tensorJudge (Memory.read 0 z.cores[5].mem 0x20000 128) false true drainFmts true = .ok (tensorOf (tensor 0x20400 12 [(16, 1), (16, 16)])) ∧
    (tensorOf (tensor 0x20400 13 [(16, 1), (16, 16)])).dims = [(16, 1), (16, 16)] ∧ Storable 0x20400 4096 ∧
    ((List.range 256).all fun i => slotWord o.cores[5] 2 i != 1#128 <<< 127) = true ∧
    CleanCore s.cores[5] ∧ SlotsSettled s.cores[5] [2, 3] true ∧ CleanCore o.cores[5] ∧ SlotsSettled o.cores[5] [2, 3] true ∧
    (nextOf (exec (.mcfg 5 (w 0)) s)).cores[5].slots[2].wBase = 0 ∧ isNext (exec (.drain 5 (w (13 * 2 ^ 19))) s) = true ∧
    isNext (exec (.drain 5 (w (12 * 2 ^ 19))) z) = true ∧
    Memory.read 0 (nextOf (exec (.redmax 5 (w 0)) o)).cores[5].mem 0x20000 18 = [5, 0, 0, 0, 0, 0, 0, 0, 0, 0, 0, 0, 0, 0, 0, 0, 17, 0] := by
  unfold Executes NotLast NotPending QueueRoom Storable NoRace CleanCore SlotsSettled; decide +kernel

/-- The image of slot 3 of a core as reset leaves it stands at 0x20000. -/
def imaged : State :=
  run fun k => { regs 0x20000 1 0 0 k with mem := local' [(0x20000, [1, 3, 1, 0]), (0x20040, [0xD0, 0xFF])] }

theorem contextImages_bytes : Memory.read 0 imaged.cores[5].mem 0x20000 5184 = imageBytes {} 3 1 false := by decide +kernel

/-- ContextImages: CTXSV and CTXLD of slot 3. -/
theorem contextImages : let w : MFmt := m 2 1 0 3
    Executes 5 ng imaged ∧ NotLast 5 imaged ∧ NotPending imaged.cores[5] [2, 1] [] [] ∧ QueueRoom imaged.cores[5] .arr 1 ∧
    Memory.wf 0 imaged.cores[5].mem = true ∧ NoRace (some .arr) imaged.cores[5] ∧ (address 5 w imaged).toNat = 0x20000 ∧ Storable 0x20000 5184 ∧
    CleanCore imaged.cores[5] ∧ SlotsSettled imaged.cores[5] [3] false ∧
    (nextOf (exec (.ctxsv 5 w) imaged)).cores[5].arr.length = 1 ∧ (nextOf (exec (.ctxld 5 w) imaged)).cores[5].slots[3].wBase = -48 := by
  unfold Executes NotLast NotPending QueueRoom Storable NoRace CleanCore SlotsSettled; decide +kernel

/-- HashAndIntersect: streams 1, 2, 5 and 2, 5 of 16 bits; 16 lanes with keys 0 and 1; a flush of one record; a clear. -/
theorem hashAndIntersect : let s := run fun k => { regs 0x20000 0x20020 0x0000000200000003 0 k with
        mem := local' [(0x20000, [1, 0, 2, 0, 5]), (0x20020, [2, 0, 5])], v := upd (upd k.v 1 fun _ => 1) 2 fun _ => 7 }
    let f := run fun k => { regs 0x20000 1 0 0 k with hacc := [⟨4, 6, 2⟩] }
    Executes 5 ng s ∧ NotLast 5 s ∧ NotPending s.cores[5] [1, 2, 3, 4] [1, 2] [] ∧ QueueRoom s.cores[5] .spx 1 ∧
    QueueRoom s.cores[5] .hac 1 ∧ NoRace (some .spx) s.cores[5] ∧ NoRace (some .hac) f.cores[5] ∧ (∀ e ∈ f.cores[5].spx, e.adds = []) ∧ CleanCore s.cores[5] ∧ CleanCore f.cores[5] ∧ (f.cores[5].hacc.map HaccEntry.key).Nodup ∧
    NotPending f.cores[5] [1, 2, 0, 4] [1, 2] [] ∧
    (nextOf (exec (.isect 5 (r 4 1 2 3 (2 * 2 ^ 25))) s)).cores[5].spx.map QEntry.sres = [[(4, 2)]] ∧
    isNext (exec (.hacc 5 (r 0 1 2)) s) = true ∧
    (nextOf (exec (.hclr 5 (r 0 0 0)) f)).cores[5].hacc = [] ∧ (nextOf (exec (.hflush 5 (r 4 1 2)) f)).cores[5].hacc = [] ∧
    (nextOf (exec (.hflush 5 (r 4 1 2)) f)).cores[5].hac.map QEntry.sres = [[(4, 1)]] ∧
    Memory.read 0 (nextOf (exec (.hflush 5 (r 4 1 2)) f)).cores[5].mem 0x20000 17 = [4, 0, 0, 0, 2, 0, 0, 0, 0, 0, 0, 0, 0, 0, 0, 0, 6] := by
  unfold Executes NotLast NotPending QueueRoom NoRace CleanCore; decide +kernel

/-- Slots 0 to 15 of core 5 at W = 0; entry (1, 1) is 300; and a work bin set of die 0 of partition 0 with this count and queue. -/
def compressing (n : BitVec 10) (q : List (List Byte)) (ps : List Post) : State :=
  modDie 0 (fun d => { d with sets := upd d.sets 0 fun x => { x with valid := true, owner := 0, sealCount := n }
                              queues := upd d.queues 5 fun _ => q })
    (pair (fun k => { regs 0x20040 0x20000 0 2 k with
      mem := local' [(0x1C0000 + 272, [44, 1])], slots := Vector.replicate 64 { wBase := 0 }, posts := ps }) id)

/-- CompressAndBins: the D tile, two seals, a post, and one to a full queue. -/
theorem compressAndBins : let s := compressing 0 [] []
    let w : TFmt := { g := ng, acc := 0, a := 1, b := 2, c := 3, e := 4, x := 0 }
    let z : TFmt := { g := ng, acc := 0, a := 0, b := 0, c := 0, e := 0, x := BitVec.ofNat 23 (2 ^ 15) }
    let post := compressing 0 [] [⟨0, 5, [7]⟩]
    let full := compressing 0 (List.replicate 1024 []) [⟨0, 5, [7]⟩]
    Executes 5 ng s ∧ NotLast 5 s ∧ NotPending s.cores[5] [1, 2, 3, 4] [] [] ∧ QueueRoom s.cores[5] .ocu 1 ∧
    Memory.wf 0 s.cores[5].mem = true ∧ NoRace (some .ocu) s.cores[5] ∧ Storable 0x20040 4096 ∧ Storable 0x20000 32 ∧
    partOf 5 s = some 0 ∧ live s = true ∧ s.inst[(coreInst 5 s).val].gen = s.cores[5].gen ∧
    (nextOf (exec (.cmpr 5 w) s)).cores[5].slots = s.cores[5].slots ∧
    ((nextOf (exec (.cmpr 5 z) s)).dies[0].sets[0]).sealCount = 1 ∧ ((nextOf (exec (.cmpr 5 z) s)).dies[0].sets[0]).isSealed = false ∧
    ((nextOf (exec (.cmpr 5 z) (compressing 1 [] []))).dies[0].sets[0]).isSealed = true ∧
    CleanCore s.cores[5] ∧ SlotsSettled s.cores[5] ((List.range 16).flatMap fun i => [i / 2 * 2, i / 2 * 2 + 1]) false ∧
    (∀ e ∈ s.cores[5].ocu, e.posts = 0) ∧ (nextOf (exec (.wbPost 5) (modInst 0 (fun x => { x with gen := 1 }) post))).mtu[0].suppressed = 1 ∧
    (nextOf (exec (.wbPost 5) post)).dies[0].queues[5] = [[7]] ∧ (nextOf (exec (.wbPostTimeout 5) full)).cores[5].spxReason = 9 := by
  unfold Executes NotLast NotPending QueueRoom Storable NoRace CleanCore SlotsSettled; decide +kernel

/-! ### Rings, descriptors, interrupts -/

/-- SQ 0 and CQ 0 of instance 0 are ACTIVE, with 64 entries each, and f and g change them. -/
def rings (f : Sq → Sq) (g : Cq → Cq) (s : State) : State :=
  modInst 0 (fun x => { x with st := .ready }) (modSq 0 0 (fun q => f { q with st := .active })
    (modCq 0 0 (fun q => g { q with st := .active }) s))

/-- Doorbells: taken, of another size, of a ring that is not ACTIVE, out of range. -/
theorem doorbells : let s := rings id (fun c => { c with unreleased := 3 }) up
    let err (t : State) : Bool × BitVec 6 := ((t.inst[0]).err.lastIsCq, (t.inst[0]).err.bits)
    live s = true ∧ ((nextOf (exec (.sqTailDoorbell 0 0 4 5) s)).inst[0].sq[0]).tail = 5 ∧
    err (nextOf (exec (.sqTailDoorbell 0 0 2 5) s)) = (false, 0x10) ∧ err (nextOf (exec (.sqTailDoorbell 0 1 4 5) s)) = (false, 8) ∧
    err (nextOf (exec (.sqTailDoorbell 0 0 4 64) s)) = (false, 4) ∧
    ((nextOf (exec (.sqTailDoorbell 0 0 4 64) s)).inst[0].sq[0]).st = .error ∧
    ((nextOf (exec (.cqHeadDoorbell 0 0 4 3) s)).inst[0].cq[0]).unreleased = 0 ∧
    err (nextOf (exec (.cqHeadDoorbell 0 0 8 3) s)) = (true, 0x10) ∧ err (nextOf (exec (.cqHeadDoorbell 0 1 4 3) s)) = (true, 8) ∧
    err (nextOf (exec (.cqHeadDoorbell 0 0 4 64) s)) = (true, 4) ∧
    ((nextOf (exec (.cqHeadDoorbell 0 0 4 4) s)).inst[0].cq[0]).st = .error := by decide +kernel

/-- RingStates: enables with a right and a wrong size, changes outside DISABLED, disables, a CQ that an SQ names, a drained SQ. -/
theorem ringStates : let s := rings (fun q => { q with tail := 9, epoch := 3 }) (fun c => { c with tail := 9 }) up
    let d := modSq 0 0 (fun q => { q with st := .draining }) s
    let o := modSq 0 0 (fun q => { q with st := .disabled }) s
    let sq (t : State) : Sq := t.inst[0].sq[0]
    let cq (n : Fin 16) (t : State) : Cq := t.inst[0].cq[n.val]
    (s.inst[0]).st = .ready ∧ (sq (nextOf (exec (.sqEnable 0 0 0x80012006) o))).st = .active ∧
    (sq (nextOf (exec (.sqEnable 0 0 0x80012006) o))).epoch = 4 ∧ (sq (nextOf (exec (.sqEnable 0 0 0x80012006) o))).tail = 0 ∧
    (sq (nextOf (exec (.sqEnable 0 0 0x80012006) o))).cq = 1 ∧
    (sq (nextOf (exec (.sqEnable 0 0 0x80000005) o))).st = .disabled ∧
    ((nextOf (exec (.sqEnable 0 0 0x80000011) o)).inst[0]).err.bits = 0x20 ∧
    ((nextOf (exec (.sqEnable 0 0 0x80000007) s)).inst[0]).err.bits = 0x20 ∧
    ((nextOf (exec (.sqDisable 0 0 7) s)).inst[0]).err.bits = 0x20 ∧ (sq (nextOf (exec (.sqDisable 0 0 6) s))).st = .draining ∧
    (cq 1 (nextOf (exec (.cqEnable 0 1 0x80108010) s))).st = .active ∧ (cq 1 (nextOf (exec (.cqEnable 0 1 0x80108010) s))).vector = 16 ∧
    ((nextOf (exec (.cqEnable 0 0 0x80000007) s)).inst[0]).err.bits = 0x20 ∧ (cq 0 (nextOf (exec (.cqDisable 0 0 6) o))).st = .disabled ∧
    ((nextOf (exec (.cqDisable 0 0 6) s)).inst[0]).err.bits = 0x20 ∧ (sq (nextOf (exec (.sqDrainDone 0 0) d))).st = .disabled := by decide +kernel

/-- The second GiB of instance 0 is host memory from 0, and SQ 0's ring and CQ 0's lie at 0x2000 of the first and at its start. -/
def hosted (f : Sq → Sq) (g : Cq → Cq) : State :=
  let s := mapped up
  rings (fun q => f { q with base := 0x2000, tail := 2 }) (fun c => g { c with base := 0x40000000 })
    { s with mem := { s.mem with dpa := [(0x40000000, 0x1F), (0x40000008, 0x5F)] }
             mtu := upd s.mtu 0 fun x => { x with cache := [(0, 0x1F), (512, 0x5F)] } }

/-- CompletionRecords: a NOP and an ill-formed descriptor are fetched, a fetch faults, the head is shadowed. -/
theorem completionRecords_fetch : let s := poke 0x2041 [1] (hosted (fun q => { q with shadow := 0x40000100, sinceShadow := 3, head := 1 }) id)
    let bad := poke 0x2040 [0xFF] s
    let miss := modSq 0 0 (fun q => { q with base := 0x80000000 }) s
    let f (s : State) : State := nextOf (exec (.descriptorFetch 0 0 1 .ok) s)
    live s = true ∧ (translate 0 .read 0x2040 s).1 = .ok (.dpa 0x2040) ∧ GoodLine s 0x2040 ∧ (translate 0 .read 0x2040 bad).1 = .ok (.dpa 0x2040) ∧
    descValid 0 (BitVec.ofNat 512 (leNat (Memory.read 0 s.mem.dpa 0x2040 64))) = true ∧ (f s).items.map Item.stage = [.ready] ∧
    ((f s).inst[0].sq[0]).head = 2 ∧ descValid 0 (BitVec.ofNat 512 (leNat (Memory.read 0 bad.mem.dpa 0x2040 64))) = false ∧
    (f bad).items.map (fun x => (x.stage, statusOf x.out)) = [(.ended, 0x10)] ∧ (translate 0 .read 0x80000040 miss).1 = .error 0 ∧
    (f miss).items = [] ∧ ((f miss).inst[0].sq[0]).st = .error ∧ dues (f miss) = [(0x11, 0)] ∧
    (translate 0 .write 0x40000100 s).1 = .ok (.host 0x100) ∧ (nextOf (exec (.headShadowWrite 0 0) s)).mem.host = [(0x100, 1)] := by
  unfold GoodLine; decide +kernel

/-- A record of descriptor 0. -/
def shedRecord : Rec :=
  { tag := 0x1234, status := 8, sq := 2, cond := 1, doneRts := 7, result := 9, opcode := 1, timeEpoch := 3, irqNow := false,
    item := some 0, sqHead := none }

/-- CompletionRecords: a due record is written at the ring's end, and is held where the ring is full. -/
theorem completionRecords_write : let e := shedRecord
    let s := withItems [item 0 1 [] .ended] (hosted id fun c => { c with due := [e], tail := 63, epoch := 5 })
    let full := modCq 0 0 (fun c => { c with unreleased := 64 }) s
    let t := nextOf (exec (.completionRecord 0 0) s)
    NoneWaits s ∧ (translate 0 .write (0x40000000 + 63 * 32) s).1 = .ok (.host 2016) ∧ findItem 0 t = none ∧
    (t.inst[0].cq[0]).tail = 0 ∧ (t.inst[0].cq[0]).phase = false ∧ (t.inst[0].cq[0]).unreleased = 1 ∧
    t.mem.host = [(2016, 0x34), (2017, 0x12), (2020, 8), (2021, 130), (2022, 1), (2024, 7), (2032, 9), (2044, 5), (2046, 1), (2047, 3)] ∧
    ((nextOf (exec (.completionRecord 0 0) full)).inst[0].cq[0]).held = [e] := by
  unfold NoneWaits; decide +kernel

/-- DescriptorsInTime: a NOP, a FENCE, a deadline, a release, aging. -/
theorem descriptorsInTime : let s := { withItems [item 0 0 [], item 1 9 [] .running, item 2 1 [(16, 5)], item 3 0 [(8, 60)] .waiting] up with
        eph := { up.eph with now := 50, ticks := 300000 } }
    let w := withItems [item 0 0 [(8, 6)] .waiting] s
    let l := item 0 0 [(2, 4), (16, 49)]
    let e := item 0 0 [(2, 4), (8, 50), (16, 50)]
    let n := withItems [item 0 0 []] s
    let f := withItems [item 1 9 [] .running] s
    Fresh (item 0 0 []) n ∧ Fresh (item 1 9 [] .running) f ∧ NoneWaits f ∧
    dues (nextOf (exec (.nop 0) n)) = [(0, 0)] ∧
    passed l.deadline s.eph.now = true ∧ shedAtDeadline l s = false ∧ dues (nextOf (exec (.nop 0) (withItems [l] s))) = [(1, 0)] ∧
    beforeRelease e = true ∧ shedAtDeadline e s = false ∧ dues (nextOf (exec (.nop 0) (withItems [e] s))) = [(1, 0)] ∧
    dues (nextOf (exec (.nop 0) (withItems [item 0 0 [(8, 50), (16, 50)]] s))) = [] ∧ releasePending s = false ∧
    releasePending w = true ∧ dues (nextOf (exec (.deadlineExpiry 2) { w with items := w.items ++ [item 2 1 [(16, 5)]] })) = [] ∧
    dues (nextOf (exec (.fence 1) f)) = [(0, 0)] ∧
    (s.inst[0]).shedMode = 1 ∧ dues (nextOf (exec (.deadlineExpiry 2) s)) = [(8, 0xFFFF00000000)] ∧ reached 6 w.eph.now = true ∧
    ((findItem 0 (nextOf (exec (.descriptorRelease 0) w))).map Item.stage) = some .ready ∧
    ((findItem 0 (nextOf (exec (.descriptorAged 0) s))).map Item.aged) = some true := by
  unfold Fresh NoneWaits; decide +kernel

/-- DescriptorsInTime: the timer of a CQ, a pending vector, the estimator's window, and pressure that ends. -/
theorem ringsInTime : let s := { modInst 0 (fun x => { x with shedPressure := true, pressure := true, est := upd x.est 0 fun e => { e with inWindow := 2, worked := true } })
        (rings id (fun c => { c with irqEn := true, unsignalled := 1, modTime := 3, vector := 4 }) up) with
      eph := { up.eph with ticks := 245760 }
      fns := upd up.fns 0 fun g => { g with msix := true, master := true, masked := 0x20, pendingBits := 0x20 } }
    live s = true ∧ usTicks 3 = 738 ∧ VectorOpen 0 4 s ∧ (nextOf (exec (.cqModTimer 0 0) s)).out = [.msix 0 4] ∧
    (nextOf (exec (.msixUnmask 0 5) s)).out = [.msix 0 5] ∧ ((nextOf (exec (.msixUnmask 0 5) s)).fns[0]).pendingBits = 0 ∧
    ((nextOf (exec .estimatorWindow s)).inst[0].est[0]).rate = 6400000 ∧ stepTo 0 51200000 = 6400000 ∧
    ((nextOf (exec (.pressureTimeout 0) s)).inst[0]).pressure = false := by
  unfold VectorOpen; decide +kernel

/-! ### Radio time -/

/-- Radio time as f changes it, on a device that has come up. -/
def clocked (f : Eph → Eph) : State := { up with eph := f up.eph }

/-- References: arming, the PLL, TREF_IN within and outside 20 ppm, its loss, the loss of PPS_IN, the end of HOLDOVER. -/
theorem references : let s := clocked fun e => { e with ticks := 500000000, pllLock := true, trefQual := true, ppsQual := true, st := .locked, lastEdge := some 0 }
    let h := clocked fun e => { e with st := .holdover, holdLimit := 1, holdTicks := 245760001 }
    live s = true ∧ (nextOf (exec .todArm s)).eph.todPending = true ∧ (nextOf (exec (.todCancel true) s)).eph.todPending = false ∧
    (nextOf (exec (.pllLock 50) up)).eph.pllLock = true ∧ (nextOf (exec (.pllLock (-51)) up)).eph.pllLock = false ∧
    (nextOf (exec (.trefQualify (-20)) s)).eph.trefEst = some (-20) ∧ (nextOf (exec (.trefQualify 21) s)).eph.trefEst = none ∧
    (nextOf (exec .trefLoss s)).eph.st = .holdover ∧ (nextOf (exec .trefLoss s)).eph.pllLock = false ∧
    (nextOf (exec .ppsLoss s)).eph.ppsQual = false ∧ (nextOf (exec .ppsLoss s)).eph.intStatus = 5 ∧
    (nextOf (exec .holdLimitExpiry h)).eph.st = .freeRun := by decide +kernel

/-- Ephemeris on its grid with this error in the time. -/
def onGrid (n : Nat) (f : Eph → Eph) : State :=
  clocked fun e => f { e with ppsQual := true, todValid := true, trefQual := true, measure := true, st := .holdover, now := rtsOfLin n, ticks := n }

theorem onGrid_errors : OnGrid (onGrid 3 id).eph ∧ GridError (onGrid 1 id).eph 1 ∧ GridError (onGrid 3 id).eph 3 ∧
    GridError (onGrid 1025 id).eph 1025 ∧ GridError (onGrid 61440000 id).eph 61440000 ∧ GridError (onGrid 245759999 id).eph (-1) := by
  unfold OnGrid GridError
  refine ⟨by decide +kernel, ?_, ?_, ?_, ?_, ?_⟩ <;> refine ⟨by decide, by decide, ?_⟩
  · exact ⟨0, by decide +kernel⟩
  · exact ⟨0, by decide +kernel⟩
  · exact ⟨0, by decide +kernel⟩
  · exact ⟨0, by decide +kernel⟩
  · exact ⟨1, by decide +kernel⟩

/-- The third good edge, with a load armed. -/
def loadEdge : State :=
  clocked fun e => { e with ticks := 245760000, lastEdge := some 0, goodRun := 2, todPending := true, trefQual := true, todNext := 0x700000000 }

/-- The third good edge without a load, three ticks off the grid, while TREF_IN is not qualified. -/
def slewEdge : State :=
  clocked fun e => { e with ticks := 245760000, lastEdge := some 0, goodRun := 2, todValid := true, now := rtsOfLin 3 }

theorem slewEdge_error : GridError slewEdge.eph 3 := ⟨by decide, by decide, 0, by decide +kernel⟩

/-- PpsEdges: the first, a good one, the third good one with an armed load, a bad one; on the grid, by the size of the error. -/
theorem ppsEdges : let s := clocked fun e => { e with ticks := 245760002, lastEdge := some 0, badCount := 9 }
    let load := loadEdge
    let bad := clocked fun e => { e with ticks := 245760003, lastEdge := some 0 }
    let e (s : State) : Eph := (nextOf (exec .ppsEdge s)).eph
    let e' (n r : Int) : Eph := (nextOf (exec (.phaseSlewDone r) (onGrid 5 fun e => { e with slewing := some n }))).eph
    ¬ OnGrid s.eph ∧ (e (clocked fun e => { e with ticks := 7 })).lastEdge = some 7 ∧ (e s).goodRun = 1 ∧ (e s).phaseErr = 2 ∧
    (e s).badCount = 0 ∧ (e load).ppsQual = true ∧ (e load).now = 0x700000000 ∧ (e load).timeEpoch = 1 ∧ (e load).st = .locked ∧
    (e slewEdge).ppsQual = true ∧ (e slewEdge).slewing = some 3 ∧ (e slewEdge).st = .freeRun ∧
    (e bad).goodRun = 0 ∧ (e bad).badCount = 1 ∧ (e bad).intStatus = 8 ∧
    (e (onGrid 3 fun e => { e with badCount := 2, st := .locked })).ppsQual = false ∧
    (e (onGrid 3 fun e => { e with badCount := 2, st := .locked })).st = .holdover ∧
    (e (onGrid 1 id)).st = .locked ∧ (e (onGrid 3 id)).slewing = some 3 ∧
    (e (onGrid 1025 fun e => { e with stepAllow := true })).now = 0 ∧ (e (onGrid 1025 fun e => { e with stepAllow := true })).st = .locked ∧
    (e (onGrid 1025 id)).stepRefused = true ∧ (e (onGrid 61440000 id)).st = .freeRun ∧
    (e' 1 1).now = 5 ∧ (e' 1 1).trim = 1 ∧ (e' 1 1).st = .locked ∧ (e' 1 1).slewing = none ∧ (e' 3 3).slewing = some 3 := by
  unfold OnGrid; decide +kernel

/-- Pin 2 with these actions of descriptor 0 waiting and held, at the time 50. -/
def pinned (q h : List EvtAction) (f : EvtPin → EvtPin) : State :=
  let s := withItems [item 0 8 [] .running] (clocked fun e => { e with now := 50, st := .locked })
  { s with evt := upd s.evt 2 fun p => f { p with enable := true, queue := q, held := h } }

/-- An action of descriptor 0. -/
def pulse (t : Rts) (k : EvtKind) : EvtAction := { rts := t, kind := k, item := 0, inst := 0, rose := 44 }

/-- TimedPins: in time, late under either policy, disabled, a pulse and its fall, the queue, EVTIN. -/
theorem timedPins : let pin (t : State) : EvtPin := t.evt[2]
    let go (s : State) : State := nextOf (exec (.evtAction 2) s)
    let q := pinned [pulse 50 .toggle] [] id
    let late := pinned [pulse 49 .high] [] id
    let fall := modItem 0 (fun x => { x with out := effect {} }) (pinned [pulse 50 .fall] [] fun p => { p with level := true })
    let held := pinned [] [pulse 60 .low] id
    let inp := { up with evtin := upd up.evtin 1 fun e => { e with edge := 1, fifo := [5] } }
    live q = true ∧ findItem 0 q = some (item 0 8 [] .running) ∧ ephAtLeast (pin q).minState q.eph.st = true ∧
    (pin (go q)).level = true ∧ dues (go q) = [(0, 50)] ∧ dues (go late) = [(8, 0)] ∧
    dues (go (pinned [pulse 49 .high] [] fun p => { p with latePolicy := false })) = [(1, 50)] ∧
    dues (go (pinned [pulse 50 .high] [] fun p => { p with enable := false })) = [(8, 0)] ∧
    (pin (go (pinned [pulse 50 (.pulse 8)] [] id))).queue.map (fun a => (a.kind, a.rts, a.rose)) = [(.fall, 58, 50)] ∧
    findItem 0 fall = some { item 0 8 [] .running with out := effect {} } ∧
    dues (nextOf (exec (.evtPulseFall 2) fall)) = [(0, 44)] ∧ (pin (nextOf (exec (.evtPulseFall 2) fall))).level = false ∧
    (pin (nextOf (exec (.evtEnqueue 2) held))).queue = [pulse 60 .low] ∧ bit held.inst[0].evtMask 2 = true ∧
    dues (nextOf (exec (.evtEnqueue 2) (modInst 0 (fun x => { x with evtMask := 0 }) held))) = [(16, 0)] ∧
    ((pin (nextOf (exec (.evtHeldExpiry 0) (pinned [] [pulse 49 .low] fun p => { p with latePolicy := false })))).held.map EvtAction.judged) = [true] ∧
    (pin (nextOf (exec (.evtHeldExpiry 0) (pinned [] [{ pulse 49 .low with judged := true }] id)))).held.length = 1 ∧
    dues (nextOf (exec (.evtHeldExpiry 0) (pinned [] [pulse 49 .low] id))) = [(8, 0)] ∧
    ((nextOf (exec (.evtinEdge 1 true) inp)).evtin[1]).fifo = [5, 0] ∧ ((nextOf (exec (.evtinTsRead 1) inp)).evtin[1]).fifo = [] ∧
    ((nextOf (exec (.evtinEdge 1 true) { inp with evtin := upd inp.evtin 1 fun e => { e with fifo := List.replicate 8 0 } })).evtin[1]).overflow =
      true := by decide +kernel

/-! ### Resets of instances, partitions, windows -/

/-- Instance 3 in this state, with the NOP 0 and the LAUNCH 1 on partition 0 in hand. -/
def resetCase (st : InstState) (draining : Bool) (f : Inst → Inst) : State :=
  let s := withItems [{ item 0 0 [] with inst := 3 }, { item 1 1 [] (if draining then .running else .ready) with inst := 3, draining := draining }] up
  modInst 3 (fun x => f { x with st := st, gen := 6 }) s

theorem instanceResets : let s := resetCase .ready false id
    let d := { modPart 0 (fun p => { p with owner := 3 }) (run id) with items := (resetCase .draining true id).items, inst := (resetCase .draining true id).inst }
    live s = true ∧ (s.inst[3]).st ≠ .off ∧ s.hub.stage0 = true ∧
    resetting 3 d = true ∧ partsOf 3 d = [0] ∧ (nextOf (exec (.resetHalt 3) d)).cores[5].st ≠ .running ∧
    isNext (exec (.resetObserve 3) d) = true ∧ itemClear { item 1 1 [] .running with inst := 3, draining := true } d = true ∧
    ((nextOf (exec (.resetDrainItemDone 3 1) d)).inst[3]).st = .zeroing ∧
    (((nextOf (exec (.resetDrainItemDone 3 1) d)).inst[3]).cq[0]).aborts.map Rec.status = [0x20] := by decide +kernel

theorem itemsWf_resets : (resetCase .ready false id).itemsWf := by unfold State.itemsWf; decide +kernel

/-- InstanceResets: escalation, the engine's own reset, zeroing, VF Enable. -/
theorem instanceResets_ends : let d := { resetCase .draining true id with eph := { up.eph with ticks := 400000 }, engReset := [.wk 2] }
    let z := resetCase .zeroing false fun x => { x with zeroList := [(0x1000, 4)] }
    let r := { resetCase .zeroing false fun x => { x with removing := true } with vfEnable := false }
    let v := { up with vfEnable := true, inst := (resetCase .ready false id).inst }
    usTicks 1000 = 245760 ∧ (drainItems 3 d).map Item.id = [1] ∧ ((nextOf (exec (.resetEscalate 3) d)).inst[3]).st = .zeroing ∧
    (nextOf (exec (.engineResetDone (.wk 2)) d)).engReset = [] ∧
    ((nextOf (exec (.engineResetTimeout (.wk 2)) d)).nuc.units[(unitWk 2).val]).fence = true ∧
    ((nextOf (exec (.resetZeroingDone 3) (poke 0x1002 [9] z))).inst[3]).resetDone = true ∧ (z.nuc.logs[0]).enable = false ∧
    (nextOf (exec (.resetZeroingDone 3) (poke 0x1002 [9] z))).mem.dpa = [] ∧
    ((nextOf (exec (.resetZeroingDone 3) r)).inst[3]).st = .off ∧
    v.hub.stage0 = true ∧ v.vfEnable = true ∧
    ((nextOf (exec (.vfEnableSet 2) up)).inst[2]).st = .ready ∧ ((nextOf (exec (.vfEnableSet 2) up)).inst[3]).st = .off := by decide +kernel

/-- PartitionsAndWindows: a commit, an overlapping one, one over a running core, an invalidation, window accesses. -/
theorem partitionsAndWindows : let s := mapped (run id)
    let hold (lo : Word) (s : State) : State := { s with hold := [(partKey 1, lo)] }
    let i := { s with invalJob := some (false, 0, 0x1234) }
    let w := poke 0x48 [7, 8] s
    live s = true ∧ ((nextOf (exec (.partitionCommit 1 0x80000000) (hold 0x8420 s))).parts[1]).gy0 = 1 ∧
    ((nextOf (exec (.partitionCommit 1 0x80000000) (hold 0x8420 s))).parts[1]).valid = true ∧
    (nextOf (exec (.partitionCommit 1 0x80000000) (hold 0x8405 s))).partOverlap = true ∧
    ((nextOf (exec (.partitionCommit 1 0x80000000) (hold 0x8405 s))).parts[1]).valid = false ∧
    (nextOf (exec (.partitionCommit 0 0) s)).partBusy = true ∧ ((nextOf (exec (.partitionCommit 0 0) s)).parts[0]).valid = true ∧
    (nextOf (exec (.mtuInvalGo 0x40000003) s)).invalJob = some (false, 3, 0) ∧ ((nextOf (exec .mtuInvalDone i)).mtu[0]).cache = [] ∧
    barInside 0 0x48 = true ∧ (s.inst[0]).st = .ready ∧ GoodLine w 0x48 ∧ (translate 0 .read 0x48 w).1 = .ok (.dpa 0x48) ∧
    (translate 0 .write 0x48 w).1 = .ok (.dpa 0x48) ∧ (nextOf (exec (.barWindowRead 0 0x48 2) w)).out = [.readData [7, 8] false] ∧
    Memory.get 0 (nextOf (exec (.barWindowWrite 0 0x49 [5]) w)).mem.dpa 0x49 = 5 ∧ (s.inst[3]).st = .off ∧ barInside 3 0x48 = true ∧
    (nextOf (exec (.barWindowRead 3 0x48 2) w)).out = [.readData [0, 0] false] := by
  unfold GoodLine; decide +kernel

/-! ### Descriptors that move bytes -/

/-- Device memory is in order and instance 0 maps its first 1 GiB to device memory, as `mapped` sets it up. -/
def Plain (s : State) : Prop :=
  s.mem.capacity = 0 ∧ s.mem.lp5xPresent = true ∧ s.mem.poisoned = [] ∧ s.mem.latent = [] ∧ s.mtu[(0 : InstId).val].enable = true ∧
    s.mtu[(0 : InstId).val].root = 0x40000000 ∧ cachedLeaves s.mtu[(0 : InstId).val] 0 = [0x1F] ∧
    leNat (Memory.read 0 s.mem.dpa 0x40000000 8) = 0x1F ∧ (∀ c : Fin 4, unitClosed (unitLp c) s = false) ∧
    ∀ e ∈ s.mem.dpa, e.1 < 0x40000008

theorem plain_region {s : State} (h : Plain s) {a : Nat} (ha : a < 30 * 2 ^ 30) : regionOf s a = .lp5x (Fin.ofNat 4 (a / 256)) := by
  have hc : lpCapacity s = 30 * 2 ^ 30 := by simp [lpCapacity, h.1]
  unfold regionOf
  rw [hc, if_pos ha, if_pos h.2.1]

theorem plain_good {s : State} (h : Plain s) {a : Nat} (ha : a < 30 * 2 ^ 30) : GoodLine s a := by
  refine ⟨.inl ⟨_, plain_region h ha⟩, ?_, by simp [h.2.2.1], by simp [h.2.2.2.1]⟩
  simp only [channelOut, plain_region h ha]
  exact h.2.2.2.2.2.2.2.2.1 _

theorem plain_table {s : State} (h : Plain s) {a : Nat} (ha : a < 30 * 2 ^ 30) :
    tableRead s a = .ok (BitVec.ofNat 64 (leNat (Memory.read 0 s.mem.dpa a 8))) := by
  simp [tableRead, plain_region h ha, (plain_good h ha).2.1, lineBad, linePoisoned, h.2.2.1, h.2.2.2.1]

theorem plain_translate {s : State} (h : Plain s) (acc : Access) {a : Nat} (ha : a < 2 ^ 21) : translate 0 acc a s = (.ok (.dpa a), s) := by
  obtain ⟨-, -, -, -, he, hr, hc, hl, -, -⟩ := id h
  have hp : a / 2 ^ 21 = 0 := by omega
  have ht : tableRead s 0x40000000 = .ok 0x1F := by
    rw [plain_table h (by omega), hl]
    rfl
  have hw : walk s.mtu[(0 : InstId).val] s a = .ok 0x1F := by
    have e : bits s.mtu[(0 : InstId).val].root 63 12 * 4096 + a / 2 ^ 30 * 8 = 0x40000000 := by
      rw [hr, show a / 2 ^ 30 = 0 by omega]
      decide
    have z : a % 2 ^ 30 / 2 ^ 21 = 0 := by omega
    unfold walk
    rw [e, ht]
    dsimp only
    rw [z, if_pos (by decide), if_pos (by decide)]
    rfl
  have hf : leafFor 0 a s = (.ok 0x1F, s) := by
    unfold leafFor
    dsimp only
    rw [hp, hc, hw]
    rfl
  have hx : permits 0x1F acc = true := by cases acc <;> decide
  have hg : leafTarget 0x1F a = .dpa a := by
    have : bits (0x1F : Dword) 51 21 * 2 ^ 21 + a % 2 ^ 21 = a := by
      rw [show bits (0x1F : Dword) 51 21 = 0 by decide]
      omega
    unfold leafTarget
    dsimp only
    rw [this, if_pos (by decide)]
  have hn : regionOf s a ≠ .hole := by
    rw [plain_region h (by omega)]
    simp
  unfold Machine.translate
  rw [if_neg (show ¬ 2 ^ 40 ≤ a by omega), he, hf]
  dsimp only
  rw [hx, hg]
  dsimp only
  rw [if_neg hn]
  rfl

theorem plain_maps {s : State} (h : Plain s) (acc : Access) {a n : Nat} (ha : a + n ≤ 2 ^ 21) : MapsRange 0 acc a n a s := by
  intro j hj
  exact ⟨plain_translate h acc (by omega), plain_good h (by omega)⟩

theorem get_above (m : Memory) (a : Nat) (h : ∀ e ∈ m, e.1 < a) : Memory.get 0 m a = 0 := by
  induction m with
  | nil => rfl
  | cons e t ih =>
    have := h e (by simp)
    have n1 : ¬ a = e.1 := by omega
    have n2 : ¬ a < e.1 := by omega
    simp only [Memory.get, n1, n2, if_false]
    exact ih fun x hx => h x (by simp [hx])

theorem zero_read (m : Memory) (n a : Nat) (h : ∀ i, Memory.get 0 m (a + i) = 0) : leNat (Memory.read 0 m a n) = 0 := by
  induction n generalizing a with
  | zero => rfl
  | succ n ih =>
    have h0 := h 0
    have hs : leNat (Memory.read 0 m (a + 1) n) = 0 := ih (a + 1) fun i => by rw [Nat.add_assoc]; exact h (1 + i)
    simp only [Memory.read, leNat, hs]
    rw [Nat.add_zero] at h0
    rw [h0]
    rfl

theorem plain_clear {s : State} (h : Plain s) {p n : Nat} (hp : p + n ≤ 0x40000000) : TablesClear 0 p n s := by
  intro a e he
  obtain ⟨-, -, -, -, -, hr, -, hl, -, hk⟩ := id h
  have e0 : bits s.mtu[(0 : InstId).val].root 63 12 * 4096 = 0x40000000 := by rw [hr]; decide
  simp only [tableEntries, e0] at he
  split at he
  · simp only [List.mem_singleton] at he
    omega
  · rename_i x hx
    split at he
    · rename_i hb
      exfalso
      obtain hz | hz := Nat.eq_zero_or_pos (a / 2 ^ 30)
      · rw [hz, plain_table h (by omega), hl] at hx
        obtain rfl := Except.ok.inj hx
        revert hb
        decide
      · have z (i : Nat) : Memory.get 0 s.mem.dpa (0x40000000 + a / 2 ^ 30 * 8 + i) = 0 :=
          get_above _ _ fun e he => Nat.lt_of_lt_of_le (hk e he) (by omega)
        have zz : leNat (Memory.read 0 s.mem.dpa (0x40000000 + a / 2 ^ 30 * 8) 8) = 0 := by
          exact zero_read _ 8 _ z
        unfold tableRead at hx
        rw [zz] at hx
        split at hx
        · cases hx
        · obtain rfl := Except.ok.inj hx
          revert hb
          split <;> decide
        · split at hx
          · cases hx
          · obtain rfl := Except.ok.inj hx
            revert hb
            decide
    · simp only [List.mem_singleton] at he
      omega

theorem read_append (m : Memory) (a n k : Nat) : Memory.read 0 m a (n + k) = Memory.read 0 m a n ++ Memory.read 0 m (a + n) k := by
  induction n generalizing a with
  | zero => simp [Memory.read]
  | succ n ih => rw [show n + 1 + k = (n + k) + 1 by omega, Memory.read, Memory.read, ih, show a + 1 + n = a + (n + 1) by omega]; rfl

theorem plain_chunks {s : State} (h : Plain s) (f : Nat) (a len : Nat) (d : List Byte) (ha : a + len ≤ 2 ^ 21)
    (hf' : len + a % 64 ≤ 64 * f) : readChunks { inst := 0, src := 0, gen := s.inst[(0 : InstId).val].gen } (chunksAux f a len) ⟨none, d, false, s⟩ =
      ⟨none, d ++ Memory.read 0 s.mem.dpa a len, false, s⟩ := by
  induction f generalizing a len d with
  | zero =>
    obtain rfl : len = 0 := by omega
    simp [chunksAux, readChunks, Memory.read]
  | succ f ih =>
    unfold chunksAux
    split
    · subst len
      simp [readChunks, Memory.read]
    · rename_i hn
      have hs : min len (64 - a % 64) ≤ len := Nat.min_le_left _ _
      have hx : findErrors a s = s := by simp [findErrors, badLines, fixLine, h.2.2.2.1]
      have hr : readLine { inst := 0, src := 0, gen := s.inst[(0 : InstId).val].gen } .read a (min len (64 - a % 64)) s =
          ⟨none, Memory.read 0 s.mem.dpa a (min len (64 - a % 64)), false, s⟩ := by
        simp [readLine, current, plain_translate h .read (show a < 2 ^ 21 by omega), readTarget, plain_region h (show a < 30 * 2 ^ 30 by omega),
          (plain_good h (show a < 30 * 2 ^ 30 by omega)).2.1, hx, linePoisoned, h.2.2.1]
      simp only [readChunks, hr, Bool.or_false]
      by_cases hl : len ≤ 64 - a % 64
      · have e : min len (64 - a % 64) = len := Nat.min_eq_left hl
        rw [e, Nat.sub_self]
        cases f <;> simp [chunksAux, readChunks]
      · have e : min len (64 - a % 64) = 64 - a % 64 := Nat.min_eq_right (by omega)
        rw [e, ih (a + (64 - a % 64)) (len - (64 - a % 64)) (d ++ Memory.read 0 s.mem.dpa a (64 - a % 64)) (by omega) (by omega),
          List.append_assoc, ← read_append, show 64 - a % 64 + (len - (64 - a % 64)) = len by omega]

theorem plain_reads {s : State} (h : Plain s) {a n : Nat} (ha : a + n ≤ 2 ^ 21) : ReadsAs 0 a n s (Memory.read 0 s.mem.dpa a n) := by
  unfold ReadsAs readIva chunks
  rw [plain_chunks h (n / 64 + 2) a n [] ha (by omega)]
  rfl

theorem plain_reads_as {s : State} (h : Plain s) {a n : Nat} (ha : a + n ≤ 2 ^ 21) {d : List Byte} (e : Memory.read 0 s.mem.dpa a n = d) :
    ReadsAs 0 a n s d := e ▸ plain_reads h ha

/-- The copy of two bytes from 0x1000 to 0x2000, the fill of two with 7, and the gather of the two entries listed at 0x3000. -/
def copyItem : Item := item 0 2 [(24, 0x1000), (32, 0x2000), (40, 2), (44, 3)]
def fillItem : Item := item 0 2 [(32, 0x2000), (40, 2), (44, 3), (45, 1), (46, 7)]
def gatherItem : Item := item 0 3 [(24, 0x3000), (32, 0x2000), (40, 2), (44, 3)]

/-- One of them waits on an idle device. -/
def moving (x : Item) : State :=
  poke 0x3000 [0, 16, 0, 0, 0, 0, 0, 0, 1] (poke 0x3010 [1, 16, 0, 0, 0, 0, 0, 0, 1] (poke 0x1000 [5, 6]
    (mapped (withItems [x] (modInst 0 (fun i => { i with dmaMask := 8 }) up)))))

theorem plain_copy : Plain (moving copyItem) := by unfold Plain; decide +kernel
theorem plain_fill : Plain (moving fillItem) := by unfold Plain; decide +kernel
theorem plain_gather : Plain (moving gatherItem) := by unfold Plain; decide +kernel

/-- DmaAndEvents: the premises of the copy and the fill. -/
theorem dma_copies : DmaStarts 0 2 copyItem 3 (moving copyItem) ∧ DmaStarts 0 2 fillItem 3 (moving fillItem) ∧
    Memory.wf 0 (moving copyItem).mem.dpa = true ∧ sharesByte 0 0x1000 2 0x2000 2 (moving copyItem) = false ∧
    MapsRange 0 .read 0x1000 2 0x1000 (moving copyItem) ∧ MapsRange 0 .write 0x2000 2 0x2000 (moving copyItem) ∧
    TablesClear 0 0x2000 2 (moving copyItem) ∧ MapsRange 0 .write 0x2000 2 0x2000 (moving fillItem) ∧
    TablesClear 0 0x2000 2 (moving fillItem) := by
  refine ⟨?_, ?_, by decide +kernel, by decide +kernel, plain_maps plain_copy _ (by omega), plain_maps plain_copy _ (by omega),
    plain_clear plain_copy (by omega), plain_maps plain_fill _ (by omega), plain_clear plain_fill (by omega)⟩
  · unfold DmaStarts StartsNext Fresh Calm; decide +kernel
  · unfold DmaStarts StartsNext Fresh Calm; decide +kernel

theorem dma_moves : dues (nextOf (exec (.dmaCopy 0 3 none) (moving copyItem))) = [(0, 2)] ∧
    Memory.read 0 (nextOf (exec (.dmaCopy 0 3 none) (moving copyItem))).mem.dpa 0x2000 3 = [5, 6, 0] ∧
    Memory.read 0 (nextOf (exec (.dmaCopy 0 3 none) (moving fillItem))).mem.dpa 0x2000 3 = [7, 7, 0] := by decide +kernel

/-- DmaAndEvents: the premises of the gather, and what it writes. -/
theorem dma_gather : DmaStarts 0 3 gatherItem 3 (moving gatherItem) ∧ ReadsAs 0 0x3000 32 (moving gatherItem)
      (Memory.read 0 (moving gatherItem).mem.dpa 0x3000 32) ∧
    gatherEntries 2 (Memory.read 0 (moving gatherItem).mem.dpa 0x3000 32) = [(0x1000, 1, true), (0x1001, 1, true)] ∧
    MapsRange 0 .write 0x2000 2 0x2000 (moving gatherItem) ∧ TablesClear 0 0x2000 2 (moving gatherItem) ∧
    MapsRange 0 .read 0x1001 1 0x1001 (moving gatherItem) ∧ sharesByte 0 0x1001 1 0x2000 2 (moving gatherItem) = false ∧
    dues (nextOf (exec (.dmaGather 0 3 none) (moving gatherItem))) = [(0, 0x200000002)] := by
  refine ⟨?_, plain_reads plain_gather (by omega), by decide +kernel, plain_maps plain_gather _ (by omega), plain_clear plain_gather (by omega),
    plain_maps plain_gather _ (by omega), by decide +kernel, by decide +kernel⟩
  unfold DmaStarts StartsNext Fresh Calm; decide +kernel

/-- DmaAndEvents: an EVENT for pin 2 at the time 60, granted and not. -/
theorem events : let x := item 0 8 [(24, 60), (32, 2)]
    let s := withItems [x] (modInst 0 (fun i => { i with evtMask := 4 }) up)
    let n := withItems [x] (modInst 0 (fun i => { i with evtMask := 1 }) up)
    live s = true ∧ Calm 0 s ∧ Fresh x n ∧ evtPinOf x = 2 ∧ ((nextOf (exec (.event 0) s)).evt[2]).queue = [evtActionOf x] ∧
    (evtActionOf x).rts = 60 ∧ dues (nextOf (exec (.event 0) n)) = [(0x10, 0)] := by
  unfold Calm Fresh; decide +kernel

/-- DmaAndEvents: with 16 actions in the queue of the pin, or one held, an EVENT stays ready and its action is held. -/
theorem events_held : let x := item 0 8 [(24, 60), (32, 2)]
    let s := withItems [x] up
    let f : State := { s with evt := upd s.evt 2 fun p => { p with queue := List.replicate 16 (pulse 9 .high) } }
    let h : State := { s with evt := upd s.evt 2 fun p => { p with held := [{ pulse 9 .high with item := 7 }] } }
    Calm 0 f ∧ ((nextOf (exec (.event 0) f)).evt[2]).held = [evtActionOf x] ∧ (nextOf (exec (.event 0) f)).items = [x] ∧
    ((nextOf (exec (.event 0) h)).evt[2]).held.map EvtAction.item = [7, 0] := by
  unfold Calm; decide +kernel

/-- SlotAdds: LADDT of slot 3 to 4,096 bytes of device memory at 0x4000. -/
def adding : State := mapped (run fun k => { regs 0x4000 0 0 0 k with mem := [(0x1C3000, 9)] })

theorem plain_adding : Plain adding := by unfold Plain; decide +kernel

theorem slotAdds_global : Executes 5 ng adding ∧ MapsRange 0 .atomic 0x4000 4096 0x4000 adding ∧ TablesClear 0 0x4000 4096 adding := by
  refine ⟨by unfold Executes; decide +kernel, plain_maps plain_adding _ (by decide), plain_clear plain_adding (by decide)⟩

/-! ### Search -/

/-- A search for one vector, (3, 0, …), in an index of four nodes of 8 INT8 elements, of which node 2 is its one entry. -/
def searchItem (st : Stage) : Item := item 0 4 [(24, 0x1080), (32, 0x1000), (40, 0x3000), (48, 1), (52, 1)] st

/-- A delete of node 2, listed at 0x1100, from the index at 0x2000. -/
def updateItem : Item := item 0 5 [(24, 0x1100), (32, 0x2000), (40, 1), (44, 1)]

/-- Its parameter block is at 0x1080, its index block at 0x2000, the query at 0x1000. -/
def searching (x : Item) (l : List SearchWork) (ms : List Merge) (mask : BitVec 16) : State :=
  let s := poke 0x1000 [3] (poke 0x1080 (leBytes 8 0x2000 ++ [1, 0, 1, 0, 1]) (poke 0x2000 ([1, 0, 8, 0, 8, 0, 1, 0, 4, 0, 0, 0, 0, 0, 0, 0, 3] ++
    List.replicate 7 0 ++ [0, 0x40, 0, 0, 0, 0, 0, 0, 0, 0x50, 0, 0, 0, 0, 0, 0, 0, 0x60, 0, 0, 0, 0, 0, 0, 0, 0x80] ++ List.replicate 15 0 ++ [0x70])
    (poke 0x4020 [1] (poke 0x5008 [255, 255, 255, 255] (poke 0x7000 [2] (poke 0x1100 [2] (mapped (withItems [x]
      (modInst 0 (fun i => { i with wkMask := mask }) up)))))))))
  { s with searches := l, fab := { s.fab with merges := ms } }

def ready : State := searching (searchItem .ready) [] [] 1
def params : List Byte := Memory.read 0 ready.mem.dpa 0x1080 64
def index : List Byte := Memory.read 0 ready.mem.dpa 0x2000 256

theorem plain_ready : Plain ready := by unfold Plain; decide +kernel

/-- Searches: the premises of SEARCH, which starts, and of one that no walker serves. -/
theorem search_starts : let n := searching (searchItem .ready) [] [] 0
    live ready = true ∧ StartsNext 0 4 2 (walkOk ready) (searchItem .ready) ready ∧
    searchOk params index 0x1000 0x3000 1 false = true ∧ wkServes (paramsOf params).wkSel 0 0 ready = true ∧
    (nextOf (exec (.search 0) ready)).searches = [{ item := 0, next := 0, done := 0, params := params }] ∧
    StartsNext 0 4 2 (walkOk n) (searchItem .ready) n ∧ Fresh (searchItem .ready) n ∧ dues (nextOf (exec (.search 0) n)) = [(0x10, 0)] := by
  unfold StartsNext Fresh Calm; decide +kernel

theorem search_blocks : SearchBlocks (searchItem .ready) params index ready := by
  refine ⟨by decide +kernel, plain_reads plain_ready (by decide), ?_, ⟨_, plain_translate plain_ready _ (by decide)⟩,
    ⟨_, plain_translate plain_ready _ (by decide)⟩, ⟨_, plain_translate plain_ready _ (by decide)⟩⟩
  rw [show (paramsOf params).index = 0x2000 by decide +kernel]
  exact plain_reads plain_ready (by decide)

/-- The same search as it runs, its query not started or with a root context of which a shard is missing. -/
def work (done : Nat) : SearchWork := { item := 0, next := done, done := done, params := params }
def running : State := searching (searchItem .running) [work 0] [] 1
def root : Merge :=
  { src := 1, req := 9, up := none, root := some (0, 0), group := 5, k := 1, branches := 2, answered := 1, ans := { shardsAns := 1 }
    shardsExp := 2, openedAt := 3, wait := 5 }

theorem plain_running : Plain running := by unfold Plain; decide +kernel

theorem query_start : findItem 0 running = some (searchItem .running) ∧ Fresh (searchItem .running) running ∧ Calm 0 running ∧
    workOf 0 running = some (work 0) ∧ engUp (.wk 0) running = true ∧ wkServes (paramsOf params).wkSel 0 0 running = true ∧
    (indexOf index).vs = 64 ∧ (paramsOf params).nEntry = 1 ∧ (running.wks[0]).queries = [] ∧ running.fab.queries = [] ∧
    Memory.wf 0 running.mem.dpa = true ∧ isNext (exec (.searchQueryStart 0 0 none) running) = true := by
  unfold Fresh Calm; decide +kernel

theorem query_blocks : ReadsAs 0 0x1000 64 running (Memory.read 0 running.mem.dpa 0x1000 64) ∧
    MapsRange 0 .write 0x3000 64 0x3000 running ∧ TablesClear 0 0x3000 64 running :=
  ⟨plain_reads plain_running (by decide), plain_maps plain_running _ (by decide), plain_clear plain_running (by decide)⟩

theorem query_node : OneNode 0 (indexOf index) 2 (Memory.read 0 running.mem.dpa 0x8000 32768) (List.replicate 8 0) running := by
  have e : indexOf index = { metric := 0, M := 8, vfmt := 0, dim := 8, R := 1, tshift := 0, capacity := 4, shard := 0, backEdges := false
                             vectors := false, curGen := 3, nodeBase := 0x4000, nbrBase := 0x5000, codeBase := 0x6000, bookBase := 0x8000
                             vecBase := 0, entryBase := 0x7000, sketchBase := 0, htuMatrix := 0, nSketch := 0 } := by decide +kernel
  rw [e]
  refine ⟨by decide, plain_reads plain_running (by decide), plain_reads_as plain_running (by decide) (by decide +kernel),
    ⟨1 :: List.replicate 15 0, plain_reads_as plain_running (by decide) (by decide +kernel), by decide, by decide, by decide, by decide⟩,
    plain_reads_as plain_running (by decide) (by decide +kernel), by decide, plain_reads_as plain_running (by decide) (by decide +kernel)⟩

/-- Searches: a root context with a shard missing, at its stop time in recall mode, and at its time limit. -/
theorem query_contexts : let x := item 0 4 [(16, 7), (24, 0x1080), (32, 0x1000), (40, 0x3000), (48, 2), (52, 1), (54, 1)] .running
    let q := searching x [work 0] [root] 1
    let s : State := { q with eph := { q.eph with now := 7, ticks := 8 } }
    let f : Fab := { s.fab with node := 1, merges := [{ root with root := none, up := some 2 }], ports := Vector.replicate 8 { mode := 1, peerReady := true } }
    let u : State := { s with fab := { f with lanes := upd f.lanes 8 fun l => { l with up := true, selectable := true, peerTrained := true } } }
    findItem 0 s = some x ∧ Calm 0 s ∧ workOf 0 s = some (work 0) ∧ rootOf 0 0 s = some root ∧ (∀ m ∈ s.fab.merges, m.root = some (0, 0) → m = root) ∧
    x.deadline = 7 ∧ mergeOf 1 9 s = some root ∧ (paramsOf params).stopped x.deadline root.openedAt s = true ∧
    (paramsOf params).stopped x.deadline root.openedAt q = false ∧ portInService 2 u = true ∧ (mergeOf 1 9 u).isSome = true ∧
    mergeOf 1 9 (nextOf (exec (.mergeTimeout 1 9) u)) = none ∧
    (((nextOf (exec (.mergeTimeout 1 9) u)).out.any fun o => match o with
      | .message p _ m => p = 2 && m.type = 0x28 && m.dst = 1
      | _ => false) = true) ∧
    (nextOf (exec (.mergeTimeout 1 9) { s with eph := { s.eph with ticks := 7 } })).fab.merges = [root] ∧
    (nextOf (exec (.queryStopTime 0 0) s)).fab.merges = [] ∧ (nextOf (exec (.mergeTimeout 1 9) s)).fab.merges = [] ∧
    Memory.get 0 (nextOf (exec (.queryStopTime 0 0) s)).mem.dpa 0x3003 = 18 := by
  unfold Calm; decide +kernel

/-- Searches: the delete of node 2, and a walker's counters. -/
def updating : State := searching updateItem [] [] 1

theorem plain_updating : Plain updating := by unfold Plain; decide +kernel

theorem index_update : StartsNext 0 5 2 (walkOk updating) updateItem updating ∧ Fresh updateItem updating ∧
    wkServes 0 0 0 updating = true ∧ engUp (.wk 0) updating = true ∧ indexOk 0x2000 (Memory.read 0 updating.mem.dpa 0x2000 256) = true ∧
    (indexOf (Memory.read 0 updating.mem.dpa 0x2000 256)).curGen = 3 ∧
    imf (Memory.read 0 updating.mem.dpa 0x1100 32) 0 4 = 2 ∧ imf (Memory.read 0 updating.mem.dpa 0x4020 16) 0 4 = 1 ∧
    dues (nextOf (exec (.indexUpdate 0 0) updating)) = [(0, 1)] ∧
    Memory.read 0 (nextOf (exec (.indexUpdate 0 0) updating)).mem.dpa 0x4020 8 = [1, 0, 0, 0, 4, 0, 0, 0] ∧
    Memory.get 0 (nextOf (exec (.indexUpdate 0 0) updating)).mem.dpa 0x2010 = 4 := by
  unfold StartsNext Fresh Calm; decide +kernel

theorem index_blocks : ReadsAs 0 0x2000 256 updating (Memory.read 0 updating.mem.dpa 0x2000 256) ∧
    ReadsAs 0 0x1100 32 updating (Memory.read 0 updating.mem.dpa 0x1100 32) ∧
    ReadsAs 0 0x4020 16 updating (Memory.read 0 updating.mem.dpa 0x4020 16) ∧ MapsRange 0 .write 0x1100 32 0x1100 updating ∧
    MapsRange 0 .write 0x4020 16 0x4020 updating ∧ MapsRange 0 .write 0x2000 256 0x2000 updating ∧ TablesClear 0 0x1100 32 updating ∧
    TablesClear 0 0x4020 16 updating ∧ TablesClear 0 0x2000 256 updating ∧ translate 0 .read 0x1100 updating = (.ok (.dpa 0x1100), updating) ∧
    translate 0 .read 0x2000 updating = (.ok (.dpa 0x2000), updating) :=
  ⟨plain_reads plain_updating (by decide), plain_reads plain_updating (by decide), plain_reads plain_updating (by decide),
    plain_maps plain_updating _ (by decide), plain_maps plain_updating _ (by decide), plain_maps plain_updating _ (by decide),
    plain_clear plain_updating (by decide), plain_clear plain_updating (by decide), plain_clear plain_updating (by decide),
    plain_translate plain_updating _ (by decide), plain_translate plain_updating _ (by decide)⟩

theorem walker_counters : ((nextOf (exec (.wkCtrClear 3) (modWk 3 (fun y => { y with cnt := Vector.replicate 9 7 }) up))).wks[3]).cnt =
    Vector.replicate 9 0 := by decide +kernel

/-! ### The fabric -/

/-- Lane 8 and its port 2 as f and g change them, on the routed device. -/
def fabric (f : Lane → Lane) (g : Port → Port) : State := modPort 2 g (modLane 8 f (routed up))

/-- A control record of the peer with nothing in it. -/
def rec0 : ControlRec :=
  { hasAck := false, hasNak := false, hasReplay := false, hasCredit := false, hasTrain := false, epoch := 0, ackSeq := 0, rpSeq := 0
    node := 0, mode := 0, lane := 0, state := 0, credit := Vector.replicate 3 5 }

/-- FabricLanes: lanes that go down and come up. -/
theorem fabricLanes : let s := modLane 9 (fun x => { x with up := true, selectable := true }) (fabric (fun x => { x with copies := [Vector.replicate 8 0] }) id)
    let d := fabric (fun x => { x with up := false, selectable := false, rejoin := true }) id
    let lit := { d with halo := { d.halo with laserOn := BitVec.allOnes 32, loops := Vector.replicate 2144 { st := .locked } } }
    live s = true ∧ (nextOf (exec (.laneDown 8) s)).fab.lanes[8].up = false ∧ (nextOf (exec (.laneDown 8) s)).fab.intStatus = 1 ∧
    ((lanesUp 2 s).filter (· ≠ 8)).find? (fun k => s.fab.lanes[k.val].selectable) = some 9 ∧
    bit lit.fab.ports[2].laneEn 0 = true ∧ lit.nuc.units[(unitPort 2).val].st = 0 ∧ laneLit 8 lit = true ∧
    (nextOf (exec (.laneUp 8) lit)).fab.lanes[8].up = true ∧ (nextOf (exec (.laneUp 8) lit)).fab.lanes[8].selectable = false ∧
    (nextOf (exec (.laneRejoin 8) (fabric (fun x => { x with selectable := false }) id))).fab.lanes[8].selectable = true := by
  decide +kernel

/-- A PROBE of node 7. -/
def probe : Msg :=
  { type := 0x09, flags := 0, dst := 1, src := 7, hops := 8, hopEpoch := 0, length := 0, domain := 9, arg := 0, reqId := 3, addr := 0
    deadline := 0, payload := [] }

/-- FabricLanes: a flit that holds a message, one that cannot be corrected, bubbles, records and timers. -/
theorem fabricLanes_flits : let s := fabric (fun x => { x with rxE := 4 }) id
    let f : Flit := { nib1 := 1, nib2 := 2, fecOk := true, fecFixed := false, units := Vector.ofFn fun i : Fin 8 => (msgUnits probe).getD i.val 0 }
    let two := fabric (fun x => { x with txAck := 6, txSeq := 8, copies := [Vector.replicate 8 1, Vector.replicate 8 2], sinceAck := 3, rxE := 9 }) id
    flitOf 0 1 2 = true ∧ flitOf 1 1 2 = false ∧ (msgUnits probe).length = 2 ∧
    (∀ i : Fin 8, f.units[i.val] = (msgUnits probe).getD i.val 0) ∧ (nextOf (exec (.dataFlit 8 f) s)).fab.ports[2].inbox = [probe] ∧
    (nextOf (exec (.dataFlit 8 f) s)).fab.lanes[8].rxE = 5 ∧
    (nextOf (exec (.dataFlit 8 { f with fecOk := false }) s)).fab.lanes[8].discarding = true ∧
    (nextOf (exec (.dataFlit 8 f) (fabric (fun x => { x with discarding := true }) id))).fab.ports[2].inbox = [] ∧
    nibbleOk 8 = true ∧ (nextOf (exec (.bubble 8 8 true false) s)).fab.lanes[8].discarding = true ∧
    (nextOf (exec (.bubble 8 8 false true) s)).fab.lanes[8].cnt[6] = 1 ∧ (nextOf (exec (.bubbleSend 8) s)).out = [.bubble 8] ∧
    (nextOf (exec (.controlRecord 8 true { rec0 with hasTrain := true, epoch := 3, state := 2 }) s)).fab.ports[2].peerEpoch = 3 ∧
    (nextOf (exec (.controlRecord 8 true { rec0 with hasAck := true, ackSeq := 7 }) two)).fab.lanes[8].copies = [Vector.replicate 8 2] ∧
    (nextOf (exec (.controlRecord 8 true { rec0 with hasCredit := true }) s)).fab.ports[2].credit = Vector.replicate 3 5 ∧
    (nextOf (exec (.controlRecord 8 true { rec0 with hasNak := true, rpSeq := 7 }) two)).out.drop 1 = [.flit 8 (Vector.replicate 8 2)] ∧
    (nextOf (exec (.controlRecord 8 true { rec0 with hasReplay := true, rpSeq := 9 }) two)).fab.lanes[8].discarding = false ∧
    (nextOf (exec (.ackTimer 8) two)).out = [.control 8 { ctlOf 8 two with hasAck := true }] ∧
    (nextOf (exec (.replayTimeout 8) two)).out.length = 3 ∧
    (nextOf (exec (.replayTimeout 8) (modLane 8 (fun x => { x with replaying := some 6, storms := 7 }) two))).fab.intStatus = 9 := by
  decide +kernel

/-- Message m of node 7 stands at port 1, and one mailbox of core 6, in partition 0, is open; domain 9 is instance 0's. -/
def inbound (m : Msg) (s : State) : State := modPort 1 (fun x => { x with inbox := [m] }) (routed (mapped s))

/-- A request of node 7 with this type, address, argument and payload. -/
def request (ty : Byte) (addr : Dword) (arg : Byte) (d : List Byte) (flags : Byte := 0) : Msg :=
  { probe with type := ty, flags := flags, addr := addr, arg := arg, length := BitVec.ofNat 16 d.length, payload := d }

/-- FabricRequests: what each request of node 7 does. -/
theorem fabricRequests : let wr := request 0x01 0x1000 0 [5, 6]
    let rd := request 0x02 0x1000 1 []
    let la := request 0x03 0x1000 0 (7 :: List.replicate 15 0) 2
    let fa := request 0x04 0x1000 0 [0, 0, 0x80, 0x3F]
    Inbound 1 wr (inbound wr up) ∧ Inbound 1 rd (inbound rd up) ∧ Inbound 1 la (inbound la up) ∧ Inbound 1 fa (inbound fa up) ∧
    targetInst 9 (inbound wr up) = some 0 ∧ Memory.read 0 (nextOf (exec (.fabWrite 1 wr) (inbound wr up))).mem.dpa 0x1000 2 = [5, 6] ∧
    (nextOf (exec (.fabRead 1 rd) (poke 0x1000 [8, 9] (inbound rd up)))).out.length = 2 ∧
    Memory.get 0 (nextOf (exec (.fabLadd 1 la) (poke 0x1000 [8] (inbound la up)))).mem.dpa 0x1000 = 15 ∧
    Memory.read 0 (nextOf (exec (.fabFadd 1 fa) (inbound fa up))).mem.dpa 0x1000 4 = [0, 0, 0x80, 0x3F] := by
  unfold Inbound AtOpenPort; decide +kernel

theorem fabricRequests_send : let sd := request 0x06 1 2 [1, 2, 3, 4, 5, 6, 7, 8]
    let two := pair id id
    Inbound 1 sd (inbound sd two) ∧ sendDest sd (inbound sd two) = some 6 ∧ sendBox sd = 2 ∧
    ((nextOf (exec (.fabSend 1 sd) (inbound sd two))).cores[6].mbox[2]).msgs = [⟨0xFFFE, [1, 2, 3, 4, 5, 6, 7, 8]⟩] := by
  unfold Inbound AtOpenPort; decide +kernel

theorem plain_inbound : Plain (inbound (request 0x01 0x1000 0 [5, 6]) up) := by unfold Plain; decide +kernel

theorem fabricRequests_write : MapsRange 0 .write 0x1000 2 0x1000 (inbound (request 0x01 0x1000 0 [5, 6]) up) ∧
    TablesClear 0 0x1000 2 (inbound (request 0x01 0x1000 0 [5, 6]) up) :=
  ⟨plain_maps plain_inbound _ (by decide), plain_clear plain_inbound (by decide)⟩

/-- FabricRequests: an L128 tile, the first and the last arrival at a slot, and a request of an old epoch. -/
theorem fabricRequests_more : let lt := request 0x05 0x1000 0 (List.replicate 4096 0)
    let b := request 0x07 0 4 [3, 0, 2, 0, 0, 0, 0, 0]
    let s := inbound b up
    let one := { s with fab := { s.fab with bars := upd s.fab.bars 3 fun _ => { expected := 2, arrivals := [⟨7, 0, 4, 9⟩], episode := 5 } } }
    let old := inbound { b with hopEpoch := 1 } up
    Inbound 1 lt (inbound lt up) ∧ Inbound 1 b s ∧ leNat b.payload = 3 + 2 * 65536 ∧
    (nextOf (exec (.barArrive 1 b) s)).fab.bars[3].arrivals.length = 1 ∧ (nextOf (exec (.barArrive 1 b) s)).fab.bars[3].expected = 2 ∧
    isNext (exec (.barArrive 1 b) one) = true ∧
    atPort 1 { b with hopEpoch := 1 } old = true ∧ portState 1 old = 2 ∧ portEpoch 1 old = 0 ∧ (pickPort 7 old).isSome ∧
    (nextOf (exec (.barArrive 1 { b with hopEpoch := 1 }) old)).fab.intStatus = 0x40 := by
  unfold Inbound AtOpenPort; decide +kernel

/-- Core 5 waits for the RDATA of request 3. -/
def awaiting (s : State) : State :=
  let q : FabReq := { id := 3, owner := .core 5 .ni, msg := { probe with type := 0x02, addr := 0x88 } }
  let t := modCore 5 (fun k => { k with ni := [{ sres := [(3, 0)], parts := [(3, none)], answered := .scalar false, pc := 16 }] }) s
  { t with fab := { t.fab with reqs := [q] } }

/-- FabricResponses: an answer, a poisoned one, REFUSE, a time limit. -/
theorem fabricResponses : let rd := request 0x22 0 0 [1, 2]
    let bad := request 0x22 0 0 [1, 2] 1
    let no := request 0x25 2 1 []
    let s (m : Msg) : State := inbound m (awaiting (run id))
    AtOpenPort 1 rd (s rd) ∧ rspOk rd = true ∧ waitsFor (s rd).cores[5] 3 = true ∧ rspType 0x02 = 0x22 ∧
    (nextOf (exec (.rdata 1 rd) (s rd))).fab.reqs = [] ∧
    (nextOf (exec (.rdata 1 rd) (s rd))).cores[5].ni.map QEntry.parts = [[(3, some [1, 2])]] ∧
    AtOpenPort 1 bad (s bad) ∧ (nextOf (exec (.rdata 1 bad) (s bad))).cores[5].faultCause = 5 ∧
    (nextOf (exec (.rdata 1 bad) (s bad))).cores[5].faultPc = 16 ∧ AtOpenPort 1 no (s no) ∧ rspOk no = true ∧
    (nextOf (exec (.refuse 1 no) (s no))).cores[5].faultCause = 11 ∧
    (nextOf (exec (.fabRespTimeout 3) (s no))).cores[5].faultAddr = 0x88 := by
  unfold AtOpenPort; decide +kernel

/-- FabricResponses: PROBE, QUERY, ANSWER, a message passed on, the coalescing WRITE. -/
theorem fabricResponses_more : let pr := request 0x09 0 0 (List.replicate 64 0)
    let own := { pr with src := 1 }
    let q := request 0x08 0x10005 0 (List.replicate 128 0)
    let an := { request 0x28 0 1 (List.replicate 32 0) with reqId := 4 }
    let on := { request 0x01 0 0 [1] with dst := 7, src := 5 }
    let sh := { routed up with nuc := { up.nuc with units := upd up.nuc.units (unitPort 2) fun u => { u with st := 1 } } }
    let grp := inbound q up
    let grp := { grp with fab := { grp.fab with mcast := [(5, 0x80090004)] } }
    let ctx : Merge := { src := 7, req := 4, up := some 2, root := none, group := 5, k := 1, branches := 2, answered := 0, ans := {}, shardsExp := 2 }
    let mg (n : Nat) : State := let s := inbound { an with dst := 7 } up; { s with fab := { s.fab with merges := [{ ctx with branches := n }] } }
    let co := routed (modCore 5 (fun k => { k with coalesce := some ⟨7, 0x80, [1], 3⟩ }) (run id))
    AtOpenPort 1 own (inbound own up) ∧ msgBad pr = false ∧ (nextOf (exec (.probe 1 own) (inbound own up))).fab.ports[1].probes = 1 ∧
    AtOpenPort 1 pr (inbound pr up) ∧ (nextOf (exec (.probe 1 pr) (inbound pr up))).fab.ports[1].queue = [{ pr with hopEpoch := 0 }] ∧
    portState 2 sh = 1 ∧ sh.nuc.restarting = false ∧ isNext (exec (.probeSend 2) sh) = true ∧
    queryBad q = false ∧ groupTakes 5 9 (inbound q up) = false ∧ groupTakes 5 9 grp = true ∧ bit (Tab.get 0 grp.fab.mcast 5) 2 = true ∧
    portInService 2 grp = true ∧ (nextOf (exec (.query 1 q) grp)).fab.merges.length = 1 ∧
    (nextOf (exec (.query 1 q) (inbound q up))).fab.merges = [] ∧
    AtOpenPort 1 { an with dst := 7 } (mg 2) ∧ mergeOf 7 4 (mg 2) = some ctx ∧
    (nextOf (exec (.answer 1 { an with dst := 7 }) (mg 2))).fab.merges.map Merge.answered = [1] ∧
    (nextOf (exec (.answer 1 { an with dst := 7 }) (mg 1))).fab.merges = [] ∧
    AtOpenPort 1 on (inbound on up) ∧ (nextOf (exec (.messageRoute 1 on) (inbound on up))).fab.lanes[8].sentMsgs.length = 1 ∧
    RouteOpen 5 7 9 co ∧ (nextOf (exec (.writeCoalesceTimeout 5) co)).cores[5].coalesce = none := by
  unfold AtOpenPort RouteOpen; decide +kernel

/-- FabricResponses: a coalescing WRITE whose instance may no longer issue fabric operations. -/
theorem coalesce_closed : let s := routed (modCore 5 (fun k => { k with coalesce := some ⟨7, 0x80, [1], 3⟩ }) (run id))
    let n := modInst 0 (fun x => { x with fabEn := false }) s
    live n = true ∧ domainOf (coreInst 5 n) n = none ∧ n.cores[5].st = .running ∧ (nextOf (exec (.writeCoalesceTimeout 5) n)).cores[5].coalesce = none ∧
    (nextOf (exec (.writeCoalesceTimeout 5) n)).cores[5].faultCause = 11 ∧ (nextOf (exec (.writeCoalesceTimeout 5) n)).cores[5].faultAddr = 0x80 ∧
    (nextOf (exec (.writeCoalesceTimeout 5) s)).fab.reqs.map (fun q => (q.id, q.msg.type, q.msg.addr)) = [(3, 1, 0x80)] ∧ s.fab.queries = [] := by
  decide +kernel

/-! ### The Halo die -/

/-- A matrix image of zeros (R428). -/
def zeroImage : List Byte := 1 :: List.replicate 4159 0

/-- Rows of b times the identity. -/
def diag (n : Nat) (b : Rat) : List (List Rat) := (List.range n).map fun i => (List.range n).map fun j => if i = j then b else 0

theorem diag_succ (n : Nat) (b : Rat) : diag (n + 1) b = (b :: List.replicate n 0) :: (diag n b).map fun r => 0 :: r := by
  simp [diag, List.range_succ_eq_map, Function.comp_def, List.map_const']

theorem zip_zero (u : List Rat) (b : Rat) : ((u.zip (List.replicate u.length (0 : Rat))).map fun p => p.1 - 0 * p.2 / b) = u := by
  induction u with
  | nil => rfl
  | cons x u ih => simp only [List.length_cons, List.replicate_succ, List.zip_cons_cons, List.map_cons, ih]; simp

theorem psd_diag (n : Nat) (b : Rat) (h : 0 < b) : psd n (diag n b) = true := by
  induction n with
  | zero => rfl
  | succ n ih =>
    rw [diag_succ]
    simp only [psd, not_lt.mpr h.le, if_false, h.ne', List.map_map]
    rw [show (diag n b).map _ = diag n b from ?_]
    · exact ih
    · conv_rhs => rw [← List.map_id (diag n b)]
      apply List.map_congr_left
      intro r hr
      obtain ⟨i, -, rfl⟩ := List.mem_map.mp hr
      have e := zip_zero ((List.range n).map fun j => if i = j then b else 0) b
      rw [List.length_map, List.length_range] at e
      exact e

theorem zero_image_field (k n : Nat) : imf zeroImage (64 + k) n = 0 := by
  unfold imf zeroImage
  rw [show 64 + k = (63 + k) + 1 by omega, List.drop_succ_cons, List.drop_replicate, List.take_replicate]
  exact leNat_zeros _
where
  leNat_zeros (m : Nat) : leNat (List.replicate m 0) = 0 := by
    induction m with
    | zero => rfl
    | succ m ih =>
      rw [List.replicate_succ, leNat, ih]
      rfl

theorem zero_image_num (k : Nat) : imageNum zeroImage k = some 0 := by
  unfold imageNum
  rw [zero_image_field]
  decide +kernel

theorem zero_image_entry (k : Nat) : (imageOf zeroImage).getD k (0, 0) = (0, 0) := by
  have : imageOf zeroImage = List.replicate 1024 (0, 0) := by
    simp only [imageOf, zero_image_num]
    decide +kernel
  rw [this]
  exact getD_zeros 1024 k
where
  getD_zeros (n k : Nat) : (List.replicate n ((0, 0) : Int × Int)).getD k (0, 0) = (0, 0) := by
    rw [List.getD, List.getElem?_replicate]
    split <;> rfl

theorem zero_image_ok : matrixOk zeroImage = true := by
  unfold matrixOk
  have h1 : (imf zeroImage 0 1 = 1 && (imf zeroImage 1 1 ≤ 8 || 252 ≤ imf zeroImage 1 1) && imf zeroImage 2 62 = 0) = true := by decide +kernel
  have h2 : (List.range 2048).all (fun k => (imageNum zeroImage k).isSome) = true := by simp [zero_image_num]
  have h3 : withinNorm (imageOf zeroImage) = true := by
    unfold withinNorm
    simp only [zero_image_entry]
    have hb : (0 : Rat) < (1025 * 1025 : Rat) / (1024 * 1024) * 2 ^ 96 := by norm_num
    convert psd_diag 64 _ hb using 2
    unfold diag
    refine List.map_congr_left fun i _ => List.map_congr_left fun j _ => ?_
    simp only [mul_zero, add_zero, sub_zero, List.map_const', List.sum_replicate, smul_zero, Int.cast_zero, neg_zero]
    split_ifs <;> first | rfl | omega
  rw [h1, h2, h3]
  rfl

/-- The HTU, lit, with the zero matrix loaded for instance 0, as f changes it; the image stands at 0x10000 as well. -/
def halo (f : Halo → Halo) (l : List Item) : State :=
  let s := poke 0x10000 [1] (mapped (withItems l (modInst 0 (fun i => { i with htuEn := true }) up)))
  { s with halo := f { s.halo with loops := Vector.replicate 2144 { st := .locked }, calDone := true, htuLocked := true, htuLoaded := true
                                   matrix := zeroImage, matrixAddr := some 0x10000 } }

/-- One vector from 0x1000 to 0x2000, with the matrix that is loaded, or with the image at 0x10000. -/
def htuItem : Item := item 0 6 [(32, 0x1000), (40, 0x2000), (48, 1), (52, 8)]
def imageItem : Item := item 0 6 [(24, 0x10000), (32, 0x1000), (40, 0x2000), (48, 1), (52, 8)]

/-- A query of a walker that names the matrix at this address. -/
def haloReq (a : Nat) : HtuReq :=
  { item := 5, query := 0, wk := 0, inst := 0, gen := 0, det := false, k := 1, params := [], index := List.replicate 80 0 ++ leBytes 8 a
    vec := [], cut := none }

theorem plain_htu : Plain (halo id [htuItem]) := by unfold Plain; decide +kernel
theorem plain_image : Plain (halo id [imageItem]) := by unfold Plain; decide +kernel

theorem image_read : Memory.read 0 (halo id [imageItem]).mem.dpa 0x10000 4160 = zeroImage := by decide +kernel

/-- HtuCommands: the premises of an HTU_RUN with the matrix that is loaded, and with an image of its own. -/
theorem htuRun : HtuStarts 0 htuItem (halo id [htuItem]) ∧ HtuStarts 0 imageItem (halo id [imageItem]) ∧
    Memory.wf 0 (halo id [htuItem]).mem.dpa = true ∧ MapsRange 0 .read 0x1000 64 0x1000 (halo id [htuItem]) ∧
    MapsRange 0 .write 0x2000 64 0x2000 (halo id [htuItem]) ∧ TablesClear 0 0x2000 64 (halo id [htuItem]) ∧
    ReadsAs 0 0x10000 4160 (halo id [imageItem]) zeroImage ∧ translate 0 .read 0x10000 (halo id [imageItem]) = (.ok (.dpa 0x10000), halo id [imageItem]) ∧
    translate 0 .read 0x1000 (halo id [imageItem]) = (.ok (.dpa 0x1000), halo id [imageItem]) ∧
    translate 0 .write 0x2000 (halo id [imageItem]) = (.ok (.dpa 0x2000), halo id [imageItem]) := by
  refine ⟨?_, ?_, by decide +kernel, plain_maps plain_htu _ (by decide), plain_maps plain_htu _ (by decide), plain_clear plain_htu (by decide),
    plain_reads_as plain_image (by decide) image_read, plain_translate plain_image _ (by decide), plain_translate plain_image _ (by decide),
    plain_translate plain_image _ (by decide)⟩
  · unfold HtuStarts StartsNext Fresh Calm; decide +kernel
  · unfold HtuStarts StartsNext Fresh Calm; decide +kernel

theorem htu_lit (f : Halo → Halo) (l : List Item) (h : (f { (halo id l).halo with }).loops = Vector.replicate 2144 { st := .locked }) :
    htuLit (halo f l) = true := by
  unfold htuLit
  rw [show (halo f l).halo.loops = Vector.replicate 2144 { st := .locked } from h]
  simp

/-- HtuCommands: the end of a load, re-characterisation, walkers' requests. -/
theorem htuLoads : let s := halo (fun h => { h with loading := true, htuLocked := false, htuLoaded := false }) []
    let w := halo (fun h => { h with reqs := [haloReq 0x20000] }) []
    let same := halo (fun h => { h with reqs := [haloReq 0x10000] }) []
    let dark := halo (fun h => { h with reqs := [haloReq 0x10000], htuLocked := false }) []
    live s = true ∧ htuLit s = true ∧ s.halo.htuOos = false ∧ (nextOf (exec .htuRecharacterise s)).halo.recharAt = some 0 ∧
    htuLit (halo id []) = true ∧ (halo id []).halo.calRunning = false ∧
    (∀ r ∈ w.halo.reqs, isLoaded r.inst r.gen (indexOf r.index).htuMatrix w = false) ∧ (indexOf (haloReq 0x20000).index).htuMatrix = 0x20000 ∧
    (same.halo.reqs.find? fun r => isLoaded r.inst r.gen (indexOf r.index).htuMatrix same) = some (haloReq 0x10000) ∧
    unitClosed unitHtu w = false ∧ isNext (exec .htuWalkerRequest dark) = true ∧ s.halo.job = none ∧ w.fab.queries = [] ∧
    (∀ r ∈ w.halo.reqs, reqStopped r w = false) := by
  refine ⟨by decide +kernel, htu_lit _ _ rfl, by decide +kernel, by decide +kernel, htu_lit _ _ rfl, by decide +kernel, by decide +kernel, by decide +kernel,
    by decide +kernel, by decide +kernel, by decide +kernel, by decide +kernel, by decide +kernel, by decide +kernel⟩

/-- HtuCommands: a walker's request that the clock has stopped, as its deadline of 7 has come. -/
theorem htuRequest_stopped : let r := { haloReq 0x20000 with deadline := 7, params := List.replicate 64 0 }
    let s := halo (fun h => { h with reqs := [r] }) []
    let t : State := { s with eph := { s.eph with now := 7, ticks := 7 } }
    reqStopped r s = false ∧ (t.halo.reqs.find? fun r => reqStopped r t) = some r ∧
    (nextOf (exec .htuWalkerRequest t)).halo.reqs = [] ∧ t.fab.queries = [] := by decide +kernel

/-- HaloLoops: what each event does to its loop and its flag. -/
theorem haloLoops : let s := halo (fun h => { h with intStatus := 0 }) []
    let st (l : LoopId) (t : State) : LoopState := t.halo.loops[l.val].st
    haloOn s = true ∧ st 3 (nextOf (exec (.laserOffGrid 3) s)) = .acquiring ∧ (nextOf (exec (.laserOffGrid 3) s)).halo.intStatus = 1 ∧
    st 3 (nextOf (exec (.laserPowerLow 3) s)) = .outOfService ∧ (nextOf (exec (.laserPowerLow 3) s)).halo.laserOos = 8 ∧
    st 37 (nextOf (exec (.ringUnlock 5) s)) = .acquiring ∧ st 100 (nextOf (exec (.heaterAtLimit 100) s)) = .opened ∧
    (nextOf (exec (.heaterAtLimit 100) s)).halo.htuLocked = false ∧ st 37 (nextOf (exec (.monitorStuck 37) s)) = .outOfService ∧
    st 100 (nextOf (exec (.htuLoopUnlock 100) s)) = .acquiring ∧
    st 40 (nextOf (exec (.loopRelock 40) (modLoop 40 (fun x => { x with st := .opened }) s))) = .locked ∧
    s.halo.loops[40].st = .locked ∧ s.halo.loops[40].error.toInt.natAbs < 3000 ∧
    s.halo.loops[40].st ≠ .outOfService ∧ loopMode 40 s = 0 := by
  decide +kernel

/-- HaloLoops: relock that fails, temperatures, calibration. -/
theorem haloCalibration : let s := halo id []
    let out := { s with halo := { s.halo with loops := Vector.replicate 2144 { st := .opened }, htuLocked := false, unlockAt := some 1 }
                        eph := { s.eph with ticks := 4915201 } }
    let hot := { s with halo := { s.halo with overTemp := true } }
    let cal := { s with halo := { s.halo with calRunning := true } }
    let cold := { s with hub := { s.hub with stage := 3 } }
    let wait (m d : BitVec 8) := { s with halo := { s.halo with calRunning := true, calWait := true, laserMax := m, dieTemp := d } }
    out.halo.htuOos = false ∧ out.halo.calDone = true ∧ (nextOf (exec .laserOverTemp s)).halo.laserOn = 0 ∧
    (nextOf (exec (.laserCooledRecalibration 90) hot)).halo.calRunning = true ∧ cold.hub.cause = 0 ∧ cold.hub.haloDone = false ∧
    (nextOf (exec .calibrationStart cold)).halo.calRunning = true ∧ (nextOf (exec .calibrationStart cold)).halo.calWait = false ∧
    (nextOf (exec (.calibrationTempReady 20) (wait 0 0))).halo.calWait = false ∧
    (nextOf (exec (.calibrationDone ⟨1, 2, 4, true, true⟩) cal)).halo.calDone = true ∧ cal.halo.calWait = false ∧ cal.halo.job = none ∧ cal.halo.loading = false ∧
    (nextOf (exec (.calibrationDone ⟨1, 2, 4, true, true⟩) cal)).halo.laserOn = 0xFFFFFFFE ∧ (nextOf (exec (.calibrationDone ⟨1, 2, 4, true, true⟩) cal)).halo.txOos = 4 ∧
    usTicks 20000 = 4915200 ∧ out.fab.queries = [] ∧ (nextOf (exec .htuRelockTimeout s)).halo.htuOos = false ∧
    (90 : Int) < ((95 : BitVec 8)).toInt ∧ ((0xE0 : BitVec 8)).toInt < -20 ∧ isNext (exec .calibrationTempTimeout (wait 95 0)) = true ∧
    isNext (exec .haloWarmupTimeout (wait 0 0xE0)) = true := by decide +kernel

theorem htu_dark : htuLit { up with halo := { up.halo with loops := Vector.replicate 2144 { st := .opened } } } = false := by
  unfold htuLit
  simp
  exact ⟨0, by simp⟩

/-! ### The sample port -/

/-- Descriptor 0 is a CAPTURE of lanes 0 and 1 into 0x1000, from 10 to 60, with 128 bytes of region; the time is 50. -/
def capture (st : Stage) (dl : Nat := 60) : Item := item 0 7 [(8, 10), (16, dl), (24, 0x1000), (32, 192), (36, 3)] st

/-- The port with f, on a device where instance 0 holds it. -/
def port (x : Item) (now : Rts) (f : Sp → Sp) : State :=
  let s := mapped (withItems [x] (modInst 0 (fun i => { i with spEn := true }) up))
  { s with eph := { s.eph with now := now }, sp := f { s.sp with enable := true, clkPresent := true } }

/-- SamplePort: armed, without a grant, shed, opened, closed. -/
theorem samplePort : let s := port (capture .ready) 5 id
    let n := modInst 0 (fun i => { i with spEn := false }) s
    let late := port (capture .running) 70 fun p => { p with armed := [(0, 10)] }
    let open_ := port (capture .running) 50 fun p => { p with armed := [(0, 10)] }
    let stop := port (capture .running) 60 fun p => { p with window := some { item := 0, bits := 3 }, partialBits := [true, false, true] }
    let stuck := port (capture .running) 60 fun p =>
      { p with window := some { item := 0, bits := 5 }, partialBits := [true, false, true], words := List.replicate 4096 (0, []) }
    live s = true ∧ engUp .sp s = true ∧ capNext (capture .ready) s = true ∧ Calm 0 s ∧ unitClosed unitSp s = false ∧
    (nextOf (exec (.capture 0) s)).sp.armed = [(0, 10)] ∧ dues (nextOf (exec (.capture 0) n)) = [(0x10, 0)] ∧
    passed (capture .running).deadline late.eph.now = true ∧ dues (nextOf (exec (.captureShed 0) late)) = [(8, 0)] ∧
    reached (capture .running).deadline open_.eph.now = false ∧
    (nextOf (exec (.windowOpen false) open_)).sp.window.map (fun w => (w.item, w.flags)) = some (0, 1) ∧
    reached (capture .running).deadline stop.eph.now = true ∧ (nextOf (exec .windowClose stop)).sp.window = none ∧
    (nextOf (exec .windowClose stop)).sp.words.map (fun e => e.2.take 1) = [[5]] ∧
    (nextOf (exec .windowClose stuck)).sp.closing.map (fun w => (w.bits, w.lost, w.flags)) = [(2, 1, 4)] := by
  unfold Calm; decide +kernel

/-- SamplePort: beats, a full buffer, the clock, a word and a header written, a flush, watermarks. -/
theorem samplePort_beats : let w : Window := { item := 0, firstRts := 11, lastRts := 12, bits := 3 }
    let s := port (capture .running) 50 fun p => { p with window := some w, partialBits := [true] }
    let full := port (capture .running) 50 fun p => { p with window := some w, words := List.replicate 4096 (0, []) }
    let free := port (capture .running 0) 50 fun p => { p with window := some w }
    let word := port (capture .running) 50 fun p => { p with closing := [w], words := [(0, [7, 8])] }
    let head := port (capture .running) 50 fun p => { p with closing := [w] }
    capRegion (capture .running) = 128 ∧ capLanes (capture .running) = 3 ∧
    (nextOf (exec (.sampleBeat 1 2 true) s)).sp.partialBits = [true, true, false, false, true] ∧
    (nextOf (exec (.sampleBeat 1 2 true) s)).sp.window.map Window.bits = some 7 ∧
    (nextOf (exec (.sampleBeat 1 2 true) full)).sp.window.map (fun v => (v.lost, v.flags)) = some (1, 4) ∧
    (nextOf (exec (.sampleBeat 1 2 true) full)).sp.lossN = false ∧ (capture .running 0).deadline = 0 ∧
    (nextOf (exec .spClkLoss free)).sp.window.map Window.flags = some 8 ∧ windowOf 0 word = some w ∧ capWrap (capture .running) = false ∧
    Memory.wf 0 word.mem.dpa = true ∧ Memory.read 0 (nextOf (exec .captureWordDrain word)).mem.dpa 0x1040 3 = [7, 8, 0] ∧
    (nextOf (exec .captureWordDrain word)).sp.words = [] ∧ Calm 0 head ∧ dues (nextOf (exec .captureHeaderWrite head)) = [(0, 1)] ∧
    Memory.read 0 (nextOf (exec .captureHeaderWrite head)).mem.dpa 0x1000 9 = [11, 0, 0, 0, 0, 0, 0, 0, 12] ∧
    (nextOf (exec .spFlush s)).sp.window.map (fun v => (v.bits, v.flags)) = some (0, 0x20) ∧
    (nextOf (exec .qblockPtrMismatch s)).sp.cnt[3] = 1 ∧ (nextOf (exec (.spQbCfgWrite 0x10000FFF) s)).sp.hw = 4096 ∧
    (nextOf (exec (.spQbCfgWrite 0x10001000) s)).sp.hw = 3584 := by
  unfold Calm; decide +kernel

theorem plain_word : Plain (port (capture .running) 50 fun p => { p with closing := [{ item := 0, bits := 3 }], words := [(0, [7, 8])] }) := by
  unfold Plain; decide +kernel

theorem samplePort_blocks : let s := port (capture .running) 50 fun p => { p with closing := [{ item := 0, bits := 3 }], words := [(0, [7, 8])] }
    MapsRange 0 .write 0x1000 64 0x1000 s ∧ TablesClear 0 0x1000 64 s ∧ MapsRange 0 .write 0x1040 64 0x1040 s ∧ TablesClear 0 0x1040 64 s :=
  ⟨plain_maps plain_word _ (by decide), plain_clear plain_word (by decide), plain_maps plain_word _ (by decide), plain_clear plain_word (by decide)⟩

theorem plain_armed : Plain (port (capture .ready) 5 id) := by unfold Plain; decide +kernel

/-- SamplePort: the buffer of a CAPTURE that is armed translates; one that does not ends XLATE_FAULT before any beat. -/
theorem samplePort_buffer : translate 0 .write 0x1000 (port (capture .ready) 5 id) = (.ok (.dpa 0x1000), port (capture .ready) 5 id) ∧
    dues (nextOf (exec (.capture 0) (port (item 0 7 [(8, 10), (24, 0x80000000), (32, 192), (36, 3)]) 5 id))) = [(0x11, 0)] :=
  ⟨plain_translate plain_armed _ (by decide), by decide +kernel⟩

/-- SamplePort: with wrap, a beat past the region is taken, word 3 of a region of 128 bytes lies behind the header's line, and
the header tells that the ring has wrapped. -/
theorem samplePort_wrap : let x := item 0 7 [(8, 10), (16, 60), (24, 0x1000), (32, 192), (36, 3), (38, 1)] .running
    let w : Window := { item := 0, bits := 1536, written := 128 }
    let s := port x 50 fun p => { p with window := some w, words := [(0, [7])] }
    let h := port x 50 fun p => { p with closing := [{ w with written := 192 }] }
    capWrap x = true ∧ (nextOf (exec (.sampleBeat 1 2 true) s)).sp.window.map Window.bits = some 1540 ∧
    Memory.read 0 (nextOf (exec .captureWordDrain s)).mem.dpa 0x1040 2 = [7, 0] ∧
    Memory.read 0 (nextOf (exec .captureHeaderWrite h)).mem.dpa 0x1010 10 = [192, 0, 0, 0, 0, 0, 0, 0, 64, 0] ∧
    Memory.get 0 (nextOf (exec .captureHeaderWrite h)).mem.dpa 0x1022 = 128 := by decide +kernel

/-! ### Memory, Tide and the clocks -/

/-- Both scrubbers run on mapped memory, and f changes it. -/
def scrubbing (f : Mem → Mem) : State := let s := mapped up; { s with mem := f { s.mem with lpEn := true, dpEn := true } }

/-- MemoryUpkeep: clean lines, a correctable and an uncorrectable error, the owner of a line, retraining. -/
theorem memoryUpkeep : let s := scrubbing id
    let c := scrubbing fun m => { m with latent := [(0, false)] }
    let u := scrubbing fun m => { m with latent := [(0, true)] }
    let r := scrubbing fun m => { m with retrainFail := upd m.retrainFail 1 fun _ => 2 }
    live s = true ∧ channelOut s 0 = false ∧ poolLine s.mem.dpPos = 0x2000000000 ∧ channelOut s 0x2000000000 = false ∧
    (nextOf (exec (.scrubRead false none) s)).mem.lpPos = 1 ∧ (nextOf (exec (.scrubRead true none) s)).mem.dpPos = 1 ∧
    (nextOf (exec (.scrubRead false none) c)).mem.ceCount = 1 ∧ (nextOf (exec (.scrubRead false none) c)).mem.latent = [] ∧
    (nextOf (exec (.scrubRead false none) u)).mem.poisoned = [0] ∧ (nextOf (exec (.scrubRead false none) u)).mem.ueCount = 1 ∧
    r.nuc.units[(unitLp 1).val].st = 0 ∧ (nextOf (exec (.lp5xRetrain 1 true) r)).mem.retrainFail[1] = 0 ∧
    (nextOf (exec (.lp5xRetrain 1 false) r)).nuc.units[(unitLp 1).val].cause = 2 ∧ isNext (exec (.zqCalibration 2) s) = true := by decide +kernel

/-- Line 0x41 has been found bad by the scrubber; instance 0 logs to 0x2000. -/
def found : State :=
  let s := scrubbing fun m => { m with found := [(0x41, true)] }
  { s with nuc := { s.nuc with logs := upd s.nuc.logs 0 fun l => { l with base := 0x2000, enable := true } } }

theorem plain_found : Plain found := by unfold Plain; decide +kernel

theorem plain_entry {s : State} (h : Plain s) (k : Nat) (hk : k < 1024) :
    tableRead s (0x40000000 + 8 * k) = .ok (if k = 0 then 0x1F else 0) := by
  rw [plain_table h (by omega)]
  obtain rfl | hp := Nat.eq_zero_or_pos k
  · rw [Nat.mul_zero, Nat.add_zero, h.2.2.2.2.2.2.2.1]
    rfl
  · have z : leNat (Memory.read 0 s.mem.dpa (0x40000000 + 8 * k) 8) = 0 :=
      zero_read _ 8 _ fun i => get_above _ _ fun e he => Nat.lt_of_lt_of_le (h.2.2.2.2.2.2.2.2.2 e he) (by omega)
    rw [z, if_neg (by omega)]
    rfl

theorem plain_root {s : State} (h : Plain s) : bits s.mtu[(0 : InstId).val].root 63 12 * 4096 = 0x40000000 := by
  rw [h.2.2.2.2.2.1]
  decide

theorem plain_leaves {s : State} (h : Plain s) : tableLeaves s.mtu[(0 : InstId).val] s = [⟨0, 0, 2 ^ 30, false⟩] := by
  unfold tableLeaves
  rw [plain_root h, List.range_succ_eq_map, List.flatMap_cons]
  rw [show ((List.range 1023).map Nat.succ).flatMap _ = ([] : List Leaf) from ?_]
  · rw [plain_entry h 0 (by omega), if_pos rfl]
    dsimp only
    rw [if_pos (by decide), if_pos (by decide)]
    decide
  · rw [List.flatMap_eq_nil_iff]
    intro k hk
    obtain ⟨j, hj, rfl⟩ := List.mem_map.mp hk
    rw [plain_entry h (Nat.succ j) (by have := List.mem_range.mp hj; omega), if_neg (Nat.succ_ne_zero j)]
    dsimp only
    rw [if_neg (by decide), show l2Table 0 = none by decide]

theorem plain_bad {s : State} (h : Plain s) (a n : Nat) : tableBad s a n = [] := by
  simp [tableBad, lineBad, linePoisoned, h.2.2.1, h.2.2.2.1]

theorem flat_nil {α : Type} (f : Nat → List α) (n : Nat) (h : ∀ k < n, f k = []) : (List.range n).flatMap f = [] :=
  List.flatMap_eq_nil_iff.mpr fun k hk => h k (List.mem_range.mp hk)

theorem plain_lines {s : State} (h : Plain s) : tableBadLines s.mtu[(0 : InstId).val] s = [] := by
  unfold tableBadLines
  dsimp only
  rw [plain_bad h, List.nil_append]
  refine flat_nil _ _ fun k hk => ?_
  rw [plain_root h, plain_entry h k hk]
  dsimp only
  rw [show l2Table (if k = 0 then 0x1F else 0) = none by split <;> decide]

theorem owner_leaves : (tableLeaves found.mtu[(0 : InstId).val] found).filter (fun f => f.dpa ≤ 0x41 * 64 ∧ 0x41 * 64 < f.dpa + f.size) =
    [⟨0, 0, 2 ^ 30, false⟩] ∧ tableBadLines found.mtu[(0 : InstId).val] found = [] := by
  refine ⟨?_, plain_lines plain_found⟩
  rw [plain_leaves plain_found]
  decide

theorem poisonOwner : (∀ j : InstId, found.mtu[j.val].enable = true ↔ j = 0) ∧ found.nuc.restarting = false ∧
    (found.nuc.logs[0]).enable = true ∧ logSlot found.nuc.logs[(0 : InstId).val] = 0x2000 ∧ Memory.wf 0 found.mem.dpa = true := by decide +kernel

theorem poisonOwner_slot : MapsRange 0 .write 0x2000 128 0x2000 found ∧ TablesClear 0 0x2000 128 found :=
  ⟨plain_maps plain_found _ (by decide), plain_clear plain_found (by decide)⟩

/-- TideAndClocks: windows and holds. -/
theorem tideWindows : let s := up
    let held := { up with tide := { up.tide with die := upd up.tide.die 1 fun d => { d with hold := true, holdAt := 1 } }
                          eph := { up.eph with ticks := 4915201 } }
    let hot := { up with halo := { up.halo with laserMax := 92 } }
    let busy : Vector Bool 4 := Vector.replicate 4 true
    let pw : Vector (BitVec 19) 4 := Vector.replicate 4 300
    let two := { up with tide := { up.tide with sums := [0], die := Vector.replicate 4 { power := 200, effCap := 3 } } }
    haloOn s = true ∧ isNext (exec (.tideWindow pw busy) s) = true ∧
    (92 : Int) ≤ hot.halo.laserMax.toInt ∧ hot.tide.thermal = false ∧
    two.tide.enable = true ∧ two.tide.sums ≠ [] ∧
    2 * (two.tide.die[2]).effCap.toNat < 2 * ((204 : Int) - (two.tide.die[2]).power.toNat).natAbs ∧
    usTicks 20000 = 4915200 ∧ ((nextOf (exec (.tideHoldTimeout 1) held)).tide.die[1]).effCap = 5 ∧
    ((nextOf (exec (.tideHoldTimeout 1) held)).tide.die[1]).holdOver = true := by decide +kernel

/-- TideAndClocks: rates, the regulator, rails. -/
theorem tideClocks : let s := up
    let chg := modDie 2 (fun d => { d with change := some (700, 15 * 620) }) up
    (s.dies[2]).mhz = 600 ∧ ((nextOf (exec (.dvfsChange 2 1000) s)).dies[2]).change = some (1000, 10200) ∧
    ((nextOf (exec (.dvfsChange 2 1000) s)).dies[2]).mhz = 600 ∧
    ((nextOf (exec (.dvfsChange 2 600) (modDie 2 (fun d => { d with mhz := 900 }) s))).dies[2]).mhz = 600 ∧ voltOf 1350 = 11250 ∧
    ((nextOf (exec (.dvfsVoltageReached 2) chg)).dies[2]).mhz = 700 ∧ ((nextOf (exec (.regulatorTimeout 2) chg)).dies[2]).mhz = 600 := by
  decide +kernel

theorem railAlert : ((nextOf (exec .pmAlert found)).nuc.logs[0]).seq = 5 := by decide +kernel

/-! ### Nucleus -/

/-- A request with this opcode and body. -/
def ask (op : BitVec 16) (b : List Byte) : NucReq := { opcode := op, seq := 9, length := BitVec.ofNat 16 b.length, body := b }

/-- Nucleus serves, with f. -/
def nucleus (f : Nuc → Nuc) (s : State) : State := { s with nuc := f s.nuc }

/-- The code of the first answer sent. -/
def answered (t : State) : List Byte :=
  t.out.filterMap fun o =>
    match o with
    | .nuc _ _ _ c _ => some c
    | _ => none

/-- NucleusCommands: what each request of the mailbox or SMBus for core 5, which runs, or for core 7 answers and does. -/
theorem nucleusCommands : let s := run id
    let shadow := nucleus (fun n => { n with units := upd n.units 5 fun u => { u with st := 1 } }) s
    let quar := nucleus (fun n => { n with units := upd n.units 5 fun u => { u with st := 2 } }) s
    Serves .mailbox s ∧ Serves .smbus s ∧ UnitRequest (ask 1 [5, 0]) 1 5 [] ∧ answered (nextOf (exec (.unitQuery .mailbox (ask 1 [5, 0])) s)) = [0] ∧
    UnitRequest (ask 1 [0x6E, 2]) 1 622 [] ∧ answered (nextOf (exec (.unitQuery .mailbox (ask 1 [0x6E, 2])) s)) = [2] ∧
    answered (nextOf (exec (.unitQuery .mailbox (ask 1 [5])) s)) = [1] ∧ MayChange .mailbox s ∧
    UnitRequest (ask 2 [7, 0, 2, 0, 0]) 2 7 [2, 0, 0] ∧ answered (nextOf (exec (.unitSet .mailbox (ask 2 [7, 0, 2, 0, 0])) s)) = [0] ∧
    (nextOf (exec (.unitSet .mailbox (ask 2 [7, 0, 2, 0, 0])) s)).nuc.units[7].tbl = true ∧
    (nextOf (exec (.unitSet .mailbox (ask 2 [5, 0, 2, 0, 0])) s)).nuc.units[5].draining = true ∧
    (nextOf (exec (.unitSet .mailbox (ask 2 [5, 0, 2, 0, 1])) s)).cores[5].faultCause = 10 ∧
    answered (nextOf (exec (.unitSet .mailbox (ask 2 [5, 0, 2, 1, 0])) s)) = [4] ∧
    answered (nextOf (exec (.unitReconcile .mailbox (ask 3 [5, 0, 2, 0])) s)) = [0] ∧
    (nextOf (exec (.unitReconcile .mailbox (ask 3 [5, 0, 2, 0])) s)).nuc.units[5].fence = true ∧
    (nextOf (exec (.unitReconcile .mailbox (ask 3 [5, 0, 0, 0])) shadow)).nuc.job.isSome ∧
    answered (nextOf (exec (.unitReconcile .mailbox (ask 3 [5, 0, 0, 0])) quar)) = [3] := by
  unfold Serves UnitRequest MayChange; decide +kernel

/-- NucleusCommands: the rest of the requests, the ends of jobs, requests at other times, a port's target. -/
theorem nucleusCommands_more : let s := run id
    let job (op : BitVec 16) : NucJob := { src := .path .mailbox, req := ask op [5, 0, 0, 0], unit := unitCore 5 }
    let w (op : BitVec 16) (s : State) : State := nucleus (fun n => { n with job := some (job op) }) s
    let re := nucleus (fun n => { n with restarting := true }) up
    (nextOf (exec (.todLoad .mailbox (ask 4 [1, 0, 0, 0, 0, 0, 0, 0])) s)).eph.todNext = 1 ∧
    answered (nextOf (exec (.fwInfo .smbus (ask 6 [])) s)) = [0] ∧ (ask 5 [0x12]).length.toNat ≤ 4088 ∧
    isNext (exec (.attest .mailbox (ask 5 [0x12])) s) = true ∧
    answered (nextOf (exec .unitSetDrainDone (w 2 up))) = [0] ∧ (w 2 up).cores[5].st ≠ .running ∧
    answered (nextOf (exec .unitSetTimeout (w 2 s))) = [6] ∧ answered (nextOf (exec (.reconcileCheckDone true) (w 3 s))) = [0] ∧
    (nextOf (exec (.reconcileCheckDone true) (w 3 s))).nuc.units[5].fence = false ∧
    answered (nextOf (exec (.reconcileCheckDone false) (w 3 s))) = [5] ∧
    (nextOf (exec (.unitQuery .mailbox (ask 1 [5, 0])) (nucleus (fun n => { n with busy := true }) up))).nuc.overrun = true ∧
    answered (nextOf (exec (.todLoad .smbus (ask 4 [])) re)) = [7] ∧
    (nextOf (exec (.portTargetWrite 3 0x00500000) up)).fab.ports[3].laneEn = 5 ∧
    (nextOf (exec (.portTargetWrite 3 0x00500000) up)).nuc.units[(unitPort 3).val].st = 2 := by decide +kernel

/-- NucleusUpkeep: faults, mismatches, sensors, logs, watchdog. -/
theorem nucleusUpkeep : let re := nucleus (fun n => { n with restarting := true }) up
    let q := modLog 0 (fun r => { r with quiet := true, suppressed := true, vector := 3 })
      { up with fns := upd up.fns 0 fun g => { g with msix := true, master := true, masked := 0 } }
    let wd := nucleus (fun n => { n with lastExpiry := some 0 }) up
    (nextOf (exec (.unitFault 9 0x33) up)).nuc.units[9].st = 3 ∧ (nextOf (exec (.unitFault 9 0x33) up)).nuc.units[9].cause = 0x33 ∧
    (nextOf (exec (.unitFault 9 0x33) re)).nuc.pendFaults = [(9, 0x33)] ∧ (nextOf (exec (.unitFault 9 0x33) re)).nuc.units[9].fence = true ∧
    (nextOf (exec (.stateMismatch 9 true) up)).nuc.mmUnit = 9 ∧ (nextOf (exec (.stateMismatch 9 true) up)).nuc.mmCount = 1 ∧
    limitsOf 0 = some (840, 880) ∧ (nextOf (exec (.sensorSample 0 840) up)).nuc.sensWarn = 1 ∧
    (nextOf (exec (.sensorSample 0 880) up)).hub.therm = true ∧ VectorOpen 0 3 q ∧ (nextOf (exec (.logIrqTimer 0) q)).out = [.msix 0 3] ∧
    ((nextOf (exec (.errLogEnable 4 0x80030006) up)).nuc.logs[4]).enable = true ∧
    ((nextOf (exec (.errLogEnable 4 0x80030011) up)).nuc.logs[4]).cfgInvalid = true ∧ up.hub.unlogged = [] ∧
    (nextOf (exec .nucleusWatchdog up)).nuc.restarting = true ∧ (nextOf (exec .nucleusWatchdog up)).nuc.fatal = false ∧
    (nextOf (exec .nucleusWatchdog wd)).nuc.fatal = true ∧ isNext (exec .nucleusRestart re) = true ∧
    isNext (exec .nucleusAudit up) = true := by
  unfold VectorOpen; decide +kernel

/-- NucleusUpkeep: MCTP, PLDM and SPDM. -/
theorem nucleusProtocols : let s (n : Nat) : State := nucleus (fun x => { x with spdmStep := n }) up
    (nextOf (exec (.setEndpointId 9) up)).nuc.eid = 9 ∧ (nextOf (exec .getEndpointId up)).out.length = 1 ∧
    (nextOf (exec (.getMctpVersionSupport 1) up)).out.length = 1 ∧ (nextOf (exec .getMessageTypeSupport up)).out.length = 1 ∧
    (nextOf (exec (.pldmBase 2) up)).out.length = 1 ∧ (nextOf (exec (.getSensorReading 3) up)).out.length = 1 ∧
    (nextOf (exec .getVersion up)).nuc.spdmStep = 1 ∧ (nextOf (exec .getCapabilities (s 1))).nuc.spdmStep = 2 ∧
    (nextOf (exec (.negotiateAlgorithms 0x80 2) (s 2))).nuc.spdmStep = 3 ∧ (nextOf (exec .getDigests (s 3))).out.length = 1 ∧
    (nextOf (exec (.challenge 0 7) (s 3))).out.length = 1 ∧ (nextOf (exec (.getMeasurements 1) (s 3))).out.length = 1 := by decide +kernel

/-! ### Resets, bring-up, board, registers -/

/-- Bring-up at this stage, with f. -/
def booting (stage : BitVec 4) (f : Hub → Hub) : State := { up with hub := f { up.hub with stage := stage, ready := false } }

/-- DeviceResets: each reset and edge. -/
theorem deviceResets : let s := { up with eph := { up.eph with now := 99 }, hub := { up.hub with flash := [(5, 1)] } }
    let low := { State.reset with hub := { State.reset.hub with rstN := true } }
    bit (0x800000A5 : Word) 31 = true ∧ bits (0x800000A5 : Word) 7 0 = 0xA5 ∧ (nextOf (exec .coldReset s)).hub.flash = [(5, 1)] ∧
    (nextOf (exec .coldReset s)).eph.now = 0 ∧ (nextOf (exec (.conventionalReset .perst) s)).eph.now = 99 ∧
    (nextOf (exec (.conventionalReset .perst) s)).hub.perstN = false ∧ (nextOf (exec (.warmReset 0x800000A5) s)).hub.cause = 4 ∧
    (nextOf (exec (.warmReset 0x800000A5) s)).hub.ready = false ∧ (nextOf (exec (.warmReset 0x800000A4) s)).hub.ready = true ∧
    (nextOf (exec .rstNRelease State.reset)).hub.rstN = true ∧ (nextOf (exec .perstNRelease low)).hub.perstN = true ∧
    (nextOf (exec .stage0Done low)).hub.stage = 1 ∧ (nextOf (exec (.configRequest 0 none) low)).out = [.config 0 true none] ∧
    (s.fns[0]).pendingBits = 0 ∧ (nextOf (exec (.configRequest 0 (some ⟨true, true, false, false, 1, 3, false⟩)) s)).fns[0].master = true ∧
    (nextOf (exec (.configRequest 0 (some ⟨true, true, false, false, 1, 3, false⟩)) s)).fns[0].mrrs = 3 ∧
    ((nextOf (exec (.configRequest 0 none) s)).out.map fun o => match o with
      | .config _ _ (some r) => some (r.deviceId, r.classCode, r.totalVFs)
      | _ => none) = [some (0x0460, 0x120000, 63)] ∧
    (nextOf (exec .hrefLoss s)).hub.hrefLost = true ∧ live (nextOf (exec .hrefLoss s)) = false := by decide +kernel

/-- A board configuration. -/
def board : BoardConfig := { trefSel := 2, setpoint := 1, fallback := true, force6400 := false, portMode := Vector.replicate 8 2 }

/-- BringUp: images, LP5X, compute dies, the unit table, the time limit. -/
theorem bringUp : let s := booting 1 id
    let v := booting 3 fun h => { h with board := board }
    let done := booting 3 fun h => { h with lp5xDone := true, haloDone := true, computeDone := true, zeroDone := true, testFailed := [7] }
    slotError s.hub (.pass false 0 board) = 0 ∧ slotError s.hub (.fail 2) = 3 ∧
    (nextOf (exec (.imageVerified (.pass false 0 board) (.fail 0)) s)).eph.trefSel = 2 ∧
    (nextOf (exec (.imageVerified (.pass false 0 board) (.fail 0)) s)).hub.stage = 3 ∧
    (nextOf (exec (.imageVerified (.fail 2) (.pass false 0 board)) s)).hub.slot = true ∧
    (nextOf (exec (.imageVerified (.fail 2) (.fail 3)) s)).hub.recovery = true ∧
    (nextOf (exec (.imageVerified (.fail 2) (.fail 3)) s)).hub.errB = 4 ∧
    (nextOf (exec (.lp5xTrainingDone 1 0) v)).hub.rate6400 = true ∧ (nextOf (exec (.lp5xTrainingDone 1 0) v)).mem.lp5xPresent = true ∧
    (nextOf (exec .lp5xZeroingDone (poke 0x40 [9] (booting 3 fun h => { h with lp5xDone := true })))).mem.dpa = [] ∧
    (nextOf (exec (.computeBringupDone [7]) v)).hub.testFailed = [7] ∧
    (nextOf (exec .stage3Timeout v)).hub.stage = 15 ∧ done.hub.stage = 3 ∧ isNext (exec (.unitsBuilt 300) done) = true := by decide +kernel

/-- BringUp: flash and JTAG. -/
theorem flashAndJtag : let s := { up with hub := { up.hub with flashAddr := 0x10000, flash := [(0x10001, 3)], flashBuf := [(2, 4)] } }
    let odd := { up with hub := { up.hub with flashAddr := 0x10001 } }
    let w (op : BitVec 2) : State := { s with hub := { s.hub with flashBusy := true, flashOp := op, flashAt := 0x10000 } }
    flashAligned 0 s.hub.flashAddr = true ∧ (nextOf (exec .flashErase s)).hub.flashAt = 0x10000 ∧ (nextOf (exec .flashRead odd)).hub.flashError = true ∧
    (w 0).hub.flashBusy = true ∧ Memory.wf 0xFF (w 0).hub.flash = true ∧ (nextOf (exec (.flashOpDone true) (w 2))).hub.flash = [] ∧
    (nextOf (exec (.jtagInstruction .bypass) s)).out = [.jtag [false]] ∧ isNext (exec (.flashOpDone false) (w 1)) = true := by decide +kernel

/-- RegisterAccess: pairs, status bits, locked fields, no register, before ready, another size. -/
theorem registerAccess : let s := { up with eph := { up.eph with intStatus := 0x7F, now := 0x500000004 } }
    let held := { s with hold := [(pairKey .todNext, 7)] }
    let lock := { s with eph := { s.eph with cfgLock := true } }
    regAt ⟨.pf, 0x100010⟩ = some (.lo .ephNow) ∧ (nextOf (exec (.regPairLowRead ⟨.pf, 0x100010⟩) s)).latch = [(0x100010, 5)] ∧
    pairMask .ephNow = none ∧ regAt ⟨.pf, 0x100018⟩ = some (.lo .todNext) ∧ pairMask .todNext ≠ none ∧
    (nextOf (exec (.regPairLowWrite ⟨.pf, 0x100018⟩ 7) s)).hold = [(0x100018, 7)] ∧ regAt ⟨.pf, 0x10001C⟩ = some (.hi .todNext) ∧
    TakesCommit .todNext held ∧ (nextOf (exec (.regPairHighWrite ⟨.pf, 0x10001C⟩ 9) held)).eph.todNext = 0x900000007 ∧
    (nextOf (exec (.regPairHighWrite ⟨.pf, 0x10001C⟩ 9) held)).hold = [] ∧ regAt ⟨.pf, 0x100014⟩ = some (.hi .ephNow) ∧
    regAt ⟨.pf, 0x1FFFF0⟩ = none ∧ regAt ⟨.pf, 0x100030⟩ = some .ephIntStatus ∧ regOpen .ephIntStatus State.reset = false ∧
    (nextOf (exec (.registerWrite ⟨.pf, 0x100030⟩ 4 3) s)).eph.intStatus = 0x7C ∧ regAt ⟨.pf, 0x100020⟩ = some .ephHoldLimit ∧
    (nextOf (exec (.registerWrite ⟨.pf, 0x100020⟩ 4 3) lock)).eph.holdLimit = 600 ∧
    (nextOf (exec (.registerWrite ⟨.pf, 0x100020⟩ 4 3) s)).eph.holdLimit = 3 ∧ regOpen .ephHoldLimit s = true ∧
    hubUp s = true ∧ (nextOf (exec (.regPairLowRead ⟨.pf, 0x1FFFF0⟩) s)).out = [.readData [0, 0, 0, 0] false] ∧
    regOwn (barInst ⟨.pf, 0x100020⟩) .ephHoldLimit = false ∧ (nextOf (exec (.registerWrite ⟨.pf, 0x100020⟩ 2 3) s)).free = 2 := by
  unfold TakesCommit; decide +kernel

/-- RegisterAccess: the registers of an instance, a margin whose bounds are crossed, the request buffer, and whose they are. -/
theorem registerAccess_more : let s := up
    let w (o : Nat) (v : Word) : State := nextOf (exec (.registerWrite ⟨.pf, o⟩ 4 v) s)
    regAt ⟨.pf, 0x2400C4⟩ = some (.instSched 3) ∧ (w 0x2400C4 0x50007).inst[3].weight = 5 ∧ (w 0x2400C4 0x50007).inst[3].ageUs = 7 ∧
    regAt ⟨.pf, 0x2400C8⟩ = some (.instEng 3) ∧ (w 0x2400C8 0x50007).inst[3].wkMask = 5 ∧ regAt ⟨.pf, 0x800008⟩ = some .tideMargin ∧
    (w 0x800008 0x0505).tide = s.tide ∧ (w 0x800008 0x0605).tide.lo = 5 ∧ regAt ⟨.pf, 0x3001004⟩ = some (.nucReq 1) ∧
    Tab.get 0 (w 0x3001004 9).nuc.reqBuf 1 = 9 ∧ regOwn (barInst ⟨.pf, 0x3001004⟩) (.nucReq 1) = true ∧
    regOwn (barInst ⟨.page 3, 0x2008⟩) (.sqCtrl 3 0) = true ∧ regAt ⟨.page 3, 0x2008⟩ = some (.sqCtrl 3 0) := by decide +kernel
end Sys2Proof.Tests
end

section
/-! PROOFS. The family of 00_scope.md: register pairs, partitions and BAR windows (R9 to R12, R115, R116, R558). Both statements
range over every state, and fail in states that no history of the device is meant to lead to; each refutation writes its
state out. -/

namespace Sys2Proof.Machine

open Sys2Proof

/-! ### Register pairs before the end of stage 0 (R10, R558) -/

/-- Where the HUB block does not answer, no register does: the read of a low word is dropped. -/
theorem regPairLowRead_hubDown (a : BarAddr) (s : State) (h : hubUp s = false) : exec (.regPairLowRead a) s = .next s := by
  have harm : exec (.regPairLowRead a) s = execRegPairLowRead a s := rfl
  rw [harm, execRegPairLowRead, h, act_false]

/-- No state is itself with one more output. -/
theorem ne_output_append (s : State) (o : Output) (l : Tab Word) : s ≠ { s with out := s.out ++ [o], latch := l } := by
  intro h
  have hlen : s.out.length = (s.out ++ [o]).length := congrArg (fun t => t.out.length) h
  simp at hlen

/-- ready set while stage 0 has not ended: `live` holds and `hubUp` does not. -/
def readyBeforeStage0 : State :=
  { State.reset with hub := { State.reset.hub with rstN := true, ready := true } }

/-- Refutes O60: in a state with ready set and stage 0 not ended the device is `live`, so the statement wants EPH_NOW
returned and its high word latched; REG_PAIR_LOW_READ waits for `hubUp` and leaves the state as it is. The statement asks
`hubUp` of a read where no register stands, but not of a read of a pair. -/
theorem not_registerAccess : ¬ Obligations.RegisterAccess := by
  unfold Obligations.RegisterAccess
  intro h
  obtain ⟨hlow, -⟩ := h readyBeforeStage0 ⟨.pf, 0x100010⟩ 0
  obtain ⟨hread, -⟩ := hlow .ephNow rfl rfl
  have hwant := hread (by intro n; exact Pair.noConfusion)
  rw [regPairLowRead_hubDown _ _ rfl] at hwant
  exact ne_output_append _ _ _ (Host.Outcome.next.inj hwant)

/-! ### A commit beside a partition of width 0 (R115, R116) -/

/-- Partition 1 valid with width 0 at column 1, partition 0 not valid; held for partition 0 the rectangle of the first
three columns of row 0. -/
def besideZeroWidth : State :=
  { State.reset with
    hub := { State.reset.hub with rstN := true, stage0 := true, ready := true }
    parts := upd State.reset.parts 1 fun _ => { gx0 := 1, height := 1, valid := true }
    hold := [(partKey 0, 0x8C00)] }

/-- The rectangle held for partition 0, as a commit with valid set makes it. -/
def threeColumns : Part := { width := 3, height := 1, valid := true }

/-- The only valid partition other than 0 is the one of width 0. -/
theorem besideZeroWidth_width (m : Fin 64) (h : besideZeroWidth.parts[m.val].valid = true) :
    besideZeroWidth.parts[m.val].width = 0 := by
  by_cases hm : m = 1
  · subst hm
    simp [besideZeroWidth, upd]
  · have hne : m.val ≠ (1 : Fin 64).val := fun e => hm (Fin.ext e)
    simp [besideZeroWidth, upd_other _ _ _ m.val m.isLt hne, State.reset]

/-- Partition 0 is not valid, so it has no cores. -/
theorem besideZeroWidth_coresOf : coresOf 0 besideZeroWidth = [] := by
  have hv : besideZeroWidth.parts[0].valid = false := by decide +kernel
  simp [coresOf, hv]

/-- The commit is refused: `rectsMeet` compares bounds, and those of the two rectangles cross, although the one of width 0
holds no core. -/
theorem partitionCommit_besideZeroWidth (t : State) (h : exec (.partitionCommit 0 0x80000000) besideZeroWidth = .next t) :
    t.parts[0].valid = false := by
  have ht : partCommit 0 0x80000000 besideZeroWidth = t := Host.Outcome.next.inj h
  rw [← ht]
  decide +kernel

/-- Refutes O45: partition 1 is valid with width 0 at column 1. The three columns that the commit names share no core with
it, so the statement wants them taken; `rectsMeet` finds the bounds crossed, and the commit is refused. The statement does
not ask that the valid partitions have width and height above 0, as R116 leaves them. -/
theorem not_partitionsAndWindows : ¬ Obligations.PartitionsAndWindows := by
  unfold Obligations.PartitionsAndWindows
  intro h
  obtain ⟨hcommit, -⟩ := h besideZeroWidth (by decide +kernel)
  obtain ⟨t, ht, htaken, -⟩ :=
    hcommit 0 0x80000000 0x8C00 threeColumns (by decide +kernel) (by decide +kernel) (by decide +kernel)
  have hgood : t.parts = upd besideZeroWidth.parts 0 fun _ => threeColumns := by
    refine (htaken ?_ ?_).1
    · rintro ⟨-, hw | hh | hx | hy | ⟨m, -, hm, x, -, -, -, -, -, hlo, hhi, -⟩⟩
      · exact absurd hw (by decide)
      · exact absurd hh (by decide)
      · exact absurd hx (by decide)
      · exact absurd hy (by decide)
      · rw [besideZeroWidth_width m hm] at hhi
        exact absurd hhi (by simpa using hlo)
    · simp [besideZeroWidth_coresOf]
  have hrefused := partitionCommit_besideZeroWidth t ht
  have hvalid : t.parts[0].valid = true := by simp [hgood, upd, threeColumns]
  exact Bool.noConfusion (hrefused.symm.trans hvalid)

end Sys2Proof.Machine
end

section
/-! PROOFS. The family of 02_radio_time.md: descriptors in time (R56, R58, R76, R140). -/

namespace Sys2Proof.Machine

open Sys2Proof

/-! ### Two descriptors of one number (R58, R76) -/

/-- A NOP that waits, number 0, with these bytes of its descriptor. -/
def waitingNop (raw : BitVec 512) : Item := { id := 0, inst := 0, sq := 0, cq := 0, cls := 0, raw := raw, gen := 0 }

/-- At the time 1, two NOPs that wait under one number: the first without a deadline, the second with the deadline 1. -/
def twinNops : State :=
  { State.reset with
    hub := { State.reset.hub with rstN := true, ready := true }
    eph := { State.reset.eph with now := 1 }
    items := [waitingNop 0, waitingNop (1#512 <<< 128)] }

/-- The release makes both ready, and the deadline of the second sheds the descriptor numbered 0, which is the first. -/
theorem descriptorRelease_twinNops (t : State) (h : exec (.descriptorRelease 0) twinNops = .next t) :
    (findItem 0 t).map Item.stage = some .ended := by
  have ht : (Host.Outcome.next t : Out) = execDescriptorRelease 0 twinNops := h.symm
  have hx : execDescriptorRelease 0 twinNops =
      .next (shedReady (makeReady 0 (modItem 0 (fun x => { x with released := true }) twinNops))) := by
    have hc : (live twinNops && (waitingNop 0).stage = .waiting && !(waitingNop 0).released &&
        reached (waitingNop 0).release twinNops.eph.now && firstReleased (waitingNop 0) twinNops) = true := by decide +kernel
    exact congrArg Host.Outcome.next (if_pos hc)
  rw [Host.Outcome.next.inj (ht.trans hx)]
  decide +kernel

/-- Refutes O40: nothing in the statement keeps two descriptors from bearing one number. The first of `twinNops` has no
deadline and nothing that holds it, so the statement wants it ready after its release; the deadline of the second has
come, and the shedding of R58 names it by the number, which finds the first and ends it. -/
theorem not_descriptorsInTime : ¬ Obligations.DescriptorsInTime := by
  unfold Obligations.DescriptorsInTime
  intro h
  obtain ⟨-, -, -, hrelease, -⟩ := h twinNops (by decide +kernel)
  have hfirst : ∀ y ∈ twinNops.items, y.stage = .waiting → y.released = false →
      reached y.release twinNops.eph.now = true →
      (rtsNorm (waitingNop 0).release).toNat < (rtsNorm y.release).toNat ∨
        ((rtsNorm (waitingNop 0).release).toNat = (rtsNorm y.release).toNat ∧ (waitingNop 0).id ≤ y.id) := by
    decide +kernel
  obtain ⟨t, y, ht, hy, -, hready⟩ := hrelease 0 (waitingNop 0) rfl rfl rfl (by decide +kernel) hfirst
  obtain ⟨hstage, -⟩ := hready (by decide +kernel) (by decide +kernel) (by decide +kernel)
  have hended := descriptorRelease_twinNops t ht
  rw [hy] at hended
  have hop : ¬ (waitingNop 0).opcode = 9 := by decide +kernel
  rw [if_neg hop] at hstage
  simp [hstage] at hended

end Sys2Proof.Machine
end

section
/-! PROOFS. The issue of a core instruction: hazards, the change of the issuing core, control fields (R191). -/

namespace Sys2Proof.Machine

open Sys2Proof

/-! ### The issue of a core instruction -/

/-- Where the instruction names no slots and no ledgers, no context image keeps it from issue. -/
theorem slotsAwaited_none (k : Core) (u : Use) (hs : u.slots = []) (hl : u.ledgers = false) : slotsAwaited k u = false := by
  unfold slotsAwaited
  rw [List.any_eq_false]
  intro e _
  split <;> simp [hs, hl]

/-- An instruction meets no hazard where its registers are free of pending writes, its queue has room and the slots it
names are settled. -/
theorem noHazard_of_ready (k : Core) (u : Use) (h : NotPending k u.s u.v u.p) (hq : ∀ q, u.q = some q → QueueRoom k q u.n)
    (hs : SlotsSettled k u.slots u.ledgers) : noHazard k u = true := by
  obtain ⟨h1, h2, h3⟩ := h
  have h4 : slotsAwaited k u = false := hs
  unfold noHazard
  rw [h4]
  simp only [Bool.and_eq_true, List.all_eq_true, Bool.not_eq_true', Bool.not_false, and_true]
  refine ⟨⟨⟨h1, h2⟩, h3⟩, ?_⟩
  split
  · rfl
  · next q hu => exact decide_eq_true (hq q hu)

/-- A legal instruction of the front end that executes, whose registers are free of pending writes, has its effect. -/
theorem coreInstr_front (c : CoreId) (g : Guard) (legal : Bool) (rs vs : List (BitVec 5)) (ps : List (BitVec 3))
    (f : State → State) (s : State) (h : Executes c g s) (hl : legal = true) (hn : NotPending s.cores[c.val] rs vs ps) :
    coreInstr c g legal { s := rs, v := vs, p := ps } f s = .next (f s) := by
  subst hl
  exact coreInstr_executes c g _ f s h (noHazard_of_notPending _ _ _ _ hn)

/-- Two changes of a core that agree on it give one state. -/
theorem modCore_congr {c : CoreId} {f g : Core → Core} {s : State} (h : f s.cores[c.val] = g s.cores[c.val]) :
    modCore c f s = modCore c g s := by
  simp only [modCore, upd, h]

/-- A core as it is. -/
theorem modCore_self (c : CoreId) (s : State) : modCore c (fun k => k) s = s := by
  simp [modCore, upd]

/-- Issue after a change of the core that leaves its pc. -/
theorem advance_modCore (c : CoreId) (f : Core → Core) (s : State) (h : NotLast c s)
    (hpc : (f s.cores[c.val]).pc = s.cores[c.val].pc) :
    advance c (modCore c f s) = modCore c (fun k => (f k).issued) s := by
  rw [advance_eq, modCore_modCore]
  unfold NotLast at *
  rwa [modCore_cores, upd_same, hpc]

theorem setS_modCore (c : CoreId) (r : BitVec 5) (v : Dword) (f : Core → Core) (s : State) :
    setS c r v (modCore c f s) = modCore c (fun k => (f k).putS r v) s := by
  rw [setS_eq, modCore_modCore]

theorem setP_modCore (c : CoreId) (r : BitVec 3) (v : BitVec 16) (f : Core → Core) (s : State) :
    setP c r v (modCore c f s) = modCore c (fun k => (f k).putP r v) s := by
  rw [setP_eq, modCore_modCore]

theorem setV_modCore (c : CoreId) (r : BitVec 5) (v : BitVec 512) (f : Core → Core) (s : State) :
    setV c r v (modCore c f s) = modCore c (fun k => (f k).putV r v) s := by
  rw [setV_eq, modCore_modCore]

theorem executes_running {c : CoreId} {g : Guard} {s : State} (h : Executes c g s) : s.cores[c.val].st = .running := by
  have := h.1
  unfold canIssue at this
  simp only [Bool.and_eq_true, decide_eq_true_eq] at this
  exact this.1.2

theorem executes_stall {c : CoreId} {g : Guard} {s : State} (h : Executes c g s) : s.cores[c.val].stall = .none := by
  have := h.1
  unfold canIssue at this
  simp only [Bool.and_eq_true, decide_eq_true_eq] at this
  exact this.2

theorem executes_live {c : CoreId} {g : Guard} {s : State} (h : Executes c g s) : live s = true := by
  have := h.1
  unfold canIssue at this
  simp only [Bool.and_eq_true, decide_eq_true_eq] at this
  exact this.1.1

/-! ### Fields of control (R191) -/

/-- A control field below 2^n has none but its n low bits. -/
theorem only_of_lt {w : Nat} (x : BitVec w) (n : Nat) (h : x.toNat < 2 ^ n) : only x (2 ^ n - 1) = true := by
  unfold only
  rw [Nat.and_two_pow_sub_one_eq_mod, Nat.mod_eq_of_lt h]
  simp

theorem predX_setWidth (p : BitVec 3) : predX (p.setWidth 29) = p := by
  unfold predX
  ext i hi
  simp

theorem only_pred (p : BitVec 3) : only (p.setWidth 29) 7 = true :=
  only_of_lt _ 3 (by rw [BitVec.toNat_setWidth]; have := p.isLt; omega)

end Sys2Proof.Machine
end

section
/-! PROOFS. What leaves by the fabric: lanes, requests of a core, coalescing WRITEs (R459 to R469). -/

namespace Sys2Proof.Machine

open Sys2Proof

/-! ### What leaves by the fabric (R459 to R469) -/

/-- Only lanes, ports and what has been sent may differ: the requests that await an answer stand as they were. -/
def OnlyLanes (s t : State) : Prop :=
  t = { s with fab := t.fab, out := t.out } ∧ t.fab.reqs = s.fab.reqs ∧ t.fab.nextReq = s.fab.nextReq

theorem OnlyLanes.refl (s : State) : OnlyLanes s s := ⟨rfl, rfl, rfl⟩

theorem OnlyLanes.trans {s t u : State} (h : OnlyLanes s t) (k : OnlyLanes t u) : OnlyLanes s u := by
  obtain ⟨h1, h2, h3⟩ := h
  obtain ⟨k1, k2, k3⟩ := k
  refine ⟨?_, k2.trans h2, k3.trans h3⟩
  rw [k1, h1]

theorem OnlyLanes.cores {s t : State} (h : OnlyLanes s t) : t.cores = s.cores := by rw [h.1]
theorem OnlyLanes.mem {s t : State} (h : OnlyLanes s t) : t.mem = s.mem := by rw [h.1]
theorem OnlyLanes.reqs {s t : State} (h : OnlyLanes s t) : t.fab.reqs = s.fab.reqs := h.2.1
theorem OnlyLanes.nextReq {s t : State} (h : OnlyLanes s t) : t.fab.nextReq = s.fab.nextReq := h.2.2

theorem modPort_onlyLanes (p : Fin 8) (f : Port → Port) (s : State) : OnlyLanes s (modPort p f s) := ⟨rfl, rfl, rfl⟩
theorem modLane_onlyLanes (l : Fin 32) (f : Lane → Lane) (s : State) : OnlyLanes s (modLane l f s) := ⟨rfl, rfl, rfl⟩
theorem emit_onlyLanes (o : Output) (s : State) : OnlyLanes s (emit o s) := ⟨rfl, rfl, rfl⟩

theorem sendFlits_onlyLanes (l : Fin 32) (fs : List (Vector (BitVec 128) 8)) (s : State) : OnlyLanes s (sendFlits l fs s) := by
  unfold sendFlits
  induction fs generalizing s with
  | nil => exact .refl s
  | cons f t ih => exact ((modLane_onlyLanes l _ s).trans (emit_onlyLanes _ _)).trans (ih _)

theorem portSend_onlyLanes (p : Fin 8) (s t : State) (h : portSend p s = some t) : OnlyLanes s t := by
  unfold portSend at h
  simp only at h
  split at h
  · cases h
  · split at h
    · cases h
    · rw [← Option.some.inj h]
      exact (((modPort_onlyLanes _ _ _).trans (modLane_onlyLanes _ _ _)).trans (sendFlits_onlyLanes _ _ _)).trans
        (emit_onlyLanes _ _)

theorem portPump_onlyLanes (n : Nat) (p : Fin 8) (s : State) : OnlyLanes s (portPump n p s) := by
  induction n generalizing s with
  | zero => exact .refl s
  | succ n ih =>
    unfold portPump
    split
    · exact .refl s
    · next t h => exact (portSend_onlyLanes p s t h).trans (ih t)

theorem portQueue_onlyLanes (p : Fin 8) (m : Msg) (s : State) : OnlyLanes s (portQueue p m s) :=
  (modPort_onlyLanes p _ s).trans (portPump_onlyLanes _ p _)

/-- A message with hops left, to a node that a route serves, leaves. -/
theorem routeOut_onlyLanes (m : Msg) (s : State) (hm : m.hops ≠ 1) (hp : (pickPort m.dst s).isSome = true) :
    (routeOut m s).1 = none ∧ OnlyLanes s (routeOut m s).2 := by
  have hz : ¬ m.hops - 1 = 0 := by
    intro h
    apply hm
    have := congrArg (· + 1) h
    simpa using this
  obtain ⟨p, hp⟩ := Option.isSome_iff_exists.1 hp
  unfold routeOut
  simp only [if_neg hz, hp]
  exact ⟨trivial, portQueue_onlyLanes _ _ _⟩

/-- A request of a core to another node leaves. -/
theorem launchReq_onlyLanes (c : CoreId) (m : Msg) (s : State) (hd : m.dst ≠ s.fab.node) (hm : m.hops ≠ 1)
    (hp : (pickPort m.dst s).isSome = true) : OnlyLanes s (launchReq c m s) := by
  obtain ⟨h1, h2⟩ := routeOut_onlyLanes m s hm hp
  unfold launchReq
  rw [if_neg hd]
  split
  · next h => rw [h] at h2; exact h2
  · next h => rw [h] at h1; cases h1

/-- Routing looks at the fabric's state and the units alone. -/
theorem pickPort_same {s t : State} (dst : BitVec 16) (h1 : t.fab.routes = s.fab.routes) (h2 : t.fab.ports = s.fab.ports)
    (h3 : t.fab.node = s.fab.node) (h4 : t.fab.adaptThr = s.fab.adaptThr) (h5 : t.nuc = s.nuc) :
    pickPort dst t = pickPort dst s := by
  unfold pickPort portInService unitsQueued unitClosed
  rw [h1, h2, h3, h4, h5]

/-! ### Requests of a core (R464 to R467) -/

/-- Without a coalescing WRITE there is none to close. -/
theorem closeWrite_none (c : CoreId) (s : State) (h : s.cores[c.val].coalesce = none) : closeWrite c s = s := by
  unfold closeWrite
  rw [h]

theorem closing_none (c : CoreId) (f : State → State) (s : State) (h : s.cores[c.val].coalesce = none)
    (hr : s.cores[c.val].st = .running) : closing c f s = f s := by
  unfold closing
  rw [closeWrite_none c s h, if_pos hr]

/-- The partition of a core and its `InstId` do not depend on the cores or the fabric. -/
theorem coreInst_same {s t : State} (c : CoreId) (h : t.parts = s.parts) : coreInst c t = coreInst c s := by
  unfold coreInst partOf
  rw [h]

/-- Nothing waits, so no request is held back. -/
theorem remoteBusy_none (c : CoreId) (r : RemoteReq) (s : State) (h : s.fab.reqs = []) : remoteBusy c r s = false := by
  unfold remoteBusy
  simp [h]

/-- A core that may use the fabric may issue below 2^40. -/
theorem remoteOk_of_route {c : CoreId} {node : BitVec 16} {dom : Byte} {s : State} (h : RouteOpen c node dom s) (a : Dword)
    (ha : a.toNat < 2 ^ 40) : remoteOk c a s = some dom := by
  obtain ⟨h1, h2, -⟩ := h
  unfold remoteOk domainOf
  rw [if_pos ha, if_pos h1, h2]

/-- A route stays open while the partitions, the instances, the units and the fabric are as they were. -/
theorem RouteOpen.same {c : CoreId} {node : BitVec 16} {dom : Byte} {s t : State} (h : RouteOpen c node dom s)
    (h1 : t.parts = s.parts) (h2 : t.inst = s.inst) (h3 : t.nuc = s.nuc) (h4 : t.fab = s.fab) : RouteOpen c node dom t := by
  unfold RouteOpen at *
  simp only [coreInst_same c h1, pickPort_same node (congrArg Fab.routes h4) (congrArg Fab.ports h4) (congrArg Fab.node h4)
    (congrArg Fab.adaptThr h4) h3, h2, h4]
  exact h

/-- The request that a core has just sent under the next number: the one outstanding. -/
def Requested (c : CoreId) (dom : Byte) (r : RemoteReq) (s t : State) : Prop :=
  t.fab.nextReq = s.fab.nextReq + 1 ∧
    t.fab.reqs = [{ id := s.fab.nextReq, owner := .core c .ni, msg := reqMsg dom s.fab.nextReq r s }] ∧ t.mem = s.mem

/-- A request that is registered leaves by an open route: the core notes it, but for a READ (R44, R467). -/
theorem sendReqs_one (c : CoreId) (dom : Byte) (r : RemoteReq) (s : State) (h : RouteOpen c r.node dom s) :
    Requested c dom r s (sendReqs c .ni dom [(s.fab.nextReq, r)] s) ∧
      (sendReqs c .ni dom [(s.fab.nextReq, r)] s).cores = (if r.type = 0x02 then s else noteCore c s).cores := by
  obtain ⟨-, -, hnode, hhop, hport, hreqs⟩ := h
  have key : ∀ u : State, u.fab = { s.fab with reqs := [⟨s.fab.nextReq, .core c .ni, reqMsg dom s.fab.nextReq r s, 0⟩], nextReq := s.fab.nextReq + 1 } →
      u.nuc = s.nuc → u.mem = s.mem → Requested c dom r s (launchReq c (reqMsg dom s.fab.nextReq r s) u) ∧
        (launchReq c (reqMsg dom s.fab.nextReq r s) u).cores = u.cores := by
    intro u h1 h2 h3
    have h4 := launchReq_onlyLanes c (reqMsg dom s.fab.nextReq r s) u (by rw [h1]; exact hnode) hhop
      ((congrArg Option.isSome (pickPort_same r.node (by rw [h1]) (by rw [h1]) (by rw [h1]) (by rw [h1]) h2)).trans hport)
    exact ⟨⟨by rw [h4.nextReq, h1], by rw [h4.reqs, h1], by rw [h4.mem, h3]⟩, h4.cores⟩
  unfold sendReqs sendReqs
  simp only [hreqs, List.nil_append]
  split
  · exact key _ rfl rfl rfl
  · exact key _ rfl rfl rfl

/-- What an instruction with one remote request leaves: the request outstanding, its entry in the NI queue waiting for the
answer, and the core as issue leaves it; all but a READ count as an effect of the program (R44, R465). -/
theorem issueRemote_one (c : CoreId) (a : Dword) (e : QEntry) (dom : Byte) (r : RemoteReq) (s : State)
    (hr : s.cores[c.val].st = .running) (hl : NotLast c s) (hk : s.cores[c.val].coalesce = none) (ha : a.toNat < 2 ^ 40)
    (h : RouteOpen c r.node dom s) :
    Requested c dom r s (issueRemote c .ni a e [r] s) ∧
      (issueRemote c .ni a e [r] s).cores = (modCore c Core.issued
        (let u := enqueue c .ni { e with parts := [(s.fab.nextReq, none)], reqs := 1 } s
         if r.type = 0x02 then u else noteCore c u)).cores := by
  unfold issueRemote
  rw [remoteOk_of_route h a ha]
  simp only [closeWrite_none c s hk, List.any_cons, List.any_nil, remoteBusy_none c r s h.2.2.2.2.2, Bool.or_false,
    if_false, Bool.false_eq_true]
  have hid : nextIds 1 s = [s.fab.nextReq] := by simp [nextIds]
  simp only [List.length_singleton, hid, List.map_cons, List.map_nil, List.zip_cons_cons, List.zip_nil_left]
  unfold issued
  rw [if_pos hr, advance_eq c _ (by unfold NotLast at *; simpa [enqueue] using hl)]
  generalize hu : modCore c Core.issued (enqueue c .ni { e with parts := [(s.fab.nextReq, none)], reqs := 1 } s) = u
  have hf : u.fab = s.fab := by rw [← hu]; rfl
  have hs := sendReqs_one c dom r u (h.same (by rw [← hu]; rfl) (by rw [← hu]; rfl) (by rw [← hu]; rfl) hf)
  rw [hf] at hs
  obtain ⟨⟨h1, h2, h3⟩, h4⟩ := hs
  refine ⟨⟨by rw [h1, hf], by rw [h2, hf]; simp [reqMsg, hf], by rw [h3, ← hu]; rfl⟩, ?_⟩
  rw [h4, ← hu]
  split
  · rfl
  · simp only [noteCore, modCore_modCore]
    congr 1
    apply modCore_congr
    unfold Core.issued
    split <;> rfl

/-! ### A coalescing WRITE that closes (R466) -/

/-- The request that a coalescing WRITE becomes. -/
def writeReq (g : Coalesce) : RemoteReq :=
  { node := g.node, type := 0x01, flags := 0, arg := 0, addr := BitVec.ofNat 64 g.addr, payload := g.data }

/-- The core once its WRITE no longer coalesces. -/
def Core.closed (k : Core) : Core := { k with coalesce := none }

/-- A WRITE that closes leaves for its node, and counts as an effect of the program. -/
theorem closeWrite_open (c : CoreId) (g : Coalesce) (dom : Byte) (s : State) (hg : s.cores[c.val].coalesce = some g)
    (h : RouteOpen c g.node dom s) :
    OnlyLanes { modCore c (fun k => k.closed.noted (stampNow s)) s with
      fab := { s.fab with reqs := [⟨g.req, .core c .ni, reqMsg dom g.req (writeReq g) s, 0⟩] } } (closeWrite c s) := by
  obtain ⟨hen, hdom, hnode, hhop, hport, hreqs⟩ := h
  unfold closeWrite
  simp only [hg]
  generalize hu : noteCore c (modCore c _ s) = u
  have h1 : u = modCore c (fun k => k.closed.noted (stampNow s)) s := by
    rw [← hu, noteCore, modCore_modCore]
    rfl
  have hd : domainOf (coreInst c u) u = some dom := by
    rw [h1]
    unfold domainOf
    simp only [coreInst_same (s := s) c (show (modCore c (fun k => k.closed.noted (stampNow s)) s).parts = s.parts from rfl),
      modCore_inst, modCore_fab, hen, hdom, if_true]
  simp only [hd]
  have hr : u.fab = s.fab := by rw [h1]; rfl
  have hm : reqMsg dom g.req { node := g.node, type := 0x01, flags := 0, arg := 0, addr := BitVec.ofNat 64 g.addr, payload := g.data } u =
      reqMsg dom g.req (writeReq g) s := by
    unfold reqMsg
    rw [hr]
    rfl
  rw [hm, hr, hreqs, List.nil_append, ← h1]
  have hroute : ∀ (rs : List FabReq) (v : State), v.fab = { s.fab with reqs := rs } → v.nuc = s.nuc →
      (pickPort g.node v).isSome = true := by
    intro rs v hv hn
    rw [pickPort_same (s := s) g.node (by rw [hv]) (by rw [hv]) (by rw [hv]) (by rw [hv]) hn]
    exact hport
  exact launchReq_onlyLanes c (reqMsg dom g.req (writeReq g) s) _ hnode hhop (hroute _ _ rfl (by rw [h1]; rfl))

end Sys2Proof.Machine
end

section
/-! PROOFS. What barriers and exceptions leave alone (R172, R184). -/

namespace Sys2Proof.Machine

open Sys2Proof

/-! ### What barriers leave alone (R172) -/

/-- Core c is as it was, and so are the queues of the work bins. -/
def KeepsCore (c : CoreId) (s t : State) : Prop :=
  t.cores[c.val] = s.cores[c.val] ∧ ∀ d : Fin 4, t.dies[d.val].queues = s.dies[d.val].queues

theorem KeepsCore.refl (c : CoreId) (s : State) : KeepsCore c s s := ⟨rfl, fun _ => rfl⟩

theorem KeepsCore.trans {c : CoreId} {s t u : State} (h : KeepsCore c s t) (k : KeepsCore c t u) : KeepsCore c s u :=
  ⟨k.1.trans h.1, fun d => (k.2 d).trans (h.2 d)⟩

theorem KeepsCore.of_access {c : CoreId} {s t : State} (h : OnlyAccess s t) : KeepsCore c s t := by
  refine ⟨by rw [h.1], fun d => by rw [h.2 d]⟩

/-- A change of another core. -/
theorem KeepsCore.modCore {c k : CoreId} (h : c ≠ k) (f : Core → Core) (s : State) : KeepsCore c s (modCore k f s) := by
  refine ⟨?_, fun _ => rfl⟩
  rw [modCore_cores, upd_other _ _ _ _ c.isLt fun e => h (Fin.ext e)]

/-- The exception of another core. -/
theorem raiseOne_keepsCore {c k : CoreId} (h : c ≠ k) (cause : Cause) (pc : BitVec 17) (glob : Bool) (addr : Dword) (s : State) :
    KeepsCore c s (raiseOne k cause pc glob addr s) := by
  unfold raiseOne
  split
  · refine (KeepsCore.modCore h (faultCore cause pc glob addr) s).trans ?_
    refine KeepsCore.trans ?_ (.of_access (onlyAccess.logBoth _ _ _ _ _ _))
    split
    · exact .refl c _
    · exact ⟨rfl, fun _ => rfl⟩
  · exact .refl c s

/-- The release of a core from a barrier leaves alone one that waits at none. -/
theorem barRelease_keepsCore (c k : CoreId) (b : Fin 4) (s : State) (h : ∀ b, s.cores[c.val].stall ≠ .bar b) :
    KeepsCore c s (barRelease b k s) := by
  unfold barRelease
  by_cases e : c = k
  · subst e
    simp only [if_neg (h b)]
    exact .refl c s
  · dsimp only
    split
    · have h1 : KeepsCore c s (countIssue k (modCore k (fun x => { x with stall := .none, arrived := x.arrived &&& ~~~(1#4 <<< b.val) }) s)) :=
        (KeepsCore.modCore e _ s).trans (KeepsCore.modCore e _ _)
      split
      · exact h1.trans (KeepsCore.modCore e _ _)
      · exact h1.trans (raiseOne_keepsCore e _ _ _ _ _)
    · exact .refl c s

/-- Steps that leave alone a core that waits at no barrier, repeated. -/
theorem foldl_keepsCore {α : Type} (c : CoreId) (f : State → α → State)
    (hf : ∀ s x, (∀ b, s.cores[c.val].stall ≠ .bar b) → KeepsCore c s (f s x)) (l : List α) (s : State)
    (h : ∀ b, s.cores[c.val].stall ≠ .bar b) : KeepsCore c s (l.foldl f s) := by
  induction l generalizing s with
  | nil => exact .refl c s
  | cons x t ih =>
    have h1 := hf s x h
    exact h1.trans (ih _ (by rw [h1.1]; exact h))

theorem barCheck_keepsCore (c : CoreId) (n : Fin 64) (b : Fin 4) (s : State) (h : ∀ b, s.cores[c.val].stall ≠ .bar b) :
    KeepsCore c s (barCheck n b s) := by
  unfold barCheck
  simp only
  split
  · exact foldl_keepsCore c _ (fun s k h => barRelease_keepsCore c k b s h) _ s h
  · exact .refl c s

theorem barriers_keepsCore (c : CoreId) (n : Fin 64) (s : State) (h : ∀ b, s.cores[c.val].stall ≠ .bar b) :
    KeepsCore c s (barriers n s) := by
  unfold barriers
  exact foldl_keepsCore c _ (fun s _ h => foldl_keepsCore c _ (fun s b h => barCheck_keepsCore c n b s h) _ s h) _ s h

theorem leftRunning_keepsCore (c k : CoreId) (s : State) (h : ∀ b, s.cores[c.val].stall ≠ .bar b) :
    KeepsCore c s (leftRunning k s) := by
  unfold leftRunning
  split
  · exact barriers_keepsCore c _ s h
  · exact .refl c s

/-! ### What an exception leaves (R184) -/

/-- A core that raises an exception is as `faultCore` leaves it. -/
theorem raiseAt_core (c : CoreId) (cause : Cause) (pc : BitVec 17) (glob : Bool) (addr : Dword) (s : State)
    (h : s.cores[c.val].st = .running) :
    (raiseAt c cause pc glob addr s).cores[c.val] = faultCore cause pc glob addr s.cores[c.val] ∧
      ∀ d : Fin 4, (raiseAt c cause pc glob addr s).dies[d.val].queues = s.dies[d.val].queues := by
  have h1 : (raiseOne c cause pc glob addr s).cores[c.val] = faultCore cause pc glob addr s.cores[c.val] ∧
      ∀ d : Fin 4, (raiseOne c cause pc glob addr s).dies[d.val].queues = s.dies[d.val].queues := by
    unfold raiseOne
    rw [if_pos h]
    have h2 : ∀ u : State, u.cores = (modCore c (faultCore cause pc glob addr) s).cores → u.dies = s.dies → ∀ t, OnlyAccess u t →
        t.cores[c.val] = faultCore cause pc glob addr s.cores[c.val] ∧ ∀ d : Fin 4, t.dies[d.val].queues = s.dies[d.val].queues := by
      intro u hu hd t ht
      refine ⟨?_, fun d => by rw [ht.2 d, hd]⟩
      rw [ht.1]
      simp only [hu, modCore_cores, upd_same]
    refine h2 _ ?_ ?_ _ (onlyAccess.logBoth _ _ _ _ _ _)
    · split <;> rfl
    · split <;> rfl
  unfold raiseAt
  rw [if_pos h]
  obtain ⟨h2, h3⟩ := leftRunning_keepsCore c c (raiseOne c cause pc glob addr s) (by rw [h1.1]; intro b; simp [faultCore])
  exact ⟨h2.trans h1.1, fun d => (h3 d).trans (h1.2 d)⟩

theorem raise_core (c : CoreId) (cause : Cause) (glob : Bool) (addr : Dword) (s : State) (h : s.cores[c.val].st = .running) :
    (raise c cause glob addr s).cores[c.val] = faultCore cause s.cores[c.val].pc glob addr s.cores[c.val] ∧
      ∀ d : Fin 4, (raise c cause glob addr s).dies[d.val].queues = s.dies[d.val].queues :=
  raiseAt_core c cause _ glob addr s h

/-- A core that is as `faultCore` leaves it has stopped in an exception; its registers and memory stand as in any state that
agrees with it there. -/
theorem faulted_of_core {c : CoreId} {cause : Cause} {code : Byte} {glob : Bool} {addr : Dword} {s t : State} {k : Core}
    (h : t.cores[c.val] = faultCore cause k.pc glob addr k) (hcode : causeCode cause = code) (hpc : k.pc = s.cores[c.val].pc)
    (hs : k.s = s.cores[c.val].s) (hv : k.v = s.cores[c.val].v) (hp : k.p = s.cores[c.val].p) (hm : k.mem = s.cores[c.val].mem) :
    Faulted c code glob addr s t := by
  unfold Faulted
  rw [h]
  exact ⟨rfl, rfl, hcode, rfl, rfl, hpc, hs, hv, hp, hm⟩

/-- An exception of the instruction that issues stops the core at it. -/
theorem raise_faulted (c : CoreId) (cause : Cause) (code : Byte) (glob : Bool) (addr : Dword) (s : State)
    (h : s.cores[c.val].st = .running) (hcode : causeCode cause = code) : Faulted c code glob addr s (raise c cause glob addr s) :=
  faulted_of_core (raise_core c cause glob addr s h).1 hcode rfl rfl rfl rfl rfl

end Sys2Proof.Machine
end

section
/-! PROOFS. Radio time and order at a core (R47, R48, R172, R205, R210). -/

namespace Sys2Proof.Machine

open Sys2Proof

/-! ### Times (R42, R44) -/

theorem passed_eq_false_iff (a now : Rts) : passed a now = false ↔ LeaseOpen a now := by
  unfold passed rtsField LeaseOpen
  by_cases h : a = 0
  · simp [h]
  · rw [if_neg h, or_iff_right h]
    simp

/-! ### GETT, WAITT, TCHK, the SYNC NOP (R47, R48, R205) -/

theorem gett_executes (c : CoreId) (w : RFmt) (s : State) (p : BitVec 3) (h : Executes c w.g s) (hl : NotLast c s)
    (hb : w.b = 0) (hc : w.c = 0) (hn : NotPending s.cores[c.val] [w.d] [] [p]) (ha : w.a = 0) (hx : w.x = p.setWidth 29) :
    exec (.gett c w) s = .next (modCore c (fun k =>
      ((k.putS w.d s.eph.now).putP p (if s.eph.st = .locked then 0xFFFF else 0)).issued) s) := by
  have harm : exec (.gett c w) s = execGett c w s := rfl
  have hp : predX w.x = p := by rw [hx, predX_setWidth]
  rw [harm, execGett, hp, coreInstr_front c w.g _ _ _ _ _ s h (by simp [ha, hb, hc, hx, only_pred]) hn,
    setS_eq, setP_modCore, advance_modCore _ _ _ hl (by simp)]
  simp [truth]

/-- A predicate written at issue. -/
theorem advance_setP (c : CoreId) (p : BitVec 3) (v : BitVec 16) (s : State) (hl : NotLast c s) :
    advance c (setP c p v s) = modCore c (fun k => (k.putP p v).issued) s := by
  rw [setP_eq, advance_modCore _ _ _ hl rfl]

theorem waitt_executes (c : CoreId) (w : RFmt) (s : State) (p : BitVec 3) (h : Executes c w.g s)
    (hb : w.b = 0) (hc : w.c = 0) (hn : NotPending s.cores[c.val] [w.a] [] [p]) (hd : w.d = 0) (hx : w.x = p.setWidth 29) :
    exec (.waitt c w) s = .next (
      if (rtsNorm (sreg s.cores[c.val] w.a)).toNat ≤ s.eph.now.toNat then advance c (setP c p 0xFFFF s)
      else modCore c (fun k => { k.putP p 0 with stall := .waitt (rtsNorm (sreg s.cores[c.val] w.a)) }) s) := by
  have harm : exec (.waitt c w) s = execWaitt c w s := rfl
  have hp : predX w.x = p := by rw [hx, predX_setWidth]
  rw [harm, execWaitt, hp, coreInstr_front c w.g _ _ _ _ _ s h (by simp [hd, hb, hc, hx, only_pred]) hn]
  simp only [setP_eq, modCore_modCore]
  rfl

theorem tchk_executes (c : CoreId) (w : RFmt) (s : State) (p : BitVec 3) (h : Executes c w.g s) (hl : NotLast c s)
    (hb : w.b = 0) (hc : w.c = 0) (hn : NotPending s.cores[c.val] [w.a] [] [p]) (hd : w.d = 0) (hx : w.x = p.setWidth 29) :
    exec (.tchk c w) s = .next (modCore c (fun k =>
      (k.putP p (truth (!passed (sreg s.cores[c.val] w.a) s.eph.now))).issued) s) := by
  have harm : exec (.tchk c w) s = execTchk c w s := rfl
  have hp : predX w.x = p := by rw [hx, predX_setWidth]
  rw [harm, execTchk, hp, coreInstr_front c w.g _ _ _ _ _ s h (by simp [hd, hb, hc, hx, only_pred]) hn,
    advance_setP _ _ _ _ hl]

theorem syncNop_executes (c : CoreId) (w : RFmt) (s : State) (h : Executes c w.g s) (hl : NotLast c s) (hb : w.b = 0)
    (hc : w.c = 0) (hd : w.d = 0) (ha : w.a = 0) (hx : w.x = 0) :
    exec (.syncNop c w) s = .next (modCore c Core.issued s) := by
  have harm : exec (.syncNop c w) s = execSyncNop c w s := rfl
  have hn : NotPending s.cores[c.val] [] [] [] := by simp [NotPending]
  rw [harm, execSyncNop, coreInstr_front c w.g _ _ _ _ _ s h (by simp [hd, ha, hb, hc, hx]) hn, advance_eq c s hl]

/-! ### FENCE (R210) -/

/-- What a FENCE over these queues leaves of its core: it goes on once they are done, and waits otherwise. -/
def Core.fenced (m : BitVec 5) (k : Core) : Core := if queuesDone m k then k.issued else { k with stall := .fence m }

theorem resume_fence (c : CoreId) (m : BitVec 5) (s : State) (hl : NotLast c s) (hs : s.cores[c.val].stall = .none) :
    resume c (modCore c (fun k => { k with stall := .fence m }) s) = modCore c (Core.fenced m) s := by
  unfold resume
  simp only [modCore_cores, upd_same]
  have hq : queuesDone m { s.cores[c.val] with stall := .fence m } = queuesDone m s.cores[c.val] := rfl
  rw [hq]
  split
  · next h =>
    rw [modCore_modCore, advance_modCore _ _ _ hl rfl]
    apply modCore_congr
    rw [Core.fenced, if_pos h, ← hs]
  · next h =>
    apply modCore_congr
    rw [Core.fenced, if_neg h]

theorem syncFence_executes (c : CoreId) (w : RFmt) (s : State) (h : Executes c w.g s) (hb : w.b = 0) (hc : w.c = 0)
    (hd : w.d = 0) (ha : w.a = 0) (hx : w.x.toNat < 32) :
    exec (.syncFence c w) s = .next (closing c (fun s =>
      resume c (modCore c (fun k => { k with stall := .fence (w.x.setWidth 5) }) s)) s) := by
  have harm : exec (.syncFence c w) s = execSyncFence c w s := rfl
  have hn : NotPending s.cores[c.val] [] [] [] := by simp [NotPending]
  rw [harm, execSyncFence, coreInstr_front c w.g _ _ _ _ _ s h
    (by simpa [hd, ha, hb, hc] using only_of_lt w.x 5 hx) hn]

/-- A FENCE of a core whose WRITE coalesces: the WRITE leaves, then the FENCE looks at the queues. -/
theorem closing_fence (c : CoreId) (m : BitVec 5) (g : Coalesce) (dom : Byte) (s : State) (hl : NotLast c s)
    (hr : s.cores[c.val].st = .running) (hs : s.cores[c.val].stall = .none) (hg : s.cores[c.val].coalesce = some g)
    (h : RouteOpen c g.node dom s) :
    ∃ t, closing c (fun s => resume c (modCore c (fun k => { k with stall := .fence m }) s)) s = t ∧
      t.fab.reqs = [{ id := g.req, owner := .core c .ni, msg := reqMsg dom g.req (writeReq g) s }] ∧ t.mem = s.mem ∧
      t.cores = (modCore c (fun k => Core.fenced m (k.closed.noted (stampNow s))) s).cores := by
  have hw := closeWrite_open c g dom s hg h
  have hcore : (closeWrite c s).cores[c.val] = s.cores[c.val].closed.noted (stampNow s) := by
    simp only [hw.cores, modCore_cores, upd_same]
  refine ⟨_, rfl, ?_⟩
  unfold closing
  rw [if_pos (by rw [hcore]; exact hr)]
  beta_reduce
  rw [resume_fence c m _ (by unfold NotLast at *; rw [hcore]; exact hl) (by rw [hcore]; exact hs)]
  refine ⟨hw.reqs, hw.mem, ?_⟩
  simp only [modCore_cores, hw.cores, upd_upd]

/-! ### BAR (R172) -/

/-- The core that a barrier lets go on after its BAR. -/
def Core.freed (b : Fin 4) (k : Core) : Core := { k.issued with stall := .none, arrived := k.arrived &&& ~~~(1#4 <<< b.val) }

theorem mem_coresOf (c : CoreId) (n : Fin 64) (s : State) (h : partOf c s = some n) : c ∈ coresOf n s := by
  have := List.find?_some h
  simp only [coresOf, List.mem_filter, List.mem_finRange, true_and]
  exact this

theorem coresOf_nodup (n : Fin 64) (s : State) : (coresOf n s).Nodup := by
  unfold coresOf
  exact List.Nodup.filter _ (List.nodup_finRange _)

theorem coresOf_same {s t : State} (n : Fin 64) (h : t.parts = s.parts) : coresOf n t = coresOf n s := by
  unfold coresOf
  rw [h]

/-- A barrier at which a core of the partition is still missing releases none. -/
theorem barCheck_missing (n : Fin 64) (b : Fin 4) (s : State)
    (h : ∃ k ∈ coresOf n s, atBarrier b s.cores[k.val] = false) : barCheck n b s = s := by
  obtain ⟨k, hk, hb⟩ := h
  unfold barCheck
  dsimp only
  rw [if_neg]
  rw [List.all_eq_true]
  intro hall
  rw [hall k hk] at hb
  cases hb

/-- Steps none of which changes a state leave it. -/
theorem foldl_still {α : Type} (f : State → α → State) (s : State) (l : List α) (h : ∀ x, f s x = s) : l.foldl f s = s :=
  List.foldl_fixed' h l

theorem barriers_missing (n : Fin 64) (s : State) (h : ∀ b, ∃ k ∈ coresOf n s, atBarrier b s.cores[k.val] = false) :
    barriers n s = s := by
  have hround : ∀ l : List (Fin 4), l.foldl (fun s b => barCheck n b s) s = s :=
    fun l => foldl_still _ s l fun b => barCheck_missing n b s (h b)
  unfold barriers
  generalize List.range 4 = rounds
  exact foldl_still _ s rounds fun _ => hround _

/-- Steps of which one alone changes anything, and after which none does. -/
theorem foldl_reaches {σ α : Type} (f : σ → α → σ) (s t : σ) (x : α) (l : List α) (hx : x ∈ l) (h1 : ∀ y, y ≠ x → f s y = s)
    (h2 : f s x = t) (h3 : ∀ y, f t y = t) : l.foldl f s = t := by
  induction l with
  | nil => cases hx
  | cons y l ih =>
    by_cases e : y = x
    · rw [List.foldl_cons, e, h2]
      exact List.foldl_fixed' h3 _
    · rw [List.foldl_cons, h1 y e]
      exact ih ((List.mem_cons.1 hx).resolve_left fun q => e q.symm)

/-- The core at its BAR. -/
def Core.atBar (b : Fin 4) (k : Core) : Core := { k with stall := .bar b, arrived := 1#4 <<< b.val }

/-- What the release of a barrier does to a core: it goes on where it waits there. -/
def Core.released (b : Fin 4) (k : Core) : Core := if k.stall = .bar b then k.freed b else k

theorem Core.released_atBar (b : Fin 4) (k : Core) : (k.atBar b).released b = (k.atBar b).freed b := if_pos rfl

theorem barRelease_notLast (b : Fin 4) (k : CoreId) (s : State) (h : s.cores[k.val].stall = .bar b → NotLast k s) :
    barRelease b k s = modCore k (Core.released b) s := by
  unfold barRelease
  dsimp only
  split
  · next e =>
    have hl := h e
    unfold NotLast at hl
    rw [if_pos hl, countIssue, modCore_modCore, modCore_modCore]
    apply modCore_congr
    rw [Core.released, if_pos e]
    simp only [Core.freed, Core.issued]
    split <;> rfl
  · next e =>
    rw [← modCore_self k s, modCore_modCore]
    apply modCore_congr
    rw [Core.released, if_neg e]

/-- The cores of a list are released, each once. -/
def releasedAll (b : Fin 4) (ks : List CoreId) (s : State) : State :=
  { s with cores := Vector.ofFn fun i : Fin 576 => if i ∈ ks then s.cores[i.val].released b else s.cores[i.val] }

theorem releasedAll_cores (b : Fin 4) (ks : List CoreId) (s : State) (i : CoreId) :
    (releasedAll b ks s).cores[i.val] = if i ∈ ks then s.cores[i.val].released b else s.cores[i.val] := by
  simp [releasedAll]

theorem releasedAll_parts (b : Fin 4) (ks : List CoreId) (s : State) : (releasedAll b ks s).parts = s.parts := by
  rw [releasedAll]

/-- A barrier that is complete releases its cores. -/
theorem foldl_barRelease (b : Fin 4) (ks : List CoreId) (s : State) (hd : ks.Nodup)
    (h : ∀ k ∈ ks, s.cores[k.val].stall = .bar b → NotLast k s) :
    ks.foldl (fun s k => barRelease b k s) s = releasedAll b ks s := by
  induction ks generalizing s with
  | nil => simp [releasedAll]
  | cons k ks ih =>
    obtain ⟨hk, hd⟩ := List.nodup_cons.1 hd
    have hother : ∀ j : CoreId, j ≠ k → (modCore k (Core.released b) s).cores[j.val] = s.cores[j.val] := by
      intro j hj
      rw [modCore_cores, upd_other _ _ _ _ j.isLt fun q => hj (Fin.ext q)]
    have hne : ∀ j ∈ ks, j ≠ k := fun j hj e => hk (e ▸ hj)
    rw [List.foldl_cons, barRelease_notLast b k s (h k List.mem_cons_self), ih _ hd]
    · refine congrArg (fun v => ({ s with cores := v } : State)) (Vector.ext fun j hj => ?_)
      have := releasedAll_cores b ks (modCore k (Core.released b) s) ⟨j, hj⟩
      simp only [releasedAll] at this
      rw [this]
      simp only [Vector.getElem_ofFn, List.mem_cons]
      by_cases e : (⟨j, hj⟩ : CoreId) = k
      · subst e
        have hs := upd_same s.cores ⟨j, hj⟩ (Core.released b)
        simp only at hs
        simp only [hk, true_or, if_true, if_false, modCore_cores, hs]
      · have ho := hother ⟨j, hj⟩ e
        simp only at ho
        simp only [e, false_or, ho]
    · intro j hj q
      unfold NotLast
      rw [hother j (hne j hj)] at q ⊢
      exact h j (List.mem_cons_of_mem _ hj) q

theorem bar_executes (c : CoreId) (w : RFmt) (s : State) (b : Fin 4) (n : Fin 64) (h : Executes c w.g s) (hb : w.b = 0)
    (hc : w.c = 0) (hd : w.d = 0) (ha : w.a = 0) (hx : w.x = BitVec.ofNat 29 b.val) (hp : partOf c s = some n)
    (h0 : s.cores[c.val].arrived = 0) : exec (.bar c w) s = .next (barriers n (modCore c (Core.atBar b) s)) := by
  have harm : exec (.bar c w) s = execBar c w s := rfl
  have hn : NotPending s.cores[c.val] [] [] [] := by simp [NotPending]
  have hxn : w.x.toNat = b.val := by
    rw [hx, BitVec.toNat_ofNat]
    exact Nat.mod_eq_of_lt (by have := b.isLt; omega)
  have hbar : Fin.ofNat 4 w.x.toNat = b := by
    apply Fin.ext
    rw [hxn]
    exact Nat.mod_eq_of_lt b.isLt
  rw [harm, execBar, coreInstr_front c w.g _ _ _ _ _ s h
    (by simpa [hd, ha, hb, hc] using only_of_lt w.x 2 (by have := b.isLt; omega)) hn]
  simp only [hbar]
  have hs : modCore c (fun k => { k with stall := .bar b, arrived := k.arrived ||| (1#4 <<< b.val) }) s =
      modCore c (Core.atBar b) s := by
    apply modCore_congr
    simp [Core.atBar, h0]
  rw [hs]
  have hp' : partOf c (modCore c (Core.atBar b) s) = some n := hp
  unfold leftRunning
  rw [hp']

/-- A core that has just come to its barrier has come to no other. -/
theorem atBarrier_atBar (b b' : Fin 4) (k : Core) (hr : k.st = .running) : atBarrier b' (k.atBar b) = decide (b' = b) := by
  have : atBarrier b' (k.atBar b) = bit (1#4 <<< b.val) b'.val := by simp [atBarrier, Core.atBar, hr]
  rw [this]
  clear this
  revert b b'
  decide

theorem atBarrier_freed (b b' : Fin 4) (k : Core) (hr : k.st = .running) :
    atBarrier b' ((k.atBar b).freed b) = false := by
  have : atBarrier b' ((k.atBar b).freed b) = bit ((1#4 <<< b.val) &&& ~~~(1#4 <<< b.val)) b'.val := by
    simp [atBarrier, Core.freed, Core.atBar, hr]
  rw [this]
  clear this
  revert b b'
  decide

theorem bar_waits (c : CoreId) (s : State) (b : Fin 4) (n : Fin 64) (hr : s.cores[c.val].st = .running)
    (hp : partOf c s = some n) (hk : ∃ k ∈ coresOf n s, k ≠ c ∧ atBarrier b s.cores[k.val] = false) :
    barriers n (modCore c (Core.atBar b) s) = modCore c (Core.atBar b) s := by
  refine barriers_missing n _ fun b' => ?_
  have hcs : coresOf n (modCore c (Core.atBar b) s) = coresOf n s := rfl
  rw [hcs]
  by_cases e : b' = b
  · obtain ⟨k, hk, hkc, hb⟩ := hk
    subst e
    refine ⟨k, hk, ?_⟩
    rw [modCore_cores, upd_other _ _ _ _ k.isLt fun q => hkc (Fin.ext q)]
    exact hb
  · refine ⟨c, mem_coresOf c n s hp, ?_⟩
    rw [modCore_cores, upd_same, atBarrier_atBar b b' _ hr]
    simp [e]

/-- The last core to arrive goes on, and with it every core that waits. -/
theorem bar_completes (c : CoreId) (s : State) (b : Fin 4) (n : Fin 64) (hr : s.cores[c.val].st = .running) (hl : NotLast c s)
    (hp : partOf c s = some n) (h0 : s.cores[c.val].arrived = 0)
    (hall : ∀ k ∈ coresOf n s, k = c ∨ atBarrier b s.cores[k.val] = true)
    (hlast : ∀ k ∈ coresOf n s, s.cores[k.val].stall = .bar b → NotLast k s) :
    barriers n (modCore c (Core.atBar b) s) = { s with cores := Vector.ofFn fun i : Fin 576 =>
      if i = c ∨ (i ∈ coresOf n s ∧ s.cores[i.val].stall = .bar b) then s.cores[i.val].freed b else s.cores[i.val] } := by
  generalize hu : modCore c (Core.atBar b) s = u
  have hcs : coresOf n u = coresOf n s := by rw [← hu]; rfl
  have huc : u.cores[c.val] = s.cores[c.val].atBar b := by simp only [← hu, modCore_cores, upd_same]
  have huo : ∀ k : CoreId, k ≠ c → u.cores[k.val] = s.cores[k.val] := by
    intro k hk
    simp only [← hu, modCore_cores]
    rw [upd_other _ _ _ _ k.isLt fun q => hk (Fin.ext q)]
  have hrel : barCheck n b u = releasedAll b (coresOf n s) u := by
    have hc : ((coresOf n u).all fun k => atBarrier b u.cores[k.val]) = true := by
      rw [hcs, List.all_eq_true]
      intro k hk
      by_cases e : k = c
      · subst e
        rw [huc, atBarrier_atBar b b _ hr]
        simp
      · rw [huo k e]
        exact (hall k hk).resolve_left e
    unfold barCheck
    dsimp only
    rw [if_pos hc, hcs]
    refine foldl_barRelease b _ u (coresOf_nodup n s) fun k hk hb => ?_
    unfold NotLast
    by_cases e : k = c
    · subst e
      rw [huc]
      exact hl
    · rw [huo k e] at hb ⊢
      exact hlast k hk hb
  have hcore : ∀ i : CoreId, (releasedAll b (coresOf n s) u).cores[i.val] =
      if i = c ∨ (i ∈ coresOf n s ∧ s.cores[i.val].stall = .bar b) then s.cores[i.val].freed b else s.cores[i.val] := by
    intro i
    rw [releasedAll_cores]
    by_cases e : i = c
    · subst e
      rw [if_pos (mem_coresOf i n s hp), if_pos (Or.inl rfl), huc, Core.released_atBar]
      simp only [Core.freed, Core.atBar, h0]
      unfold Core.issued
      split <;> simp
    · rw [huo i e, Core.released]
      by_cases hi : i ∈ coresOf n s <;> simp [hi, e]
  have hparts : (releasedAll b (coresOf n s) u).parts = s.parts := by rw [releasedAll_parts, ← hu, modCore_parts]
  have hquiet : ∀ b', barCheck n b' (releasedAll b (coresOf n s) u) = releasedAll b (coresOf n s) u := by
    intro b'
    refine barCheck_missing n b' _ ⟨c, ?_, ?_⟩
    · rw [coresOf_same n hparts]
      exact mem_coresOf c n s hp
    · rw [releasedAll_cores, if_pos (mem_coresOf c n s hp), huc, Core.released_atBar]
      exact atBarrier_freed b b' _ hr
  have hround : (List.finRange 4).foldl (fun s b => barCheck n b s) u = releasedAll b (coresOf n s) u := by
    refine foldl_reaches (fun s b => barCheck n b s) u _ b _ (List.mem_finRange b) (fun b' e => ?_) hrel hquiet
    refine barCheck_missing n b' u ⟨c, by rw [hcs]; exact mem_coresOf c n s hp, ?_⟩
    rw [huc, atBarrier_atBar b b' _ hr]
    simp [e]
  have hstill : ∀ l : List (Fin 4), l.foldl (fun s b => barCheck n b s) (releasedAll b (coresOf n s) u) =
      releasedAll b (coresOf n s) u := fun l => foldl_still _ _ l hquiet
  have hfinal : barriers n u = releasedAll b (coresOf n s) u := by
    unfold barriers
    rw [show List.range 4 = 0 :: [1, 2, 3] from rfl, List.foldl_cons, hround]
    exact foldl_still _ _ _ fun _ => hstill _
  have hframe : releasedAll b (coresOf n s) u = { s with cores := (releasedAll b (coresOf n s) u).cores } := by
    rw [← hu]
    rfl
  rw [hfinal, hframe]
  refine congrArg (fun v => ({ s with cores := v } : State)) (Vector.ext fun j hj => ?_)
  rw [hcore ⟨j, hj⟩]
  simp only [Vector.getElem_ofFn]

/-- Settles O27, by the rule of each instruction; a BAR by the one round of barriers that changes anything. -/
theorem timeAndOrder : Obligations.TimeAndOrder := by
  unfold Obligations.TimeAndOrder
  intro c w s p h hl hb hc hn
  obtain ⟨hns, -, hnp⟩ := hn
  have hr := executes_running h
  have hnd : NotPending s.cores[c.val] [w.d] [] [p] := ⟨fun r hr => hns r (by simp_all), by simp, hnp⟩
  have hna : NotPending s.cores[c.val] [w.a] [] [p] := ⟨fun r hr => hns r (by simp_all), by simp, hnp⟩
  refine ⟨gett_executes c w s p h hl hb hc hnd, fun hd hx => ⟨fun hdue => ?_, fun hdue => ?_, fun ho => ?_, fun ho => ?_⟩,
    fun hd ha hx => syncNop_executes c w s h hl hb hc hd ha hx, fun hd ha hx => ⟨fun hk => ?_, fun g dom hg hroute => ?_⟩,
    fun b n hd ha hx hp h0 => ⟨fun hk => ?_, fun hall hlast => ?_⟩⟩
  · rw [waitt_executes c w s p h hb hc hna hd hx, if_pos hdue, advance_setP _ _ _ _ hl]
  · rw [waitt_executes c w s p h hb hc hna hd hx, if_neg hdue]
    exact congrArg Host.Outcome.next (modCore_congr rfl)
  · rw [tchk_executes c w s p h hl hb hc hna hd hx, (passed_eq_false_iff _ _).2 ho]
    rfl
  · rw [tchk_executes c w s p h hl hb hc hna hd hx,
      Bool.eq_true_of_not_eq_false fun q => ho ((passed_eq_false_iff _ _).1 q)]
    rfl
  · rw [syncFence_executes c w s h hb hc hd ha hx, closing_none c _ s hk hr, resume_fence c _ s hl (executes_stall h)]
    refine congrArg Host.Outcome.next (modCore_congr ?_)
    have hq : ({ s.cores[c.val] with coalesce := none } : Core) = s.cores[c.val] := by rw [← hk]
    rw [hq]
    rfl
  · obtain ⟨t, ht, hreqs, hmem, hcores⟩ := closing_fence c (w.x.setWidth 5) g dom s hl hr (executes_stall h) hg hroute
    refine ⟨t, _, by rw [syncFence_executes c w s h hb hc hd ha hx, ht], hreqs, rfl, rfl, rfl, rfl, rfl, hmem, ?_⟩
    rw [hcores]
    exact congrArg State.cores (modCore_congr rfl)
  · rw [bar_executes c w s b n h hb hc hd ha hx hp h0, bar_waits c s b n hr hp hk]
    rfl
  · rw [bar_executes c w s b n h hb hc hd ha hx hp h0, bar_completes c s b n hr hl hp h0 hall hlast]
    rfl

end Sys2Proof.Machine
end

section
/-! PROOFS. Results that arrive at a core (R187, R196, R213, R215, R288, R465). -/

namespace Sys2Proof.Machine

open Sys2Proof

/-! ### Bytes as numbers (R196) -/

theorem leNat_lt (d : List Byte) : leNat d < 2 ^ (8 * d.length) := by
  induction d with
  | nil => simp [leNat]
  | cons b t ih =>
    have hb := b.isLt
    rw [leNat, List.length_cons, show 8 * (t.length + 1) = 8 * t.length + 8 by omega, Nat.pow_add]
    omega

theorem scalarOf_false (d : List Byte) : scalarOf false d = BitVec.ofNat 64 (leNat d) := rfl

/-- A sign-extended scalar is the number of its bytes, extended from their width. -/
theorem scalarOf_true (d : List Byte) : scalarOf true d = (BitVec.ofNat (8 * d.length) (leNat d)).signExtend 64 := by
  have hlt := leNat_lt d
  have hn : (BitVec.ofNat (8 * d.length) (leNat d)).toNat = leNat d := by
    rw [BitVec.toNat_ofNat, Nat.mod_eq_of_lt hlt]
  unfold scalarOf BitVec.signExtend
  rw [BitVec.toInt_eq_toNat_cond, hn]
  generalize leNat d = v at hlt
  rcases Nat.eq_zero_or_pos (8 * d.length) with h0 | hpos
  · rw [h0] at hlt ⊢
    have : v = 0 := by omega
    subst this
    rfl
  · have hpow : 2 ^ (8 * d.length) = 2 * 2 ^ (8 * d.length - 1) := by
      rw [← Nat.pow_succ', Nat.succ_eq_add_one, Nat.sub_add_cancel hpos]
    by_cases hv : 2 ^ (8 * d.length - 1) ≤ v
    · have h2 : ¬ 2 * v < 2 ^ (8 * d.length) := by omega
      simp [hv, h2]
    · have h2 : 2 * v < 2 ^ (8 * d.length) := by omega
      simp [hv, h2]

/-! ### The registers of an entry (R213, R215) -/

/-- A scalar register that receives its result. -/
def Core.gotS (r : BitVec 5) (v : Dword) (k : Core) : Core := { k.putS r v with pendS := k.pendS &&& ~~~(1#32 <<< r.toNat) }

/-- A vector register that receives its result. -/
def Core.gotV (r : BitVec 5) (v : BitVec 512) (k : Core) : Core := { k.putV r v with pendV := k.pendV &&& ~~~(1#32 <<< r.toNat) }

/-- A predicate register that receives its result. -/
def Core.gotP (r : BitVec 3) (b : Bool) (k : Core) : Core :=
  { k.putP r (if b then 0xFFFF else 0) with pendP := k.pendP &&& ~~~(1#8 <<< r.toNat) }

theorem setS_unmarked (c : CoreId) (r : BitVec 5) (v : Dword) (s : State) :
    setS c r v (modCore c (fun k => { k with pendS := k.pendS &&& ~~~(1#32 <<< r.toNat) }) s) = modCore c (Core.gotS r v) s := by
  rw [setS_modCore]
  apply modCore_congr
  unfold Core.gotS Core.putS
  split <;> rfl

theorem setV_unmarked (c : CoreId) (r : BitVec 5) (v : BitVec 512) (s : State) :
    setV c r v (modCore c (fun k => { k with pendV := k.pendV &&& ~~~(1#32 <<< r.toNat) }) s) = modCore c (Core.gotV r v) s := by
  rw [setV_modCore]
  apply modCore_congr
  rfl

theorem setP_unmarked (c : CoreId) (r : BitVec 3) (b : Bool) (s : State) :
    setP c r (truth b) (modCore c (fun k => { k with pendP := k.pendP &&& ~~~(1#8 <<< r.toNat) }) s) =
      modCore c (Core.gotP r b) s := by
  rw [setP_modCore]
  apply modCore_congr
  unfold Core.gotP Core.putP truth
  split <;> rfl

@[simp] theorem Core.gotS_stall (r : BitVec 5) (v : Dword) (k : Core) : (k.gotS r v).stall = k.stall := Core.putS_stall ..
@[simp] theorem Core.gotV_stall (r : BitVec 5) (v : BitVec 512) (k : Core) : (k.gotV r v).stall = k.stall := rfl
@[simp] theorem Core.gotP_stall (r : BitVec 3) (b : Bool) (k : Core) : (k.gotP r b).stall = k.stall := rfl

/-- What an entry without a predicate result writes. -/
theorem writeResults_noPred (c : CoreId) (e : QEntry) (s : State) (ss : List (BitVec 5 × Dword)) (hs : entryScalars e = ss)
    (hv : entryVector e = none) (hp : e.pres = none) :
    writeResults c e s = ss.foldl (fun s r => modCore c (Core.gotS r.1 r.2) s) s := by
  unfold writeResults
  simp only [hs, hv, hp, setS_unmarked]

theorem writeResults_vector (c : CoreId) (e : QEntry) (s : State) (r : BitVec 5) (v : BitVec 512) (hs : entryScalars e = [])
    (hv : entryVector e = some (r, v)) (hp : e.pres = none) : writeResults c e s = modCore c (Core.gotV r v) s := by
  unfold writeResults
  simp only [hs, hv, hp, List.foldl_nil, setV_unmarked]

theorem writeResults_pred (c : CoreId) (e : QEntry) (s : State) (r : BitVec 5) (v : Dword) (p : BitVec 3) (b : Bool)
    (hs : entryScalars e = [(r, v)]) (hv : entryVector e = none) (hp : e.pres = some (p, b)) :
    writeResults c e s = modCore c (fun k => (k.gotS r v).gotP p b) s := by
  unfold writeResults
  simp only [hs, hv, hp, List.foldl_cons, List.foldl_nil, setS_unmarked, setP_unmarked]
  rw [modCore_modCore]

/-! ### The head of a queue completes (R208, R212, R213) -/

/-- The core whose queue q has this rest left. -/
def Core.popped (q : QueueId) (rest : List QEntry) (k : Core) : Core :=
  match q with
  | .arr => { k with arr := rest }
  | .spx => { k with spx := rest }
  | .hac => { k with hac := rest }
  | .ocu => { k with ocu := rest }
  | .ni => { k with ni := rest }

@[simp] theorem Core.popped_stall (q : QueueId) (rest : List QEntry) (k : Core) : (k.popped q rest).stall = k.stall := by
  cases q <;> rfl

theorem nextDone_head (q : QueueId) (k : Core) (e : QEntry) (rest : List QEntry) (h : queueOf k q = e :: rest)
    (hd : entryDone e = true) (hp : e.posts = 0) : nextDone q k = some (e, rest) := by
  cases q <;> simp only [queueOf] at h <;> simp [nextDone, queueOf, takeFirst, h, hd, hp]

/-- A core that is not stalled is not waiting to go on. -/
theorem resume_going (c : CoreId) (s : State) (h : s.cores[c.val].stall = .none) : resume c s = s := by
  unfold resume
  simp only [h]

/-- The completion of the head of a queue, by what its entry writes. -/
theorem completion_writes (c : CoreId) (q : QueueId) (e : QEntry) (rest : List QEntry) (s : State) (F : Core → Core)
    (hlive : live s = true) (hs : s.cores[c.val].stall = .none) (hq : queueOf s.cores[c.val] q = e :: rest)
    (hdone : entryDone e = true) (hadds : e.adds = []) (hposts : e.posts = 0) (himage : ∀ f n a, e.answered ≠ .image f n a)
    (hw : writeResults c e (modCore c (Core.popped q rest) s) = modCore c F s) (hF : (F s.cores[c.val]).stall = s.cores[c.val].stall) :
    exec (.decoupledCompletion c q) s = .next (modCore c F s) := by
  have harm : exec (.decoupledCompletion c q) s = execDecoupledCompletion c q s := rfl
  have hpop : setQueue c q rest s = modCore c (Core.popped q rest) s := by cases q <;> rfl
  have himg : ∀ t, imageArrives c e t = t := by
    intro t
    unfold imageArrives
    split
    · next h => exact absurd h (himage _ _ _)
    · rfl
  have hadd : ∀ t, addsArrive c e t = t := by
    intro t
    simp [addsArrive, hadds, productLanes, haccLanes]
  rw [harm, execDecoupledCompletion, nextDone_head q _ e rest hq hdone hposts]
  simp only [act, hlive, if_true]
  rw [himg, hadd, hpop, hw, resume_going]
  rw [modCore_cores, upd_same, hF, hs]

/-! ### The claim -/

theorem waittWake_due (c : CoreId) (s : State) (t : Rts) (hlive : live s = true) (hs : s.cores[c.val].stall = .waitt t)
    (ht : t.toNat ≤ s.eph.now.toNat) (hl : NotLast c s) :
    exec (.waittWake c) s = .next (modCore c (fun k => { k.issued with stall := .none }) s) := by
  have harm : exec (.waittWake c) s = execWaittWake c s := rfl
  have hdue : waittDue s.cores[c.val] s.eph.now = true := by simp [waittDue, hs, ht]
  rw [harm, execWaittWake, act, hlive, hdue, if_pos (by rfl), advance_modCore _ _ _ hl rfl]
  refine congrArg Host.Outcome.next (modCore_congr ?_)
  unfold Core.issued
  split <;> rfl

/-- Settles O30: the completion of a queue's head by what its entry writes, case by case. -/
theorem resultsArrive : Obligations.ResultsArrive := by
  unfold Obligations.ResultsArrive
  intro c s hlive
  refine ⟨?_, fun t _ hs ht hl => waittWake_due c s t hlive hs ht hl, ?_⟩
  · intro q e rest hs hq hdead hlock hadds hposts
    refine ⟨fun hparts hans => ?_, fun bytes hall hbytes hp => ?_⟩
    · have hdone : entryDone e = true := by simp [entryDone, hdead, hlock, hparts]
      have hS : entryScalars e = e.sres := by simp [entryScalars, hans]
      have hV : entryVector e = e.vres := by simp [entryVector, hans]
      have step := fun F => completion_writes c q e rest s F hlive hs hq hdone hadds hposts (by simp [hans])
      refine ⟨fun h1 h2 h3 => ?_, fun r v h1 h2 h3 => ?_, fun r v h1 h2 h3 => ?_, fun r v p b h1 h2 h3 => ?_⟩
      · refine step (Core.popped q rest) ?_ (by simp)
        rw [writeResults_noPred c e _ [] (hS.trans h1) (hV.trans h2) h3]
        rfl
      · refine step (fun k => (k.popped q rest).gotS r v) ?_ (by simp)
        rw [writeResults_noPred c e _ [(r, v)] (hS.trans h1) (hV.trans h2) h3]
        exact modCore_modCore _ _ _ _
      · refine step (fun k => (k.popped q rest).gotV r v) ?_ (by simp)
        rw [writeResults_vector c e _ r v (hS.trans h1) (hV.trans h2) h3, modCore_modCore]
      · refine step (fun k => ((k.popped q rest).gotS r v).gotP p b) ?_ (by simp)
        rw [writeResults_pred c e _ r v p b (hS.trans h1) (hV.trans h2) h3, modCore_modCore]
    · have hdone : entryDone e = true := by
        simp only [entryDone, hdead, hlock, Bool.not_false, Option.isNone_none, Bool.true_and, List.all_eq_true]
        exact hall
      have hb : answerBytes e = bytes := hbytes.symm
      have step := fun F himage => completion_writes c q e rest s F hlive hs hq hdone hadds hposts himage
      refine ⟨fun r v h1 h2 ha => ?_, fun r v h1 h2 ha => ?_, fun r v r' v' h1 h2 ha => ?_, fun r v h1 h2 ha => ?_⟩
      · refine step (fun k => (k.popped q rest).gotS r _) (by simp [ha]) ?_ (by simp)
        rw [writeResults_noPred c e _ [(r, BitVec.ofNat 64 (leNat bytes))] (by simp [entryScalars, ha, h1, hb, scalarOf_false])
          (by simp [entryVector, ha, h2]) hp]
        exact modCore_modCore _ _ _ _
      · refine step (fun k => (k.popped q rest).gotS r _) (by simp [ha]) ?_ (by simp)
        rw [writeResults_noPred c e _ [(r, (BitVec.ofNat (8 * bytes.length) (leNat bytes)).signExtend 64)]
          (by simp [entryScalars, ha, h1, hb, scalarOf_true]) (by simp [entryVector, ha, h2]) hp]
        exact modCore_modCore _ _ _ _
      · refine step (fun k => ((k.popped q rest).gotS r _).gotS r' _) (by simp [ha]) ?_ (by simp)
        rw [writeResults_noPred c e _ [(r, BitVec.ofNat 64 (leNat (bytes.take 8))), (r', BitVec.ofNat 64 (leNat ((bytes.drop 8).take 8)))]
          (by simp [entryScalars, ha, h1, hb, scalarOf_false]) (by simp [entryVector, ha, h2]) hp]
        simp only [List.foldl_cons, List.foldl_nil, modCore_modCore]
      · refine step (fun k => (k.popped q rest).gotV r _) (by simp [ha]) ?_ (by simp)
        rw [writeResults_vector c e _ r (BitVec.ofNat 512 (leNat bytes)) (by simp [entryScalars, ha, h1])
          (by simp [entryVector, ha, h2, hb]) hp, modCore_modCore]
  · have harm : exec (.ctrClear c) s = execCtrClear c s := rfl
    rw [harm, execCtrClear, act, if_pos hlive]
    rfl

end Sys2Proof.Machine
end

section
/-! PROOFS. Ephemeris: its references and the edges of PPS_IN (R35 to R40, R54, R55, R61, R64). -/

namespace Sys2Proof.Machine

open Sys2Proof

/-! ### Counters and times -/

theorem satInc_toNat (x : Byte) : (satInc x).toNat = min (x.toNat + 1) 255 := by
  have hx := x.isLt
  unfold satInc
  split
  · next e =>
    have : x.toNat = 255 := by rw [e]; rfl
    omega
  · next e =>
    have hne : x.toNat ≠ 255 := fun q => e (BitVec.eq_of_toNat_eq (by rw [q]; rfl))
    have h1 : (1 : Byte).toNat = 1 := rfl
    rw [BitVec.toNat_add, h1]
    omega

/-- A time is the normalised form of its linear count (R31). -/
theorem rtsLin_rtsOfLin (n : Nat) (h : n < 2 ^ 42 * 2457600) : rtsLin (rtsOfLin n) = n := by
  unfold rtsOfLin rtsLin bits frameTicks
  dsimp only
  have hf : n / 2457600 < 2 ^ 42 := Nat.div_lt_of_lt_mul (by omega)
  generalize hq : n / 2457600 = f at hf
  have hr : n % 2457600 < 2457600 := Nat.mod_lt _ (by decide)
  have hn : n = f * 2457600 + n % 2457600 := by
    rw [← hq]
    exact (Nat.div_add_mod' n 2457600).symm
  generalize n % 2457600 = r at hr hn
  have hh : f / 1024 % 2 ^ 32 = f / 1024 := Nat.mod_eq_of_lt (by omega)
  have hfr : f % 1024 < 1024 := Nat.mod_lt _ (by decide)
  have hdm : f = f / 1024 * 1024 + f % 1024 := (Nat.div_add_mod' f 1024).symm
  have hhlt : f / 1024 < 2 ^ 32 := by omega
  rw [hh]
  generalize f / 1024 = h at hdm hhlt
  generalize f % 1024 = fr at hdm hfr
  have hlt : h * 2 ^ 32 + fr * 2 ^ 22 + r < 2 ^ 64 := by omega
  simp only [BitVec.toNat_ofNat, Nat.mod_eq_of_lt hlt, Nat.shiftRight_eq_div_pow]
  have h1 : (h * 2 ^ 32 + fr * 2 ^ 22 + r) / 2 ^ 32 = h := by omega
  have h2 : (h * 2 ^ 32 + fr * 2 ^ 22 + r) / 2 ^ 22 % 2 ^ (31 + 1 - 22) = fr := by omega
  have h3 : (h * 2 ^ 32 + fr * 2 ^ 22 + r) / 2 ^ 0 % 2 ^ (21 + 1 - 0) = r := by omega
  rw [h1, h2, h3, Nat.mod_eq_of_lt (show h < 2 ^ (63 + 1 - 32) from hhlt)]
  omega

theorem rtsLin_rtsOfInt (n : Int) : (rtsLin (rtsOfInt n) : Int) = n % (2 ^ 42 * 2457600) := by
  unfold rtsOfInt
  have h1 : (0 : Int) ≤ n % (2 ^ 32 * 1024 * 2457600) := Int.emod_nonneg _ (by decide)
  have h2 : n % (2 ^ 32 * 1024 * 2457600) < 2 ^ 32 * 1024 * 2457600 := Int.emod_lt_of_pos _ (by decide)
  rw [rtsLin_rtsOfLin _ (by omega), Int.toNat_of_nonneg h1]
  rfl

theorem satInt_toInt (n : Int) (h : n.natAbs ≤ 2) : (satInt 16 n).toInt = n := by
  have hcases : n = -2 ∨ n = -1 ∨ n = 0 ∨ n = 1 ∨ n = 2 := by omega
  rcases hcases with h | h | h | h | h <;> subst h <;> decide

/-- The distance from the nearest boundary is the error that lies within half a second of one (R36). -/
theorem gridErr_eq (e : Eph) (err : Int) (h : GridError e err) : gridErr e.grid (rtsLin e.now - e.ppsComp.toInt) = err := by
  obtain ⟨h1, h2, k, h3⟩ := h
  have hsec : (secTicks : Int) = 245760000 := rfl
  have hd : ((rtsLin e.now : Int) - e.ppsComp.toInt - e.grid) % 245760000 = err % 245760000 := by
    rw [show (rtsLin e.now : Int) - e.ppsComp.toInt - e.grid = err + 245760000 * k by omega]
    exact Int.add_mul_emod_self_left err 245760000 k
  unfold gridErr
  rw [hsec, hd]
  dsimp only
  split <;> omega

theorem ephOnGrid_iff (e : Eph) : ephOnGrid e = true ↔ OnGrid e := by
  simp [ephOnGrid, OnGrid, and_assoc]

/-! ### What each step makes of the EPH block -/

/-- An event of Ephemeris sets its bit. -/
def Eph.raised (n : Nat) (e : Eph) : Eph := { e with intStatus := e.intStatus ||| (1#7 <<< n) }

/-- A state is entered. -/
def Eph.entered (st : EphState) (e : Eph) : Eph := if e.st = st then e else Eph.raised 0 { e with st := st, holdTicks := 0 }

/-- LOCKED is left. -/
def Eph.unlocked (e : Eph) : Eph := if e.st = .locked then e.entered .holdover else e

/-- The counter is stepped to a time, with this grid and this size of the step. -/
def Eph.stepped (now : Rts) (grid : Nat) (size : Word) (e : Eph) : Eph :=
  Eph.raised 4 { e with now := now, grid := grid, timeEpoch := e.timeEpoch + 1, stepCnt := satInc e.stepCnt, stepLast := size }

theorem Eph.stepped_trefQual (now : Rts) (grid : Nat) (size : Word) (e : Eph) :
    (e.stepped now grid size).trefQual = e.trefQual := rfl

theorem Eph.stepped_timeEpoch (now : Rts) (grid : Nat) (size : Word) (e : Eph) :
    (e.stepped now grid size).timeEpoch = e.timeEpoch + 1 := rfl

/-- A load has been done: nothing is left to measure or remove. -/
def Eph.settled (e : Eph) : Eph :=
  { e with todPending := false, todValid := true, slewing := none, stepRefused := false, measure := false, trim := 0 }

/-- The time of day has been set, by a step from this grid. -/
def Eph.loaded (now : Rts) (grid grid' : Nat) (size : Word) (e : Eph) : Eph :=
  Eph.raised 5 (Eph.settled (Eph.stepped now grid' size { e with grid := grid }))

/-- PPS_IN is no longer qualified. -/
def Eph.ppsLost (e : Eph) : Eph :=
  Eph.unlocked (Eph.raised 2 { e with ppsQual := false, goodRun := 0, lastEdge := none, slewing := none, stepRefused := false })

theorem bit_raised (n : Nat) (e : Eph) (h : n < 7) : bit (e.raised n).intStatus n = true := by
  simp [bit, Eph.raised, h]

theorem bit_raised_of (n m : Nat) (e : Eph) (h : bit e.intStatus m = true) : bit (e.raised n).intStatus m = true := by
  unfold bit at *
  simp [Eph.raised, h]

theorem bit_entered_of (st : EphState) (m : Nat) (e : Eph) (h : bit e.intStatus m = true) :
    bit (e.entered st).intStatus m = true := by
  unfold Eph.entered
  split
  · exact h
  · exact bit_raised_of 0 m _ h

theorem bit_unlocked_of (m : Nat) (e : Eph) (h : bit e.intStatus m = true) : bit e.unlocked.intStatus m = true := by
  unfold Eph.unlocked
  split
  · exact bit_entered_of _ m _ h
  · exact h

theorem Eph.entered_st (st : EphState) (e : Eph) : (e.entered st).st = st := by
  unfold Eph.entered
  split
  · assumption
  · rfl

/-- Entering a state changes the state, the count of HOLDOVER and what has been raised. -/
theorem Eph.entered_frame (st : EphState) (e : Eph) :
    e.entered st = { e with st := st, holdTicks := (e.entered st).holdTicks, intStatus := (e.entered st).intStatus } := by
  unfold Eph.entered
  split
  · next h => rw [← h]
  · rfl

theorem Eph.unlocked_frame (e : Eph) :
    e.unlocked = { e with st := if e.st = .locked then .holdover else e.st
                          holdTicks := e.unlocked.holdTicks, intStatus := e.unlocked.intStatus } := by
  unfold Eph.unlocked
  split
  · exact Eph.entered_frame _ _
  · rfl

/-- A command that leaves the block as entering a state does. -/
theorem entered_of {st : EphState} {s t : State} {e : Eph} (h : t.eph = e.entered st) (hst : e.st = s.eph.st) : Entered st s t := by
  refine ⟨by rw [h]; exact Eph.entered_st st e, fun hne => ?_⟩
  rw [h, Eph.entered, if_neg (by rw [hst]; exact hne)]
  exact bit_raised 0 _ (by decide)

theorem entered_kept {st : EphState} {t : State} {e : Eph} (h : t.eph = e.entered st) : t.eph.now = e.now ∧
    t.eph.slewing = e.slewing ∧ t.eph.trim = e.trim ∧ t.eph.todValid = e.todValid ∧ t.eph.timeEpoch = e.timeEpoch := by
  rw [h, Eph.entered_frame]
  exact ⟨rfl, rfl, rfl, rfl, rfl⟩

/-! ### The state's steps, on the EPH block -/

theorem pfIrq_eph (s : State) : (pfIrq s).eph = s.eph := by
  rw [pfIrq, msix_frame]

theorem ephRaise_eph (n a d : Nat) (s : State) : (ephRaise n a d s).eph = s.eph.raised n := by
  have hlog : ∀ u : State, (logPf (0x0100 + n) 0xFF a d 0xFFFF u).eph = u.eph := by
    intro u
    rw [(onlyAccess.logPf (0x0100 + n) 0xFF a d 0xFFFF u).1]
  unfold ephRaise
  dsimp only
  split
  · rw [pfIrq_eph, hlog]
    rfl
  · rw [hlog]
    rfl

theorem ephEnter_eph (st : EphState) (s : State) : (ephEnter st s).eph = s.eph.entered st := by
  unfold ephEnter Eph.entered
  split
  · rfl
  · rw [ephRaise_eph, modEph_eph]

/-- A step sets the time to a linear count, from which the hyperframe may have wrapped. -/
theorem ephStep_eph (lin : Int) (s : State) :
    ∃ grid size, (ephStep lin s).eph = s.eph.stepped (rtsOfInt lin) grid size := by
  obtain ⟨grid, hset⟩ : ∃ grid, ephSet lin s.eph = { s.eph with now := rtsOfInt lin, grid := grid } := ⟨_, rfl⟩
  refine ⟨grid, satInt 32 (lin - rtsLin s.eph.now), ?_⟩
  unfold ephStep
  rw [ephRaise_eph, modEph_eph]
  rw [hset]
  generalize rtsOfInt lin = now
  rfl

theorem ephLock_eph (s : State) : (ephLock s).eph = if s.eph.trefQual then s.eph.entered .locked else s.eph := by
  unfold ephLock
  split
  · exact ephEnter_eph _ _
  · rfl

theorem ephLeave_eph (s : State) : (if s.eph.st = .locked then ephEnter .holdover s else s).eph = s.eph.unlocked := by
  unfold Eph.unlocked
  split
  · exact ephEnter_eph _ _
  · rfl

theorem ppsLose_eph (s : State) : (ppsLose s).eph = s.eph.ppsLost := by
  unfold ppsLose Eph.ppsLost
  rw [ephLeave_eph, ephRaise_eph]
  rfl

theorem ephLoad_eph (s : State) : ∃ now grid grid' size e,
    now = rtsOfInt ((rtsLin s.eph.todNext : Int) + s.eph.ppsComp.toInt) ∧ e = s.eph.loaded now grid grid' size ∧
      (ephLoad s).eph = if s.eph.trefQual && s.eph.ppsQual then e.entered .locked else e := by
  have key : ∀ (now : Rts) (grid grid' : Nat) (size : Word) (u : State), u.eph = s.eph.loaded now grid grid' size →
      (if u.eph.trefQual && u.eph.ppsQual then ephEnter .locked u else u).eph =
        if s.eph.trefQual && s.eph.ppsQual then (s.eph.loaded now grid grid' size).entered .locked
        else s.eph.loaded now grid grid' size := by
    intro now grid grid' size u hu
    have h1 : u.eph.trefQual = s.eph.trefQual := by rw [hu]; rfl
    have h2 : u.eph.ppsQual = s.eph.ppsQual := by rw [hu]; rfl
    rw [h1, h2, ← hu]
    split
    · exact ephEnter_eph _ _
    · rfl
  have hset : ∀ (e : Eph) (u : State), u.eph = e → (ephRaise 5 0 0 (modEph Eph.settled u)).eph = e.settled.raised 5 := by
    intro e u hu
    rw [ephRaise_eph, modEph_eph, hu]
  obtain ⟨grid', size, hstep⟩ := ephStep_eph ((rtsLin s.eph.todNext : Int) + s.eph.ppsComp.toInt)
    (modEph (fun e => { e with grid := rtsLin s.eph.todNext % secTicks }) s)
  exact ⟨_, _, grid', size, _, rfl, rfl, key _ _ _ _ _ (hset _ _ hstep)⟩

/-! ### References (R35, R37, R39, R54, R61, R64) -/

theorem live_rstN {s : State} (h : live s = true) : s.hub.rstN = true := by
  unfold live at h
  simp only [Bool.and_eq_true] at h
  exact h.1.2

theorem trefLoss_eph (s : State) (h : s.hub.rstN = true) : ∃ t, exec .trefLoss s = .next t ∧
    t.eph = Eph.unlocked (if s.eph.trefQual then Eph.raised 1 { s.eph with trefQual := false, pllLock := false }
      else { s.eph with trefQual := false, pllLock := false }) := by
  have harm : exec .trefLoss s = execTrefLoss s := rfl
  refine ⟨_, by rw [harm, execTrefLoss, act, if_pos h], ?_⟩
  dsimp only
  rw [ephLeave_eph]
  split
  · rw [ephRaise_eph]
    rfl
  · rfl

theorem ppsOverdue_of (e : Eph) (h : ∀ l, e.lastEdge = some l → l + e.ppsComp.toInt + 245760000 + 1024 ≤ (e.ticks : Int)) :
    ppsOverdue e = true := by
  unfold ppsOverdue
  split
  · rfl
  · next l hl => exact decide_eq_true (h l hl)

theorem ppsLost_facts (e : Eph) : e.ppsLost.ppsQual = false ∧ e.ppsLost.lastEdge = none ∧ e.ppsLost.goodRun = 0 ∧
    bit e.ppsLost.intStatus 2 = true ∧ e.ppsLost.now = e.now ∧
    e.ppsLost.st = (if e.st = .locked then .holdover else e.st) := by
  have hb : bit e.ppsLost.intStatus 2 = true := bit_unlocked_of 2 _ (bit_raised 2 _ (by decide))
  refine ⟨?_, ?_, ?_, hb, ?_, ?_⟩ <;> (rw [Eph.ppsLost, Eph.unlocked_frame]; rfl)

/-- Settles O41, by what each command makes of the EPH block. -/
theorem references : Obligations.References := by
  unfold Obligations.References
  intro s hlive
  have hrst := live_rstN hlive
  refine ⟨?_, fun arm => ?_, fun ppm => ⟨fun h => ?_, fun h => ?_, fun h hl => ?_, fun h => ?_⟩, ?_, fun hq hl => ?_,
    fun hst hne hlim => ?_, fun hlim => ?_⟩
  · exact congrArg Host.Outcome.next (if_pos hlive)
  · exact congrArg Host.Outcome.next (if_pos hlive)
  · exact congrArg Host.Outcome.next (if_pos (by simp [hrst, h]))
  · exact congrArg Host.Outcome.next (if_neg (by simp; omega))
  · exact congrArg Host.Outcome.next (if_pos (by simp [hrst, h, hl]))
  · refine congrArg Host.Outcome.next (if_neg ?_)
    rcases h with h | h
    · simp
      omega
    · simp [h]
  · obtain ⟨t, ht, he⟩ := trefLoss_eph s hrst
    refine ⟨t, ht, ?_⟩
    cases hq : s.eph.trefQual
    · rw [hq, if_neg (by decide)] at he
      rw [he, Eph.unlocked_frame]
      exact ⟨rfl, rfl, rfl, rfl, fun h => absurd h (by decide), rfl⟩
    · rw [hq, if_pos rfl] at he
      have hb : bit t.eph.intStatus 1 = true := by
        rw [he]
        exact bit_unlocked_of 1 _ (bit_raised 1 _ (by decide))
      rw [Eph.unlocked_frame] at he
      refine ⟨?_, ?_, ?_, ?_, fun _ => hb, ?_⟩ <;> (rw [he]; rfl)
  · have harm : exec .ppsLoss s = execPpsLoss s := rfl
    refine ⟨ppsLose s, ?_, ?_⟩
    · rw [harm, execPpsLoss, act, if_pos (by simp [hrst, hq, ppsOverdue_of _ hl])]
    · rw [ppsLose_eph]
      exact ppsLost_facts s.eph
  · have harm : exec .holdLimitExpiry s = execHoldLimitExpiry s := rfl
    have hgo : execHoldLimitExpiry s = .next (ephEnter .freeRun s) := by
      rw [execHoldLimitExpiry, act, if_pos]
      have hne' : (s.eph.holdLimit != BitVec.allOnes 32) = true := bne_iff_ne.2 hne
      rw [hne']
      simp [hrst, hst, secTicks, hlim]
    have he := ephEnter_eph .freeRun s
    exact ⟨_, harm.trans hgo, entered_of he rfl, (entered_kept he).1⟩
  · have hall : s.eph.holdLimit = BitVec.allOnes 32 := hlim
    exact congrArg Host.Outcome.next (if_neg (by simp [hall]))

/-! ### Edges of PPS_IN (R36 to R40, R54, R55) -/

/-- An edge within two ticks of its boundary. -/
def Eph.near (err at_ : Int) (e : Eph) : Eph :=
  { e with phaseErr := satInt 16 err, lastEdge := some at_, badCount := 0, goodRun := e.goodRun + 1 }

/-- An edge further off. -/
def Eph.far (err at_ : Int) (e : Eph) : Eph :=
  Eph.raised 3 { e with phaseErr := satInt 16 err, lastEdge := some at_, badCount := satInc e.badCount, goodRun := 0 }

/-- The phase error of a requalification is looked at. -/
def Eph.measured (e : Eph) : Eph := { e with measure := false, stepRefused := false }

/-- What is done with the error, on the block that counts it as measured. -/
theorem ephRequal_eq (err : Int) (s : State) : ∃ u, u.eph = s.eph.measured ∧ ephRequal err s =
    if err.natAbs ≤ 2 then ephLock (modEph (fun e => { e with trim := err }) u)
    else if err.natAbs ≤ 1024 then modEph (fun e => { e with slewing := some err }) u
    else if err.natAbs < 61440000 then
      if u.eph.stepAllow then ephLock (ephStep (rtsLin u.eph.now - err) u)
      else ephRaise 6 0 0 (modEph (fun e => { e with stepRefused := true }) u)
    else ephEnter .freeRun (modEph (fun e => { e with todValid := false }) u) :=
  ⟨modEph Eph.measured s, rfl, rfl⟩

/-- An error within two ticks locks Ephemeris (R40). -/
theorem ephRequal_locks (err : Int) (s : State) (h : err.natAbs ≤ 2) (ht : s.eph.trefQual = true) :
    (ephRequal err s).eph = Eph.entered .locked { s.eph.measured with trim := err } := by
  obtain ⟨u, hu, heq⟩ := ephRequal_eq err s
  rw [heq, if_pos h, ephLock_eph, modEph_eph, hu]
  exact if_pos ht

/-- One up to 1,024 is slewed (R40). -/
theorem ephRequal_slews (err : Int) (s : State) (h1 : 2 < err.natAbs) (h2 : err.natAbs ≤ 1024) :
    (ephRequal err s).eph = { s.eph.measured with slewing := some err } := by
  obtain ⟨u, hu, heq⟩ := ephRequal_eq err s
  rw [heq, if_neg (by omega), if_pos h2, modEph_eph, hu]

/-- One below a quarter of a second is stepped away if steps are allowed (R40, R55). -/
theorem ephRequal_steps (err : Int) (s : State) (h1 : 1024 < err.natAbs) (h2 : err.natAbs < 61440000)
    (hs : s.eph.stepAllow = true) (ht : s.eph.trefQual = true) : ∃ now grid size,
      (rtsLin now : Int) = ((rtsLin s.eph.now : Int) - err) % (2 ^ 42 * 2457600) ∧
        (ephRequal err s).eph = Eph.entered .locked (s.eph.measured.stepped now grid size) := by
  obtain ⟨u, hu, heq⟩ := ephRequal_eq err s
  obtain ⟨grid, size, hstep⟩ := ephStep_eph (rtsLin u.eph.now - err) u
  have hnow : u.eph.now = s.eph.now := by rw [hu]; rfl
  have hallow : u.eph.stepAllow = true := by rw [hu]; exact hs
  refine ⟨_, grid, size, rtsLin_rtsOfInt _, ?_⟩
  rw [heq, if_neg (by omega), if_neg (by omega), if_pos h2, if_pos hallow, ephLock_eph, hstep, hnow, hu]
  rw [Eph.stepped_trefQual]
  exact if_pos ht

/-- Otherwise it is left, and reported (R40, R61). -/
theorem ephRequal_refuses (err : Int) (s : State) (h1 : 1024 < err.natAbs) (h2 : err.natAbs < 61440000)
    (hs : s.eph.stepAllow = false) : (ephRequal err s).eph = Eph.raised 6 { s.eph.measured with stepRefused := true } := by
  obtain ⟨u, hu, heq⟩ := ephRequal_eq err s
  have hallow : u.eph.stepAllow = false := by rw [hu]; exact hs
  rw [heq, if_neg (by omega), if_neg (by omega), if_pos h2, if_neg (by simp [hallow]), ephRaise_eph, modEph_eph, hu]

/-- A larger one clears tod_valid and enters FREE-RUN (R40). -/
theorem ephRequal_frees (err : Int) (s : State) (h : 61440000 ≤ err.natAbs) :
    (ephRequal err s).eph = Eph.entered .freeRun { s.eph.measured with todValid := false } := by
  obtain ⟨u, hu, heq⟩ := ephRequal_eq err s
  rw [heq, if_neg (by omega), if_neg (by omega), if_neg (by omega), ephEnter_eph, modEph_eph, hu]

/-- At a qualified edge an armed load takes place. -/
theorem ephQualified_load (s : State) (h : s.eph.todPending = true) : ephQualified s = ephLoad s := by
  rw [ephQualified, if_pos h]

/-- At a qualified edge a measurement that is due takes place. -/
theorem ephQualified_measure (s : State) (err : Int) (h1 : s.eph.todPending = false) (h2 : s.eph.todValid = true)
    (h3 : s.eph.slewing = none) (h4 : s.eph.measure = true) (h5 : GridError s.eph err) : ephQualified s = ephRequal err s := by
  simp only [ephQualified, h1, h2, h3, h4, gridErr_eq _ _ h5]
  rfl

theorem ephJudge_near (err at_ : Int) (s : State) (h : err.natAbs ≤ 2) : ephJudge err at_ s =
    let u := modEph (Eph.near err at_) s
    if s.eph.ppsQual then ephQualified u
    else if 3 ≤ s.eph.goodRun + 1 then ephQualified (modEph (fun e => { e with ppsQual := true, measure := true }) u) else u := by
  unfold ephJudge
  dsimp only
  rw [if_pos h]
  rfl

theorem ephJudge_far (err at_ : Int) (s : State) (h : 2 < err.natAbs) : ∃ u, u.eph = s.eph.far err at_ ∧ ephJudge err at_ s =
    if s.eph.ppsQual then (if 3 ≤ (satInc s.eph.badCount).toNat then ppsLose u else ephQualified u) else u := by
  refine ⟨_, ephRaise_eph 3 0 0 (modEph (fun e =>
    { e with phaseErr := satInt 16 err, lastEdge := some at_, badCount := satInc e.badCount, goodRun := 0 }) s), ?_⟩
  unfold ephJudge
  dsimp only
  rw [if_neg (by omega)]
  have hkeep : ∀ v w : State, v = w → w.eph = s.eph.far err at_ →
      (if v.eph.ppsQual then (if 3 ≤ v.eph.badCount.toNat then ppsLose v else ephQualified v) else v) =
      if s.eph.ppsQual then (if 3 ≤ (satInc s.eph.badCount).toNat then ppsLose w else ephQualified w) else w := by
    intro v w hvw hw
    subst hvw
    rw [hw]
    rfl
  exact hkeep _ _ rfl (ephRaise_eph 3 0 0 _)

/-- What a load at a qualified edge leaves (R37, R38, R55). -/
theorem ephLoad_facts (s : State) (hq : s.eph.ppsQual = true) :
    (ephLoad s).eph.ppsQual = true ∧ (ephLoad s).eph.todValid = true ∧ (ephLoad s).eph.todPending = false ∧
      (rtsLin (ephLoad s).eph.now : Int) = ((rtsLin s.eph.todNext : Int) + s.eph.ppsComp.toInt) % (2 ^ 42 * 2457600) ∧
      (ephLoad s).eph.timeEpoch = s.eph.timeEpoch + 1 ∧ (ephLoad s).eph.stepCnt = satInc s.eph.stepCnt ∧
      bit (ephLoad s).eph.intStatus 4 = true ∧ bit (ephLoad s).eph.intStatus 5 = true ∧
      (s.eph.trefQual = true → (ephLoad s).eph.st = .locked) := by
  obtain ⟨now, grid, grid', size, e, hnow, he, hload⟩ := ephLoad_eph s
  have hlin : (rtsLin now : Int) = ((rtsLin s.eph.todNext : Int) + s.eph.ppsComp.toInt) % (2 ^ 42 * 2457600) := by
    rw [hnow, rtsLin_rtsOfInt]
  have h4 : bit e.intStatus 4 = true := by
    rw [he]
    exact bit_raised_of 5 4 _ (bit_raised 4 _ (by decide))
  have h5 : bit e.intStatus 5 = true := by
    rw [he]
    exact bit_raised 5 _ (by decide)
  have hfields : e.ppsQual = true ∧ e.todValid = true ∧ e.todPending = false ∧ e.now = now ∧
      e.timeEpoch = s.eph.timeEpoch + 1 ∧ e.stepCnt = satInc s.eph.stepCnt := by
    rw [he]
    exact ⟨hq, rfl, rfl, rfl, rfl, rfl⟩
  obtain ⟨f1, f2, f3, f4, f5, f6⟩ := hfields
  have f7 : (rtsLin e.now : Int) = ((rtsLin s.eph.todNext : Int) + s.eph.ppsComp.toInt) % (2 ^ 42 * 2457600) := by
    rw [f4]
    exact hlin
  generalize ephLoad s = t at hload ⊢
  rw [hq, Bool.and_true] at hload
  by_cases ht : s.eph.trefQual = true
  · rw [if_pos ht] at hload
    have hf := hload.trans (Eph.entered_frame _ _)
    refine ⟨by rw [hf]; exact f1, by rw [hf]; exact f2, by rw [hf]; exact f3, by rw [hf]; exact f7, by rw [hf]; exact f5,
      by rw [hf]; exact f6, by rw [hload]; exact bit_entered_of _ _ _ h4, by rw [hload]; exact bit_entered_of _ _ _ h5,
      fun _ => by rw [hf]⟩
  · rw [if_neg ht] at hload
    rw [hload]
    exact ⟨f1, f2, f3, f7, f5, f6, h4, h5, fun q => absurd q ht⟩

theorem ppsEdge_onGrid (s : State) (err : Int) (h : s.hub.rstN = true) (hg : OnGrid s.eph) (he : GridError s.eph err) :
    exec .ppsEdge s = .next (ephJudge err ((s.eph.ticks : Int) - s.eph.ppsComp.toInt) s) := by
  have harm : exec .ppsEdge s = execPpsEdge s := rfl
  rw [harm, execPpsEdge, act, if_pos h]
  dsimp only
  rw [if_pos ((ephOnGrid_iff _).2 hg), gridErr_eq _ _ he]

theorem ppsEdge_offGrid (s : State) (h : s.hub.rstN = true) (hg : ¬ OnGrid s.eph) (l : Int) (hl : s.eph.lastEdge = some l) :
    exec .ppsEdge s = .next (ephJudge ((s.eph.ticks : Int) - s.eph.ppsComp.toInt - l - 245760000)
      ((s.eph.ticks : Int) - s.eph.ppsComp.toInt) s) := by
  have harm : exec .ppsEdge s = execPpsEdge s := rfl
  rw [harm, execPpsEdge, act, if_pos h]
  dsimp only
  rw [if_neg fun q => hg ((ephOnGrid_iff _).1 q)]
  simp only [hl]
  rfl

theorem ppsEdge_first (s : State) (h : s.hub.rstN = true) (hg : ¬ OnGrid s.eph) (hl : s.eph.lastEdge = none) :
    exec .ppsEdge s = .next { s with eph := { s.eph with lastEdge := some ((s.eph.ticks : Int) - s.eph.ppsComp.toInt) } } := by
  have harm : exec .ppsEdge s = execPpsEdge s := rfl
  rw [harm, execPpsEdge, act, if_pos h]
  dsimp only
  rw [if_neg fun q => hg ((ephOnGrid_iff _).1 q)]
  simp only [hl]
  rfl

/-- The edge that qualifies PPS_IN: a qualified one, whose error is to be measured. -/
theorem ephJudge_qualifies (err at_ : Int) (s : State) (h : err.natAbs ≤ 2) (hq : s.eph.ppsQual = false) (hg : 2 ≤ s.eph.goodRun) :
    ∃ u, u.eph = { s.eph.near err at_ with ppsQual := true, measure := true } ∧ ephJudge err at_ s = ephQualified u := by
  refine ⟨modEph (fun e => { e with ppsQual := true, measure := true }) (modEph (Eph.near err at_) s), rfl, ?_⟩
  rw [ephJudge_near err at_ s h]
  simp only [hq]
  rw [if_neg (by decide), if_pos (by omega)]

/-- An edge on the grid that is near is measured. -/
theorem ephJudge_near_measured (err at_ : Int) (s : State) (h : err.natAbs ≤ 2) (hg : OnGrid s.eph) (he : GridError s.eph err)
    (hp : s.eph.todPending = false) (hm : s.eph.measure = true) :
    ∃ u, u.eph = s.eph.near err at_ ∧ ephJudge err at_ s = ephRequal err u := by
  obtain ⟨hq, hv, hsl, -⟩ := hg
  have hu : (modEph (Eph.near err at_) s).eph = s.eph.near err at_ := rfl
  have hj := ephJudge_near err at_ s h
  generalize modEph (Eph.near err at_) s = u at hu hj
  refine ⟨u, hu, ?_⟩
  rw [hj]
  dsimp only
  rw [if_pos hq, ephQualified_measure u err (by rw [hu]; exact hp) (by rw [hu]; exact hv) (by rw [hu]; exact hsl)
    (by rw [hu]; exact hm) (by rw [hu]; exact he)]

/-- An edge on the grid that is far off, but no third such, is measured all the same. -/
theorem ephJudge_far_measured (err at_ : Int) (s : State) (h : 2 < err.natAbs) (hg : OnGrid s.eph) (he : GridError s.eph err)
    (hp : s.eph.todPending = false) (hm : s.eph.measure = true) (hb : s.eph.badCount.toNat < 2) :
    ∃ u, u.eph = s.eph.far err at_ ∧ ephJudge err at_ s = ephRequal err u := by
  obtain ⟨hq, hv, hsl, -⟩ := hg
  obtain ⟨u, hu, hj⟩ := ephJudge_far err at_ s h
  refine ⟨u, hu, ?_⟩
  rw [hj, if_pos hq, if_neg (by rw [satInc_toNat]; omega),
    ephQualified_measure u err (by rw [hu]; exact hp) (by rw [hu]; exact hv) (by rw [hu]; exact hsl) (by rw [hu]; exact hm)
      (by rw [hu]; exact he)]

/-- Settles O42: each edge is judged near or far, and what follows is read off the EPH block it leaves. -/
theorem ppsEdges : Obligations.PpsEdges := by
  unfold Obligations.PpsEdges
  intro s hlive at_
  have hrst := live_rstN hlive
  refine ⟨ppsEdge_first s hrst, fun l hg hl hq => ?_, fun err hg he => ?_, fun residual hs hr ht hq hv => ?_⟩
  · have hedge := ppsEdge_offGrid s hrst hg l hl
    refine ⟨fun hnear hrun => ?_, fun hnear hrun hp => ?_, fun err hnear hrun hp hv hsl he h2 h1024 => ?_, fun hfar => ?_⟩
    · have hj := ephJudge_near (at_ - l - 245760000) at_ s hnear
      rw [hq] at hj
      rw [if_neg (by decide), if_neg (by omega)] at hj
      exact ⟨_, hedge.trans (congrArg Host.Outcome.next hj), rfl, satInt_toInt _ hnear⟩
    · obtain ⟨u, hu, hj⟩ := ephJudge_qualifies (at_ - l - 245760000) at_ s hnear hq hrun
      rw [ephQualified_load u (by rw [hu]; exact hp)] at hj
      have hfacts := ephLoad_facts u (by rw [hu])
      rw [hu] at hfacts
      exact ⟨_, hedge.trans (congrArg Host.Outcome.next hj), hfacts⟩
    · obtain ⟨u, hu, hj⟩ := ephJudge_qualifies (at_ - l - 245760000) at_ s hnear hq hrun
      rw [ephQualified_measure u err (by rw [hu]; exact hp) (by rw [hu]; exact hv) (by rw [hu]; exact hsl) (by rw [hu])
        (by rw [hu]; exact he)] at hj
      have heph := ephRequal_slews err u h2 h1024
      rw [hu] at heph
      exact ⟨_, hedge.trans (congrArg Host.Outcome.next hj), by rw [heph]; rfl, by rw [heph], by rw [heph]; rfl, by rw [heph]; rfl⟩
    · obtain ⟨u, hu, hj⟩ := ephJudge_far (at_ - l - 245760000) at_ s hfar
      rw [hq, if_neg (by decide)] at hj
      refine ⟨u, hedge.trans (congrArg Host.Outcome.next hj), ?_⟩
      rw [hu]
      exact ⟨hq, rfl, rfl, bit_raised 3 _ (by decide), rfl⟩
  · have hedge := ppsEdge_onGrid s err hrst hg he
    refine ⟨fun hfar hbad => ?_, fun hp hm ht => ⟨fun hnear => ?_, fun hfar hbad => ?_⟩⟩
    · obtain ⟨u, hu, hj⟩ := ephJudge_far err at_ s hfar
      rw [hg.1, if_pos rfl, if_pos (by rw [satInc_toNat]; omega)] at hj
      obtain ⟨h1, -, -, h2, -, h3⟩ := ppsLost_facts u.eph
      refine ⟨ppsLose u, hedge.trans (congrArg Host.Outcome.next hj), ?_⟩
      rw [ppsLose_eph]
      refine ⟨h1, ?_, h2, by rw [h3, hu]; rfl⟩
      refine bit_unlocked_of 3 _ (bit_raised_of 2 3 _ ?_)
      rw [hu]
      exact bit_raised 3 _ (by decide)
    · obtain ⟨u, hu, hj⟩ := ephJudge_near_measured err at_ s hnear hg he hp hm
      have heph := ephRequal_locks err u hnear (by rw [hu]; exact ht)
      rw [hu] at heph
      exact ⟨_, hedge.trans (congrArg Host.Outcome.next hj), entered_of heph rfl, (entered_kept heph).1⟩
    · obtain ⟨u, hu, hj⟩ := ephJudge_far_measured err at_ s hfar hg he hp hm hbad
      have hgo := hedge.trans (congrArg Host.Outcome.next hj)
      have hst : u.eph.st = s.eph.st := by rw [hu]; rfl
      have hnow : u.eph.now = s.eph.now := by rw [hu]; rfl
      refine ⟨fun h1024 => ?_, fun h1024 hq hstep => ?_, fun h1024 hq hstep => ?_, fun hq => ?_⟩
      · have heph := ephRequal_slews err u hfar h1024
        exact ⟨_, hgo, by rw [heph], by rw [heph]; exact hst, by rw [heph]; exact hnow⟩
      · obtain ⟨now, grid, size, hlin, heph⟩ := ephRequal_steps err u h1024 hq (by rw [hu]; exact hstep) (by rw [hu]; exact ht)
        obtain ⟨h1, -, -, -, h2⟩ := entered_kept heph
        refine ⟨_, hgo, entered_of heph hst, ?_, ?_⟩
        · rw [hnow] at hlin
          rw [h1]
          exact hlin
        · rw [h2, Eph.stepped_timeEpoch, hu]
          rfl
      · have heph := ephRequal_refuses err u h1024 hq (by rw [hu]; exact hstep)
        exact ⟨_, hgo, by rw [heph]; exact hst, by rw [heph]; rfl, by rw [heph]; exact bit_raised 6 _ (by decide)⟩
      · have heph := ephRequal_frees err u hq
        exact ⟨_, hgo, entered_of heph hst, (entered_kept heph).2.2.2.1⟩
  · have harm : exec (.phaseSlewDone residual) s = execPhaseSlewDone residual s := rfl
    have hgo : execPhaseSlewDone residual s = .next (ephEnter .locked (modEph (fun e =>
        { e with slewing := none, trim := residual, measure := false }) s)) := by
      rw [execPhaseSlewDone, act, if_pos (by simp [hrst, hs, hr])]
      simp only [modEph_eph, ht, hq, hv]
      rfl
    have heph := ephEnter_eph .locked (modEph (fun e => { e with slewing := none, trim := residual, measure := false }) s)
    obtain ⟨h1, h2, h3, -, -⟩ := entered_kept heph
    exact ⟨_, harm.trans hgo, entered_of heph rfl, h2, h3, h1⟩

end Sys2Proof.Machine
end

section
/-! PROOFS. Bytes, request lines and local memory: what the accesses of cores read and write (R155 to R157, R196 to R198, R211,
R237, R390). -/

namespace Sys2Proof.Machine

open Sys2Proof

/-! ### Bytes of a number (R196) -/

@[simp] theorem length_leBytes (n x : Nat) : (leBytes n x).length = n := by
  induction n generalizing x with
  | zero => rfl
  | succ n ih => simp [leBytes, ih]

theorem getD_leBytes (n x j : Nat) (h : j < n) : (leBytes n x).getD j 0 = BitVec.ofNat 8 (x / 256 ^ j) := by
  induction n generalizing x j with
  | zero => omega
  | succ n ih =>
    cases j with
    | zero => simp [leBytes]
    | succ j =>
      rw [leBytes, List.getD_cons_succ, ih _ _ (by omega), Nat.div_div_eq_div_mul, Nat.pow_succ', Nat.mul_comm]

/-- Byte j of a word, little-endian. -/
theorem getD_leBytes_toNat {w : Nat} (v : BitVec w) (n j : Nat) (h : j < n) :
    (leBytes n v.toNat).getD j 0 = v.extractLsb' (8 * j) 8 := by
  rw [getD_leBytes n _ j h]
  simp only [BitVec.extractLsb', Nat.shiftRight_eq_div_pow]
  rw [Nat.pow_mul]

/-! ### Lines (R198, R237) -/

/-- Bytes within one line are one request. -/
theorem chunks_one (a n : Nat) (hn : 0 < n) (h : a % 64 + n ≤ 64) : chunks a n = [(a, n)] := by
  have hmin : min n (64 - a % 64) = n := by omega
  unfold chunks chunksAux
  rw [if_neg (by omega)]
  simp only [hmin, Nat.sub_self]
  unfold chunksAux
  rw [if_pos rfl]

theorem linesOf_one (a n : Nat) (hn : 0 < n) (h : a % 64 + n ≤ 64) : linesOf a n = [a / 64] := by
  simp [linesOf, chunks_one a n hn h]

/-- Aligned bytes of a scalar lie within one line. -/
theorem aligned_in_line (a k : Nat) (hk : k ≤ 6) (h : a % 2 ^ k = 0) : a % 64 + 2 ^ k ≤ 64 := by
  interval_cases k <;> omega

/-! ### Writes to local memory (R211, R390) -/

theorem raced_of_noRace {q : Option QueueId} {k : Core} (h : NoRace q k) (a n : Nat) : raced q k a n = false := by
  unfold raced
  rw [List.any_eq_false]
  intro e he
  rw [Bool.not_eq_true, List.any_eq_false]
  intro r hr
  have := (h e he).2 r hr
  simp [accBase, Nat.not_lt.2 this]

theorem reads_of_noRace {q : Option QueueId} {k : Core} (h : NoRace q k) (a n : Nat) : (others q k).any (reads a n) = false := by
  rw [List.any_eq_false]
  intro e he
  simp [reads, (h e he).1]

theorem localWrite_noRace {q : Option QueueId} {c : CoreId} {s : State} (h : NoRace q s.cores[c.val]) (a : Nat) (d : List Byte) :
    localWrite q c a d s = localPut c a d s :=
  localWrite_calm q c a d s (raced_of_noRace h _ _) (reads_of_noRace h _ _)

theorem localRead_noRace {q : Option QueueId} {c : CoreId} {s : State} (h : NoRace q s.cores[c.val]) (a n : Nat) :
    localRead q c a n s = (localBytes s.cores[c.val] a n, s) :=
  localRead_calm q c a n s (raced_of_noRace h _ _)

/-- A core whose memory has taken these bytes at this moment. -/
def Core.wrote (k : Core) (a : Nat) (d : List Byte) (m : Stamp) : Core := { k.noted m with mem := Memory.write 0 k.mem a d }

/-- A core whose memory has taken a whole line. -/
def Core.wroteLine (k : Core) (a : Nat) (d : List Byte) (m : Stamp) : Core :=
  { k.wrote a d m with poisoned := delLine k.poisoned (a / 64), latent := k.latent.filter fun e => e.1 ≠ a / 64 }

/-- Bytes of a part of one line leave its poison and its errors. -/
theorem localPut_part (c : CoreId) (a : Nat) (d : List Byte) (s : State) (h0 : 0 < d.length) (h1 : d.length < 64)
    (h : a % 64 + d.length ≤ 64) : localPut c a d s = modCore c (fun k => k.wrote a d (stampNow s)) s := by
  unfold localPut
  rw [chunks_one a _ h0 h]
  apply modCore_congr
  simp only [List.foldl_cons, List.foldl_nil, List.any_cons, List.any_nil, if_neg (Nat.ne_of_lt h1), decide_eq_false (Nat.ne_of_lt h1),
    Bool.false_and, Bool.or_false, Bool.not_false, List.filter_true]
  rfl

/-- A whole line takes its poison and its errors away. -/
theorem localPut_line (c : CoreId) (a : Nat) (d : List Byte) (s : State) (h1 : d.length = 64) (h : a % 64 = 0) :
    localPut c a d s = modCore c (fun k => k.wroteLine a d (stampNow s)) s := by
  unfold localPut
  rw [chunks_one a _ (by omega) (by omega), h1]
  apply modCore_congr
  simp only [List.foldl_cons, List.foldl_nil, List.any_cons, List.any_nil, decide_true, if_true, Bool.true_and, Bool.or_false,
    ← decide_not, eq_comm (a := a / 64)]
  rfl

/-- Other bytes of local memory read as before. -/
theorem get_write_outside (m : Memory) (a b : Nat) (d : List Byte) (w : Memory.wf 0 m = true) (h : b < a ∨ a + d.length ≤ b) :
    Memory.get 0 (Memory.write 0 m a d) b = Memory.get 0 m b := by
  rw [Memory.get_write 0 m a b d w, if_neg (by omega)]

/-- The bytes written read as they were given. -/
theorem get_write_inside (m : Memory) (a j : Nat) (d : List Byte) (w : Memory.wf 0 m = true) (h : j < d.length) :
    Memory.get 0 (Memory.write 0 m a d) (a + j) = d.getD j 0 := by
  rw [Memory.get_write 0 m a (a + j) d w, if_pos (by omega), Nat.add_sub_cancel_left]

/-! ### The M format (R196, R197) -/

theorem scalarSize_eq (w : MFmt) (h : w.x.toNat < 4) : scalarSize w = 2 ^ w.x.toNat := by
  unfold scalarSize bits
  rw [Nat.shiftRight_zero, Nat.mod_eq_of_lt (by omega)]

theorem only_scalar (w : MFmt) (h : w.x.toNat < 4) : only w.x 3 = true := only_of_lt w.x 2 h

theorem mSpaceOk_of (w : MFmt) (h : w.sp = 0 ∨ w.sp = 1) (hn : w.n = 0) : mSpaceOk w = true := by
  rcases h with h | h <;> simp [mSpaceOk, h, hn]

theorem localCheck_store (a : Dword) (n : Nat) (h : a.toNat % n = 0) (hs : Storable a.toNat n) : localCheck a n n false = none := by
  obtain ⟨h1, h2⟩ := hs
  have hd : inData a.toNat n = true := by simp [inData, dataBase, accBase, h1, h2]
  simp [localCheck, h, hd]

end Sys2Proof.Machine
end

section
/-! PROOFS. Stores to local memory (R44, R155 to R157, R196 to R198, R211, R390). -/

namespace Sys2Proof.Machine

open Sys2Proof

/-- An aligned store to data memory writes its bytes. -/
theorem storeInstr_local (c : CoreId) (w : MFmt) (s : State) (ok : Bool) (n : Nat) (rs vs : List (BitVec 5))
    (d : Core → List Byte) (h : Executes c w.g s) (hok : ok = true) (hsp : w.sp = 0) (hn : w.n = 0)
    (hnp : NotPending s.cores[c.val] rs vs []) (hd : (d s.cores[c.val]).length = n)
    (ha : (address c w s).toNat % n = 0) (hst : Storable (address c w s).toNat n) (hr : NoRace none s.cores[c.val]) :
    storeInstr c w ok n { s := rs, v := vs } d s =
      .next (advance c (localPut c (address c w s).toNat (d s.cores[c.val]) s)) := by
  have hlegal : (ok && mSpaceOk w) = true := by rw [hok, mSpaceOk_of w (.inl hsp) hn]; rfl
  have huse : mQueue s.cores[c.val] w n { s := rs, v := vs } = { s := rs, v := vs } := by rw [mQueue, if_pos hsp]
  have haddr : mAddr s.cores[c.val] w = address c w s := rfl
  unfold storeInstr
  rw [huse, coreInstr_front c w.g _ rs vs [] _ s h hlegal hnp]
  simp only [if_pos hsp, haddr, localStore, hd, localCheck_store _ n ha hst, localWrite_noRace hr]

/-- What a store to one line of data memory leaves, by what becomes of the core. -/
theorem stored_frame (c : CoreId) (s : State) (f : Core → Core) (hl : NotLast c s)
    (hpc : (f s.cores[c.val]).pc = s.cores[c.val].pc) :
    advance c (modCore c f s) = modCore c (fun k => (f k).issued) s ∧
      (advance c (modCore c f s)).cores[c.val] = (f s.cores[c.val]).issued := by
  rw [advance_modCore c f s hl hpc]
  exact ⟨rfl, by rw [modCore_cores, upd_same]⟩


theorem wrote_issued (k : Core) (a : Nat) (d : List Byte) (m : Stamp) :
    (k.wrote a d m).issued = { (k.noted m).issued with mem := (k.wrote a d m).mem } := by
  unfold Core.issued Core.wrote
  split <;> rfl

theorem wroteLine_issued (k : Core) (a : Nat) (d : List Byte) (m : Stamp) : (k.wroteLine a d m).issued =
    { (k.noted m).issued with
      mem := (k.wroteLine a d m).mem, poisoned := (k.wroteLine a d m).poisoned, latent := (k.wroteLine a d m).latent } := by
  unfold Core.issued Core.wroteLine Core.wrote
  split <;> rfl

/-- A store of a part of a line: what it leaves of the core, and the bytes of its memory. -/
theorem part_stored (c : CoreId) (s : State) (a : Nat) (d : List Byte) (hl : NotLast c s)
    (hwf : Memory.wf 0 s.cores[c.val].mem = true) (h0 : 0 < d.length) (h1 : d.length < 64) (h : a % 64 + d.length ≤ 64) :
    ∃ t, advance c (localPut c a d s) = t ∧
      t = modCore c (fun k => { (k.noted (stampNow s)).issued with mem := t.cores[c.val].mem }) s ∧
      (∀ b, b < a ∨ a + d.length ≤ b → t.localByte c b = s.localByte c b) ∧
      ∀ j < d.length, t.localByte c (a + j) = d.getD j 0 := by
  obtain ⟨hadv, hcore⟩ := stored_frame c s (fun k => k.wrote a d (stampNow s)) hl rfl
  have hmem : (advance c (modCore c (fun k => k.wrote a d (stampNow s)) s)).cores[c.val].mem =
      Memory.write 0 s.cores[c.val].mem a d := by
    rw [hcore, Core.issued_mem]
    rfl
  refine ⟨_, congrArg (advance c) (localPut_part c a d s h0 h1 h), ?_, fun b hb => ?_, fun j hj => ?_⟩
  · rw [hmem, hadv]
    exact modCore_congr (wrote_issued _ _ _ _)
  · unfold State.localByte
    rw [hmem]
    exact get_write_outside _ _ _ _ hwf hb
  · unfold State.localByte
    rw [hmem]
    exact get_write_inside _ _ _ _ hwf hj

/-- A store of a whole line. -/
theorem line_stored (c : CoreId) (s : State) (a : Nat) (d : List Byte) (hl : NotLast c s)
    (hwf : Memory.wf 0 s.cores[c.val].mem = true) (hd : d.length = 64) (h : a % 64 = 0) :
    ∃ t, advance c (localPut c a d s) = t ∧
      t = modCore c (fun k => { (k.noted (stampNow s)).issued with
        mem := t.cores[c.val].mem, poisoned := t.cores[c.val].poisoned, latent := t.cores[c.val].latent }) s ∧
      (∀ l, l ∈ t.cores[c.val].poisoned ↔ l ∈ s.cores[c.val].poisoned ∧ l ≠ a / 64) ∧
      (∀ e, e ∈ t.cores[c.val].latent ↔ e ∈ s.cores[c.val].latent ∧ e.1 ≠ a / 64) ∧
      (∀ b, b < a ∨ a + d.length ≤ b → t.localByte c b = s.localByte c b) ∧
      ∀ j < d.length, t.localByte c (a + j) = d.getD j 0 := by
  obtain ⟨hadv, hcore⟩ := stored_frame c s (fun k => k.wroteLine a d (stampNow s)) hl rfl
  have hmem : (advance c (modCore c (fun k => k.wroteLine a d (stampNow s)) s)).cores[c.val].mem =
      Memory.write 0 s.cores[c.val].mem a d := by
    rw [hcore, Core.issued_mem]
    rfl
  refine ⟨_, congrArg (advance c) (localPut_line c a d s hd h), ?_, fun l => ?_, fun e => ?_, fun b hb => ?_, fun j hj => ?_⟩
  · rw [hcore, hadv]
    exact modCore_congr (by rw [wroteLine_issued])
  · rw [hcore, Core.issued_poisoned]
    simp [Core.wroteLine, delLine]
  · rw [hcore, Core.issued_latent]
    simp [Core.wroteLine]
  · unfold State.localByte
    rw [hmem]
    exact get_write_outside _ _ _ _ hwf hb
  · unfold State.localByte
    rw [hmem]
    exact get_write_inside _ _ _ _ hwf hj

theorem mUse_near (w : MFmt) (h : w.sp ≠ 2) : mUse w = [w.a] := by rw [mUse, if_neg h]

/-- Settles O14, by the one write that each store makes. -/
theorem localStores : Obligations.LocalStores := by
  unfold Obligations.LocalStores
  intro c w s h hl hsp hn hwf hrace
  have huse := mUse_near w (by rw [hsp]; decide)
  refine ⟨fun n hsize hx ha hst hnp => ?_, fun hx ha hst hnp => ?_⟩
  · have harm : exec (.st c w) s = execSt c w s := rfl
    have hn0 : 0 < n := by rw [hsize]; exact Nat.two_pow_pos _
    have hn64 : n < 64 := by
      rw [hsize]
      exact lt_of_lt_of_le (Nat.pow_lt_pow_right (by decide) hx) (by decide)
    have hline : (address c w s).toNat % 64 + n ≤ 64 := by
      rw [hsize] at ha ⊢
      exact aligned_in_line _ _ (by omega) ha
    have hexec := storeInstr_local c w s _ n _ _ (fun k => leBytes n (sreg k w.t).toNat) h (only_scalar w hx) hsp hn hnp
      (length_leBytes _ _) ha hst hrace
    have hbytes : ∀ j < n, (leBytes n (sreg s.cores[c.val] w.t).toNat).getD j 0 =
        (sreg s.cores[c.val] w.t).extractLsb' (8 * j) 8 := fun j hj => getD_leBytes_toNat _ n j hj
    have hlen := length_leBytes n (sreg s.cores[c.val] w.t).toNat
    generalize leBytes n (sreg s.cores[c.val] w.t).toNat = d at hexec hbytes hlen
    obtain ⟨t, ht, hframe, hout, hin⟩ := part_stored c s (address c w s).toNat d hl hwf (by omega) (by omega) (by omega)
    rw [hlen] at hout hin
    exact ⟨t, by rw [harm, execSt, huse, scalarSize_eq w hx, ← hsize, hexec, ht], hframe, hout,
      fun j hj => (hin j hj).trans (hbytes j hj)⟩
  · have harm : exec (.vst c w) s = execVst c w s := rfl
    have hexec := storeInstr_local c w s _ 64 _ _ (fun k => leBytes 64 (vreg k w.t).toNat) h
      (decide_eq_true hx) hsp hn hnp (length_leBytes _ _) ha hst hrace
    have hbytes : ∀ j < 64, (leBytes 64 (vreg s.cores[c.val] w.t).toNat).getD j 0 =
        (vreg s.cores[c.val] w.t).extractLsb' (8 * j) 8 := fun j hj => getD_leBytes_toNat _ 64 j hj
    have hlen := length_leBytes 64 (vreg s.cores[c.val] w.t).toNat
    generalize leBytes 64 (vreg s.cores[c.val] w.t).toNat = d at hexec hbytes hlen
    obtain ⟨t, ht, hframe, hpoison, hlatent, hout, hin⟩ := line_stored c s (address c w s).toNat d hl hwf hlen ha
    rw [hlen] at hout hin
    exact ⟨t, by rw [harm, execVst, huse, hexec, ht], hframe, hpoison, hlatent, hout, fun j hj => (hin j hj).trans (hbytes j hj)⟩

end Sys2Proof.Machine
end

section
/-! PROOFS. The issue of accesses in global and remote space (R196, R197, R207, R208, R213). -/

namespace Sys2Proof.Machine

open Sys2Proof

/-! ### An entry joins the NI queue (R207, R213) -/

theorem enqueue_ni_plain (c : CoreId) (e : QEntry) (s : State) (hs : e.sres = []) (hv : e.vres = none) (hp : e.pres = none) :
    enqueue c .ni e s = modCore c (fun k => k.addNi e) s := by
  cases e
  subst hs hv hp
  rfl

theorem enqueue_ni_scalar (c : CoreId) (e : QEntry) (s : State) (r : BitVec 5) (v : Dword) (hs : e.sres = [(r, v)])
    (hv : e.vres = none) (hp : e.pres = none) : enqueue c .ni e s = modCore c (fun k => (k.addNi e).markS r) s := by
  cases e
  subst hs hv hp
  refine modCore_congr ?_
  unfold Core.markS
  simp only [List.foldl_cons, List.foldl_nil]
  split <;> rfl

theorem enqueue_ni_vector (c : CoreId) (e : QEntry) (s : State) (r : BitVec 5) (v : BitVec 512) (hs : e.sres = [])
    (hv : e.vres = some (r, v)) (hp : e.pres = none) : enqueue c .ni e s = modCore c (fun k => (k.addNi e).markV r) s := by
  cases e
  subst hs hv hp
  rfl

/-! ### Accesses beyond the core that issue (R196, R197, R207, R208) -/

/-- An access of one line beyond the core may issue where its registers are free and the NI has a place. -/
theorem noHazard_far (w : MFmt) (k : Core) (n : Nat) (rs vs : List (BitVec 5)) (hsp : w.sp ≠ 0)
    (hn : NotPending k rs vs []) (hq : QueueRoom k .ni 1) (h1 : lineReqs (mAddr k w) n = [((mAddr k w).toNat, n)]) :
    noHazard k (mQueue k w n { s := rs, v := vs }) = true := by
  have hu : mQueue k w n { s := rs, v := vs } = { s := rs, v := vs, q := some .ni, n := 1 } := by
    rw [mQueue, if_neg hsp, h1]
    rfl
  rw [hu]
  exact noHazard_of_ready k _ hn (fun q hq' => by obtain rfl := Option.some.inj hq'; exact hq) (slotsAwaited_none _ _ rfl rfl)

/-- The registers that a load writes and addresses by. -/
def loadRegs (w : MFmt) (vec : Bool) : List (BitVec 5) := if vec then mUse w else w.t :: mUse w

/-- A load beyond the core, within one line. -/
theorem loadInstr_far (c : CoreId) (w : MFmt) (s : State) (ok : Bool) (f : LoadForm) (h : Executes c w.g s)
    (hok : ok = true) (hspace : mSpaceOk w = true) (hsp : w.sp ≠ 0) (hq : QueueRoom s.cores[c.val] .ni 1) (h0 : 0 < f.n)
    (h1 : (address c w s).toNat % 64 + f.n ≤ 64)
    (hnp : NotPending s.cores[c.val] (loadRegs w f.vec) (if f.vec then [w.t] else []) []) :
    loadInstr c w ok f none s = .next (if w.sp = 1 then globalLoad c w f (address c w s) s
      else remoteLoad c w f (address c w s) s) := by
  have hlines : lineReqs (mAddr s.cores[c.val] w) f.n = [((mAddr s.cores[c.val] w).toNat, f.n)] := chunks_one _ _ h0 h1
  have hacc : ∀ u : Use, accUse s.cores[c.val] w f.n u = u := by
    intro u
    rw [accUse, if_neg]
    simp only [Bool.and_eq_true, decide_eq_true_eq]
    exact fun q => hsp q.1.1
  have hz := noHazard_far w s.cores[c.val] f.n _ _ hsp hnp hq hlines
  have haddr : mAddr s.cores[c.val] w = address c w s := rfl
  have hu : (if f.vec then { s := mUse w, v := [w.t] } else { s := w.t :: mUse w } : Use) =
      { s := loadRegs w f.vec, v := if f.vec then [w.t] else [] } := by
    unfold loadRegs
    split <;> rfl
  unfold loadInstr
  dsimp only
  rw [hu, hacc, hok, hspace, Bool.and_true, coreInstr_executes c w.g _ _ s h hz, if_neg hsp]
  rfl

/-- A store beyond the core, within one line. -/
theorem storeInstr_far (c : CoreId) (w : MFmt) (s : State) (ok : Bool) (n : Nat) (rs vs : List (BitVec 5)) (d : Core → List Byte)
    (h : Executes c w.g s) (hok : ok = true) (hspace : mSpaceOk w = true) (hsp : w.sp ≠ 0)
    (hq : QueueRoom s.cores[c.val] .ni 1) (h0 : 0 < n) (h1 : (address c w s).toNat % 64 + n ≤ 64)
    (hnp : NotPending s.cores[c.val] rs vs []) : storeInstr c w ok n { s := rs, v := vs } d s =
      .next (if w.sp = 1 then globalStore c (address c w s) (d s.cores[c.val]) s
        else remoteStore c (mNode s.cores[c.val] w) (address c w s) (d s.cores[c.val]) s) := by
  have hlines : lineReqs (mAddr s.cores[c.val] w) n = [((mAddr s.cores[c.val] w).toNat, n)] := chunks_one _ _ h0 h1
  have hz := noHazard_far w s.cores[c.val] n _ _ hsp hnp hq hlines
  unfold storeInstr
  rw [hok, hspace, Bool.and_true, coreInstr_executes c w.g _ _ s h hz]
  dsimp only
  rw [if_neg hsp]
  rfl

theorem mSpaceOk_remote (w : MFmt) (h : w.sp = 2) : mSpaceOk w = true := by simp [mSpaceOk, h]

end Sys2Proof.Machine
end

section
/-! PROOFS. Loads and stores in remote space (R44, R197, R464 to R467). -/

namespace Sys2Proof.Machine

open Sys2Proof

/-! ### Loads: one READ -/

/-- The READ of a load within one line. -/
def readReq (node : BitVec 16) (a : Dword) (n : Nat) : RemoteReq :=
  { node := node, type := 0x02, flags := 0, arg := BitVec.ofNat 8 (n - 1), addr := a, payload := [] }

theorem readReqs_one (node : BitVec 16) (a : Dword) (n : Nat) (h : lineReqs a n = [(a.toNat, n)]) :
    readReqs node a n = [readReq node a n] := by
  simp [readReqs, h, readReq]

/-- A remote load sends its READ, and its entry waits for the answer. -/
theorem remoteLoad_one (c : CoreId) (w : MFmt) (s : State) (f : LoadForm) (dom : Byte) (hr : s.cores[c.val].st = .running)
    (hl : NotLast c s) (hk : s.cores[c.val].coalesce = none) (ha : (address c w s).toNat < 2 ^ 40) (h0 : 0 < f.n)
    (h1 : (address c w s).toNat % 64 + f.n ≤ 64) (hroute : RouteOpen c (mNode s.cores[c.val] w) dom s) :
    Requested c dom (readReq (mNode s.cores[c.val] w) (address c w s) f.n) s (remoteLoad c w f (address c w s) s) ∧
      (remoteLoad c w f (address c w s) s).cores = (modCore c Core.issued (enqueue c .ni
        { loadEntry f w.t [] with answered := if f.vec then .vector else .scalar f.signed, parts := [(s.fab.nextReq, none)] } s)).cores := by
  have hreads := readReqs_one (mNode s.cores[c.val] w) (address c w s) f.n (chunks_one _ _ h0 h1)
  unfold remoteLoad
  rw [hreads]
  have hone := issueRemote_one c (address c w s)
    { loadEntry f w.t [] with answered := if f.vec then .vector else .scalar f.signed } dom
    (readReq (mNode s.cores[c.val] w) (address c w s) f.n) s hr hl hk ha hroute
  refine ⟨hone.1, hone.2.trans ?_⟩
  rw [if_pos (show (readReq (mNode s.cores[c.val] w) (address c w s) f.n).type = 0x02 from rfl)]
  unfold loadEntry
  cases f.vec <;> rfl

/-- What a remote load leaves of the block, by its registers' marks. -/
theorem loadInstr_remote (c : CoreId) (w : MFmt) (s : State) (ok : Bool) (f : LoadForm) (dom : Byte) (h : Executes c w.g s)
    (hl : NotLast c s) (hok : ok = true) (hsp : w.sp = 2) (hfree : NiFree c 1 s) (h0 : 0 < f.n)
    (h1 : (address c w s).toNat % 64 + f.n ≤ 64) (ha : (address c w s).toNat < 2 ^ 40)
    (hroute : RouteOpen c (mNode s.cores[c.val] w) dom s)
    (hnp : NotPending s.cores[c.val] (loadRegs w f.vec) (if f.vec then [w.t] else []) []) :
    ∃ t, loadInstr c w ok f none s = .next t ∧
      Requested c dom (readReq (mNode s.cores[c.val] w) (address c w s) f.n) s t ∧
      t.cores = (modCore c Core.issued (enqueue c .ni
        { loadEntry f w.t [] with answered := if f.vec then .vector else .scalar f.signed, parts := [(s.fab.nextReq, none)] } s)).cores := by
  obtain ⟨hk, hq⟩ := hfree
  have hne0 : w.sp ≠ 0 := by rw [hsp]; decide
  have hne1 : ¬ w.sp = 1 := by rw [hsp]; decide
  refine ⟨remoteLoad c w f (address c w s) s, ?_, remoteLoad_one c w s f dom (executes_running h) hl hk ha h0 h1 hroute⟩
  rw [loadInstr_far c w s ok f h hok (mSpaceOk_remote w hsp) hne0 hq h0 h1 hnp, if_neg hne1]

/-- The message of a READ. -/
theorem readReq_msg (dom : Byte) (id : Word) (node : BitVec 16) (a : Dword) (n : Nat) (s : State) (h0 : 0 < n) (hn : n ≤ 64) :
    let m := reqMsg dom id (readReq node a n) s
    m.type = 0x02 ∧ m.dst = node ∧ m.domain = dom ∧ m.addr = a ∧ m.arg.toNat = n - 1 ∧ m.reqId = id := by
  refine ⟨rfl, rfl, rfl, rfl, ?_, rfl⟩
  show (BitVec.ofNat 8 (n - 1)).toNat = n - 1
  rw [BitVec.toNat_ofNat, Nat.mod_eq_of_lt (by omega)]

theorem enqueue_issued_scalar (c : CoreId) (e : QEntry) (s : State) (r : BitVec 5) (v : Dword) (hs : e.sres = [(r, v)])
    (hv : e.vres = none) (hp : e.pres = none) :
    modCore c Core.issued (enqueue c .ni e s) = modCore c (fun k => ((k.addNi e).markS r).issued) s := by
  rw [enqueue_ni_scalar c e s r v hs hv hp, modCore_modCore]

theorem enqueue_issued_vector (c : CoreId) (e : QEntry) (s : State) (r : BitVec 5) (v : BitVec 512) (hs : e.sres = [])
    (hv : e.vres = some (r, v)) (hp : e.pres = none) :
    modCore c Core.issued (enqueue c .ni e s) = modCore c (fun k => ((k.addNi e).markV r).issued) s := by
  rw [enqueue_ni_vector c e s r v hs hv hp, modCore_modCore]

theorem enqueue_issued_plain (c : CoreId) (e : QEntry) (s : State) (hs : e.sres = []) (hv : e.vres = none) (hp : e.pres = none) :
    modCore c Core.issued (enqueue c .ni e s) = modCore c (fun k => (k.addNi e).issued) s := by
  rw [enqueue_ni_plain c e s hs hv hp, modCore_modCore]

/-! ### Stores: a coalescing WRITE (R466) -/

/-- The WRITE that a store opens at this place, and the entry that waits for it. -/
def Core.opened (g : Coalesce) (k : Core) : Core := { k.addNi { parts := [(g.req, none)] } with coalesce := some g }

/-- The block once a store has opened a WRITE. -/
def opens (c : CoreId) (g : Coalesce) (s : State) : State :=
  { modCore c (Core.opened g) s with fab := { s.fab with nextReq := g.req + 1 } }

theorem opens_core (c : CoreId) (g : Coalesce) (s : State) : (opens c g s).cores[c.val] = s.cores[c.val].opened g := by
  simp only [opens, modCore_cores, upd_same]

/-- Without a coalescing WRITE a store opens one. -/
theorem joinWrite_opens (c : CoreId) (node : BitVec 16) (a : Nat) (d : List Byte) (s : State)
    (hk : s.cores[c.val].coalesce = none) : joinWrite c node a d s =
      if d.length = blockLeft a then closeWrite c (opens c ⟨node, a, d, s.fab.nextReq⟩ s)
      else opens c ⟨node, a, d, s.fab.nextReq⟩ s := by
  have hopen : ∀ u v : State, u = v → (if d.length = blockLeft a then closeWrite c u else u) =
      if d.length = blockLeft a then closeWrite c v else v := fun u v huv => by rw [huv]
  have hno : continues s.cores[c.val] node a = false := by
    unfold continues
    rw [hk]
  unfold joinWrite
  refine hopen _ _ ?_
  rw [if_neg (by rw [hno]; decide), closeWrite_none c s hk]
  dsimp only
  rw [enqueue_ni_plain _ _ _ rfl rfl rfl, modCore_modCore]
  rfl

/-- A remote store within one line and one block. -/
theorem remoteStore_joins (c : CoreId) (node : BitVec 16) (a : Dword) (d : List Byte) (s : State) (dom : Byte)
    (hk : s.cores[c.val].coalesce = none) (ha : a.toNat < 2 ^ 40) (hroute : RouteOpen c node dom s)
    (h : a.toNat % 4096 + d.length ≤ 4096) : ∃ u, u = joinWrite c node a.toNat d s ∧ remoteStore c node a d s =
      if u.cores[c.val].st = .running && u.cores[c.val].pc = s.cores[c.val].pc then advance c u else u := by
  have hmin : min d.length (blockLeft a.toNat) = d.length := by unfold blockLeft; omega
  have hsame : (if continues s.cores[c.val] node a.toNat then s else closeWrite c s) = s := by
    rw [closeWrite_none c s hk, ite_self]
  refine ⟨_, rfl, ?_⟩
  unfold remoteStore
  rw [remoteOk_of_route hroute a ha]
  dsimp only
  rw [hsame]
  simp only [remoteBusy_none c _ s hroute.2.2.2.2.2, hmin, List.take_length, if_true]
  rfl

/-- A route stays open while requests take numbers. -/
theorem RouteOpen.renumbered {c : CoreId} {node : BitVec 16} {dom : Byte} {s t : State} (h : RouteOpen c node dom s) (id : Word)
    (h1 : t.parts = s.parts) (h2 : t.inst = s.inst) (h3 : t.nuc = s.nuc) (h4 : t.fab = { s.fab with nextReq := id }) :
    RouteOpen c node dom t := by
  unfold RouteOpen at *
  rw [pickPort_same node (by rw [h4]) (by rw [h4]) (by rw [h4]) (by rw [h4]) h3]
  simp only [coreInst_same c h1, h2, h4]
  exact h

/-- The core once the WRITE that its store has opened is sent. -/
def Core.sent (g : Coalesce) (m : Stamp) (k : Core) : Core := ((k.opened g).closed).noted m

theorem Core.sent_st (g : Coalesce) (m : Stamp) (k : Core) : (k.sent g m).st = k.st := rfl
theorem Core.sent_pc (g : Coalesce) (m : Stamp) (k : Core) : (k.sent g m).pc = k.pc := rfl

theorem Core.sent_eq (g : Coalesce) (m : Stamp) (k : Core) (h : k.coalesce = none) :
    k.sent g m = (k.addNi { parts := [(g.req, none)] }).noted m := by
  have hnone : ({ k with coalesce := none } : Core) = k := by rw [← h]
  exact congrArg (fun k => (k.addNi { parts := [(g.req, none)] }).noted m) hnone

/-- A store that ends its block: its WRITE leaves at once. -/
theorem opens_closed (c : CoreId) (g : Coalesce) (dom : Byte) (s : State) (hl : NotLast c s) (hr : s.cores[c.val].st = .running)
    (hk : s.cores[c.val].coalesce = none) (hroute : RouteOpen c g.node dom s) : ∃ u, u = closeWrite c (opens c g s) ∧
      u.cores[c.val].st = .running ∧ u.cores[c.val].pc = s.cores[c.val].pc ∧ (advance c u).fab.nextReq = g.req + 1 ∧
      (advance c u).fab.reqs = [{ id := g.req, owner := .core c .ni, msg := reqMsg dom g.req (writeReq g) (opens c g s) }] ∧
      (advance c u).mem = s.mem ∧
      (advance c u).cores = (modCore c (fun k => ((k.addNi { parts := [(g.req, none)] }).noted (stampNow s)).issued) s).cores := by
  have hcore := opens_core c g s
  have hroute' : RouteOpen c g.node dom (opens c g s) := hroute.renumbered (g.req + 1) rfl rfl rfl rfl
  have hw := closeWrite_open c g dom (opens c g s) (by rw [hcore]; rfl) hroute'
  have hcores : (closeWrite c (opens c g s)).cores = (modCore c (Core.sent g (stampNow s)) s).cores := by
    have hm := congrArg State.cores (modCore_modCore c (fun k => k.closed.noted (stampNow s)) (Core.opened g) s)
    rw [hw.cores]
    exact hm
  have hc : (closeWrite c (opens c g s)).cores[c.val] = s.cores[c.val].sent g (stampNow s) := by
    simp only [hcores, modCore_cores, upd_same]
  generalize closeWrite c (opens c g s) = u at hw hcores hc
  refine ⟨u, rfl, by rw [hc, Core.sent_st, hr], by rw [hc, Core.sent_pc], ?_⟩
  have hlu : NotLast c u := by
    unfold NotLast at *
    rw [hc, Core.sent_pc]
    exact hl
  rw [advance_eq c u hlu]
  refine ⟨hw.nextReq, hw.reqs, hw.mem, ?_⟩
  rw [modCore_cores, hcores]
  have hm := congrArg State.cores (modCore_modCore c Core.issued (Core.sent g (stampNow s)) s)
  exact hm.trans (congrArg State.cores (modCore_congr (by rw [Core.sent_eq _ _ _ hk])))

/-- The message of a WRITE that a store sends at once. -/
theorem writeReq_msg (dom : Byte) (g : Coalesce) (s : State) :
    let m := reqMsg dom g.req (writeReq g) s
    m.type = 0x01 ∧ m.dst = g.node ∧ m.domain = dom ∧ m.addr = BitVec.ofNat 64 g.addr ∧ m.payload = g.data ∧ m.reqId = g.req :=
  ⟨rfl, rfl, rfl, rfl, rfl, rfl⟩

/-- A remote store opens a WRITE within its block. -/
theorem remoteStore_open (c : CoreId) (node : BitVec 16) (a : Dword) (d : List Byte) (s : State) (dom : Byte)
    (hl : NotLast c s) (hr : s.cores[c.val].st = .running)
    (hk : s.cores[c.val].coalesce = none) (ha : a.toNat < 2 ^ 40) (hroute : RouteOpen c node dom s)
    (h : a.toNat % 4096 + d.length < 4096) :
    remoteStore c node a d s = modCore c Core.issued (opens c ⟨node, a.toNat, d, s.fab.nextReq⟩ s) := by
  obtain ⟨u, hu, hstore⟩ := remoteStore_joins c node a d s dom hk ha hroute (by omega)
  rw [joinWrite_opens c node a.toNat d s hk, if_neg (by unfold blockLeft; omega)] at hu
  have hcore := opens_core c ⟨node, a.toNat, d, s.fab.nextReq⟩ s
  rw [← hu] at hcore
  have hgo : (u.cores[c.val].st = .running && u.cores[c.val].pc = s.cores[c.val].pc) = true := by
    rw [hcore]
    simp [Core.opened, Core.addNi, hr]
  rw [hstore, hgo, if_pos rfl, advance_eq c u (by unfold NotLast at *; rw [hcore]; exact hl), hu]

/-- A remote store that ends its block sends its WRITE. -/
theorem remoteStore_close (c : CoreId) (node : BitVec 16) (a : Dword) (d : List Byte) (s : State) (dom : Byte)
    (hl : NotLast c s) (hr : s.cores[c.val].st = .running)
    (hk : s.cores[c.val].coalesce = none) (ha : a.toNat < 2 ^ 40) (hroute : RouteOpen c node dom s)
    (h : a.toNat % 4096 + d.length = 4096) : ∃ t, remoteStore c node a d s = t ∧ t.fab.nextReq = s.fab.nextReq + 1 ∧
      t.fab.reqs = [⟨s.fab.nextReq, .core c .ni, reqMsg dom s.fab.nextReq
        (writeReq ⟨node, a.toNat, d, s.fab.nextReq⟩) (opens c ⟨node, a.toNat, d, s.fab.nextReq⟩ s), 0⟩] ∧ t.mem = s.mem ∧
      t.cores = (modCore c (fun k => ((k.addNi { parts := [(s.fab.nextReq, none)] }).noted (stampNow s)).issued) s).cores := by
  obtain ⟨u, hu, hstore⟩ := remoteStore_joins c node a d s dom hk ha hroute (by omega)
  rw [joinWrite_opens c node a.toNat d s hk, if_pos (by unfold blockLeft; omega)] at hu
  obtain ⟨v, hv, hst, hpc, hfacts⟩ := opens_closed c ⟨node, a.toNat, d, s.fab.nextReq⟩ dom s hl hr hk hroute
  have huv : u = v := hu.trans hv.symm
  have hgo : (u.cores[c.val].st = .running && u.cores[c.val].pc = s.cores[c.val].pc) = true := by
    rw [huv, hst, hpc]
    simp
  refine ⟨advance c v, ?_, hfacts⟩
  rw [hstore, hgo, if_pos rfl, huv]

/-- A scalar access moves at most 8 bytes. -/
theorem scalar_le (n x : Nat) (hn : n = 2 ^ x) (hx : x < 4) : 0 < n ∧ n ≤ 8 := by
  subst hn
  interval_cases x <;> decide

/-- Settles O16: a load sends one READ; a store opens a WRITE, which leaves where it ends its block. -/
theorem remoteAccess : Obligations.RemoteAccess := by
  unfold Obligations.RemoteAccess
  intro c w s n dom h hl hsp hfree ha hline hroute
  have hr := executes_running h
  have huse : mUse w = [w.a, w.n] := by rw [mUse, if_pos hsp]
  have hne0 : w.sp ≠ 0 := by rw [hsp]; decide
  have hne1 : ¬ w.sp = 1 := by rw [hsp]; decide
  refine ⟨fun x e hx => ?_, fun x d hx => ?_⟩
  · rcases hx with ⟨hn, hx4, hnp, hx⟩ | ⟨hn, hx0, hnp, rfl, rfl⟩
    · obtain ⟨h0, h8⟩ := scalar_le n _ hn hx4
      have step : ∀ sg, ∃ t, loadInstr c w (only w.x 3) { n := scalarSize w, signed := sg, vec := false } none s = .next t ∧
          Requested c dom (readReq (mNode s.cores[c.val] w) (address c w s) n) s t ∧
          t.cores = (modCore c Core.issued (enqueue c .ni
            { sres := [(w.t, 0)], answered := .scalar sg, parts := [(s.fab.nextReq, none)] } s)).cores := by
        intro sg
        rw [scalarSize_eq w hx4, ← hn]
        have := loadInstr_remote c w s (only w.x 3) { n := n, signed := sg, vec := false } dom h hl (only_scalar w hx4) hsp hfree
          h0 hline ha hroute (by rw [loadRegs, huse]; exact hnp)
        cases sg <;> exact this
      have close : ∀ sg, ∃ t m, loadInstr c w (only w.x 3) { n := scalarSize w, signed := sg, vec := false } none s = .next t ∧
          t.fab.nextReq = s.fab.nextReq + 1 ∧ t.fab.reqs = [{ id := s.fab.nextReq, owner := .core c .ni, msg := m }] ∧
          m.type = 0x02 ∧ m.dst = (sreg s.cores[c.val] w.n).setWidth 16 ∧ m.domain = dom ∧ m.addr = address c w s ∧
          m.arg.toNat = n - 1 ∧ m.reqId = s.fab.nextReq ∧ t.mem = s.mem ∧
          t.cores = (modCore c (fun k => (let k' := k.addNi { ({ sres := [(w.t, 0)], answered := .scalar sg } : QEntry) with
            parts := [(s.fab.nextReq, none)] }
            if n = 64 then k'.markV w.t else k'.markS w.t).issued) s).cores := by
        intro sg
        obtain ⟨t, ht, ⟨hnext, hreqs, hmem⟩, hcores⟩ := step sg
        obtain ⟨m1, m2, m3, m4, m5, m6⟩ := readReq_msg dom s.fab.nextReq (mNode s.cores[c.val] w) (address c w s) n s h0 (by omega)
        refine ⟨t, _, ht, hnext, hreqs, m1, m2, m3, m4, m5, m6, hmem, ?_⟩
        rw [hcores, enqueue_issued_scalar c _ s w.t 0 rfl rfl rfl]
        simp only [if_neg (show ¬ n = 64 by omega)]
      rcases hx with ⟨rfl, rfl⟩ | ⟨rfl, rfl⟩
      · exact close false
      · exact close true
    · obtain ⟨t, ht, ⟨hnext, hreqs, hmem⟩, hcores⟩ := loadInstr_remote c w s (w.x = 0) { n := 64, signed := false, vec := true }
        dom h hl (decide_eq_true hx0) hsp hfree (by decide) (hn ▸ hline) ha hroute
        (by rw [loadRegs, huse]; exact hnp)
      obtain ⟨m1, m2, m3, m4, m5, m6⟩ := readReq_msg dom s.fab.nextReq (mNode s.cores[c.val] w) (address c w s) 64 s (by decide) (by decide)
      refine ⟨t, _, ht, hnext, hreqs, m1, m2, m3, m4, by rw [hn]; exact m5, m6, hmem, ?_⟩
      rw [hcores, enqueue_issued_vector c _ s w.t 0 rfl rfl rfl]
      simp only [if_pos hn]
      rfl
  · have hstore : ∃ k, exec x s = .next (remoteStore c k (address c w s) d s) ∧ k = (sreg s.cores[c.val] w.n).setWidth 16 ∧
        d.length = n := by
      rcases hx with ⟨hn, hx4, hnp, rfl, rfl⟩ | ⟨hn, hx0, hnp, rfl, rfl⟩
      · have harm : exec (.st c w) s = execSt c w s := rfl
        refine ⟨_, ?_, rfl, length_leBytes _ _⟩
        rw [harm, execSt, scalarSize_eq w hx4, ← hn, storeInstr_far c w s _ n _ _ _ h (only_scalar w hx4)
          (mSpaceOk_remote w hsp) hne0 hfree.2 (scalar_le n _ hn hx4).1 hline (by rw [huse]; exact hnp), if_neg hne1]
        rfl
      · have harm : exec (.vst c w) s = execVst c w s := rfl
        refine ⟨_, ?_, rfl, by rw [hn]; exact length_leBytes _ _⟩
        rw [harm, execVst, storeInstr_far c w s _ 64 _ _ _ h (decide_eq_true hx0) (mSpaceOk_remote w hsp) hne0 hfree.2
          (by decide) (hn ▸ hline) (by rw [huse]; exact hnp), if_neg hne1]
        rfl
    obtain ⟨node, hexec, hnode, hlen⟩ := hstore
    rw [← hnode] at hroute
    refine ⟨fun hblock => ?_, fun hblock => ?_⟩
    · rw [hexec, remoteStore_open c node _ d s dom hl hr hfree.1 ha hroute (by omega), hnode]
      refine congrArg Host.Outcome.next ?_
      exact congrArg (fun v => ({ s with cores := v, fab := { s.fab with nextReq := s.fab.nextReq + 1 } } : State))
        ((congrArg State.cores (modCore_modCore c Core.issued _ s)).trans (congrArg State.cores (modCore_congr rfl)))
    · obtain ⟨t, ht, hnext, hreqs, hmem, hcores⟩ := remoteStore_close c node _ d s dom hl hr hfree.1 ha hroute (by omega)
      obtain ⟨m1, m2, m3, m4, m5, m6⟩ := writeReq_msg dom ⟨node, (address c w s).toNat, d, s.fab.nextReq⟩
        (opens c ⟨node, (address c w s).toNat, d, s.fab.nextReq⟩ s)
      exact ⟨t, _, by rw [hexec, ht], hnext, hreqs, m1, m2.trans hnode, m3, by rw [m4]; simp, m5, m6, hmem, hcores⟩

end Sys2Proof.Machine
end

section
/-! PROOFS. Translation and lines of device memory that hold no error (R121 to R125, R237, R387 to R390). -/

namespace Sys2Proof.Machine

open Sys2Proof

/-! ### Translation changes caches alone (R122, R125) -/

/-- Only the translation caches and the count of free values may differ. -/
def OnlyMtu (s t : State) : Prop := t = { s with mtu := t.mtu, free := t.free }

theorem OnlyMtu.refl (s : State) : OnlyMtu s s := rfl

theorem OnlyMtu.trans {s t u : State} (h : OnlyMtu s t) (k : OnlyMtu t u) : OnlyMtu s u := by
  unfold OnlyMtu at *
  rw [k, h]

theorem modMtu_onlyMtu (i : InstId) (f : Mtu → Mtu) (s : State) : OnlyMtu s (modMtu i f s) := rfl
theorem takeFree_onlyMtu (n : Nat) (s : State) : OnlyMtu s (takeFree n s).2 := rfl

/-- Without errors still to be found there is none to correct. -/
theorem fixLine_clean (a : Nat) (s : State) (h : s.mem.latent = []) : fixLine a s = s := by
  simp [fixLine, h]

theorem findErrors_clean (a : Nat) (s : State) (h : s.mem.latent = []) : findErrors a s = s := by
  simp [findErrors, badLines, h, fixLine_clean]

theorem leafFor_onlyMtu (i : InstId) (iva : Nat) (s : State) (h : s.mem.latent = []) : OnlyMtu s (leafFor i iva s).2 := by
  have hfix : ∀ l : List Nat, l.foldl (fun s a => fixLine a s) s = s := fun l => foldl_still _ s l fun a => fixLine_clean a s h
  unfold leafFor
  simp only
  split
  · rw [hfix]
    split
    · exact .refl s
    · exact modMtu_onlyMtu _ _ _
  · have k1 := takeFree_onlyMtu 1 s
    have k2 := fun e => k1.trans (modMtu_onlyMtu i (fun x =>
      { x with cache := if x.cache.contains (iva / 2 ^ 21, e) then x.cache else x.cache ++ [(iva / 2 ^ 21, e)] }) _)
    cases walk s.mtu[i.val] s iva with
    | error k =>
      simp only [Bool.false_eq_true, if_false]
      split
      · exact k1.trans (takeFree_onlyMtu 32 _)
      · exact k1
    | ok e =>
      simp only
      split
      · exact .refl s
      · split
        · exact (k2 e).trans (takeFree_onlyMtu 32 _)
        · exact k2 e

theorem translate_onlyMtu (i : InstId) (acc : Access) (iva : Nat) (s : State) (h : s.mem.latent = []) :
    OnlyMtu s (translate i acc iva s).2 := by
  have key : ∀ (x : Except (BitVec 3) Dword) (u : State), leafFor i iva s = (x, u) → OnlyMtu s u := by
    intro x u hx
    have := leafFor_onlyMtu i iva s h
    rwa [hx] at this
  unfold translate
  split
  · exact .refl s
  · split
    · exact .refl s
    · split
      · next hx => exact key _ _ hx
      · next hx =>
        repeat' split
        all_goals exact key _ _ hx

/-- A change of a core after a translation. -/
theorem OnlyMtu.modCore {s t : State} (h : OnlyMtu s t) (c : CoreId) (f : Core → Core) :
    Machine.modCore c f t = { Machine.modCore c f s with mtu := t.mtu, free := t.free } := by
  have key : ∀ m n, t = { s with mtu := m, free := n } →
      Machine.modCore c f t = { Machine.modCore c f s with mtu := m, free := n } := by
    rintro m n rfl
    rfl
  exact key _ _ h

theorem OnlyMtu.cores {s t : State} (h : OnlyMtu s t) : t.cores = s.cores := by rw [h]
theorem OnlyMtu.mem {s t : State} (h : OnlyMtu s t) : t.mem = s.mem := by rw [h]
theorem OnlyMtu.stampNow {s t : State} (h : OnlyMtu s t) : Machine.stampNow t = Machine.stampNow s := by rw [h]; rfl

/-- A line is as good after a translation as before. -/
theorem OnlyMtu.goodLine {s t : State} (h : OnlyMtu s t) {p : Nat} (hg : GoodLine s p) : GoodLine t p := by
  have key : ∀ m n, t = { s with mtu := m, free := n } → GoodLine t p := by
    rintro m n rfl
    exact hg
  exact key _ _ h

/-! ### A line of device memory that reads and writes as it should -/

theorem readTarget_good (i : InstId) (p n : Nat) (s : State) (h : GoodLine s p) :
    readTarget i (.dpa p) n s = ⟨none, Memory.read 0 s.mem.dpa p n, false, s⟩ := by
  obtain ⟨hregion, hout, hpois, hlat⟩ := h
  have hnp : linePoisoned s p = false := by simpa [linePoisoned] using hpois
  unfold readTarget
  rcases hregion with ⟨ch, hr⟩ | ⟨d, hr⟩ <;> simp only [hr, hout, findErrors_clean p s hlat, hnp] <;> rfl

theorem delLine_absent (l : List Nat) (x : Nat) (h : x ∉ l) : delLine l x = l := by
  unfold delLine
  rw [List.filter_eq_self]
  intro y hy
  simp only [decide_eq_true_eq]
  rintro rfl
  exact h hy

/-- Bytes written to a good line: only they change. -/
theorem writeTarget_good (i : InstId) (p : Nat) (d : List Byte) (s : State) (h : GoodLine s p) :
    writeTarget i (.dpa p) d false s = (none, putDpa p d s) := by
  obtain ⟨hregion, hout, hpois, hlat⟩ := h
  have hsame : ({ s with mem := { s.mem with poisoned := delLine s.mem.poisoned (p / 64),
                                             latent := s.mem.latent.filter fun e => e.1 ≠ p / 64 } } : State) = s := by
    rw [delLine_absent _ _ hpois, hlat, List.filter_nil, ← hlat]
  unfold writeTarget
  rcases hregion with ⟨ch, hr⟩ | ⟨_, hr⟩ <;> simp only [hr, hout, findErrors_clean p s hlat, hsame, Bool.false_eq_true, if_false] <;>
    split <;> rfl

/-- A request of the current generation that maps to a good line reads its bytes. -/
theorem readLineP_good (w : Who) (sized : Bool) (iva n p : Nat) (s : State) (hc : current w s = true)
    (ht : (translate w.inst .read iva s).1 = .ok (.dpa p)) (hg : GoodLine s p) : readLineP w sized iva n s =
      ⟨none, Memory.read 0 s.mem.dpa p n, false, (translate w.inst .read iva s).2⟩ := by
  have hmtu := translate_onlyMtu w.inst .read iva s hg.2.2.2
  rcases htr : translate w.inst .read iva s with ⟨x, u⟩
  rw [htr] at ht hmtu
  simp only at ht hmtu
  subst ht
  have hgu := hmtu.goodLine hg
  unfold readLineP
  rw [hc, htr]
  simp only [Bool.not_true, Bool.false_eq_true, if_false]
  rcases hgu.1 with ⟨ch, hr⟩ | ⟨d, hr⟩ <;> simp only [hr, readTarget_good _ _ _ _ hgu, hmtu.mem]

theorem writeLineP_good (w : Who) (sized : Bool) (iva p : Nat) (d : List Byte) (s : State) (hc : current w s = true)
    (ht : (translate w.inst .write iva s).1 = .ok (.dpa p)) (hg : GoodLine s p) : writeLineP w sized iva d s =
      (none, putDpa p d (translate w.inst .write iva s).2) := by
  have hmtu := translate_onlyMtu w.inst .write iva s hg.2.2.2
  rcases htr : translate w.inst .write iva s with ⟨x, u⟩
  rw [htr] at ht hmtu
  simp only at ht hmtu
  subst ht
  have hgu := hmtu.goodLine hg
  unfold writeLineP
  rw [hc, htr]
  simp only [Bool.not_true, Bool.false_eq_true, if_false]
  rcases hgu.1 with ⟨ch, hr⟩ | ⟨_, hr⟩ <;> simp only [hr, writeTarget_good _ _ _ _ hgu]

theorem current_coreWho {c : CoreId} {s : State} {acc : Access} {a p : Nat} (h : MapsTo c acc a s p) :
    current (coreWho c s) s = true := decide_eq_true h.1

end Sys2Proof.Machine
end

section
/-! PROOFS. Loads and stores in global space (R44, R121, R196, R198, R208, R213, R237). -/

namespace Sys2Proof.Machine

open Sys2Proof

theorem issued_eq (c : CoreId) (e : QEntry) (s : State) (hr : s.cores[c.val].st = .running) (hl : NotLast c s) :
    issued c .ni e s = modCore c Core.issued (enqueue c .ni e s) := by
  unfold issued
  rw [if_pos hr, advance_eq c _ (by unfold NotLast at *; simpa [enqueue] using hl)]

theorem NotLast.same {c : CoreId} {s t : State} (h : NotLast c s) (hc : t.cores = s.cores) : NotLast c t := by
  unfold NotLast at *
  rw [hc]
  exact h

/-- A global load within a good line takes its bytes, and its entry joins the queue. -/
theorem globalLoad_one (c : CoreId) (w : MFmt) (f : LoadForm) (a : Dword) (s : State) (p : Nat)
    (hr : s.cores[c.val].st = .running) (hl : NotLast c s) (hk : s.cores[c.val].coalesce = none) (h0 : 0 < f.n)
    (h1 : a.toNat % 64 + f.n ≤ 64) (hm : MapsTo c .read a.toNat s p) (hg : GoodLine s p) :
    ∃ u, OnlyMtu s u ∧ globalLoad c w f a s =
      modCore c Core.issued (enqueue c .ni (loadEntry f w.t (Memory.read 0 s.mem.dpa p f.n)) u) := by
  have hmtu := translate_onlyMtu (coreWho c s).inst .read a.toNat s hg.2.2.2
  refine ⟨_, hmtu, ?_⟩
  have hlines : lineReqs a f.n = [(a.toNat, f.n)] := chunks_one _ _ h0 h1
  unfold globalLoad
  rw [closing_none c _ s hk hr, hlines]
  simp only [readChunksP, readLineP_good (coreWho c s) _ a.toNat f.n p s (current_coreWho hm) hm.2 hg, List.nil_append,
    Bool.or_self, Bool.false_eq_true, if_false, List.length_singleton]
  generalize (translate (coreWho c s).inst .read a.toNat s).2 = u at hmtu ⊢
  have hreqs : ∀ d, { loadEntry f w.t d with reqs := 1 } = loadEntry f w.t d := by
    intro d
    unfold loadEntry
    split <;> rfl
  rw [hreqs, issued_eq c _ u (by rw [hmtu.cores]; exact hr) (hl.same hmtu.cores)]

/-- A global store within a good line writes its bytes, and its entry joins the queue. -/
theorem globalStore_one (c : CoreId) (a : Dword) (d : List Byte) (s : State) (p : Nat)
    (hr : s.cores[c.val].st = .running) (hl : NotLast c s) (hk : s.cores[c.val].coalesce = none) (h0 : 0 < d.length)
    (h1 : a.toNat % 64 + d.length ≤ 64) (hm : MapsTo c .write a.toNat s p) (hg : GoodLine s p) :
    ∃ u, OnlyMtu s u ∧ globalStore c a d s =
      modCore c (fun k => ((k.addNi {}).noted (stampNow s)).issued) (putDpa p d u) := by
  have hmtu := translate_onlyMtu (coreWho c s).inst .write a.toNat s hg.2.2.2
  refine ⟨_, hmtu, ?_⟩
  have hlines : lineReqs a d.length = [(a.toNat, d.length)] := chunks_one _ _ h0 h1
  unfold globalStore
  rw [closing_none c _ s hk hr, hlines]
  simp only [writeChunksP, List.take_length, writeLineP_good (coreWho c s) _ a.toNat p d s (current_coreWho hm) hm.2 hg,
    List.length_singleton]
  generalize (translate (coreWho c s).inst .write a.toNat s).2 = u at hmtu ⊢
  have hnote : noteCore c (putDpa p d u) = modCore c (fun k => k.noted (stampNow s)) (putDpa p d u) := by
    rw [← hmtu.stampNow]
    rfl
  have hcore : (modCore c (fun k => k.noted (stampNow s)) (putDpa p d u)).cores[c.val] =
      s.cores[c.val].noted (stampNow s) := by
    rw [modCore_cores, upd_same, ← hmtu.cores]
    rfl
  rw [hnote, issued_eq c _ _ (by rw [hcore]; exact hr) (by unfold NotLast at *; rw [hcore]; exact hl),
    enqueue_ni_plain c _ _ rfl rfl rfl, modCore_modCore, modCore_modCore]
  exact modCore_congr rfl

/-- Only translation has touched what a global load leaves besides its core. -/
theorem OnlyMtu.result {s u : State} (h : OnlyMtu s u) (c : CoreId) (f : Core → Core) : ∃ t, Machine.modCore c f u = t ∧
    t = { Machine.modCore c f s with mtu := t.mtu, free := t.free } := by
  refine ⟨_, rfl, ?_⟩
  have hm := h.modCore c f
  exact hm

/-- What a global store leaves: its bytes, its core, and what translation touches. -/
theorem OnlyMtu.stored {s u : State} (h : OnlyMtu s u) (c : CoreId) (f : Core → Core) (p : Nat) (d : List Byte)
    (hwf : Memory.wf 0 s.mem.dpa = true) : ∃ t, Machine.modCore c f (putDpa p d u) = t ∧
      t = { Machine.modCore c f s with mtu := t.mtu, free := t.free, mem := { s.mem with dpa := t.mem.dpa } } ∧
      (∀ b, b < p ∨ p + d.length ≤ b → t.byte b = s.byte b) ∧ ∀ j < d.length, t.byte (p + j) = d.getD j 0 := by
  have hdpa : (Machine.modCore c f (putDpa p d u)).mem.dpa = Memory.write 0 s.mem.dpa p d := by
    rw [← h.mem]
    rfl
  refine ⟨_, rfl, ?_, fun b hb => ?_, fun j hj => ?_⟩
  · have key : ∀ m n, u = { s with mtu := m, free := n } → Machine.modCore c f (putDpa p d u) =
        { Machine.modCore c f s with mtu := m, free := n, mem := { s.mem with dpa := (putDpa p d u).mem.dpa } } := by
      rintro m n rfl
      rfl
    exact key _ _ h
  · unfold State.byte
    rw [hdpa]
    exact get_write_outside _ _ _ _ hwf hb
  · unfold State.byte
    rw [hdpa]
    exact get_write_inside _ _ _ _ hwf hj

theorem scalarOf_true_of_length (d : List Byte) (n : Nat) (h : d.length = n) :
    scalarOf true d = (BitVec.ofNat (8 * n) (leNat d)).signExtend 64 := by
  subst h
  exact scalarOf_true d

/-- Settles O15: one request, to the line that translation gives. -/
theorem globalAccess : Obligations.GlobalAccess := by
  unfold Obligations.GlobalAccess
  intro c w s p n h hl hsp hn0 hfree hg hline hwf
  have hr := executes_running h
  obtain ⟨hk, hq⟩ := hfree
  have huse := mUse_near w (by rw [hsp]; decide)
  have hne0 : w.sp ≠ 0 := by rw [hsp]; decide
  have hspace := mSpaceOk_of w (.inr hsp) hn0
  refine ⟨fun hm => ⟨fun hn hx hnp => ?_, fun hn hx hnp => ?_⟩, fun hm => ⟨fun hn hx hnp => ?_, fun hn hx hnp => ?_⟩⟩
  · obtain ⟨hpos, h8⟩ := scalar_le n _ hn hx
    have step : ∀ sg, ∃ t, loadInstr c w (only w.x 3) { n := scalarSize w, signed := sg, vec := false } none s = .next t ∧
        t = { modCore c (fun k => ((k.addNi { sres := [(w.t, scalarOf sg (Memory.read 0 s.mem.dpa p n))] }).markS w.t).issued) s with
          mtu := t.mtu, free := t.free } := by
      intro sg
      obtain ⟨u, hu, hload⟩ := globalLoad_one c w { n := n, signed := sg, vec := false } (address c w s) s p hr hl hk hpos hline hm hg
      have he : loadEntry { n := n, signed := sg, vec := false } w.t (Memory.read 0 s.mem.dpa p n) =
          { sres := [(w.t, scalarOf sg (Memory.read 0 s.mem.dpa p n))] } := rfl
      rw [he, enqueue_issued_scalar c _ u w.t _ rfl rfl rfl] at hload
      obtain ⟨t, ht, hframe⟩ := hu.result c (fun k =>
        ((k.addNi { sres := [(w.t, scalarOf sg (Memory.read 0 s.mem.dpa p n))] }).markS w.t).issued)
      refine ⟨t, ?_, hframe⟩
      rw [scalarSize_eq w hx, ← hn, loadInstr_far c w s _ _ h (only_scalar w hx) hspace hne0 hq hpos hline
        (by rw [loadRegs, huse]; exact hnp), if_pos hsp, hload, ht]
    refine ⟨step false, ?_⟩
    have hlds := step true
    rw [scalarOf_true_of_length _ n (Memory.length_read _ _ _ _)] at hlds
    exact hlds
  · obtain ⟨u, hu, hload⟩ := globalLoad_one c w { n := 64, signed := false, vec := true } (address c w s) s p hr hl hk (by decide)
      (hn ▸ hline) hm hg
    have he : loadEntry { n := 64, signed := false, vec := true } w.t (Memory.read 0 s.mem.dpa p 64) =
        { vres := some (w.t, BitVec.ofNat 512 (leNat (Memory.read 0 s.mem.dpa p 64))) } := rfl
    rw [he, enqueue_issued_vector c _ u w.t _ rfl rfl rfl] at hload
    obtain ⟨t, ht, hframe⟩ := hu.result c (fun k =>
      ((k.addNi { vres := some (w.t, BitVec.ofNat 512 (leNat (Memory.read 0 s.mem.dpa p 64))) }).markV w.t).issued)
    have harm : exec (.vld c w none) s = execVld c w none s := rfl
    refine ⟨t, ?_, hframe⟩
    rw [harm, execVld, loadInstr_far c w s _ _ h (decide_eq_true hx) hspace hne0 hq (by decide) (hn ▸ hline)
      (by rw [loadRegs, huse]; exact hnp), if_pos hsp, hload, ht]
  · have harm : exec (.st c w) s = execSt c w s := rfl
    obtain ⟨hpos, h8⟩ := scalar_le n _ hn hx
    have hexec := storeInstr_far c w s _ n _ _ (fun k => leBytes n (sreg k w.t).toNat) h (only_scalar w hx) hspace hne0 hq hpos hline hnp
    have hbytes : ∀ j < n, (leBytes n (sreg s.cores[c.val] w.t).toNat).getD j 0 =
        (sreg s.cores[c.val] w.t).extractLsb' (8 * j) 8 := fun j hj => getD_leBytes_toNat _ n j hj
    have hlen := length_leBytes n (sreg s.cores[c.val] w.t).toNat
    generalize leBytes n (sreg s.cores[c.val] w.t).toNat = d at hexec hbytes hlen
    obtain ⟨u, hu, hstore⟩ := globalStore_one c (address c w s) d s p hr hl hk (by omega) (by omega) hm hg
    obtain ⟨t, ht, hframe, hout, hin⟩ := hu.stored c (fun k => ((k.addNi {}).noted (stampNow s)).issued) p d hwf
    rw [hlen] at hout hin
    refine ⟨t, ?_, hframe, hout, fun j hj => (hin j hj).trans (hbytes j hj)⟩
    rw [harm, execSt, huse, scalarSize_eq w hx, ← hn, hexec, if_pos hsp, hstore, ht]
  · have harm : exec (.vst c w) s = execVst c w s := rfl
    have hexec := storeInstr_far c w s _ 64 _ _ (fun k => leBytes 64 (vreg k w.t).toNat) h (decide_eq_true hx) hspace hne0 hq
      (by decide) (hn ▸ hline) hnp
    have hbytes : ∀ j < 64, (leBytes 64 (vreg s.cores[c.val] w.t).toNat).getD j 0 =
        (vreg s.cores[c.val] w.t).extractLsb' (8 * j) 8 := fun j hj => getD_leBytes_toNat _ 64 j hj
    have hlen := length_leBytes 64 (vreg s.cores[c.val] w.t).toNat
    generalize leBytes 64 (vreg s.cores[c.val] w.t).toNat = d at hexec hbytes hlen
    obtain ⟨u, hu, hstore⟩ := globalStore_one c (address c w s) d s p hr hl hk (by omega) (by omega) hm hg
    obtain ⟨t, ht, hframe, hout, hin⟩ := hu.stored c (fun k => ((k.addNi {}).noted (stampNow s)).issued) p d hwf
    rw [hlen] at hout hin
    refine ⟨t, ?_, hframe, hout, fun j hj => (hin j hj).trans (hbytes j hj)⟩
    rw [harm, execVst, huse, hexec, if_pos hsp, hstore, ht]

end Sys2Proof.Machine
end

section
/-! PROOFS. L128 values, atomic forms and the marks they leave on a core (R267 to R272, R288 to R291). -/

namespace Sys2Proof.Machine

open Sys2Proof

/-! ### Bytes of words -/

theorem leNat_append (a b : List Byte) : leNat (a ++ b) = leNat a + 256 ^ a.length * leNat b := by
  induction a with
  | nil => simp [leNat]
  | cons x t ih =>
    rw [List.cons_append, leNat, ih, leNat, List.length_cons, Nat.pow_succ', Nat.mul_add, Nat.add_assoc, Nat.mul_assoc]

/-- The halves of 16 bytes. -/
theorem leNat_halves (d : List Byte) (h : d.length = 16) : leNat d = leNat (d.take 8) + 2 ^ 64 * leNat ((d.drop 8).take 8) := by
  have h2 : (d.drop 8).take 8 = d.drop 8 := List.take_of_length_le (by simp [h])
  have h3 : (d.take 8).length = 8 := by simp [h]
  conv_lhs => rw [← List.take_append_drop 8 d, leNat_append, h3]
  rw [h2, show (256 : Nat) ^ 8 = 2 ^ 64 from rfl]

theorem leNat_lt_of_length (d : List Byte) (n : Nat) (h : d.length = n) : leNat d < 2 ^ (8 * n) := h ▸ leNat_lt d

/-- The low bytes of a number are those of its remainder. -/
theorem leBytes_mod (n x : Nat) : leBytes n (x % 256 ^ n) = leBytes n x := by
  induction n generalizing x with
  | zero => rfl
  | succ n ih =>
    have hhead : BitVec.ofNat 8 (x % 256 ^ (n + 1)) = BitVec.ofNat 8 x := by
      apply BitVec.eq_of_toNat_eq
      simp only [BitVec.toNat_ofNat]
      exact Nat.mod_mod_of_dvd x (Dvd.intro_left (256 ^ n) rfl)
    have htail : x % 256 ^ (n + 1) / 256 = x / 256 % 256 ^ n := by
      rw [Nat.pow_succ', Nat.mod_mul_right_div_self]
    rw [leBytes, leBytes, hhead, htail, ih]

theorem leNat_leBytes (n x : Nat) : leNat (leBytes n x) = x % 256 ^ n := by
  induction n generalizing x with
  | zero => simp [leBytes, leNat, Nat.mod_one]
  | succ n ih =>
    rw [leBytes, leNat, ih, BitVec.toNat_ofNat, Nat.pow_succ' (n := n), Nat.mod_mul]

/-! ### L128 (R267, R268, R270) -/

theorem pairReg_eq (k : Core) (r : BitVec 5) : pairReg k r = pairValue128 k r := by
  unfold pairReg pairValue128
  generalize sreg k r = lo
  generalize sreg k (r + 1) = hi
  apply BitVec.eq_of_toNat_eq
  have h1 := lo.isLt
  have h2 := hi.isLt
  rw [BitVec.toNat_append, BitVec.toNat_ofNat, Nat.mod_eq_of_lt (by omega), Nat.shiftLeft_eq, Nat.mul_comm hi.toNat,
    ← Nat.two_pow_add_eq_or_of_lt h1]
  omega

/-- The sum of two L128 values, with INF where one is met or produced. -/
theorem addL128_eq (a b : BitVec 128) : addL128 a b = (sumL128 a b, decide (sumL128 a b = 1#128 <<< 127)) := by
  have hinf : (1#128 <<< 127).toInt = -2 ^ 127 := by decide
  unfold addL128 sumL128 infL128
  by_cases hm : a = 1#128 <<< 127 ∨ b = 1#128 <<< 127
  · have hm' : (decide (a = 1#128 <<< 127) || decide (b = 1#128 <<< 127)) = true := by simpa using hm
    rw [if_pos hm', if_pos (hm.elim .inl (.inr ∘ .inl))]
    simp
  · have hm' : ¬ (decide (a = 1#128 <<< 127) || decide (b = 1#128 <<< 127)) = true := by simpa using hm
    rw [if_neg hm']
    dsimp only
    by_cases hv : (a.toInt + b.toInt).natAbs < 2 ^ 127
    · have hno : ¬ (a = 1#128 <<< 127 ∨ b = 1#128 <<< 127 ∨ 2 ^ 127 ≤ (a.toInt + b.toInt).natAbs) := by
        rintro (h | h | h)
        · exact hm (.inl h)
        · exact hm (.inr h)
        · omega
      have hsum : BitVec.ofInt 128 (a.toInt + b.toInt) = a + b := by
        rw [BitVec.ofInt_add, BitVec.ofInt_toInt, BitVec.ofInt_toInt]
      have hne : a + b ≠ 1#128 <<< 127 := by
        intro h
        have hi := congrArg BitVec.toInt h
        rw [← hsum, hinf, BitVec.toInt_ofInt, Int.bmod_def] at hi
        omega
      rw [if_pos hv, if_neg hno, hsum, decide_eq_false hne]
    · rw [if_neg hv, if_pos (.inr (.inr (by omega)))]
      simp

theorem laddBytes_eq (v : BitVec 128) (d : List Byte) : laddBytes v d =
    (leBytes 16 (sumL128 (BitVec.ofNat 128 (leNat d)) v).toNat,
      decide (sumL128 (BitVec.ofNat 128 (leNat d)) v = 1#128 <<< 127)) := by
  unfold laddBytes
  rw [addL128_eq]

theorem faddBytes_eq (v : Word) (d : List Byte) :
    faddBytes v d = (leBytes 4 (f32Add (BitVec.ofNat 32 (leNat d)).toNat v.toNat), false) := by
  unfold faddBytes addF32
  rw [BitVec.toNat_ofNat]
  exact congrArg (·, false) (leBytes_mod 4 _)

theorem rangeFlag_eq (v : BitVec 128) : rangeFlag (valL128 v) = flagIf (beyondWindow v) 2 := by
  unfold rangeFlag valL128 beyondWindow infL128
  split
  · next h => rw [h]; rfl
  · next h => rw [bne_iff_ne.2 h]; rfl

/-- The old value of a LADD in a register pair. -/
theorem laddEntry_eq (t : BitVec 5) (ret : Bool) (d : List Byte) (h : d.length = 16) :
    laddEntry t ret d = oldPair t ret (BitVec.ofNat 128 (leNat d)) := by
  have hlo := leNat_lt_of_length (d.take 8) 8 (by simp [h])
  have hhi := leNat_lt_of_length ((d.drop 8).take 8) 8 (by simp [h])
  have hd := leNat_halves d h
  have e1 : (BitVec.ofNat 128 (leNat d)).setWidth 64 = BitVec.ofNat 64 (leNat (d.take 8)) := by
    apply BitVec.eq_of_toNat_eq
    simp only [BitVec.toNat_setWidth, BitVec.toNat_ofNat]
    omega
  have e2 : (BitVec.ofNat 128 (leNat d)).extractLsb' 64 64 = BitVec.ofNat 64 (leNat ((d.drop 8).take 8)) := by
    apply BitVec.eq_of_toNat_eq
    simp only [BitVec.extractLsb', BitVec.toNat_ofNat, Nat.shiftRight_eq_div_pow]
    omega
  unfold laddEntry oldPair
  rw [e1, e2]
  rfl

/-- The old value of a FADD in one register. -/
theorem faddEntry_eq (t : BitVec 5) (ret : Bool) (d : List Byte) (h : d.length = 4) :
    (if ret then { sres := [(t, scalarOf false d)] } else {} : QEntry) = oldWord t ret (BitVec.ofNat 32 (leNat d)) := by
  have hlt := leNat_lt_of_length d 4 h
  have e1 : (BitVec.ofNat 32 (leNat d)).setWidth 64 = scalarOf false d := by
    rw [scalarOf_false]
    apply BitVec.eq_of_toNat_eq
    simp only [BitVec.toNat_setWidth, BitVec.toNat_ofNat]
    omega
  unfold oldWord
  rw [e1]

/-! ### Flags and marks of a core -/

/-- Ledger flags set, and the program's record of them. -/
def Core.flagged (f : Word) (k : Core) : Core := { k with flags := k.flags ||| f, everFlags := k.everFlags ||| f }

theorem setFlags_eq (c : CoreId) (f : Word) (s : State) : setFlags c f s = modCore c (Core.flagged f) s := rfl

theorem Core.flagged_zero (k : Core) : k.flagged 0 = k := by simp [Core.flagged]

theorem Core.metInf_eq (k : Core) (b : Bool) : k.metInf b = k.flagged (flagIf b 4) := by
  cases b
  · exact k.flagged_zero.symm
  · rfl

theorem Core.metRange_eq (k : Core) (b : Bool) : k.metRange b = k.flagged (flagIf b 2) := by
  cases b
  · exact k.flagged_zero.symm
  · rfl

theorem Core.flagged_flagged (f g : Word) (k : Core) : (k.flagged f).flagged g = k.flagged (g ||| f) := by
  simp only [Core.flagged, BitVec.or_assoc, BitVec.or_comm g f]

/-- Registers marked pending. -/
def Core.marked (m : BitVec 32) (k : Core) : Core := { k with pendS := k.pendS ||| m }

/-- The mark of a register; s0 has none. -/
def markBit (r : BitVec 5) : BitVec 32 := if r = 0 then 0 else 1#32 <<< r.toNat

theorem Core.marked_zero (k : Core) : k.marked 0 = k := by simp [Core.marked]

theorem Core.markS_eq (k : Core) (r : BitVec 5) : k.markS r = k.marked (markBit r) := by
  unfold Core.markS markBit
  split
  · exact k.marked_zero.symm
  · rfl

theorem Core.markS_markS_eq (k : Core) (r r' : BitVec 5) : (k.markS r).markS r' = k.marked (markBit r ||| markBit r') := by
  rw [Core.markS_eq, Core.markS_eq]
  simp only [Core.marked, BitVec.or_assoc]

theorem enqueue_ni_pair (c : CoreId) (e : QEntry) (s : State) (r r' : BitVec 5) (v v' : Dword) (hs : e.sres = [(r, v), (r', v')])
    (hv : e.vres = none) (hp : e.pres = none) :
    enqueue c .ni e s = modCore c (fun k => ((k.addNi e).markS r).markS r') s := by
  cases e
  subst hs hv hp
  refine modCore_congr ?_
  unfold Core.markS
  simp only [List.foldl_cons, List.foldl_nil]
  split <;> split <;> rfl

/-- Marks and flags do not meet in the issue of an instruction. -/
theorem Core.issue_flagged (f : Word) (m : BitVec 32) (e : QEntry) (k : Core) :
    (((k.flagged f).addNi e).marked m).issued = (((k.addNi e).marked m).issued).flagged f := by
  unfold Core.issued
  have h : (((k.flagged f).addNi e).marked m).ctrFreeze = ((k.addNi e).marked m).ctrFreeze := rfl
  rw [h]
  split <;> rfl

theorem Core.issue_noted (t : Stamp) (m : BitVec 32) (e : QEntry) (k : Core) :
    (((k.noted t).addNi e).marked m).issued = (((k.addNi e).marked m).issued).noted t := by
  unfold Core.issued
  have h : (((k.noted t).addNi e).marked m).ctrFreeze = ((k.addNi e).marked m).ctrFreeze := rfl
  rw [h]
  split <;> rfl

theorem Core.issue_wrote (a : Nat) (d : List Byte) (t : Stamp) (m : BitVec 32) (e : QEntry) (k : Core) :
    (((k.wrote a d t).addNi e).marked m).issued =
      ({ ((k.addNi e).marked m).issued with mem := Memory.write 0 k.mem a d } : Core).noted t := by
  unfold Core.issued
  have h : (((k.wrote a d t).addNi e).marked m).ctrFreeze = ((k.addNi e).marked m).ctrFreeze := rfl
  rw [h]
  split <;> rfl

theorem Core.flagged_noted (f : Word) (t : Stamp) (k : Core) : (k.flagged f).noted t = (k.noted t).flagged f := rfl

end Sys2Proof.Machine
end

section
/-! PROOFS. LADD and FADD (R44, R198, R199, R206, R267 to R272, R288 to R291, R300). -/

namespace Sys2Proof.Machine

open Sys2Proof

/-! ### Issue -/

/-- The registers of a node's address, in the spaces that have no node too. -/
theorem NotPending.mUse {k : Core} {w : MFmt} {rs : List (BitVec 5)} (h : NotPending k (rs ++ [w.a, w.n]) [] []) :
    NotPending k (rs ++ mUse w) [] [] := by
  obtain ⟨h1, h2, h3⟩ := h
  refine ⟨fun r hr => h1 r ?_, h2, h3⟩
  unfold Machine.mUse at hr
  split at hr <;> simp_all
  grind

/-- An atomic that executes acts in its space. -/
theorem atomInstr_executes (c : CoreId) (w : MFmt) (s : State) (legal ret : Bool) (regs : List (BitVec 5)) (m : Core → AtomForm)
    (h : Executes c w.g s) (hlegal : legal = true) (hx : w.x = if ret then 1 else 0) (hsp : w.sp ≠ 3)
    (hn : w.sp ≠ 2 → w.n = 0) (hfree : NiFree c 1 s) (hnp : NotPending s.cores[c.val] (regs ++ [w.a, w.n]) [] []) :
    atomInstr c w legal regs m s = .next (if w.sp = 0 then localAtomic c (m s.cores[c.val]) (address c w s) s
      else if w.sp = 1 then globalAtomic c (m s.cores[c.val]) (address c w s) s
      else remoteAtomic c (mNode s.cores[c.val] w) (m s.cores[c.val]) (address c w s) s) := by
  have hspace : mSpaceOk w = true := by
    simp only [mSpaceOk, Bool.and_eq_true, bne_iff_ne, Bool.or_eq_true, decide_eq_true_eq]
    exact ⟨hsp, Decidable.or_iff_not_imp_left.2 hn⟩
  have honly : only w.x 1 = true := by
    rw [hx]
    cases ret <;> decide
  have hz := noHazard_of_ready s.cores[c.val] { s := regs ++ mUse w, q := some .ni } hnp.mUse
    (fun q hq' => by obtain rfl := Option.some.inj hq'; exact hfree.2) (slotsAwaited_none _ _ rfl rfl)
  unfold atomInstr
  rw [hlegal, hspace, honly, Bool.and_self, Bool.and_self, coreInstr_executes c w.g _ _ s h hz]
  simp only [closing_none c _ s hfree.1 (executes_running h)]
  rfl

/-! ### The marks of an atomic's entry (R213, R288, R291) -/

/-- The entry joins the NI queue under these marks. -/
def MarksNi (e : QEntry) (m : BitVec 32) : Prop :=
  ∀ (c : CoreId) (s : State), enqueue c .ni e s = modCore c (fun k => (k.addNi e).marked m) s

/-- The marks of an old value in a register pair, or in one register. -/
def pairMark (t : BitVec 5) (ret : Bool) : BitVec 32 := if ret then markBit t ||| markBit (t + 1) else 0
def wordMark (t : BitVec 5) (ret : Bool) : BitVec 32 := if ret then markBit t else 0

theorem marksNi_none (e : QEntry) (hs : e.sres = []) (hv : e.vres = none) (hp : e.pres = none) : MarksNi e 0 := by
  intro c s
  rw [enqueue_ni_plain c e s hs hv hp]
  exact modCore_congr (Core.marked_zero _).symm

theorem marksNi_pair (e : QEntry) (t : BitVec 5) (ret : Bool) (old : BitVec 128) (hs : e.sres = (oldPair t ret old).sres)
    (hv : e.vres = none) (hp : e.pres = none) : MarksNi e (pairMark t ret) := by
  cases ret
  · exact marksNi_none e hs hv hp
  · intro c s
    rw [enqueue_ni_pair c e s t (t + 1) _ _ hs hv hp]
    exact modCore_congr (Core.markS_markS_eq _ _ _)

theorem marksNi_word (e : QEntry) (t : BitVec 5) (ret : Bool) (old : Word) (hs : e.sres = (oldWord t ret old).sres)
    (hv : e.vres = none) (hp : e.pres = none) : MarksNi e (wordMark t ret) := by
  cases ret
  · exact marksNi_none e hs hv hp
  · intro c s
    rw [enqueue_ni_scalar c e s t _ hs hv hp]
    exact modCore_congr (Core.markS_eq _ _)

theorem marks2_eq (t : BitVec 5) (ret : Bool) (k : Core) :
    (if ret then (k.markS t).markS (t + 1) else k) = k.marked (pairMark t ret) := by
  cases ret
  · exact (Core.marked_zero k).symm
  · exact Core.markS_markS_eq k t (t + 1)

theorem marks1_eq (t : BitVec 5) (ret : Bool) (k : Core) : (if ret then k.markS t else k) = k.marked (wordMark t ret) := by
  cases ret
  · exact (Core.marked_zero k).symm
  · exact Core.markS_eq k t

theorem oldPair_plain (t : BitVec 5) (ret : Bool) (old : BitVec 128) :
    (oldPair t ret old).vres = none ∧ (oldPair t ret old).pres = none := by
  cases ret <;> exact ⟨rfl, rfl⟩

theorem oldWord_plain (t : BitVec 5) (ret : Bool) (old : Word) :
    (oldWord t ret old).vres = none ∧ (oldWord t ret old).pres = none := by
  cases ret <;> exact ⟨rfl, rfl⟩

/-! ### Local space -/

theorem localFind_clean (c : CoreId) (a n : Nat) (s : State) (h : CleanLines s.cores[c.val] a n) : localFind c a n s = s := by
  unfold localFind
  rw [List.filter_eq_nil_iff.2]
  · rfl
  · intro e he hl
    exact (h e.1 (List.contains_iff_mem.1 hl)).2 e he rfl

theorem localPoison_clean (k : Core) (a n : Nat) (h : CleanLines k a n) : localPoison k a n = false := by
  unfold localPoison
  rw [List.any_eq_false]
  intro l hl
  simpa using (h l hl).1

theorem atomLocal_loadable (a : Dword) (n : Nat) (h : a.toNat % n = 0) (hl : Loadable a.toNat n) : atomLocal a n n = none := by
  unfold atomLocal inData dataBase accBase localEnd
  rw [if_neg (by simp [h]), if_pos]
  simp only [Bool.or_eq_true, Bool.and_eq_true, decide_eq_true_eq]
  exact hl

/-- What an atomic of a part of one line does to a local memory without errors. -/
theorem localAtomic_clean (c : CoreId) (m : AtomForm) (a : Dword) (s : State) (mk : BitVec 32) (d : List Byte) (inf : Bool)
    (hr : s.cores[c.val].st = .running) (hl : NotLast c s) (hloc : atomLocal a m.n m.align = none)
    (hclean : CleanLines s.cores[c.val] a.toNat m.n) (hrace : NoRace (some .ni) s.cores[c.val])
    (h0 : 0 < m.n) (h1 : m.n < 64) (hline : a.toNat % 64 + m.n ≤ 64)
    (hf : m.f (localBytes s.cores[c.val] a.toNat m.n) = (d, inf)) (hd : d.length = m.n)
    (hmk : MarksNi { m.e (localBytes s.cores[c.val] a.toNat m.n) with wrote := [(a.toNat, m.n)] } mk) :
    localAtomic c m a s = modCore c (fun k => (({ ((k.addNi
      { m.e (localBytes s.cores[c.val] a.toNat m.n) with wrote := [(a.toNat, m.n)] }).marked mk).issued with
        mem := Memory.write 0 k.mem a.toNat d } : Core).flagged (m.fl ||| flagIf inf flagInf)).noted (stampNow s)) s := by
  unfold localAtomic
  rw [hloc]
  simp only [localFind_clean c _ _ s hclean, localPoison_clean _ _ _ hclean, Bool.false_eq_true, if_false,
    localRead_noRace hrace, hf, localWrite_noRace hrace]
  rw [localPut_part c _ d s (by omega) (by omega) (by omega), setFlags_eq, modCore_modCore]
  have hcore := upd_same s.cores c fun k => (k.wrote a.toNat d (stampNow s)).flagged (m.fl ||| flagIf inf flagInf)
  rw [issued_eq c _ _ (by rw [modCore_cores, hcore]; exact hr) (by unfold NotLast; rw [modCore_cores, hcore]; exact hl),
    hmk, modCore_modCore, modCore_modCore]
  refine modCore_congr ?_
  rw [Core.issue_flagged, Core.issue_wrote]
  rfl

/-! ### Global space -/

/-- A block whose device memory takes bytes after a translation. -/
theorem OnlyMtu.put {s u : State} (h : OnlyMtu s u) (c : CoreId) (f : Core → Core) (p : Nat) (d : List Byte) :
    Machine.modCore c f (putDpa p d u) = { Machine.modCore c f s with
      mtu := u.mtu, free := u.free, mem := { s.mem with dpa := Memory.write 0 s.mem.dpa p d } } := by
  have key : ∀ m n, u = { s with mtu := m, free := n } → Machine.modCore c f (putDpa p d u) =
      { Machine.modCore c f s with mtu := m, free := n, mem := { s.mem with dpa := Memory.write 0 s.mem.dpa p d } } := by
    rintro m n rfl
    rfl
  exact key _ _ h

/-- An atomic whose word lies in a good line. -/
theorem atomIva_good (w : Who) (iva n p : Nat) (f : List Byte → List Byte × Bool) (s : State) (hc : current w s = true)
    (ht : (translate w.inst .atomic iva s).1 = .ok (.dpa p)) (hg : GoodLine s p) : atomIva w iva n f s =
      ⟨none, false, Memory.read 0 s.mem.dpa p n, (f (Memory.read 0 s.mem.dpa p n)).2,
        putDpa p (f (Memory.read 0 s.mem.dpa p n)).1 (translate w.inst .atomic iva s).2⟩ := by
  have hmtu := translate_onlyMtu w.inst .atomic iva s hg.2.2.2
  rcases htr : translate w.inst .atomic iva s with ⟨x, u⟩
  rw [htr] at ht hmtu
  simp only at ht hmtu
  subst ht
  have hgu := hmtu.goodLine hg
  unfold atomIva
  rw [hc, htr]
  simp only [Bool.not_true, Bool.false_eq_true, if_false]
  unfold atomTarget
  simp only [readTarget_good _ _ _ _ hgu, writeTarget_good _ _ _ _ hgu, Bool.false_eq_true, if_false, hmtu.mem]

theorem globalAtomic_good (c : CoreId) (m : AtomForm) (a : Dword) (s : State) (p : Nat) (mk : BitVec 32) (d : List Byte) (inf : Bool)
    (hr : s.cores[c.val].st = .running) (hl : NotLast c s) (hal : a.toNat % m.align = 0) (hg : GoodLine s p)
    (hm : MapsTo c .atomic a.toNat s p) (hf : m.f (Memory.read 0 s.mem.dpa p m.n) = (d, inf))
    (hmk : MarksNi (m.e (Memory.read 0 s.mem.dpa p m.n)) mk) : ∃ t, globalAtomic c m a s = t ∧
      t = { modCore c (fun k => ((((k.addNi (m.e (Memory.read 0 s.mem.dpa p m.n))).marked mk).issued).flagged
          (m.fl ||| flagIf inf flagInf)).noted (stampNow s)) s with
        mtu := t.mtu, free := t.free, mem := { s.mem with dpa := Memory.write 0 s.mem.dpa p d } } := by
  have hmtu := translate_onlyMtu (coreWho c s).inst .atomic a.toNat s hg.2.2.2
  refine ⟨_, rfl, ?_⟩
  unfold globalAtomic
  rw [if_neg (by simp [hal]), atomIva_good (coreWho c s) _ _ p _ s (current_coreWho hm) hm.2 hg, hf]
  simp only [Bool.false_eq_true, if_false]
  generalize (translate (coreWho c s).inst .atomic a.toNat s).2 = u at hmtu ⊢
  have hnote : setFlags c (m.fl ||| flagIf inf flagInf) (noteCore c (putDpa p d u)) =
      modCore c (fun k => (k.noted (stampNow s)).flagged (m.fl ||| flagIf inf flagInf)) (putDpa p d u) := by
    rw [setFlags_eq, ← hmtu.stampNow]
    exact modCore_modCore c _ _ _
  have hcore : (modCore c (fun k => (k.noted (stampNow s)).flagged (m.fl ||| flagIf inf flagInf)) (putDpa p d u)).cores[c.val] =
      (s.cores[c.val].noted (stampNow s)).flagged (m.fl ||| flagIf inf flagInf) := by
    rw [modCore_cores, upd_same, ← hmtu.cores]
    rfl
  rw [hnote, issued_eq c _ _ (by rw [hcore]; exact hr) (by unfold NotLast; rw [hcore]; exact hl), hmk, modCore_modCore,
    modCore_modCore]
  have hgoal := hmtu.put c (fun k => ((((k.addNi (m.e (Memory.read 0 s.mem.dpa p m.n))).marked mk).issued).flagged
    (m.fl ||| flagIf inf flagInf)).noted (stampNow s)) p d
  have hsame : ∀ v : State, modCore c (fun k => ((((k.noted (stampNow s)).flagged (m.fl ||| flagIf inf flagInf)).addNi
      (m.e (Memory.read 0 s.mem.dpa p m.n))).marked mk).issued) v = modCore c (fun k =>
        ((((k.addNi (m.e (Memory.read 0 s.mem.dpa p m.n))).marked mk).issued).flagged
          (m.fl ||| flagIf inf flagInf)).noted (stampNow s)) v := fun v =>
    modCore_congr (by rw [Core.issue_flagged, Core.issue_noted, Core.flagged_noted])
  rw [hsame]
  exact hgoal

/-! ### Remote space -/

/-- The request of an atomic to another node. -/
def atomReq (node : BitVec 16) (m : AtomForm) (a : Dword) : RemoteReq :=
  { node := node, type := m.type, flags := if m.ret then 2 else 0, arg := 0, addr := a, payload := m.payload }

/-- The entry that waits for the answer of an atomic. -/
def atomEntry (m : AtomForm) : QEntry :=
  { m.e [] with answered := if !m.ret then .none else if m.n = 16 then .pair else .scalar false }

theorem remoteAtomic_sent (c : CoreId) (node : BitVec 16) (m : AtomForm) (a : Dword) (s : State) (dom : Byte) (mk : BitVec 32)
    (hr : s.cores[c.val].st = .running) (hl : NotLast c s) (hk : s.cores[c.val].coalesce = none) (hal : a.toNat % m.align = 0)
    (ha : a.toNat < 2 ^ 40) (hroute : RouteOpen c node dom s) (htype : m.type ≠ 0x02)
    (hreqs : (atomEntry m).reqs = 1) (hmk : MarksNi { atomEntry m with parts := [(s.fab.nextReq, none)] } mk) :
    Requested c dom (atomReq node m a) s (remoteAtomic c node m a s) ∧
      (remoteAtomic c node m a s).cores = (modCore c (fun k => ((((k.addNi
        { atomEntry m with parts := [(s.fab.nextReq, none)] }).marked mk).flagged m.fl).noted (stampNow s)).issued) s).cores := by
  have hgo : remoteAtomic c node m a s = issueRemote c .ni a (atomEntry m) [atomReq node m a] (setFlags c m.fl s) := by
    unfold remoteAtomic
    rw [remoteOk_of_route hroute a ha]
    simp only [closeWrite_none c s hk, remoteBusy_none c _ s hroute.2.2.2.2.2]
    rw [if_neg (by simp), if_neg (by simp [hal]), if_neg (by simp)]
    rfl
  have hcore : (setFlags c m.fl s).cores[c.val] = s.cores[c.val].flagged m.fl := by
    rw [setFlags_eq, modCore_cores, upd_same]
  obtain ⟨hreq, hcores⟩ := issueRemote_one c a (atomEntry m) dom (atomReq node m a) (setFlags c m.fl s)
    (by rw [hcore]; exact hr) (by unfold NotLast; rw [hcore]; exact hl) (by rw [hcore]; exact hk) ha
    (hroute.same rfl rfl rfl rfl)
  rw [hgo]
  refine ⟨hreq, hcores.trans ?_⟩
  have hset : { atomEntry m with parts := [((setFlags c m.fl s).fab.nextReq, none)], reqs := 1 } =
      { atomEntry m with parts := [(s.fab.nextReq, none)] } := by
    rw [← hreqs]
    rfl
  rw [hset]
  have htype' : ¬ (atomReq node m a).type = 0x02 := htype
  simp only
  rw [if_neg htype', hmk, setFlags_eq, modCore_modCore]
  have hnote : noteCore c (modCore c (fun k =>
      ((k.flagged m.fl).addNi { atomEntry m with parts := [(s.fab.nextReq, none)] }).marked mk) s) = modCore c (fun k =>
      ((((k.addNi { atomEntry m with parts := [(s.fab.nextReq, none)] }).marked mk).flagged m.fl).noted (stampNow s))) s :=
    modCore_modCore c _ _ s
  rw [hnote, modCore_modCore]

/-! ### What stops an atomic (R198, R199, R300) -/

/-- A core in which only errors have been found: its poison has grown at most. -/
def ErrorsFound (k k' : Core) : Prop :=
  k' = { k with poisoned := k'.poisoned, latent := k'.latent } ∧ ∀ l ∈ k.poisoned, l ∈ k'.poisoned

theorem mem_addLine (ls : List Nat) (l x : Nat) (h : x ∈ ls) : x ∈ addLine ls l := by
  induction ls with
  | nil => cases h
  | cons y t ih =>
    unfold addLine
    split
    · exact List.mem_cons_of_mem _ h
    · split
      · exact h
      · rcases List.mem_cons.1 h with rfl | h
        · exact List.mem_cons_self
        · exact List.mem_cons_of_mem _ (ih h)

theorem localFound_core (c : CoreId) (e : Nat × Bool) (s : State) :
    ErrorsFound s.cores[c.val] (localFound c e s).cores[c.val] := by
  have hcore : (localFound c e s).cores[c.val] = { s.cores[c.val] with
      latent := s.cores[c.val].latent.filter fun x => x.1 ≠ e.1
      poisoned := if e.2 then addLine s.cores[c.val].poisoned e.1 else s.cores[c.val].poisoned } := by
    have hlog : ∀ u : State, (logPf 0x0500 0xFF 0 0 c.val u).cores = u.cores := fun u => by
      rw [(onlyAccess.logPf 0x0500 0xFF 0 0 c.val u).1]
    obtain ⟨l, unc⟩ := e
    cases unc
    · exact upd_same _ _ _
    · exact (congrArg (fun v : Vector Core 576 => v[c.val]) (hlog _)).trans (upd_same _ _ _)
  rw [hcore]
  refine ⟨rfl, fun l hl => ?_⟩
  dsimp only
  split
  · exact mem_addLine _ _ _ hl
  · exact hl

theorem ErrorsFound.trans {k k' k'' : Core} (h : ErrorsFound k k') (h' : ErrorsFound k' k'') : ErrorsFound k k'' := by
  obtain ⟨h1, h2⟩ := h
  obtain ⟨h3, h4⟩ := h'
  refine ⟨?_, fun l hl => h4 l (h2 l hl)⟩
  rw [h3, h1]

theorem localFind_core (c : CoreId) (a n : Nat) (s : State) : ErrorsFound s.cores[c.val] (localFind c a n s).cores[c.val] := by
  unfold localFind
  generalize s.cores[c.val].latent.filter (fun e => (linesOf a n).contains e.1) = l
  induction l generalizing s with
  | nil => exact ⟨rfl, fun _ h => h⟩
  | cons e t ih => exact (localFound_core c e s).trans (ih _)

/-- An atomic on a poisoned line of local memory raises POISON. -/
theorem localAtomic_poisoned (c : CoreId) (m : AtomForm) (a : Dword) (s : State) (hr : s.cores[c.val].st = .running)
    (hloc : atomLocal a m.n m.align = none) (h0 : 0 < m.n) (hline : a.toNat % 64 + m.n ≤ 64)
    (hp : a.toNat / 64 ∈ s.cores[c.val].poisoned) : Faulted c 5 false a s (localAtomic c m a s) := by
  obtain ⟨hkeep, hgrow⟩ := localFind_core c a.toNat m.n s
  unfold localAtomic
  rw [hloc]
  dsimp only
  generalize localFind c a.toNat m.n s = u at hkeep hgrow ⊢
  have hpoison : localPoison u.cores[c.val] a.toNat m.n = true := by
    rw [localPoison, linesOf_one _ _ h0 hline]
    simpa using hgrow _ hp
  rw [if_pos hpoison]
  refine faulted_of_core (raise_core c .poison false a u (by rw [hkeep]; exact hr)).1 rfl ?_ ?_ ?_ ?_ ?_ <;> rw [hkeep]

/-- A misaligned atomic beyond the core raises UNIT. -/
theorem globalAtomic_misaligned (c : CoreId) (m : AtomForm) (a : Dword) (s : State) (hr : s.cores[c.val].st = .running)
    (hal : a.toNat % m.align ≠ 0) : Faulted c 10 true a s (globalAtomic c m a s) := by
  unfold globalAtomic
  rw [if_pos (by simpa using hal)]
  exact raise_faulted c .unit 10 true a s hr rfl

theorem remoteAtomic_misaligned (c : CoreId) (node : BitVec 16) (m : AtomForm) (a : Dword) (s : State) (dom : Byte)
    (hr : s.cores[c.val].st = .running) (hal : a.toNat % m.align ≠ 0) (ha : a.toNat < 2 ^ 40) (hroute : RouteOpen c node dom s) :
    Faulted c 10 true a s (remoteAtomic c node m a s) := by
  unfold remoteAtomic
  rw [remoteOk_of_route hroute a ha, if_neg (by simp), if_pos (by simpa using hal)]
  exact raise_faulted c .unit 10 true a s hr rfl

/-! ### LADD and FADD -/

/-- What LADD does to its word. -/
def laddForm (t : BitVec 5) (ret : Bool) (k : Core) : AtomForm :=
  { n := 16, align := 16, type := 0x03, f := laddBytes (pairValue128 k t), payload := leBytes 16 (pairValue128 k t).toNat
    ret := ret, fl := flagIf (beyondWindow (pairValue128 k t)) 2, e := laddEntry t ret }

/-- What FADD does to its word. -/
def faddForm (t : BitVec 5) (ret : Bool) (k : Core) : AtomForm :=
  { n := 4, align := 4, type := 0x04, f := faddBytes ((sreg k t).setWidth 32), payload := leBytes 4 ((sreg k t).setWidth 32 : Word).toNat
    ret := ret, e := fun d => if ret then { sres := [(t, scalarOf false d)] } else {} }

theorem bit_ret (w : MFmt) (ret : Bool) (hx : w.x = if ret then 1 else 0) : bit w.x 0 = ret := by
  rw [hx]
  cases ret <;> decide

theorem even_reg (t : BitVec 5) (h : bit t 0 = false) : decide (bits t 0 0 = 0) = true := by
  revert t
  decide

/-- Where an atomic acts, by its form. -/
def atomAt (c : CoreId) (w : MFmt) (m : AtomForm) (s : State) : State :=
  if w.sp = 0 then localAtomic c m (address c w s) s
  else if w.sp = 1 then globalAtomic c m (address c w s) s
  else remoteAtomic c (mNode s.cores[c.val] w) m (address c w s) s

theorem ladd_executes (c : CoreId) (w : MFmt) (s : State) (ret : Bool) (h : Executes c w.g s) (hsp : w.sp ≠ 3)
    (hn : w.sp ≠ 2 → w.n = 0) (hfree : NiFree c 1 s) (hx : w.x = if ret then 1 else 0)
    (hnp : NotPending s.cores[c.val] [w.t, w.t + 1, w.a, w.n] [] []) (ht : bit w.t 0 = false) :
    exec (.ladd c w) s = .next (atomAt c w (laddForm w.t ret s.cores[c.val]) s) := by
  have harm : exec (.ladd c w) s = execLadd c w s := rfl
  have hform : ∀ k, laddForm w.t ret k =
      { n := 16, align := 16, type := 0x03, f := laddBytes (pairReg k w.t)
        payload := leBytes 16 (pairReg k w.t).toNat, ret := bit w.x 0, fl := rangeFlag (valL128 (pairReg k w.t)), e := laddEntry w.t (bit w.x 0) } := by
    intro k
    rw [laddForm, pairReg_eq, rangeFlag_eq, bit_ret w ret hx]
  unfold atomAt
  rw [hform, harm, execLadd, atomInstr_executes c w s _ ret [w.t, w.t + 1] _ h (even_reg _ ht) hx hsp hn hfree hnp]

theorem fadd_executes (c : CoreId) (w : MFmt) (s : State) (ret : Bool) (h : Executes c w.g s) (hsp : w.sp ≠ 3)
    (hn : w.sp ≠ 2 → w.n = 0) (hfree : NiFree c 1 s) (hx : w.x = if ret then 1 else 0)
    (hnp : NotPending s.cores[c.val] [w.t, w.a, w.n] [] []) :
    exec (.fadd c w) s = .next (atomAt c w (faddForm w.t ret s.cores[c.val]) s) := by
  have harm : exec (.fadd c w) s = execFadd c w s := rfl
  have hform : ∀ k, faddForm w.t ret k =
      { n := 4, align := 4, type := 0x04, f := faddBytes ((sreg k w.t).setWidth 32)
        payload := leBytes 4 ((sreg k w.t).setWidth 32 : Word).toNat, ret := bit w.x 0, e := fun d => if bit w.x 0 then { sres := [(w.t, scalarOf false d)] } else {} } := by
    intro k
    rw [faddForm, bit_ret w ret hx]
  unfold atomAt
  rw [hform, harm, execFadd, atomInstr_executes c w s _ ret [w.t] _ h rfl hx hsp hn hfree hnp]

theorem aligned16 (a : Nat) (h : a % 16 = 0) : a % 64 + 16 ≤ 64 := aligned_in_line a 4 (by decide) h
theorem aligned4 (a : Nat) (h : a % 4 = 0) : a % 64 + 4 ≤ 64 := aligned_in_line a 2 (by decide) h

/-- The flags of a LADD, as the two conditions set them. -/
theorem flagged_met (big inf : Bool) (k : Core) :
    k.flagged (flagIf big 2 ||| flagIf inf flagInf) = (k.metInf inf).metRange big := by
  rw [Core.metRange_eq, Core.metInf_eq, Core.flagged_flagged]
  rfl

theorem Core.flagged_none (k : Core) : k.flagged (0 ||| flagIf false flagInf) = k := k.flagged_zero

theorem laddForm_f (t : BitVec 5) (ret : Bool) (k : Core) (d : List Byte) : (laddForm t ret k).f d =
    (leBytes 16 (sumL128 (BitVec.ofNat 128 (leNat d)) (pairValue128 k t)).toNat,
      decide (sumL128 (BitVec.ofNat 128 (leNat d)) (pairValue128 k t) = 1#128 <<< 127)) := laddBytes_eq _ _

theorem faddForm_f (t : BitVec 5) (ret : Bool) (k : Core) (d : List Byte) : (faddForm t ret k).f d =
    (leBytes 4 (f32Add (BitVec.ofNat 32 (leNat d)).toNat ((sreg k t).setWidth 32 : Word).toNat), false) := faddBytes_eq _ _

theorem laddForm_e (t : BitVec 5) (ret : Bool) (k : Core) (d : List Byte) (h : d.length = 16) :
    (laddForm t ret k).e d = oldPair t ret (BitVec.ofNat 128 (leNat d)) := laddEntry_eq t ret d h

theorem faddForm_e (t : BitVec 5) (ret : Bool) (k : Core) (d : List Byte) (h : d.length = 4) :
    (faddForm t ret k).e d = oldWord t ret (BitVec.ofNat 32 (leNat d)) := faddEntry_eq t ret d h

/-- LADD in local space. -/
theorem ladd_local (c : CoreId) (s : State) (t : BitVec 5) (ret : Bool) (a : Dword) (hr : s.cores[c.val].st = .running)
    (hl : NotLast c s) (hal : a.toNat % 16 = 0) (hload : Loadable a.toNat 16) (hclean : CleanLines s.cores[c.val] a.toNat 16)
    (hrace : NoRace (some .ni) s.cores[c.val]) (old new : BitVec 128)
    (hold : old = BitVec.ofNat 128 (leNat (Memory.read 0 s.cores[c.val].mem a.toNat 16)))
    (hnew : new = sumL128 old (pairValue128 s.cores[c.val] t)) :
    localAtomic c (laddForm t ret s.cores[c.val]) a s = modCore c (fun k =>
      ((({ ((k.addNi { oldPair t ret old with wrote := [(a.toNat, 16)] }).marked (pairMark t ret)).issued with
        mem := Memory.write 0 k.mem a.toNat (leBytes 16 new.toNat) } : Core).metInf (new = 1#128 <<< 127)).metRange
          (beyondWindow (pairValue128 s.cores[c.val] t))).noted (stampNow s)) s := by
  have hf := laddForm_f t ret s.cores[c.val] (localBytes s.cores[c.val] a.toNat 16)
  have he := laddForm_e t ret s.cores[c.val] (localBytes s.cores[c.val] a.toNat 16) (Memory.length_read _ _ _ _)
  have hob : BitVec.ofNat 128 (leNat (localBytes s.cores[c.val] a.toNat 16)) = old := hold.symm
  rw [hob] at hf he
  rw [← hnew] at hf
  have hn : (laddForm t ret s.cores[c.val]).n = 16 := rfl
  have hplain := oldPair_plain t ret old
  rw [localAtomic_clean c (laddForm t ret s.cores[c.val]) a s (pairMark t ret) _ _ hr hl
    (atomLocal_loadable a 16 hal hload) hclean hrace (by decide : 0 < 16) (by decide : 16 < 64) (aligned16 _ hal) hf
    (length_leBytes _ _) (by rw [hn, he]; exact marksNi_pair _ t ret old rfl hplain.1 hplain.2), hn, he]
  exact modCore_congr (congrArg (fun k => k.noted (stampNow s)) (flagged_met _ _ _))

/-- FADD in local space. -/
theorem fadd_local (c : CoreId) (s : State) (t : BitVec 5) (ret : Bool) (a : Dword) (hr : s.cores[c.val].st = .running)
    (hl : NotLast c s) (hal : a.toNat % 4 = 0) (hload : Loadable a.toNat 4) (hclean : CleanLines s.cores[c.val] a.toNat 4)
    (hrace : NoRace (some .ni) s.cores[c.val]) (old : Word)
    (hold : old = BitVec.ofNat 32 (leNat (Memory.read 0 s.cores[c.val].mem a.toNat 4))) :
    localAtomic c (faddForm t ret s.cores[c.val]) a s = modCore c (fun k =>
      ({ ((k.addNi { oldWord t ret old with wrote := [(a.toNat, 4)] }).marked (wordMark t ret)).issued with
        mem := Memory.write 0 k.mem a.toNat (leBytes 4 (f32Add old.toNat ((sreg s.cores[c.val] t).setWidth 32 : Word).toNat)) } :
          Core).noted (stampNow s)) s := by
  have hf := faddForm_f t ret s.cores[c.val] (localBytes s.cores[c.val] a.toNat 4)
  have he := faddForm_e t ret s.cores[c.val] (localBytes s.cores[c.val] a.toNat 4) (Memory.length_read _ _ _ _)
  have hob : BitVec.ofNat 32 (leNat (localBytes s.cores[c.val] a.toNat 4)) = old := hold.symm
  rw [hob] at hf he
  have hn : (faddForm t ret s.cores[c.val]).n = 4 := rfl
  have hplain := oldWord_plain t ret old
  rw [localAtomic_clean c (faddForm t ret s.cores[c.val]) a s (wordMark t ret) _ _ hr hl
    (atomLocal_loadable a 4 hal hload) hclean hrace (by decide : 0 < 4) (by decide : 4 < 64) (aligned4 _ hal) hf
    (length_leBytes _ _) (by rw [hn, he]; exact marksNi_word _ t ret old rfl hplain.1 hplain.2), hn, he]
  exact modCore_congr (congrArg (fun k => k.noted (stampNow s)) (Core.flagged_none _))

/-- LADD in device memory. -/
theorem ladd_global (c : CoreId) (s : State) (t : BitVec 5) (ret : Bool) (a : Dword) (p : Nat) (hr : s.cores[c.val].st = .running)
    (hl : NotLast c s) (hal : a.toNat % 16 = 0) (hg : GoodLine s p) (hm : MapsTo c .atomic a.toNat s p) (old new : BitVec 128)
    (hold : old = BitVec.ofNat 128 (leNat (Memory.read 0 s.mem.dpa p 16)))
    (hnew : new = sumL128 old (pairValue128 s.cores[c.val] t)) :
    ∃ u, globalAtomic c (laddForm t ret s.cores[c.val]) a s = u ∧ u = { modCore c (fun k =>
      ((((k.addNi (oldPair t ret old)).marked (pairMark t ret)).issued.metInf (new = 1#128 <<< 127)).metRange
          (beyondWindow (pairValue128 s.cores[c.val] t))).noted (stampNow s)) s with
        mtu := u.mtu, free := u.free, mem := { s.mem with dpa := Memory.write 0 s.mem.dpa p (leBytes 16 new.toNat) } } := by
  have hf := laddForm_f t ret s.cores[c.val] (Memory.read 0 s.mem.dpa p 16)
  have he := laddForm_e t ret s.cores[c.val] (Memory.read 0 s.mem.dpa p 16) (Memory.length_read _ _ _ _)
  rw [← hold] at hf he
  rw [← hnew] at hf
  have hn : (laddForm t ret s.cores[c.val]).n = 16 := rfl
  have hplain := oldPair_plain t ret old
  obtain ⟨u, hu, hframe⟩ := globalAtomic_good c (laddForm t ret s.cores[c.val]) a s p (pairMark t ret) _ _ hr hl hal hg hm hf
    (by rw [hn, he]; exact marksNi_pair _ t ret old rfl hplain.1 hplain.2)
  rw [hn, he] at hframe
  exact ⟨u, hu, hframe.trans (congrArg (fun v : State => ({ v with
    mtu := u.mtu, free := u.free, mem := { s.mem with dpa := Memory.write 0 s.mem.dpa p (leBytes 16 new.toNat) } } : State))
      (modCore_congr (congrArg (fun k => k.noted (stampNow s)) (flagged_met _ _ _))))⟩

/-- FADD in device memory. -/
theorem fadd_global (c : CoreId) (s : State) (t : BitVec 5) (ret : Bool) (a : Dword) (p : Nat) (hr : s.cores[c.val].st = .running)
    (hl : NotLast c s) (hal : a.toNat % 4 = 0) (hg : GoodLine s p) (hm : MapsTo c .atomic a.toNat s p) (old : Word) (new : Nat)
    (hold : old = BitVec.ofNat 32 (leNat (Memory.read 0 s.mem.dpa p 4)))
    (hnew : new = f32Add old.toNat ((sreg s.cores[c.val] t).setWidth 32 : Word).toNat) :
    ∃ u, globalAtomic c (faddForm t ret s.cores[c.val]) a s = u ∧ u = { modCore c (fun k =>
      (((k.addNi (oldWord t ret old)).marked (wordMark t ret)).issued).noted (stampNow s)) s with
        mtu := u.mtu, free := u.free, mem := { s.mem with dpa := Memory.write 0 s.mem.dpa p (leBytes 4 new) } } := by
  have hf := faddForm_f t ret s.cores[c.val] (Memory.read 0 s.mem.dpa p 4)
  have he := faddForm_e t ret s.cores[c.val] (Memory.read 0 s.mem.dpa p 4) (Memory.length_read _ _ _ _)
  rw [← hold] at hf he
  rw [← hnew] at hf
  have hn : (faddForm t ret s.cores[c.val]).n = 4 := rfl
  have hplain := oldWord_plain t ret old
  obtain ⟨u, hu, hframe⟩ := globalAtomic_good c (faddForm t ret s.cores[c.val]) a s p (wordMark t ret) _ _ hr hl hal hg hm hf
    (by rw [hn, he]; exact marksNi_word _ t ret old rfl hplain.1 hplain.2)
  rw [hn, he] at hframe
  exact ⟨u, hu, hframe.trans (congrArg (fun v : State => ({ v with
    mtu := u.mtu, free := u.free, mem := { s.mem with dpa := Memory.write 0 s.mem.dpa p (leBytes 4 new) } } : State))
      (modCore_congr (congrArg (fun k => k.noted (stampNow s)) (Core.flagged_none _))))⟩

theorem atomReq_msg (dom : Byte) (id : Word) (node : BitVec 16) (m : AtomForm) (a : Dword) (s : State) :
    let x := reqMsg dom id (atomReq node m a) s
    x.type = m.type ∧ x.flags = (if m.ret then 2 else 0) ∧ x.dst = node ∧ x.domain = dom ∧ x.addr = a ∧ x.payload = m.payload ∧
      x.reqId = id := ⟨rfl, rfl, rfl, rfl, rfl, rfl, rfl⟩

theorem ladd_entry (t : BitVec 5) (ret : Bool) (k : Core) :
    atomEntry (laddForm t ret k) = { oldPair t ret 0 with answered := if ret then .pair else .none } := by
  cases ret <;> rfl

theorem fadd_entry (t : BitVec 5) (ret : Bool) (k : Core) :
    atomEntry (faddForm t ret k) = { oldWord t ret 0 with answered := if ret then .scalar false else .none } := by
  cases ret <;> rfl

/-- Settles O18: the form of each atomic, performed at its word or sent to its node. -/
theorem atomicAdds : Obligations.AtomicAdds := by
  unfold Obligations.AtomicAdds
  intro c w s ret h hl hn hfree hx hnp a node marks2 marks1 k0 big now sent
  have hr := executes_running h
  have hnp4 : NotPending s.cores[c.val] [w.t, w.a, w.n] [] [] := ⟨fun r hr => hnp.1 r (by simp_all; grind), hnp.2.1, hnp.2.2⟩
  have hladd : ∀ n : BitVec 2, w.sp = n → n ≠ 3 → bit w.t 0 = false →
      exec (.ladd c w) s = .next (atomAt c w (laddForm w.t ret s.cores[c.val]) s) := fun n hsp h3 ht =>
    ladd_executes c w s ret h (hsp ▸ h3) hn hfree hx hnp ht
  have hfadd : ∀ n : BitVec 2, w.sp = n → n ≠ 3 →
      exec (.fadd c w) s = .next (atomAt c w (faddForm w.t ret s.cores[c.val]) s) := fun n hsp h3 =>
    fadd_executes c w s ret h (hsp ▸ h3) hn hfree hx hnp4
  have at0 : ∀ m, w.sp = 0 → atomAt c w m s = localAtomic c m (address c w s) s := fun m h0 => if_pos h0
  have at1 : ∀ m, w.sp = 1 → atomAt c w m s = globalAtomic c m (address c w s) s := fun m h1 =>
    (if_neg (by rw [h1]; decide)).trans (if_pos h1)
  have at2 : ∀ m, w.sp = 2 → atomAt c w m s = remoteAtomic c node m (address c w s) s := fun m h2 =>
    (if_neg (by rw [h2]; decide)).trans (if_neg (by rw [h2]; decide))
  have hm2 : ∀ k, marks2 k = k.marked (pairMark w.t ret) := marks2_eq w.t ret
  have hm1 : ∀ k, marks1 k = k.marked (wordMark w.t ret) := marks1_eq w.t ret
  have hremote : ∀ (m : AtomForm) (dom : Byte) (mk : BitVec 32) (e : QEntry) (f : Core → Core) (d : List Byte) (ty : Byte),
      w.sp = 2 → (address c w s).toNat % m.align = 0 → a < 2 ^ 40 → RouteOpen c node dom s → m.type = ty → ty ≠ 0x02 →
      m.ret = ret → m.payload = d → atomEntry m = e → e.reqs = 1 → MarksNi { e with parts := [(s.fab.nextReq, none)] } mk →
      (∀ k, f k = (k.marked mk).flagged m.fl) → sent ty d e dom f (atomAt c w m s) := by
    intro m dom mk e f d ty h2 hal ha hroute hty hne hret hpay he hreqs hmk hf
    subst hty hpay he
    obtain ⟨⟨hnext, hreqs, hmem⟩, hcores⟩ := remoteAtomic_sent c node m (address c w s) s dom mk hr hl hfree.1 hal ha hroute hne hreqs hmk
    obtain ⟨m1, m2, m3, m4, m5, m6, m7⟩ := atomReq_msg dom s.fab.nextReq node m (address c w s) s
    rw [at2 m h2]
    refine ⟨_, hnext, hreqs, m1, by rw [m2, hret], m3, m4, m5, m6, m7, hmem, ?_⟩
    rw [hcores]
    simp only [hf]
    rfl
  refine ⟨fun ht hal => ⟨fun h0 hload hclean hrace => ?_, fun p h1 hg hm => ?_, fun dom h2 ha hroute => ?_⟩,
    fun hal => ⟨fun h0 hload hclean hrace => ?_, fun p h1 hg hm => ?_, fun dom h2 ha hroute => ?_⟩,
    fun h0 ht hal hload hp => ?_, fun h0 hal hload hp => ?_, fun dom hsp => ⟨fun hal => ?_, fun ht hal => ?_⟩⟩
  · rw [hladd 0 h0 (by decide) ht, at0 _ h0]
    simp only [hm2]
    exact congrArg Host.Outcome.next (ladd_local c s w.t ret (address c w s) hr hl hal hload hclean hrace _ _ rfl rfl)
  · obtain ⟨t, ht', hframe⟩ := ladd_global c s w.t ret (address c w s) p hr hl hal hg hm _ _ rfl rfl
    simp only [hm2]
    exact ⟨t, by rw [hladd 1 h1 (by decide) ht, at1 _ h1, ht'], hframe⟩
  · have hentry := ladd_entry w.t ret s.cores[c.val]
    have hreqs : ({ oldPair w.t ret 0 with answered := if ret then .pair else .none } : QEntry).reqs = 1 := by cases ret <;> rfl
    have hmarks : MarksNi { ({ oldPair w.t ret 0 with answered := if ret then .pair else .none } : QEntry) with
        parts := [(s.fab.nextReq, none)] } (pairMark w.t ret) :=
      marksNi_pair _ w.t ret 0 rfl (oldPair_plain _ _ _).1 (oldPair_plain _ _ _).2
    have hfl : ∀ k, (marks2 k).metRange big = (k.marked (pairMark w.t ret)).flagged (laddForm w.t ret s.cores[c.val]).fl :=
      fun k => by rw [hm2, Core.metRange_eq]; rfl
    generalize { oldPair w.t ret 0 with answered := if ret then .pair else .none } = e at hentry hreqs hmarks ⊢
    exact ⟨_, hladd 2 h2 (by decide) ht, hremote (laddForm w.t ret s.cores[c.val]) dom (pairMark w.t ret) e
      (fun k => (marks2 k).metRange big) _ 0x03 h2 hal ha hroute rfl (by decide) rfl rfl hentry hreqs hmarks hfl⟩
  · rw [hfadd 0 h0 (by decide), at0 _ h0]
    simp only [hm1]
    exact congrArg Host.Outcome.next (fadd_local c s w.t ret (address c w s) hr hl hal hload hclean hrace _ rfl)
  · obtain ⟨t, ht', hframe⟩ := fadd_global c s w.t ret (address c w s) p hr hl hal hg hm _ _ rfl rfl
    simp only [hm1]
    exact ⟨t, by rw [hfadd 1 h1 (by decide), at1 _ h1, ht'], hframe⟩
  · have hentry := fadd_entry w.t ret s.cores[c.val]
    have hreqs : ({ oldWord w.t ret 0 with answered := if ret then .scalar false else .none } : QEntry).reqs = 1 := by
      cases ret <;> rfl
    have hmarks : MarksNi { ({ oldWord w.t ret 0 with answered := if ret then .scalar false else .none } : QEntry) with
        parts := [(s.fab.nextReq, none)] } (wordMark w.t ret) :=
      marksNi_word _ w.t ret 0 rfl (oldWord_plain _ _ _).1 (oldWord_plain _ _ _).2
    have hfl : ∀ k, marks1 k = (k.marked (wordMark w.t ret)).flagged (faddForm w.t ret s.cores[c.val]).fl :=
      fun k => by rw [hm1]; exact (Core.flagged_zero _).symm
    generalize { oldWord w.t ret 0 with answered := if ret then .scalar false else .none } = e at hentry hreqs hmarks ⊢
    exact ⟨_, hfadd 2 h2 (by decide), hremote (faddForm w.t ret s.cores[c.val]) dom (wordMark w.t ret) e
      marks1 _ 0x04 h2 hal ha hroute rfl (by decide) rfl rfl hentry hreqs hmarks hfl⟩
  · refine ⟨_, hladd 0 h0 (by decide) ht, ?_⟩
    rw [at0 _ h0]
    exact localAtomic_poisoned c _ _ s hr (atomLocal_loadable _ 16 hal hload) (by decide : 0 < 16) (aligned16 _ hal) hp
  · refine ⟨_, hfadd 0 h0 (by decide), ?_⟩
    rw [at0 _ h0]
    exact localAtomic_poisoned c _ _ s hr (atomLocal_loadable _ 4 hal hload) (by decide : 0 < 4) (aligned4 _ hal) hp
  · rcases hsp with h1 | ⟨h2, ha, hroute⟩
    · refine ⟨_, hfadd 1 h1 (by decide), ?_⟩
      rw [at1 _ h1]
      exact globalAtomic_misaligned c _ _ s hr hal
    · refine ⟨_, hfadd 2 h2 (by decide), ?_⟩
      rw [at2 _ h2]
      exact remoteAtomic_misaligned c node _ _ s dom hr hal ha hroute
  · rcases hsp with h1 | ⟨h2, ha, hroute⟩
    · refine ⟨_, hladd 1 h1 (by decide) ht, ?_⟩
      rw [at1 _ h1]
      exact globalAtomic_misaligned c _ _ s hr hal
    · refine ⟨_, hladd 2 h2 (by decide) ht, ?_⟩
      rw [at2 _ h2]
      exact remoteAtomic_misaligned c node _ _ s dom hr hal ha hroute

end Sys2Proof.Machine
end

section
/-! PROOFS. SEND within the partition and to another node (R44, R160, R164, R205, R464 to R468). -/

namespace Sys2Proof.Machine

open Sys2Proof

/-! ### The fields of SEND (R164) -/

/-- The mailbox and the space that SEND names, and that its other bits are 0. -/
theorem send_fields (x : BitVec 29) (b : Fin 8) (far : Bool) (h : x.toNat = b.val + if far then 8 else 0) :
    only x 15 = true ∧ (Fin.ofNat 8 (bits x 2 0) : Fin 8) = b ∧ bit x 3 = far := by
  have hb := b.isLt
  have hlt : x.toNat < 16 := by rw [h]; split <;> omega
  have hlow : bits x 2 0 = b.val := by
    unfold bits
    rw [Nat.shiftRight_zero, h]
    cases far
    · simp only [Bool.false_eq_true, if_false]
      omega
    · simp only [if_true]
      omega
  refine ⟨only_of_lt x 4 hlt, Fin.ext ?_, ?_⟩
  · rw [hlow]
    exact Nat.mod_eq_of_lt hb
  · have : x.toNat.testBit 3 = far := by
      rw [Nat.testBit_eq_decide_div_mod_eq, h]
      cases far
      · rw [decide_eq_false]
        simp only [Bool.false_eq_true, if_false]
        omega
      · rw [decide_eq_true]
        simp only [if_true]
        omega
    exact this

/-- A length that a message may have, at a place in data memory. -/
def Sendable (src len : Nat) : Prop := 8 ≤ len ∧ len ≤ 512 ∧ len % 8 = 0 ∧ Storable src len

theorem sized_iff (src len : Nat) :
    (8 ≤ len && len ≤ 512 && len % 8 = 0 && inData src len) = true ↔ Sendable src len := by
  simp only [Sendable, Storable, inData, Bool.and_eq_true, decide_eq_true_eq, and_assoc]
  rfl

/-! ### SEND (R164, R205) -/

/-- A SEND that executes, by the checks it makes. -/
theorem send_executes (c : CoreId) (w : RFmt) (s : State) (n : Fin 64) (b : Fin 8) (far : Bool) (h : Executes c w.g s)
    (hq : QueueRoom s.cores[c.val] .ni 1) (hd : w.d = 0) (hnp : NotPending s.cores[c.val] [w.a, w.b, w.c] [] [])
    (hp : partOf c s = some n) (hx : w.x.toNat = b.val + if far then 8 else 0) (src len : Nat)
    (hsrc : (sreg s.cores[c.val] w.b).toNat = src) (hlen : (sreg s.cores[c.val] w.c).toNat = len) :
    ((¬ Sendable src len ∨ (far = false ∧ partSize s.parts[n.val] ≤ (sreg s.cores[c.val] w.a).toNat)) →
      exec (.send c w) s = .next (raise c .msgRange false 0 s)) ∧
    (Sendable src len → (far = false → (sreg s.cores[c.val] w.a).toNat < partSize s.parts[n.val]) →
      CleanLines s.cores[c.val] src len → NoRace (some .ni) s.cores[c.val] →
      exec (.send c w) s = .next (if far then sendRemote c (sreg s.cores[c.val] w.a) b (Memory.read 0 s.cores[c.val].mem src len) s
        else sendLocal c n (sreg s.cores[c.val] w.a).toNat b (Memory.read 0 s.cores[c.val].mem src len) s)) := by
  obtain ⟨honly, hbox, hfar⟩ := send_fields w.x b far hx
  have harm : exec (.send c w) s = execSend c w s := rfl
  have hz : noHazard s.cores[c.val] { s := [w.a, w.b, w.c], q := some .ni } = true :=
    noHazard_of_ready _ _ hnp (fun q hq' => by obtain rfl := Option.some.inj hq'; exact hq) (slotsAwaited_none _ _ rfl rfl)
  have hlegal : (decide (w.d = 0) && only w.x 15) = true := by rw [hd, honly]; rfl
  rw [harm, execSend, hlegal, coreInstr_executes c w.g _ _ s h hz]
  simp only [hp, hbox, hfar, hsrc, hlen]
  have hsz := sized_iff src len
  refine ⟨fun hbad => ?_, fun hgood hidx hclean hrace => ?_⟩
  · rw [if_pos]
    rcases hbad with hbad | ⟨rfl, hbad⟩
    · rw [Bool.eq_false_iff.2 fun e => hbad (hsz.1 e)]
      rfl
    · rw [decide_eq_true hbad]
      simp
  · rw [if_neg]
    · simp only [localFind_clean c src len s hclean, localPoison_clean _ _ _ hclean, localRead_noRace hrace, Bool.false_eq_true,
        if_false]
      rfl
    · rw [hsz.2 hgood]
      cases far
      · rw [decide_eq_false (Nat.not_le.2 (hidx rfl))]
        simp
      · simp

/-- A SEND counts itself as it issues. -/
def Core.countedSent (k : Core) : Core := { k with msgSent := if k.ctrFreeze then k.msgSent else k.msgSent + 1 }

/-- A message in the send buffer. -/
def Core.bufferedMsg (k : Core) (m : OutMsg) : Core := { k with sendBuf := k.sendBuf ++ [m] }

theorem countSent_eq (c : CoreId) (s : State) : countSent c s = modCore c Core.countedSent s := rfl

theorem Core.issued_sent (k : Core) (t : Stamp) (m : OutMsg) :
    (((k.bufferedMsg m).noted t).countedSent).issued =
      { ({ k.issued with msgSent := if k.ctrFreeze then k.msgSent else k.msgSent + 1 } : Core).noted t with
        sendBuf := k.sendBuf ++ [m] } := by
  cases hf : k.ctrFreeze <;> simp [Core.bufferedMsg, Core.noted, Core.countedSent, Core.issued, hf]

theorem Core.issued_sent_far (k : Core) (t : Stamp) (e : QEntry) :
    (((k.countedSent).addNi e).noted t).issued =
      ({ (k.addNi e).issued with msgSent := if (k.addNi e).ctrFreeze then (k.addNi e).msgSent else (k.addNi e).msgSent + 1 } : Core).noted t := by
  cases hf : k.ctrFreeze <;> simp [Core.addNi, Core.noted, Core.countedSent, Core.issued, hf]

/-- A message with room in the send buffer is copied there and counted. -/
theorem sendLocal_room (c : CoreId) (n : Fin 64) (idx : Nat) (b : Fin 8) (d : List Byte) (s : State)
    (hr : s.cores[c.val].st = .running) (hl : NotLast c s) (hk : s.cores[c.val].coalesce = none)
    (hroom : sendUsed s.cores[c.val] + d.length ≤ 2048) :
    sendLocal c n idx b d s = modCore c (fun k =>
      { ({ k.issued with msgSent := if k.ctrFreeze then k.msgSent else k.msgSent + 1 } : Core).noted (stampNow s) with
        sendBuf := k.sendBuf ++ [⟨coreAt s.parts[n.val] idx, b, d, k.gen, .new⟩] }) s := by
  have hin : countSent c (noteCore c (modCore c (fun k =>
        { k with sendBuf := k.sendBuf ++ [{ dest := coreAt s.parts[n.val] idx, mbox := b, data := d, gen := k.gen }] }) s)) =
      modCore c (fun k => ((k.bufferedMsg ⟨coreAt s.parts[n.val] idx, b, d, k.gen, .new⟩).noted (stampNow s)).countedSent) s := by
    rw [countSent_eq, noteCore, modCore_modCore, modCore_modCore]
    rfl
  unfold sendLocal
  rw [if_pos hroom, closing_none c _ s hk hr, hin, advance_modCore c _ s hl rfl]
  exact modCore_congr (Core.issued_sent _ _ _)

/-- The request of a SEND to another node, or to the barrier unit (R164, R464, R467). -/
def sendReq (a : Dword) (b : Fin 8) (d : List Byte) : RemoteReq :=
  { node := a.extractLsb' 16 16, type := if bits a 15 0 = 0xFFFF then 0x07 else 0x06, flags := 0, arg := BitVec.ofNat 8 b.val
    addr := if bits a 15 0 = 0xFFFF then 0 else BitVec.ofNat 64 (bits a 15 0), payload := d }

theorem bits_node (a : Dword) : BitVec.ofNat 16 (bits a 31 16) = a.extractLsb' 16 16 := by
  apply BitVec.eq_of_toNat_eq
  simp [bits, BitVec.extractLsb']

/-- A SEND to another node sends its one request. -/
theorem sendRemote_one (c : CoreId) (a : Dword) (b : Fin 8) (d : List Byte) (s : State) (dom : Byte)
    (hr : s.cores[c.val].st = .running) (hl : NotLast c s) (hk : s.cores[c.val].coalesce = none)
    (h : RouteOpen c (a.extractLsb' 16 16) dom s) :
    Requested c dom (sendReq a b d) s (sendRemote c a b d s) ∧
      (sendRemote c a b d s).cores = (modCore c (fun k =>
        let k' := k.addNi { parts := [(s.fab.nextReq, none)] }
        ({ k'.issued with msgSent := if k'.ctrFreeze then k'.msgSent else k'.msgSent + 1 } : Core).noted (stampNow s)) s).cores := by
  have hfree : (remoteOk c 0 s).isSome = true := by rw [remoteOk_of_route h 0 (by decide)]; rfl
  have hcall : sendRemote c a b d s =
      issueRemote c .ni (BitVec.ofNat 64 (bits a 15 0)) {} [sendReq a b d] (countSent c s) := by
    unfold sendRemote
    simp only [hfree, remoteBusy_none c _ (closeWrite c s) (by rw [closeWrite_none c s hk]; exact h.2.2.2.2.2), bits_node]
    rfl
  have hcore : (countSent c s).cores[c.val] = s.cores[c.val].countedSent := by
    simp only [countSent_eq, modCore_cores, upd_same]
  have hlow : bits a 15 0 < 2 ^ 16 := Nat.mod_lt _ (by decide)
  obtain ⟨⟨h1, h2, h3⟩, hcores⟩ := issueRemote_one c (BitVec.ofNat 64 (bits a 15 0)) {} dom (sendReq a b d) (countSent c s)
    (by rw [hcore]; exact hr) (by unfold NotLast at *; rw [hcore]; exact hl) (by rw [hcore]; exact hk)
    (by rw [BitVec.toNat_ofNat]; omega) (h.same rfl rfl rfl rfl)
  rw [hcall]
  refine ⟨⟨h1, h2, h3⟩, hcores.trans ?_⟩
  have hty : ¬ (sendReq a b d).type = 0x02 := by
    show ¬ (if bits a 15 0 = 0xFFFF then (0x07 : Byte) else 0x06) = 0x02
    split <;> simp
  simp only [if_neg hty]
  rw [enqueue_ni_plain c _ _ rfl rfl rfl, noteCore, modCore_modCore, modCore_modCore, countSent_eq, modCore_modCore]
  exact congrArg State.cores (modCore_congr (Core.issued_sent_far _ _ _))

theorem sendReq_msg (dom : Byte) (id : Word) (a : Dword) (b : Fin 8) (d : List Byte) (s : State) :
    let m := reqMsg dom id (sendReq a b d) s
    m.arg.toNat = b.val ∧ m.type = (if bits a 15 0 = 0xFFFF then 0x07 else 0x06) ∧
      m.addr = (if bits a 15 0 = 0xFFFF then 0 else BitVec.ofNat 64 (bits a 15 0)) ∧ m.dst = a.extractLsb' 16 16 ∧
      m.domain = dom ∧ m.payload = d := by
  refine ⟨?_, rfl, rfl, rfl, rfl, rfl⟩
  show (BitVec.ofNat 8 b.val).toNat = b.val
  rw [BitVec.toNat_ofNat, Nat.mod_eq_of_lt (by omega)]

/-- Settles O23: the checks of SEND, its copy into the send buffer, and its request. -/
theorem sendMessage : Obligations.SendMessage := by
  unfold Obligations.SendMessage
  intro c w s n b h hl hfree hd hnp hp k0 a src len good sent
  have hr := executes_running h
  obtain ⟨hk, hq⟩ := hfree
  have hsend := fun far hx => send_executes c w s n b far h hq hd hnp hp hx src len rfl rfl
  refine ⟨fun hx hidx hgood hclean hrace => ?_, fun hx hbad => ?_, fun dom hx hgood hclean hrace hroute => ?_⟩
  · have hexec := (hsend false hx).2 hgood (fun _ => hidx) hclean hrace
    have hlen : (Memory.read 0 k0.mem src len).length = len := Memory.length_read _ _ _ _
    rw [if_neg (by simp)] at hexec
    refine ⟨fun hroom => ?_, fun hfull => ?_⟩
    · rw [hexec, sendLocal_room c n _ b _ s hr hl hk (by rw [hlen]; exact hroom)]
      rfl
    · rw [hexec, sendLocal, if_neg]
      rw [hlen]
      exact Nat.not_le.2 hfull
  · rcases hx with hx | hx
    · exact ⟨_, (hsend false hx).1 (hbad.imp_right fun q => ⟨rfl, q.2⟩), raise_faulted c .msgRange 6 false 0 s hr rfl⟩
    · exact ⟨_, (hsend true hx).1 (.inl (hbad.resolve_right fun q => by omega)), raise_faulted c .msgRange 6 false 0 s hr rfl⟩
  · have hexec := (hsend true hx).2 hgood (by simp) hclean hrace
    rw [if_pos rfl] at hexec
    obtain ⟨⟨hnext, hreqs, -⟩, hcores⟩ := sendRemote_one c (sreg s.cores[c.val] w.a) b (Memory.read 0 s.cores[c.val].mem src len)
      s dom hr hl hk hroute
    obtain ⟨m1, m2, m3, m4, m5, m6⟩ := sendReq_msg dom s.fab.nextReq (sreg s.cores[c.val] w.a) b
      (Memory.read 0 s.cores[c.val].mem src len) s
    exact ⟨_, _, hexec, hnext, hreqs, m1, m2, m3, m4, m5, m6, hcores⟩

end Sys2Proof.Machine
end

section
/-! PROOFS. Mailboxes and queues as RECV meets them: what serving a mailbox keeps, what an exception keeps of the fabric, the end
of a RECV (R165, R168, R171, R174, R184). -/

namespace Sys2Proof.Machine

open Sys2Proof

/-! ### An exception keeps the fabric (R184) -/

/-- Steps that keep a part of the block, repeated. -/
theorem foldl_keeps {α β : Type} (g : State → β) (f : State → α → State) (hf : ∀ s x, g (f s x) = g s) (l : List α) (s : State) :
    g (l.foldl f s) = g s := by
  induction l generalizing s with
  | nil => rfl
  | cons x t ih => rw [List.foldl_cons, ih, hf]

theorem logBoth_fab (i : InstId) (event addr detail unit : Nat) (s : State) : (logBoth i event addr detail unit s).fab = s.fab := by
  rw [(onlyAccess.logBoth i event addr detail unit s).1]

theorem raiseOne_fab (c : CoreId) (cause : Cause) (pc : BitVec 17) (glob : Bool) (addr : Dword) (s : State) :
    (raiseOne c cause pc glob addr s).fab = s.fab := by
  unfold raiseOne
  split
  · rw [logBoth_fab]
    split <;> rfl
  · rfl

theorem barRelease_fab (b : Fin 4) (c : CoreId) (s : State) : (barRelease b c s).fab = s.fab := by
  unfold barRelease
  dsimp only
  split
  · split
    · rfl
    · rw [raiseOne_fab]
      rfl
  · rfl

theorem barCheck_fab (n : Fin 64) (b : Fin 4) (s : State) : (barCheck n b s).fab = s.fab := by
  unfold barCheck
  dsimp only
  split
  · exact foldl_keeps State.fab _ (fun s k => barRelease_fab b k s) _ s
  · rfl

theorem leftRunning_fab (c : CoreId) (s : State) : (leftRunning c s).fab = s.fab := by
  unfold leftRunning
  split
  · unfold barriers
    exact foldl_keeps State.fab _ (fun s _ => foldl_keeps State.fab _ (fun s b => barCheck_fab _ b s) _ s) _ s
  · rfl

theorem raise_fab (c : CoreId) (cause : Cause) (glob : Bool) (addr : Dword) (s : State) : (raise c cause glob addr s).fab = s.fab := by
  unfold raise raiseAt
  split
  · rw [leftRunning_fab, raiseOne_fab]
  · rfl

/-! ### What serving a mailbox keeps (R165, R166, R171) -/

/-- The messages of a mailbox and the count of its resets stand. -/
def KeepsMsgs (f : Mbox → Mbox) : Prop := ∀ x, (f x).msgs = x.msgs ∧ (f x).ptrResets = x.ptrResets

theorem KeepsMsgs.comp {f g : Mbox → Mbox} (hf : KeepsMsgs f) (hg : KeepsMsgs g) : KeepsMsgs fun x => f (g x) :=
  fun x => ⟨(hf _).1.trans (hg x).1, (hf _).2.trans (hg x).2⟩

theorem mboxLevel_keeps : KeepsMsgs mboxLevel := by
  intro x
  unfold mboxLevel
  dsimp only
  split
  · exact ⟨rfl, rfl⟩
  · split <;> exact ⟨rfl, rfl⟩

theorem mboxGrant_keeps (running : Bool) (n : Nat) : KeepsMsgs (mboxGrant running n) := by
  induction n with
  | zero => exact fun x => ⟨rfl, rfl⟩
  | succ n ih =>
    intro x
    unfold mboxGrant
    split
    · exact ⟨rfl, rfl⟩
    · next r t _ =>
      split
      · exact ih { x with waiting := t, granted := x.granted ++ [r] }
      · split
        · exact (ih.comp mboxLevel_keeps) { x with waiting := t, granted := x.granted ++ [r] }
        · exact ⟨rfl, rfl⟩

theorem modMbox_modMbox (c : CoreId) (m : Fin 8) (f g : Mbox → Mbox) (s : State) :
    modMbox c m f (modMbox c m g s) = modMbox c m (fun x => f (g x)) s := by
  simp only [modMbox, modCore_modCore, upd_upd]

theorem mboxServe_keeps (c : CoreId) (m : Fin 8) (s : State) : ∃ f, KeepsMsgs f ∧ mboxServe c m s = modMbox c m f s :=
  ⟨_, fun x => (mboxGrant_keeps _ _).comp mboxLevel_keeps x, rfl⟩

/-- While no message of another node waits, a look at what waits serves the mailbox alone. -/
theorem ingressRetry_keeps (c : CoreId) (m : Fin 8) (s : State) (h : s.fab.ingress = []) :
    ∃ f, KeepsMsgs f ∧ ingressRetry c m s = modMbox c m f s := by
  obtain ⟨f, hf, hserve⟩ := mboxServe_keeps c m (modMbox c m (fun x => { x with waiting := x.waiting ++ [] }) s)
  refine ⟨_, hf.comp (g := fun x => { x with waiting := x.waiting ++ [] }) fun x => ⟨rfl, rfl⟩, ?_⟩
  rw [← modMbox_modMbox, ← hserve]
  unfold ingressRetry
  simp only [h, List.filter_nil, List.drop_nil, List.take_nil, List.map_nil, List.length_nil]
  rfl

/-! ### The mailboxes of a core apart from the rest of it -/

/-- A core with these mailboxes. -/
def Core.withBoxes (k : Core) (b : Vector Mbox 8) : Core := { k with mbox := b }

/-- A change of a core that neither reads nor writes its mailboxes. -/
def BoxBlind (f : Core → Core) : Prop := ∀ k b, f (k.withBoxes b) = (f k).withBoxes b

theorem BoxBlind.mbox {f : Core → Core} (h : BoxBlind f) (k : Core) : (f k).mbox = k.mbox := by
  have e : (f k).mbox = ((f k).withBoxes k.mbox).mbox := congrArg Core.mbox (h k k.mbox)
  exact e

/-- A core whose mailbox m has changed. -/
def Core.modBox (k : Core) (m : Fin 8) (f : Mbox → Mbox) : Core := k.withBoxes (upd k.mbox m f)

theorem modMbox_eq (c : CoreId) (m : Fin 8) (f : Mbox → Mbox) (s : State) : modMbox c m f s = modCore c (fun k => k.modBox m f) s := rfl

/-- What is left of a core that has changed and whose mailbox m has then been served. -/
theorem modMbox_served (c : CoreId) (m : Fin 8) (f : Mbox → Mbox) (F : Core → Core) (hF : BoxBlind F) (s : State) :
    ∃ t, modMbox c m f (modCore c F s) = t ∧ t.cores[c.val].mbox[m.val] = f (s.cores[c.val].mbox[m.val]) ∧
      t = modCore c (fun k => (F k).withBoxes (upd k.mbox m fun _ => t.cores[c.val].mbox[m.val])) s := by
  have hbox : (modMbox c m f (modCore c F s)).cores[c.val].mbox[m.val] = f (s.cores[c.val].mbox[m.val]) := by
    simp only [modMbox_cores, modCore_cores, upd_same, hF.mbox]
  refine ⟨_, rfl, hbox, ?_⟩
  rw [hbox, modMbox_eq, modCore_modCore]
  refine modCore_congr ?_
  show (F s.cores[c.val]).withBoxes (upd (F s.cores[c.val]).mbox m f) = _
  rw [hF.mbox]
  rfl

theorem modCore_modMbox (c : CoreId) (m : Fin 8) (g : Mbox → Mbox) (F : Core → Core) (hF : BoxBlind F) (s : State) :
    modCore c F (modMbox c m g s) = modMbox c m g (modCore c F s) := by
  rw [modMbox_eq, modMbox_eq, modCore_modCore, modCore_modCore]
  refine modCore_congr ?_
  show F (s.cores[c.val].withBoxes _) = (F s.cores[c.val]).withBoxes (upd (F s.cores[c.val]).mbox m g)
  rw [hF, hF.mbox]

/-! ### The end of a RECV (R168, R174) -/

/-- A core that has taken these bytes from this sender. -/
def Core.took (w : RFmt) (dest : Nat) (d : List Byte) (sender : Nat) (now : Stamp) (k : Core) : Core :=
  { (((k.putS w.d (BitVec.ofNat 64 (d.length + 65536 * sender))).putP (predX w.x) 0xFFFF).issued).noted now with
    mem := Memory.write 0 k.mem dest d, msgRcvd := if k.ctrFreeze then k.msgRcvd else k.msgRcvd + 1 }

/-- A core that has found nothing. -/
def Core.foundNone (w : RFmt) (k : Core) : Core := ((k.putS w.d 0).putP (predX w.x) 0).issued

theorem took_boxBlind (w : RFmt) (dest : Nat) (d : List Byte) (sender : Nat) (now : Stamp) :
    BoxBlind (Core.took w dest d sender now) := by
  intro k b
  unfold Core.took Core.putS Core.putP Core.noted Core.issued Core.withBoxes
  split <;> split <;> simp_all

theorem foundNone_boxBlind (w : RFmt) : BoxBlind (Core.foundNone w) := by
  intro k b
  unfold Core.foundNone Core.putS Core.putP Core.issued Core.withBoxes
  split <;> split <;> simp_all

/-- A local memory without errors takes bytes. -/
theorem localPut_clean (c : CoreId) (a : Nat) (d : List Byte) (s : State) (h : CleanCore s.cores[c.val]) :
    localPut c a d s = modCore c (fun k => k.wrote a d (stampNow s)) s := by
  obtain ⟨hp, hl⟩ := h
  have hfold : ∀ l : List (Nat × Nat), l.foldl (fun p r => if r.2 = 64 then delLine p (r.1 / 64) else p) [] = ([] : List Nat) := by
    intro l
    induction l with
    | nil => rfl
    | cons x t ih =>
      rw [List.foldl_cons]
      split
      · exact ih
      · exact ih
  unfold localPut
  refine modCore_congr ?_
  rw [hp, hl, hfold, List.filter_nil]
  unfold Core.wrote Core.noted
  rw [← hp, ← hl]

/-- A core that no longer waits and has counted a message. -/
def Core.received (k : Core) : Core :=
  { k with stall := .none, msgRcvd := if k.ctrFreeze then k.msgRcvd else k.msgRcvd + 1 }

/-- The end of a RECV, as its steps leave the core. -/
theorem finished_eq (k : Core) (w : RFmt) (dest : Nat) (d : List Byte) (sender : Nat) (now : Stamp) (h : k.stall = .none) :
    ((((k.wrote dest d now).putS w.d (BitVec.ofNat 64 (d.length + 65536 * sender))).putP (predX w.x) (truth true)).received).issued =
      k.took w dest d sender now := by
  cases hf : k.ctrFreeze <;> by_cases hd : w.d = 0#5 <;>
    simp [Core.received, Core.took, Core.wrote, Core.noted, Core.putP, Core.putS, Core.issued, truth, hf, hd, h]

theorem recvFinish_eq (c : CoreId) (w : RFmt) (dest : Nat) (d : List Byte) (sender : Nat) (s : State)
    (hs : s.cores[c.val].stall = .none) (hl : NotLast c s) (hc : CleanCore s.cores[c.val]) (hr : NoRace none s.cores[c.val]) :
    recvFinish c w dest d sender s = modCore c (Core.took w dest d sender (stampNow s)) s := by
  unfold recvFinish
  simp only [localWrite_noRace hr, localPut_clean c dest d s hc, setS_modCore, setP_modCore, modCore_modCore]
  rw [advance_modCore c _ s hl (by simp [Core.wrote, Core.noted, Core.putP])]
  refine modCore_congr ?_
  rw [Nat.mul_comm sender 65536]
  exact finished_eq _ w dest d sender _ hs

theorem recvNothing_eq (c : CoreId) (w : RFmt) (s : State) (hs : s.cores[c.val].stall = .none) (hl : NotLast c s) :
    recvNothing c w s = modCore c (Core.foundNone w) s := by
  unfold recvNothing
  simp only [setS_eq, setP_modCore, modCore_modCore]
  rw [advance_modCore c _ s hl (by simp [Core.putP])]
  refine modCore_congr ?_
  rw [← hs]
  unfold Core.foundNone Core.putP Core.putS truth
  split <;> rfl

end Sys2Proof.Machine
end

section
/-! PROOFS. RECV and RECVNB (R44, R166, R168, R173, R174, R185, R211, R386, R387). -/

namespace Sys2Proof.Machine

open Sys2Proof

/-! ### Where RECV takes from (R168, R173, R205) -/

/-- RECV of a mailbox. -/
theorem recvSource_box (w : RFmt) (m : Fin 8) (p : BitVec 3) (hb : w.b = 0) (hc : w.c = 0) (h : w.x.toNat = 16 * m.val + p.toNat) :
    recvSource w = .mbox m ∧ recvLegal w = true := by
  have key : ∀ (m : Fin 8) (p : Fin 8), (16 * m.val + p.val).testBit 3 = false ∧ ((16 * m.val + p.val) >>> 4) % 2 ^ 3 = m.val ∧
      (16 * m.val + p.val) &&& 0x7F = 16 * m.val + p.val := by decide
  obtain ⟨h3, hm, honly⟩ := key m ⟨p.toNat, p.isLt⟩
  simp only [← h] at h3 hm honly
  have hbit : bit w.x 3 = false := h3
  have hfield : bits w.x 6 4 = m.val := hm
  refine ⟨?_, ?_⟩
  · unfold recvSource
    rw [hbit, if_neg (by simp), hfield]
    exact congrArg Source.mbox (Fin.ext (Nat.mod_eq_of_lt m.isLt))
  · simp [recvLegal, hb, hc, hbit, only, honly]

/-- RECV of a work-bin queue. -/
theorem recvSource_queue (w : RFmt) (d : Fin 4) (q : Fin 32) (p : BitVec 3) (hb : w.b = 0) (hc : w.c = 0)
    (h : w.x.toNat = 512 * q.val + 128 * d.val + 8 + p.toNat) : recvSource w = .queue d q ∧ recvLegal w = true := by
  have key : ∀ (q : Fin 32) (d : Fin 4) (p : Fin 8), (512 * q.val + 128 * d.val + 8 + p.val) &&& 0x3F8F =
      512 * q.val + 128 * d.val + 8 + p.val := by decide +kernel
  have honly := key q d ⟨p.toNat, p.isLt⟩
  simp only [← h] at honly
  have hp := p.isLt
  have hd := d.isLt
  have hq := q.isLt
  have hbit : bit w.x 3 = true := by
    show w.x.toNat.testBit 3 = true
    rw [Nat.testBit_eq_decide_div_mod_eq, decide_eq_true_eq]
    omega
  have hdie : bits w.x 8 7 = d.val := by
    show (w.x.toNat >>> 7) % 2 ^ 2 = d.val
    rw [Nat.shiftRight_eq_div_pow]
    omega
  have hqueue : bits w.x 13 9 = q.val := by
    show (w.x.toNat >>> 9) % 2 ^ 5 = q.val
    rw [Nat.shiftRight_eq_div_pow]
    omega
  refine ⟨?_, ?_⟩
  · unfold recvSource
    rw [hbit, if_pos rfl, hdie, hqueue]
    exact congr (congrArg Source.queue (Fin.ext (Nat.mod_eq_of_lt d.isLt))) (Fin.ext (Nat.mod_eq_of_lt q.isLt))
  · simp [recvLegal, hb, hc, hbit, only, honly]

/-! ### The issue of RECV (R168, R173, R185) -/

/-- A RECV of a mailbox. -/
theorem recvInstr_box (c : CoreId) (w : RFmt) (met : Option BoxErr) (wait : State → State) (s : State) (m : Fin 8)
    (h : Executes c w.g s) (hn : NotPending s.cores[c.val] [w.d, w.a] [] [predX w.x]) (hsrc : recvSource w = .mbox m)
    (hl : recvLegal w = true) : recvInstr c w met wait s = .next (ingressRetry c m
      (if met = some .pointers then mboxPtrReset c m s
       else if (s.cores[c.val].mbox[m.val]).msgs = [] then recvTry c w wait s
       else boxMet c (coreDie c) met (recvTry c w wait) s)) := by
  unfold recvInstr
  rw [coreInstr_front c w.g _ _ _ _ _ s h hl hn, hsrc]

/-- A RECV of a queue. -/
theorem recvInstr_queue (c : CoreId) (w : RFmt) (met : Option BoxErr) (wait : State → State) (s : State) (d : Fin 4) (q : Fin 32)
    (h : Executes c w.g s) (hn : NotPending s.cores[c.val] [w.d, w.a] [] [predX w.x]) (hsrc : recvSource w = .queue d q)
    (hl : recvLegal w = true) : recvInstr c w met wait s = .next
      (if !queueAssigned c d q s then raise c .binRange false 0 s
       else if s.dies[d.val].queues[q.val] = [] then recvTry c w wait s
       else boxMet c d met (recvTry c w wait) s) := by
  unfold recvInstr
  rw [coreInstr_front c w.g _ _ _ _ _ s h hl hn, hsrc]

/-- RECV stalls where RECVNB goes on. -/
theorem recv_or_recvnb (c : CoreId) (w : RFmt) (met : Option BoxErr) (x : Instr) (s : State)
    (hx : x = .recv c ⟨w, met⟩ ∨ x = .recvnb c ⟨w, met⟩) : ∃ wait, exec x s = recvInstr c w met wait s ∧
      (x = .recv c ⟨w, met⟩ → wait = recvStall c w) ∧ (x = .recvnb c ⟨w, met⟩ → wait = recvNothing c w) := by
  rcases hx with rfl | rfl
  · exact ⟨recvStall c w, rfl, fun _ => rfl, fun e => by cases e⟩
  · exact ⟨recvNothing c w, rfl, (fun e => by cases e), fun _ => rfl⟩

/-- The block once the read has met this error: a corrected one is counted on its die (R386, R387). -/
def foundCe (met : Option BoxErr) (d : Fin 4) (s : State) : State :=
  if met = some .corrected then modDie d (fun y => { y with sramCe := satInc y.sramCe }) s else s

theorem foundCe_same (met : Option BoxErr) (d : Fin 4) (s : State) :
    (foundCe met d s).cores = s.cores ∧ (foundCe met d s).fab = s.fab ∧ stampNow (foundCe met d s) = stampNow s := by
  unfold foundCe
  split <;> exact ⟨rfl, rfl, rfl⟩

theorem foundCe_queues (met : Option BoxErr) (d : Fin 4) (s : State) (d' : Fin 4) :
    (foundCe met d s).dies[d'.val].queues = s.dies[d'.val].queues := by
  unfold foundCe
  split
  · by_cases e : d' = d
    · subst e
      simp only [modDie, upd_same]
    · rw [modDie]
      exact congrArg Die.queues (upd_other _ _ _ _ d'.isLt fun h => e (Fin.ext h))
  · rfl

theorem boxMet_found (c : CoreId) (d : Fin 4) (met : Option BoxErr) (go : State → State) (s : State)
    (h : met ≠ some .uncorrectable) : boxMet c d met go s = go (foundCe met d s) := by
  unfold boxMet foundCe
  split
  · rfl
  · exact absurd rfl h
  · next h1 _ => rw [if_neg h1]

/-! ### A mailbox and the fault that its RECV raises (R168, R185) -/

/-- Service of a mailbox after a fault leaves the fault as it is. -/
theorem Faulted.boxed {c : CoreId} {code : Byte} {glob : Bool} {addr : Dword} {s t : State} (h : Faulted c code glob addr s t)
    (m : Fin 8) (f : Mbox → Mbox) : Faulted c code glob addr s (modMbox c m f t) := by
  unfold Faulted at *
  simp only [modMbox_cores, upd_same]
  exact h

/-- What mailboxes hold is no part of a fault. -/
theorem Faulted.earlier {c : CoreId} {code : Byte} {glob : Bool} {addr : Dword} {s u t : State} (h : Faulted c code glob addr u t)
    (b : Vector Mbox 8) (hc : u.cores[c.val] = s.cores[c.val].withBoxes b) : Faulted c code glob addr s t := by
  unfold Faulted at *
  rw [hc] at h
  exact h

/-- A fault at a RECV of a mailbox: its messages stay. -/
theorem raised_served (c : CoreId) (m : Fin 8) (cause : Cause) (code : Byte) (glob : Bool) (addr : Dword) (s : State)
    (hr : s.cores[c.val].st = .running) (hi : s.fab.ingress = []) (hcode : causeCode cause = code) :
    ∃ t, ingressRetry c m (raise c cause glob addr s) = t ∧ (t.cores[c.val].mbox[m.val]).msgs = (s.cores[c.val].mbox[m.val]).msgs ∧
      (t.cores[c.val].mbox[m.val]).ptrResets = (s.cores[c.val].mbox[m.val]).ptrResets ∧ Faulted c code glob addr s t := by
  obtain ⟨f, hf, hserve⟩ := ingressRetry_keeps c m (raise c cause glob addr s) (by rw [raise_fab]; exact hi)
  obtain ⟨hcore, -⟩ := raise_core c cause glob addr s hr
  have hbox : (raise c cause glob addr s).cores[c.val].mbox[m.val] =
      mboxGrant false (s.cores[c.val].mbox[m.val]).waiting.length (s.cores[c.val].mbox[m.val]) := by
    simp only [hcore, faultCore, Vector.getElem_map]
  have hkeep := mboxGrant_keeps false (s.cores[c.val].mbox[m.val]).waiting.length (s.cores[c.val].mbox[m.val])
  rw [← hbox] at hkeep
  refine ⟨_, hserve, ?_, ?_, (raise_faulted c cause code glob addr s hr hcode).boxed m f⟩
  · simp only [modMbox_cores, upd_same]
    exact (hf _).1.trans hkeep.1
  · simp only [modMbox_cores, upd_same]
    exact (hf _).2.trans hkeep.2

/-- A message that its destination has room for is taken (R166, R168). -/
theorem recvMbox_taken (c : CoreId) (w : RFmt) (m : Fin 8) (g : MboxMsg) (rest : List MboxMsg) (s : State)
    (hs : s.cores[c.val].stall = .none) (hl : NotLast c s) (hc : CleanCore s.cores[c.val]) (hr : NoRace none s.cores[c.val])
    (hi : s.fab.ingress = []) (dest : Nat) (hdest : (sreg s.cores[c.val] w.a).toNat = dest) (hd : Storable dest g.data.length) :
    ∃ t, ingressRetry c m (recvMbox c w m g rest s) = t ∧ (t.cores[c.val].mbox[m.val]).msgs = rest ∧
      t = modCore c (fun k => (k.took w dest g.data g.sender.toNat (stampNow s)).withBoxes
        (upd k.mbox m fun _ => t.cores[c.val].mbox[m.val])) s := by
  have hin : inData dest g.data.length = true := by
    obtain ⟨h1, h2⟩ := hd
    simp [inData, dataBase, accBase, h1, h2]
  have hblind := took_boxBlind w dest g.data g.sender.toNat (stampNow s)
  have hmsgs : KeepsMsgs fun x => x := fun x => ⟨rfl, rfl⟩
  have hcore : (modMbox c m (fun x => { x with msgs := rest }) s).cores[c.val] =
      s.cores[c.val].withBoxes (upd s.cores[c.val].mbox m fun x => { x with msgs := rest }) := by
    simp only [modMbox_cores, upd_same]
    rfl
  have hfin := recvFinish_eq c w dest g.data g.sender.toNat (modMbox c m (fun x => { x with msgs := rest }) s)
    (by rw [hcore]; exact hs) (by unfold NotLast at *; rw [hcore]; exact hl) (by rw [hcore]; exact hc) (by rw [hcore]; exact hr)
  have hnow : stampNow (modMbox c m (fun x => { x with msgs := rest }) s) = stampNow s := rfl
  rw [hnow, modCore_modMbox c m _ _ hblind] at hfin
  have htake : recvMbox c w m g rest s =
      mboxServe c m (modMbox c m (fun x => { x with msgs := rest }) (modCore c (Core.took w dest g.data g.sender.toNat (stampNow s)) s)) := by
    unfold recvMbox
    simp only [hdest]
    rw [if_pos hin, hfin]
  obtain ⟨f, hf, hserve⟩ := mboxServe_keeps c m
    (modMbox c m (fun x => { x with msgs := rest }) (modCore c (Core.took w dest g.data g.sender.toNat (stampNow s)) s))
  rw [htake, hserve]
  obtain ⟨f', hf', hretry⟩ := ingressRetry_keeps c m (modMbox c m f
    (modMbox c m (fun x => { x with msgs := rest }) (modCore c (Core.took w dest g.data g.sender.toNat (stampNow s)) s))) hi
  rw [hretry, modMbox_modMbox, modMbox_modMbox]
  obtain ⟨t, ht, hbox, hframe⟩ := modMbox_served c m (fun x => f' (f { x with msgs := rest })) _ hblind s
  refine ⟨t, ht, ?_, hframe⟩
  rw [hbox]
  exact (hf' _).1.trans (hf _).1

/-- A message that does not fit raises and stays (R168). -/
theorem recvMbox_outside (c : CoreId) (w : RFmt) (m : Fin 8) (g : MboxMsg) (rest : List MboxMsg) (s : State) (dest : Nat)
    (hdest : (sreg s.cores[c.val] w.a).toNat = dest) (hd : ¬ Storable dest g.data.length) :
    recvMbox c w m g rest s = raise c .localRange false (BitVec.ofNat 64 dest) s := by
  unfold recvMbox
  simp only [hdest]
  rw [if_neg]
  intro h
  unfold inData at h
  rw [Bool.and_eq_true, decide_eq_true_eq, decide_eq_true_eq] at h
  exact hd h

/-- A RECV that leaves its mailbox empty-handed: the core as `F` leaves it, and the mailbox looked after. -/
theorem box_waited (c : CoreId) (m : Fin 8) (F : Core → Core) (hF : BoxBlind F) (s : State) (hi : s.fab.ingress = []) :
    ∃ t, ingressRetry c m (modCore c F s) = t ∧
      t = modCore c (fun k => (F k).withBoxes (upd k.mbox m fun _ => t.cores[c.val].mbox[m.val])) s := by
  obtain ⟨f, -, hretry⟩ := ingressRetry_keeps c m (modCore c F s) hi
  obtain ⟨t, ht, -, hframe⟩ := modMbox_served c m f F hF s
  exact ⟨t, hretry.trans ht, hframe⟩

/-- A core that stalls in a RECV. -/
def Core.awaits (w : RFmt) (k : Core) : Core := { k with stall := .recv w }

/-- An entry that its destination has room for is taken from its queue (R174). -/
theorem recvQueue_taken (c : CoreId) (w : RFmt) (d : Fin 4) (q : Fin 32) (e : List Byte) (rest : List (List Byte)) (s : State)
    (hs : s.cores[c.val].stall = .none) (hl : NotLast c s) (hc : CleanCore s.cores[c.val]) (hr : NoRace none s.cores[c.val])
    (dest : Nat) (hdest : (sreg s.cores[c.val] w.a).toNat = dest) (hd : Storable dest e.length) :
    recvQueue c w d q e rest s = modCore c (Core.took w dest e 0xFFFF (stampNow s))
      (modDie d (fun y => { y with queues := upd y.queues q fun _ => rest }) s) := by
  have hin : inData dest e.length = true := by
    obtain ⟨h1, h2⟩ := hd
    simp [inData, dataBase, accBase, h1, h2]
  unfold recvQueue
  simp only [hdest]
  rw [if_pos hin, recvFinish_eq c w dest e 0xFFFF (modDie d _ s) hs hl hc hr]
  rfl

/-- An entry that does not fit raises and stays (R174). -/
theorem recvQueue_outside (c : CoreId) (w : RFmt) (d : Fin 4) (q : Fin 32) (e : List Byte) (rest : List (List Byte)) (s : State)
    (dest : Nat) (hdest : (sreg s.cores[c.val] w.a).toNat = dest) (hd : ¬ Storable dest e.length) :
    recvQueue c w d q e rest s = raise c .localRange false (BitVec.ofNat 64 dest) s := by
  unfold recvQueue
  simp only [hdest]
  rw [if_neg]
  intro h
  unfold inData at h
  rw [Bool.and_eq_true, decide_eq_true_eq, decide_eq_true_eq] at h
  exact hd h

/-- What RECV takes, by what it names. -/
theorem recvTry_box (c : CoreId) (w : RFmt) (wait : State → State) (s : State) (m : Fin 8) (hsrc : recvSource w = .mbox m)
    (g : MboxMsg) (rest : List MboxMsg) (h : (s.cores[c.val].mbox[m.val]).msgs = g :: rest) :
    recvTry c w wait s = recvMbox c w m g rest s := by
  unfold recvTry
  simp only [hsrc, h]

theorem recvTry_box_empty (c : CoreId) (w : RFmt) (wait : State → State) (s : State) (m : Fin 8) (hsrc : recvSource w = .mbox m)
    (h : (s.cores[c.val].mbox[m.val]).msgs = []) : recvTry c w wait s = wait s := by
  unfold recvTry
  simp only [hsrc, h]

theorem recvTry_queue (c : CoreId) (w : RFmt) (wait : State → State) (s : State) (d : Fin 4) (q : Fin 32)
    (hsrc : recvSource w = .queue d q) (e : List Byte) (rest : List (List Byte)) (h : s.dies[d.val].queues[q.val] = e :: rest) :
    recvTry c w wait s = recvQueue c w d q e rest s := by
  unfold recvTry
  simp only [hsrc, h]

theorem recvTry_queue_empty (c : CoreId) (w : RFmt) (wait : State → State) (s : State) (d : Fin 4) (q : Fin 32)
    (hsrc : recvSource w = .queue d q) (h : s.dies[d.val].queues[q.val] = []) :
    recvTry c w wait s = if queueSealed d q s then recvNothing c w s else wait s := by
  unfold recvTry
  simp only [hsrc, h]

/-- What RECV and RECVNB of mailbox m leave. -/
theorem receive_box (c : CoreId) (w : RFmt) (met : Option BoxErr) (x : Instr) (s : State) (m : Fin 8) (h : Executes c w.g s)
    (hl : NotLast c s) (hn : NotPending s.cores[c.val] [w.d, w.a] [] [predX w.x]) (hi : s.fab.ingress = [])
    (hc : CleanCore s.cores[c.val]) (hrace : NoRace none s.cores[c.val])
    (hx : x = .recv c ⟨w, met⟩ ∨ x = .recvnb c ⟨w, met⟩) (hsrc : recvSource w = .mbox m) (hlegal : recvLegal w = true)
    (dest : Nat) (hdest : (sreg s.cores[c.val] w.a).toNat = dest) :
    (met = some .pointers → ∃ t, exec x s = .next t ∧ (t.cores[c.val].mbox[m.val]).msgs = [] ∧
      (t.cores[c.val].mbox[m.val]).ptrResets = satInc (s.cores[c.val].mbox[m.val]).ptrResets ∧ Faulted c 9 false 0 s t) ∧
    (∀ g rest, (s.cores[c.val].mbox[m.val]).msgs = g :: rest →
      (met = none ∨ met = some .corrected →
        (Storable dest g.data.length → ∃ t, exec x s = .next t ∧ (t.cores[c.val].mbox[m.val]).msgs = rest ∧
          t = modCore c (fun k => (k.took w dest g.data g.sender.toNat (stampNow s)).withBoxes
            (upd k.mbox m fun _ => t.cores[c.val].mbox[m.val])) (foundCe met (coreDie c) s)) ∧
        (¬ Storable dest g.data.length → ∃ t, exec x s = .next t ∧ (t.cores[c.val].mbox[m.val]).msgs = g :: rest ∧
          Faulted c 2 false (BitVec.ofNat 64 dest) s t)) ∧
      (met = some .uncorrectable → ∃ t, exec x s = .next t ∧ (t.cores[c.val].mbox[m.val]).msgs = g :: rest ∧
        Faulted c 5 false 0 s t)) ∧
    ((s.cores[c.val].mbox[m.val]).msgs = [] → met ≠ some .pointers →
      (x = .recvnb c ⟨w, met⟩ → ∃ t, exec x s = .next t ∧ t = modCore c (fun k => (k.foundNone w).withBoxes
        (upd k.mbox m fun _ => t.cores[c.val].mbox[m.val])) s) ∧
      (x = .recv c ⟨w, met⟩ → ∃ t, exec x s = .next t ∧ t = modCore c (fun k => (k.awaits w).withBoxes
        (upd k.mbox m fun _ => t.cores[c.val].mbox[m.val])) s)) := by
  have hr := executes_running h
  have hs := executes_stall h
  obtain ⟨wait, hexec, hrecv, hrecvnb⟩ := recv_or_recvnb c w met x s hx
  rw [recvInstr_box c w met wait s m h hn hsrc hlegal] at hexec
  rw [hexec]
  refine ⟨fun hm => ?_, fun g rest hg => ⟨fun hm => ?_, fun hm => ?_⟩, fun hempty hm => ⟨fun hx => ?_, fun hx => ?_⟩⟩
  · rw [if_pos hm]
    generalize hu : modMbox c m (fun x => { x with msgs := [], closed := false, ptrResets := satInc x.ptrResets }) s = u
    have hcore : u.cores[c.val] = s.cores[c.val].withBoxes
        (upd s.cores[c.val].mbox m fun x => { x with msgs := [], closed := false, ptrResets := satInc x.ptrResets }) := by
      rw [← hu]
      simp only [modMbox_cores, upd_same]
      rfl
    have hreset : mboxPtrReset c m s = raise c .mbxPtr false 0 u := by rw [← hu]; rfl
    obtain ⟨t, ht, hmsgs, hptr, hf⟩ := raised_served c m .mbxPtr 9 false 0 u (by rw [hcore]; exact hr)
      (by rw [← hu]; exact hi) rfl
    rw [hcore] at hmsgs hptr
    simp only [Core.withBoxes, upd_same] at hmsgs hptr
    exact ⟨t, by rw [hreset, ht], hmsgs, hptr, hf.earlier _ hcore⟩
  · have hne : met ≠ some .uncorrectable := by rcases hm with rfl | rfl <;> simp
    have hnp : met ≠ some .pointers := by rcases hm with rfl | rfl <;> simp
    obtain ⟨h1, h2, h3⟩ := foundCe_same met (coreDie c) s
    rw [if_neg hnp, if_neg (by rw [hg]; simp), boxMet_found c _ met _ s hne, ← h3]
    have hgu : ((foundCe met (coreDie c) s).cores[c.val].mbox[m.val]).msgs = g :: rest := by
      simp only [h1]
      exact hg
    rw [recvTry_box c w wait _ m hsrc g rest hgu]
    have hself : (foundCe met (coreDie c) s).cores[c.val] = s.cores[c.val] := by simp only [h1]
    generalize foundCe met (coreDie c) s = u at h1 h2 hgu hself
    refine ⟨fun hd => ?_, fun hd => ?_⟩
    · obtain ⟨t, ht, hmsgs, hframe⟩ := recvMbox_taken c w m g rest u (by rw [hself]; exact hs) (hl.same h1) (by rw [hself]; exact hc)
        (by rw [hself]; exact hrace) (by rw [h2]; exact hi) dest (by rw [hself]; exact hdest) hd
      exact ⟨t, by rw [ht], hmsgs, hframe⟩
    · obtain ⟨t, ht, hmsgs, -, hf⟩ := raised_served c m .localRange 2 false (BitVec.ofNat 64 dest) u (by rw [hself]; exact hr)
        (by rw [h2]; exact hi) rfl
      exact ⟨t, by rw [recvMbox_outside c w m g rest u dest (by rw [hself]; exact hdest) hd, ht], hmsgs.trans hgu,
        hf.earlier s.cores[c.val].mbox hself⟩
  · subst hm
    have hlog := (onlyAccess.logPf 0x0500 0xFF 0 0 0xFFFF s).1
    rw [if_neg (by simp), if_neg (by rw [hg]; simp)]
    have hself : (logPf 0x0500 0xFF 0 0 0xFFFF s).cores[c.val] = s.cores[c.val] := by rw [hlog]
    have hfab : (logPf 0x0500 0xFF 0 0 0xFFFF s).fab = s.fab := by rw [hlog]
    unfold boxMet
    generalize logPf 0x0500 0xFF 0 0 0xFFFF s = u at hself hfab
    obtain ⟨t, ht, hmsgs, -, hf⟩ := raised_served c m .poison 5 false 0 u (by rw [hself]; exact hr) (by rw [hfab]; exact hi) rfl
    exact ⟨t, by rw [ht], by rw [hmsgs, hself, hg], hf.earlier s.cores[c.val].mbox hself⟩
  · rw [if_neg hm, if_pos hempty, recvTry_box_empty c w wait s m hsrc hempty, hrecvnb hx, recvNothing_eq c w s hs hl]
    obtain ⟨t, ht, hframe⟩ := box_waited c m (Core.foundNone w) (foundNone_boxBlind w) s hi
    exact ⟨t, by rw [ht], hframe⟩
  · have hstall : recvStall c w s = modCore c (Core.awaits w) s := by
      unfold recvStall
      rw [hsrc]
      rfl
    rw [if_neg hm, if_pos hempty, recvTry_box_empty c w wait s m hsrc hempty, hrecv hx, hstall]
    obtain ⟨t, ht, hframe⟩ := box_waited c m (Core.awaits w) (fun _ _ => rfl) s hi
    exact ⟨t, by rw [ht], hframe⟩

/-- What RECV and RECVNB of a queue leave. -/
theorem receive_queue (c : CoreId) (w : RFmt) (met : Option BoxErr) (x : Instr) (s : State) (d : Fin 4) (q : Fin 32)
    (h : Executes c w.g s) (hl : NotLast c s) (hn : NotPending s.cores[c.val] [w.d, w.a] [] [predX w.x])
    (hc : CleanCore s.cores[c.val]) (hrace : NoRace none s.cores[c.val])
    (hx : x = .recv c ⟨w, met⟩ ∨ x = .recvnb c ⟨w, met⟩) (hsrc : recvSource w = .queue d q) (hlegal : recvLegal w = true)
    (dest : Nat) (hdest : (sreg s.cores[c.val] w.a).toNat = dest) :
    (queueAssigned c d q s = false → ∃ t, exec x s = .next t ∧ Faulted c 7 false 0 s t) ∧
    (queueAssigned c d q s = true →
      (∀ e rest, s.dies[d.val].queues[q.val] = e :: rest →
        (met ≠ some .uncorrectable → Storable dest e.length →
          exec x s = .next (modCore c (Core.took w dest e 0xFFFF (stampNow s))
            (modDie d (fun y => { y with queues := upd y.queues q fun _ => rest }) (foundCe met d s)))) ∧
        (met ≠ some .uncorrectable → ¬ Storable dest e.length → ∃ t, exec x s = .next t ∧
          t.dies[d.val].queues[q.val] = e :: rest ∧ Faulted c 2 false (BitVec.ofNat 64 dest) s t) ∧
        (met = some .uncorrectable → ∃ t, exec x s = .next t ∧ t.dies[d.val].queues[q.val] = e :: rest ∧
          Faulted c 5 false 0 s t)) ∧
      (s.dies[d.val].queues[q.val] = [] → queueSealed d q s = true → exec x s = .next (modCore c (Core.foundNone w) s)) ∧
      (s.dies[d.val].queues[q.val] = [] → queueSealed d q s = false →
        (x = .recvnb c ⟨w, met⟩ → exec x s = .next (modCore c (Core.foundNone w) s)) ∧
        (x = .recv c ⟨w, met⟩ → exec x s = .next (modCore c (Core.awaits w)
          (modDie d (fun y => { y with pulls := y.pulls ++ [(q, c)] }) s))))) := by
  have hr := executes_running h
  have hs := executes_stall h
  obtain ⟨wait, hexec, hrecv, hrecvnb⟩ := recv_or_recvnb c w met x s hx
  rw [recvInstr_queue c w met wait s d q h hn hsrc hlegal] at hexec
  rw [hexec]
  refine ⟨fun ha => ?_, fun ha => ⟨fun e rest hq => ?_, fun hempty hseal => ?_, fun hempty hseal => ⟨fun hx => ?_, fun hx => ?_⟩⟩⟩
  · rw [ha]
    exact ⟨_, rfl, raise_faulted c .binRange 7 false 0 s hr rfl⟩
  · rw [ha, if_neg (by simp), if_neg (by rw [hq]; simp)]
    obtain ⟨h1, h2, h3⟩ := foundCe_same met d s
    have hqu : (foundCe met d s).dies[d.val].queues[q.val] = e :: rest := by simp only [foundCe_queues, hq]
    have hself : (foundCe met d s).cores[c.val] = s.cores[c.val] := by simp only [h1]
    refine ⟨fun hne hd => ?_, fun hne hd => ?_, fun hm => ?_⟩
    · rw [boxMet_found c d met _ s hne, recvTry_queue c w wait _ d q hsrc e rest hqu, recvQueue_taken c w d q e rest _
        (by rw [hself]; exact hs) (hl.same h1) (by rw [hself]; exact hc) (by rw [hself]; exact hrace) dest
        (by rw [hself]; exact hdest) hd, h3]
    · rw [boxMet_found c d met _ s hne, recvTry_queue c w wait _ d q hsrc e rest hqu,
        recvQueue_outside c w d q e rest _ dest (by rw [hself]; exact hdest) hd]
      have hrun : (foundCe met d s).cores[c.val].st = .running := by rw [hself]; exact hr
      refine ⟨_, rfl, ?_, (raise_faulted c .localRange 2 false (BitVec.ofNat 64 dest) _ hrun rfl).earlier s.cores[c.val].mbox hself⟩
      simp only [(raise_core c .localRange false (BitVec.ofNat 64 dest) _ hrun).2 d, hqu]
    · subst hm
      have hlog := onlyAccess.logPf 0x0500 0xFF 0 0 0xFFFF s
      have hcore : (logPf 0x0500 0xFF 0 0 0xFFFF s).cores[c.val] = s.cores[c.val] := by rw [hlog.1]
      have hdie : (logPf 0x0500 0xFF 0 0 0xFFFF s).dies[d.val].queues = s.dies[d.val].queues := by rw [hlog.2 d]
      unfold boxMet
      generalize logPf 0x0500 0xFF 0 0 0xFFFF s = u at hcore hdie
      have hrun : u.cores[c.val].st = .running := by rw [hcore]; exact hr
      refine ⟨_, rfl, ?_, (raise_faulted c .poison 5 false 0 u hrun rfl).earlier s.cores[c.val].mbox hcore⟩
      simp only [(raise_core c .poison false 0 u hrun).2 d, hdie, hq]
  · rw [ha, if_neg (by simp), if_pos hempty, recvTry_queue_empty c w wait s d q hsrc hempty, hseal, if_pos rfl,
      recvNothing_eq c w s hs hl]
  · rw [ha, if_neg (by simp), if_pos hempty, recvTry_queue_empty c w wait s d q hsrc hempty, hseal, if_neg (by simp), hrecvnb hx,
      recvNothing_eq c w s hs hl]
  · rw [ha, if_neg (by simp), if_pos hempty, recvTry_queue_empty c w wait s d q hsrc hempty, hseal, if_neg (by simp), hrecv hx]
    unfold recvStall
    rw [hsrc]
    rfl

/-- Settles O26, by what the instruction names: a mailbox or a work-bin queue. -/
theorem receiveMessage : Obligations.ReceiveMessage := by
  unfold Obligations.ReceiveMessage
  intro c w s p met x h hl hb hc hn hp hi hclean hrace hx
  subst hp
  refine ⟨fun m hm => ?_, fun d q hq => ?_⟩
  · obtain ⟨hsrc, hlegal⟩ := recvSource_box w m _ hb hc hm
    exact receive_box c w met x s m h hl hn hi hclean hrace hx hsrc hlegal _ rfl
  · obtain ⟨hsrc, hlegal⟩ := recvSource_queue w d q _ hb hc hq
    exact receive_queue c w met x s d q h hl hn hclean hrace hx hsrc hlegal _ rfl

end Sys2Proof.Machine
end

section
/-! PROOFS. Descriptors that start and end: items, admission, the record that falls due (R79, R91, R94, R138, R141, R143). -/

namespace Sys2Proof.Machine

open Sys2Proof

/-! ### The accepted descriptors -/

theorem findItem_id {d : Nat} {s : State} {x : Item} (h : findItem d s = some x) : x.id = d := by
  have := List.find?_some h
  simpa using this

/-- A change that keeps numbers reaches the descriptor that it names. -/
theorem findItem_modItem (d : Nat) (f : Item → Item) (s : State) (hf : ∀ x, x.id = d → (f x).id = d) :
    findItem d (modItem d f s) = (findItem d s).map f := by
  unfold findItem
  rw [modItem_items, List.find?_map]
  have hcomp : ((fun x : Item => decide (x.id = d)) ∘ fun x => if x.id = d then f x else x) = fun x => decide (x.id = d) := by
    funext x
    by_cases h : x.id = d
    · simp [h, hf x h]
    · simp [h]
  rw [hcomp]
  cases hx : s.items.find? fun x => decide (x.id = d) with
  | none => rfl
  | some x =>
    have := findItem_id hx
    simp [this]

theorem findItem_items {d : Nat} {s t : State} (h : t.items = s.items) : findItem d t = findItem d s := by
  unfold findItem
  rw [h]

/-! ### Admission (R141, R143) -/

/-- The accepted descriptors, the pins, Ephemeris, the CQs and the grants of pins are as they were. -/
structure KeepsWork (s t : State) : Prop where
  items : t.items = s.items
  evt : t.evt = s.evt
  eph : t.eph = s.eph
  cq : ∀ i : InstId, t.inst[i.val].cq = s.inst[i.val].cq
  mask : ∀ i : InstId, t.inst[i.val].evtMask = s.inst[i.val].evtMask

theorem KeepsWork.refl (s : State) : KeepsWork s s := ⟨rfl, rfl, rfl, fun _ => rfl, fun _ => rfl⟩

theorem KeepsWork.trans {s t u : State} (h : KeepsWork s t) (k : KeepsWork t u) : KeepsWork s u :=
  ⟨k.items.trans h.items, k.evt.trans h.evt, k.eph.trans h.eph, fun i => (k.cq i).trans (h.cq i), fun i => (k.mask i).trans (h.mask i)⟩

theorem KeepsWork.of_access {s t : State} (h : OnlyAccess s t) : KeepsWork s t := by
  have hinst : t.inst = s.inst := by rw [h.1]
  exact ⟨by rw [h.1], by rw [h.1], by rw [h.1], fun i => by rw [hinst], fun i => by rw [hinst]⟩

theorem modInst_keepsWork (i : InstId) (f : Inst → Inst) (s : State) (h1 : ∀ x, (f x).cq = x.cq) (h2 : ∀ x, (f x).evtMask = x.evtMask) :
    KeepsWork s (modInst i f s) := by
  have key : ∀ {β : Type} (g : Inst → β), (∀ x, g (f x) = g x) → ∀ j : InstId, g (modInst i f s).inst[j.val] = g s.inst[j.val] := by
    intro β g hg j
    by_cases e : j = i
    · subst e
      simp only [modInst, upd_same, hg]
    · simp only [modInst, upd_other _ _ _ _ j.isLt fun h => e (Fin.ext h)]
  exact ⟨rfl, rfl, rfl, key _ h1, key _ h2⟩

theorem msix_keepsWork (fn : InstId) (v : Fin 32) (s : State) : KeepsWork s (msix fn v s) := by
  have hinst : (msix fn v s).inst = s.inst := by rw [msix_frame]
  exact ⟨by rw [msix_frame], by rw [msix_frame], by rw [msix_frame], fun i => by rw [hinst], fun i => by rw [hinst]⟩

theorem pressureUpdate_keepsWork (i : InstId) (s : State) : KeepsWork s (pressureUpdate i s) := by
  unfold pressureUpdate
  extract_lets x p
  split
  · rename_i u1 u2 quiet _
    have h1 : KeepsWork s u1 := modInst_keepsWork _ _ _ (fun _ => rfl) fun _ => rfl
    have h2 : KeepsWork u1 u2 := by
      show KeepsWork u1 (if x.pressureIrqEn = true then msix i x.pressureVec u1 else u1)
      split
      · exact msix_keepsWork _ _ _
      · exact .refl u1
    have h3 : KeepsWork u2 (modInst i (fun x => { x with pressureLog := some u2.eph.ticks }) u2) :=
      modInst_keepsWork _ _ _ (fun _ => rfl) fun _ => rfl
    clear_value u2 quiet u1
    split
    · exact h1.trans h2
    · exact (h1.trans h2).trans (h3.trans (.of_access (onlyAccess.logPf _ _ _ _ _ _)))
  · exact modInst_keepsWork _ _ _ (fun _ => rfl) fun _ => rfl

theorem admission_keepsWork (i : InstId) (s : State) : KeepsWork s (admission i s) := by
  unfold admission
  extract_lets x n set
  have hset : ∀ b u, KeepsWork u (set b u) := fun b u => modInst_keepsWork _ _ _ (fun _ => rfl) fun _ => rfl
  clear_value set
  split
  · exact (hset _ _).trans (pressureUpdate_keepsWork _ _)
  · split
    · exact (hset _ _).trans (pressureUpdate_keepsWork _ _)
    · exact pressureUpdate_keepsWork _ _

theorem estComplete_keepsWork (x : Item) (st : BitVec 8) (s : State) : KeepsWork s (estComplete x st s) := by
  unfold estComplete
  split
  · exact .refl s
  · exact modInst_keepsWork _ _ _ (fun _ => rfl) fun _ => rfl

/-! ### A descriptor ends (R79, R91, R94) -/

/-- A descriptor that no reset has taken over ends: its record falls due. -/
theorem endItem_completes (d : Nat) (result : Dword) (f : Outcomes → Outcomes) (s : State) (x : Item) (hx : findItem d s = some x)
    (hst : x.stage ≠ .ended) (hr : x.resetHead = none) :
    (endItem d result f s).evt = s.evt ∧ Completes d (statusOf (endedItem x result f s).out) result s (endItem d result f s) := by
  have hid := findItem_id hx
  unfold endItem
  simp only [hx, if_neg hst, hr, Option.isSome_none, Bool.false_eq_true, if_false]
  have hout : (endedItem x result f s).id = d ∧ (endedItem x result f s).tag = x.tag ∧ (endedItem x result f s).sq = x.sq ∧
      (endedItem x result f s).result = result := ⟨hid, rfl, rfl, rfl⟩
  generalize endedItem x result f s = y at hout ⊢
  obtain ⟨hyid, htag, hsq, hres⟩ := hout
  generalize hu : estComplete y (statusOf y.out) s = u
  have hwork : KeepsWork s u := hu ▸ estComplete_keepsWork _ _ _
  generalize hv : modItem d (fun _ => { y with stage := .ended }) u = v
  have hitems : findItem d v = some { y with stage := .ended } := by
    rw [← hv, findItem_modItem d (fun _ => { y with stage := .ended }) u fun _ _ => hyid, findItem_items hwork.items, hx]
    rfl
  have hadm := admission_keepsWork x.inst (modCq x.inst x.cq (fun q => { q with due := q.due ++ [recOf y v] }) v)
  refine ⟨?_, x, { y with stage := .ended }, hx, (findItem_items hadm.items).trans hitems, rfl, hres, rfl, recOf y v, ?_,
    congrArg some hyid, htag, hsq, rfl, hres⟩
  · rw [hadm.evt, ← hwork.evt, ← hv]
    rfl
  · have hcq := hadm.cq x.inst
    have hdue : ((modCq x.inst x.cq (fun q => { q with due := q.due ++ [recOf y v] }) v).inst[x.inst.val].cq[x.cq.val]).due =
        ((v.inst[x.inst.val]).cq[x.cq.val]).due ++ [recOf y v] := by
      simp only [modCq, modInst, upd_same]
    rw [hcq, hdue]
    exact List.mem_append_right _ (List.mem_singleton.2 rfl)

/-- A completion counted from an earlier state. -/
theorem Completes.earlier {d : Nat} {st : BitVec 8} {r : Dword} {s u t : State} {x y : Item} (h : Completes d st r u t)
    (hs : findItem d s = some x) (hu : findItem d u = some y) (hi : y.inst = x.inst) (hc : y.cq = x.cq) (ht : y.tag = x.tag)
    (hq : y.sq = x.sq) : Completes d st r s t := by
  obtain ⟨y', z, h1, h2, h3, h4, h5, e, h6, h7, h8, h9, h10⟩ := h
  obtain rfl : y = y' := Option.some.inj (hu.symm.trans h1)
  refine ⟨x, z, hs, h2, h3, h4, h5, e, ?_, h7, h8.trans ht, h9.trans hq, h10⟩
  simpa only [hi, hc] using h6

/-- A descriptor that starts (R138): it runs from now on. -/
theorem startItem_starts (d : Nat) (s : State) (x : Item) (hx : findItem d s = some x) :
    findItem d (startItem d s) = some { x with stage := .running, startAt := s.eph.ticks, started := true } ∧
      (startItem d s).evt = s.evt ∧ ∀ i : InstId, (startItem d s).inst[i.val].evtMask = s.inst[i.val].evtMask := by
  unfold startItem
  simp only [hx]
  have hadm := admission_keepsWork x.inst (modItem d (fun x => { x with stage := .running, startAt := s.eph.ticks, started := true }) s)
  refine ⟨?_, hadm.evt, fun i => hadm.mask i⟩
  rw [findItem_items hadm.items, findItem_modItem d (fun x => { x with stage := .running, startAt := s.eph.ticks, started := true }) s
    fun _ h => h, hx]
  rfl

/-! ### The statuses of EVENTs and copies (R50, R92, R117) -/

theorem endsLate_event (x : Item) (o : Outcomes) (a : Rts) (h : x.opcode = 8) : endsLate x o a = false := by
  simp [endsLate, h]

end Sys2Proof.Machine
end

section
/-! PROOFS. EVENT actions on pins, held EVENTs and input timestamps (R49 to R51, R53, R64, R90). -/

namespace Sys2Proof.Machine

open Sys2Proof

/-! ### An EVENT ends (R49, R50, R89) -/

/-- An EVENT whose outcomes at its end are these, with LATE as its work says. -/
theorem endedItem_event (x : Item) (r : Dword) (f : Outcomes → Outcomes) (s : State) (h : x.opcode = 8) :
    (endedItem x r f s).out = f x.out := by
  show ({ f x.out with late := (f x.out).late || endsLate x (f x.out) (doneAt x s).rts } : Outcomes) = f x.out
  rw [endsLate_event x _ _ h, Bool.or_false]

/-- An EVENT whose action is performed. -/
theorem evtDone_completes (d : Nat) (r : Rts) (late : Bool) (s : State) (x : Item) (hx : findItem d s = some x)
    (hst : x.stage = .running) (hop : x.opcode = 8) (hr : x.resetHead = none) (ho : x.out = {} ∨ x.out = effect {}) :
    (evtDone d r late s).evt = s.evt ∧ Completes d (if late then 0x01 else 0x00) r s (evtDone d r late s) := by
  have hnote : findItem d (noteEffect d s) = some { x with out := effect x.out, last := some (stampNow s) } := by
    unfold noteEffect
    rw [findItem_modItem d (fun x => { x with out := effect x.out, last := some (stampNow s) }) s fun _ h => h, hx]
    rfl
  obtain ⟨hevt, hc⟩ := endItem_completes d r (fun o => { o with late := o.late || late }) _ _ hnote
    (by rw [hst]; decide) hr
  rw [endedItem_event { x with out := effect x.out, last := some (stampNow s) } _ _ _ hop] at hc
  have hstatus : statusOf { effect x.out with late := (effect x.out).late || late } = if late then 0x01 else 0x00 := by
    rcases ho with h | h <;> rw [h] <;> cases late <;> rfl
  rw [hstatus] at hc
  exact ⟨hevt, hc.earlier hx hnote rfl rfl rfl rfl⟩

/-- An EVENT that is shed. -/
theorem evtShed_completes (d : Nat) (s : State) (x : Item) (hx : findItem d s = some x) (hst : x.stage = .running)
    (hop : x.opcode = 8) (hr : x.resetHead = none) (ho : x.out = {}) :
    (evtShed d s).evt = s.evt ∧ Completes d 0x08 0 s (evtShed d s) := by
  obtain ⟨hevt, hc⟩ := endItem_completes d 0 (fun o => { o with shed := true }) s x hx (by rw [hst]; decide) hr
  rw [endedItem_event x _ _ _ hop, ho] at hc
  exact ⟨hevt, hc⟩

/-- What completes in a state with the same descriptors completes here. -/
theorem Completes.same {d : Nat} {st : BitVec 8} {r : Dword} {s u t : State} (h : Completes d st r u t) (hi : u.items = s.items) :
    Completes d st r s t := by
  obtain ⟨x, y, hx, hrest⟩ := h
  exact ⟨x, y, (findItem_items hi).symm.trans hx, hrest⟩

/-- Two changes of an entry that agree on it. -/
theorem upd_congr {α : Type} {n : Nat} {v : Vector α n} {i : Fin n} {f g : α → α} (h : f v[i.val] = g v[i.val]) :
    upd v i f = upd v i g := by
  simp only [upd, h]

/-! ### The head of a pin's queue (R49, R50) -/

/-- The pin acts: enabled, with Ephemeris at its min_state or above. -/
def EvtPin.acts (p : EvtPin) (st : EphState) : Prop := p.enable = true ∧ ephAtLeast p.minState st = true

/-- A pin whose queue has lost its head. -/
def popped (pin : Fin 8) (rest : List EvtAction) (s : State) : State := modPin pin (fun p => { p with queue := rest }) s

theorem rts_late_iff (a now : Rts) (h : a.toNat ≤ now.toNat) : decide (a.toNat < now.toNat) = decide (a ≠ now) := by
  rw [decide_eq_decide]
  refine ⟨fun hlt e => ?_, fun hne => Nat.lt_of_le_of_ne h fun e => hne (BitVec.eq_of_toNat_eq e)⟩
  rw [e] at hlt
  exact Nat.lt_irrefl _ hlt

/-- An action that the pin does not perform is shed. -/
theorem evtAction_shed (s : State) (pin : Fin 8) (a : EvtAction) (rest : List EvtAction) (hlive : live s = true)
    (hq : s.evt[pin.val].queue = a :: rest) (hk : a.kind ≠ .fall) (hdue : a.rts.toNat ≤ s.eph.now.toNat)
    (h : ¬ (s.evt[pin.val]).acts s.eph.st ∨ (a.rts ≠ s.eph.now ∧ (s.evt[pin.val]).latePolicy = true)) :
    exec (.evtAction pin) s = .next (evtShed a.item (popped pin rest s)) := by
  have harm : exec (.evtAction pin) s = execEvtAction pin s := rfl
  have hcond : (live s && a.kind != .fall && a.rts.toNat ≤ s.eph.now.toNat) = true := by
    simp [hlive, hk, hdue]
  have hshed : (!s.evt[pin.val].enable || !ephAtLeast s.evt[pin.val].minState s.eph.st ||
      (decide (a.rts.toNat < s.eph.now.toNat) && s.evt[pin.val].latePolicy)) = true := by
    rw [rts_late_iff _ _ hdue]
    rcases h with h | ⟨h1, h2⟩
    · unfold EvtPin.acts at h
      cases he : s.evt[pin.val].enable <;> cases hm : ephAtLeast s.evt[pin.val].minState s.eph.st <;> simp_all
    · simp [h1, h2]
  rw [harm]
  unfold execEvtAction
  simp only [hq, hcond, act, if_true]
  have heph : (modPin pin (fun p => { p with queue := rest }) s).eph = s.eph := rfl
  rw [heph, hshed, if_pos rfl]
  rfl

/-- The falling edge of a pulse that is performed now (R49). -/
def EvtAction.fallOf (a : EvtAction) (w : BitVec 16) (now : Rts) : EvtAction :=
  { a with rts := rtsAdd a.rts w.toNat, kind := .fall, rose := now, late := decide (a.rts ≠ now) }

theorem EvtAction.fallOf_fields (a : EvtAction) (w : BitVec 16) (now : Rts) : (a.fallOf w now).kind = .fall ∧
    (a.fallOf w now).item = a.item ∧ (a.fallOf w now).rts = rtsAdd a.rts w.toNat ∧ (a.fallOf w now).rose = now := by
  unfold EvtAction.fallOf
  generalize rtsAdd a.rts w.toNat = r
  exact ⟨rfl, rfl, rfl, rfl⟩

theorem noteEffect_evt (d : Nat) (s : State) : (noteEffect d s).evt = s.evt := rfl

/-- An action that the pin performs drives it, and its EVENT ends; a pulse's falling edge is still to come. -/
theorem evtAction_performed (s : State) (pin : Fin 8) (a : EvtAction) (rest : List EvtAction) (hlive : live s = true)
    (hq : s.evt[pin.val].queue = a :: rest) (hdue : a.rts.toNat ≤ s.eph.now.toNat)
    (hacts : (s.evt[pin.val]).acts s.eph.st) (hlate : a.rts = s.eph.now ∨ (s.evt[pin.val]).latePolicy = false) :
    (∀ lvl, (a.kind = .high ∧ lvl = true) ∨ (a.kind = .low ∧ lvl = false) ∨ (a.kind = .toggle ∧ lvl = !(s.evt[pin.val]).level) →
      exec (.evtAction pin) s =
        .next (evtDone a.item s.eph.now (decide (a.rts ≠ s.eph.now)) (evtDrive pin lvl (popped pin rest s)))) ∧
    ∀ w, a.kind = .pulse w → exec (.evtAction pin) s = .next (noteEffect a.item
      (modPin pin (fun p => { p with queue := evtInsert (a.fallOf w s.eph.now) p.queue }) (evtDrive pin true (popped pin rest s)))) := by
  have harm : exec (.evtAction pin) s = execEvtAction pin s := rfl
  obtain ⟨hen, hmin⟩ := hacts
  have hshed : (!s.evt[pin.val].enable || !ephAtLeast s.evt[pin.val].minState s.eph.st ||
      (decide (a.rts ≠ s.eph.now) && s.evt[pin.val].latePolicy)) = false := by
    rw [hen, hmin]
    rcases hlate with h | h <;> simp [h]
  have heph : (modPin pin (fun p => { p with queue := rest }) s).eph = s.eph := rfl
  have hcond : ∀ k : EvtKind, k ≠ .fall → (live s && k != EvtKind.fall && decide (a.rts.toNat ≤ s.eph.now.toNat)) = true := by
    intro k hk
    simp [hlive, hk, hdue]
  have hopen : ∀ k, a.kind = k → k ≠ .fall → exec (.evtAction pin) s = act true (fun s => match k with
        | .high => evtDone a.item s.eph.now (decide (a.rts ≠ s.eph.now)) (evtDrive pin true (popped pin rest s))
        | .low => evtDone a.item s.eph.now (decide (a.rts ≠ s.eph.now)) (evtDrive pin false (popped pin rest s))
        | .toggle => evtDone a.item s.eph.now (decide (a.rts ≠ s.eph.now)) (evtDrive pin (!(s.evt[pin.val]).level) (popped pin rest s))
        | .pulse w => noteEffect a.item
          (modPin pin (fun p => { p with queue := evtInsert (a.fallOf w s.eph.now) p.queue }) (evtDrive pin true (popped pin rest s)))
        | .fall => popped pin rest s) s := by
    intro k hk hne
    rw [harm]
    unfold execEvtAction
    simp only [hq, hk, hcond k hne, act, if_true, rts_late_iff _ _ hdue, heph, hshed, Bool.false_eq_true, if_false]
    cases k <;> rfl
  refine ⟨fun lvl h => ?_, fun w h => hopen _ h (by simp)⟩
  rcases h with ⟨h, rfl⟩ | ⟨h, rfl⟩ | ⟨h, rfl⟩
  · exact hopen _ h (by simp)
  · exact hopen _ h (by simp)
  · exact hopen _ h (by simp)

/-- The falling edge of a pulse is performed whatever its pin holds. -/
theorem evtPulseFall_performed (s : State) (pin : Fin 8) (a : EvtAction) (rest : List EvtAction) (hlive : live s = true)
    (hq : s.evt[pin.val].queue = a :: rest) (hk : a.kind = .fall) (hdue : a.rts.toNat ≤ s.eph.now.toNat) :
    exec (.evtPulseFall pin) s =
      .next (evtDone a.item a.rose (a.late || decide (a.rts ≠ s.eph.now)) (evtDrive pin false (popped pin rest s))) := by
  have harm : exec (.evtPulseFall pin) s = execEvtPulseFall pin s := rfl
  have hcond : (live s && a.kind == .fall && decide (a.rts.toNat ≤ s.eph.now.toNat)) = true := by simp [hlive, hk, hdue]
  rw [harm]
  unfold execEvtPulseFall
  simp only [hq, hcond, act, if_true, rts_late_iff _ _ hdue]
  rfl

theorem popped_evt (pin : Fin 8) (rest : List EvtAction) (s : State) :
    (popped pin rest s).evt = upd s.evt pin fun p => { p with queue := rest } := rfl

theorem driven_evt (pin : Fin 8) (lvl : Bool) (rest : List EvtAction) (s : State) :
    (evtDrive pin lvl (popped pin rest s)).evt = upd s.evt pin fun p => { p with queue := rest, level := lvl } := by
  unfold evtDrive popped
  rw [emit_evt, modPin_evt, modPin_evt, upd_upd]

theorem popped_items (pin : Fin 8) (rest : List EvtAction) (s : State) : (popped pin rest s).items = s.items := rfl

theorem driven_items (pin : Fin 8) (lvl : Bool) (rest : List EvtAction) (s : State) :
    (evtDrive pin lvl (popped pin rest s)).items = s.items := rfl

theorem mem_insertBy {α : Type} (before : α → α → Bool) (x : α) (l : List α) : x ∈ insertBy before x l := by
  induction l with
  | nil => exact List.mem_singleton.2 rfl
  | cons y t ih =>
    unfold insertBy
    split
    · exact List.mem_cons_self
    · exact List.mem_cons_of_mem _ ih

/-- The head of a pin's queue drives its pin, and its EVENT ends (R49, R50). -/
theorem evtAction_drives (s : State) (pin : Fin 8) (a : EvtAction) (rest : List EvtAction) (x : Item) (hlive : live s = true)
    (hq : s.evt[pin.val].queue = a :: rest) (hx : findItem a.item s = some x) (hst : x.stage = .running) (hop : x.opcode = 8)
    (hr : x.resetHead = none) (ho : x.out = {} ∨ x.out = effect {}) (hdue : a.rts.toNat ≤ s.eph.now.toNat) (lvl : Bool)
    (hacts : (s.evt[pin.val]).acts s.eph.st) (hlate : a.rts = s.eph.now ∨ (s.evt[pin.val]).latePolicy = false)
    (hk : (a.kind = .high ∧ lvl = true) ∨ (a.kind = .low ∧ lvl = false) ∨ (a.kind = .toggle ∧ lvl = !(s.evt[pin.val]).level)) :
    ∃ t, exec (.evtAction pin) s = .next t ∧ t.evt = upd s.evt pin (fun p => { p with queue := rest, level := lvl }) ∧
      Completes a.item (if a.rts = s.eph.now then 0x00 else 0x01) s.eph.now s t := by
  have hexec := (evtAction_performed s pin a rest hlive hq hdue hacts hlate).1 lvl hk
  have hevt := driven_evt pin lvl rest s
  have hitems := driven_items pin lvl rest s
  generalize evtDrive pin lvl (popped pin rest s) = u at hexec hevt hitems
  obtain ⟨hevt', hc⟩ := evtDone_completes a.item s.eph.now (decide (a.rts ≠ s.eph.now)) u x ((findItem_items hitems).trans hx)
    hst hop hr ho
  refine ⟨_, hexec, hevt'.trans hevt, ?_⟩
  have hstatus : (if decide (a.rts ≠ s.eph.now) then (0x01 : BitVec 8) else 0x00) = if a.rts = s.eph.now then 0x00 else 0x01 := by
    by_cases h : a.rts = s.eph.now <;> simp [h]
  rw [hstatus] at hc
  exact hc.same hitems

/-- A pulse begins: its falling edge joins the queue. -/
theorem evtAction_pulses (s : State) (pin : Fin 8) (a : EvtAction) (rest : List EvtAction) (hlive : live s = true)
    (hq : s.evt[pin.val].queue = a :: rest) (hdue : a.rts.toNat ≤ s.eph.now.toNat) (w : BitVec 16)
    (hacts : (s.evt[pin.val]).acts s.eph.st) (hlate : a.rts = s.eph.now ∨ (s.evt[pin.val]).latePolicy = false)
    (hk : a.kind = .pulse w) : ∃ t f, exec (.evtAction pin) s = .next t ∧ (t.evt[pin.val]).level = true ∧
      f ∈ (t.evt[pin.val]).queue ∧ f.kind = .fall ∧ f.item = a.item ∧ f.rts = rtsAdd a.rts w.toNat ∧ f.rose = s.eph.now := by
  have hexec := (evtAction_performed s pin a rest hlive hq hdue hacts hlate).2 w hk
  have hevt := driven_evt pin true rest s
  generalize evtDrive pin true (popped pin rest s) = u at hexec hevt
  have hpin : ∀ v : State, v.evt = upd u.evt pin (fun p => { p with queue := evtInsert (a.fallOf w s.eph.now) p.queue }) →
      (v.evt[pin.val]).level = true ∧ a.fallOf w s.eph.now ∈ (v.evt[pin.val]).queue := by
    intro v hv
    simp only [hv, hevt, upd_same]
    exact ⟨trivial, mem_insertBy _ _ _⟩
  obtain ⟨hkind, hitem, hrts, hrose⟩ := a.fallOf_fields w s.eph.now
  generalize a.fallOf w s.eph.now = f at hexec hpin hkind hitem hrts hrose
  obtain ⟨hlevel, hmem⟩ := hpin _ ((noteEffect_evt a.item _).trans (modPin_evt pin (fun p => { p with queue := evtInsert f p.queue }) u))
  exact ⟨_, f, hexec, hlevel, hmem, hkind, hitem, hrts, hrose⟩

/-- The head of a pin's queue that its pin does not perform (R50). -/
theorem evtAction_sheds (s : State) (pin : Fin 8) (a : EvtAction) (rest : List EvtAction) (x : Item) (hlive : live s = true)
    (hq : s.evt[pin.val].queue = a :: rest) (hx : findItem a.item s = some x) (hst : x.stage = .running) (hop : x.opcode = 8)
    (hr : x.resetHead = none) (ho : x.out = {}) (hdue : a.rts.toNat ≤ s.eph.now.toNat) (hk : a.kind ≠ .fall)
    (hshed : ¬ (s.evt[pin.val]).acts s.eph.st ∨ (a.rts ≠ s.eph.now ∧ (s.evt[pin.val]).latePolicy = true)) :
    ∃ t, exec (.evtAction pin) s = .next t ∧ t.evt = upd s.evt pin (fun p => { p with queue := rest }) ∧
      Completes a.item 0x08 0 s t := by
  have hexec := evtAction_shed s pin a rest hlive hq hk hdue hshed
  have hevt := popped_evt pin rest s
  have hitems := popped_items pin rest s
  generalize popped pin rest s = u at hexec hevt hitems
  obtain ⟨hevt', hc⟩ := evtShed_completes a.item u x ((findItem_items hitems).trans hx) hst hop hr ho
  exact ⟨_, hexec, hevt'.trans hevt, hc.same hitems⟩

/-- The falling edge of a pulse ends its EVENT (R49). -/
theorem evtPulseFall_falls (s : State) (pin : Fin 8) (a : EvtAction) (rest : List EvtAction) (x : Item) (hlive : live s = true)
    (hq : s.evt[pin.val].queue = a :: rest) (hx : findItem a.item s = some x) (hst : x.stage = .running) (hop : x.opcode = 8)
    (hr : x.resetHead = none) (ho : x.out = {} ∨ x.out = effect {}) (hdue : a.rts.toNat ≤ s.eph.now.toNat) (hk : a.kind = .fall) :
    ∃ t, exec (.evtPulseFall pin) s = .next t ∧ t.evt = upd s.evt pin (fun p => { p with queue := rest, level := false }) ∧
      Completes a.item (if a.late = true ∨ a.rts ≠ s.eph.now then 0x01 else 0x00) a.rose s t := by
  have hexec := evtPulseFall_performed s pin a rest hlive hq hk hdue
  have hevt := driven_evt pin false rest s
  have hitems := driven_items pin false rest s
  generalize evtDrive pin false (popped pin rest s) = u at hexec hevt hitems
  obtain ⟨hevt', hc⟩ := evtDone_completes a.item a.rose (a.late || decide (a.rts ≠ s.eph.now)) u x
    ((findItem_items hitems).trans hx) hst hop hr ho
  refine ⟨_, hexec, hevt'.trans hevt, ?_⟩
  have hstatus : (if (a.late || decide (a.rts ≠ s.eph.now)) = true then (0x01 : BitVec 8) else 0x00) =
      if a.late = true ∨ a.rts ≠ s.eph.now then 0x01 else 0x00 := by
    simp only [Bool.or_eq_true, decide_eq_true_eq]
  rw [hstatus] at hc
  exact hc.same hitems

/-! ### Held EVENTs (R51) -/

/-- An EVENT starts: its action enters the pin's queue, or the EVENT ends without its grant (R51, R117). -/
theorem eventStart_starts (d : Nat) (a : EvtAction) (pin : Fin 8) (s : State) (x : Item) (hx : findItem d s = some x) :
    (bit s.inst[a.inst.val].evtMask pin.val = true →
      (eventStart d a pin s).evt = upd s.evt pin (fun p => { p with queue := evtInsert a p.queue }) ∧
      findItem d (eventStart d a pin s) = some { x with stage := .running, startAt := s.eph.ticks, started := true }) ∧
    (bit s.inst[a.inst.val].evtMask pin.val = false → x.out = {} → x.opcode = 8 → x.resetHead = none →
      (eventStart d a pin s).evt = s.evt ∧ Completes d 0x10 x.result s (eventStart d a pin s)) := by
  obtain ⟨hstart, hevt, hmask⟩ := startItem_starts d s x hx
  unfold eventStart
  simp only [hmask a.inst]
  refine ⟨fun hb => ?_, fun hb ho hop hr => ?_⟩
  · rw [hb, if_pos rfl]
    refine ⟨?_, hstart⟩
    rw [modPin_evt, hevt]
  · rw [hb, if_neg (by simp)]
    generalize startItem d s = u at hstart hevt
    unfold endInvalid endEarly
    simp only [hstart]
    obtain ⟨hevt', hc⟩ := endItem_completes d x.result (fun o => { o with invalid := true }) u _ hstart (by simp) hr
    rw [endedItem_event { x with stage := .running, startAt := s.eph.ticks, started := true } _ _ _ hop] at hc
    simp only [ho] at hc
    exact ⟨hevt'.trans hevt, hc.earlier hx hstart rfl rfl rfl rfl⟩

/-- The EVENT held longest starts. -/
theorem evtEnqueue_starts (s : State) (pin : Fin 8) (a : EvtAction) (rest : List EvtAction) (hlive : live s = true)
    (hh : s.evt[pin.val].held = a :: rest) (hroom : s.evt[pin.val].queue.length < 16) :
    exec (.evtEnqueue pin) s = .next (eventStart a.item a pin (modPin pin (fun p => { p with held := rest }) s)) := by
  have harm : exec (.evtEnqueue pin) s = execEvtEnqueue pin s := rfl
  rw [harm]
  unfold execEvtEnqueue
  simp only [hh, hlive, decide_eq_true hroom, Bool.and_true, act_true]

/-- The pin that holds an EVENT whose time has passed. -/
theorem find_heldOverdue (s : State) (pin : Fin 8) (a : EvtAction) (ha : a ∈ s.evt[pin.val].held) (hj : a.judged = false)
    (hdue : a.rts.toNat < s.eph.now.toNat) (hother : ∀ k : Fin 8, k ≠ pin → ∀ b ∈ s.evt[k.val].held, b.item ≠ a.item) :
    (List.finRange 8).find? (heldOverdue a.item s) = some pin := by
  have hpin : heldOverdue a.item s pin = true := by
    unfold heldOverdue
    rw [List.any_eq_true]
    exact ⟨a, ha, by simp [hj, hdue]⟩
  cases hf : (List.finRange 8).find? (heldOverdue a.item s) with
  | none => exact absurd hpin (List.find?_eq_none.1 hf pin (List.mem_finRange pin))
  | some k =>
    by_cases e : k = pin
    · rw [e]
    · have hk := List.find?_some hf
      unfold heldOverdue at hk
      rw [List.any_eq_true] at hk
      obtain ⟨b, hb, hbk⟩ := hk
      simp only [Bool.and_eq_true, decide_eq_true_eq] at hbk
      exact absurd hbk.1.1 (hother k e b hb)

/-- A held EVENT whose time passes is judged (R51). -/
theorem heldExpiry (s : State) (pin : Fin 8) (a : EvtAction) (x : Item) (hlive : live s = true) (ha : a ∈ s.evt[pin.val].held)
    (hj : a.judged = false) (hdue : a.rts.toNat < s.eph.now.toNat)
    (hother : ∀ k : Fin 8, k ≠ pin → ∀ b ∈ s.evt[k.val].held, b.item ≠ a.item) (hx : findItem a.item s = some x)
    (hst : x.stage = .running) (ho : x.out = {}) (hop : x.opcode = 8) (hr : x.resetHead = none) :
    ((s.evt[pin.val]).latePolicy = true ∨ ¬ (s.evt[pin.val]).acts s.eph.st → ∃ t, exec (.evtHeldExpiry a.item) s = .next t ∧
      (t.evt[pin.val]).held = (s.evt[pin.val]).held.filter (fun b => b.item ≠ a.item) ∧ Completes a.item 0x08 0 s t) ∧
    ((s.evt[pin.val]).latePolicy = false → (s.evt[pin.val]).acts s.eph.st → exec (.evtHeldExpiry a.item) s = .next (modPin pin
      (fun p => { p with held := p.held.map (fun b => if b.item = a.item then { b with judged := true } else b) }) s)) := by
  have harm : exec (.evtHeldExpiry a.item) s = execEvtHeldExpiry a.item s := rfl
  have hfind := find_heldOverdue s pin a ha hj hdue hother
  rw [harm]
  unfold execEvtHeldExpiry
  simp only [hfind, hlive, act_true]
  refine ⟨fun h => ?_, fun hp hacts => ?_⟩
  · have hshed : (s.evt[pin.val].latePolicy || !s.evt[pin.val].enable || !ephAtLeast s.evt[pin.val].minState s.eph.st) = true := by
      rcases h with h | h
      · simp [h]
      · unfold EvtPin.acts at h
        cases he : s.evt[pin.val].enable <;> cases hm : ephAtLeast s.evt[pin.val].minState s.eph.st <;> simp_all
    rw [hshed, if_pos rfl]
    generalize hu : modPin pin (fun p => { p with held := p.held.filter fun b => b.item ≠ a.item }) s = u
    have hevt : u.evt = upd s.evt pin fun p => { p with held := p.held.filter fun b => b.item ≠ a.item } := by rw [← hu]; rfl
    have hitems : u.items = s.items := by rw [← hu]; rfl
    obtain ⟨hevt', hc⟩ := evtShed_completes a.item u x ((findItem_items hitems).trans hx) hst hop hr ho
    refine ⟨_, rfl, ?_, hc.same hitems⟩
    simp only [hevt', hevt, upd_same]
  · obtain ⟨hen, hmin⟩ := hacts
    rw [hp, hen, hmin]
    rfl

/-! ### Input timestamps (R53, R64) -/

/-- An edge of EVTIN with room for its time. -/
theorem evtinEdge_room (s : State) (n : Fin 4) (rising : Bool) (hlive : live s = true)
    (hb : bit s.evtin[n.val].edge (if rising then 0 else 1) = true) (h : s.evtin[n.val].fifo.length < 8) :
    ∃ t, exec (.evtinEdge n rising) s = .next t ∧ t.evtin = upd s.evtin n fun e => { e with fifo := e.fifo ++ [s.eph.now] } := by
  have harm : exec (.evtinEdge n rising) s = execEvtinEdge n rising s := rfl
  refine ⟨_, by rw [harm, execEvtinEdge, hlive, hb, Bool.and_true, act_true, if_pos h], ?_⟩
  dsimp only
  split
  · unfold pfIrq
    rw [msix_frame]
  · rfl

theorem evtinEdge_full (s : State) (n : Fin 4) (rising : Bool) (hlive : live s = true)
    (hb : bit s.evtin[n.val].edge (if rising then 0 else 1) = true) (h : 8 ≤ s.evtin[n.val].fifo.length) :
    exec (.evtinEdge n rising) s = .next { s with evtin := upd s.evtin n fun e => { e with overflow := true } } := by
  have harm : exec (.evtinEdge n rising) s = execEvtinEdge n rising s := rfl
  rw [harm, execEvtinEdge, hlive, hb, Bool.and_true, act_true, if_neg (Nat.not_lt.2 h)]

/-- A read of the low word takes the oldest timestamp. -/
theorem evtinTsRead_takes (s : State) (n : Fin 4) (ts : Rts) (more : List Rts) (hlive : live s = true)
    (h : s.evtin[n.val].fifo = ts :: more) :
    ∃ t, exec (.evtinTsRead n) s = .next t ∧ t.evtin = upd s.evtin n fun e => { e with fifo := more } := by
  have harm : exec (.evtinTsRead n) s = act (live s) (regPairRead (.evtinTs n)) s := rfl
  refine ⟨_, by rw [harm, hlive, act_true], ?_⟩
  show upd s.evtin n (fun e => { e with fifo := e.fifo.tail }) = _
  exact upd_congr (by rw [h]; rfl)

/-- Settles O43: the head of a pin's queue, held EVENTs, and the FIFO of EVTIN. -/
theorem timedPins : Obligations.TimedPins := by
  unfold Obligations.TimedPins
  intro s pin a rest x hlive p open_
  refine ⟨fun hq hx hst hop hr ho hdue => ?_, fun hh hroom hx => ?_,
    fun ha hj hdue hother hx hst ho hop hr => heldExpiry s pin a x hlive ha hj hdue hother hx hst ho hop hr,
    fun n rising hb => ⟨evtinEdge_room s n rising hlive hb, evtinEdge_full s n rising hlive hb⟩,
    fun n ts more h => evtinTsRead_takes s n ts more hlive h⟩
  · have hout : x.out = {} ∨ x.out = effect {} := by
      rw [ho]
      split
      · exact .inr rfl
      · exact .inl rfl
    exact ⟨evtAction_drives s pin a rest x hlive hq hx hst hop hr hout hdue, evtAction_pulses s pin a rest hlive hq hdue,
      fun hk hshed => evtAction_sheds s pin a rest x hlive hq hx hst hop hr (by rw [ho, if_neg hk]) hdue hk hshed,
      evtPulseFall_falls s pin a rest x hlive hq hx hst hop hr hout hdue⟩
  · have hexec := evtEnqueue_starts s pin a rest hlive hh hroom
    have hevt := modPin_evt pin (fun p : EvtPin => { p with held := rest }) s
    have hitems := modPin_items pin (fun p : EvtPin => { p with held := rest }) s
    have heph := modPin_eph pin (fun p : EvtPin => { p with held := rest }) s
    have hinst := modPin_inst pin (fun p : EvtPin => { p with held := rest }) s
    generalize modPin pin (fun p : EvtPin => { p with held := rest }) s = u at hexec hevt hitems heph hinst
    obtain ⟨hgo, hno⟩ := eventStart_starts a.item a pin u x ((findItem_items hitems).trans hx)
    rw [hinst] at hgo hno
    refine ⟨fun hb => ?_, fun hb ho hop hr => ?_⟩
    · obtain ⟨hevt', hitem⟩ := hgo hb
      rw [heph] at hitem
      refine ⟨_, hexec, hevt'.trans ?_, hitem⟩
      rw [hevt, upd_upd]
    · obtain ⟨hevt', hc⟩ := hno hb ho hop hr
      exact ⟨_, hexec, hevt'.trans hevt, hc.same hitems⟩

end Sys2Proof.Machine
end

section
/-! PROOFS. Accesses to memory do not look at descriptors, dispatch or rings: they commute with a change of these
(R121 to R126, R387 to R391, R533, R544). -/

namespace Sys2Proof.Machine

open Sys2Proof

/-- Other descriptors, instances and dispatch. -/
structure Work where
  items : List Item
  inst : Vector Inst 64
  disp : Vector Dispatcher 4

/-- The block with this work. -/
def State.rework (s : State) (w : Work) : State := { s with items := w.items, inst := w.inst, disp := w.disp }

section
variable (w : Work)

@[simp] theorem rework_mem (s : State) : (s.rework w).mem = s.mem := rfl
@[simp] theorem rework_mtu (s : State) : (s.rework w).mtu = s.mtu := rfl
@[simp] theorem rework_nuc (s : State) : (s.rework w).nuc = s.nuc := rfl
@[simp] theorem rework_bfm (s : State) : (s.rework w).bfm = s.bfm := rfl

theorem foldl_rework {α : Type} (f : State → α → State) (hf : ∀ s x, f (s.rework w) x = (f s x).rework w) (l : List α) (s : State) :
    l.foldl f (s.rework w) = (l.foldl f s).rework w := by
  induction l generalizing s with
  | nil => rfl
  | cons x t ih => rw [List.foldl_cons, hf, ih, List.foldl_cons]

/-! ### Translation (R121 to R125) -/

/-- A corrected line counted where it lies (R387). -/
def countFixed (r : Region) (s : State) : State :=
  match r with
  | .lp5x c => { s with mem := { s.mem with ce := upd s.mem.ce c satInc } }
  | .pool d => modDie d (fun x => { x with sramCe := satInc x.sramCe }) s
  | _ => s

/-- A memory whose line a holds no error to be found. -/
def State.unlatched (s : State) (a : Nat) : State :=
  { s with mem := { s.mem with latent := s.mem.latent.filter fun e => e.1 ≠ a / 64 } }

theorem fixLine_eq (a : Nat) (s : State) : fixLine a s =
    if s.mem.latent.any fun e => e.1 = a / 64 && !e.2 then countFixed (regionOf s a) (s.unlatched a) else s := rfl

@[simp] theorem fixLine_rework (a : Nat) (s : State) : fixLine a (s.rework w) = (fixLine a s).rework w := by
  have hreg : regionOf (s.rework w) a = regionOf s a := rfl
  have hcount : ∀ r (u : State), countFixed r (u.rework w) = (countFixed r u).rework w := by
    intro r u
    cases r <;> rfl
  rw [fixLine_eq, fixLine_eq, hreg, rework_mem]
  split
  · exact hcount _ (s.unlatched a)
  · rfl

@[simp] theorem walk_rework (m : Mtu) (s : State) (iva : Nat) : walk m (s.rework w) iva = walk m s iva := rfl
@[simp] theorem tableEntries_rework (m : Mtu) (s : State) (iva : Nat) : tableEntries m (s.rework w) iva = tableEntries m s iva := rfl
@[simp] theorem regionOf_rework (s : State) (a : Nat) : regionOf (s.rework w) a = regionOf s a := rfl
@[simp] theorem takeFree_rework (n : Nat) (s : State) : takeFree n (s.rework w) = ((takeFree n s).1, (takeFree n s).2.rework w) := rfl
@[simp] theorem keepLeaf_rework (i : InstId) (p : Nat) (e : Dword) (s : State) :
    keepLeaf i p e (s.rework w) = (keepLeaf i p e s).rework w := rfl

/-- A leaf looked up where none of its page is kept (R125). -/
def leafFresh (i : InstId) (page : Nat) (new : Except (BitVec 3) Dword) (s : State) : Except (BitVec 3) Dword × State :=
  match new with
  | .error k => (.error k, s)
  | .ok e => (.ok e, keepLeaf i page e s)

/-- The leaf that a walk has found kept too. -/
def keepFound (i : InstId) (page : Nat) (new : Except (BitVec 3) Dword) (s : State) : State :=
  match new with
  | .ok e => keepLeaf i page e s
  | .error _ => s

/-- The walk finds the one leaf of the page that is kept. -/
def foundSame (old : Dword) (olds : List Dword) (new : Except (BitVec 3) Dword) : Bool :=
  match new with
  | .ok e => e = old && olds.isEmpty
  | .error _ => false

/-- A leaf looked up where some of its page are kept: one of them, or the one that the walk finds (R125). -/
def leafKept (i : InstId) (page : Nat) (old : Dword) (olds : List Dword) (new : Except (BitVec 3) Dword) (s : State) :
    Except (BitVec 3) Dword × State :=
  if foundSame old olds new then (new, s)
  else
    let u := keepFound i page new (takeFree 1 s).2
    if (takeFree 1 s).1 = 1#1 then
      (.ok ((old :: olds).getD ((takeFree 32 u).1.toNat % (olds.length + 1)) old), (takeFree 32 u).2)
    else (new, u)

/-- The block once the table entries of an address have been read (R387). -/
def entriesRead (i : InstId) (iva : Nat) (s : State) : State :=
  (tableEntries s.mtu[i.val] s iva).foldl (fun s a => fixLine a s) s

theorem leafFor_fresh (i : InstId) (iva : Nat) (s : State) (h : cachedLeaves s.mtu[i.val] (iva / 2 ^ 21) = []) :
    leafFor i iva s =
      leafFresh i (iva / 2 ^ 21) (walk (entriesRead i iva s).mtu[i.val] (entriesRead i iva s) iva) (entriesRead i iva s) := by
  unfold leafFor
  dsimp only
  rw [h]
  rfl

theorem leafFor_kept (i : InstId) (iva : Nat) (s : State) (old : Dword) (olds : List Dword)
    (h : cachedLeaves s.mtu[i.val] (iva / 2 ^ 21) = old :: olds) :
    leafFor i iva s = leafKept i (iva / 2 ^ 21) old olds (walk s.mtu[i.val] s iva) s := by
  unfold leafFor
  dsimp only
  rw [h]
  rfl

theorem leafFresh_rework (i : InstId) (p : Nat) (new : Except (BitVec 3) Dword) (s : State) :
    leafFresh i p new (s.rework w) = ((leafFresh i p new s).1, (leafFresh i p new s).2.rework w) := by
  cases new <;> rfl

theorem leafKept_rework (i : InstId) (p : Nat) (old : Dword) (olds : List Dword) (new : Except (BitVec 3) Dword) (s : State) :
    leafKept i p old olds new (s.rework w) = ((leafKept i p old olds new s).1, (leafKept i p old olds new s).2.rework w) := by
  have hkeep : ∀ u : State, keepFound i p new (u.rework w) = (keepFound i p new u).rework w := by
    intro u
    cases new <;> rfl
  unfold leafKept
  rw [takeFree_rework, hkeep]
  split
  · rfl
  · dsimp only
    split <;> rfl

@[simp] theorem entriesRead_rework (i : InstId) (iva : Nat) (s : State) :
    entriesRead i iva (s.rework w) = (entriesRead i iva s).rework w :=
  foldl_rework w _ (fun s a => fixLine_rework w a s) _ s

@[simp] theorem leafFor_rework (i : InstId) (iva : Nat) (s : State) :
    leafFor i iva (s.rework w) = ((leafFor i iva s).1, (leafFor i iva s).2.rework w) := by
  cases h : cachedLeaves s.mtu[i.val] (iva / 2 ^ 21) with
  | nil =>
    rw [leafFor_fresh i iva s h, leafFor_fresh i iva (s.rework w) h, entriesRead_rework, walk_rework, rework_mtu]
    exact leafFresh_rework w i _ _ _
  | cons old olds =>
    rw [leafFor_kept i iva s old olds h, leafFor_kept i iva (s.rework w) old olds h, walk_rework, rework_mtu]
    exact leafKept_rework w i _ old olds _ s

@[simp] theorem translate_rework (i : InstId) (acc : Access) (iva : Nat) (s : State) :
    translate i acc iva (s.rework w) = ((translate i acc iva s).1, (translate i acc iva s).2.rework w) := by
  unfold translate
  rw [leafFor_rework, rework_mtu]
  split
  · rfl
  · split
    · rfl
    · rcases leafFor i iva s with ⟨k | e, u⟩
      · rfl
      · dsimp only
        split
        · cases leafTarget e iva with
          | host a => rfl
          | dpa a =>
            dsimp only
            rw [regionOf_rework]
            split <;> rfl
        · rfl

/-! ### The error log (R533, R534, R544) -/

@[simp] theorem poisonFound_rework (ls : List Nat) (s : State) : poisonFound ls (s.rework w) = (poisonFound ls s).rework w :=
  foldl_rework w _ (fun _ _ => rfl) ls s

@[simp] theorem badLines_rework (as : List Nat) (s : State) : badLines as (s.rework w) = badLines as s := rfl
@[simp] theorem putDpa_rework (a : Nat) (d : List Byte) (s : State) : putDpa a d (s.rework w) = (putDpa a d s).rework w := rfl
@[simp] theorem putHost_rework (a : Nat) (d : List Byte) (p : Bool) (s : State) :
    putHost a d p (s.rework w) = (putHost a d p s).rework w := rfl
@[simp] theorem modLog_rework (i : InstId) (f : LogRing → LogRing) (s : State) : modLog i f (s.rework w) = (modLog i f s).rework w := rfl
@[simp] theorem recordFault_rework (i : InstId) (src : Nat) (k : BitVec 3) (wr : Bool) (a : Nat) (s : State) :
    recordFault i src k wr a (s.rework w) = (recordFault i src k wr a s).rework w := rfl
@[simp] theorem logFails_rework (i : InstId) (s : State) : logFails i (s.rework w) = (logFails i s).rework w := rfl
@[simp] theorem bfmCount_rework (k : BitVec 3) (i j : InstId) (h : Word) (s : State) :
    bfmCount k i j h (s.rework w) = (bfmCount k i j h s).rework w := rfl
@[simp] theorem channelOut_rework (s : State) (a : Nat) : channelOut (s.rework w) a = channelOut s a := rfl
@[simp] theorem logBytes_rework (s : State) (q : Word) (ev ins ad de un : Nat) :
    logBytes (s.rework w) q ev ins ad de un = logBytes s q ev ins ad de un := rfl

@[simp] theorem msix_rework (fn : InstId) (v : Fin 32) (s : State) : msix fn v (s.rework w) = (msix fn v s).rework w := by
  have hlive : live (s.rework w) = live s := rfl
  have hfns : (s.rework w).fns = s.fns := rfl
  unfold msix
  rw [hlive, hfns]
  dsimp only
  split
  · split <;> rfl
  · rfl

/-- What a log entry leaves once it is written (R535). -/
def logDone (i : InstId) (quiet : Bool) (v : Fin 32) (s : State) : State :=
  let s := modLog i (fun r => { r with seq := if r.seq + 1 = 0 then 1 else r.seq + 1,
                                       suppressed := r.suppressed || r.quiet, quiet := true }) s
  if quiet then s else msix i v s

@[simp] theorem logDone_rework (i : InstId) (quiet : Bool) (v : Fin 32) (s : State) :
    logDone i quiet v (s.rework w) = (logDone i quiet v s).rework w := by
  unfold logDone
  rw [modLog_rework]
  dsimp only
  split
  · rfl
  · exact msix_rework w i v _

/-- An entry of the log written to its target. -/
def logAt (i : InstId) (x : LogItem) (r : LogRing) (t : Target) (s : State) : Option (BitVec 3) × List LogItem × State :=
  let data := logBytes s r.seq x.event x.inst x.addr x.detail x.unit
  match t with
  | .host h => (none, [], logDone i r.quiet r.vector (putHost h data false s))
  | .dpa d =>
    match regionOf s d with
    | .aperture _ off =>
      if off / 8 < 2 then
        (none, (if i.val = 0 then [] else [⟨i, 0x0514, i.val, 0, 0, 0xFFFF⟩]) ++ [⟨0, 0x0514, i.val, 0, 0, 0xFFFF⟩],
          logDone i r.quiet r.vector (bfmCount 4 i 0 (BitVec.allOnes 32) s))
      else (none, [], logDone i r.quiet r.vector s)
    | _ =>
      if channelOut s d then (some 7, [], s)
      else (none, (badLines [d] s).map foundItem,
        logDone i r.quiet r.vector (putDpa d data (fixLine d (poisonFound (badLines [d] s) s))))

theorem logWrite_eq (i : InstId) (x : LogItem) (s : State) : logWrite i x.event x.inst x.addr x.detail x.unit s =
    if !s.nuc.logs[i.val].enable then (none, [], s)
    else
      match translate i .write (logSlot s.nuc.logs[i.val]) s with
      | (.error k, s') =>
        let ls := if k = 4 then badLines (tableEntries s'.mtu[i.val] s' (logSlot s.nuc.logs[i.val])) s' else []
        (some k, ls.map foundItem, recordFault i 610 k true (logSlot s.nuc.logs[i.val]) (poisonFound ls s'))
      | (.ok t, s') => logAt i x s.nuc.logs[i.val] t s' := by
  unfold logWrite
  dsimp only
  split
  · rfl
  · rcases translate i .write (logSlot s.nuc.logs[i.val]) s with ⟨k | t, u⟩
    · rfl
    · cases t with
      | host h => rfl
      | dpa d => rfl

@[simp] theorem logAt_rework (i : InstId) (x : LogItem) (r : LogRing) (t : Target) (s : State) : logAt i x r t (s.rework w) =
    ((logAt i x r t s).1, (logAt i x r t s).2.1, (logAt i x r t s).2.2.rework w) := by
  unfold logAt
  cases t with
  | host h => simp only [logBytes_rework, putHost_rework, logDone_rework]
  | dpa d =>
    simp only [regionOf_rework, channelOut_rework, badLines_rework, logBytes_rework, poisonFound_rework, fixLine_rework,
      putDpa_rework, bfmCount_rework, logDone_rework]
    split
    · split <;> rfl
    · split <;> rfl

@[simp] theorem logWrite_rework (i : InstId) (x : LogItem) (s : State) :
    logWrite i x.event x.inst x.addr x.detail x.unit (s.rework w) =
      ((logWrite i x.event x.inst x.addr x.detail x.unit s).1, (logWrite i x.event x.inst x.addr x.detail x.unit s).2.1,
        (logWrite i x.event x.inst x.addr x.detail x.unit s).2.2.rework w) := by
  rw [logWrite_eq, logWrite_eq, rework_nuc, translate_rework]
  split
  · rfl
  · rcases translate i .write (logSlot s.nuc.logs[i.val]) s with ⟨k | t, u⟩
    · simp only [rework_mtu, tableEntries_rework, badLines_rework, poisonFound_rework, recordFault_rework]
    · exact logAt_rework w i x _ t u

theorem logItems_rework (n : Nat) (l : List LogItem) (s : State) : logItems n l (s.rework w) = (logItems n l s).rework w := by
  induction n generalizing l s with
  | zero => cases l <;> rfl
  | succ n ih =>
    cases l with
    | nil => rfl
    | cons x t =>
      unfold logItems
      rw [logWrite_rework]
      rcases logWrite x.ring x.event x.inst x.addr x.detail x.unit s with ⟨_ | k, more, u⟩
      · exact ih _ u
      · dsimp only
        rw [logFails_rework, rework_nuc, ih]

@[simp] theorem logPf_rework (ev ins ad de un : Nat) (s : State) :
    logPf ev ins ad de un (s.rework w) = (logPf ev ins ad de un s).rework w := by
  unfold logPf logOne
  rw [rework_mem, logItems_rework]

@[simp] theorem logBoth_rework (i : InstId) (ev ad de un : Nat) (s : State) :
    logBoth i ev ad de un (s.rework w) = (logBoth i ev ad de un s).rework w := by
  unfold logBoth logOne
  dsimp only
  split
  · exact logPf_rework w _ _ _ _ _ s
  · rw [rework_mem, logItems_rework, logPf_rework]

/-! ### Reads (R126, R387 to R391) -/

@[simp] theorem findErrors_rework (a : Nat) (s : State) : findErrors a (s.rework w) = (findErrors a s).rework w := by
  unfold findErrors
  rw [badLines_rework]
  split
  · exact fixLine_rework w a s
  · rw [poisonFound_rework, logPf_rework]

/-- A read of memory leaves the same, whatever the work. -/
def RdRes.rework (r : RdRes) (w : Work) : RdRes := { r with s := r.s.rework w }

theorem readTarget_rework (i : InstId) (t : Target) (n : Nat) (s : State) :
    readTarget i t n (s.rework w) = (readTarget i t n s).rework w := by
  unfold readTarget
  cases t with
  | host a => rfl
  | dpa a =>
    have hbfm : bfmEvent 4 i 0 (BitVec.allOnes 32) (s.rework w) = (bfmEvent 4 i 0 (BitVec.allOnes 32) s).rework w := by
      unfold bfmEvent
      rw [bfmCount_rework, logBoth_rework]
    simp only [regionOf_rework, channelOut_rework, findErrors_rework, hbfm]
    split
    · split <;> rfl
    · split <;> rfl

/-- A read that meets no fault does not depend on the work, or on who asks within a generation. -/
theorem readLine_rework (v v' : Who) (acc : Access) (a n : Nat) (s : State) (hi : v'.inst = v.inst)
    (hc : current v' (s.rework w) = current v s) (h : (readLine v acc a n s).err = none) :
    readLine v' acc a n (s.rework w) = (readLine v acc a n s).rework w := by
  unfold readLine at h ⊢
  rw [hc, hi, translate_rework]
  split
  · next hs => rw [if_pos hs] at h; cases h
  · next hs =>
    rw [if_neg hs] at h
    rcases htr : translate v.inst acc a s with ⟨k | t, u⟩
    · rw [htr] at h
      cases h
    · exact readTarget_rework w v.inst t n u

theorem readLine_inst (v : Who) (acc : Access) (a n : Nat) (s : State) : (readLine v acc a n s).s.inst = s.inst := by
  rw [(onlyAccess.readLine v acc a n s).1]

/-- A read of several lines that meets no fault. -/
theorem readChunks_rework (v v' : Who) (hi : v'.inst = v.inst) (l : List (Nat × Nat)) (r : RdRes) (hr : r.err = none)
    (hc : ∀ u : State, u.inst = r.s.inst → current v' (u.rework w) = current v u) (h : (readChunks v l r).err = none) :
    readChunks v' l (r.rework w) = (readChunks v l r).rework w := by
  induction l generalizing r with
  | nil => rfl
  | cons x t ih =>
    obtain ⟨a, n⟩ := x
    have hline := readLine_rework w v v' .read a n r.s hi (hc r.s rfl)
    have hinst := readLine_inst v .read a n r.s
    unfold readChunks at h ⊢
    rw [show (r.rework w).s = r.s.rework w from rfl]
    rcases hread : readLine v .read a n r.s with ⟨_ | e, d, p, u⟩
    · rw [hread] at hline hinst h
      rw [hline rfl]
      exact ih ⟨none, r.data ++ d, r.poison || p, u⟩ rfl (fun u' hu' => hc u' (hu'.trans hinst)) h
    · rw [hread] at h
      cases h

end

end Sys2Proof.Machine
end

section
/-! PROOFS. Descriptors that start and end where instances are calm: memory stays as it is (R137, R138, R141, R143). -/

namespace Sys2Proof.Machine

open Sys2Proof

/-! ### What starts and ends keep of the instances -/

/-- Generations, channels granted, watermarks and the memory of SHED_EARLY are as they were. -/
structure KeepsGrants (s t : State) : Prop where
  gen : ∀ i : InstId, t.inst[i.val].gen = s.inst[i.val].gen
  dma : ∀ i : InstId, t.inst[i.val].dmaMask = s.inst[i.val].dmaMask
  hw : ∀ i : InstId, t.inst[i.val].hw = s.inst[i.val].hw
  shed : ∀ i : InstId, t.inst[i.val].shedPressure = s.inst[i.val].shedPressure

theorem KeepsGrants.of_inst {s t : State} (h : t.inst = s.inst) : KeepsGrants s t := by
  refine ⟨fun i => ?_, fun i => ?_, fun i => ?_, fun i => ?_⟩ <;> rw [h]

theorem KeepsGrants.trans {s t u : State} (h : KeepsGrants s t) (k : KeepsGrants t u) : KeepsGrants s u :=
  ⟨fun i => (k.gen i).trans (h.gen i), fun i => (k.dma i).trans (h.dma i), fun i => (k.hw i).trans (h.hw i),
    fun i => (k.shed i).trans (h.shed i)⟩

/-- A part of all instances that a change of one of them leaves. -/
theorem modInst_field {β : Type} (g : Inst → β) (i : InstId) (f : Inst → Inst) (s : State) (hg : g (f s.inst[i.val]) = g s.inst[i.val])
    (j : InstId) : g (modInst i f s).inst[j.val] = g s.inst[j.val] := by
  by_cases e : j = i
  · subst e
    simp only [modInst, upd_same, hg]
  · simp only [modInst, upd_other _ _ _ _ j.isLt fun h => e (Fin.ext h)]

theorem modInst_keepsGrants (i : InstId) (f : Inst → Inst) (s : State) (h1 : (f s.inst[i.val]).gen = s.inst[i.val].gen)
    (h2 : (f s.inst[i.val]).dmaMask = s.inst[i.val].dmaMask) (h3 : (f s.inst[i.val]).hw = s.inst[i.val].hw)
    (h4 : (f s.inst[i.val]).shedPressure = s.inst[i.val].shedPressure) : KeepsGrants s (modInst i f s) :=
  ⟨modInst_field Inst.gen i f s h1, modInst_field Inst.dmaMask i f s h2, modInst_field Inst.hw i f s h3,
    modInst_field Inst.shedPressure i f s h4⟩

/-! ### Calm instances (R141, R143) -/

/-- Admission among calm instances: SQs are let go, and no pressure is raised. -/
theorem admission_calm (i : InstId) (s : State) (h : Calm i s) : ∃ sq b,
    admission i s = modInst i (fun x => { x with sq := sq, pressure := b }) s ∧ ∀ q : Fin 16, (sq[q.val]).busy = false := by
  obtain ⟨hback, hshed, hbusy⟩ := h
  have hupdate : ∀ (u : State), u.inst[i.val].shedPressure = false → (∀ q : Fin 16, (u.inst[i.val].sq[q.val]).busy = false) →
      pressureUpdate i u = modInst i (fun x => { x with pressure := false }) u := by
    intro u h1 h2
    have hany : (u.inst[i.val].sq.toList.any fun q => q.busy) = false := by
      rw [List.any_eq_false]
      intro q hq
      rw [Vector.mem_toList_iff] at hq
      obtain ⟨n, hn, rfl⟩ := Vector.getElem_of_mem hq
      rw [h2 ⟨n, hn⟩]
      simp
    unfold pressureUpdate
    simp only [h1, hany, Bool.or_self, Bool.false_and, Bool.false_eq_true, if_false]
  unfold admission
  extract_lets x n set
  have hset : ∀ u, set false u =
      modInst i (fun x => { x with sq := x.sq.map fun q => { q with busy := if q.st = .disabled || q.cls = 0 then false else false } }) u :=
    fun u => rfl
  rw [if_neg (Nat.not_le.2 hback)]
  split
  · refine ⟨s.inst[i.val].sq.map fun q => { q with busy := false }, false, ?_, fun q => by simp⟩
    have hfree : set false s = modInst i (fun x => { x with sq := s.inst[i.val].sq.map fun q => { q with busy := false } }) s := by
      rw [hset]
      unfold modInst upd
      simp only [ite_self]
    rw [hfree, hupdate _ (by simp only [modInst, upd_same, hshed]) (by simp [modInst, upd_same])]
    unfold modInst
    rw [upd_upd]
  · refine ⟨s.inst[i.val].sq, false, ?_, hbusy⟩
    rw [hupdate s hshed hbusy]
    unfold modInst upd
    rfl

/-- Calm instances stay calm while their ready descriptors only become fewer. -/
theorem Calm.fewer {i : InstId} {s t : State} (h : Calm i s) (hb : backlog i t ≤ backlog i s) (hg : KeepsGrants s t)
    (hq : ∀ q : Fin 16, (t.inst[i.val].sq[q.val]).busy = false) : Calm i t := by
  obtain ⟨h1, h2, -⟩ := h
  refine ⟨?_, (hg.shed i).trans h2, hq⟩
  rw [hg.hw i]
  exact lt_of_le_of_lt hb h1

theorem backlog_items {i : InstId} {s t : State} (h : t.items = s.items) : backlog i t = backlog i s := by
  unfold backlog
  rw [h]

/-- A descriptor that changes into one that is not ready leaves the backlog no larger. -/
theorem backlog_modItem (i : InstId) (d : Nat) (f : Item → Item) (s : State) (hf : ∀ x, (f x).stage ≠ .ready) :
    backlog i (modItem d f s) ≤ backlog i s := by
  unfold backlog
  rw [modItem_items, ← List.countP_eq_length_filter, ← List.countP_eq_length_filter, List.countP_map]
  refine List.countP_mono_left fun x _ hx => ?_
  simp only [Function.comp_apply, decide_eq_true_eq] at hx ⊢
  split at hx
  · exact absurd hx.2 (hf x)
  · exact hx

/-- The end of a descriptor leaves memory as it is where instances are calm. -/
theorem endItem_calm (d : Nat) (result : Dword) (f : Outcomes → Outcomes) (s : State) (x : Item) (hx : findItem d s = some x)
    (hst : x.stage ≠ .ended) (hr : x.resetHead = none) (h : Calm x.inst s) : (endItem d result f s).mem = s.mem := by
  unfold endItem
  simp only [hx, if_neg hst, hr, Option.isSome_none, Bool.false_eq_true, if_false]
  generalize endedItem x result f s = y
  have hest : ∀ st, KeepsWork s (estComplete y st s) ∧ KeepsGrants s (estComplete y st s) ∧ (estComplete y st s).mem = s.mem ∧
      ∀ q : Fin 16, ((estComplete y st s).inst[x.inst.val].sq[q.val]).busy = (s.inst[x.inst.val].sq[q.val]).busy := by
    intro st
    refine ⟨estComplete_keepsWork _ _ _, ?_⟩
    unfold estComplete
    split
    · exact ⟨.of_inst rfl, rfl, fun _ => rfl⟩
    · exact ⟨modInst_keepsGrants _ _ _ rfl rfl rfl rfl, rfl, fun q =>
        modInst_field (fun z : Inst => (z.sq[q.val]).busy) _ _ _ rfl x.inst⟩
  obtain ⟨hwork, hgrants, hmem, hbusy⟩ := hest (statusOf y.out)
  generalize estComplete y (statusOf y.out) s = u at hwork hgrants hmem hbusy
  generalize hv : modItem d (fun _ => { y with stage := .ended }) u = v
  have hvinst : v.inst = u.inst := by rw [← hv]; rfl
  have hback : backlog x.inst v ≤ backlog x.inst s := by
    rw [← hv, ← backlog_items hwork.items]
    exact backlog_modItem _ _ _ _ fun _ => by simp
  generalize hz : modCq x.inst x.cq (fun q => { q with due := q.due ++ [recOf y v] }) v = z
  have hzg : KeepsGrants v z := by
    rw [← hz]
    exact modInst_keepsGrants _ _ _ rfl rfl rfl rfl
  have hzq : ∀ q : Fin 16, (z.inst[x.inst.val].sq[q.val]).busy = false := by
    intro q
    rw [← hz]
    exact (modInst_field (fun k : Inst => (k.sq[q.val]).busy) _ _ _ rfl x.inst).trans
      ((by rw [hvinst] : (v.inst[x.inst.val].sq[q.val]).busy = (u.inst[x.inst.val].sq[q.val]).busy).trans
        ((hbusy q).trans (h.2.2 q)))
  have hcalm : Calm x.inst z := h.fewer (by rw [backlog_items (s := v) (by rw [← hz]; rfl)]; exact hback)
    ((hgrants.trans (.of_inst hvinst)).trans hzg) hzq
  obtain ⟨sq, b, hadm, -⟩ := admission_calm x.inst z hcalm
  rw [hadm]
  have hmem' : z.mem = u.mem := by rw [← hz, ← hv]; rfl
  exact hmem'.trans hmem

/-! ### Dispatch starts a descriptor (R137, R138) -/

/-- A descriptor that has started now. -/
def Item.begun (x : Item) (now : Nat) : Item := { x with stage := .running, startAt := now, started := true }

/-- Dispatch that starts a descriptor where instances are calm changes descriptors, dispatch and pressure alone. -/
theorem dispatchStart_calm (d op : Nat) (ty : Fin 4) (ok : Item → Bool) (x : Item) (s : State) (h : StartsNext d op ty ok x s) :
    ∃ w : Work, dispatchStart d ty ok s = s.rework w ∧ findItem d (s.rework w) = some (x.begun s.eph.ticks) ∧
      KeepsGrants s (s.rework w) ∧ Calm x.inst (s.rework w) := by
  obtain ⟨hx, -, -, ⟨aged, hpick⟩, hcalm⟩ := h
  generalize hv : modItem d (fun x => { x with stage := .running, startAt := s.eph.ticks, started := true }) s = v
  have hvinst : v.inst = s.inst := by rw [← hv]; rfl
  have hcalm' : Calm x.inst v := hcalm.fewer
    (by rw [← hv]; exact backlog_modItem _ _ _ _ fun _ => by simp) (.of_inst hvinst) (by rw [hvinst]; exact hcalm.2.2)
  obtain ⟨sq, b, hadm, hbusy⟩ := admission_calm x.inst v hcalm'
  have hfind : findItem d v = some (x.begun s.eph.ticks) := by
    rw [← hv, findItem_modItem d (fun x => { x with stage := .running, startAt := s.eph.ticks, started := true }) s fun _ h => h, hx]
    rfl
  have hstart : startItem d s = s.rework ⟨v.items, (modInst x.inst (fun x => { x with sq := sq, pressure := b }) v).inst, s.disp⟩ := by
    unfold startItem
    simp only [hx]
    rw [hv, hadm, ← hv]
    rfl
  have hdone : ∃ D, dispatchStart d ty ok s =
      s.rework ⟨v.items, (modInst x.inst (fun x => { x with sq := sq, pressure := b }) v).inst, D⟩ := by
    unfold dispatchStart
    simp only [hpick, hstart]
    split
    · exact ⟨s.disp, rfl⟩
    · exact ⟨_, rfl⟩
  obtain ⟨D, hD⟩ := hdone
  have hgrants : KeepsGrants v (modInst x.inst (fun x => { x with sq := sq, pressure := b }) v) :=
    modInst_keepsGrants _ _ _ rfl rfl rfl rfl
  have hg : KeepsGrants s (s.rework ⟨v.items, (modInst x.inst (fun x => { x with sq := sq, pressure := b }) v).inst, D⟩) := by
    have := (KeepsGrants.of_inst hvinst).trans hgrants
    exact ⟨this.gen, this.dma, this.hw, this.shed⟩
  refine ⟨_, hD, hfind, hg, hcalm.fewer ?_ hg fun q => ?_⟩
  · exact (by rw [← hv]; exact backlog_modItem _ _ _ _ fun _ => by simp : backlog x.inst v ≤ backlog x.inst s)
  · have : ((modInst x.inst (fun x => { x with sq := sq, pressure := b }) v).inst[x.inst.val].sq[q.val]).busy = false := by
      simp only [modInst, upd_same, hbusy]
    exact this

end Sys2Proof.Machine
end

section
/-! PROOFS. Bytes that move within device memory while translation stands still (R121 to R125, R389, R394 to R396). -/

namespace Sys2Proof.Machine

open Sys2Proof

/-! ### Ranges of memory -/

theorem read_add (m : Memory) (a n k : Nat) : Memory.read 0 m a (n + k) = Memory.read 0 m a n ++ Memory.read 0 m (a + n) k := by
  induction n generalizing a with
  | zero => rw [Nat.zero_add]; rfl
  | succ n ih =>
    rw [show n + 1 + k = (n + k) + 1 by omega, Memory.read, ih (a + 1), show a + 1 + n = a + (n + 1) by omega]
    rfl

theorem write_append (m : Memory) (a : Nat) (l k : List Byte) :
    Memory.write 0 m a (l ++ k) = Memory.write 0 (Memory.write 0 m a l) (a + l.length) k := by
  induction l generalizing m a with
  | nil => rfl
  | cons v t ih =>
    rw [List.cons_append, Memory.write, ih, Memory.write, List.length_cons, show a + 1 + t.length = a + (t.length + 1) by omega]

theorem read_same (m m' : Memory) (a n : Nat) (h : ∀ j < n, Memory.get 0 m (a + j) = Memory.get 0 m' (a + j)) :
    Memory.read 0 m a n = Memory.read 0 m' a n := by
  apply List.ext_getElem (by simp)
  intro j hj hj'
  rw [Memory.getElem_read, Memory.getElem_read]
  exact h j (by simpa using hj)

/-- Bytes read from a part of a range. -/
theorem read_part (m : Memory) (a n k j : Nat) (h : k + j ≤ n) :
    ((Memory.read 0 m a n).drop k).take j = Memory.read 0 m (a + k) j := by
  rw [show n = k + (j + (n - k - j)) by omega, read_add, List.drop_left' (Memory.length_read _ _ _ _), read_add,
    List.take_left' (Memory.length_read _ _ _ _)]

/-! ### Requests that cover a range (R237, R394) -/

/-- These requests cover n bytes from a in order. -/
inductive Tiles : Nat → Nat → List (Nat × Nat) → Prop
  | nil (a : Nat) : Tiles a 0 []
  | cons (a m n : Nat) (l : List (Nat × Nat)) : 0 < m → Tiles (a + m) n l → Tiles a (m + n) ((a, m) :: l)

theorem chunksAux_tiles (f a n : Nat) (h : n = 0 ∨ a % 64 + n ≤ 64 * f) : Tiles a n (chunksAux f a n) := by
  induction f generalizing a n with
  | zero =>
    obtain rfl : n = 0 := by omega
    exact .nil a
  | succ f ih =>
    unfold chunksAux
    by_cases hn : n = 0
    · subst hn
      rw [if_pos rfl]
      exact .nil a
    · rw [if_neg hn]
      dsimp only
      have hrest := ih (a + min n (64 - a % 64)) (n - min n (64 - a % 64)) (by omega)
      have := Tiles.cons a (min n (64 - a % 64)) (n - min n (64 - a % 64)) _ (by omega) hrest
      rwa [show min n (64 - a % 64) + (n - min n (64 - a % 64)) = n by omega] at this

theorem chunks_tiles (a n : Nat) : Tiles a n (chunks a n) := chunksAux_tiles _ a n (.inr (by omega))

/-- Each of the requests lies in the range. -/
theorem Tiles.within {a n : Nat} {l : List (Nat × Nat)} (h : Tiles a n l) : ∀ c ∈ l, ∃ k, c.1 = a + k ∧ 0 < c.2 ∧ k + c.2 ≤ n := by
  induction h with
  | nil a => intro c hc; cases hc
  | cons a m n l hm _ ih =>
    intro c hc
    rcases List.mem_cons.1 hc with rfl | hc
    · exact ⟨0, rfl, hm, by omega⟩
    · obtain ⟨k, h1, h2, h3⟩ := ih c hc
      exact ⟨m + k, by omega, h2, by omega⟩

/-! ### A change of device memory outside the tables (R122) -/

/-- The block with these bytes of device memory. -/
def State.withDpa (s : State) (m : Memory) : State := { s with mem := { s.mem with dpa := m } }

theorem withDpa_self (s : State) : s.withDpa s.mem.dpa = s := rfl

/-- The bytes outside n from p are as they were. -/
structure Agrees (p n : Nat) (s : State) (m : Memory) : Prop where
  wf : Memory.wf 0 m = true
  same : ∀ b, b < p ∨ p + n ≤ b → Memory.get 0 m b = Memory.get 0 s.mem.dpa b

/-- A write within the bytes. -/
theorem Agrees.write {p n : Nat} {s : State} {m : Memory} (h : Agrees p n s m) (a : Nat) (d : List Byte) (h1 : p ≤ a)
    (h2 : a + d.length ≤ p + n) : Agrees p n s (Memory.write 0 m a d) := by
  refine ⟨Memory.wf_write 0 m a d h.wf, fun b hb => ?_⟩
  rw [get_write_outside m a b d h.wf (by omega)]
  exact h.same b hb

theorem Agrees.read {p n : Nat} {s : State} {m : Memory} (h : Agrees p n s m) (a k : Nat) (hk : a + k ≤ p ∨ p + n ≤ a) :
    Memory.read 0 m a k = Memory.read 0 s.mem.dpa a k :=
  read_same _ _ _ _ fun j hj => h.same _ (by omega)

/-- An entry of a table reads as before. -/
theorem tableRead_withDpa {p n : Nat} {s : State} {m : Memory} (h : Agrees p n s m) (a : Nat) (ha : a + 8 ≤ p ∨ p + n ≤ a) :
    tableRead (s.withDpa m) a = tableRead s a := by
  have hreg : regionOf (s.withDpa m) a = regionOf s a := rfl
  have hbad : (channelOut (s.withDpa m) a || lineBad (s.withDpa m) a) = (channelOut s a || lineBad s a) := rfl
  have hbytes : Memory.read 0 (s.withDpa m).mem.dpa a 8 = Memory.read 0 s.mem.dpa a 8 := h.read a 8 ha
  unfold tableRead
  rw [hreg, hbad, hbytes]

/-- A walk of tables that the change does not touch finds what it found. -/
theorem walk_withDpa {i : InstId} {p n : Nat} {s : State} {m : Memory} (h : Agrees p n s m) (hc : TablesClear i p n s) (a : Nat) :
    walk s.mtu[i.val] (s.withDpa m) a = walk s.mtu[i.val] s a ∧
      tableEntries s.mtu[i.val] (s.withDpa m) a = tableEntries s.mtu[i.val] s a := by
  have hfirst : ∀ e ∈ tableEntries s.mtu[i.val] s a, tableRead (s.withDpa m) e = tableRead s e := fun e he =>
    tableRead_withDpa h e (hc a e he)
  unfold tableEntries at hfirst
  unfold walk tableEntries
  dsimp only at hfirst ⊢
  generalize bits s.mtu[i.val].root 63 12 * 4096 + a / 2 ^ 30 * 8 = a1 at hfirst ⊢
  generalize a % 2 ^ 30 / 2 ^ 21 * 8 = off at hfirst ⊢
  have h1 : tableRead (s.withDpa m) a1 = tableRead s a1 := by
    refine hfirst _ ?_
    split
    · exact List.mem_singleton.2 rfl
    · split
      · exact List.mem_cons_self
      · exact List.mem_singleton.2 rfl
  rw [h1]
  refine ⟨?_, rfl⟩
  cases h2 : tableRead s a1 with
  | error k => rfl
  | ok e1 =>
    rw [h2] at hfirst
    dsimp only at hfirst ⊢
    cases hl : bit e1 4 with
    | true => simp only [if_true]
    | false =>
      cases hb : bit e1 0 with
      | false => simp only [Bool.false_and, Bool.false_eq_true, if_false]
      | true =>
        rw [hl, hb] at hfirst
        rw [hfirst (bits e1 51 12 * 4096 + off) (by simp)]

/-- Translation answers as it did. -/
theorem leafFor_withDpa {i : InstId} {p n : Nat} {s : State} {m : Memory} (h : Agrees p n s m) (hc : TablesClear i p n s)
    (hl : s.mem.latent = []) (a : Nat) :
    leafFor i a (s.withDpa m) = ((leafFor i a s).1, (leafFor i a s).2.withDpa m) := by
  obtain ⟨hwalk, -⟩ := walk_withDpa h hc a
  have hread : ∀ u : State, u.mem.latent = [] → entriesRead i a u = u := fun u hu => foldl_still _ u _ fun a => fixLine_clean a u hu
  have hmtu : (s.withDpa m).mtu = s.mtu := rfl
  cases hk : cachedLeaves s.mtu[i.val] (a / 2 ^ 21) with
  | nil =>
    rw [leafFor_fresh i a s hk, leafFor_fresh i a (s.withDpa m) hk, hread s hl, hread (s.withDpa m) hl, hmtu, hwalk]
    cases walk s.mtu[i.val] s a <;> rfl
  | cons old olds =>
    rw [leafFor_kept i a s old olds hk, leafFor_kept i a (s.withDpa m) old olds hk, hmtu, hwalk]
    have hfound : ∀ u : State, keepFound i (a / 2 ^ 21) (walk s.mtu[i.val] s a) (u.withDpa m) =
        (keepFound i (a / 2 ^ 21) (walk s.mtu[i.val] s a) u).withDpa m := by
      intro u
      cases walk s.mtu[i.val] s a <;> rfl
    have hfree : takeFree 1 (s.withDpa m) = ((takeFree 1 s).1, (takeFree 1 s).2.withDpa m) := rfl
    unfold leafKept
    rw [hfree, hfound]
    split
    · rfl
    · dsimp only
      split <;> rfl

theorem translate_withDpa {i : InstId} {p n : Nat} {s : State} {m : Memory} (h : Agrees p n s m) (hc : TablesClear i p n s)
    (hl : s.mem.latent = []) (acc : Access) (a : Nat) :
    translate i acc a (s.withDpa m) = ((translate i acc a s).1, (translate i acc a s).2.withDpa m) := by
  have hmtu : (s.withDpa m).mtu = s.mtu := rfl
  unfold translate
  rw [leafFor_withDpa h hc hl, hmtu]
  split
  · rfl
  · split
    · rfl
    · rcases leafFor i a s with ⟨k | e, u⟩
      · rfl
      · dsimp only
        split
        · cases leafTarget e a with
          | host b => rfl
          | dpa b =>
            have hreg : regionOf (u.withDpa m) b = regionOf u b := rfl
            dsimp only
            rw [hreg]
            split <;> rfl
        · rfl

/-- A range that maps to consecutive good bytes maps to them still. -/
theorem MapsRange.withDpa {i : InstId} {p n : Nat} {s : State} {m : Memory} {acc : Access} {a k q : Nat} (hm : MapsRange i acc a k q s)
    (h : Agrees p n s m) (hc : TablesClear i p n s) : MapsRange i acc a k q (s.withDpa m) := by
  intro j hj
  obtain ⟨ht, hg⟩ := hm j hj
  refine ⟨?_, hg⟩
  rw [translate_withDpa h hc hg.2.2.2, ht]

theorem MapsRange.part {i : InstId} {acc : Access} {a n q : Nat} {s : State} (h : MapsRange i acc a n q s) (k m : Nat) (hk : k + m ≤ n) :
    MapsRange i acc (a + k) m (q + k) s := by
  intro j hj
  rw [Nat.add_assoc, Nat.add_assoc]
  exact h (k + j) (by omega)

/-- Ranges lie where they lay. -/
theorem extents_same {i : InstId} {s t : State} (h : ∀ a, walk t.mtu[i.val] t a = walk s.mtu[i.val] s a) (f a n : Nat) :
    extents i f a n t = extents i f a n s := by
  induction f generalizing a n with
  | zero => rfl
  | succ f ih =>
    unfold extents
    simp only [h, ih]

theorem sharesByte_same {i : InstId} {s t : State} (h : ∀ a, walk t.mtu[i.val] t a = walk s.mtu[i.val] s a) (a n b m : Nat) :
    sharesByte i a n b m t = sharesByte i a n b m s := by
  unfold sharesByte
  rw [extents_same h, extents_same h]

/-! ### Reads of mapped ranges -/

/-- A read of a range that maps to good bytes gives them. -/
theorem readIva_maps (v : Who) (a n q : Nat) (s : State) (hc : current v s = true) (hm : MapsRange v.inst .read a n q s) :
    readIva v a n s = ⟨none, Memory.read 0 s.mem.dpa q n, false, s⟩ := by
  have key : ∀ l a n q d, Tiles a n l → MapsRange v.inst .read a n q s →
      readChunks v l ⟨none, d, false, s⟩ = ⟨none, d ++ Memory.read 0 s.mem.dpa q n, false, s⟩ := by
    intro l a n q d ht hm
    induction ht generalizing q d with
    | nil a => exact congrArg (fun d => (⟨none, d, false, s⟩ : RdRes)) (List.append_nil d).symm
    | cons a m n l h0 _ ih =>
      obtain ⟨htr, hg⟩ := hm 0 (by omega)
      have hline : readLine v .read a m s = ⟨none, Memory.read 0 s.mem.dpa q m, false, s⟩ := by
        unfold readLine
        rw [hc, show a = a + 0 from rfl, htr]
        exact readTarget_good v.inst q m s hg
      unfold readChunks
      rw [hline]
      dsimp only
      rw [Bool.or_false, ih (q + m) _ (hm.part m n (by omega)), List.append_assoc, ← read_add]
  exact key _ a n q [] (chunks_tiles a n) hm

end Sys2Proof.Machine
end

section
/-! PROOFS. Runs of a copy (R389, R391, R394 to R396). -/

namespace Sys2Proof.Machine

open Sys2Proof

/-! ### One request of a copy -/

/-- A write to an address that maps to a good line. -/
theorem writeLine_maps (v : Who) (a q : Nat) (d : List Byte) (s : State) (hc : current v s = true)
    (ht : translate v.inst .write a s = (.ok (.dpa q), s)) (hg : GoodLine s q) : writeLine v a d false s = (none, putDpa q d s) := by
  unfold writeLine
  rw [hc, ht]
  exact writeTarget_good v.inst q d s hg

/-- A copy that has moved this much and met nothing. -/
def Copy.moving (mv : Nat) (s : State) : Copy := { moved := mv, s := s }

/-- What each request of a copy does: it writes its part of these bytes, and none fails. -/
structure Feeds (v : Who) (src : CopySrc) (dst n pd : Nat) (D : List Byte) (p N : Nat) (s : State) : Prop where
  step : ∀ k m M mv, 0 < m → k + m ≤ n → Agrees p N s M → copyChunk v src dst (dst + k, m) (.moving mv (s.withDpa M)) =
    .moving (mv + m) (s.withDpa (Memory.write 0 M (pd + k) ((D.drop k).take m)))
  sound : ∀ k m M, 0 < m → k + m ≤ n → Agrees p N s M → chunkFails v src dst (dst + k, m) (s.withDpa M) = false
  length : D.length = n
  low : p ≤ pd
  high : pd + n ≤ p + N

/-- A mapped good address fails no request. -/
theorem reqFails_maps {i : InstId} {acc : Access} {a n q : Nat} {s : State} (h : MapsRange i acc a n q s) (j : Nat) (hj : j < n) :
    reqFails i acc (a + j) s = false := by
  obtain ⟨ht, -, hout, -⟩ := h j hj
  unfold reqFails
  rw [ht]
  exact hout

theorem chunkFails_write {v : Who} {dst n pd p N k m : Nat} {s : State} {M : Memory} (hw : MapsRange v.inst .write dst n pd s)
    (hc : TablesClear v.inst p N s) (hM : Agrees p N s M) (h0 : 0 < m) (hk : k + m ≤ n) :
    reqFails v.inst .write (dst + k) (s.withDpa M) = false := reqFails_maps (hw.withDpa hM hc) k (by omega)

/-- The write of one request of a copy. -/
theorem chunk_write {v : Who} {dst n pd p N k m : Nat} {s : State} {M : Memory} (hw : MapsRange v.inst .write dst n pd s)
    (hc : TablesClear v.inst p N s) (hM : Agrees p N s M) (hcur : current v s = true) (h0 : 0 < m) (hk : k + m ≤ n) (d : List Byte) :
    writeLine v (dst + k) d false (s.withDpa M) = (none, s.withDpa (Memory.write 0 M (pd + k) d)) := by
  obtain ⟨ht, hg⟩ := hw.withDpa hM hc k (by omega)
  exact writeLine_maps v (dst + k) (pd + k) d (s.withDpa M) hcur ht hg

/-- A fill writes its byte. -/
theorem fill_feeds (v : Who) (b : Byte) (dst n pd p N : Nat) (s : State) (hcur : current v s = true)
    (hw : MapsRange v.inst .write dst n pd s) (hc : TablesClear v.inst p N s) (hlow : p ≤ pd) (hhigh : pd + n ≤ p + N) :
    Feeds v (.fill b) dst n pd (List.replicate n b) p N s := by
  refine ⟨fun k m M mv h0 hk hM => ?_, fun k m M h0 hk hM => ?_, List.length_replicate, hlow, hhigh⟩
  · have hdata : ((List.replicate n b).drop k).take m = List.replicate m b := by
      rw [List.drop_replicate, List.take_replicate, Nat.min_eq_left (by omega)]
    rw [hdata]
    unfold copyChunk Copy.moving
    simp only [chunk_write hw hc hM hcur h0 hk (List.replicate m b)]
    rfl
  · unfold chunkFails
    rw [chunkFails_write hw hc hM h0 hk]
    rfl

/-- A copy writes the bytes that it reads. -/
theorem from_feeds (v : Who) (a ps dst n pd p N : Nat) (s : State) (hcur : current v s = true)
    (hw : MapsRange v.inst .write dst n pd s) (hr : MapsRange v.inst .read a n ps s) (hc : TablesClear v.inst p N s)
    (hlow : p ≤ pd) (hhigh : pd + n ≤ p + N) (hdis : ps + n ≤ p ∨ p + N ≤ ps) :
    Feeds v (.from_ a false) dst n pd (Memory.read 0 s.mem.dpa ps n) p N s := by
  refine ⟨fun k m M mv h0 hk hM => ?_, fun k m M h0 hk hM => ?_, Memory.length_read _ _ _ _, hlow, hhigh⟩
  · have hsrc : a + (dst + k - dst) = a + k := by omega
    have hread := readIva_maps v (a + k) m (ps + k) (s.withDpa M) hcur ((hr.part k m hk).withDpa hM hc)
    have hdata : Memory.read 0 (s.withDpa M).mem.dpa (ps + k) m = ((Memory.read 0 s.mem.dpa ps n).drop k).take m := by
      rw [read_part _ _ _ _ _ hk]
      exact hM.read (ps + k) m (by omega)
    rw [hdata] at hread
    unfold copyChunk Copy.moving
    simp only [hsrc, hread, chunk_write hw hc hM hcur h0 hk]
    rfl
  · have hsrc : a + (dst + k - dst) = a + k := by omega
    have hany : ((chunks (a + k) m).any fun r => reqFails v.inst .read r.1 (s.withDpa M)) = false := by
      rw [List.any_eq_false]
      intro r hmem
      obtain ⟨j, h1, h2, h3⟩ := (chunks_tiles (a + k) m).within r hmem
      rw [h1, Nat.add_assoc, reqFails_maps (hr.withDpa hM hc) (k + j) (by omega)]
      simp
    unfold chunkFails
    simp only [chunkFails_write hw hc hM h0 hk, hsrc, hany, Bool.or_self]

/-! ### A whole copy (R394, R395) -/

/-- The requests of a copy, one after the other. -/
theorem copyFold_feeds {v : Who} {src : CopySrc} {dst n pd p N : Nat} {D : List Byte} {s : State} (h : Feeds v src dst n pd D p N s)
    {a n' : Nat} {l : List (Nat × Nat)} (ht : Tiles a n' l) (k mv : Nat) (M : Memory) (ha : a = dst + k) (hn : k + n' = n)
    (hM : Agrees p N s M) : l.foldl (fun r c => copyChunk v src dst c r) (.moving mv (s.withDpa M)) =
      .moving (mv + n') (s.withDpa (Memory.write 0 M (pd + k) (D.drop k))) := by
  induction ht generalizing k mv M with
  | nil a =>
    rw [List.drop_of_length_le (by rw [h.length]; omega)]
    rfl
  | cons a m n'' l h0 _ ih =>
    have hlen : ((D.drop k).take m).length = m := by
      rw [List.length_take, List.length_drop, h.length]
      omega
    have hM' : Agrees p N s (Memory.write 0 M (pd + k) ((D.drop k).take m)) :=
      hM.write _ _ (by have := h.low; omega) (by rw [hlen]; have := h.high; omega)
    have hsplit : (D.drop k).take m ++ D.drop (k + m) = D.drop k := by
      rw [← List.drop_drop, List.take_append_drop]
    rw [List.foldl_cons, ha, h.step k m M mv h0 (by omega) hM, ih (k + m) (mv + m) _ (by omega) (by omega) hM', ← Nat.add_assoc pd k m]
    have hjoin : Memory.write 0 (Memory.write 0 M (pd + k) ((D.drop k).take m)) (pd + k + m) (D.drop (k + m)) =
        Memory.write 0 M (pd + k) (D.drop k) := by
      have := write_append M (pd + k) ((D.drop k).take m) (D.drop (k + m))
      rw [hsplit, hlen] at this
      exact this.symm
    rw [hjoin, Nat.add_assoc mv m n'']

theorem copyRun_feeds {v : Who} {src : CopySrc} {dst n pd p N : Nat} {D : List Byte} {s : State} (h : Feeds v src dst n pd D p N s)
    (mv : Nat) (M : Memory) (hM : Agrees p N s M) : copyRun v src dst n (.moving mv (s.withDpa M)) =
      .moving (mv + n) (s.withDpa (Memory.write 0 M pd D)) := by
  have hfind : ((chunks dst n).find? fun c => chunkFails v src dst c (s.withDpa M)) = none := by
    rw [List.find?_eq_none]
    intro c hc
    obtain ⟨k, h1, h2, h3⟩ := (chunks_tiles dst n).within c hc
    obtain ⟨c1, c2⟩ := c
    simp only at h1 h2 h3
    rw [h1, h.sound k c2 M h2 h3 hM]
    simp
  unfold copyRun
  rw [show (Copy.moving mv (s.withDpa M)).s = s.withDpa M from rfl, hfind]
  exact copyFold_feeds h (chunks_tiles dst n) 0 mv M rfl (by omega) hM

/-! ### A gather (R396) -/

/-- An entry of a gather list that passes its checks, as the list gives it. -/
def gatherEntry (e : Nat × Nat × Nat) : Nat × Nat × Bool := (e.1, e.2.1, true)

/-- The bytes of the entries, in list order. -/
def gathered (m : Memory) (es : List (Nat × Nat × Nat)) : List Byte := es.flatMap fun e => Memory.read 0 m e.2.2 e.2.1

theorem length_gathered (m : Memory) (es : List (Nat × Nat × Nat)) : (gathered m es).length = (es.map fun e => e.2.1).sum := by
  induction es with
  | nil => rfl
  | cons e t ih =>
    show (Memory.read 0 m e.2.2 e.2.1 ++ gathered m t).length = _
    rw [List.length_append, Memory.length_read, ih, List.map_cons, List.sum_cons]

/-- The entries of a gather list, copied in order. -/
theorem gatherRun_feeds (v : Who) (dst0 total p N : Nat) (s : State) (hcur : current v s = true) (hc : TablesClear v.inst p N s)
    (es : List (Nat × Nat × Nat)) (hes : ∀ e ∈ es, MapsRange v.inst .read e.1 e.2.1 e.2.2 s ∧
      sharesByte v.inst e.1 e.2.1 dst0 total s = false ∧ (e.2.2 + e.2.1 ≤ p ∨ p + N ≤ e.2.2)) (dst pd done mv : Nat) (M : Memory)
    (hM : Agrees p N s M) (hw : MapsRange v.inst .write dst (es.map fun e => e.2.1).sum pd s) (hlow : p ≤ pd)
    (hhigh : pd + (es.map fun e => e.2.1).sum ≤ p + N) :
    gatherRun v dst0 total (es.map gatherEntry) dst done (.moving mv (s.withDpa M)) =
      (done + es.length, .moving (mv + (es.map fun e => e.2.1).sum) (s.withDpa (Memory.write 0 M pd (gathered s.mem.dpa es)))) := by
  induction es generalizing dst pd done mv M with
  | nil => rfl
  | cons e t ih =>
    obtain ⟨a, n, ps⟩ := e
    obtain ⟨hr, hsh, hdis⟩ := hes (a, n, ps) List.mem_cons_self
    simp only at hr hsh hdis
    rw [List.map_cons, List.sum_cons] at hw hhigh
    simp only at hw hhigh
    have hshare : sharesByte v.inst a n dst0 total (s.withDpa M) = false :=
      (sharesByte_same (fun b => (walk_withDpa hM hc b).1) a n dst0 total).trans hsh
    have hfeed := from_feeds v a ps dst n pd p N s hcur (by simpa using hw.part 0 n (by omega)) hr hc hlow (by omega) hdis
    have hM' : Agrees p N s (Memory.write 0 M pd (Memory.read 0 s.mem.dpa ps n)) :=
      hM.write _ _ hlow (by rw [Memory.length_read]; omega)
    have hrest := ih (fun e he => hes e (List.mem_cons_of_mem _ he)) (dst + n) (pd + n) (done + 1) (mv + n) _ hM'
      (hw.part n _ (by omega)) (by omega) (by omega)
    have hjoin : Memory.write 0 (Memory.write 0 M pd (Memory.read 0 s.mem.dpa ps n)) (pd + n) (gathered s.mem.dpa t) =
        Memory.write 0 M pd (gathered s.mem.dpa ((a, n, ps) :: t)) := by
      have := write_append M pd (Memory.read 0 s.mem.dpa ps n) (gathered s.mem.dpa t)
      rw [Memory.length_read] at this
      exact this.symm
    rw [hjoin] at hrest
    rw [List.map_cons]
    show gatherRun v dst0 total ((a, n, true) :: t.map gatherEntry) dst done _ = _
    unfold gatherRun
    dsimp only
    rw [show (Copy.moving mv (s.withDpa M)).s = s.withDpa M from rfl, hshare, copyRun_feeds hfeed mv M hM]
    rw [if_neg (by simp [Copy.moving]), hrest, List.length_cons, List.map_cons, List.sum_cons, Nat.add_assoc done 1,
      Nat.add_comm 1 t.length, Nat.add_assoc mv n]

/-- Byte j of an entry stands where the entries before it end. -/
theorem gathered_byte (m : Memory) (pre post : List (Nat × Nat × Nat)) (e : Nat × Nat × Nat) (j : Nat) (hj : j < e.2.1) :
    (gathered m (pre ++ e :: post)).getD ((pre.map fun e => e.2.1).sum + j) 0 = Memory.get 0 m (e.2.2 + j) := by
  have hsplit : gathered m (pre ++ e :: post) = gathered m pre ++ (Memory.read 0 m e.2.2 e.2.1 ++ gathered m post) := by
    unfold gathered
    rw [List.flatMap_append, List.flatMap_cons]
  rw [hsplit, ← length_gathered m pre, List.getD_append_right _ _ _ _ (by omega), Nat.add_sub_cancel_left,
    List.getD_append _ _ _ _ (by simpa using hj), List.getD_eq_getElem _ _ (by simpa using hj), Memory.getElem_read]

end Sys2Proof.Machine
end

section
/-! PROOFS. DMA_COPY, DMA_GATHER and EVENT (R49, R51, R90, R117, R389, R394 to R396). -/

namespace Sys2Proof.Machine

open Sys2Proof

/-! ### A DMA descriptor starts (R117, R137, R394) -/

/-- The addresses that a DMA descriptor names translate, so none faults (R25). -/
theorem firstRequests_ok (v : Who) (named : List (Access × Nat)) (s : State)
    (h : ∀ e ∈ named, ∃ t, translate v.inst e.1 e.2 s = (.ok t, s)) : firstRequests v named s = (none, s) := by
  induction named with
  | nil => rfl
  | cons e l ih =>
    obtain ⟨acc, a⟩ := e
    obtain ⟨t, ht⟩ := h (acc, a) List.mem_cons_self
    unfold firstRequests
    simp only at ht
    rw [ht]
    exact ih fun e he => h e (List.mem_cons_of_mem _ he)

/-- The channel that takes the descriptor serves it. -/
theorem dmaStart_works (x : Item) (ch : Fin 16) (named : List (Access × Nat)) (work : Who → State → State) (s : State)
    (hch : ((dmaOpen x s).filter fun c => dmaUp c s).head? = some ch) (hg : ∀ c ∈ dmaNamed x s, dmaGranted x.inst c s = true)
    (hn : ∀ e ∈ named, ∃ t, translate x.inst e.1 e.2 s = (.ok t, s)) :
    dmaStart x ch named work s = work (dmaWho ch x) s := by
  have hmem : ch ∈ dmaOpen x s := (List.mem_filter.1 (List.mem_of_mem_head? hch)).1
  have hnamed : ch ∈ dmaNamed x s := (List.mem_filter.1 hmem).1
  have h1 : (dmaNamed x s).isEmpty = false := by
    rw [List.isEmpty_eq_false_iff]
    exact List.ne_nil_of_mem hnamed
  have h2 : (dmaOpen x s).isEmpty = false := by
    rw [List.isEmpty_eq_false_iff]
    exact List.ne_nil_of_mem hmem
  have h3 : ((dmaNamed x s).all fun c => dmaGranted x.inst c s) = true := List.all_eq_true.2 hg
  have hfirst := firstRequests_ok (dmaWho ch x) named s hn
  unfold dmaStart
  simp only [h1, h2, h3, Bool.not_true, Bool.or_self, Bool.false_and, Bool.false_eq_true, if_false, hfirst]

/-- The block once dispatch has started a DMA descriptor, and what it keeps. -/
theorem dma_begins (d op : Nat) (x : Item) (ch : Fin 16) (s : State) (h : DmaStarts d op x ch s) :
    ∃ w : Work, dispatchStart d 1 (dmaReady s) s = s.rework w ∧ findItem d (s.rework w) = some (x.begun s.eph.ticks) ∧
      Calm x.inst (s.rework w) ∧ current (dmaWho ch x) (s.rework w) = true ∧
      ∀ (named : List (Access × Nat)) (work : Who → State → State), (∀ e ∈ named, ∃ t, translate x.inst e.1 e.2 s = (.ok t, s)) →
        dmaStart x ch named work (s.rework w) = work (dmaWho ch x) (s.rework w) := by
  obtain ⟨hstarts, -, hgen, hch, hg⟩ := h
  obtain ⟨w, hw, hfind, hkeep, hcalm⟩ := dispatchStart_calm d op 1 (dmaReady s) x s hstarts
  have hgranted : ∀ c, dmaGranted x.inst c (s.rework w) = dmaGranted x.inst c s := by
    intro c
    unfold dmaGranted
    rw [hkeep.dma x.inst]
  have hnamed : dmaNamed x (s.rework w) = dmaNamed x s := by
    unfold dmaNamed
    simp only [hgranted]
  have hopen : dmaOpen x (s.rework w) = dmaOpen x s := by
    unfold dmaOpen
    rw [hnamed]
    rfl
  refine ⟨w, hw, hfind, hcalm, decide_eq_true ((hkeep.gen x.inst).trans hgen), fun named work hn => ?_⟩
  refine dmaStart_works x ch named work (s.rework w) (by rw [hopen]; exact hch) (fun c hc => ?_) fun e he => ?_
  · rw [hgranted]
    exact hg c (hnamed ▸ hc)
  · obtain ⟨t, ht⟩ := hn e he
    exact ⟨t, by rw [translate_rework, ht]⟩

/-- The dispatcher starts the descriptor, and the channel takes it. -/
theorem dma_next (d op : Nat) (x : Item) (ch : Fin 16) (s : State) (h : DmaStarts d op x ch s) (hlive : live s = true) :
    (live s && x.opcode = op && isNext d 1 (dmaReady s) s && dmaTakes x ch s) = true := by
  obtain ⟨⟨hx, hop, -, ⟨aged, hpick⟩, -⟩, -, -, hch, -⟩ := h
  have hnext : isNext d 1 (dmaReady s) s = true := by
    unfold isNext
    rw [hpick]
    exact decide_eq_true (findItem_id hx)
  have htakes : dmaTakes x ch s = true := by
    unfold dmaTakes
    rw [hch]
    simp
  rw [hlive, hnext, htakes, decide_eq_true hop]
  rfl

/-! ### A DMA descriptor ends (R89 to R93, R391) -/

/-- The outcomes of a copy that has met nothing. -/
def movedOut (mv : Nat) (o : Outcomes) : Outcomes :=
  if 0 < mv then effect { o with poison := o.poison || false } else { o with poison := o.poison || false }

theorem dmaEnd_moving (x : Item) (result mv : Nat) (s : State) :
    dmaEnd x result (.moving mv s) = endItem x.id (BitVec.ofNat 64 result) (movedOut mv) s := rfl

/-- A DMA descriptor that has moved bytes and met nothing completes OK, and memory stays as the copy left it. -/
theorem dmaEnd_completes (d : Nat) (x : Item) (w : Work) (s : State) (m : Memory) (result mv : Nat) (hx : findItem d s = some x)
    (hf : Fresh x s) (hw : findItem d (s.rework w) = some (x.begun s.eph.ticks)) (hc : Calm x.inst (s.rework w)) (h0 : 0 < mv) :
    Completes d 0x00 (BitVec.ofNat 64 result) s (dmaEnd x result (.moving mv ((s.rework w).withDpa m))) ∧
      (dmaEnd x result (.moving mv ((s.rework w).withDpa m))).mem.dpa = m := by
  obtain ⟨hout, hlast, -, hreset, -, hpassed, hbefore⟩ := hf
  have hid := findItem_id hx
  have hfind : findItem d ((s.rework w).withDpa m) = some (x.begun s.eph.ticks) := hw
  have hcalm : Calm x.inst ((s.rework w).withDpa m) := hc
  have hstamp : stampNow ((s.rework w).withDpa m) = stampNow s := rfl
  have hlate : ∀ o, endsLate (x.begun s.eph.ticks) o (doneAt (x.begun s.eph.ticks) ((s.rework w).withDpa m)).rts = false := by
    intro o
    have h1 : doneAt (x.begun s.eph.ticks) ((s.rework w).withDpa m) = stampNow s := by
      show x.last.getD (stampNow ((s.rework w).withDpa m)) = stampNow s
      rw [hlast, hstamp]
      rfl
    rw [h1]
    show (x.opcode != 8 && x.opcode != 7 && (o.effect || allEffects (statusOf o)) && (beforeRelease x || passed x.deadline s.eph.now)) = false
    rw [hbefore, hpassed]
    simp
  have hdpa : ((s.rework w).withDpa m).mem.dpa = m := rfl
  generalize (s.rework w).withDpa m = u at hfind hcalm hlate hdpa
  have hend : (endedItem (x.begun s.eph.ticks) (BitVec.ofNat 64 result) (movedOut mv) u).out = effect {} := by
    have ho : movedOut mv (x.begun s.eph.ticks).out = effect {} := by
      show movedOut mv x.out = effect {}
      rw [hout]
      unfold movedOut
      rw [if_pos h0]
      rfl
    show ({ movedOut mv (x.begun s.eph.ticks).out with
      late := (movedOut mv (x.begun s.eph.ticks).out).late || endsLate _ _ (doneAt _ u).rts } : Outcomes) = _
    rw [hlate, ho]
    rfl
  obtain ⟨-, hdone⟩ := endItem_completes d (BitVec.ofNat 64 result) (movedOut mv) u _ hfind (by simp [Item.begun]) hreset
  have hmem := endItem_calm d (BitVec.ofNat 64 result) (movedOut mv) u _ hfind (by simp [Item.begun]) hreset hcalm
  rw [hend] at hdone
  rw [dmaEnd_moving, hid]
  exact ⟨hdone.earlier hx hfind rfl rfl rfl rfl, by rw [hmem, hdpa]⟩

/-- A range that maps to good bytes does so whatever the work. -/
theorem MapsRange.rework {i : InstId} {acc : Access} {a n q : Nat} {s : State} (h : MapsRange i acc a n q s) (w : Work) :
    MapsRange i acc a n q (s.rework w) := by
  intro j hj
  obtain ⟨ht, hg⟩ := h j hj
  exact ⟨by rw [translate_rework, ht], hg⟩

theorem sharesByte_rework (i : InstId) (a n b m : Nat) (s : State) (w : Work) :
    sharesByte i a n b m (s.rework w) = sharesByte i a n b m s :=
  sharesByte_same (s := s) (t := s.rework w) (fun a => walk_rework w _ s a) a n b m

theorem MapsRange.translates {i : InstId} {acc : Access} {a n q : Nat} {s : State} (h : MapsRange i acc a n q s) (h0 : 0 < n) :
    ∃ t, translate i acc a s = (.ok t, s) := ⟨_, (h 0 h0).1⟩

/-- What a run of copies leaves when it has put these bytes at pd. -/
theorem moved_bytes (s t : State) (pd : Nat) (D : List Byte) (hwf : Memory.wf 0 s.mem.dpa = true)
    (ht : t.mem.dpa = Memory.write 0 s.mem.dpa pd D) : (∀ j < D.length, t.byte (pd + j) = D.getD j 0) ∧
      ∀ b, b < pd ∨ pd + D.length ≤ b → t.byte b = s.byte b := by
  refine ⟨fun j hj => ?_, fun b hb => ?_⟩
  · unfold State.byte
    rw [ht]
    exact get_write_inside _ _ _ _ hwf hj
  · unfold State.byte
    rw [ht]
    exact get_write_outside _ _ _ _ hwf hb

/-! ### DMA_COPY (R394, R395) -/

/-- A DMA_COPY whose requests feed these bytes. -/
theorem dmaCopy_moves (s : State) (d : Nat) (x : Item) (ch : Fin 16) (pd : Nat) (D : List Byte) (src : CopySrc) (hlive : live s = true)
    (hwf : Memory.wf 0 s.mem.dpa = true) (hstart : DmaStarts d 2 x ch s) (h0 : 0 < dfield x.raw 40 4)
    (hnames : ∀ e ∈ dmaCopyNames x, ∃ t, translate x.inst e.1 e.2 s = (.ok t, s))
    (hsrc : (if dfield x.raw 45 1 = 1 then CopySrc.fill (BitVec.ofNat 8 (dfield x.raw 46 1))
      else .from_ (dfield x.raw 24 8) (sharesByte x.inst (dfield x.raw 24 8) (dfield x.raw 40 4) (dfield x.raw 32 8) (dfield x.raw 40 4) s)) = src)
    (hfeed : ∀ w, current (dmaWho ch x) (s.rework w) = true →
      Feeds (dmaWho ch x) src (dfield x.raw 32 8) (dfield x.raw 40 4) pd D pd (dfield x.raw 40 4) (s.rework w)) :
    ∃ t, exec (.dmaCopy d ch none) s = .next t ∧ Completes d 0x00 (BitVec.ofNat 64 (dfield x.raw 40 4)) s t ∧
      t.mem.dpa = Memory.write 0 s.mem.dpa pd D := by
  have harm : exec (.dmaCopy d ch none) s = execDmaCopy d ch none s := rfl
  obtain ⟨w, hw, hfind, hcalm, hcur, hwork⟩ := dma_begins d 2 x ch s hstart
  have hx : findItem d s = some x := hstart.1.1
  have hrun : dmaCopyRun x (dmaWho ch x) (s.rework w) = dmaEnd x (dfield x.raw 40 4)
      (.moving (dfield x.raw 40 4) ((s.rework w).withDpa (Memory.write 0 s.mem.dpa pd D))) := by
    have hcopy := copyRun_feeds (hfeed w hcur) 0 s.mem.dpa ⟨hwf, fun _ _ => rfl⟩
    rw [Nat.zero_add] at hcopy
    unfold dmaCopyRun
    dsimp only
    rw [sharesByte_rework, hsrc]
    rw [show ({ s := s.rework w } : Copy) = .moving 0 ((s.rework w).withDpa s.mem.dpa) from rfl, hcopy]
    rfl
  have hexec : exec (.dmaCopy d ch none) s = .next (dmaCopyRun x (dmaWho ch x) (s.rework w)) := by
    rw [harm]
    unfold execDmaCopy
    simp only [hx, dma_next d 2 x ch s hstart hlive, act_true]
    rw [show ∀ u, upset none u = u from fun _ => rfl, hw, hwork _ _ hnames]
  obtain ⟨hdone, hmem⟩ := dmaEnd_completes d x w s (Memory.write 0 s.mem.dpa pd D) (dfield x.raw 40 4) (dfield x.raw 40 4) hx
    hstart.2.1 hfind hcalm h0
  exact ⟨_, hexec.trans (congrArg Host.Outcome.next hrun), hdone, hmem⟩

/-- A DMA_COPY of bytes. -/
theorem dmaCopy_copies (s : State) (d : Nat) (x : Item) (ch : Fin 16) (ps pd : Nat) (hlive : live s = true)
    (hwf : Memory.wf 0 s.mem.dpa = true) (hstart : DmaStarts d 2 x ch s) (h0 : 0 < dfield x.raw 40 4)
    (hw : MapsRange x.inst .write (dfield x.raw 32 8) (dfield x.raw 40 4) pd s) (hc : TablesClear x.inst pd (dfield x.raw 40 4) s)
    (hmode : dfield x.raw 45 1 = 0) (hr : MapsRange x.inst .read (dfield x.raw 24 8) (dfield x.raw 40 4) ps s)
    (hshare : sharesByte x.inst (dfield x.raw 24 8) (dfield x.raw 40 4) (dfield x.raw 32 8) (dfield x.raw 40 4) s = false)
    (hdis : ps + dfield x.raw 40 4 ≤ pd ∨ pd + dfield x.raw 40 4 ≤ ps) :
    ∃ t, exec (.dmaCopy d ch none) s = .next t ∧ Completes d 0x00 (BitVec.ofNat 64 (dfield x.raw 40 4)) s t ∧
      (∀ j < dfield x.raw 40 4, t.byte (pd + j) = s.byte (ps + j)) ∧
      ∀ b, b < pd ∨ pd + dfield x.raw 40 4 ≤ b → t.byte b = s.byte b := by
  have hne : ¬ dfield x.raw 45 1 = 1 := by rw [hmode]; decide
  have hnames : ∀ e ∈ dmaCopyNames x, ∃ t, translate x.inst e.1 e.2 s = (.ok t, s) := by
    intro e he
    unfold dmaCopyNames at he
    rw [if_neg hne] at he
    rcases List.mem_append.1 he with he | he
    · rw [List.mem_singleton.1 he]
      exact hr.translates h0
    · rw [List.mem_singleton.1 he]
      exact hw.translates h0
  obtain ⟨t, hexec, hdone, hmem⟩ := dmaCopy_moves s d x ch pd (Memory.read 0 s.mem.dpa ps (dfield x.raw 40 4))
    (.from_ (dfield x.raw 24 8) false) hlive hwf hstart h0 hnames (by rw [if_neg hne, hshare]) fun w hcur =>
      from_feeds (dmaWho ch x) _ ps _ _ pd pd _ (s.rework w) hcur (hw.rework w) (hr.rework w) hc (Nat.le_refl _) (Nat.le_refl _) hdis
  obtain ⟨hin, hout⟩ := moved_bytes s t pd _ hwf hmem
  rw [Memory.length_read] at hin hout
  refine ⟨t, hexec, hdone, fun j hj => ?_, hout⟩
  rw [hin j hj, List.getD_eq_getElem _ _ (by simpa using hj), Memory.getElem_read]
  rfl

/-- A DMA_COPY that fills. -/
theorem dmaCopy_fills (s : State) (d : Nat) (x : Item) (ch : Fin 16) (pd : Nat) (hlive : live s = true)
    (hwf : Memory.wf 0 s.mem.dpa = true) (hstart : DmaStarts d 2 x ch s) (h0 : 0 < dfield x.raw 40 4)
    (hw : MapsRange x.inst .write (dfield x.raw 32 8) (dfield x.raw 40 4) pd s) (hc : TablesClear x.inst pd (dfield x.raw 40 4) s)
    (hmode : dfield x.raw 45 1 = 1) :
    ∃ t, exec (.dmaCopy d ch none) s = .next t ∧ Completes d 0x00 (BitVec.ofNat 64 (dfield x.raw 40 4)) s t ∧
      (∀ j < dfield x.raw 40 4, t.byte (pd + j) = BitVec.ofNat 8 (dfield x.raw 46 1)) ∧
      ∀ b, b < pd ∨ pd + dfield x.raw 40 4 ≤ b → t.byte b = s.byte b := by
  have hnames : ∀ e ∈ dmaCopyNames x, ∃ t, translate x.inst e.1 e.2 s = (.ok t, s) := by
    intro e he
    unfold dmaCopyNames at he
    rw [if_pos hmode, List.nil_append] at he
    rw [List.mem_singleton.1 he]
    exact hw.translates h0
  obtain ⟨t, hexec, hdone, hmem⟩ := dmaCopy_moves s d x ch pd
    (List.replicate (dfield x.raw 40 4) (BitVec.ofNat 8 (dfield x.raw 46 1))) (.fill _) hlive hwf hstart h0 hnames (if_pos hmode)
    fun w hcur => fill_feeds (dmaWho ch x) _ _ _ pd pd _ (s.rework w) hcur (hw.rework w) hc (Nat.le_refl _) (Nat.le_refl _)
  obtain ⟨hin, hout⟩ := moved_bytes s t pd _ hwf hmem
  rw [List.length_replicate] at hin hout
  refine ⟨t, hexec, hdone, fun j hj => ?_, hout⟩
  rw [hin j hj, List.getD_replicate _ hj]

/-! ### DMA_GATHER (R396) -/

/-- The list of a gather reads the same once its descriptor has started. -/
theorem list_reads (x : Item) (ch : Fin 16) (a n : Nat) (s : State) (l : List Byte) (w : Work) (h : ReadsAs x.inst a n s l)
    (hcur : current (dmaWho ch x) (s.rework w) = true) :
    readIva (dmaWho ch x) a n (s.rework w) = ⟨none, l, false, s.rework w⟩ := by
  have herr : (readIva { inst := x.inst, src := 0, gen := s.inst[x.inst.val].gen } a n s).err = none := by rw [h]
  have := readChunks_rework w { inst := x.inst, src := 0, gen := s.inst[x.inst.val].gen } (dmaWho ch x) rfl (chunks a n)
    ⟨none, [], false, s⟩ rfl (fun u hu => ?_) herr
  · exact this.trans (congrArg (fun r : RdRes => r.rework w) h)
  · have h1 : current { inst := x.inst, src := 0, gen := s.inst[x.inst.val].gen } u = true := by
      unfold current
      rw [show u.inst = s.inst from hu]
      exact decide_eq_true rfl
    rw [h1]
    exact hcur

/-- A DMA_GATHER of entries that are whole. -/
theorem dmaGather_gathers (s : State) (d : Nat) (x : Item) (ch : Fin 16) (pd : Nat) (l : List Byte) (es : List (Nat × Nat × Nat))
    (total : Nat) (hlive : live s = true) (hwf : Memory.wf 0 s.mem.dpa = true) (hstart : DmaStarts d 3 x ch s)
    (hlist : ReadsAs x.inst (dfield x.raw 24 8) (16 * dfield x.raw 40 4) s l)
    (hfirst : ∃ p, translate x.inst .read (dfield x.raw 24 8) s = (.ok (.dpa p), s)) (htotal : total = (es.map fun e => e.2.1).sum)
    (h0 : 0 < total) (hsmall : total < 2 ^ 32) (hes : gatherEntries (dfield x.raw 40 4) l = es.map fun e => (e.1, e.2.1, true))
    (hw : MapsRange x.inst .write (dfield x.raw 32 8) total pd s) (hc : TablesClear x.inst pd total s)
    (hsrc : ∀ e ∈ es, MapsRange x.inst .read e.1 e.2.1 e.2.2 s ∧ sharesByte x.inst e.1 e.2.1 (dfield x.raw 32 8) total s = false ∧
      (e.2.2 + e.2.1 ≤ pd ∨ pd + total ≤ e.2.2)) :
    ∃ t, exec (.dmaGather d ch none) s = .next t ∧ Completes d 0x00 (BitVec.ofNat 64 (total + 2 ^ 32 * es.length)) s t ∧
      t.mem.dpa = Memory.write 0 s.mem.dpa pd (gathered s.mem.dpa es) := by
  have harm : exec (.dmaGather d ch none) s = execDmaGather d ch none s := rfl
  obtain ⟨w, hwk, hfind, hcalm, hcur, hwork⟩ := dma_begins d 3 x ch s hstart
  have hx : findItem d s = some x := hstart.1.1
  have hread := list_reads x ch _ _ s l w hlist hcur
  have hall : (es.map gatherEntry).any (fun e => !e.2.2) = false := by
    rw [List.any_eq_false]
    intro e he
    obtain ⟨e', -, rfl⟩ := List.mem_map.1 he
    simp [gatherEntry]
  have hsum : ((es.map gatherEntry).map fun e => e.2.1).sum = total := by
    rw [htotal, List.map_map]
    rfl
  have hgather := gatherRun_feeds (dmaWho ch x) (dfield x.raw 32 8) total pd total (s.rework w) hcur hc es
    (fun e he => ⟨(hsrc e he).1.rework w, (sharesByte_rework _ _ _ _ _ _ _).trans (hsrc e he).2.1, (hsrc e he).2.2⟩)
    (dfield x.raw 32 8) pd 0 0 s.mem.dpa ⟨hwf, fun _ _ => rfl⟩ (by rw [← htotal]; exact hw.rework w) (Nat.le_refl _)
    (by rw [← htotal])
  rw [← htotal, Nat.zero_add, Nat.zero_add] at hgather
  have hrun : dmaGatherRun x (dmaWho ch x) (s.rework w) = dmaEnd x (total + 2 ^ 32 * es.length)
      (.moving total ((s.rework w).withDpa (Memory.write 0 s.mem.dpa pd (gathered s.mem.dpa es)))) := by
    unfold dmaGatherRun
    simp only [hread, Bool.false_eq_true, if_false]
    rw [show gatherEntries (dfield x.raw 40 4) l = es.map gatherEntry from hes, hall, if_neg (by simp), hsum,
      show ({ s := s.rework w } : Copy) = .moving 0 ((s.rework w).withDpa s.mem.dpa) from rfl, hgather]
    dsimp only
    rw [show ∀ u, (Copy.moving total u).moved = total from fun _ => rfl, Nat.mod_eq_of_lt hsmall]
    rfl
  have hexec : exec (.dmaGather d ch none) s = .next (dmaGatherRun x (dmaWho ch x) (s.rework w)) := by
    rw [harm]
    unfold execDmaGather
    simp only [hx, dma_next d 3 x ch s hstart hlive, act_true]
    rw [show ∀ u, upset none u = u from fun _ => rfl, hwk, hwork]
    intro e he
    rcases List.mem_cons.1 he with rfl | he
    · obtain ⟨p, hp⟩ := hfirst
      exact ⟨_, hp⟩
    · rw [List.mem_singleton.1 he]
      exact hw.translates h0
  obtain ⟨hdone, hmem⟩ := dmaEnd_completes d x w s (Memory.write 0 s.mem.dpa pd (gathered s.mem.dpa es)) (total + 2 ^ 32 * es.length)
    total hx hstart.2.1 hfind hcalm h0
  exact ⟨_, hexec.trans (congrArg Host.Outcome.next hrun), hdone, hmem⟩

/-! ### EVENT (R49, R51, R90, R117) -/

/-- An action not before any in the queue takes the last place. -/
theorem evtInsert_last (a : EvtAction) (q : List EvtAction) (h : ∀ b ∈ q, b.rts.toNat ≤ a.rts.toNat) : evtInsert a q = q ++ [a] := by
  unfold evtInsert
  induction q with
  | nil => rfl
  | cons b t ih =>
    unfold insertBy
    rw [if_neg (by simpa using h b List.mem_cons_self), ih fun c hc => h c (List.mem_cons_of_mem _ hc)]
    rfl

/-- An EVENT that is ready, by what its pin holds. -/
theorem event_executes (s : State) (d : Nat) (x : Item) (hlive : live s = true) (hx : findItem d s = some x) (hop : x.opcode = 8)
    (hst : x.stage = .ready) (hh : ∀ a ∈ (s.evt[(evtPinOf x).val]).held, a.item ≠ d) : exec (.event d) s = .next
      (if (s.evt[(evtPinOf x).val]).queue.length < 16 && (s.evt[(evtPinOf x).val]).held.isEmpty then
        eventStart d (evtActionOf x) (evtPinOf x) s
      else modPin (evtPinOf x) (fun p => { p with held := p.held ++ [evtActionOf x] }) s) := by
  have harm : exec (.event d) s = execEvent d s := rfl
  have hitem : isItem d 8 .ready s = true := by simp [isItem, hx, hop, hst]
  have hany : ((s.evt[(evtPinOf x).val]).held.any fun a => decide (a.item = d)) = false := by
    rw [List.any_eq_false]
    intro a ha
    simpa using hh a ha
  rw [harm]
  unfold execEvent
  simp only [hx, hlive, hitem, hany, Bool.not_false, Bool.and_true, act_true]

/-- Settles O46: the run of each copy, and the start of an EVENT. -/
theorem dmaAndEvents : Obligations.DmaAndEvents := by
  unfold Obligations.DmaAndEvents
  refine ⟨fun s d x ch pd hlive hwf => ⟨fun ps hstart h0 hw hc => ⟨fun hmode hr hshare hdis => ?_, fun hmode => ?_⟩,
    fun l es total hstart hlist hfirst htotal h0 hsmall hes hw hc hsrc => ?_⟩, fun s d x hlive hx hop hst _ => ?_⟩
  · exact dmaCopy_copies s d x ch ps pd hlive hwf hstart h0 hw hc hmode hr hshare hdis
  · exact dmaCopy_fills s d x ch pd hlive hwf hstart h0 hw hc hmode
  · obtain ⟨t, hexec, hdone, hmem⟩ := dmaGather_gathers s d x ch pd l es total hlive hwf hstart hlist hfirst htotal h0 hsmall hes hw hc hsrc
    obtain ⟨hin, hout⟩ := moved_bytes s t pd _ hwf hmem
    rw [length_gathered, ← htotal] at hin hout
    refine ⟨t, hexec, hdone, fun pre e post hsplit j hj => ?_, hout⟩
    rw [Nat.add_assoc, hin _ ?_, hsplit, gathered_byte _ _ _ _ _ hj]
    · rfl
    · rw [htotal, hsplit, List.map_append, List.sum_append, List.map_cons, List.sum_cons]
      omega
  · have hexec := event_executes s d x hlive hx hop hst
    obtain ⟨hgo, hno⟩ := eventStart_starts d (evtActionOf x) (evtPinOf x) s x hx
    refine ⟨fun hb hroom hheld => ?_, fun hfull hh => ?_, fun hb hf hroom hheld => ?_⟩
    · obtain ⟨hevt, hitem⟩ := hgo hb
      have := hexec (by rw [hheld]; intro a ha; cases ha)
      rw [hheld, decide_eq_true hroom, List.isEmpty_nil, Bool.and_self, if_pos rfl] at this
      refine ⟨_, this, hitem, hevt, fun hlast => ?_⟩
      rw [hevt, upd_same]
      exact evtInsert_last _ _ hlast
    · rw [hexec hh, if_neg]
      rw [Bool.and_eq_true, decide_eq_true_eq, List.isEmpty_iff]
      rintro ⟨h1, h2⟩
      rcases hfull with h | h
      · exact absurd h1 (Nat.not_lt.2 h)
      · exact h h2
    · obtain ⟨hevt, hdone⟩ := hno hb hf.1 hop hf.2.2.2.1
      have hresult : x.result = 0 := by
        rw [hf.2.2.1, firstResult, if_neg]
        rw [show dfield x.raw 0 1 = 8 from hop]
        decide
      have := hexec (by rw [hheld]; intro a ha; cases ha)
      rw [hheld, decide_eq_true hroom, List.isEmpty_nil, Bool.and_self, if_pos rfl] at this
      rw [hresult] at hdone
      exact ⟨_, this, hevt, hdone⟩

end Sys2Proof.Machine
end

section
/-! PROOFS. Runs of L128 additions to consecutive words of a memory (R267 to R272, R288). -/

namespace Sys2Proof.Machine

open Sys2Proof

/-! ### Additions to consecutive words -/

/-- The L128 word at an address. -/
def wordAt (m : Memory) (a : Nat) : BitVec 128 := BitVec.ofNat 128 (leNat (Memory.read 0 m a 16))

/-- A memory whose words from a on have taken these addends. -/
def laddMem : Memory → Nat → List (BitVec 128) → Memory
  | m, _, [] => m
  | m, a, v :: t => laddMem (Memory.write 0 m a (leBytes 16 (sumL128 (wordAt m a) v).toNat)) (a + 16) t

/-- One of these additions meets or gives INF. -/
def laddInf : Memory → Nat → List (BitVec 128) → Bool
  | _, _, [] => false
  | m, a, v :: t => decide (sumL128 (wordAt m a) v = 1#128 <<< 127) ||
      laddInf (Memory.write 0 m a (leBytes 16 (sumL128 (wordAt m a) v).toNat)) (a + 16) t

/-- What the additions leave: the sums, every other byte as before, and INF where one gave it. -/
def Added (m m' : Memory) (a : Nat) (vs : List (BitVec 128)) (inf : Bool) : Prop :=
  (inf = true ↔ ∃ i < vs.length, sumL128 (wordAt m (a + 16 * i)) (vs.getD i 0) = 1#128 <<< 127) ∧
    (∀ i < vs.length, leNat (Memory.read 0 m' (a + 16 * i) 16) = (sumL128 (wordAt m (a + 16 * i)) (vs.getD i 0)).toNat) ∧
    ∀ b, b < a ∨ a + 16 * vs.length ≤ b → Memory.get 0 m' b = Memory.get 0 m b

theorem laddMem_added (m : Memory) (a : Nat) (vs : List (BitVec 128)) (hwf : Memory.wf 0 m = true) :
    Memory.wf 0 (laddMem m a vs) = true ∧ Added m (laddMem m a vs) a vs (laddInf m a vs) := by
  induction vs generalizing m a with
  | nil => exact ⟨hwf, by simp [laddInf], fun i hi => absurd hi (by simp), fun b _ => rfl⟩
  | cons v t ih =>
    have hwf1 := Memory.wf_write 0 m a (leBytes 16 (sumL128 (wordAt m a) v).toNat) hwf
    have hout1 : ∀ b, b < a ∨ a + 16 ≤ b →
        Memory.get 0 (Memory.write 0 m a (leBytes 16 (sumL128 (wordAt m a) v).toNat)) b = Memory.get 0 m b := fun b hb =>
      get_write_outside m a b _ hwf (by rw [length_leBytes]; exact hb)
    have hin1 : Memory.read 0 (Memory.write 0 m a (leBytes 16 (sumL128 (wordAt m a) v).toNat)) a 16 =
        leBytes 16 (sumL128 (wordAt m a) v).toNat := by
      apply List.ext_getElem (by simp)
      intro j hj hj'
      rw [Memory.getElem_read, get_write_inside m a j _ hwf hj', List.getD_eq_getElem _ _ hj']
    have hsum := (sumL128 (wordAt m a) v).isLt
    unfold laddMem laddInf
    generalize Memory.write 0 m a (leBytes 16 (sumL128 (wordAt m a) v).toNat) = m1 at hwf1 hout1 hin1
    have hold : ∀ i, wordAt m1 (a + 16 + 16 * i) = wordAt m (a + 16 * (i + 1)) := by
      intro i
      unfold wordAt
      rw [show a + 16 * (i + 1) = a + 16 + 16 * i by omega, read_same m1 m _ _ fun j _ => hout1 _ (by omega)]
    obtain ⟨hwf2, hinf, hwords, hout⟩ := ih m1 (a + 16) hwf1
    refine ⟨hwf2, ?_, fun i hi => ?_, fun b hb => ?_⟩
    · rw [Bool.or_eq_true, decide_eq_true_eq, hinf]
      constructor
      · rintro (h | ⟨i, hi, h⟩)
        · exact ⟨0, by simp, h⟩
        · exact ⟨i + 1, by simpa using hi, by rw [← hold i]; exact h⟩
      · rintro ⟨i, hi, h⟩
        cases i with
        | zero => exact .inl h
        | succ i =>
          refine .inr ⟨i, by simpa using hi, ?_⟩
          rw [hold i]
          exact h
    · cases i with
      | zero =>
        simp only [Nat.mul_zero, Nat.add_zero, List.getD_cons_zero]
        rw [read_same _ m1 a 16 fun j hj => hout _ (.inl (by omega)), hin1, leNat_leBytes, show (256 : Nat) ^ 16 = 2 ^ 128 by norm_num,
          Nat.mod_eq_of_lt hsum]
      | succ i =>
        have := hwords i (by simpa using hi)
        rw [show a + 16 * (i + 1) = a + 16 + 16 * i by omega, this, hold i, show a + 16 + 16 * i = a + 16 * (i + 1) by omega]
        rfl
    · rw [List.length_cons] at hb
      rw [hout b (by omega)]
      exact hout1 b (by omega)

/-! ### Flags of the additions (R270, R272) -/

theorem flagIf_or (a b : Bool) (f : Word) : flagIf (a || b) f = flagIf a f ||| flagIf b f := by
  cases a <;> cases b <;> simp [flagIf]

/-- The range flag of a list of addends. -/
theorem rangeFlags_eq (vs : List (BitVec 128)) (fl : Word) :
    vs.foldl (fun f v => f ||| rangeFlag (valL128 v)) fl = fl ||| flagIf (vs.any beyondWindow) 2 := by
  induction vs generalizing fl with
  | nil => simp [flagIf]
  | cons v t ih => rw [List.foldl_cons, ih, rangeFlag_eq, List.any_cons, flagIf_or, BitVec.or_assoc]

/-! ### The words of a slot (R155, R273) -/

theorem l128sOf_read (m : Memory) (a n : Nat) :
    l128sOf n (Memory.read 0 m a (16 * n)) = (List.range n).map fun i => wordAt m (a + 16 * i) := by
  induction n generalizing a with
  | zero => rfl
  | succ n ih =>
    rw [show 16 * (n + 1) = 16 + 16 * n by omega, read_add, l128sOf, List.take_left' (Memory.length_read _ _ _ _),
      List.drop_left' (Memory.length_read _ _ _ _), ih, List.range_succ_eq_map, List.map_cons, List.map_map]
    refine congrArg₂ List.cons rfl (List.map_congr_left fun i _ => ?_)
    show wordAt m (a + 16 + 16 * i) = wordAt m (a + 16 * (i + 1))
    rw [show a + 16 * (i + 1) = a + 16 + 16 * i by omega]

/-- The words of a slot, one by one. -/
theorem slotWords_eq (k : Core) (n : Fin 64) : slotWords k n = (List.range 256).map (slotWord k n.val) := by
  have h := l128sOf_read k.mem (slotBase n.val) 256
  unfold slotWords localBytes
  rw [show (4096 : Nat) = 16 * 256 from rfl, h]
  refine List.map_congr_left fun i _ => ?_
  unfold slotWord wordAt slotBase accBase
  rw [Nat.mul_comm n.val 4096]

theorem length_slotWords (k : Core) (n : Fin 64) : (slotWords k n).length = 256 := by
  rw [slotWords_eq, List.length_map, List.length_range]

theorem getD_slotWords (k : Core) (n : Fin 64) (i : Nat) (h : i < 256) : (slotWords k n).getD i 0 = slotWord k n.val i := by
  rw [slotWords_eq, List.getD_eq_getElem _ _ (by simpa using h), List.getElem_map, List.getElem_range]

theorem any_slotWords (k : Core) (n : Fin 64) : ((slotWords k n).any beyondWindow = true) ↔ ∃ i < 256, beyondWindow (slotWord k n.val i) = true := by
  rw [slotWords_eq, List.any_eq_true]
  constructor
  · rintro ⟨v, hv, h⟩
    obtain ⟨i, hi, rfl⟩ := List.mem_map.1 hv
    exact ⟨i, List.mem_range.1 hi, h⟩
  · rintro ⟨i, hi, h⟩
    exact ⟨_, List.mem_map.2 ⟨i, List.mem_range.2 hi, rfl⟩, h⟩

/-- The words as they leave for another node. -/
theorem payload_words (vs : List (BitVec 128)) : (vs.flatMap fun v => leBytes 16 v.toNat).length = 16 * vs.length ∧
    ∀ i < vs.length, leNat (((vs.flatMap fun v => leBytes 16 v.toNat).drop (16 * i)).take 16) = (vs.getD i 0).toNat := by
  induction vs with
  | nil => exact ⟨rfl, fun i hi => absurd hi (by simp)⟩
  | cons v t ih =>
    obtain ⟨hlen, hwords⟩ := ih
    rw [List.flatMap_cons]
    refine ⟨by rw [List.length_append, length_leBytes, hlen, List.length_cons]; omega, fun i hi => ?_⟩
    cases i with
    | zero =>
      rw [Nat.mul_zero, List.drop_zero, List.take_left' (length_leBytes _ _), leNat_leBytes,
        show (256 : Nat) ^ 16 = 2 ^ 128 by norm_num, Nat.mod_eq_of_lt v.isLt]
      rfl
    | succ i =>
      rw [show 16 * (i + 1) = (leBytes 16 v.toNat).length + 16 * i by rw [length_leBytes]; omega, List.drop_append]
      rw [List.drop_eq_nil_of_le (by omega), List.nil_append, Nat.add_sub_cancel_left]
      exact hwords i (by simpa using hi)

end Sys2Proof.Machine
end

section
/-! PROOFS. LADDT (R44, R206, R209, R211, R270, R272, R280, R288, R464 to R466). -/

namespace Sys2Proof.Machine

open Sys2Proof

/-! ### Local space -/

/-- A core whose words from a on have taken these addends at this moment. -/
def Core.added (a : Nat) (vs : List (BitVec 128)) (now : Stamp) (k : Core) : Core :=
  { k with mem := laddMem k.mem a vs, last := if vs.isEmpty then k.last else some now }

theorem zero_or_flag (f : Word) : 0 ||| f = f := BitVec.zero_or

theorem or_pairs (f x i y j : Word) : f ||| x ||| i ||| y ||| j = f ||| (x ||| y) ||| (i ||| j) := by ac_rfl

theorem Core.wrote_mem (k : Core) (a : Nat) (d : List Byte) (t : Stamp) : (k.wrote a d t).mem = Memory.write 0 k.mem a d := rfl

/-- The adds of a list, after the first has written its word. -/
theorem Core.added_wrote (k : Core) (a : Nat) (v : BitVec 128) (t : List (BitVec 128)) (now : Stamp) :
    Core.added (a + 16) t now (k.wrote a (leBytes 16 (sumL128 (wordAt k.mem a) v).toNat) now) = Core.added a (v :: t) now k := by
  unfold Core.added
  rw [laddMem, Core.wrote_mem]
  generalize leBytes 16 (sumL128 (wordAt k.mem a) v).toNat = d
  cases t <;> rfl

/-- The first of the adds in local space, and the rest. -/
theorem localLaddt_cons (c : CoreId) (a : Nat) (v : BitVec 128) (t : List (BitVec 128)) (fl : Word) (s : State) (d : List Byte) (inf : Bool)
    (hr : NoRace (some .ni) s.cores[c.val]) (hd : laddBytes v (localBytes s.cores[c.val] a 16) = (d, inf)) :
    localLaddt c a (v :: t) fl s = localLaddt c (a + 16) t (fl ||| rangeFlag (valL128 v) ||| flagIf inf flagInf) (localPut c a d s) := by
  rw [localLaddt]
  simp only [localRead_noRace hr, hd, localWrite_noRace hr]

/-- The adds in local space, one after the other. -/
theorem localLaddt_adds (c : CoreId) (a : Nat) (vs : List (BitVec 128)) (fl : Word) (s : State)
    (hr : NoRace (some .ni) s.cores[c.val]) (ha : a % 16 = 0) : localLaddt c a vs fl s =
      (fl ||| flagIf (vs.any beyondWindow) 2 ||| flagIf (laddInf s.cores[c.val].mem a vs) 4,
        modCore c (Core.added a vs (stampNow s)) s) := by
  induction vs generalizing a fl s with
  | nil =>
    refine Prod.ext ?_ (modCore_self c s).symm
    simp [localLaddt, laddInf, flagIf]
  | cons v t ih =>
    have hcore : (modCore c (fun k => k.wrote a (leBytes 16 (sumL128 (wordAt s.cores[c.val].mem a) v).toNat) (stampNow s)) s).cores[c.val] =
        s.cores[c.val].wrote a (leBytes 16 (sumL128 (wordAt s.cores[c.val].mem a) v).toNat) (stampNow s) := by
      rw [modCore_cores, upd_same]
    have hput := localPut_part c a (leBytes 16 (sumL128 (wordAt s.cores[c.val].mem a) v).toNat) s (by rw [length_leBytes]; decide)
      (by rw [length_leBytes]; decide) (by rw [length_leBytes]; omega)
    have hladd : laddBytes v (localBytes s.cores[c.val] a 16) = (leBytes 16 (sumL128 (wordAt s.cores[c.val].mem a) v).toNat,
        decide (sumL128 (wordAt s.cores[c.val].mem a) v = 1#128 <<< 127)) := laddBytes_eq v _
    rw [localLaddt_cons c a v t fl s _ _ hr hladd, hput]
    rw [ih (a + 16) _ _ (by rw [hcore]; exact hr) (by omega), hcore, Core.wrote_mem, laddInf, modCore_modCore, List.any_cons,
      rangeFlag_eq, flagIf_or, flagIf_or, show flagInf = 4 from rfl, or_pairs]
    refine Prod.ext rfl (modCore_congr ?_)
    exact Core.added_wrote _ a v t _

/-! ### Global space -/

/-- The lines of a mapped range hold no poison. -/
theorem linesPoisoned_maps (v : Who) (a n p : Nat) (s : State) (hc : current v s = true)
    (hm : MapsRange v.inst .atomic a (64 * n) p s) : linesPoisoned v a n s = (false, s) := by
  induction n generalizing a p with
  | zero => rfl
  | succ n ih =>
    obtain ⟨ht, hg⟩ := hm 0 (by omega)
    have hnp : linePoisoned s p = false := by simpa [linePoisoned] using hg.2.2.1
    have hrest := ih (a + 64) (p + 64) (hm.part 64 (64 * n) (by omega))
    rw [Nat.add_zero, Nat.add_zero] at ht
    unfold linesPoisoned
    rw [hc, if_neg (by simp), ht]
    obtain ⟨hregion, hout, -, hlat⟩ := hg
    rw [Nat.add_zero] at hregion hout
    rcases hregion with ⟨ch, hr⟩ | ⟨ch, hr⟩ <;>
      simp only [hr, hout, findErrors_clean p s hlat, hnp, Bool.false_eq_true, if_false, hrest]

theorem putDpa_withDpa (p : Nat) (d : List Byte) (s : State) (m : Memory) :
    putDpa p d (s.withDpa m) = s.withDpa (Memory.write 0 m p d) := rfl

/-- The first of the adds at an IVA, where it is performed, and the rest. -/
theorem laddEach_cons (v : Who) (a : Nat) (x : BitVec 128) (t : List (BitVec 128)) (s u : State) (d0 d : List Byte) (i0 i : Bool)
    (h : atomIva v a 16 (laddBytes x) s = ⟨none, false, d, i, u⟩) :
    laddEach v a (x :: t) ⟨none, false, d0, i0, s⟩ = laddEach v (a + 16) t ⟨none, false, d, i || i0, u⟩ := by
  rw [laddEach, h]
  rfl

/-- The adds at mapped addresses, one after the other. -/
theorem laddEach_maps (v : Who) (P N : Nat) (s : State) (hc : current v s = true) (htab : TablesClear v.inst P N s)
    (vs : List (BitVec 128)) (a p : Nat) (M : Memory) (inf : Bool) (d : List Byte) (hM : Agrees P N s M)
    (hm : MapsRange v.inst .atomic a (16 * vs.length) p s) (hlow : P ≤ p) (hhigh : p + 16 * vs.length ≤ P + N) :
    ∃ d', laddEach v a vs ⟨none, false, d, inf, s.withDpa M⟩ =
      ⟨none, false, d', laddInf M p vs || inf, s.withDpa (laddMem M p vs)⟩ := by
  induction vs generalizing a p M inf d with
  | nil => exact ⟨d, by rw [laddInf, Bool.false_or]; rfl⟩
  | cons x t ih =>
    rw [List.length_cons] at hm hhigh
    obtain ⟨ht, hg⟩ := hm.withDpa hM htab 0 (by omega)
    rw [Nat.add_zero, Nat.add_zero] at ht
    rw [Nat.add_zero] at hg
    have hatom := atomIva_good v a 16 p (laddBytes x) (s.withDpa M) hc (by rw [ht]) hg
    have hladd : laddBytes x (Memory.read 0 (s.withDpa M).mem.dpa p 16) = (leBytes 16 (sumL128 (wordAt M p) x).toNat,
        decide (sumL128 (wordAt M p) x = 1#128 <<< 127)) := laddBytes_eq x _
    rw [hladd, ht] at hatom
    dsimp only at hatom
    rw [putDpa_withDpa] at hatom
    have hM' : Agrees P N s (Memory.write 0 M p (leBytes 16 (sumL128 (wordAt M p) x).toNat)) :=
      hM.write _ _ hlow (by rw [length_leBytes]; omega)
    obtain ⟨d', hrest⟩ := ih (a + 16) (p + 16) _ (decide (sumL128 (wordAt M p) x = 1#128 <<< 127) || inf)
      (Memory.read 0 (s.withDpa M).mem.dpa p 16) hM' (hm.part 16 _ (by omega)) (by omega) (by omega)
    refine ⟨d', ?_⟩
    rw [laddEach_cons v a x t _ _ _ _ _ _ hatom, laddInf, laddMem]
    rw [Bool.or_comm (decide _) (laddInf _ _ _), Bool.or_assoc]
    exact hrest

theorem laddMany_maps (v : Who) (a p : Nat) (vs : List (BitVec 128)) (s : State) (hc : current v s = true) (hlen : vs.length = 256)
    (ha : a % 64 = 0) (hm : MapsRange v.inst .atomic a 4096 p s) (htab : TablesClear v.inst p 4096 s)
    (hwf : Memory.wf 0 s.mem.dpa = true) : ∃ d, laddMany v a vs s =
      ⟨none, false, d, laddInf s.mem.dpa p vs, s.withDpa (laddMem s.mem.dpa p vs)⟩ := by
  obtain ⟨d, h⟩ := laddEach_maps v p 4096 s hc htab vs a p s.mem.dpa false [] ⟨hwf, fun _ _ => rfl⟩ (by rw [hlen]; exact hm)
    (Nat.le_refl _) (by rw [hlen])
  refine ⟨d, ?_⟩
  rw [Bool.or_false] at h
  unfold laddMany
  rw [hlen, show a / 64 * 64 = a by omega, show (16 * 256 + 63) / 64 = 64 from rfl, linesPoisoned_maps v a 64 p s hc hm]
  exact h

/-! ### Issue -/

theorem CleanCore.lines {k : Core} (h : CleanCore k) (a n : Nat) : CleanLines k a n := by
  obtain ⟨h1, h2⟩ := h
  intro l _
  rw [h1, h2]
  exact ⟨by simp, fun e he => absurd he (by simp)⟩

theorem slotsFind_clean (c : CoreId) (ns : List (Fin 64)) (s : State) (h : CleanCore s.cores[c.val]) : slotsFind c ns s = s := by
  unfold slotsFind
  induction ns with
  | nil => rfl
  | cons n t ih => rw [List.foldl_cons, localFind_clean c _ _ s (h.lines _ _), ih]

/-- Flags and the last effect do not meet in the issue of an instruction. -/
theorem Core.issue_flagged_noted (f : Word) (t : Stamp) (e : QEntry) (k : Core) :
    (((k.noted t).flagged f).addNi e).issued = (((k.addNi e).issued).flagged f).noted t := by
  have h := Core.issue_flagged f 0 e (k.noted t)
  rw [Core.issue_noted] at h
  simpa only [Core.marked_zero, Core.flagged_noted] using h

/-- A whole slot aligned to a line may be added to local memory. -/
theorem atomLocal_slot (a : Dword) (h : a.toNat % 64 = 0) (hl : Loadable a.toNat 4096) : atomLocal a 4096 64 = none := by
  unfold atomLocal inData dataBase accBase localEnd
  rw [if_neg (by simp [h]), if_pos]
  simp only [Bool.or_eq_true, Bool.and_eq_true, decide_eq_true_eq]
  exact hl

theorem slotOf_bits {w : Nat} (x : BitVec w) : slotOf (bits x 5 0) = Fin.ofNat 64 x.toNat := by
  unfold slotOf bits
  apply Fin.ext
  simp

theorem namedSlots_of (x : Nat) (h : x < 64) : namedSlots (Fin.ofNat 64 x) = [x / 2 * 2, x / 2 * 2 + 1] := by
  have hmod : x % 64 = x := Nat.mod_eq_of_lt h
  simp only [namedSlots, evenOf, oddOf, Fin.val_ofNat, hmod]

/-! The three ways of LADDT, by the space of its words. -/

/-- In local space. -/
def laddtLocal (c : CoreId) (a : Nat) (vs : List (BitVec 128)) (s : State) : State :=
  issued c .ni { wrote := [(a, 4096)] } (setFlags c (localLaddt c a vs 0 s).1 (localLaddt c a vs 0 s).2)

/-- In global space. -/
def laddtGlobal (c : CoreId) (a : Dword) (vs : List (BitVec 128)) (fl : Word) (s : State) : State :=
  let r := laddMany (coreWho c s) a.toNat vs s
  let wrote := !r.poison && (r.err.isNone || r.s.mem.dpa != s.mem.dpa)
  let s := setFlags c (flagIf r.inf flagInf) (if wrote then noteCore c r.s else r.s)
  match r.err with
  | some .stale => issued c .ni { dead := true } s
  | some e => raise c ((accCause e).getD .unit) true a s
  | none => if r.poison then raise c .poison true a s else issued c .ni {} (setFlags c fl s)

/-- The request of LADDT to another node. -/
def laddtReq (node : BitVec 16) (a : Dword) (vs : List (BitVec 128)) : RemoteReq :=
  { node := node, type := 0x05, flags := 0, arg := 0, addr := a, payload := vs.flatMap fun v => leBytes 16 v.toNat }

/-- In remote space. -/
def laddtRemote (c : CoreId) (node : BitVec 16) (a : Dword) (vs : List (BitVec 128)) (fl : Word) (s : State) : State :=
  let s := closeWrite c s
  if remoteBusy c (laddtReq node a vs) s then s else issueRemote c .ni a {} [laddtReq node a vs] (setFlags c fl s)

/-- LADDT executes in its space: its slot is settled and clean, and its words are aligned. -/
theorem laddt_executes (c : CoreId) (w : MFmt) (s : State) (n : Fin 64) (vs : List (BitVec 128)) (h : Executes c w.g s)
    (hfree : NiFree c 1 s) (hsp : w.sp ≠ 3) (hn : w.sp ≠ 2 → w.n = 0) (ht : w.t = 0) (hx : w.x.toNat < 64)
    (hnp : NotPending s.cores[c.val] [w.a, w.n] [] []) (hclean : CleanCore s.cores[c.val])
    (hset : SlotsSettled s.cores[c.val] [w.x.toNat / 2 * 2, w.x.toNat / 2 * 2 + 1] false)
    (hslot : readSlot s.cores[c.val] (Fin.ofNat 64 w.x.toNat) = n) (hvs : slotWords s.cores[c.val] n = vs)
    (hform : (s.cores[c.val].slots[n.val]).form = 0) (hal : (address c w s).toNat % 64 = 0)
    (hload : w.sp = 0 → Loadable (address c w s).toNat 4096)
    (hrem : w.sp = 2 → (remoteOk c (address c w s) s).isNone = false) :
    exec (.laddt c w) s = .next (if w.sp = 0 then laddtLocal c (address c w s).toNat vs s
      else if w.sp = 1 then laddtGlobal c (address c w s) vs (flagIf (vs.any beyondWindow) 2) s
      else laddtRemote c ((sreg s.cores[c.val] w.n).setWidth 16) (address c w s) vs (flagIf (vs.any beyondWindow) 2) s) := by
  have hspace : mSpaceOk w = true := by
    simp only [mSpaceOk, Bool.and_eq_true, bne_iff_ne, Bool.or_eq_true, decide_eq_true_eq]
    exact ⟨hsp, Decidable.or_iff_not_imp_left.2 hn⟩
  have honly : only w.x 0x3F = true := only_of_lt w.x 6 hx
  have hz := noHazard_of_ready s.cores[c.val] { s := mUse w, q := some .ni, slots := namedSlots (slotOf (bits w.x 5 0)) }
    (NotPending.mUse (rs := []) hnp) (fun q hq => by obtain rfl := Option.some.inj hq; exact hfree.2)
    (by rw [slotOf_bits w.x, namedSlots_of _ hx]; exact hset)
  have harm : exec (.laddt c w) s = execLaddt c w s := rfl
  have hbad : (if w.sp = 0 then atomLocal (address c w s) 4096 64 else none) = none := by
    split
    · exact atomLocal_slot _ hal (hload (by assumption))
    · rfl
  have hslotp : slotPoison s.cores[c.val] n = false := localPoison_clean _ _ _ (hclean.lines _ _)
  have haddr : mAddr s.cores[c.val] w = address c w s := rfl
  have hremote : (w.sp = 2 && (remoteOk c (address c w s) s).isNone) = false := by
    by_cases h2 : w.sp = 2
    · rw [hrem h2, Bool.and_false]
    · rw [decide_eq_false h2, Bool.false_and]
  have hform' : ((slotSt s.cores[c.val] n).form != 0) = false := by
    unfold slotSt
    rw [hform]
    rfl
  rw [harm]
  unfold execLaddt
  rw [ht, hspace, honly, show (decide ((0 : BitVec 5) = 0) && true && true) = true from rfl, coreInstr_executes c w.g _ _ s h hz]
  simp only [slotOf_bits w.x, hslot, slotsFind_clean c _ s hclean, haddr, hvs, hbad, hslotp, hremote, hform', hal,
    rangeFlags_eq, zero_or_flag, localFind_clean c _ _ s (hclean.lines _ _), localPoison_clean _ _ _ (hclean.lines _ _),
    closing_none c _ s hfree.1 (executes_running h), Option.isSome_none, Bool.false_eq_true, if_false, bne_self_eq_false, Bool.and_false]
  rfl

theorem laddtLocal_eq (c : CoreId) (a : Nat) (vs : List (BitVec 128)) (s : State) (hr : s.cores[c.val].st = .running)
    (hl : NotLast c s) (hrace : NoRace (some .ni) s.cores[c.val]) (ha : a % 16 = 0) (hvs : vs.isEmpty = false) :
    laddtLocal c a vs s = modCore c (fun k => { ((((k.addNi { wrote := [(a, 4096)] }).issued).metInf
      (laddInf s.cores[c.val].mem a vs)).metRange (vs.any beyondWindow)).noted (stampNow s) with mem := laddMem k.mem a vs }) s := by
  unfold laddtLocal
  rw [localLaddt_adds c a vs 0 s hrace ha]
  generalize laddInf s.cores[c.val].mem a vs = inf
  generalize vs.any beyondWindow = big
  have hadd : Core.added a vs (stampNow s) = fun k => ({ k.noted (stampNow s) with mem := laddMem k.mem a vs } : Core) := by
    funext k
    unfold Core.added
    rw [hvs]
    rfl
  rw [hadd, setFlags_eq, modCore_modCore]
  have hcore := upd_same s.cores c fun k =>
    ({ k.noted (stampNow s) with mem := laddMem k.mem a vs } : Core).flagged (0 ||| flagIf big 2 ||| flagIf inf 4)
  rw [issued_eq c _ _ (by rw [modCore_cores, hcore]; exact hr) (by unfold NotLast; rw [modCore_cores, hcore]; exact hl),
    enqueue_ni_plain c _ _ rfl rfl rfl, modCore_modCore, modCore_modCore]
  refine modCore_congr ?_
  generalize laddMem s.cores[c.val].mem a vs = m
  generalize s.cores[c.val] = k
  dsimp only
  rw [Core.metInf_eq, Core.metRange_eq, Core.flagged_flagged, zero_or_flag]
  have h := Core.issue_flagged_noted (flagIf big 2 ||| flagIf inf 4) (stampNow s) { wrote := [(a, 4096)] } { k with mem := m }
  refine h.trans ?_
  unfold Core.issued
  have hfreeze : (({ k with mem := m } : Core).addNi { wrote := [(a, 4096)] }).ctrFreeze =
    (k.addNi { wrote := [(a, 4096)] }).ctrFreeze := rfl
  rw [hfreeze]
  split <;> rfl

theorem laddtGlobal_eq (c : CoreId) (a : Dword) (p : Nat) (vs : List (BitVec 128)) (s : State) (hr : s.cores[c.val].st = .running)
    (hl : NotLast c s) (hlen : vs.length = 256) (ha : a.toNat % 64 = 0) (hgen : s.inst[(coreInst c s).val].gen = s.cores[c.val].gen)
    (hm : MapsRange (coreInst c s) .atomic a.toNat 4096 p s) (htab : TablesClear (coreInst c s) p 4096 s)
    (hwf : Memory.wf 0 s.mem.dpa = true) (big : Bool) : laddtGlobal c a vs (flagIf big 2) s =
      (modCore c (fun k => ((((k.addNi {}).issued).metInf (laddInf s.mem.dpa p vs)).metRange big).noted (stampNow s)) s).withDpa
        (laddMem s.mem.dpa p vs) := by
  obtain ⟨d, hmany⟩ := laddMany_maps (coreWho c s) a.toNat p vs s (decide_eq_true hgen) hlen ha hm htab hwf
  unfold laddtGlobal
  rw [hmany]
  generalize laddInf s.mem.dpa p vs = inf
  generalize laddMem s.mem.dpa p vs = m
  simp only [Option.isNone_none, Bool.true_or, Bool.not_false, Bool.and_true, if_true, Bool.false_eq_true, if_false]
  have hmods : setFlags c (flagIf big 2) (setFlags c (flagIf inf flagInf) (noteCore c (s.withDpa m))) =
      (modCore c (fun k => (k.noted (stampNow s)).flagged (flagIf big 2 ||| flagIf inf 4)) s).withDpa m := by
    rw [setFlags_eq, setFlags_eq, modCore_modCore]
    have hnote : noteCore c (s.withDpa m) = modCore c (fun k => k.noted (stampNow s)) (s.withDpa m) := rfl
    rw [hnote, modCore_modCore]
    simp only [Core.flagged_flagged]
    rfl
  rw [hmods]
  have hcore : ((modCore c (fun k => (k.noted (stampNow s)).flagged (flagIf big 2 ||| flagIf inf 4)) s).withDpa m).cores[c.val] =
      (s.cores[c.val].noted (stampNow s)).flagged (flagIf big 2 ||| flagIf inf 4) := upd_same _ _ _
  rw [issued_eq c _ _ (by rw [hcore]; exact hr) (by unfold NotLast; rw [hcore]; exact hl), enqueue_ni_plain c _ _ rfl rfl rfl]
  have hswap : ∀ (f : Core → Core) (u : State), modCore c f (u.withDpa m) = (modCore c f u).withDpa m := fun _ _ => rfl
  rw [hswap, hswap, modCore_modCore, modCore_modCore]
  refine congrArg (fun u : State => u.withDpa m) (modCore_congr ?_)
  rw [Core.issue_flagged_noted, Core.metInf_eq, Core.metRange_eq, Core.flagged_flagged]

theorem laddtRemote_sent (c : CoreId) (node : BitVec 16) (a : Dword) (vs : List (BitVec 128)) (big : Bool) (s : State) (dom : Byte)
    (hr : s.cores[c.val].st = .running) (hl : NotLast c s) (hk : s.cores[c.val].coalesce = none) (ha : a.toNat < 2 ^ 40)
    (hroute : RouteOpen c node dom s) :
    Requested c dom (laddtReq node a vs) s (laddtRemote c node a vs (flagIf big 2) s) ∧
      (laddtRemote c node a vs (flagIf big 2) s).cores = (modCore c (fun k =>
        (((k.addNi { parts := [(s.fab.nextReq, none)] }).metRange big).noted (stampNow s)).issued) s).cores := by
  have hgo : laddtRemote c node a vs (flagIf big 2) s =
      issueRemote c .ni a {} [laddtReq node a vs] (setFlags c (flagIf big 2) s) := by
    unfold laddtRemote
    simp only [closeWrite_none c s hk, remoteBusy_none c _ s hroute.2.2.2.2.2]
    rfl
  have hcore : (setFlags c (flagIf big 2) s).cores[c.val] = s.cores[c.val].flagged (flagIf big 2) := by
    rw [setFlags_eq, modCore_cores, upd_same]
  obtain ⟨hreq, hcores⟩ := issueRemote_one c a {} dom (laddtReq node a vs) (setFlags c (flagIf big 2) s)
    (by rw [hcore]; exact hr) (by unfold NotLast; rw [hcore]; exact hl) (by rw [hcore]; exact hk) ha
    (hroute.same rfl rfl rfl rfl)
  rw [hgo]
  refine ⟨hreq, hcores.trans ?_⟩
  have htype : ¬ (laddtReq node a vs).type = 0x02 := by
    show ¬ (0x05 : Byte) = 0x02
    decide
  have hentry : ({ ({} : QEntry) with parts := [((setFlags c (flagIf big 2) s).fab.nextReq, none)], reqs := 1 } : QEntry) =
      { parts := [(s.fab.nextReq, none)] } := rfl
  rw [hentry]
  simp only
  rw [if_neg htype, enqueue_ni_plain c _ _ rfl rfl rfl, setFlags_eq, modCore_modCore]
  have hnote : noteCore c (modCore c (fun k => (k.flagged (flagIf big 2)).addNi { parts := [(s.fab.nextReq, none)] }) s) =
      modCore c (fun k => ((k.addNi { parts := [(s.fab.nextReq, none)] }).metRange big).noted (stampNow s)) s := by
    refine (modCore_modCore c _ _ s).trans (modCore_congr ?_)
    rw [Core.metRange_eq]
    rfl
  rw [hnote, modCore_modCore]

/-- The sums of a slot, word by word. -/
theorem added_slot (k : Core) (n : Fin 64) (m : Memory) (a : Nat) (hwf : Memory.wf 0 m = true) :
    (laddInf m a (slotWords k n) = true ↔ ∃ i < 256, sumL128 (wordAt m (a + 16 * i)) (slotWord k n.val i) = 1#128 <<< 127) ∧
      (∀ i < 256, leNat (Memory.read 0 (laddMem m a (slotWords k n)) (a + 16 * i) 16) =
        (sumL128 (wordAt m (a + 16 * i)) (slotWord k n.val i)).toNat) ∧
      ∀ b, b < a ∨ a + 4096 ≤ b → Memory.get 0 (laddMem m a (slotWords k n)) b = Memory.get 0 m b := by
  obtain ⟨-, hinf, hsum, hout⟩ := laddMem_added m a (slotWords k n) hwf
  rw [length_slotWords] at hinf hsum hout
  refine ⟨hinf.trans (exists_congr fun i => and_congr_right fun hi => ?_), fun i hi => ?_, hout⟩
  · rw [getD_slotWords k n i hi]
  · rw [hsum i hi, getD_slotWords k n i hi]

theorem laddtReq_msg (dom : Byte) (id : Word) (node : BitVec 16) (a : Dword) (vs : List (BitVec 128)) (s : State) :
    let x := reqMsg dom id (laddtReq node a vs) s
    x.type = 0x05 ∧ x.dst = node ∧ x.domain = dom ∧ x.addr = a ∧ x.payload = (vs.flatMap fun v => leBytes 16 v.toNat) ∧
      x.reqId = id := ⟨rfl, rfl, rfl, rfl, rfl, rfl⟩

/-- A core that has taken sums, told by the memory it is left with. -/
theorem addedCore_frame (c : CoreId) (s : State) (f : Core → Core) (a : Nat) (vs : List (BitVec 128)) (p : Memory → Prop)
    (hp : p (laddMem s.cores[c.val].mem a vs)) :
    let t := modCore c (fun k => { f k with mem := laddMem k.mem a vs }) s
    t = modCore c (fun k => { f k with mem := t.cores[c.val].mem }) s ∧ p t.cores[c.val].mem := by
  intro t
  have hmem : t.cores[c.val].mem = laddMem s.cores[c.val].mem a vs := by
    show (modCore c _ s).cores[c.val].mem = _
    rw [modCore_cores, upd_same]
  rw [hmem]
  exact ⟨modCore_congr rfl, hp⟩

/-- Settles O19: the slot is read once, and its words are added one after the other, or leave together. -/
theorem slotAdds : Obligations.SlotAdds := by
  unfold Obligations.SlotAdds
  intro c w s h hl hfree hn ht hx hnp hclean hset k0 a n add sums hform hal
  have hr := executes_running h
  have hexec := laddt_executes c w s n (slotWords k0 n) h hfree
  have hlen := length_slotWords k0 n
  have hempty : (slotWords k0 n).isEmpty = false := by
    rw [List.isEmpty_eq_false_iff_exists_mem]
    exact List.exists_mem_of_length_pos (by omega)
  have hsums : ∀ m p, Memory.wf 0 m = true → sums m (laddMem m p (slotWords k0 n)) p (laddInf m p (slotWords k0 n)) := by
    intro m p hwf
    have h := added_slot k0 n m p hwf
    generalize laddMem m p (slotWords k0 n) = m' at h ⊢
    generalize laddInf m p (slotWords k0 n) = inf at h ⊢
    exact h
  obtain ⟨hpay, hwords⟩ := payload_words (slotWords k0 n)
  have hgetD := getD_slotWords k0 n
  refine ⟨(slotWords k0 n).any beyondWindow, any_slotWords k0 n, fun h0 hload hwf hrace => ?_, fun p h1 hgen hm htab hwf => ?_,
    fun dom h2 ha hroute => ?_⟩
  · have hrun := hexec (by rw [h0]; decide) hn ht hx hnp hclean hset rfl rfl hform hal (fun _ => hload)
      (fun h2 => absurd (h0.symm.trans h2) (by decide))
    rw [if_pos h0, laddtLocal_eq c _ _ s hr hl hrace (by omega) hempty] at hrun
    have hmem := hsums k0.mem a hwf
    generalize laddInf k0.mem a (slotWords k0 n) = inf at hrun hmem
    have hframe := addedCore_frame c s (fun k => ((((k.addNi { wrote := [(a, 4096)] }).issued).metInf inf).metRange
      ((slotWords k0 n).any beyondWindow)).noted (stampNow s)) a (slotWords k0 n) (fun m => sums k0.mem m a inf) hmem
    exact ⟨_, inf, hrun, hframe⟩
  · have hrun := hexec (by rw [h1]; decide) hn ht hx hnp hclean hset rfl rfl hform hal
      (fun h0 => absurd (h1.symm.trans h0) (by decide)) (fun h2 => absurd (h1.symm.trans h2) (by decide))
    rw [if_neg (by rw [h1]; decide), if_pos h1, laddtGlobal_eq c _ p _ s hr hl hlen hal hgen hm htab hwf] at hrun
    have hmem := hsums s.mem.dpa p hwf
    generalize laddMem s.mem.dpa p (slotWords k0 n) = m at hrun hmem
    generalize laddInf s.mem.dpa p (slotWords k0 n) = inf at hrun hmem
    exact ⟨_, inf, hrun, rfl, hmem⟩
  · have hrun := hexec (by rw [h2]; decide) (fun hne => absurd h2 hne) ht hx hnp hclean hset rfl rfl hform hal
      (fun h0 => absurd (h2.symm.trans h0) (by decide)) (fun _ => by rw [remoteOk_of_route hroute _ ha]; rfl)
    rw [if_neg (by rw [h2]; decide), if_neg (by rw [h2]; decide)] at hrun
    obtain ⟨⟨hnext, hreqs, hmem⟩, hcores⟩ := laddtRemote_sent c _ (address c w s) (slotWords k0 n)
      ((slotWords k0 n).any beyondWindow) s dom hr hl hfree.1 ha hroute
    obtain ⟨m1, m2, m3, m4, m5, m6⟩ := laddtReq_msg dom s.fab.nextReq ((sreg k0 w.n).setWidth 16) (address c w s) (slotWords k0 n) s
    rw [hlen] at hpay hwords
    refine ⟨_, _, hrun, hnext, hreqs, m1, m2, m3, m4, ?_, fun i hi => ?_, m6, hmem, hcores⟩
    · rw [m5]
      exact hpay
    · rw [m5, hwords i hi, hgetD i hi]

end Sys2Proof.Machine
end

section
/-! PROOFS. What the device is right after a cold reset (R112, R341, R378, R399, R420, R445, R485, R516, R545, R566). -/

namespace Sys2Proof.Machine

open Sys2Proof

theorem reset_units (u : Fin 622) : State.reset.nuc.units[u.val] = UnitSt.reset u := by
  simp [State.reset, unitsReset]

theorem reset_inst (i : InstId) : State.reset.inst[i.val] = Inst.reset i := by
  simp [State.reset]

theorem reset_core (c : CoreId) : State.reset.cores[c.val] = {} := by
  simp [State.reset]

/-- No walker's unit is a port's, so none is closed at reset. -/
theorem reset_unitWk_open (w : Fin 16) : unitClosed (unitWk w) State.reset = false := by
  have hnot : ¬ 0x266 ≤ (unitWk w).val := by
    have := w.isLt
    simp only [unitWk]
    omega
  unfold unitClosed
  rw [reset_units, UnitSt.reset, if_neg hnot]
  rfl

/-- Settles O2: each part of the reset state is a literal, or a vector made of one value for each index. -/
theorem resetState : Obligations.ResetState := by
  unfold Obligations.ResetState
  refine ⟨rfl, rfl, rfl, rfl, ?_, ?_, ?_, ?_, ?_, rfl, ?_, rfl, rfl, rfl, ?_, ?_, rfl, rfl, rfl⟩
  · intro i q
    rw [reset_inst]
    simp [Inst.reset]
  · intro i
    rw [reset_inst]
    by_cases h : i = 0
    · subst h
      exact ⟨⟨fun _ => rfl, fun _ => rfl⟩, fun h => absurd rfl h, rfl, rfl, rfl⟩
    · have hv : i.val ≠ 0 := fun e => h (Fin.ext e)
      have hg : State.reset.lku.grants[i.val] = 0 := by
        simp [State.reset, h]
      simp [Inst.reset, h, hv, hg]
  · intro c
    rw [reset_core]
    exact ⟨rfl, rfl⟩
  · intro n
    simp [State.reset]
  · intro p
    simp [State.reset]
  · intro l
    simp [State.reset]
  · intro w
    refine ⟨?_, ?_, reset_unitWk_open w, fun n => ?_⟩ <;> simp [State.reset]
  · intro u
    rw [reset_units, UnitSt.reset]
    split <;> exact ⟨rfl, rfl⟩

/-- Settles O6: at reset every byte memory is empty, and no descriptor has been accepted. -/
theorem invariantsReset : Obligations.InvariantsReset := by
  unfold Obligations.InvariantsReset
  obtain ⟨hdpa, hhost, hflash, hbuf⟩ := reset_memory_wf
  refine ⟨⟨hdpa, hhost, hflash, hbuf, reset_cores_wf⟩, List.nodup_nil, ?_, ?_⟩ <;> intro x hx <;> cases hx

end Sys2Proof.Machine
end

section
/-! PROOFS. Doorbells and the states of rings (R70, R71, R74, R75, R80 to R82). -/

namespace Sys2Proof.Machine

open Sys2Proof

/-! ### Errors of rings (R110, R113) -/

/-- A ring error changes its instance's register, and what logging touches. -/
theorem ringErr_access (i : InstId) (n : Nat) (isCq : Bool) (q : Fin 16) (s : State) :
    OnlyAccess (modInst i (fun x => { x with err := ⟨isCq, q, x.err.bits ||| (1#6 <<< n)⟩ }) s) (ringErr i n isCq q s) :=
  onlyAccess.logBoth _ _ _ _ _ _

theorem ringErr_only (i : InstId) (n : Nat) (isCq : Bool) (q : Fin 16) (s : State) :
    RingErrOnly i n isCq q s (ringErr i n isCq q s) := by
  unfold RingErrOnly
  rw [(ringErr_access i n isCq q s).1]

/-- The instance whose ring met the error, but for the register. -/
theorem RingErrOnly.at_ {i : InstId} {n : Nat} {isCq : Bool} {q : Fin 16} {s t : State} (h : RingErrOnly i n isCq q s t) :
    t.inst[i.val] = { s.inst[i.val] with err := ⟨isCq, q, s.inst[i.val].err.bits ||| (1#6 <<< n)⟩ } := by
  rw [h]
  simp only [modInst, upd_same]

/-! ### Doorbells (R70, R71) -/

/-- A CQ that holds no record writes none. -/
theorem flushCq_empty (i : InstId) (q : Fin 16) (s : State) (hh : (s.inst[i.val].cq[q.val]).held = [])
    (ha : (s.inst[i.val].cq[q.val]).aborts = []) : flushCq i q s = s := by
  simp only [flushCq, hh, ha, List.length_nil]
  rfl

theorem modCq_at (i : InstId) (q : Fin 16) (f : Cq → Cq) (s : State) :
    ((modCq i q f s).inst[i.val].cq[q.val]) = f (s.inst[i.val].cq[q.val]) := by
  simp only [modCq, modInst, upd_same]

/-- A change that leaves its entry as it is. -/
theorem upd_self {α : Type} {n : Nat} (v : Vector α n) (i : Fin n) (f : α → α) (h : f v[i.val] = v[i.val]) : upd v i f = v := by
  unfold upd
  rw [h, Vector.set_getElem_self]

theorem modCq_self (i : InstId) (q : Fin 16) (f : Cq → Cq) (s : State) (h : f (s.inst[i.val].cq[q.val]) = s.inst[i.val].cq[q.val]) :
    modCq i q f s = s := by
  unfold modCq modInst
  rw [upd_self s.inst i _ (by rw [upd_self _ q f h])]

theorem modSq_at (i : InstId) (q : Fin 16) (f : Sq → Sq) (s : State) :
    ((modSq i q f s).inst[i.val].sq[q.val]) = f (s.inst[i.val].sq[q.val]) := by
  simp only [modSq, modInst, upd_same]

/-- The branches of a tail doorbell. -/
theorem sqTailDoorbell_eq (i : InstId) (q : Fin 16) (size : Nat) (v : Word) (s : State) : sqTailDoorbell i q size v s =
    if size ≠ 4 then ringErr i 4 false q s
    else if (s.inst[i.val].sq[q.val]).st ≠ .active then ringErr i 3 false q s
    else if 2 ^ (s.inst[i.val].sq[q.val]).log2.toNat ≤ v.toNat then
      ringErr i 2 false q (modSq i q (fun r => { r with st := .error }) s)
    else modSq i q (fun r => { r with tail := v.toNat }) s := by
  simp only [sqTailDoorbell, bne_iff_ne]

/-- The slots that a new head of a CQ lets go. -/
def Cq.released (c : Cq) (v : Word) : Nat := (v.toNat + 2 ^ c.log2.toNat - c.head) % 2 ^ c.log2.toNat

/-- The branches of a head doorbell. -/
theorem cqHeadDoorbell_eq (i : InstId) (q : Fin 16) (size : Nat) (v : Word) (s : State) : cqHeadDoorbell i q size v s =
    if size ≠ 4 then ringErr i 4 true q s
    else if (s.inst[i.val].cq[q.val]).st ≠ .active then ringErr i 3 true q s
    else if 2 ^ (s.inst[i.val].cq[q.val]).log2.toNat ≤ v.toNat ∨
        (s.inst[i.val].cq[q.val]).unreleased < (s.inst[i.val].cq[q.val]).released v then
      ringErr i 2 true q (modCq i q (fun c => { c with st := .error }) s)
    else flushCq i q (modCq i q (fun c =>
      { c with head := v.toNat, unreleased := c.unreleased - (s.inst[i.val].cq[q.val]).released v }) s) := by
  simp only [cqHeadDoorbell, bne_iff_ne, Bool.or_eq_true, decide_eq_true_eq]
  rfl

/-- Settles O37, by the branch that each doorbell takes. -/
theorem doorbells : Obligations.Doorbells := by
  unfold Obligations.Doorbells
  intro i q size v s hlive r c released
  have hsq : exec (.sqTailDoorbell i q size v) s = .next (sqTailDoorbell i q size v s) := congrArg Host.Outcome.next (if_pos hlive)
  have hcq : exec (.cqHeadDoorbell i q size v) s = .next (cqHeadDoorbell i q size v s) := congrArg Host.Outcome.next (if_pos hlive)
  rw [hsq, hcq, sqTailDoorbell_eq, cqHeadDoorbell_eq]
  refine ⟨fun hs hst hv => ?_, fun hs => ⟨_, rfl, ?_⟩, fun hs hst => ⟨_, rfl, ?_⟩, fun hs hst hv => ⟨_, rfl, ?_⟩,
    fun hs hst hv hrel hh ha => ?_, fun hs => ⟨_, rfl, ?_⟩, fun hs hst => ⟨_, rfl, ?_⟩, fun hs hst hv => ⟨_, rfl, ?_⟩⟩
  · rw [if_neg (not_not.2 hs), if_neg (not_not.2 hst), if_neg (Nat.not_le.2 hv)]
  · rw [if_pos hs]
    exact ringErr_only _ _ _ _ _
  · rw [if_neg (not_not.2 hs), if_pos hst]
    exact ringErr_only _ _ _ _ _
  · rw [if_neg (not_not.2 hs), if_neg (not_not.2 hst), if_pos hv]
    exact ringErr_only _ _ _ _ _
  · have hin : ¬ (2 ^ c.log2.toNat ≤ v.toNat ∨ c.unreleased < c.released v) :=
      not_or.2 ⟨Nat.not_le.2 hv, Nat.not_lt.2 hrel⟩
    rw [if_neg (not_not.2 hs), if_neg (not_not.2 hst), if_neg hin, flushCq_empty _ _ _ (by rw [modCq_at]; exact hh)
      (by rw [modCq_at]; exact ha)]
    rfl
  · rw [if_pos hs]
    exact ringErr_only _ _ _ _ _
  · rw [if_neg (not_not.2 hs), if_pos hst]
    exact ringErr_only _ _ _ _ _
  · have hout : 2 ^ c.log2.toNat ≤ v.toNat ∨ c.unreleased < c.released v := hv
    rw [if_neg (not_not.2 hs), if_neg (not_not.2 hst), if_pos hout]
    exact ringErr_only _ _ _ _ _

/-! ### Control of rings (R74, R75, R80 to R82) -/

theorem bits_lt {w : Nat} (x : BitVec w) (hi lo : Nat) : bits x hi lo < 2 ^ (hi + 1 - lo) := Nat.mod_lt _ (Nat.two_pow_pos _)

/-- The SQ configuration that a control word names differs from the one in force. -/
theorem sqConfig_ne_iff (r : Sq) (v : Word) :
    (r.cq != Fin.ofNat 16 (bits v 19 16) || r.cls != BitVec.ofNat 2 (bits v 13 12) || r.log2 != BitVec.ofNat 5 (bits v 4 0)) = true ↔
      ¬ (r.cq.val = bits v 19 16 ∧ r.cls.toNat = bits v 13 12 ∧ r.log2.toNat = bits v 4 0) := by
  have h1 : bits v 19 16 < 16 := bits_lt v 19 16
  have h2 : bits v 13 12 < 4 := bits_lt v 13 12
  have h3 : bits v 4 0 < 32 := bits_lt v 4 0
  simp only [Bool.or_eq_true, bne_iff_ne, ne_eq, Fin.ext_iff, ← BitVec.toNat_inj, Fin.val_ofNat, BitVec.toNat_ofNat,
    Nat.mod_eq_of_lt h1, Nat.mod_eq_of_lt h2, Nat.mod_eq_of_lt h3]
  tauto

/-! ### What pressure and admission leave of the instances (R141, R143) -/

theorem OnlyAccess.inst {s t : State} (h : OnlyAccess s t) : t.inst = s.inst := by rw [h.1]

/-- The same change of an instance before and after. -/
theorem OnlyAccess.modInst {s t : State} (h : OnlyAccess s t) (i : InstId) (f : Inst → Inst) :
    OnlyAccess (modInst i f s) (modInst i f t) := by
  obtain ⟨h1, h2⟩ := h
  refine ⟨?_, h2⟩
  have hinst : t.inst = s.inst := by rw [h1]
  unfold Machine.modInst
  rw [hinst]
  conv_lhs => rw [h1]

theorem msix_onlyAccess (fn : InstId) (v : Fin 32) (s : State) : OnlyAccess s (msix fn v s) := .of_eq (by rw [msix_frame])

/-- An instance with its pressure as given. -/
def Inst.pressed (x : Inst) (p seen : Bool) (at_ : Option Nat) : Inst :=
  { x with pressure := p, pressureSeen := seen, pressureLog := at_ }

/-- Pressure changes its own fields, and what its interrupt and log entry touch. -/
theorem pressureUpdate_eq (i : InstId) (s : State) : ∃ p seen at_,
    OnlyAccess (modInst i (fun x => x.pressed p seen at_) s) (pressureUpdate i s) := by
  unfold pressureUpdate
  extract_lets x p u1 u2 quiet
  have hkeep : ∀ p, modInst i (fun x => { x with pressure := p }) s = modInst i (fun y => y.pressed p x.pressureSeen x.pressureLog) s := by
    intro p
    rfl
  split
  · have hu1 : u1 = modInst i (fun y => y.pressed true true x.pressureLog) s := rfl
    have hu2 : OnlyAccess u1 u2 := by
      show OnlyAccess u1 (if x.pressureIrqEn = true then msix i x.pressureVec u1 else u1)
      split
      · exact msix_onlyAccess _ _ _
      · exact onlyAccess.refl _
    split
    · exact ⟨true, true, x.pressureLog, hu1 ▸ hu2⟩
    · refine ⟨true, true, some u2.eph.ticks, ?_⟩
      have htwice : modInst i (fun y => y.pressed true true (some u2.eph.ticks)) s =
          modInst i (fun y => { y with pressureLog := some u2.eph.ticks }) u1 := by
        rw [hu1]
        unfold modInst
        rw [upd_upd]
        rfl
      rw [htwice]
      exact (hu2.modInst i _).trans (onlyAccess.logPf _ _ _ _ _ _)
  · rw [hkeep]
    exact ⟨p, x.pressureSeen, x.pressureLog, onlyAccess.refl _⟩

/-- Admission changes of an instance its pressure and whether its SQs are held. -/
theorem admission_eq (i : InstId) (s : State) : ∃ sq p seen at_,
    OnlyAccess (modInst i (fun x => { x.pressed p seen at_ with sq := sq }) s) (admission i s) ∧
      ∀ q : Fin 16, ∃ b, sq[q.val] = { (s.inst[i.val].sq[q.val]) with busy := b } := by
  unfold admission
  extract_lets x n set
  have hset : ∀ b, ∃ p seen at_,
      OnlyAccess (modInst i (fun y => { y.pressed p seen at_ with
        sq := x.sq.map fun q => { q with busy := if q.st = .disabled || q.cls = 0 then false else b } }) s)
        (pressureUpdate i (set b s)) := by
    intro b
    obtain ⟨p, seen, at_, h⟩ := pressureUpdate_eq i (set b s)
    have htwice : modInst i (fun y => y.pressed p seen at_) (set b s) = modInst i (fun y => { y.pressed p seen at_ with
        sq := x.sq.map fun q => { q with busy := if q.st = .disabled || q.cls = 0 then false else b } }) s := by
      show modInst i _ (modInst i _ s) = _
      unfold modInst
      rw [upd_upd]
      rfl
    exact ⟨p, seen, at_, htwice ▸ h⟩
  have hmap : ∀ (b : Bool) (q : Fin 16), ∃ b', (x.sq.map fun q =>
      ({ q with busy := if q.st = .disabled || q.cls = 0 then false else b } : Sq))[q.val] =
        { (s.inst[i.val].sq[q.val]) with busy := b' } := fun b q => ⟨_, Vector.getElem_map ..⟩
  clear_value set
  split
  · obtain ⟨p, seen, at_, h⟩ := hset true
    exact ⟨_, p, seen, at_, h, hmap true⟩
  · split
    · obtain ⟨p, seen, at_, h⟩ := hset false
      exact ⟨_, p, seen, at_, h, hmap false⟩
    · obtain ⟨p, seen, at_, h⟩ := pressureUpdate_eq i s
      exact ⟨x.sq, p, seen, at_, h, fun q => ⟨_, rfl⟩⟩

/-! ### Control of SQs (R74, R75) -/

theorem sqEnable_eq (i : InstId) (q : Fin 16) (v : Word) (s : State) (hlive : live s = true) (hv : bit v 31 = true) :
    exec (.sqEnable i q v) s = .next (sqCtrlWrite i q v s) :=
  congrArg Host.Outcome.next (if_pos (by rw [hlive, hv]; rfl))

theorem sqDisable_eq (i : InstId) (q : Fin 16) (v : Word) (s : State) (hlive : live s = true) (hv : bit v 31 = false) :
    exec (.sqDisable i q v) s = .next (sqCtrlWrite i q v s) :=
  congrArg Host.Outcome.next (if_pos (by rw [hlive, hv]; rfl))

/-- An SQ as a control word configures it. -/
def Sq.configured (r : Sq) (v : Word) : Sq :=
  { r with cq := Fin.ofNat 16 (bits v 19 16), cls := BitVec.ofNat 2 (bits v 13 12), log2 := BitVec.ofNat 5 (bits v 4 0) }

/-- A control word with enable set at a DISABLED SQ of a READY instance. -/
theorem sqCtrlWrite_disabled (i : InstId) (q : Fin 16) (v : Word) (s : State) (hi : s.inst[i.val].st = .ready)
    (hr : (s.inst[i.val].sq[q.val]).st = .disabled) (hv : bit v 31 = true) : ∃ b, sqCtrlWrite i q v s =
      let u := modSq i q (fun r => r.configured v) s
      if 6 ≤ bits v 4 0 ∧ bits v 4 0 ≤ 16 then
        admission i (modSq i q (fun r => { r with st := .active, epoch := r.epoch + 1, head := 0, tail := 0, busy := b }) u)
      else ringErr i 5 false q u := by
  have h3 : (BitVec.ofNat 5 (bits v 4 0)).toNat = bits v 4 0 := Nat.mod_eq_of_lt (bits_lt v 4 0)
  refine ⟨BitVec.ofNat 2 (bits v 13 12) != 0 &&
    (modSq i q (fun r => r.configured v) s).inst[i.val].sq.toList.any (fun x => x.busy), ?_⟩
  unfold sqCtrlWrite
  simp only [hi, hr, hv, h3, bne_self_eq_false, Bool.false_eq_true, if_false, if_true, Bool.and_eq_true, decide_eq_true_eq]
  rfl

/-- A control word at an SQ outside DISABLED of a READY instance. -/
theorem sqCtrlWrite_enabled (i : InstId) (q : Fin 16) (v : Word) (s : State) (hi : s.inst[i.val].st = .ready)
    (hr : (s.inst[i.val].sq[q.val]).st ≠ .disabled) : sqCtrlWrite i q v s =
      let r := s.inst[i.val].sq[q.val]
      if ¬ (r.cq.val = bits v 19 16 ∧ r.cls.toNat = bits v 13 12 ∧ r.log2.toNat = bits v 4 0) then ringErr i 5 false q s
      else if bit v 31 = true then s
      else if r.st = .active ∨ r.st = .error then modSq i q (fun r => { r with st := .draining }) s
      else s := by
  unfold sqCtrlWrite
  dsimp only
  rw [if_neg (by simp [hi]), if_neg hr]
  simp only [sqConfig_ne_iff]
  simp only [Bool.or_eq_true, decide_eq_true_eq]

/-- The SQ that an enable leaves. -/
theorem admission_sq (i : InstId) (s : State) (q : Fin 16) : ∃ b,
    (admission i s).inst[i.val].sq[q.val] = { (s.inst[i.val].sq[q.val]) with busy := b } := by
  obtain ⟨sq, p, seen, at_, h, hsq⟩ := admission_eq i s
  obtain ⟨b, hb⟩ := hsq q
  refine ⟨b, ?_⟩
  simp only [h.inst, modInst, upd_same, hb]

/-! ### Control of CQs (R81, R82) -/

theorem cqEnable_eq (i : InstId) (q : Fin 16) (v : Word) (s : State) (hlive : live s = true) (hv : bit v 31 = true) :
    exec (.cqEnable i q v) s = .next (cqCtrlWrite i q v s) :=
  congrArg Host.Outcome.next (if_pos (by rw [hlive, hv]; rfl))

theorem cqDisable_eq (i : InstId) (q : Fin 16) (v : Word) (s : State) (hlive : live s = true) (hv : bit v 31 = false) :
    exec (.cqDisable i q v) s = .next (cqCtrlWrite i q v s) :=
  congrArg Host.Outcome.next (if_pos (by rw [hlive, hv]; rfl))

/-- An SQ outside DISABLED names the CQ. -/
def Inst.names (x : Inst) (q : Fin 16) : Bool := x.sq.toList.any fun r => r.st != .disabled && r.cq = q

theorem names_iff (x : Inst) (q : Fin 16) :
    x.names q = true ↔ ∃ k : Fin 16, (x.sq[k.val]).st ≠ .disabled ∧ (x.sq[k.val]).cq = q := by
  unfold Inst.names
  rw [List.any_eq_true]
  simp only [Vector.mem_toList_iff, Bool.and_eq_true, bne_iff_ne, decide_eq_true_eq]
  constructor
  · rintro ⟨r, hr, h⟩
    obtain ⟨n, hn, rfl⟩ := Vector.getElem_of_mem hr
    exact ⟨⟨n, hn⟩, h⟩
  · rintro ⟨k, h⟩
    exact ⟨_, Vector.getElem_mem k.isLt, h⟩

/-- A CQ as a control word configures it. -/
def Cq.configured (c : Cq) (v : Word) : Cq :=
  { c with log2 := BitVec.ofNat 5 (bits v 4 0), irqEn := bit v 15, vector := Fin.ofNat 32 (bits v 20 16) }

/-- The CQ configured; a message that the configuration makes due is sent (R99). -/
def cqConfigure (i : InstId) (q : Fin 16) (v : Word) (s : State) : State :=
  let u := modCq i q (fun c => c.configured v) s
  if bit v 15 && !(s.inst[i.val].cq[q.val]).irqEn then cqSignal i q u else u

/-- A message of a CQ changes its count of records not signalled. -/
theorem cqSignal_eq (i : InstId) (q : Fin 16) (s : State) : ∃ n u,
    OnlyAccess (modCq i q (fun c => { c with unsignalled := n, urgent := u }) s) (cqSignal i q s) := by
  unfold cqSignal
  dsimp only
  split
  · exact ⟨_, _, msix_onlyAccess _ _ _⟩
  · refine ⟨(s.inst[i.val].cq[q.val]).unsignalled, (s.inst[i.val].cq[q.val]).urgent, ?_⟩
    rw [modCq_self i q _ s rfl]
    exact onlyAccess.refl s

theorem cqConfigure_at (i : InstId) (q : Fin 16) (v : Word) (s : State) : ∃ n u,
    (cqConfigure i q v s).inst[i.val].cq[q.val] = { (s.inst[i.val].cq[q.val]).configured v with unsignalled := n, urgent := u } := by
  have hmod := modCq_at i q (fun c => c.configured v) s
  obtain ⟨n, u, h⟩ := cqSignal_eq i q (modCq i q (fun c => c.configured v) s)
  cases hb : bit v 15 && !(s.inst[i.val].cq[q.val]).irqEn with
  | true => exact ⟨n, u, by simp only [cqConfigure, hb, if_true, h.inst, modCq_at]⟩
  | false => exact ⟨_, _, by simp only [cqConfigure, hb, Bool.false_eq_true, if_false, hmod]; rfl⟩

/-- A control word at a CQ of a READY instance. -/
theorem cqCtrlWrite_ready (i : InstId) (q : Fin 16) (v : Word) (s : State) (hi : s.inst[i.val].st = .ready) : cqCtrlWrite i q v s =
    let c := s.inst[i.val].cq[q.val]
    if c.st = .active ∧ c.log2.toNat ≠ bits v 4 0 then ringErr i 5 true q s
    else if bit v 31 = false ∧ c.st ≠ .disabled ∧ s.inst[i.val].names q = true then ringErr i 5 true q s
    else if bit v 31 = true then
      if c.st = .active then cqConfigure i q v s
      else if 6 ≤ bits v 4 0 ∧ bits v 4 0 ≤ 16 then
        flushCq i q (modCq i q (fun c => { c with st := .active, epoch := c.epoch + 1, head := 0, tail := 0, unreleased := 0,
                                                  phase := true }) (cqConfigure i q v s))
      else ringErr i 5 true q (cqConfigure i q v s)
    else modCq i q (fun c => { c with st := .disabled }) (cqConfigure i q v s) := by
  have h3 : (BitVec.ofNat 5 (bits v 4 0)).toNat = bits v 4 0 := Nat.mod_eq_of_lt (bits_lt v 4 0)
  have hlog (x : BitVec 5) : x != BitVec.ofNat 5 (bits v 4 0) ↔ x.toNat ≠ bits v 4 0 := by
    rw [bne_iff_ne, ne_eq, ← BitVec.toNat_inj, h3]
  unfold cqCtrlWrite
  dsimp only
  rw [if_neg (by simp [hi])]
  simp only [Bool.and_eq_true, decide_eq_true_eq, hlog]
  simp only [cqConfigure, Inst.names, Bool.and_eq_true, Bool.not_eq_true', bne_iff_ne, h3, and_assoc]
  rfl

/-- Settles O38, by the branches of the two control words. -/
theorem ringStates : Obligations.RingStates := by
  unfold Obligations.RingStates
  intro i q v s hlive r c same named
  refine ⟨fun hi => ⟨fun hv hr hlo hhi => ?_, fun hv hr hbad => ?_, fun hr hsame => ⟨fun hv => ?_, fun hv => ?_⟩,
    fun hv hr hsame => ?_, fun hv hc hlo hhi hheld hab => ?_, fun hv hc hlog => ?_, fun hv hnamed hlog => ?_,
    fun hv hnamed hc => ?_⟩, fun hr hnone => ?_⟩
  · obtain ⟨b, heq⟩ := sqCtrlWrite_disabled i q v s hi hr hv
    refine ⟨_, (sqEnable_eq i q v s hlive hv).trans (congrArg _ heq), ?_⟩
    dsimp only
    rw [if_pos ⟨hlo, hhi⟩]
    obtain ⟨b', h⟩ := admission_sq i (modSq i q (fun r => { r with st := .active, epoch := r.epoch + 1, head := 0, tail := 0, busy := b })
      (modSq i q (fun r => r.configured v) s)) q
    rw [h, modSq_at, modSq_at]
    exact ⟨rfl, rfl, rfl, rfl, Nat.mod_eq_of_lt (bits_lt v 19 16), Nat.mod_eq_of_lt (bits_lt v 13 12),
      Nat.mod_eq_of_lt (bits_lt v 4 0), rfl⟩
  · obtain ⟨b, heq⟩ := sqCtrlWrite_disabled i q v s hi hr hv
    refine ⟨_, (sqEnable_eq i q v s hlive hv).trans (congrArg _ heq), ?_⟩
    dsimp only
    rw [if_neg (by omega), (ringErr_only _ _ _ _ _).at_]
    have hsq := modSq_at i q (fun r => r.configured v) s
    refine ⟨by rw [hsq]; exact hr, by rw [hsq]; rfl, ?_⟩
    simp [bit]
  · refine ⟨_, (sqEnable_eq i q v s hlive hv).trans (congrArg _ (sqCtrlWrite_enabled i q v s hi hr)), ?_⟩
    dsimp only
    rw [if_pos hsame]
    exact ringErr_only _ _ _ _ _
  · refine ⟨_, (sqDisable_eq i q v s hlive hv).trans (congrArg _ (sqCtrlWrite_enabled i q v s hi hr)), ?_⟩
    dsimp only
    rw [if_pos hsame]
    exact ringErr_only _ _ _ _ _
  · have hne : r.st ≠ .disabled := by
      rcases hr with h | h <;> simp [h]
    rw [sqDisable_eq i q v s hlive hv, sqCtrlWrite_enabled i q v s hi hne]
    dsimp only
    rw [if_neg (not_not.2 hsame), if_neg (by simp [hv]), if_pos hr]
  · have hne : ¬ c.st = .active := by
      rcases hc with h | h <;> simp [h]
    refine ⟨_, (cqEnable_eq i q v s hlive hv).trans (congrArg _ (cqCtrlWrite_ready i q v s hi)), ?_⟩
    dsimp only
    rw [if_neg fun h => hne h.1, if_neg (by simp [hv]), if_pos hv, if_neg hne, if_pos ⟨hlo, hhi⟩]
    obtain ⟨n, u, hcfg⟩ := cqConfigure_at i q v s
    rw [flushCq_empty _ _ _ (by rw [modCq_at, hcfg]; exact hheld) (by rw [modCq_at, hcfg]; exact hab), modCq_at, hcfg]
    exact ⟨rfl, rfl, rfl, rfl, rfl, rfl, rfl, Nat.mod_eq_of_lt (bits_lt v 20 16)⟩
  · refine ⟨_, (cqEnable_eq i q v s hlive hv).trans (congrArg _ (cqCtrlWrite_ready i q v s hi)), ?_⟩
    dsimp only
    rw [if_pos ⟨hc, hlog⟩]
    exact ringErr_only _ _ _ _ _
  · refine ⟨_, (cqDisable_eq i q v s hlive hv).trans (congrArg _ (cqCtrlWrite_ready i q v s hi)), ?_⟩
    dsimp only
    rw [if_neg fun h => h.2 (hlog h.1), if_neg fun h => hnamed ((names_iff _ _).1 h.2.2), if_neg (by simp [hv]), modCq_at]
    obtain ⟨n, u, hcfg⟩ := cqConfigure_at i q v s
    rw [hcfg]
    exact ⟨rfl, rfl, rfl⟩
  · refine ⟨_, (cqDisable_eq i q v s hlive hv).trans (congrArg _ (cqCtrlWrite_ready i q v s hi)), ?_⟩
    dsimp only
    rw [if_pos (⟨hv, hc, (names_iff _ _).2 hnamed⟩ : _ ∧ _ ∧ _), ite_self]
    exact ringErr_only _ _ _ _ _
  · have hdone : (live s && decide ((s.inst[i.val].sq[q.val]).st = .draining) && !s.items.any fun x => x.inst = i && x.sq = q) = true := by
      simpa [hlive, show (s.inst[i.val].sq[q.val]).st = .draining from hr] using hnone
    refine ⟨_, congrArg Host.Outcome.next (if_pos hdone), ?_⟩
    obtain ⟨b, h⟩ := admission_sq i (modSq i q (fun r => { r with st := .disabled, busy := false }) s) q
    rw [h, modSq_at]

end Sys2Proof.Machine
end

section
/-! PROOFS. The fetch of a descriptor beside two of one number (R58, R76, R139). -/

namespace Sys2Proof.Machine

open Sys2Proof

/-- A LAUNCH that is ready now, number 0, with the deadline 1. -/
def dueLaunch : Item :=
  { id := 0, inst := 0, sq := 1, cq := 0, cls := 0, raw := 0x101 + (1#512 <<< 128), gen := 0, stage := .ready, released := true }

/-- A LAUNCH that is ready now, also number 0, without a deadline. -/
def timelessLaunch : Item := { dueLaunch with raw := 0x101 }

/-- At the time 1 both are accepted. The instance's addresses map to the pool of die 0, whose first bytes are the block that
maps them, and whose second line is a NOP with the deadline 1: the one entry of its SQ. -/
def fetchBesideTwins : State :=
  { State.reset with
    hub := { State.reset.hub with rstN := true, ready := true }
    eph := { State.reset.eph with now := 1 }
    mem := { State.reset.mem with dpa := [(0x2000000000, 0x13), (0x2000000004, 0x20), (0x2000000041, 1), (0x2000000050, 1)] }
    mtu := upd State.reset.mtu 0 fun m => { m with root := 0x2000000000, enable := true }
    inst := upd State.reset.inst 0 fun x => { x with sq := upd x.sq 0 fun r => { r with base := 0x40, log2 := 6, st := .active, tail := 1 } }
    items := [dueLaunch, timelessLaunch]
    nextId := 1 }

/-- The descriptors that the fetch leaves. -/
def fetchedBesideTwins : List Item :=
  match exec (.descriptorFetch 0 0 1 .ok) fetchBesideTwins with
  | .next t => t.items
  | _ => []

/-- The fetched NOP is ready at its deadline, so the descriptors of that tick are shed: the first of number 0 is due, and its
end is written over both. -/
theorem timelessLaunch_lost : timelessLaunch ∉ fetchedBesideTwins := by decide +kernel

/-- Refutes O39: nothing in the statement keeps two accepted descriptors from bearing one number. Of the two in
`fetchBesideTwins` the deadline sheds the first, and the statement wants the second to stay as it is; the shedding that the
fetched NOP brings names its descriptor by the number, and ends both. -/
theorem not_completionRecords : ¬ Obligations.CompletionRecords := by
  unfold Obligations.CompletionRecords
  intro h
  obtain ⟨hfetch, -⟩ := h 0 0 fetchBesideTwins (by decide +kernel)
  obtain ⟨haccept, -⟩ := hfetch (by decide +kernel) (by decide +kernel) (by decide +kernel) (by decide +kernel) (by decide +kernel)
    (by decide +kernel) (by decide +kernel)
  have hgood : GoodLine fetchBesideTwins 0x2000000040 := by
    unfold GoodLine
    decide +kernel
  obtain ⟨t, y, ht, -, -, hkept, -⟩ := haccept 0x2000000040 _ (by decide +kernel) hgood rfl
  have hin : timelessLaunch ∈ t.items := hkept timelessLaunch (by decide +kernel) (by decide +kernel)
  have hitems : fetchedBesideTwins = t.items := by
    unfold fetchedBesideTwins
    rw [ht]
  exact timelessLaunch_lost (hitems ▸ hin)
end Sys2Proof.Machine
end

section
/-! PROOFS. The escalation of a drain beside a descriptor of the same number (R58, R129). -/

namespace Sys2Proof.Machine

open Sys2Proof

/-- An HTU_RUN of instance 2 that runs, number 0. -/
def runningTwin : Item :=
  { id := 0, inst := 2, sq := 0, cq := 0, cls := 0, raw := 6, gen := 0, stage := .running, started := true }

/-- An HTU_RUN of instance 1 that its reset has taken over, also number 0. -/
def drainingTwin : Item := { runningTwin with inst := 1, stage := .ready, resetHead := some 0, draining := true }

/-- Instance 1 has been draining for a millisecond, and the HTU holds the one descriptor that it waits for. -/
def drainBesideTwin : State :=
  { State.reset with
    hub := { State.reset.hub with rstN := true, ready := true }
    eph := { State.reset.eph with ticks := usTicks 1000 }
    inst := upd State.reset.inst 1 fun x => { x with st := .draining }
    halo := { State.reset.halo with job := some { item := 0, next := 0 } }
    items := [runningTwin, drainingTwin]
    nextId := 1 }

/-- The state of instance 1 that the escalation leaves. -/
def escalatedState : InstState :=
  match exec (.resetEscalate 1) drainBesideTwin with
  | .next t => t.inst[1].st
  | _ => .off

/-- The end of the twin that runs has taken the draining one's place, so nothing ends the drain. -/
theorem escalatedState_eq : escalatedState = .draining := by decide +kernel

/-- Refutes O44: only its first clause asks that no two accepted descriptors bear one number. In `drainBesideTwin` two do; the
HTU's reset ends the one that runs, and the end is written over both. No drain item is left then whose end would start the
zeroing, and the instance that the statement wants in ZEROING stays in DRAINING. -/
theorem not_instanceResets : ¬ Obligations.InstanceResets := by
  unfold Obligations.InstanceResets
  intro h
  obtain ⟨-, -, -, -, -, -, hescalate, -⟩ := h drainBesideTwin 1 (by decide +kernel)
  obtain ⟨t, ht, hst, -⟩ := hescalate (by decide +kernel) (by decide +kernel) (by decide +kernel)
  have hzero : escalatedState = .zeroing := by
    unfold escalatedState
    rw [ht]
    exact hst
  exact absurd (escalatedState_eq.symm.trans hzero) (by decide)

end Sys2Proof.Machine
end

section
/-! PROOFS. The start of a held EVENT whose descriptor a reset has ended (R51, R130). -/

namespace Sys2Proof.Machine

open Sys2Proof

/-- An EVENT that a reset has ended, number 0: its ABORT_RESET record has not been written. -/
def abortedEvent : Item :=
  { id := 0, inst := 0, sq := 0, cq := 0, cls := 0, raw := 8, gen := 0, stage := .ended, resetHead := some 0 }

/-- The action of that EVENT is still held before pin 0, and the next command is to move it to the pin's queue. -/
def heldPastReset : State :=
  { State.reset with
    hub := { State.reset.hub with rstN := true, ready := true }
    evt := upd State.reset.evt 0 fun p => { p with held := [{ item := 0, inst := 0, rts := 0, kind := .high }] }
    items := [abortedEvent]
    nextId := 1
    pending := [.evtEnqueue 0] }

theorem heldPastReset_itemsWf : heldPastReset.itemsWf := by
  unfold State.itemsWf
  decide +kernel

/-- The descriptors that the step leaves. -/
def steppedItems : List Item :=
  match step heldPastReset with
  | .next t => t.items
  | _ => []

/-- The held action starts its descriptor whatever has become of it: it runs again, though the reset that has taken it over
does not wait for it. -/
theorem abortedEvent_runs : ∃ x ∈ steppedItems, x.resetHead ≠ none ∧ x.stage ≠ .ended ∧ x.draining ≠ true := by
  decide +kernel

/-- Refutes O5: the invariant says nothing of the held EVENT actions, and EVT_ENQUEUE starts the descriptor that one names
without a look at its stage. In `heldPastReset` the descriptor has been ended by a reset; the step makes it RUNNING, neither
ended nor a drain item. -/
theorem not_itemsWfStep : ¬ Obligations.ItemsWfStep := by
  unfold Obligations.ItemsWfStep
  intro h
  obtain ⟨x, hx, hreset, hstage, hdrain⟩ := abortedEvent_runs
  unfold steppedItems at hx
  split at hx
  · next t ht =>
    obtain ⟨-, -, htaken⟩ := h heldPastReset t heldPastReset_itemsWf ht
    obtain hended | hdrains := htaken x hx hreset
    · exact hstage hended
    · exact hdrain hdrains
  · cases hx

end Sys2Proof.Machine
end

section
/-! PROOFS. Reads where no free value is taken: what they find does not depend on cores, partitions and descriptors (R121 to R126,
R387 to R391, R533). -/

namespace Sys2Proof.Machine

open Sys2Proof

/-- What reads of memory do not look at; where no stale leaf is met, free values too. -/
structure Aside where
  items : List Item
  inst : Vector Inst 64
  parts : Vector Part 64
  disp : Vector Dispatcher 4
  cores : Vector Core 576
  free : Nat

/-- The block with these parts instead. -/
def State.aside (s : State) (o : Aside) : State :=
  { s with items := o.items, inst := o.inst, parts := o.parts, disp := o.disp, cores := o.cores, free := o.free }

/-- Two runs, from `s` and from `s.aside o`, that give `p` and `p'`: the first takes free values and keeps leaves but drops none,
and if it takes none the second gives the same. -/
structure Blind {α : Type} (o : Aside) (s : State) (p p' : α × State) : Prop where
  free : s.free ≤ p.2.free
  cache : ∀ i : InstId, s.mtu[i.val].cache ⊆ p.2.mtu[i.val].cache
  same : p.2.free = s.free → p' = (p.1, p.2.aside o)

section
variable {o : Aside} {α β : Type}

/-- A step that neither takes a free value nor touches a translation context. -/
theorem Blind.of_keeps {s t t' : State} (a : α) (hf : t.free = s.free) (hm : t.mtu = s.mtu) (h : t' = t.aside o) :
    Blind o s (a, t) (a, t') :=
  ⟨hf.ge, fun i => by rw [hm]; exact fun _ h => h, fun _ => by rw [h]⟩

theorem Blind.refl (s : State) (a : α) : Blind o s (a, s) (a, s.aside o) := .of_keeps a rfl rfl rfl

/-- One run goes on from another. -/
theorem Blind.bind {s : State} {p p' : α × State} {g g' : α → State → β × State} (h : Blind o s p p')
    (k : Blind o p.2 (g p.1 p.2) (g' p.1 (p.2.aside o))) : Blind o s (g p.1 p.2) (g' p'.1 p'.2) := by
  refine ⟨h.free.trans k.free, fun i _ hx => k.cache i (h.cache i hx), fun hf => ?_⟩
  have hp : p.2.free = s.free := le_antisymm (k.free.trans hf.le) h.free
  rw [h.same hp]
  exact k.same (hf.trans hp.symm)

/-- Of a step and the run that goes on from it. -/
theorem Blind.after_keeps {s t : State} {p p' : α × State} (hf : t.free = s.free) (hm : t.mtu = s.mtu) (h : Blind o t p p') :
    Blind o s p p' :=
  ⟨hf ▸ h.free, fun i => by have := h.cache i; rwa [hm] at this, fun e => h.same (e.trans hf.symm)⟩

/-- The result does not matter. -/
theorem Blind.map {s : State} {p p' : α × State} (f : α → β) (h : Blind o s p p') : Blind o s (f p.1, p.2) (f p'.1, p'.2) :=
  ⟨h.free, h.cache, fun e => by rw [h.same e]⟩

end

section
variable (o : Aside)

theorem foldl_aside {α : Type} (f : State → α → State) (hf : ∀ s x, f (s.aside o) x = (f s x).aside o) (l : List α) (s : State) :
    l.foldl f (s.aside o) = (l.foldl f s).aside o := by
  induction l generalizing s with
  | nil => rfl
  | cons x t ih => rw [List.foldl_cons, hf, ih, List.foldl_cons]

theorem foldl_keepsFree {α : Type} (f : State → α → State) (hf : ∀ s x, (f s x).free = s.free ∧ (f s x).mtu = s.mtu) (l : List α)
    (s : State) : (l.foldl f s).free = s.free ∧ (l.foldl f s).mtu = s.mtu := by
  induction l generalizing s with
  | nil => exact ⟨rfl, rfl⟩
  | cons x t ih => exact ⟨(ih _).1.trans (hf s x).1, (ih _).2.trans (hf s x).2⟩

/-! ### Translation (R121 to R125) -/

theorem fixLine_aside (a : Nat) (s : State) : fixLine a (s.aside o) = (fixLine a s).aside o := by
  have hcount : ∀ r (u : State), countFixed r (u.aside o) = (countFixed r u).aside o := by
    intro r u
    cases r <;> rfl
  rw [fixLine_eq, fixLine_eq, show (s.aside o).mem = s.mem from rfl, show regionOf (s.aside o) a = regionOf s a from rfl]
  split
  · exact hcount _ (s.unlatched a)
  · rfl

theorem fixLine_keeps (a : Nat) (s : State) : (fixLine a s).free = s.free ∧ (fixLine a s).mtu = s.mtu := by
  rw [fixLine_eq]
  split
  · cases regionOf s a <;> exact ⟨rfl, rfl⟩
  · exact ⟨rfl, rfl⟩

theorem keepLeaf_cache (i : InstId) (page : Nat) (e : Dword) (s : State) (j : InstId) :
    s.mtu[j.val].cache ⊆ (keepLeaf i page e s).mtu[j.val].cache := by
  unfold keepLeaf modMtu
  by_cases h : j = i
  · subst h
    rw [upd_same]
    dsimp only
    split
    · exact fun _ h => h
    · exact List.subset_append_left _ _
  · rw [upd_other _ _ _ _ j.isLt fun e => h (Fin.ext e)]
    exact fun _ h => h

/-- The leaf is among those kept now. -/
theorem mem_keepLeaf (i : InstId) (page : Nat) (e : Dword) (s : State) : (page, e) ∈ (keepLeaf i page e s).mtu[i.val].cache := by
  unfold keepLeaf modMtu
  rw [upd_same]
  dsimp only
  split
  · next h => simpa using h
  · simp

theorem leafFresh_blind (i : InstId) (page : Nat) (new : Except (BitVec 3) Dword) (s : State) :
    Blind o s (leafFresh i page new s) (leafFresh i page new (s.aside o)) := by
  cases new with
  | error k => exact .refl s _
  | ok e => exact ⟨le_rfl, keepLeaf_cache i page e s, fun _ => rfl⟩

/-- One of several leaves: where it is not the one that a walk finds, a free value has decided. -/
theorem leafKept_free (i : InstId) (page : Nat) (old : Dword) (olds : List Dword) (new : Except (BitVec 3) Dword) (s : State)
    (h : foundSame old olds new = false) : s.free < (leafKept i page old olds new s).2.free := by
  have hkeep : ∀ u, (keepFound i page new u).free = u.free := by
    intro u
    cases new <;> rfl
  unfold leafKept
  rw [h, if_neg Bool.false_ne_true]
  dsimp only
  split
  · simp only [takeFree, hkeep]
    omega
  · simp only [takeFree, hkeep]
    omega

theorem leafKept_blind (i : InstId) (page : Nat) (old : Dword) (olds : List Dword) (new : Except (BitVec 3) Dword) (s : State) :
    Blind o s (leafKept i page old olds new s) (leafKept i page old olds new (s.aside o)) := by
  cases hsame : foundSame old olds new with
  | true =>
    unfold leafKept
    rw [hsame]
    exact .refl s new
  | false =>
    have hfree := leafKept_free i page old olds new s hsame
    refine ⟨hfree.le, fun j => ?_, fun h => absurd h hfree.ne'⟩
    have hkeep : s.mtu[j.val].cache ⊆ (keepFound i page new (takeFree 1 s).2).mtu[j.val].cache := by
      cases new with
      | error k => exact fun _ h => h
      | ok e => exact keepLeaf_cache i page e (takeFree 1 s).2 j
    unfold leafKept
    rw [hsame, if_neg Bool.false_ne_true]
    dsimp only
    split
    · exact hkeep
    · exact hkeep

theorem leafFor_blind (i : InstId) (iva : Nat) (s : State) : Blind o s (leafFor i iva s) (leafFor i iva (s.aside o)) := by
  cases h : cachedLeaves s.mtu[i.val] (iva / 2 ^ 21) with
  | nil =>
    have haside : entriesRead i iva (s.aside o) = (entriesRead i iva s).aside o := foldl_aside o _ (fun s a => fixLine_aside o a s) _ s
    obtain ⟨hfree, hmtu⟩ := foldl_keepsFree _ (fun s a => fixLine_keeps a s) (tableEntries s.mtu[i.val] s iva) s
    rw [leafFor_fresh i iva s h, leafFor_fresh i iva (s.aside o) h, haside]
    exact .after_keeps hfree hmtu (leafFresh_blind o i _ _ _)
  | cons old olds =>
    rw [leafFor_kept i iva s old olds h, leafFor_kept i iva (s.aside o) old olds h]
    exact leafKept_blind o i _ old olds _ s

/-- What a leaf gives an access. -/
def leafGives (acc : Access) (iva : Nat) (r : Except (BitVec 3) Dword) (s : State) : Except (BitVec 3) Target × State :=
  match r with
  | .error k => (.error k, s)
  | .ok e =>
    if permits e acc then
      match leafTarget e iva with
      | .host a => (.ok (.host a), s)
      | .dpa a => if regionOf s a = .hole then (.error 0, s) else (.ok (.dpa a), s)
    else (.error 1, s)

theorem translate_eq (i : InstId) (acc : Access) (iva : Nat) (s : State) : translate i acc iva s =
    if 2 ^ 40 ≤ iva then (.error 2, s)
    else if !s.mtu[i.val].enable then (.error 3, s)
    else leafGives acc iva (leafFor i iva s).1 (leafFor i iva s).2 := by
  unfold translate
  rcases leafFor i iva s with ⟨k | e, u⟩ <;> rfl

theorem leafGives_state (acc : Access) (iva : Nat) (r : Except (BitVec 3) Dword) (s : State) : (leafGives acc iva r s).2 = s := by
  unfold leafGives
  split
  · rfl
  · split
    · split
      · rfl
      · split <;> rfl
    · rfl

theorem leafGives_blind (acc : Access) (iva : Nat) (r : Except (BitVec 3) Dword) (s : State) :
    Blind o s (leafGives acc iva r s) (leafGives acc iva r (s.aside o)) := by
  have hres : (leafGives acc iva r (s.aside o)).1 = (leafGives acc iva r s).1 := by
    unfold leafGives
    split
    · rfl
    · split
      · split
        · rfl
        · rw [show ∀ a, regionOf (s.aside o) a = regionOf s a from fun _ => rfl]
          split <;> rfl
      · rfl
  have hstate := leafGives_state acc iva r s
  have hstate' := leafGives_state acc iva r (s.aside o)
  refine ⟨by rw [hstate], fun i => by rw [hstate]; exact fun _ h => h, fun _ => ?_⟩
  rw [hstate]
  exact Prod.ext hres hstate'

theorem translate_blind (i : InstId) (acc : Access) (iva : Nat) (s : State) :
    Blind o s (translate i acc iva s) (translate i acc iva (s.aside o)) := by
  rw [translate_eq, translate_eq, show (s.aside o).mtu = s.mtu from rfl]
  split
  · exact .refl s _
  split
  · exact .refl s _
  · exact (leafFor_blind o i iva s).bind (g := leafGives acc iva) (g' := leafGives acc iva) (leafGives_blind o acc iva _ _)

/-! ### The error log (R533, R534, R544) -/

theorem poisonFound_aside (ls : List Nat) (s : State) : poisonFound ls (s.aside o) = (poisonFound ls s).aside o :=
  foldl_aside o _ (fun _ _ => rfl) ls s

theorem poisonFound_keeps (ls : List Nat) (s : State) : (poisonFound ls s).free = s.free ∧ (poisonFound ls s).mtu = s.mtu := by
  unfold poisonFound
  apply foldl_keepsFree
  exact fun _ _ => ⟨rfl, rfl⟩

theorem putDpa_aside (a : Nat) (d : List Byte) (s : State) : putDpa a d (s.aside o) = (putDpa a d s).aside o := rfl

theorem logBytes_aside (s : State) (q : Word) (ev ins ad de un : Nat) :
    logBytes (s.aside o) q ev ins ad de un = logBytes s q ev ins ad de un := rfl

theorem bfmCount_aside (k : BitVec 3) (i j : InstId) (h : Word) (s : State) :
    bfmCount k i j h (s.aside o) = (bfmCount k i j h s).aside o := rfl

theorem badLines_aside (as : List Nat) (s : State) : badLines as (s.aside o) = badLines as s := rfl

theorem modLog_aside (i : InstId) (f : LogRing → LogRing) (s : State) : modLog i f (s.aside o) = (modLog i f s).aside o := rfl

theorem msix_aside (fn : InstId) (v : Fin 32) (s : State) : msix fn v (s.aside o) = (msix fn v s).aside o := by
  unfold msix
  rw [show live (s.aside o) = live s from rfl, show (s.aside o).fns = s.fns from rfl]
  dsimp only
  split
  · split <;> rfl
  · rfl

theorem logDone_aside (i : InstId) (quiet : Bool) (v : Fin 32) (s : State) :
    logDone i quiet v (s.aside o) = (logDone i quiet v s).aside o := by
  unfold logDone
  rw [modLog_aside]
  dsimp only
  split
  · rfl
  · exact msix_aside o i v _

theorem logDone_keeps (i : InstId) (quiet : Bool) (v : Fin 32) (s : State) :
    (logDone i quiet v s).free = s.free ∧ (logDone i quiet v s).mtu = s.mtu := by
  unfold logDone
  dsimp only
  split
  · exact ⟨rfl, rfl⟩
  · rw [msix_frame]
    exact ⟨rfl, rfl⟩

/-- An entry written to a line of device memory that is in service. -/
theorem logLine_blind (i : InstId) (r : LogRing) (d : Nat) (data : List Byte) (s : State) {α : Type} (a : α) :
    Blind o s (a, logDone i r.quiet r.vector (putDpa d data (fixLine d (poisonFound (badLines [d] s) s))))
      (a, logDone i r.quiet r.vector (putDpa d data (fixLine d (poisonFound (badLines [d] s) (s.aside o))))) := by
  obtain ⟨hf1, hm1⟩ := poisonFound_keeps (badLines [d] s) s
  obtain ⟨hf2, hm2⟩ := fixLine_keeps d (poisonFound (badLines [d] s) s)
  obtain ⟨hf3, hm3⟩ := logDone_keeps i r.quiet r.vector (putDpa d data (fixLine d (poisonFound (badLines [d] s) s)))
  refine .of_keeps a (hf3.trans (hf2.trans hf1)) (hm3.trans (hm2.trans hm1)) ?_
  rw [poisonFound_aside, fixLine_aside, putDpa_aside, logDone_aside]

theorem logAt_blind (i : InstId) (x : LogItem) (r : LogRing) (t : Target) (s : State) :
    Blind o s (((logAt i x r t s).1, (logAt i x r t s).2.1), (logAt i x r t s).2.2)
      (((logAt i x r t (s.aside o)).1, (logAt i x r t (s.aside o)).2.1), (logAt i x r t (s.aside o)).2.2) := by
  have hdone : ∀ (u : State) (a : Option (BitVec 3) × List LogItem), u.free = s.free → u.mtu = s.mtu →
      Blind o s (a, logDone i r.quiet r.vector u) (a, logDone i r.quiet r.vector (u.aside o)) := fun u a hf hm =>
    .of_keeps a ((logDone_keeps i _ _ u).1.trans hf) ((logDone_keeps i _ _ u).2.trans hm) (logDone_aside o i _ _ u)
  unfold logAt
  rw [logBytes_aside]
  generalize logBytes s r.seq x.event x.inst x.addr x.detail x.unit = data
  cases t with
  | host h => exact hdone (putHost h data false s) _ rfl rfl
  | dpa d =>
    dsimp only
    rw [show regionOf (s.aside o) d = regionOf s d from rfl, show channelOut (s.aside o) d = channelOut s d from rfl, badLines_aside]
    split
    · split
      · exact hdone (bfmCount 4 i 0 (BitVec.allOnes 32) s) _ rfl rfl
      · exact hdone s _ rfl rfl
    · split
      · exact .refl s _
      · exact logLine_blind o i r d data s _

/-- An entry whose slot has been looked up: it is written, or its ring has met a fault (R534, R535). -/
def logTranslated (i : InstId) (x : LogItem) (r : LogRing) (k : Except (BitVec 3) Target) (s : State) :
    (Option (BitVec 3) × List LogItem) × State :=
  match k with
  | .error k =>
    let ls := if k = 4 then badLines (tableEntries s.mtu[i.val] s (logSlot r)) s else []
    ((some k, ls.map foundItem), recordFault i 610 k true (logSlot r) (poisonFound ls s))
  | .ok t => (((logAt i x r t s).1, (logAt i x r t s).2.1), (logAt i x r t s).2.2)

/-- What a log entry leads to, and the state that it leaves. -/
def logWritten (x : LogItem) (s : State) : (Option (BitVec 3) × List LogItem) × State :=
  let r := logWrite x.ring x.event x.inst x.addr x.detail x.unit s
  ((r.1, r.2.1), r.2.2)

theorem logWritten_eq (x : LogItem) (s : State) : logWritten x s =
    if !s.nuc.logs[x.ring.val].enable then ((none, []), s)
    else logTranslated x.ring x s.nuc.logs[x.ring.val] (translate x.ring .write (logSlot s.nuc.logs[x.ring.val]) s).1
      (translate x.ring .write (logSlot s.nuc.logs[x.ring.val]) s).2 := by
  unfold logWritten
  rw [logWrite_eq]
  split
  · rfl
  · rcases translate x.ring .write (logSlot s.nuc.logs[x.ring.val]) s with ⟨k | t, u⟩ <;> rfl

theorem recordFault_blind (i : InstId) (src : Nat) (k : BitVec 3) (wr : Bool) (a : Nat) (s : State) {α : Type} (b : α) :
    Blind o s (b, recordFault i src k wr a s) (b, recordFault i src k wr a (s.aside o)) := by
  refine ⟨le_rfl, fun j => ?_, fun _ => rfl⟩
  unfold recordFault modMtu
  by_cases h : j = i
  · subst h
    rw [upd_same]
    split <;> exact fun _ h => h
  · rw [upd_other _ _ _ _ j.isLt fun e => h (Fin.ext e)]
    exact fun _ h => h

theorem logTranslated_blind (i : InstId) (x : LogItem) (r : LogRing) (k : Except (BitVec 3) Target) (s : State) :
    Blind o s (logTranslated i x r k s) (logTranslated i x r k (s.aside o)) := by
  cases k with
  | error k =>
    unfold logTranslated
    dsimp only
    rw [badLines_aside, show (s.aside o).mtu = s.mtu from rfl,
      show tableEntries s.mtu[i.val] (s.aside o) (logSlot r) = tableEntries s.mtu[i.val] s (logSlot r) from rfl, poisonFound_aside]
    obtain ⟨hf, hm⟩ := poisonFound_keeps (if k = 4 then badLines (tableEntries s.mtu[i.val] s (logSlot r)) s else []) s
    exact .after_keeps hf hm (recordFault_blind o i 610 k true _ _ _)
  | ok t => exact logAt_blind o i x r t s

theorem logWritten_blind (x : LogItem) (s : State) : Blind o s (logWritten x s) (logWritten x (s.aside o)) := by
  rw [logWritten_eq, logWritten_eq, show (s.aside o).nuc = s.nuc from rfl]
  split
  · exact .refl s _
  · exact (translate_blind o x.ring .write _ s).bind (g := logTranslated x.ring x s.nuc.logs[x.ring.val])
      (g' := logTranslated x.ring x s.nuc.logs[x.ring.val]) (logTranslated_blind o x.ring x _ _ _)

/-- The entries that follow one, and the state before them. -/
def logNext (x : LogItem) (t : List LogItem) (r : Option (BitVec 3) × List LogItem) (s : State) : List LogItem × State :=
  match r.1 with
  | none => (r.2 ++ t, s)
  | some k =>
    ((if x.ring.val = 0 then []
      else [⟨0, 0x0300 + k.toNat, x.ring.val, logSlot (logFails x.ring s).nuc.logs[x.ring.val], 610, 0xFFFF⟩]) ++ r.2 ++ t,
      logFails x.ring s)

theorem logItems_succ (n : Nat) (x : LogItem) (t : List LogItem) (s : State) : logItems (n + 1) (x :: t) s =
    logItems n (logNext x t (logWritten x s).1 (logWritten x s).2).1 (logNext x t (logWritten x s).1 (logWritten x s).2).2 := by
  unfold logWritten
  rw [logItems]
  rcases logWrite x.ring x.event x.inst x.addr x.detail x.unit s with ⟨_ | k, more, u⟩ <;> rfl

theorem logNext_blind (x : LogItem) (t : List LogItem) (r : Option (BitVec 3) × List LogItem) (s : State) :
    Blind o s (logNext x t r s) (logNext x t r (s.aside o)) := by
  unfold logNext
  split
  · exact .refl s _
  · exact .of_keeps _ rfl rfl rfl

theorem logItems_blind (n : Nat) (l : List LogItem) (s : State) : Blind o s ((), logItems n l s) ((), logItems n l (s.aside o)) := by
  induction n generalizing l s with
  | zero => cases l <;> exact .refl s ()
  | succ n ih =>
    cases l with
    | nil => exact .refl s ()
    | cons x t =>
      rw [logItems_succ, logItems_succ]
      have hnext := (logWritten_blind o x s).bind (g := logNext x t) (g' := logNext x t) (logNext_blind o x t _ _)
      exact hnext.bind (g := fun l u => ((), logItems n l u)) (g' := fun l u => ((), logItems n l u)) (ih _ _)

theorem logPf_blind (ev ins ad de un : Nat) (s : State) :
    Blind o s ((), logPf ev ins ad de un s) ((), logPf ev ins ad de un (s.aside o)) := logItems_blind o _ _ s

theorem logBoth_blind (i : InstId) (ev ad de un : Nat) (s : State) :
    Blind o s ((), logBoth i ev ad de un s) ((), logBoth i ev ad de un (s.aside o)) := by
  unfold logBoth
  dsimp only
  split
  · exact logPf_blind o _ _ _ _ _ s
  · exact (logItems_blind o _ _ s).bind (g := fun _ u => ((), logPf _ _ _ _ _ u)) (g' := fun _ u => ((), logPf _ _ _ _ _ u))
      (logPf_blind o _ _ _ _ _ _)

/-! ### Reads (R126, R387 to R391) -/

theorem findErrors_blind (a : Nat) (s : State) : Blind o s ((), findErrors a s) ((), findErrors a (s.aside o)) := by
  unfold findErrors
  rw [badLines_aside]
  split
  · exact .of_keeps () (fixLine_keeps a s).1 (fixLine_keeps a s).2 (fixLine_aside o a s)
  · rw [poisonFound_aside]
    obtain ⟨hf, hm⟩ := poisonFound_keeps (badLines [a] s) s
    exact .after_keeps hf hm (logPf_blind o _ _ _ _ _ _)

theorem bfmEvent_blind (i : InstId) (s : State) : Blind o s ((), bfmEvent 4 i 0 (BitVec.allOnes 32) s)
    ((), bfmEvent 4 i 0 (BitVec.allOnes 32) (s.aside o)) := by
  unfold bfmEvent
  rw [bfmCount_aside]
  exact .after_keeps (t := bfmCount 4 i 0 (BitVec.allOnes 32) s) rfl rfl (logBoth_blind o i (0x0510 + (4 : BitVec 3).toNat) 0 0 0xFFFF _)

/-- A read's result, and the state that it leaves. -/
def RdRes.run (r : RdRes) : (Option AccErr × List Byte × Bool) × State := ((r.err, r.data, r.poison), r.s)

theorem readTarget_blind (i : InstId) (t : Target) (n : Nat) (s : State) :
    Blind o s (readTarget i t n s).run (readTarget i t n (s.aside o)).run := by
  unfold readTarget
  cases t with
  | host a => exact .refl s _
  | dpa a =>
    dsimp only
    rw [show regionOf (s.aside o) a = regionOf s a from rfl, show channelOut (s.aside o) a = channelOut s a from rfl]
    split
    · split
      · next off _ _ => exact (bfmEvent_blind o i s).map fun _ => (none, portOnes off n, false)
      · exact .refl s _
    · split
      · exact .refl s _
      · exact (findErrors_blind o a s).bind
          (g := fun _ u => ((none, Memory.read 0 u.mem.dpa a n, linePoisoned u a), u))
          (g' := fun _ u => ((none, Memory.read 0 u.mem.dpa a n, linePoisoned u a), u)) (.refl _ _)

/-- The read of a line whose address has been looked up. -/
def lineRead (v : Who) (acc : Access) (iva n : Nat) (k : Except (BitVec 3) Target) (s : State) : RdRes :=
  match k with
  | .error k => ⟨some (.mtu k), [], false, mtuFault v.inst v.src k (acc != .read) iva s⟩
  | .ok t => readTarget v.inst t n s

theorem readLine_current (v : Who) (acc : Access) (iva n : Nat) (s : State) (h : current v s = true) :
    readLine v acc iva n s = lineRead v acc iva n (translate v.inst acc iva s).1 (translate v.inst acc iva s).2 := by
  unfold readLine
  rw [h]
  rcases translate v.inst acc iva s with ⟨k | t, u⟩ <;> rfl

/-- The read of a line that meets no fault, by two that ask for one instance. -/
theorem readLine_blind (v v' : Who) (hi : v'.inst = v.inst) (acc : Access) (iva n : Nat) (s : State) (h : current v s = true)
    (h' : current v' (s.aside o) = true) (hok : (readLine v acc iva n s).err = none) :
    Blind o s (readLine v acc iva n s).run (readLine v' acc iva n (s.aside o)).run := by
  rw [readLine_current v acc iva n s h] at hok ⊢
  rw [readLine_current v' acc iva n _ h', hi]
  have hlook := translate_blind o v.inst acc iva s
  generalize translate v.inst acc iva s = p at hok hlook ⊢
  refine hlook.bind (g := fun k u => (lineRead v acc iva n k u).run) (g' := fun k u => (lineRead v' acc iva n k u).run) ?_
  obtain ⟨k | t, u⟩ := p
  · cases hok
  · simp only [lineRead, hi]
    exact readTarget_blind o v.inst t n u

/-- A read goes on after a line, or has met a fault. -/
def readOn (v : Who) (t : List (Nat × Nat)) (d : List Byte) (p : Bool) (x : Option AccErr × List Byte × Bool) (s : State) : RdRes :=
  match x with
  | (some e, _, _) => ⟨some e, d, p, s⟩
  | (none, d', p') => readChunks v t ⟨none, d ++ d', p || p', s⟩

theorem readChunks_cons (v : Who) (a n : Nat) (t : List (Nat × Nat)) (r : RdRes) : readChunks v ((a, n) :: t) r =
    readOn v t r.data r.poison (readLine v .read a n r.s).run.1 (readLine v .read a n r.s).run.2 := by
  rw [readChunks]
  rcases readLine v .read a n r.s with ⟨_ | e, d, p, u⟩ <;> rfl

/-- A read that meets no fault, by two that ask for one instance. -/
theorem readChunks_blind (v v' : Who) (hi : v'.inst = v.inst) (hv' : o.inst[v'.inst.val].gen = v'.gen) (l : List (Nat × Nat)) (r : RdRes)
    (hr : r.err = none) (h : current v r.s = true) (hok : (readChunks v l r).err = none) :
    Blind o r.s (readChunks v l r).run (readChunks v' l ⟨none, r.data, r.poison, r.s.aside o⟩).run := by
  induction l generalizing r with
  | nil =>
    obtain ⟨e, d, p, s⟩ := r
    obtain rfl : e = none := hr
    exact .refl s _
  | cons x t ih =>
    obtain ⟨a, n⟩ := x
    have hcur : current v' (r.s.aside o) = true := decide_eq_true hv'
    have hinst := readLine_inst v .read a n r.s
    rw [readChunks_cons] at hok ⊢
    rw [readChunks_cons]
    have hline := readLine_blind o v v' hi .read a n r.s h hcur
    refine Blind.bind (g := fun x u => (readOn v t r.data r.poison x u).run) (g' := fun x u => (readOn v' t r.data r.poison x u).run)
      (hline ?_) ?_
    · rcases hl : readLine v .read a n r.s with ⟨_ | e, d, p, u⟩
      · rfl
      · rw [hl] at hok
        cases hok
    · rcases hl : readLine v .read a n r.s with ⟨_ | e, d, p, u⟩
      · rw [hl] at hok hinst
        refine ih ⟨none, r.data ++ d, r.poison || p, u⟩ rfl ?_ hok
        unfold current at h ⊢
        rwa [show u.inst = r.s.inst from hinst]
      · rw [hl] at hok
        cases hok

/-- A read that leaves the block as it is finds the same beside other cores, partitions and descriptors. -/
theorem readIva_aside (v v' : Who) (hi : v'.inst = v.inst) (hv' : o.inst[v'.inst.val].gen = v'.gen) (a n : Nat) (s : State) (d : List Byte)
    (h : current v s = true) (hread : readIva v a n s = ⟨none, d, false, s⟩) :
    readIva v' a n (s.aside o) = ⟨none, d, false, s.aside o⟩ := by
  unfold readIva at hread ⊢
  have hb := readChunks_blind o v v' hi hv' (chunks a n) ⟨none, [], false, s⟩ rfl h (by rw [hread])
  have hsame := hb.same (by rw [hread]; rfl)
  rw [hread] at hsame
  rcases hr : readChunks v' (chunks a n) ⟨none, [], false, s.aside o⟩ with ⟨e, d', p, u⟩
  rw [hr] at hsame
  cases hsame
  rfl

end

/-! ### Reads that leave the block as it is -/

/-- A leaf that costs no free value and is kept already leaves the block as it is. -/
theorem leafFor_steady {i : InstId} {iva : Nat} {s u : State} {e : Dword} (h : leafFor i iva s = (.ok e, u)) (hf : u.free = s.free)
    (hc : u.mtu[i.val].cache ⊆ s.mtu[i.val].cache) : u = s := by
  cases hkept : cachedLeaves s.mtu[i.val] (iva / 2 ^ 21) with
  | nil =>
    rw [leafFor_fresh i iva s hkept] at h
    cases hw : walk (entriesRead i iva s).mtu[i.val] (entriesRead i iva s) iva with
    | error k =>
      rw [hw] at h
      cases h
    | ok e' =>
      rw [hw] at h
      have hu : u = keepLeaf i (iva / 2 ^ 21) e' (entriesRead i iva s) := (congrArg Prod.snd h).symm
      have hin := hc (hu ▸ mem_keepLeaf i (iva / 2 ^ 21) e' (entriesRead i iva s))
      have hcached : e' ∈ cachedLeaves s.mtu[i.val] (iva / 2 ^ 21) :=
        List.mem_map.2 ⟨(iva / 2 ^ 21, e'), List.mem_filter.2 ⟨hin, by simp⟩, rfl⟩
      rw [hkept] at hcached
      cases hcached
  | cons old olds =>
    rw [leafFor_kept i iva s old olds hkept] at h
    cases hsame : foundSame old olds (walk s.mtu[i.val] s iva) with
    | true =>
      unfold leafKept at h
      rw [hsame] at h
      exact (congrArg Prod.snd h).symm
    | false =>
      have hmore := leafKept_free i (iva / 2 ^ 21) old olds _ s hsame
      rw [h] at hmore
      exact absurd hf hmore.ne'

theorem translate_steady {i : InstId} {acc : Access} {iva : Nat} {s u : State} {t : Target} (h : translate i acc iva s = (.ok t, u))
    (hf : u.free = s.free) (hc : u.mtu[i.val].cache ⊆ s.mtu[i.val].cache) : u = s := by
  rw [translate_eq] at h
  split at h
  · cases h
  split at h
  · cases h
  · have hu : (leafFor i iva s).2 = u := (leafGives_state _ _ _ _).symm.trans (congrArg Prod.snd h)
    rcases hl : leafFor i iva s with ⟨k | e, u'⟩
    · rw [hl] at h
      cases h
    · rw [hl] at hu
      obtain rfl : u' = u := hu
      exact leafFor_steady hl hf hc

/-- The block's own cores, partitions, descriptors and free values. -/
def State.own (s : State) : Aside :=
  { items := s.items, inst := s.inst, parts := s.parts, disp := s.disp, cores := s.cores, free := s.free }

/-- A read that leaves the block as it is has looked up its address so too. -/
theorem readIva_translates (v : Who) (a n : Nat) (s : State) (d : List Byte) (hn : 0 < n) (h : current v s = true)
    (hread : readIva v a n s = ⟨none, d, false, s⟩) : ∃ t, translate v.inst .read a s = (.ok t, s) := by
  obtain ⟨m, rest, hchunks⟩ : ∃ m rest, chunks a n = (a, m) :: rest := by
    obtain ⟨f, hf⟩ : ∃ f, chunks a n = chunksAux (f + 1) a n := ⟨_, rfl⟩
    rw [hf, chunksAux, if_neg (by omega)]
    exact ⟨_, _, rfl⟩
  have hline := readLine_inst v .read a m s
  unfold readIva at hread
  rw [hchunks, readChunks_cons, readLine_current v _ _ _ _ h] at hread
  rw [readLine_current v _ _ _ _ h] at hline
  have hlook := translate_blind s.own v.inst .read a s
  rcases htr : translate v.inst .read a s with ⟨k | t, u⟩
  · rw [htr] at hread
    cases hread
  · rw [htr] at hread hline hlook
    have htarget := readTarget_blind s.own v.inst t m u
    simp only [lineRead] at hread hline
    rcases hx : readTarget v.inst t m u with ⟨_ | e, d', p, w⟩
    · rw [hx] at hread hline htarget
      have hrest := readChunks_blind s.own v v rfl (of_decide_eq_true h) rest ⟨none, [] ++ d', false || p, w⟩ rfl
        (by unfold current at h ⊢; rwa [show w.inst = s.inst from hline])
        (congrArg RdRes.err hread)
      rw [show readChunks v rest ⟨none, [] ++ d', false || p, w⟩ = ⟨none, d, false, s⟩ from hread] at hrest
      have hf : u.free = s.free := le_antisymm (htarget.free.trans hrest.free) hlook.free
      exact ⟨t, by rw [translate_steady htr hf fun _ hx => hrest.cache _ (htarget.cache _ hx)]⟩
    · rw [hx] at hread
      cases hread

end Sys2Proof.Machine
end

section
/-! PROOFS. A LAUNCH that starts, and one that cannot (R89, R117, R158 to R161). -/

namespace Sys2Proof.Machine

open Sys2Proof

/-! ### The addresses that a LAUNCH names, and what it reads -/

/-- Addresses that are looked up without a change. -/
theorem firstRequests_aside (o : Aside) (w : Who) (l : List (Access × Nat)) (s : State)
    (h : ∀ e ∈ l, ∃ t, translate w.inst e.1 e.2 s = (.ok t, s)) : firstRequests w l (s.aside o) = (none, s.aside o) := by
  induction l with
  | nil => rfl
  | cons e l ih =>
    obtain ⟨t, ht⟩ := h e List.mem_cons_self
    have hsame := (translate_blind o w.inst e.1 e.2 s).same (by rw [ht])
    rw [firstRequests, hsame, ht]
    exact ih fun e he => h e (List.mem_cons_of_mem _ he)

theorem readTarget_length (i : InstId) (t : Target) (n : Nat) (s : State) (h : (readTarget i t n s).err = none) :
    (readTarget i t n s).data.length = n := by
  revert h
  unfold readTarget
  split
  · intro
    simp
  · split
    · intro
      split <;> simp [portOnes]
    · split
      · intro h
        cases h
      · intro
        simp

theorem readLine_length (w : Who) (acc : Access) (a n : Nat) (s : State) (h : (readLine w acc a n s).err = none) :
    (readLine w acc a n s).data.length = n := by
  unfold readLine at h ⊢
  split
  · next hc => rw [if_pos hc] at h; cases h
  · next hc =>
    rw [if_neg hc] at h
    rcases htr : translate w.inst acc a s with ⟨k | t, u⟩
    · rw [htr] at h
      cases h
    · rw [htr] at h
      exact readTarget_length w.inst t n u h

theorem readChunks_length {a n : Nat} {l : List (Nat × Nat)} (hl : Tiles a n l) (w : Who) (r : RdRes)
    (h : (readChunks w l r).err = none) : (readChunks w l r).data.length = r.data.length + n := by
  induction hl generalizing r with
  | nil a => rfl
  | cons a m n l hm _ ih =>
    have hline := readLine_length w .read a m r.s
    unfold readChunks at h ⊢
    rcases hread : readLine w .read a m r.s with ⟨_ | e, d, p, u⟩
    · rw [hread] at h hline
      have hrest := ih ⟨none, r.data ++ d, r.poison || p, u⟩ h
      have hd : d.length = m := hline rfl
      dsimp only at hrest ⊢
      rw [hrest, List.length_append, hd]
      omega
    · rw [hread] at h
      cases h

/-- A read that meets no fault gives as many bytes as it asks for. -/
theorem ReadsAs.length {i : InstId} {a n : Nat} {s : State} {d : List Byte} (h : ReadsAs i a n s d) : d.length = n := by
  have := readChunks_length (chunks_tiles a n) { inst := i, src := 0, gen := s.inst[i.val].gen } ⟨none, [], false, s⟩
  unfold ReadsAs readIva at h
  rw [h] at this
  simpa using this rfl

/-- A range that reads as given does so for the instance's other engines, beside other cores, partitions and descriptors. -/
theorem ReadsAs.aside {i : InstId} {a n : Nat} {s : State} {d : List Byte} (h : ReadsAs i a n s d) (o : Aside) (w : Who)
    (hi : w.inst = i) (hg : o.inst[w.inst.val].gen = w.gen) : readIva w a n (s.aside o) = ⟨none, d, false, s.aside o⟩ :=
  readIva_aside o { inst := i, src := 0, gen := s.inst[i.val].gen } w hi hg a n s d (decide_eq_true rfl) h

theorem ReadsAs.translates {i : InstId} {a n : Nat} {s : State} {d : List Byte} (h : ReadsAs i a n s d) (hn : n ≠ 0) :
    ∃ t, translate i .read a s = (.ok t, s) :=
  readIva_translates { inst := i, src := 0, gen := s.inst[i.val].gen } a n s d (by omega) (decide_eq_true rfl) h

/-! ### Cores of a partition -/

/-- These cores changed, the others as they are. -/
def coresWith (ks : List CoreId) (f : CoreId → Core → Core) (v : Vector Core 576) : Vector Core 576 :=
  Vector.ofFn fun i : CoreId => if i ∈ ks then f i v[i.val] else v[i.val]

theorem coresWith_in {ks : List CoreId} {k : CoreId} (h : k ∈ ks) (f : CoreId → Core → Core) (v : Vector Core 576) :
    (coresWith ks f v)[k.val] = f k v[k.val] := by
  simp [coresWith, h]

theorem coresWith_out {ks : List CoreId} {k : CoreId} (h : k ∉ ks) (f : CoreId → Core → Core) (v : Vector Core 576) :
    (coresWith ks f v)[k.val] = v[k.val] := by
  simp [coresWith, h]

theorem coresWith_nil (f : CoreId → Core → Core) (v : Vector Core 576) : coresWith [] f v = v := by
  refine Vector.ext fun j hj => ?_
  exact coresWith_out (k := ⟨j, hj⟩) List.not_mem_nil f v

theorem coresWith_cons (c : CoreId) (ks : List CoreId) (hc : c ∉ ks) (f : CoreId → Core → Core) (v : Vector Core 576) :
    coresWith ks f (upd v c (f c)) = coresWith (c :: ks) f v := by
  refine Vector.ext fun j hj => ?_
  obtain ⟨k, rfl⟩ : ∃ k : CoreId, k.val = j := ⟨⟨j, hj⟩, rfl⟩
  by_cases e : k = c
  · subst e
    rw [coresWith_out hc, upd_same, coresWith_in List.mem_cons_self]
  · have hv : (upd v c (f c))[k.val] = v[k.val] := upd_other _ _ _ _ k.isLt fun h => e (Fin.ext h)
    by_cases hk : k ∈ ks
    · rw [coresWith_in hk, hv, coresWith_in (List.mem_cons_of_mem _ hk)]
    · rw [coresWith_out hk, hv, coresWith_out]
      simp [e, hk]

/-- Cores changed one by one, by steps that depend on no core. -/
theorem foldl_cores (f : CoreId → Core → Core) (g : State → CoreId → State) (s : State)
    (hg : ∀ v c, g { s with cores := v } c = modCore c (f c) { s with cores := v }) (ks : List CoreId) (hd : ks.Nodup)
    (v : Vector Core 576) : ks.foldl g { s with cores := v } = { s with cores := coresWith ks f v } := by
  induction ks generalizing v with
  | nil => rw [coresWith_nil]; rfl
  | cons c ks ih =>
    obtain ⟨hc, hd⟩ := List.nodup_cons.1 hd
    rw [List.foldl_cons, hg, ← coresWith_cons c ks hc]
    exact ih hd (upd v c (f c))

/-- A core as a LAUNCH makes it RUNNING (R158, R160, R223). -/
def Core.launched (n : Fin 64) (p : Part) (x : Item) (c : CoreId) (k : Core) : Core :=
  { k with st := .running, stall := .none, pc := BitVec.ofNat 17 (dfield x.raw 36 4), s := entryRegs n p x c
           p := Vector.replicate 8 0, v := Vector.replicate 32 0, flags := 0, everFlags := 0, orphan := false, last := none
           pendS := 0, pendV := 0, pendP := 0, arr := [], spx := [], hac := [], ocu := [], ni := [], posts := []
           coalesce := none, gen := x.gen, arrived := 0
           mbox := k.mbox.map fun m => { m with closed := false, msgs := [], granted := [], waiting := [] }
           sendBuf := [], exitWord := 0, faultValid := false }

theorem foldl_launchCore (n : Fin 64) (x : Item) (ks : List CoreId) (hd : ks.Nodup) (s : State) :
    ks.foldl (fun s c => launchCore n x c s) s = { s with cores := coresWith ks (Core.launched n s.parts[n.val] x) s.cores } :=
  foldl_cores (Core.launched n s.parts[n.val] x) (fun s c => launchCore n x c s) s (fun _ _ => rfl) ks hd s.cores

/-- A core that a block of bytes has been written to. -/
def Core.filled (now : Stamp) (a : Nat) (d : List Byte) (k : Core) : Core :=
  if d = [] then k
  else { k with mem := Memory.write 0 k.mem a d
                last := some now
                poisoned := (chunks a d.length).foldl (fun p r => if r.2 = 64 then delLine p (r.1 / 64) else p) k.poisoned
                latent := k.latent.filter fun e => !(chunks a d.length).any fun r => r.2 = 64 && r.1 / 64 = e.1 }

theorem loadCores_eq (ks : List CoreId) (hd : ks.Nodup) (a : Nat) (d : List Byte) (s : State) :
    loadCores ks a d [] s = { s with cores := coresWith ks (fun _ => Core.filled (stampNow s) a d) s.cores } := by
  unfold loadCores
  split
  · next h =>
    have hsame : coresWith ks (fun _ => Core.filled (stampNow s) a d) s.cores = s.cores := by
      refine Vector.ext fun j hj => ?_
      simp [coresWith, Core.filled, h]
    rw [hsame]
  · next h =>
    refine foldl_cores (fun _ => Core.filled (stampNow s) a d) _ s (fun v c => ?_) ks hd s.cores
    unfold localPut
    rw [modCore_modCore]
    refine congrArg (fun f => modCore c f _) (funext fun k => ?_)
    rw [Core.filled, if_neg h]
    rfl

/-! ### A LAUNCH that starts -/

/-- A block of bytes that is read and written to every core. -/
theorem loadBlock_reads {i : InstId} {a n : Nat} {s : State} {d : List Byte} (h : ReadsAs i a n s d) (o : Aside) (w : Who)
    (hi : w.inst = i) (hg : o.inst[w.inst.val].gen = w.gen) (ks : List CoreId) (hd : ks.Nodup) (dest : Nat) :
    loadBlock w ks a n dest (s.aside o) =
      (none, false, s.aside { o with cores := coresWith ks (fun _ => Core.filled (stampNow s) dest d) o.cores }) := by
  unfold loadBlock
  rw [h.aside o w hi hg]
  dsimp only
  rw [if_neg Bool.false_ne_true, loadCores_eq ks hd]
  rfl

/-- A core that a LAUNCH has started and loaded. -/
def Core.loaded (n : Fin 64) (p : Part) (x : Item) (now : Stamp) (img args : List Byte) (c : CoreId) (k : Core) : Core :=
  Core.filled now dataBase args (Core.filled now 0 img (Core.launched n p x c k))

theorem coresWith_coresWith (ks : List CoreId) (f g : CoreId → Core → Core) (v : Vector Core 576) :
    coresWith ks g (coresWith ks f v) = coresWith ks (fun c k => g c (f c k)) v := by
  refine Vector.ext fun j hj => ?_
  obtain ⟨k, rfl⟩ : ∃ k : CoreId, k.val = j := ⟨⟨j, hj⟩, rfl⟩
  by_cases hk : k ∈ ks
  · rw [coresWith_in hk, coresWith_in hk, coresWith_in hk]
  · rw [coresWith_out hk, coresWith_out hk, coresWith_out hk]

/-- The poison that a LAUNCH's reads met. -/
def poisonMet (p q : Bool) (x : Item) : Item := { x with out := { x.out with poison := x.out.poison || p || q } }

/-- The block once the cores of a LAUNCH have started and its partition is taken. -/
def launchStarted (n : Fin 64) (x : Item) (s : State) : State :=
  modPart n (fun p => { p with item := some x.id, firstFault := none, fabricFirst := false })
    ((coresOf n s).foldl (fun s c => launchCore n x c s) s)

/-- The block once the image that a LAUNCH brought, if any, has been written. -/
def imageSet (n : Fin 64) (x : Item) (s : State) : State :=
  if dfield x.raw 32 4 = 0 then s else modPart n (fun p => { p with imageValid := true }) s

theorem launchLoad_loaded (n : Fin 64) (x : Item) (w : Who) (s s1 s2 : State) (p q : Bool)
    (h1 : loadBlock w (coresOf n s) (dfield x.raw 24 8) (dfield x.raw 32 4) 0 (launchStarted n x s) = (none, p, s1))
    (h2 : loadBlock w (coresOf n s) (dfield x.raw 40 8) (dfield x.raw 48 4) dataBase (imageSet n x s1) = (none, q, s2)) :
    launchLoad n x w s = modItem x.id (poisonMet p q) s2 := by
  unfold launchStarted at h1
  unfold imageSet at h2
  unfold launchLoad
  dsimp only
  rw [h1]
  dsimp only
  rw [h2]
  rfl

/-- The same beside reads: these cores have started. -/
def Aside.started (o : Aside) (n : Fin 64) (x : Item) (ks : List CoreId) : Aside :=
  { o with cores := coresWith ks (Core.launched n o.parts[n.val] x) o.cores
           parts := upd o.parts n fun p => { p with item := some x.id, firstFault := none, fabricFirst := false } }

theorem launchStarted_aside (n : Fin 64) (x : Item) (s : State) (o : Aside) :
    launchStarted n x (s.aside o) = s.aside (o.started n x (coresOf n (s.aside o))) := by
  unfold launchStarted
  rw [foldl_launchCore n x _ (coresOf_nodup n _)]
  rfl

/-- Partitions once the image that a LAUNCH brought, if any, has been written. -/
def partsLoaded (n : Fin 64) (x : Item) (v : Vector Part 64) : Vector Part 64 :=
  if dfield x.raw 32 4 = 0 then v else upd v n fun p => { p with imageValid := true }

theorem imageSet_aside (n : Fin 64) (x : Item) (s : State) (o : Aside) :
    imageSet n x (s.aside o) = s.aside { o with parts := partsLoaded n x o.parts } := by
  unfold imageSet partsLoaded
  split <;> rfl

/-- Partitions once a LAUNCH has its program run on one. -/
def partsLaunched (n : Fin 64) (x : Item) (v : Vector Part 64) : Vector Part 64 :=
  partsLoaded n x (upd v n fun p => { p with item := some x.id, firstFault := none, fabricFirst := false })

theorem launchLoad_reads (n : Fin 64) (x : Item) (w : Who) (s : State) (o : Aside) (img args : List Byte) (hi : w.inst = x.inst)
    (hg : o.inst[w.inst.val].gen = w.gen) (himg : ReadsAs x.inst (dfield x.raw 24 8) (dfield x.raw 32 4) s img)
    (hargs : ReadsAs x.inst (dfield x.raw 40 8) (dfield x.raw 48 4) s args) :
    launchLoad n x w (s.aside o) = modItem x.id (poisonMet false false) (s.aside { o with
      parts := partsLaunched n x o.parts
      cores := coresWith (coresOf n (s.aside o)) (Core.loaded n o.parts[n.val] x (stampNow s) img args) o.cores }) := by
  have hd := coresOf_nodup n (s.aside o)
  have himage := loadBlock_reads himg (o.started n x (coresOf n (s.aside o))) w hi hg _ hd 0
  rw [← launchStarted_aside] at himage
  refine launchLoad_loaded n x w _ _ _ false false himage ?_
  rw [imageSet_aside]
  refine Eq.trans (loadBlock_reads hargs _ w hi (by exact hg) _ hd dataBase) ?_
  dsimp only [Aside.started]
  rw [coresWith_coresWith, coresWith_coresWith]
  rfl

/-- A LAUNCH whose image and arguments can be read: its cores run, loaded, and its partition is taken. -/
theorem launchRun_reads (n : Fin 64) (x : Item) (s : State) (o : Aside) (img args : List Byte)
    (hg : o.inst[x.inst.val].gen = x.gen) (himg : ReadsAs x.inst (dfield x.raw 24 8) (dfield x.raw 32 4) s img)
    (hargs : ReadsAs x.inst (dfield x.raw 40 8) (dfield x.raw 48 4) s args) :
    launchRun n x (s.aside o) = modItem x.id (poisonMet false false) (s.aside { o with
      free := o.free + 1
      parts := partsLaunched n x o.parts
      cores := coresWith (coresOf n (s.aside o)) (Core.loaded n o.parts[n.val] x (stampNow s) img args) o.cores }) := by
  have hnames : ∀ e ∈ launchNames x, ∃ t, translate x.inst e.1 e.2 s = (.ok t, s) := by
    intro e he
    unfold launchNames at he
    rcases List.mem_append.1 he with he | he
    · split at he
      · cases he
      · next h =>
        rw [List.mem_singleton.1 he]
        exact himg.translates h
    · split at he
      · cases he
      · next h =>
        rw [List.mem_singleton.1 he]
        exact hargs.translates h
  unfold launchRun
  rw [show takeFree 10 (s.aside o) = (Config.freeValue o.free 10, s.aside { o with free := o.free + 1 }) from rfl]
  dsimp only
  rw [firstRequests_aside { o with free := o.free + 1 } _ _ s hnames]
  exact launchLoad_reads n x _ s { o with free := o.free + 1 } img args rfl hg himg hargs

/-! ### What a started core holds -/

theorem Core.filled_keeps (now : Stamp) (a : Nat) (d : List Byte) (k : Core) :
    (k.filled now a d).st = k.st ∧ (k.filled now a d).pc = k.pc ∧ (k.filled now a d).s = k.s ∧ (k.filled now a d).v = k.v ∧
      (k.filled now a d).p = k.p ∧ (k.filled now a d).gen = k.gen := by
  unfold Core.filled
  split <;> exact ⟨rfl, rfl, rfl, rfl, rfl, rfl⟩

theorem Core.filled_mem (now : Stamp) (a : Nat) (d : List Byte) (k : Core) :
    (k.filled now a d).mem = Memory.write 0 k.mem a d := by
  unfold Core.filled
  split
  · next h => rw [h]; rfl
  · rfl

theorem Core.loaded_keeps (n : Fin 64) (p : Part) (x : Item) (now : Stamp) (img args : List Byte) (c : CoreId) (k : Core) :
    (k.loaded n p x now img args c).st = .running ∧ (k.loaded n p x now img args c).pc = BitVec.ofNat 17 (dfield x.raw 36 4) ∧
      (k.loaded n p x now img args c).s = entryRegs n p x c ∧ (k.loaded n p x now img args c).v = Vector.replicate 32 0 ∧
      (k.loaded n p x now img args c).p = Vector.replicate 8 0 ∧ (k.loaded n p x now img args c).gen = x.gen := by
  obtain ⟨h1, h2, h3, h4, h5, h6⟩ := (Core.launched n p x c k).filled_keeps now 0 img
  obtain ⟨k1, k2, k3, k4, k5, k6⟩ := ((Core.launched n p x c k).filled now 0 img).filled_keeps now dataBase args
  exact ⟨k1.trans h1, k2.trans h2, k3.trans h3, k4.trans h4, k5.trans h5, k6.trans h6⟩

theorem Core.loaded_mem (n : Fin 64) (p : Part) (x : Item) (now : Stamp) (img args : List Byte) (c : CoreId) (k : Core) :
    (k.loaded n p x now img args c).mem = Memory.write 0 (Memory.write 0 k.mem 0 img) 0x20000 args :=
  (Core.filled_mem _ _ _ _).trans (congrArg (fun m => Memory.write 0 m dataBase args) (Core.filled_mem _ _ _ _))

/-- Registers at entry (R160). -/
theorem entryRegs_entry (n : Fin 64) (p : Part) (x : Item) (c : CoreId) : EntryRegs n p x c (entryRegs n p x c) := by
  refine ⟨by simp [entryRegs, coreX, coreY], ?_, by simp [entryRegs], by simp [entryRegs], ?_,
    by simp [entryRegs], by simp [entryRegs], fun r hr => ?_⟩
  · simp only [entryRegs, coreX, coreY, Vector.getElem_ofFn]
    congr 1
    omega
  · have htag : dfield x.raw 4 4 % 4294967296 = dfield x.raw 4 4 := Nat.mod_eq_of_lt (Nat.mod_lt _ (by norm_num))
    simp [entryRegs, Item.tag, htag]
  · obtain ⟨r, hlt⟩ := r
    obtain ⟨j, rfl⟩ := Nat.exists_eq_add_of_le' hr
    simp only [entryRegs, Vector.getElem_ofFn]
    rfl

theorem partsLaunched_at (n : Fin 64) (x : Item) (v : Vector Part 64) :
    ((partsLaunched n x v)[n.val]).item = some x.id ∧ ((partsLaunched n x v)[n.val]).firstFault = none ∧
      ((partsLaunched n x v)[n.val]).imageValid = (v[n.val].imageValid || dfield x.raw 32 4 != 0) := by
  unfold partsLaunched partsLoaded
  split
  · next h => simp [h]
  · next h => simp [h]

/-! ### Dispatch of a LAUNCH -/

/-- The block beside which a LAUNCH reads, once dispatch has started it. -/
def State.besides (s : State) (w : Work) : Aside :=
  { items := w.items, inst := w.inst, parts := s.parts, disp := w.disp, cores := s.cores, free := s.free }

theorem rework_eq_aside (s : State) (w : Work) : s.rework w = s.aside (s.besides w) := rfl

/-- A LAUNCH that the dispatcher starts on cores in service: it runs, or it is invalid (R117, R158). -/
theorem launch_dispatched (d : Nat) (x : Item) (s : State) (hlive : live s = true) (h : StartsNext d 1 0 (launchFree s) x s)
    (hopen : ∀ k ∈ coresOf (launchPart x) s, unitClosed (unitCore k) s = false) :
    ∃ w : Work, findItem d (s.rework w) = some (x.begun s.eph.ticks) ∧ KeepsGrants s (s.rework w) ∧
      exec (.launch d) s = .next (if launchOk x s then launchRun (launchPart x) x (s.rework w) else endInvalid d (s.rework w)) := by
  obtain ⟨w, hw, hfind, hkeep, -⟩ := dispatchStart_calm d 1 0 (launchFree s) x s h
  obtain ⟨hx, hop, hst, ⟨aged, hpick⟩, -⟩ := h
  have hitem : isItem d 1 .ready s = true := by
    unfold isItem
    rw [hx]
    simp [hop, hst]
  have hnext : isNext d 0 (launchFree s) s = true := by
    unfold isNext
    rw [hpick]
    exact decide_eq_true (findItem_id hx)
  have hclosed : ((coresOf (launchPart x) (s.rework w)).any fun c => unitClosed (unitCore c) (s.rework w)) = false := by
    rw [List.any_eq_false]
    intro k hk
    rw [show unitClosed (unitCore k) (s.rework w) = unitClosed (unitCore k) s from rfl, hopen k hk]
    exact Bool.false_ne_true
  refine ⟨w, hfind, hkeep, ?_⟩
  show execLaunch d s = _
  unfold execLaunch
  rw [hx]
  dsimp only
  unfold act
  rw [hlive, hitem, hnext]
  refine congrArg Host.Outcome.next ((if_pos rfl).trans ?_)
  dsimp only
  rw [hw, hclosed, if_neg Bool.false_ne_true]
  rfl

/-! ### A LAUNCH that ends at its start -/

theorem endItem_cores (d : Nat) (result : Dword) (f : Outcomes → Outcomes) (s : State) : (endItem d result f s).cores = s.cores := by
  have hest : ∀ y st (u : State), (estComplete y st u).cores = u.cores := by
    intro y st u
    unfold estComplete
    split <;> rfl
  have hadm : ∀ i (u : State), (admission i u).cores = u.cores := by
    intro i u
    obtain ⟨sq, p, seen, at_, h, -⟩ := admission_eq i u
    rw [h.1]
    rfl
  unfold endItem
  split
  · rfl
  split
  · rfl
  · dsimp only
    split
    · rfl
    · rw [hadm]
      exact hest _ _ _

/-- A descriptor that ends as invalid when it has just started met nothing else. -/
theorem endInvalid_completes (d : Nat) (x : Item) (s u : State) (now : Nat) (hx : findItem d s = some x) (hf : Fresh x s)
    (hu : findItem d u = some (x.begun now)) : Completes d 0x10 (firstResult x.raw) s (endInvalid d u) := by
  obtain ⟨hout, -, hresult, hreset, -⟩ := hf
  have hinvalid : endInvalid d u = endItem d (x.begun now).result (fun o => { o with invalid := true }) u := by
    unfold endInvalid endEarly
    rw [hu]
  have hstatus : statusOf (endedItem (x.begun now) (x.begun now).result (fun o => { o with invalid := true }) u).out = 0x10 := by
    have hbegun : (x.begun now).out = {} := hout
    unfold endedItem
    rw [hbegun]
    rfl
  obtain ⟨-, hdone⟩ := endItem_completes d (x.begun now).result (fun o => { o with invalid := true }) u (x.begun now) hu
    (by simp [Item.begun]) hreset
  rw [hstatus, ← hinvalid, show (x.begun now).result = firstResult x.raw from hresult] at hdone
  exact hdone.earlier hx hu rfl rfl rfl rfl

/-! ### LAUNCH (R117, R158 to R161) -/

/-- Bytes of local memory once image and arguments have been written. -/
theorem loaded_bytes (m : Memory) (hm : Memory.wf 0 m = true) (img args : List Byte) (himg : img.length ≤ 0x20000) :
    (∀ j, (h : j < img.length) → Memory.get 0 (Memory.write 0 (Memory.write 0 m 0 img) 0x20000 args) j = img[j]) ∧
      (∀ j, (h : j < args.length) → Memory.get 0 (Memory.write 0 (Memory.write 0 m 0 img) 0x20000 args) (0x20000 + j) = args[j]) ∧
      ∀ b, (img.length ≤ b ∧ b < 0x20000) ∨ 0x20000 + args.length ≤ b →
        Memory.get 0 (Memory.write 0 (Memory.write 0 m 0 img) 0x20000 args) b = Memory.get 0 m b := by
  have hm' := Memory.wf_write 0 m 0 img hm
  refine ⟨fun j h => ?_, fun j h => ?_, fun b hb => ?_⟩
  · have := get_write_inside m 0 j img hm h
    rw [get_write_outside _ _ _ _ hm' (by omega)]
    rw [Nat.zero_add] at this
    rw [this, List.getD_eq_getElem _ _ h]
  · rw [get_write_inside _ _ _ _ hm' h, List.getD_eq_getElem _ _ h]
  · rw [get_write_outside _ _ _ _ hm' (by omega), get_write_outside _ _ _ _ hm (by omega)]

/-- A core that a LAUNCH has started and loaded: it runs at the entry, with image and arguments. -/
theorem loaded_core (n : Fin 64) (p : Part) (x : Item) (now : Stamp) (img args : List Byte) (c : CoreId) (k k' : Core)
    (hk : k' = k.loaded n p x now img args c) (hm : Memory.wf 0 k.mem = true) (hlen : img.length ≤ 0x20000) :
    k'.st = .running ∧ k'.pc.toNat = dfield x.raw 36 4 % 131072 ∧ EntryRegs n p x c k'.s ∧ k'.v = Vector.replicate 32 0 ∧
      k'.p = Vector.replicate 8 0 ∧ k'.gen = x.gen ∧ (∀ j, (h : j < img.length) → Memory.get 0 k'.mem j = img[j]) ∧
      (∀ j, (h : j < args.length) → Memory.get 0 k'.mem (0x20000 + j) = args[j]) ∧
      ∀ b, (img.length ≤ b ∧ b < 0x20000) ∨ 0x20000 + args.length ≤ b → Memory.get 0 k'.mem b = Memory.get 0 k.mem b := by
  obtain ⟨hst, hpc, hregs, hv, hp, hg⟩ := k.loaded_keeps n p x now img args c
  obtain ⟨hin, hdata, hrest⟩ := loaded_bytes k.mem hm img args hlen
  rw [hk, Core.loaded_mem, hst, hpc, hregs, hv, hp, hg]
  exact ⟨rfl, BitVec.toNat_ofNat _ _, entryRegs_entry n p x c, rfl, rfl, rfl, hin, hdata, hrest⟩

/-- A LAUNCH that the dispatcher starts with image and arguments that can be read: what it leaves. -/
theorem launch_runs (d : Nat) (x : Item) (s : State) (img args : List Byte) (hlive : live s = true)
    (hstarts : StartsNext d 1 0 (launchFree s) x s) (hopen : ∀ k ∈ coresOf (launchPart x) s, unitClosed (unitCore k) s = false)
    (hok : launchOk x s = true) (hgen : s.inst[x.inst.val].gen = x.gen)
    (himg : ReadsAs x.inst (dfield x.raw 24 8) (dfield x.raw 32 4) s img)
    (hargs : ReadsAs x.inst (dfield x.raw 40 8) (dfield x.raw 48 4) s args) :
    ∃ t, exec (.launch d) s = .next t ∧ findItem d t = some (poisonMet false false (x.begun s.eph.ticks)) ∧
      t.parts = partsLaunched (launchPart x) x s.parts ∧
      t.cores = coresWith (coresOf (launchPart x) s)
        (Core.loaded (launchPart x) s.parts[(launchPart x).val] x (stampNow s) img args) s.cores := by
  obtain ⟨w, hfind, hkeep, hexec⟩ := launch_dispatched d x s hlive hstarts hopen
  rw [hok, if_pos rfl, rework_eq_aside,
    launchRun_reads (launchPart x) x s (s.besides w) img args ((hkeep.gen x.inst).trans hgen) himg hargs] at hexec
  refine ⟨_, hexec, ?_, rfl, rfl⟩
  rw [findItem_id hstarts.1, findItem_modItem d (poisonMet false false) _ fun _ h => h,
    findItem_items (t := s.aside _) (s := s.rework w) rfl, hfind]
  rfl

/-- A LAUNCH that the dispatcher starts and that cannot run ends as invalid, and no core changes. -/
theorem launch_invalid (d : Nat) (x : Item) (s : State) (hlive : live s = true) (hstarts : StartsNext d 1 0 (launchFree s) x s)
    (hopen : ∀ k ∈ coresOf (launchPart x) s, unitClosed (unitCore k) s = false) (hbad : launchOk x s = false) (hfresh : Fresh x s) :
    ∃ t, exec (.launch d) s = .next t ∧ t.cores = s.cores ∧ Completes d 0x10 (firstResult x.raw) s t := by
  obtain ⟨w, hfind, -, hexec⟩ := launch_dispatched d x s hlive hstarts hopen
  rw [hbad, if_neg Bool.false_ne_true] at hexec
  refine ⟨_, hexec, ?_, endInvalid_completes d x s _ _ hstarts.1 hfresh hfind⟩
  unfold endInvalid endEarly
  split
  · rfl
  · exact endItem_cores _ _ _ _

/-- Settles O28: a read that leaves the block as it is does so beside other cores and descriptors too (`ReadsAs.aside`), so the
LAUNCH loads what was read in the state before it. -/
theorem launchStarts : Obligations.LaunchStarts := by
  unfold Obligations.LaunchStarts
  intro d x s hlive hstarts hd hpart
  extract_lets n p
  intro hfree hopen
  have hn : launchPart x = n := rfl
  refine ⟨fun img args hvalid howner hgen hwf himg hargs hbrings hreadImg hreadArgs => ?_, fun hfresh hbad => ?_⟩
  · have hset : (dfield x.raw 32 4 != 0 || p.imageValid) = true := by simpa using hbrings
    have hok : launchOk x s = true :=
      Bool.and_eq_true_iff.2 ⟨Bool.and_eq_true_iff.2 ⟨hvalid, decide_eq_true howner⟩, hset⟩
    obtain ⟨t, hexec, hfind, hparts, hcores⟩ := launch_runs d x s img args hlive hstarts hopen hok hgen hreadImg hreadArgs
    obtain ⟨hitem, hfault, himage⟩ := partsLaunched_at n x s.parts
    rw [← hn, ← hparts] at hitem hfault himage
    refine ⟨t, hexec, hitem.trans (congrArg some hd.symm), hfault, himage.trans ((Bool.or_comm _ _).trans hset), fun y hy => ?_,
      fun k hk => ?_, fun k hk => ?_⟩
    · rw [← Option.some.inj (hfind.symm.trans hy)]
      rfl
    · exact loaded_core n p x (stampNow s) img args k _ _ ((congrArg (Vector.get · k) hcores).trans (coresWith_in hk _ s.cores)) (hwf k)
        (hreadImg.length ▸ himg)
    · exact (congrArg (Vector.get · k) hcores).trans (coresWith_out hk _ s.cores)
  · have hok : launchOk x s = false := by
      rw [Bool.eq_false_iff]
      intro hok
      obtain ⟨howned, himage⟩ := Bool.and_eq_true_iff.1 hok
      obtain ⟨hvalid, howner⟩ := Bool.and_eq_true_iff.1 howned
      rcases hbad with hbad | hbad | ⟨hbad, himg⟩
      · exact absurd (hvalid.symm.trans hbad) (by decide)
      · exact hbad (of_decide_eq_true howner)
      · rw [hbad, show s.parts[(launchPart x).val].imageValid = false from himg] at himage
        exact absurd himage (by decide)
    rw [show BitVec.ofNat 64 (0xFFFF * 2 ^ 32) = firstResult x.raw from (if_pos hstarts.2.1).symm]
    exact launch_invalid d x s hlive hstarts hopen hok hfresh

end Sys2Proof.Machine
end

section
/-! PROOFS. A CMPR of a core at the head of whose posts a seal stands (R324, R326, R328, R338). -/

namespace Sys2Proof.Machine

open Sys2Proof

/-- A seal of bin set 0 of die 0: a post with no bytes. -/
def standingSeal : Post := { die := 0, queue := 0, entry := [] }

/-- Core 0 runs, its slots at W = 0, and would compress one column to 0x20040 with the descriptor at 0x20000; a seal of an old
generation stands at the head of its posts. -/
def sealBeforeCmpr : State :=
  modCore 0 (fun k => { ((k.putS 1 0x20040).putS 2 0x20000).putS 4 1 with
    st := .running, gen := 1, slots := Vector.replicate 64 { wBase := 0 }, posts := [standingSeal] })
    { State.reset with hub := { State.reset.hub with rstN := true, ready := true } }

/-- CMPR without post to a D tile of INT8. -/
def plainCmpr : TFmt := { g := { en := false, neg := false, p := 0 }, acc := 0, a := 1, b := 2, c := 0, e := 4, x := 0 }

/-- The posts and seals of instance 0 that the CMPR leaves counted as discarded. -/
def discardedByCmpr : Nat :=
  match exec (.cmpr 0 plainCmpr) sealBeforeCmpr with
  | .next t => t.mtu[0].suppressed.toNat
  | _ => 0

/-- The seal is discarded with the issue of the CMPR. -/
theorem discardedByCmpr_eq : discardedByCmpr = 1 := by decide +kernel

/-- What a change of one core and of the count of free values leaves of the MTU contexts. -/
theorem OnlyCore.mtu {c : CoreId} {s t : State} (h : OnlyCore c s t) : t.mtu = s.mtu := by
  obtain ⟨hframe, -⟩ := h
  rw [hframe]
  rfl

/-- Refutes O36: its first clause leaves the posts of the core open. In `sealBeforeCmpr` a seal stands at their head; the issue of
the CMPR takes it, and as it is of an old generation it is counted as discarded in the MTU context of its instance, where the
statement lets nothing change but the core. -/
theorem not_compressAndBins : ¬ Obligations.CompressAndBins := by
  unfold Obligations.CompressAndBins
  intro h
  obtain ⟨hcmpr, -⟩ := h 0 sealBeforeCmpr
  have hready : Executes 0 plainCmpr.g sealBeforeCmpr ∧ NotLast 0 sealBeforeCmpr ∧
      NotPending sealBeforeCmpr.cores[0] [1, 2, 0, 4] [] [] ∧ QueueRoom sealBeforeCmpr.cores[0] .ocu 1 ∧
      NoRace (some .ocu) sealBeforeCmpr.cores[0] ∧ CleanCore sealBeforeCmpr.cores[0] := by
    unfold Executes NotLast NotPending QueueRoom NoRace CleanCore
    decide +kernel
  have hsettled : SlotsSettled sealBeforeCmpr.cores[0] ((List.range 16).flatMap fun i =>
      [(plainCmpr.acc.toNat + i) % 64 / 2 * 2, (plainCmpr.acc.toNat + i) % 64 / 2 * 2 + 1]) false := by
    unfold SlotsSettled
    decide +kernel
  have hplace : Storable 0x20040 4096 ∧ Storable 0x20000 32 := by
    unfold Storable
    decide
  obtain ⟨hexec, hlast, hpending, hroom, hrace, hclean⟩ := hready
  obtain ⟨hbody, hdesc⟩ := hplace
  obtain ⟨t, ht, honly, -⟩ := hcmpr plainCmpr 1 hexec hlast hpending hroom rfl (by decide) (by decide +kernel) (by decide) (by decide)
    (by decide +kernel) hclean hsettled (by decide +kernel) (by decide +kernel) (by decide +kernel) hbody (by decide +kernel) hdesc
    (.inl (by decide +kernel)) hrace
  have hcount : discardedByCmpr = 0 := by
    unfold discardedByCmpr
    rw [ht]
    show t.mtu[0].suppressed.toNat = 0
    rw [honly.mtu]
    rfl
  exact absurd (discardedByCmpr_eq.symm.trans hcount) (by decide)

end Sys2Proof.Machine
end

section
/-! PROOFS. What a look-up leaves, and what of the memory outlasts a log entry and an exception: the poison of its lines and a
recorded translation fault (R125, R126, R153, R388). -/

namespace Sys2Proof.Machine

open Sys2Proof

/-! ### What a translation leaves (R121 to R125) -/

/-- The fault that an MTU holds (R153). -/
def Mtu.fault (m : Mtu) : Bool × BitVec 3 × Bool × BitVec 10 × Dword :=
  (m.faultValid, m.faultKind, m.faultWrite, m.faultSource, m.faultAddr)

/-- Only errors found and corrected, kept leaves and free values may differ; no fault is recorded. -/
def LookedUp (s t : State) : Prop :=
  t = { s with mem := { s.mem with latent := t.mem.latent, ce := t.mem.ce }, mtu := t.mtu, free := t.free, dies := t.dies } ∧
    ∀ i : InstId, t.mtu[i.val].fault = s.mtu[i.val].fault

namespace LookedUp

theorem refl (s : State) : LookedUp s s := ⟨rfl, fun _ => rfl⟩

theorem trans {s t u : State} (h : LookedUp s t) (k : LookedUp t u) : LookedUp s u := by
  obtain ⟨h1, h2⟩ := h
  obtain ⟨k1, k2⟩ := k
  refine ⟨?_, fun i => (k2 i).trans (h2 i)⟩
  rw [k1, h1]

theorem cores {s t : State} (h : LookedUp s t) : t.cores = s.cores := by rw [h.1]

theorem poisoned {s t : State} (h : LookedUp s t) : t.mem.poisoned = s.mem.poisoned := by rw [h.1]

theorem regionOf {s t : State} (h : LookedUp s t) (a : Nat) : Machine.regionOf t a = Machine.regionOf s a := by
  rw [h.1]
  rfl

theorem channelOut {s t : State} (h : LookedUp s t) (a : Nat) : Machine.channelOut t a = Machine.channelOut s a := by
  rw [h.1]
  rfl

end LookedUp

/-- A change of one MTU that leaves its fault leaves the fault of each. -/
theorem modMtu_fault (i j : InstId) (f : Mtu → Mtu) (s : State) (h : (f s.mtu[i.val]).fault = s.mtu[i.val].fault) :
    (modMtu i f s).mtu[j.val].fault = s.mtu[j.val].fault := by
  unfold modMtu
  by_cases e : j = i
  · subst e
    rw [upd_same]
    exact h
  · rw [upd_other _ _ _ _ j.isLt fun k => e (Fin.ext k)]

theorem fixLine_lookedUp (a : Nat) (s : State) : LookedUp s (fixLine a s) := by
  refine ⟨?_, fun i => by rw [(fixLine_keeps a s).2]⟩
  rw [fixLine_eq]
  split
  · cases regionOf s a <;> rfl
  · rfl

theorem entriesRead_lookedUp (i : InstId) (iva : Nat) (s : State) : LookedUp s (entriesRead i iva s) := by
  unfold entriesRead
  generalize tableEntries s.mtu[i.val] s iva = l
  induction l generalizing s with
  | nil => exact .refl s
  | cons a t ih => exact (fixLine_lookedUp a s).trans (ih _)

theorem keepFound_lookedUp (i : InstId) (page : Nat) (new : Except (BitVec 3) Dword) (s : State) :
    LookedUp s (keepFound i page new s) := by
  cases new with
  | error k => exact .refl s
  | ok e => exact ⟨rfl, fun j => modMtu_fault i j _ s rfl⟩

theorem leafFresh_lookedUp (i : InstId) (page : Nat) (new : Except (BitVec 3) Dword) (s : State) :
    LookedUp s (leafFresh i page new s).2 := by
  have h := keepFound_lookedUp i page new s
  cases new <;> exact h

theorem takeFree_lookedUp (n : Nat) (s : State) : LookedUp s (takeFree n s).2 := ⟨rfl, fun _ => rfl⟩

theorem leafKept_lookedUp (i : InstId) (page : Nat) (old : Dword) (olds : List Dword) (new : Except (BitVec 3) Dword)
    (s : State) : LookedUp s (leafKept i page old olds new s).2 := by
  have h := (takeFree_lookedUp 1 s).trans (keepFound_lookedUp i page new _)
  unfold leafKept
  dsimp only
  split
  · exact .refl s
  split
  · exact h.trans (takeFree_lookedUp 32 _)
  · exact h

theorem leafFor_lookedUp (i : InstId) (iva : Nat) (s : State) : LookedUp s (leafFor i iva s).2 := by
  cases h : cachedLeaves s.mtu[i.val] (iva / 2 ^ 21) with
  | nil =>
    rw [leafFor_fresh i iva s h]
    exact (entriesRead_lookedUp i iva s).trans (leafFresh_lookedUp i _ _ _)
  | cons old olds =>
    rw [leafFor_kept i iva s old olds h]
    exact leafKept_lookedUp i _ old olds _ s

theorem translate_lookedUp (i : InstId) (acc : Access) (iva : Nat) (s : State) : LookedUp s (translate i acc iva s).2 := by
  rw [translate_eq]
  split
  · exact .refl s
  split
  · exact .refl s
  · rw [leafGives_state]
    exact leafFor_lookedUp i iva s

/-! ### What outlasts the log (R126, R388, R533) -/

/-- A poisoned line stays poisoned, and a fault that an MTU holds stands. -/
def Remembers (s t : State) : Prop :=
  (∀ l ∈ s.mem.poisoned, l ∈ t.mem.poisoned) ∧
    ∀ i : InstId, s.mtu[i.val].faultValid = true → t.mtu[i.val].fault = s.mtu[i.val].fault

namespace Remembers

theorem refl (s : State) : Remembers s s := ⟨fun _ h => h, fun _ _ => rfl⟩

theorem trans {s t u : State} (h : Remembers s t) (k : Remembers t u) : Remembers s u := by
  obtain ⟨h1, h2⟩ := h
  obtain ⟨k1, k2⟩ := k
  refine ⟨fun l hl => k1 l (h1 l hl), fun i hi => ?_⟩
  have hvalid : t.mtu[i.val].faultValid = true := (congrArg Prod.fst (h2 i hi)).trans hi
  exact (k2 i hvalid).trans (h2 i hi)

theorem of_same {s t : State} (h1 : t.mem.poisoned = s.mem.poisoned) (h2 : t.mtu = s.mtu) : Remembers s t :=
  ⟨fun _ h => h1 ▸ h, fun _ _ => by rw [h2]⟩

theorem of_lookedUp {s t : State} (h : LookedUp s t) : Remembers s t :=
  ⟨fun _ hl => h.poisoned ▸ hl, fun i _ => h.2 i⟩

/-- Steps that remember, repeated over a list. -/
theorem foldl {α : Type} (f : State → α → State) (h : ∀ s x, Remembers s (f s x)) (l : List α) (s : State) :
    Remembers s (l.foldl f s) := by
  induction l generalizing s with
  | nil => exact .refl s
  | cons x t ih => exact (h s x).trans (ih _)

end Remembers

theorem poisonFound_remembers (ls : List Nat) (s : State) : Remembers s (poisonFound ls s) := by
  unfold poisonFound
  refine .foldl _ (fun s l => ?_) ls s
  exact ⟨fun x hx => mem_addLine s.mem.poisoned l x hx, fun _ _ => rfl⟩

theorem recordFault_remembers (i : InstId) (src : Nat) (k : BitVec 3) (wr : Bool) (a : Nat) (s : State) :
    Remembers s (recordFault i src k wr a s) := by
  refine ⟨fun _ h => h, fun j hj => ?_⟩
  unfold recordFault modMtu
  by_cases e : j = i
  · subst e
    rw [upd_same, if_pos hj]
    rfl
  · rw [upd_other _ _ _ _ j.isLt fun k => e (Fin.ext k)]

theorem fixLine_remembers (a : Nat) (s : State) : Remembers s (fixLine a s) := .of_lookedUp (fixLine_lookedUp a s)

theorem logDone_remembers (i : InstId) (quiet : Bool) (v : Fin 32) (s : State) : Remembers s (logDone i quiet v s) := by
  refine .of_same ?_ (logDone_keeps i quiet v s).2
  unfold logDone
  dsimp only
  split
  · rfl
  · rw [msix_frame]
    rfl

theorem logAt_remembers (i : InstId) (x : LogItem) (r : LogRing) (t : Target) (s : State) :
    Remembers s (logAt i x r t s).2.2 := by
  have hdone : ∀ u v : State, v.mem.poisoned = u.mem.poisoned → v.mtu = u.mtu → Remembers u (logDone i r.quiet r.vector v) :=
    fun u v h1 h2 => (Remembers.of_same h1 h2).trans (logDone_remembers i r.quiet r.vector v)
  unfold logAt
  generalize logBytes s r.seq x.event x.inst x.addr x.detail x.unit = data
  cases t with
  | host h => exact hdone s (putHost h data false s) rfl rfl
  | dpa d =>
    dsimp only
    split
    · split
      · exact hdone s (bfmCount 4 i 0 (BitVec.allOnes 32) s) rfl rfl
      · exact hdone s s rfl rfl
    · split
      · exact .refl s
      · exact (poisonFound_remembers _ s).trans ((fixLine_remembers d _).trans (hdone _ (putDpa d data _) rfl rfl))

theorem logWritten_remembers (x : LogItem) (s : State) : Remembers s (logWritten x s).2 := by
  rw [logWritten_eq]
  split
  · exact .refl s
  · refine (Remembers.of_lookedUp (translate_lookedUp x.ring .write (logSlot s.nuc.logs[x.ring.val]) s)).trans ?_
    cases (translate x.ring .write (logSlot s.nuc.logs[x.ring.val]) s).1 with
    | error k => exact (poisonFound_remembers _ _).trans (recordFault_remembers _ _ _ _ _ _)
    | ok t => exact logAt_remembers _ _ _ _ _

theorem logNext_remembers (x : LogItem) (t : List LogItem) (r : Option (BitVec 3) × List LogItem) (s : State) :
    Remembers s (logNext x t r s).2 := by
  unfold logNext
  split
  · exact .refl s
  · exact .of_same rfl rfl

theorem logItems_remembers (n : Nat) (l : List LogItem) (s : State) : Remembers s (logItems n l s) := by
  induction n generalizing l s with
  | zero => cases l <;> exact .refl s
  | succ n ih =>
    cases l with
    | nil => exact .refl s
    | cons x t =>
      rw [logItems_succ]
      exact (logWritten_remembers x s).trans ((logNext_remembers x t _ _).trans (ih _ _))

theorem logPf_remembers (ev ins ad de un : Nat) (s : State) : Remembers s (logPf ev ins ad de un s) := logItems_remembers _ _ s

theorem logBoth_remembers (i : InstId) (ev ad de un : Nat) (s : State) : Remembers s (logBoth i ev ad de un s) := by
  unfold logBoth
  dsimp only
  split
  · exact logPf_remembers _ _ _ _ _ s
  · exact (logItems_remembers _ _ s).trans (logPf_remembers _ _ _ _ _ _)

theorem findErrors_remembers (a : Nat) (s : State) : Remembers s (findErrors a s) := by
  unfold findErrors
  split
  · exact fixLine_remembers a s
  · exact (poisonFound_remembers _ s).trans (logPf_remembers _ _ _ _ _ _)

theorem bfmEvent_remembers (kind : BitVec 3) (i holder : InstId) (h : Word) (s : State) :
    Remembers s (bfmEvent kind i holder h s) := by
  have hcount : Remembers s (bfmCount kind i holder h s) := .of_same rfl rfl
  unfold bfmEvent
  exact hcount.trans (logBoth_remembers _ _ _ _ _ _)

theorem walkMeets_remembers (i : InstId) (a : Nat) (s : State) : Remembers s (walkMeets i a s) := by
  unfold walkMeets
  split
  · split
    · exact bfmEvent_remembers _ _ _ _ s
    · exact .refl s
  · exact .refl s
  · exact findErrors_remembers a s

/-- A translation fault is logged once it is recorded (R126). -/
theorem mtuFault_remembers (i : InstId) (src : Nat) (k : BitVec 3) (wr : Bool) (iva : Nat) (s : State) :
    Remembers (recordFault i src k wr iva s) (mtuFault i src k wr iva s) := by
  unfold mtuFault
  dsimp only
  refine Remembers.trans ?_ (logBoth_remembers _ _ _ _ _ _)
  split
  · exact .foldl _ (fun s a => walkMeets_remembers i a s) _ _
  · exact .refl _

/-! ### What outlasts an exception (R172, R184) -/

theorem raiseOne_remembers (c : CoreId) (cause : Cause) (pc : BitVec 17) (glob : Bool) (addr : Dword) (s : State) :
    Remembers s (raiseOne c cause pc glob addr s) := by
  unfold raiseOne
  split
  · refine Remembers.trans ?_ (logBoth_remembers _ _ _ _ _ _)
    split <;> exact .of_same rfl rfl
  · exact .refl s

theorem barRelease_remembers (b : Fin 4) (c : CoreId) (s : State) : Remembers s (barRelease b c s) := by
  have hcount : ∀ f, Remembers s (countIssue c (modCore c f s)) := fun _ => .of_same rfl rfl
  unfold barRelease
  dsimp only
  split
  · split
    · exact .of_same rfl rfl
    · exact (hcount _).trans (raiseOne_remembers _ _ _ _ _ _)
  · exact .refl s

theorem barCheck_remembers (n : Fin 64) (b : Fin 4) (s : State) : Remembers s (barCheck n b s) := by
  unfold barCheck
  dsimp only
  split
  · exact .foldl _ (fun s c => barRelease_remembers b c s) _ s
  · exact .refl s

theorem leftRunning_remembers (c : CoreId) (s : State) : Remembers s (leftRunning c s) := by
  unfold leftRunning
  split
  · exact .foldl _ (fun s _ => .foldl _ (fun s b => barCheck_remembers _ b s) _ s) _ s
  · exact .refl s

theorem raise_remembers (c : CoreId) (cause : Cause) (glob : Bool) (addr : Dword) (s : State) :
    Remembers s (raise c cause glob addr s) := by
  unfold raise raiseAt
  split
  · exact (raiseOne_remembers c cause _ glob addr s).trans (leftRunning_remembers c _)
  · exact .refl s

end Sys2Proof.Machine
end

section
/-! PROOFS. Where branches trap (R194, R195, R221). -/

namespace Sys2Proof.Machine

open Sys2Proof

/-- The core has stopped at its instruction with this cause. -/
def StopsAt (c : CoreId) (cause : Byte) (s t : State) : Prop :=
  t.cores[c.val].st = .faulted ∧ t.cores[c.val].faultCause = cause ∧ t.cores[c.val].faultPc = s.cores[c.val].pc

theorem Faulted.stopsAt {c : CoreId} {cause : Byte} {glob : Bool} {addr : Dword} {s t : State}
    (h : Faulted c cause glob addr s t) : StopsAt c cause s t := by
  obtain ⟨hst, -, hcause, -, -, hpc, -⟩ := h
  exact ⟨hst, hcause, hpc⟩

theorem branchTo_misaligned (c : CoreId) (t : Int) (link : State → State) (s : State) (hr : s.cores[c.val].st = .running)
    (h : t % 8 ≠ 0) : StopsAt c 3 s (branchTo c t link s) := by
  unfold branchTo
  rw [if_pos (by simpa using h)]
  exact (raise_faulted c .localAlign 3 false _ s hr rfl).stopsAt

theorem branchTo_beyond (c : CoreId) (t : Int) (link : State → State) (s : State) (hr : s.cores[c.val].st = .running)
    (h8 : t % 8 = 0) (h : 0x20000 ≤ t) : StopsAt c 2 s (branchTo c t link s) := by
  unfold branchTo
  rw [if_neg (by simpa using h8), if_pos (by simp [h])]
  exact (raise_faulted c .localRange 2 false _ s hr rfl).stopsAt

/-- A branch to a register has a misaligned target where the register's value is misaligned. -/
theorem regTarget_misaligned (k : Core) (w : BFmt) (h : (sreg k w.a).toNat % 8 ≠ 0) : regTarget k w % 8 ≠ 0 := by
  have hbits : bits (sreg k w.a) 16 0 = (sreg k w.a).toNat % 2 ^ 17 := by simp [bits]
  unfold regTarget
  rw [hbits]
  omega

/-- Sequential fetch past the last instruction stops at it (log entry 29). -/
theorem advance_last (c : CoreId) (s : State) (hr : s.cores[c.val].st = .running) (h : ¬ NotLast c s) :
    StopsAt c 2 s (advance c s) := by
  have hst : (countIssue c s).cores[c.val].st = s.cores[c.val].st := by
    simp only [countIssue, modCore_cores, upd_same]
    split <;> rfl
  have hpc : (countIssue c s).cores[c.val].pc = s.cores[c.val].pc := by
    simp only [countIssue, modCore_cores, upd_same]
    split <;> rfl
  unfold advance
  dsimp only
  unfold NotLast at h
  rw [hpc, if_neg h]
  have hstop := (raise_faulted c .localRange 2 false 0x20000 (countIssue c s) (hst.trans hr) rfl).stopsAt
  rwa [StopsAt, hpc] at hstop

theorem br_misaligned (c : CoreId) (w : BFmt) (s : State) (x : Instr) (h : Executes c w.g s) (hrsv : w.rsv = 0)
    (hn : NotPending s.cores[c.val] [w.a] [] []) (ha : (sreg s.cores[c.val] w.a).toNat % 8 ≠ 0)
    (hx : (x = .br c w ∧ w.d = 0) ∨ (x = .blr c w ∧ NotPending s.cores[c.val] [w.d] [] [])) :
    ∃ t, exec x s = .next t ∧ StopsAt c 3 s t := by
  have hstop := fun link => branchTo_misaligned c _ link s (executes_running h) (regTarget_misaligned _ w ha)
  rcases hx with ⟨rfl, hd⟩ | ⟨rfl, hd⟩
  · have harm : exec (.br c w) s = execBr c w s := rfl
    exact ⟨_, harm.trans (coreInstr_front c w.g _ _ _ _ _ s h (by simp [hrsv, hd]) hn), hstop _⟩
  · have harm : exec (.blr c w) s = execBlr c w s := rfl
    have hboth : NotPending s.cores[c.val] [w.d, w.a] [] [] := by simpa [NotPending] using And.intro hd.1 hn.1
    exact ⟨_, harm.trans (coreInstr_front c w.g _ _ _ _ _ s h (by simp [hrsv]) hboth), hstop _⟩

theorem branch_beyond (c : CoreId) (w : BFmt) (s : State) (x : Instr) (h : Executes c w.g s) (hrsv : w.rsv = 0)
    (ht : 0x20000 ≤ (s.cores[c.val].pc.toNat : Int) + 8 * w.off.toInt) (hpc : s.cores[c.val].pc.toNat % 8 = 0)
    (hx : (x = .b c w ∧ w.d = 0 ∧ w.a = 0) ∨ (x = .bl c w ∧ w.a = 0 ∧ NotPending s.cores[c.val] [w.d] [] []) ∨
      (x = .loop c w ∧ w.d = 0 ∧ w.a ≠ 0 ∧ NotPending s.cores[c.val] [w.a] [] [] ∧ sreg s.cores[c.val] w.a ≠ 1)) :
    ∃ t, exec x s = .next t ∧ StopsAt c 2 s t := by
  have hstop : ∀ link, StopsAt c 2 s (branchTo c (relTarget s.cores[c.val] w) link s) := fun link =>
    branchTo_beyond c _ link s (executes_running h) (by unfold relTarget; omega) ht
  have hnone : NotPending s.cores[c.val] [] [] [] := ⟨nofun, nofun, nofun⟩
  rcases hx with ⟨rfl, hd, ha⟩ | ⟨rfl, ha, hd⟩ | ⟨rfl, hd, ha0, hn, ha1⟩
  · have harm : exec (.b c w) s = execB c w s := rfl
    exact ⟨_, harm.trans (coreInstr_front c w.g _ _ _ _ _ s h (by simp [hrsv, hd, ha]) hnone), hstop _⟩
  · have harm : exec (.bl c w) s = execBl c w s := rfl
    exact ⟨_, harm.trans (coreInstr_front c w.g _ _ _ _ _ s h (by simp [hrsv, ha]) hd), hstop _⟩
  · have harm : exec (.loop c w) s = execLoop c w s := rfl
    have hdec : ¬ sreg (setS c w.a (sreg s.cores[c.val] w.a - 1) s).cores[c.val] w.a = 0 := by
      rw [setS_eq, modCore_cores, upd_same, Core.putS_same _ _ _ ha0]
      intro h0
      exact ha1 (by bv_omega)
    refine ⟨_, harm.trans (coreInstr_front c w.g _ _ _ _ _ s h (by simp [hrsv, hd]) hn), ?_⟩
    dsimp only
    rw [if_neg hdec]
    exact hstop _

theorem syncNop_last (c : CoreId) (w : RFmt) (s : State) (h : Executes c w.g s) (hd : w.d = 0) (ha : w.a = 0) (hb : w.b = 0)
    (hc : w.c = 0) (hx : w.x = 0) (hl : ¬ NotLast c s) : ∃ t, exec (.syncNop c w) s = .next t ∧ StopsAt c 2 s t := by
  have harm : exec (.syncNop c w) s = execSyncNop c w s := rfl
  exact ⟨_, harm.trans (coreInstr_front c w.g _ _ _ _ _ s h (by simp [hd, ha, hb, hc, hx]) ⟨nofun, nofun, nofun⟩),
    advance_last c s (executes_running h) hl⟩

end Sys2Proof.Machine
end

section
/-! PROOFS. Where loads and stores trap (R118, R126, R157, R184, R197, R198, R389, R417, R464). -/

namespace Sys2Proof.Machine

open Sys2Proof

/-! ### The issue of a load or store (R196, R197, R207, R208) -/

/-- A load of each space. -/
def loadEffect (c : CoreId) (w : MFmt) (f : LoadForm) (a : Dword) (s : State) : State :=
  if w.sp = 0 then localLoad c w f a none s else if w.sp = 1 then globalLoad c w f a s else remoteLoad c w f a s

/-- A store of each space. -/
def storeEffect (c : CoreId) (w : MFmt) (a : Dword) (d : List Byte) (s : State) : State :=
  if w.sp = 0 then localStore c a d s else if w.sp = 1 then globalStore c a d s
  else remoteStore c (mNode s.cores[c.val] w) a d s

/-- The requests of bytes that lie in two lines at most. -/
theorem lineReqs_length (a : Dword) (n : Nat) (h : n ≤ 64) : (lineReqs a n).length ≤ 2 := by
  have hthird : ∀ fuel b, (chunksAux fuel b 0).length = 0 := by
    intro fuel b
    cases fuel <;> simp [chunksAux]
  have hsecond : ∀ fuel b m, b % 64 + m ≤ 64 → (chunksAux fuel b m).length ≤ 1 := by
    intro fuel b m hb
    cases fuel with
    | zero => simp [chunksAux]
    | succ fuel =>
      unfold chunksAux
      dsimp only
      split
      · simp
      · rw [show m - min m (64 - b % 64) = 0 by omega, List.length_cons, hthird]
  unfold lineReqs chunks
  rw [show n / 64 + 2 = (n / 64 + 1) + 1 by rfl]
  unfold chunksAux
  split
  · simp
  · have h2 : (a.toNat + min n (64 - a.toNat % 64)) % 64 + (n - min n (64 - a.toNat % 64)) ≤ 64 := by omega
    have := hsecond (n / 64 + 1) _ _ h2
    simp only [List.length_cons]
    omega

/-- The first request of some bytes starts with them. -/
theorem lineReqs_first (a : Dword) (n : Nat) (h : 0 < n) : ∃ m t, lineReqs a n = (a.toNat, m) :: t := by
  unfold lineReqs chunks chunksAux
  rw [if_neg (by omega)]
  exact ⟨_, _, rfl⟩

theorem address_use (c : CoreId) (w : MFmt) (s : State) (hn : NotPending s.cores[c.val] [w.t, w.a, w.n] [w.t] []) :
    NotPending s.cores[c.val] (w.t :: mUse w) [w.t] [] ∧ NotPending s.cores[c.val] (mUse w) [w.t] [] := by
  obtain ⟨hs, hv, hp⟩ := hn
  have huse : ∀ r ∈ w.t :: mUse w, r ∈ [w.t, w.a, w.n] := by
    unfold mUse
    split <;> simp
  exact ⟨⟨fun r hr => hs r (huse r hr), hv, hp⟩, fun r hr => hs r (huse r (List.mem_cons_of_mem _ hr)), hv, hp⟩

theorem queueRoom_lines (c : CoreId) (w : MFmt) (s : State) (n : Nat) (hn : n ≤ 64) (hf : NiFree c 2 s) :
    QueueRoom s.cores[c.val] .ni (lineReqs (mAddr s.cores[c.val] w) n).length := by
  have hroom := hf.2
  have hlen := lineReqs_length (mAddr s.cores[c.val] w) n hn
  unfold QueueRoom at *
  omega

/-- A load that may issue has its effect. -/
theorem loadInstr_effect (c : CoreId) (w : MFmt) (s : State) (ok : Bool) (f : LoadForm) (h : Executes c w.g s)
    (hok : ok = true) (hspace : mSpaceOk w = true) (hn : NotPending s.cores[c.val] [w.t, w.a, w.n] [w.t] [])
    (hf : NiFree c 2 s) (hsize : f.n ≤ 64)
    (hslots : SlotsSettled s.cores[c.val] [((address c w s).toNat - 0x1C0000) / 4096] false) :
    loadInstr c w ok f none s = .next (loadEffect c w f (address c w s) s) := by
  obtain ⟨hscalar, hvector⟩ := address_use c w s hn
  have hroom := queueRoom_lines c w s f.n hsize hf
  have hready : ∀ rs vs, NotPending s.cores[c.val] rs vs [] →
      noHazard s.cores[c.val] (mQueue s.cores[c.val] w f.n (accUse s.cores[c.val] w f.n { s := rs, v := vs })) = true := by
    intro rs vs hregs
    unfold mQueue accUse
    dsimp only
    split
    · split
      · exact noHazard_of_ready _ _ hregs nofun hslots
      · exact noHazard_of_ready _ _ hregs nofun (slotsAwaited_none _ _ rfl rfl)
    · next hfar =>
      rw [decide_eq_false hfar, Bool.false_and, Bool.false_and, if_neg Bool.false_ne_true]
      refine noHazard_of_ready _ _ hregs (fun q hq => ?_) (slotsAwaited_none _ _ rfl rfl)
      obtain rfl := Option.some.inj hq
      exact hroom
  unfold loadInstr
  dsimp only
  rw [hok, hspace, Bool.and_true, coreInstr_executes c w.g _ _ s h]
  · rfl
  · split
    · exact hready _ _ hvector
    · exact hready _ _ ⟨hscalar.1, nofun, nofun⟩

/-- A store that may issue has its effect. -/
theorem storeInstr_effect (c : CoreId) (w : MFmt) (s : State) (ok : Bool) (n : Nat) (rs vs : List (BitVec 5))
    (d : Core → List Byte) (h : Executes c w.g s) (hok : ok = true) (hspace : mSpaceOk w = true)
    (hn : NotPending s.cores[c.val] rs vs []) (hf : NiFree c 2 s) (hsize : n ≤ 64) :
    storeInstr c w ok n { s := rs, v := vs } d s = .next (storeEffect c w (address c w s) (d s.cores[c.val]) s) := by
  have hready : noHazard s.cores[c.val] (mQueue s.cores[c.val] w n { s := rs, v := vs }) = true := by
    unfold mQueue
    split
    · exact noHazard_of_ready _ _ hn nofun (slotsAwaited_none _ _ rfl rfl)
    · refine noHazard_of_ready _ _ hn (fun q hq => ?_) (slotsAwaited_none _ _ rfl rfl)
      obtain rfl := Option.some.inj hq
      exact queueRoom_lines c w s n hsize hf
  unfold storeInstr
  rw [hok, hspace, Bool.and_true, coreInstr_executes c w.g _ _ s h hready]
  rfl

/-- What the five instructions do: a load of n bytes, or a store of n bytes. -/
def DoesAccess (c : CoreId) (w : MFmt) (s : State) (x : Instr) (n : Nat) (load : Bool) : Prop :=
  (load = true ∧ ∃ f : LoadForm, f.n = n ∧ exec x s = .next (loadEffect c w f (address c w s) s)) ∨
    (load = false ∧ ∃ d : List Byte, d.length = n ∧ exec x s = .next (storeEffect c w (address c w s) d s))

theorem moves_size {c : CoreId} {w : MFmt} {x : Instr} {n : Nat} {load : Bool} (h : Moves c w x n load) : 0 < n ∧ n ≤ 64 := by
  rcases h with ⟨hx, hn, -⟩ | ⟨-, rfl, -⟩
  · have := scalar_le n w.x.toNat hn hx
    omega
  · decide

theorem moves_doesAccess {c : CoreId} {w : MFmt} {s : State} {x : Instr} {n : Nat} {load : Bool} (h : Executes c w.g s)
    (hm : Moves c w x n load) (hspace : mSpaceOk w = true) (hn : NotPending s.cores[c.val] [w.t, w.a, w.n] [w.t] [])
    (hf : NiFree c 2 s) (hslots : SlotsSettled s.cores[c.val] [((address c w s).toNat - 0x1C0000) / 4096] false) :
    DoesAccess c w s x n load := by
  obtain ⟨-, hsize⟩ := moves_size hm
  obtain ⟨hscalar, hvector⟩ := address_use c w s hn
  have hload : ∀ ok (f : LoadForm), ok = true → f.n = n → load = true → exec x s = loadInstr c w ok f none s →
      DoesAccess c w s x n load := fun ok f hok hfn hl hx =>
    .inl ⟨hl, f, hfn, hx.trans (loadInstr_effect c w s ok f h hok hspace hn hf (hfn ▸ hsize) hslots)⟩
  have hstore : ∀ ok rs vs (d : Core → List Byte), ok = true → NotPending s.cores[c.val] rs vs [] →
      (d s.cores[c.val]).length = n → load = false → exec x s = storeInstr c w ok n { s := rs, v := vs } d s →
      DoesAccess c w s x n load := fun ok rs vs d hok hregs hd hl hx =>
    .inr ⟨hl, _, hd, hx.trans (storeInstr_effect c w s ok n rs vs d h hok hspace hregs hf hsize)⟩
  rcases hm with ⟨hx, hnx, hform⟩ | ⟨hx, hnx, hform⟩
  · have hw := scalarSize_eq w hx
    rw [← hnx] at hw
    rcases hform with ⟨rfl, hl⟩ | ⟨rfl, hl⟩ | ⟨rfl, hl⟩
    · exact hload _ _ (only_scalar w hx) hw hl rfl
    · exact hload _ _ (only_scalar w hx) hw hl rfl
    · refine hstore (only w.x 3) (w.t :: mUse w) [] (fun k => leBytes n (sreg k w.t).toNat) (only_scalar w hx)
        ⟨hscalar.1, nofun, nofun⟩ (length_leBytes _ _) (by simpa using hl) ?_
      rw [← hw]
      rfl
  · subst hnx
    rcases hform with ⟨rfl, hl⟩ | ⟨rfl, hl⟩
    · exact hload _ _ (decide_eq_true hx) rfl hl rfl
    · exact hstore (w.x = 0) (mUse w) [w.t] (fun k => leBytes 64 (vreg k w.t).toNat) (decide_eq_true hx) hvector
        (length_leBytes _ _) (by simpa using hl) rfl

/-! ### Local space (R155 to R157, R198, R389) -/

theorem localCheck_misaligned (a : Dword) (n : Nat) (load : Bool) (h : a.toNat % n ≠ 0) :
    localCheck a n n load = some .localAlign := by
  unfold localCheck
  dsimp only
  rw [if_pos (by simpa using h)]

/-- What may be accessed in local memory (R155 to R157). -/
theorem accessible_iff (x n : Nat) (load : Bool) : (inData x n || (load && accBase ≤ x && x + n ≤ localEnd)) = true ↔
    if load then Loadable x n else Storable x n := by
  unfold inData
  cases load <;> simp only [Bool.or_eq_true, Bool.and_eq_true, decide_eq_true_eq, Bool.false_eq_true, false_and, or_false,
    true_and, if_true, if_false] <;> rfl

theorem localCheck_outside (a : Dword) (n : Nat) (load : Bool) (h : a.toNat % n = 0)
    (hout : if load then ¬ Loadable a.toNat n else ¬ Storable a.toNat n) : localCheck a n n load = some .localRange := by
  have hno : ¬ if load then Loadable a.toNat n else Storable a.toNat n := by cases load <;> exact hout
  unfold localCheck
  dsimp only
  rw [if_neg (by simpa using h), if_neg (mt (accessible_iff _ _ _).1 hno)]

theorem localCheck_loadable (a : Dword) (n : Nat) (h : a.toNat % n = 0) (hin : Loadable a.toNat n) :
    localCheck a n n true = none := by
  unfold localCheck
  dsimp only
  rw [if_neg (by simpa using h), if_pos ((accessible_iff _ _ true).2 hin)]

/-- A local access that the check refuses raises its cause. -/
theorem local_refused {c : CoreId} {w : MFmt} {s : State} {x : Instr} {n : Nat} {load : Bool} {cause : Cause} {code : Byte}
    (hd : DoesAccess c w s x n load) (hr : s.cores[c.val].st = .running) (hsp : w.sp = 0)
    (hcheck : localCheck (address c w s) n n load = some cause) (hcode : causeCode cause = code) :
    ∃ t, exec x s = .next t ∧ Faulted c code false (address c w s) s t := by
  have hfault := raise_faulted c cause code false (address c w s) s hr hcode
  rcases hd with ⟨rfl, f, rfl, hx⟩ | ⟨rfl, d, rfl, hx⟩
  · refine ⟨_, hx, ?_⟩
    unfold loadEffect localLoad
    rw [if_pos hsp, hcheck]
    exact hfault
  · refine ⟨_, hx, ?_⟩
    unfold storeEffect localStore
    rw [if_pos hsp, hcheck]
    exact hfault

theorem localLoad_poisoned (c : CoreId) (w : MFmt) (f : LoadForm) (a : Dword) (s : State) (hr : s.cores[c.val].st = .running)
    (hcheck : localCheck a f.n f.n true = none) (h0 : 0 < f.n) (hline : a.toNat % 64 + f.n ≤ 64)
    (hp : a.toNat / 64 ∈ s.cores[c.val].poisoned) : Faulted c 5 false a s (localLoad c w f a none s) := by
  obtain ⟨hkeep, hgrow⟩ := localFind_core c a.toNat f.n s
  unfold localLoad
  rw [hcheck]
  dsimp only [localUpset]
  generalize localFind c a.toNat f.n s = u at hkeep hgrow ⊢
  have hpoison : localPoison u.cores[c.val] a.toNat f.n = true := by
    rw [localPoison, linesOf_one _ _ h0 hline]
    simpa using hgrow _ hp
  rw [if_pos hpoison]
  refine faulted_of_core (raise_core c .poison false a u (by rw [hkeep]; exact hr)).1 rfl ?_ ?_ ?_ ?_ ?_ <;> rw [hkeep]

/-- An aligned access lies in one line. -/
theorem moves_in_line {c : CoreId} {w : MFmt} {x : Instr} {n : Nat} {load : Bool} (h : Moves c w x n load) (a : Nat)
    (ha : a % n = 0) : a % 64 + n ≤ 64 := by
  rcases h with ⟨hx, rfl, -⟩ | ⟨-, rfl, -⟩
  · exact aligned_in_line a _ (by omega) ha
  · omega

/-! ### Global space (R121 to R126, R389, R417) -/

/-- An exception raised after accesses that have left the core alone stops it as if raised at once. -/
theorem raise_after {c : CoreId} {cause : Cause} {code : Byte} {addr : Dword} {s u : State} (h : u.cores = s.cores)
    (hr : s.cores[c.val].st = .running) (hcode : causeCode cause = code) :
    Faulted c code true addr s (raise c cause true addr u) := by
  refine faulted_of_core (raise_core c cause true addr u (by rw [h]; exact hr)).1 hcode ?_ ?_ ?_ ?_ ?_ <;> rw [h]

/-- The access needs to be allowed this. -/
def accessOf (load : Bool) : Access := if load then .read else .write

/-- A global access whose first line fails with this error has left the block so. -/
def FailsFirst (c : CoreId) (a : Dword) (load : Bool) (e : AccErr) (s u : State) : Prop :=
  if load then ∀ sized m, readLineP (coreWho c s) sized a.toNat m s = ⟨some e, [], false, u⟩
  else ∀ sized d, writeLineP (coreWho c s) sized a.toNat d s = (some e, u)

theorem global_fails {c : CoreId} {w : MFmt} {s u : State} {x : Instr} {n : Nat} {load : Bool} {e : AccErr} {cause : Cause}
    (hd : DoesAccess c w s x n load) (hr : s.cores[c.val].st = .running) (hk : s.cores[c.val].coalesce = none)
    (hsp : w.sp = 1) (h0 : 0 < n) (hfail : FailsFirst c (address c w s) load e s u) (hcause : accCause e = some cause) :
    exec x s = .next (raise c cause true (address c w s) u) := by
  obtain ⟨m, t, hlines⟩ := lineReqs_first (address c w s) n h0
  have hne : ¬ w.sp = 0 := by rw [hsp]; decide
  rcases hd with ⟨rfl, f, rfl, hx⟩ | ⟨rfl, d, rfl, hx⟩
  · rw [hx, loadEffect, if_neg hne, if_pos hsp, globalLoad, closing_none c _ s hk hr, hlines]
    rw [FailsFirst, if_pos rfl] at hfail
    cases e <;> cases hcause <;> simp only [readChunksP, hfail]
  · rw [hx, storeEffect, if_neg hne, if_pos hsp, globalStore, closing_none c _ s hk hr, hlines]
    rw [FailsFirst, if_neg Bool.false_ne_true] at hfail
    cases e <;> cases hcause <;> simp only [writeChunksP, hfail]

/-- An address that does not translate fails, its fault recorded. -/
theorem failsFirst_untranslated (c : CoreId) (a : Dword) (load : Bool) (k : BitVec 3) (s : State)
    (hgen : s.inst[(coreInst c s).val].gen = s.cores[c.val].gen)
    (hk : (translate (coreInst c s) (accessOf load) a.toNat s).1 = .error k) :
    FailsFirst c a load (.mtu k) s
      (mtuFault (coreInst c s) c.val k (!load) a.toNat (translate (coreInst c s) (accessOf load) a.toNat s).2) := by
  have hcur : current (coreWho c s) s = true := decide_eq_true hgen
  have hinst : (coreWho c s).inst = coreInst c s := rfl
  unfold FailsFirst
  rcases htr : translate (coreInst c s) (accessOf load) a.toNat s with ⟨r, u⟩
  rw [htr] at hk
  subst hk
  cases load
  · intro sized d
    unfold writeLineP
    rw [hcur, hinst, show Access.write = accessOf false from rfl, htr]
    rfl
  · intro sized m
    unfold readLineP
    rw [hcur, hinst, show Access.read = accessOf true from rfl, htr]
    rfl

/-- A device line of a channel or a pool. -/
def InLine (s : State) (p : Nat) : Prop := (∃ ch, regionOf s p = .lp5x ch) ∨ ∃ d, regionOf s p = .pool d

theorem readTarget_inLine (i : InstId) (p n : Nat) (s : State) (h : InLine s p) : readTarget i (.dpa p) n s =
    if channelOut s p then ⟨some .engine, [], false, s⟩
    else ⟨none, Memory.read 0 (findErrors p s).mem.dpa p n, linePoisoned (findErrors p s) p, findErrors p s⟩ := by
  unfold readTarget
  rcases h with ⟨ch, h⟩ | ⟨d, h⟩ <;> simp only [h]

/-- A read of a line of a channel or a pool, past its translation. -/
theorem readLineP_inLine (w : Who) (sized : Bool) (iva p n : Nat) (s : State) (hc : current w s = true)
    (ht : (translate w.inst .read iva s).1 = .ok (.dpa p)) (hp : InLine s p) : readLineP w sized iva n s =
      readTarget w.inst (.dpa p) n (translate w.inst .read iva s).2 := by
  have hreg := (translate_lookedUp w.inst .read iva s).regionOf p
  unfold readLineP
  rw [hc]
  rcases htr : translate w.inst .read iva s with ⟨r, u⟩
  rw [htr] at ht hreg
  dsimp only at ht hreg
  subst ht
  simp only [Bool.not_true, Bool.false_eq_true, if_false]
  rcases hp with ⟨ch, h⟩ | ⟨d, h⟩ <;> rw [hreg, h]

theorem writeLineP_inLine (w : Who) (sized : Bool) (iva p : Nat) (d : List Byte) (s : State) (hc : current w s = true)
    (ht : (translate w.inst .write iva s).1 = .ok (.dpa p)) (hp : InLine s p) : writeLineP w sized iva d s =
      writeTarget w.inst (.dpa p) d false (translate w.inst .write iva s).2 := by
  have hreg := (translate_lookedUp w.inst .write iva s).regionOf p
  unfold writeLineP
  rw [hc]
  rcases htr : translate w.inst .write iva s with ⟨r, u⟩
  rw [htr] at ht hreg
  dsimp only at ht hreg
  subst ht
  simp only [Bool.not_true, Bool.false_eq_true, if_false]
  rcases hp with ⟨ch, h⟩ | ⟨d, h⟩ <;> rw [hreg, h]

theorem writeTarget_out (i : InstId) (p : Nat) (d : List Byte) (s : State) (h : InLine s p) (hout : channelOut s p = true) :
    writeTarget i (.dpa p) d false s = (some .engine, s) := by
  unfold writeTarget
  rcases h with ⟨ch, h⟩ | ⟨e, h⟩ <;> simp only [h, hout, if_true]

theorem LookedUp.inLine {s t : State} (h : LookedUp s t) {p : Nat} (hp : InLine s p) : InLine t p := by
  unfold InLine
  rw [h.regionOf]
  exact hp

/-- An access to a channel out of service fails. -/
theorem failsFirst_channelOut {c : CoreId} {a : Dword} {load : Bool} {s : State} {p : Nat}
    (hm : MapsTo c (accessOf load) a.toNat s p) (hp : InLine s p) (hout : channelOut s p = true) :
    FailsFirst c a load .engine s (translate (coreInst c s) (accessOf load) a.toNat s).2 := by
  have hlook := translate_lookedUp (coreInst c s) (accessOf load) a.toNat s
  have hout' := (hlook.channelOut p).trans hout
  have hcur := current_coreWho hm
  unfold FailsFirst
  cases load
  · intro sized d
    exact (writeLineP_inLine (coreWho c s) sized _ p d s hcur hm.2 hp).trans (writeTarget_out _ p d _ (hlook.inLine hp) hout')
  · intro sized m
    refine (readLineP_inLine (coreWho c s) sized _ p m s hcur hm.2 hp).trans ?_
    exact (readTarget_inLine _ p m _ (hlook.inLine hp)).trans (if_pos hout')

/-- A global load of a poisoned line raises POISON. -/
theorem globalLoad_poisoned (c : CoreId) (w : MFmt) (f : LoadForm) (a : Dword) (s : State) (p : Nat)
    (hr : s.cores[c.val].st = .running) (hk : s.cores[c.val].coalesce = none) (h0 : 0 < f.n) (h1 : a.toNat % 64 + f.n ≤ 64)
    (hm : MapsTo c .read a.toNat s p) (hp : InLine s p) (hin : channelOut s p = false) (hpois : p / 64 ∈ s.mem.poisoned) :
    Faulted c 5 true a s (globalLoad c w f a s) := by
  have hlines : lineReqs a f.n = [(a.toNat, f.n)] := chunks_one _ _ h0 h1
  have hlook := translate_lookedUp (coreInst c s) .read a.toNat s
  have hcores : (findErrors p (translate (coreInst c s) .read a.toNat s).2).cores = s.cores := by
    rw [(onlyAccess.findErrors p _).1]
    exact hlook.cores
  have hread : readLineP (coreWho c s) (portSized a.toNat f.n) a.toNat f.n s =
      ⟨none, Memory.read 0 (findErrors p (translate (coreInst c s) .read a.toNat s).2).mem.dpa p f.n,
        linePoisoned (findErrors p (translate (coreInst c s) .read a.toNat s).2) p,
        findErrors p (translate (coreInst c s) .read a.toNat s).2⟩ := by
    refine (readLineP_inLine (coreWho c s) _ _ p f.n s (current_coreWho hm) hm.2 hp).trans ?_
    refine (readTarget_inLine _ p f.n _ (hlook.inLine hp)).trans (if_neg ?_)
    simpa [coreWho, hlook.channelOut p] using hin
  have hflag : linePoisoned (findErrors p (translate (coreInst c s) .read a.toNat s).2) p = true := by
    have := (findErrors_remembers p (translate (coreInst c s) .read a.toNat s).2).1 (p / 64) (hlook.poisoned ▸ hpois)
    simpa [linePoisoned] using this
  unfold globalLoad
  rw [closing_none c _ s hk hr, hlines]
  simp only [readChunksP, hread, hflag, Bool.or_true, if_true]
  exact raise_after hcores hr rfl

/-- What the MTU holds of a fault that an access of a core has met (R126, R153). -/
def HoldsFault (m : Mtu) (k : BitVec 3) (write : Bool) (c : CoreId) (a : Dword) : Prop :=
  m.faultValid = true ∧ m.faultKind = k ∧ m.faultWrite = write ∧ m.faultSource.toNat = c.val ∧
    m.faultAddr = BitVec.ofNat 64 a.toNat

/-- An MTU that held none holds the fault just recorded. -/
theorem recordFault_holds (i : InstId) (c : CoreId) (k : BitVec 3) (wr : Bool) (a : Dword) (s : State)
    (h : s.mtu[i.val].faultValid = false) :
    HoldsFault (recordFault i c.val k wr a.toNat s).mtu[i.val] k wr c a := by
  have hc : (BitVec.ofNat 10 c.val).toNat = c.val := by
    rw [BitVec.toNat_ofNat]
    omega
  unfold recordFault modMtu
  rw [upd_same, h]
  exact ⟨rfl, rfl, rfl, hc, rfl⟩

theorem HoldsFault.remembered {s t : State} {i : InstId} {k : BitVec 3} {wr : Bool} {c : CoreId} {a : Dword}
    (h : HoldsFault s.mtu[i.val] k wr c a) (hr : Remembers s t) : HoldsFault t.mtu[i.val] k wr c a := by
  have heq := hr.2 i h.1
  simp only [Mtu.fault, Prod.mk.injEq] at heq
  obtain ⟨h1, h2, h3, h4, h5⟩ := heq
  unfold HoldsFault
  rw [h1, h2, h3, h4, h5]
  exact h

/-- A global access whose address does not translate raises XLATE, and its fault is held if none was. -/
theorem global_untranslated {c : CoreId} {w : MFmt} {s : State} {x : Instr} {n : Nat} {load : Bool} {k : BitVec 3}
    (hd : DoesAccess c w s x n load) (hr : s.cores[c.val].st = .running) (hk : s.cores[c.val].coalesce = none)
    (hsp : w.sp = 1) (h0 : 0 < n) (hgen : s.inst[(coreInst c s).val].gen = s.cores[c.val].gen)
    (htr : (translate (coreInst c s) (accessOf load) (address c w s).toNat s).1 = .error k) :
    ∃ t, exec x s = .next t ∧ Faulted c 4 true (address c w s) s t ∧
      (s.mtu[(coreInst c s).val].faultValid = false → HoldsFault t.mtu[(coreInst c s).val] k (!load) c (address c w s)) := by
  have hlook := translate_lookedUp (coreInst c s) (accessOf load) (address c w s).toNat s
  have hfirst := failsFirst_untranslated c (address c w s) load k s hgen htr
  refine ⟨_, global_fails hd hr hk hsp h0 hfirst rfl, raise_after ?_ hr rfl, fun hnone => ?_⟩
  · rw [(onlyAccess.mtuFault _ _ _ _ _ _).1]
    exact hlook.cores
  · have hvalid := (congrArg Prod.fst (hlook.2 (coreInst c s))).trans hnone
    exact ((recordFault_holds _ c k (!load) (address c w s) _ hvalid).remembered (mtuFault_remembers _ _ _ _ _ _)).remembered
      (raise_remembers _ _ _ _ _)

/-! ### Remote space (R118, R464) -/

/-- A core that may not issue the access. -/
theorem remoteOk_refused (c : CoreId) (a : Dword) (s : State) (h : 2 ^ 40 ≤ a.toNat ∨
    s.inst[(coreInst c s).val].fabEn = false ∨ s.fab.domain[(coreInst c s).val] = none) : remoteOk c a s = none := by
  unfold remoteOk domainOf
  rcases h with h | h | h
  · rw [if_neg (by omega)]
  · rw [h]
    simp
  · rw [h]
    simp

theorem remote_refused {c : CoreId} {w : MFmt} {s : State} {x : Instr} {n : Nat} {load : Bool}
    (hd : DoesAccess c w s x n load) (hr : s.cores[c.val].st = .running) (hsp : w.sp = 2)
    (hok : remoteOk c (address c w s) s = none) :
    ∃ t, exec x s = .next t ∧ Faulted c 11 true (address c w s) s t := by
  have hfault := raise_faulted c .fabric 11 true (address c w s) s hr rfl
  have hne0 : ¬ w.sp = 0 := by rw [hsp]; decide
  have hne1 : ¬ w.sp = 1 := by rw [hsp]; decide
  rcases hd with ⟨rfl, f, rfl, hx⟩ | ⟨rfl, d, rfl, hx⟩
  · refine ⟨_, hx, ?_⟩
    unfold loadEffect remoteLoad issueRemote
    rw [if_neg hne0, if_neg hne1, hok]
    exact hfault
  · refine ⟨_, hx, ?_⟩
    unfold storeEffect remoteStore
    rw [if_neg hne0, if_neg hne1, hok]
    exact hfault

/-- Settles O17, by the branch, the local, the global and the remote path in turn. -/
theorem traps : Obligations.Traps := by
  unfold Obligations.Traps
  refine ⟨fun c s => ⟨?_, ?_, ?_⟩, fun c w s x n load h hm hn hf hslots => ?_⟩
  · exact fun w x h hrsv hn ha hx => br_misaligned c w s x h hrsv hn ha hx
  · exact fun w x h hrsv ht hpc hx => branch_beyond c w s x h hrsv ht hpc hx
  · exact fun w h hd ha hb hc hx hl => syncNop_last c w s h hd ha hb hc hx hl
  have hr := executes_running h
  have hk := hf.1
  obtain ⟨h0, -⟩ := moves_size hm
  have hdoes : mSpaceOk w = true → DoesAccess c w s x n load := fun hspace => moves_doesAccess h hm hspace hn hf hslots
  refine ⟨fun hsp hnode hmis => ?_, fun hsp hnode ha hout => ?_, fun hsp hnode ha hl hin hp => ?_, fun k hsp hnode hgen htr => ?_,
    fun p hsp hnode hline hmap hp => ⟨fun hout => ?_, fun hin hl hpois => ?_⟩, fun hsp hno => ?_⟩
  · exact local_refused (hdoes (mSpaceOk_of w (.inl hsp) hnode)) hr hsp (localCheck_misaligned _ n load hmis) rfl
  · exact local_refused (hdoes (mSpaceOk_of w (.inl hsp) hnode)) hr hsp (localCheck_outside _ n load ha hout) rfl
  · rcases hdoes (mSpaceOk_of w (.inl hsp) hnode) with ⟨-, f, rfl, hx⟩ | ⟨hstore, -⟩
    · refine ⟨_, hx, ?_⟩
      rw [loadEffect, if_pos hsp]
      exact localLoad_poisoned c w f _ s hr (localCheck_loadable _ _ ha hin) h0 (moves_in_line hm _ ha) hp
    · rw [hl] at hstore
      cases hstore
  · exact global_untranslated (hdoes (mSpaceOk_of w (.inr hsp) hnode)) hr hk hsp h0 hgen htr
  · refine ⟨_, global_fails (hdoes (mSpaceOk_of w (.inr hsp) hnode)) hr hk hsp h0 (failsFirst_channelOut hmap hp hout) rfl, ?_⟩
    exact raise_after (translate_lookedUp _ _ _ s).cores hr rfl
  · rcases hdoes (mSpaceOk_of w (.inr hsp) hnode) with ⟨-, f, rfl, hx⟩ | ⟨hstore, -⟩
    · refine ⟨_, hx, ?_⟩
      rw [hl] at hmap
      rw [loadEffect, if_neg (by rw [hsp]; decide), if_pos hsp]
      exact globalLoad_poisoned c w f _ s p hr hk h0 hline hmap hp hin hpois
    · rw [hl] at hstore
      cases hstore
  · exact remote_refused (hdoes (mSpaceOk_remote w hsp)) hr hsp (remoteOk_refused c _ s hno)

end Sys2Proof.Machine
end

section
/-! PROOFS. Messages at a port: what is queued stays queued or leaves, and what a message taken in leaves (R455, R459, R461,
R474). -/

namespace Sys2Proof.Machine

open Sys2Proof

/-! ### Lanes (R455, R458) -/

/-- Only lanes differ, and what has been sent stands. -/
def OnlyFlits (s t : State) : Prop :=
  t = { s with fab := { s.fab with lanes := t.fab.lanes }, out := t.out } ∧ ∀ o ∈ s.out, o ∈ t.out

namespace OnlyFlits

theorem refl (s : State) : OnlyFlits s s := ⟨rfl, fun _ h => h⟩

theorem trans {s t u : State} (h : OnlyFlits s t) (k : OnlyFlits t u) : OnlyFlits s u := by
  obtain ⟨h1, h2⟩ := h
  obtain ⟨k1, k2⟩ := k
  refine ⟨?_, fun o ho => k2 o (h2 o ho)⟩
  rw [k1, h1]

theorem modLane (l : Fin 32) (f : Lane → Lane) (s : State) : OnlyFlits s (modLane l f s) := ⟨rfl, fun _ h => h⟩

theorem emit (o : Output) (s : State) : OnlyFlits s (emit o s) := ⟨rfl, fun _ h => List.mem_append_left _ h⟩

theorem ports {s t : State} (h : OnlyFlits s t) : t.fab.ports = s.fab.ports := by rw [h.1]

end OnlyFlits

theorem sendFlits_onlyFlits (l : Fin 32) (fs : List (Vector (BitVec 128) 8)) (s : State) : OnlyFlits s (sendFlits l fs s) := by
  unfold sendFlits
  induction fs generalizing s with
  | nil => exact .refl s
  | cons f t ih => exact ((OnlyFlits.modLane l _ s).trans (.emit _ _)).trans (ih _)

theorem sendCredit_onlyFlits (p : Fin 8) (s : State) : OnlyFlits s (sendCredit p s) := by
  unfold sendCredit
  split
  · exact .refl s
  · exact (OnlyFlits.modLane _ _ s).trans (.emit _ _)

/-! ### What stands at a port or has left it (R459, R474) -/

/-- The message stands in the port's queue, or has left on one of its lanes with the peer's epoch. -/
def Sent (p : Fin 8) (m : Msg) (s : State) : Prop := Leaves p m s s

/-- No port has another peer epoch, and no message is lost from a queue but by leaving. -/
def Carries (s t : State) : Prop :=
  (∀ p : Fin 8, t.fab.ports[p.val].peerEpoch = s.fab.ports[p.val].peerEpoch) ∧ ∀ p m, Sent p m s → Sent p m t

namespace Carries

theorem refl (s : State) : Carries s s := ⟨fun _ => rfl, fun _ _ h => h⟩

theorem trans {s t u : State} (h : Carries s t) (k : Carries t u) : Carries s u :=
  ⟨fun p => (k.1 p).trans (h.1 p), fun p m hm => k.2 p m (h.2 p m hm)⟩

/-- What has been sent by then has left since any state before. -/
theorem leaves {s t : State} (h : Carries s t) {p : Fin 8} {m : Msg} (hm : Sent p m t) : Leaves p m s t := by
  unfold Sent Leaves at hm
  rw [h.1] at hm
  exact hm

theorem of_ports {s t : State} (h : t.fab.ports = s.fab.ports) (ho : ∀ o ∈ s.out, o ∈ t.out) : Carries s t := by
  refine ⟨fun _ => by rw [h], fun p m hm => ?_⟩
  unfold Sent Leaves at *
  rw [h]
  exact hm.imp id fun ⟨l, hl, hmem⟩ => ⟨l, hl, ho _ hmem⟩

/-- A change of one port that keeps its epoch and its queue. -/
theorem modPort (p : Fin 8) (f : Port → Port) (s : State)
    (h : (f s.fab.ports[p.val]).peerEpoch = s.fab.ports[p.val].peerEpoch)
    (hq : ∀ m ∈ s.fab.ports[p.val].queue, m ∈ (f s.fab.ports[p.val]).queue) : Carries s (modPort p f s) := by
  have hport : ∀ q : Fin 8, (Machine.modPort p f s).fab.ports[q.val].peerEpoch = s.fab.ports[q.val].peerEpoch ∧
      ∀ m ∈ s.fab.ports[q.val].queue, m ∈ (Machine.modPort p f s).fab.ports[q.val].queue := by
    intro q
    unfold Machine.modPort
    by_cases e : q = p
    · subst e
      rw [upd_same]
      exact ⟨h, hq⟩
    · rw [upd_other _ _ _ _ q.isLt fun k => e (Fin.ext k)]
      exact ⟨rfl, fun _ hm => hm⟩
  refine ⟨fun q => (hport q).1, fun q m hm => ?_⟩
  unfold Sent Leaves at *
  rw [(hport q).1]
  exact hm.imp (fun hmem => (hport q).2 _ hmem) id

end Carries

/-- Only lanes, queues and the counts of units sent may differ, and no message is lost but by leaving. -/
structure Pumped (s t : State) : Prop where
  only : t = { s with fab := { s.fab with ports := t.fab.ports, lanes := t.fab.lanes }, out := t.out }
  port : ∀ p : Fin 8, t.fab.ports[p.val] =
    { s.fab.ports[p.val] with queue := (t.fab.ports[p.val]).queue, sent := (t.fab.ports[p.val]).sent }
  carries : Carries s t

namespace Pumped

theorem refl (s : State) : Pumped s s := ⟨rfl, fun _ => rfl, .refl s⟩

theorem trans {s t u : State} (h : Pumped s t) (k : Pumped t u) : Pumped s u := by
  obtain ⟨h1, h2, h3⟩ := h
  obtain ⟨k1, k2, k3⟩ := k
  refine ⟨?_, fun p => ?_, h3.trans k3⟩
  · rw [k1, h1]
  · rw [k2 p, h2 p]

theorem of_flits {s t : State} (h : OnlyFlits s t) : Pumped s t := by
  have hports := h.ports
  refine ⟨?_, fun p => by rw [hports], .of_ports hports h.2⟩
  rw [hports]
  exact h.1

theorem cores {s t : State} (h : Pumped s t) : t.cores = s.cores := by rw [h.only]
theorem nuc {s t : State} (h : Pumped s t) : t.nuc = s.nuc := by rw [h.only]
theorem reqs {s t : State} (h : Pumped s t) : t.fab.reqs = s.fab.reqs := by rw [h.only]
theorem merges {s t : State} (h : Pumped s t) : t.fab.merges = s.fab.merges := by rw [h.only]
theorem queries {s t : State} (h : Pumped s t) : t.fab.queries = s.fab.queries := by rw [h.only]
theorem node {s t : State} (h : Pumped s t) : t.fab.node = s.fab.node := by rw [h.only]

theorem portInService {s t : State} (h : Pumped s t) (p : Fin 8) : Machine.portInService p t = Machine.portInService p s := by
  rw [h.only]
  rfl

theorem freed {s t u : State} {p : Fin 8} {m : Msg} (h : Pumped t u) (k : Freed p m s t) : Freed p m s u := by
  unfold Freed at *
  rw [h.port p]
  exact k

end Pumped

theorem pickLane_port {p : Fin 8} {n : Nat} {s : State} {l : Fin 32} (h : pickLane p n s = some l) : portOfLane l = p := by
  have hmem := List.mem_of_find?_eq_some h
  obtain ⟨w, hw, rfl⟩ := List.mem_map.1 hmem
  have hw4 : w < 4 := List.mem_range.1 hw
  ext
  simp only [portOfLane, laneOf, Fin.ofNat]
  omega

/-- The queue of a port from which a message leaves, and the units it has sent. -/
def Port.taken (x : Port) (m : Msg) (units : Nat) : Port :=
  { x with queue := x.queue.erase { m with hopEpoch := 0 }
           sent := upd x.sent (msgClass m.type) (· + BitVec.ofNat 32 units) }

/-- What the send of one message leaves. -/
theorem portSend_some {p : Fin 8} {s t : State} (h : portSend p s = some t) : ∃ (m : Msg) (l : Fin 32) (n : Nat), portOfLane l = p ∧
    ∃ u, OnlyFlits (modPort p (fun x => x.taken m n) s) u ∧
      t = emit (.message p l { m with hopEpoch := s.fab.ports[p.val].peerEpoch }) u := by
  unfold portSend at h
  dsimp only at h
  split at h
  · cases h
  · next m _ =>
    split at h
    · cases h
    · next l hl =>
      refine ⟨m, l, (msgUnits m).length, pickLane_port hl, _, ?_, (Option.some.inj h).symm⟩
      exact (OnlyFlits.modLane l _ _).trans (sendFlits_onlyFlits l _ _)

theorem portSend_pumped {p : Fin 8} {s t : State} (h : portSend p s = some t) : Pumped s t := by
  obtain ⟨m, l, n, hl, u, hu, rfl⟩ := portSend_some h
  generalize he : s.fab.ports[p.val].peerEpoch = e
  obtain ⟨hu1, hu2⟩ := hu
  have hport : ∀ q : Fin 8, u.fab.ports[q.val] = if q = p then (s.fab.ports[p.val]).taken m n
      else s.fab.ports[q.val] := by
    intro q
    rw [hu1]
    unfold modPort
    dsimp only
    split
    · next k =>
      subst k
      rw [upd_same]
    · next k => rw [upd_other _ _ _ _ q.isLt fun x => k (Fin.ext x)]
  refine ⟨?_, fun q => ?_, fun q => ?_, fun q x hx => ?_⟩
  · unfold emit
    rw [hu1]
    rfl
  · show u.fab.ports[q.val] =
      { s.fab.ports[q.val] with queue := (u.fab.ports[q.val]).queue, sent := (u.fab.ports[q.val]).sent }
    rw [hport q]
    split
    · next k =>
      subst k
      rfl
    · rfl
  · show u.fab.ports[q.val].peerEpoch = s.fab.ports[q.val].peerEpoch
    rw [hport q]
    split
    · next k =>
      subst k
      rfl
    · rfl
  · have hout : ∀ o ∈ s.out, o ∈ (emit (.message p l { m with hopEpoch := e }) u).out :=
      fun o ho => List.mem_append_left _ (hu2 o ho)
    show { x with hopEpoch := 0 } ∈ u.fab.ports[q.val].queue ∨ ∃ l', portOfLane l' = q ∧
      Output.message q l' { x with hopEpoch := u.fab.ports[q.val].peerEpoch } ∈ (emit (.message p l { m with hopEpoch := e }) u).out
    rw [hport q]
    by_cases k : q = p
    · subst k
      rw [if_pos rfl]
      rcases hx with hx | ⟨l', hl', hx⟩
      · by_cases hxm : ({ x with hopEpoch := 0 } : Msg) = { m with hopEpoch := 0 }
        · have hsame : ({ x with hopEpoch := e } : Msg) = { m with hopEpoch := e } :=
            congrArg (fun y : Msg => { y with hopEpoch := e }) hxm
          refine .inr ⟨l, hl, List.mem_append_right _ (List.mem_singleton.2 ?_)⟩
          show Output.message q l { x with hopEpoch := s.fab.ports[q.val].peerEpoch } = _
          rw [he, hsame]
        · exact .inl ((List.mem_erase_of_ne hxm).2 hx)
      · exact .inr ⟨l', hl', hout _ hx⟩
    · rw [if_neg k]
      exact hx.imp id fun ⟨l', hl', hmem⟩ => ⟨l', hl', hout _ hmem⟩

theorem portPump_pumped (n : Nat) (p : Fin 8) (s : State) : Pumped s (portPump n p s) := by
  induction n generalizing s with
  | zero => exact .refl s
  | succ n ih =>
    unfold portPump
    split
    · exact .refl s
    · next t h => exact (portSend_pumped h).trans (ih t)

/-- The message joins the queue of the port. -/
def queued (p : Fin 8) (m : Msg) (s : State) : State :=
  modPort p (fun x => { x with queue := x.queue ++ [{ m with hopEpoch := 0 }] }) s

theorem queued_pumped (p : Fin 8) (m : Msg) (s : State) : Pumped s (queued p m s) := by
  refine ⟨rfl, fun q => ?_, .modPort p _ s rfl fun _ h => List.mem_append_left _ h⟩
  unfold queued modPort
  by_cases e : q = p
  · subst e
    rw [upd_same]
  · rw [upd_other _ _ _ _ q.isLt fun k => e (Fin.ext k)]

theorem portQueue_pumped (p : Fin 8) (m : Msg) (s : State) : Pumped s (portQueue p m s) :=
  (queued_pumped p m s).trans (portPump_pumped _ p _)

theorem portQueue_sent (p : Fin 8) (m : Msg) (s : State) : Sent p m (portQueue p m s) := by
  refine (portPump_pumped _ p (queued p m s)).carries.2 p m (.inl ?_)
  unfold queued modPort
  rw [upd_same]
  exact List.mem_append_right _ (List.mem_singleton.2 rfl)

/-! ### A message taken in (R461, R474) -/

/-- The message is out of the receive buffer, its units counted as freed. -/
def tookIn (p : Fin 8) (m : Msg) (s : State) : State :=
  modPort p (fun x => { x with inbox := x.inbox.erase m
                               freed := upd x.freed (msgClass m.type) (· + BitVec.ofNat 32 (msgUnits m).length) }) s

theorem takeIn_pumped (p : Fin 8) (m : Msg) (s : State) : Pumped (tookIn p m s) (takeIn p m s) :=
  .of_flits (sendCredit_onlyFlits p (tookIn p m s))

theorem takeIn_carries (p : Fin 8) (m : Msg) (s : State) : Carries s (takeIn p m s) := by
  have htook : Carries s (tookIn p m s) := .modPort p _ s rfl fun _ h => h
  exact htook.trans (takeIn_pumped p m s).carries

theorem takeIn_freed (p : Fin 8) (m : Msg) (s : State) : Freed p m s (takeIn p m s) := by
  have htook : Freed p m s (tookIn p m s) := by
    unfold Freed tookIn modPort
    rw [upd_same]
    exact ⟨rfl, upd_same _ _ _⟩
  exact (takeIn_pumped p m s).freed htook

/-- What of the block a message taken in leaves as it was. -/
theorem takeIn_only (p : Fin 8) (m : Msg) (s : State) : takeIn p m s =
    { s with fab := { s.fab with ports := (takeIn p m s).fab.ports, lanes := (takeIn p m s).fab.lanes }
             out := (takeIn p m s).out } :=
  (takeIn_pumped p m s).only

theorem takeIn_cores (p : Fin 8) (m : Msg) (s : State) : (takeIn p m s).cores = s.cores := (takeIn_pumped p m s).cores
theorem takeIn_nuc (p : Fin 8) (m : Msg) (s : State) : (takeIn p m s).nuc = s.nuc := (takeIn_pumped p m s).nuc
theorem takeIn_reqs (p : Fin 8) (m : Msg) (s : State) : (takeIn p m s).fab.reqs = s.fab.reqs := (takeIn_pumped p m s).reqs

/-- Another queue length of no port, so the same choice among ports. -/
theorem takeIn_pickPort (p : Fin 8) (m : Msg) (s : State) (dst : BitVec 16) : pickPort dst (takeIn p m s) = pickPort dst s := by
  have hqueue : ∀ q : Fin 8, (takeIn p m s).fab.ports[q.val].queue = s.fab.ports[q.val].queue := by
    intro q
    have hports : (takeIn p m s).fab.ports = (tookIn p m s).fab.ports := (sendCredit_onlyFlits p (tookIn p m s)).ports
    rw [hports]
    unfold tookIn modPort
    by_cases e : q = p
    · subst e
      rw [upd_same]
    · rw [upd_other _ _ _ _ q.isLt fun k => e (Fin.ext k)]
  have hservice : ∀ q, portInService q (takeIn p m s) = portInService q s := (takeIn_pumped p m s).portInService
  have hunits : ∀ q, unitsQueued q (takeIn p m s) = unitsQueued q s := fun q => by unfold unitsQueued; rw [hqueue]
  have hroutes : (takeIn p m s).fab.routes = s.fab.routes := by rw [takeIn_only]
  have hthr : (takeIn p m s).fab.adaptThr = s.fab.adaptThr := by rw [takeIn_only]
  unfold pickPort
  simp only [hservice, hunits, hroutes, hthr]

/-- A message at an open port is handled. -/
theorem arrive_open {p : Fin 8} {m : Msg} {s : State} (f : State → State) (h : AtOpenPort p m s) :
    arrive p m f s = f (takeIn p m s) := by
  obtain ⟨-, -, hst, hep⟩ := h
  have hnuc := takeIn_nuc p m s
  have hst' : portState p (takeIn p m s) = 2 := by
    unfold portState at *
    rw [hnuc]
    exact hst
  have hep' : portEpoch p (takeIn p m s) = m.hopEpoch := by
    unfold portEpoch at *
    rw [hnuc]
    exact hep.symm
  unfold arrive
  simp [hst', hep']

end Sys2Proof.Machine
end

section
/-! PROOFS. Responses at the core that waits, PROBE, routing and the coalescing WRITE that closes (R118, R300, R465 to R469, R474,
R483). -/

namespace Sys2Proof.Machine

open Sys2Proof

/-! ### A request of a core ends (R465, R467, R483) -/

theorem raiseAt_fab (c : CoreId) (cause : Cause) (pc : BitVec 17) (glob : Bool) (addr : Dword) (s : State) :
    (raiseAt c cause pc glob addr s).fab = s.fab := by
  unfold raiseAt
  split
  · rw [leftRunning_fab, raiseOne_fab]
  · rfl

/-- The core has stopped at the instruction that waits for this request. -/
def StopsFor (c : CoreId) (code : Byte) (q : FabReq) (s t : State) : Prop :=
  t.cores[c.val].st = .faulted ∧ t.cores[c.val].faultCause = code ∧ t.cores[c.val].faultAddr = q.msg.addr ∧
    t.cores[c.val].faultPc = waitPc s.cores[c.val] q.id

theorem raiseAt_stopsFor {c : CoreId} {cause : Cause} {code : Byte} {q : FabReq} {s u : State} (hc : u.cores = s.cores)
    (hr : s.cores[c.val].st = .running) (hcode : causeCode cause = code) :
    StopsFor c code q s (raiseAt c cause (waitPc s.cores[c.val] q.id) true q.msg.addr u) := by
  have hcore := (raiseAt_core c cause (waitPc s.cores[c.val] q.id) true q.msg.addr u (by rw [hc]; exact hr)).1
  unfold StopsFor
  rw [hcore]
  exact ⟨rfl, hcode, rfl, rfl⟩

/-- The requests that remain once one has ended. -/
def withoutReq (id : Word) (s : State) : List FabReq := s.fab.reqs.filter fun r => r.id ≠ id

theorem coreReqFails_stops (c : CoreId) (q : FabReq) (s : State) (hw : waitsFor s.cores[c.val] q.id = true)
    (hr : s.cores[c.val].st = .running) :
    (coreReqFails c q s).fab = (dropReq q.id s).fab ∧ StopsFor c 11 q s (coreReqFails c q s) := by
  unfold coreReqFails
  rw [if_pos hw]
  exact ⟨raiseAt_fab _ _ _ _ _ _, raiseAt_stopsFor rfl hr rfl⟩

theorem deliverRsp_core {m : Msg} {s : State} {q : FabReq} {c : CoreId} {k : QueueId}
    (hq : (s.fab.reqs.find? fun r => r.id = m.reqId) = some q) (ho : q.owner = .core c k)
    (ht : m.type = 0x25 ∨ m.type = rspType q.msg.type) : deliverRsp m s = coreResponse c q m s := by
  unfold deliverRsp
  simp only [hq, ho]
  exact if_pos (by simpa using ht)

/-- The core whose waiting entries have taken the bytes of a response. -/
def Core.answeredBy (k : Core) (id : Word) (m : Msg) : Core :=
  { k with ni := fillParts id m.payload k.ni, arr := fillParts id m.payload k.arr }

/-- A response gives its bytes to the entry that waits, and the inf indication of an atomic to the ledger. -/
theorem coreResponse_fills (c : CoreId) (q : FabReq) (m : Msg) (s : State) (hw : waitsFor s.cores[c.val] q.id = true)
    (ht : m.type ≠ 0x25) (hp : bit m.flags 0 = false) : coreResponse c q m s =
    modCore c (fun k => if m.type = 0x23 ∧ bit m.arg 0 = true then (k.answeredBy q.id m).metInf true else k.answeredBy q.id m)
      (dropReq q.id s) := by
  unfold coreResponse
  rw [hw, if_neg (by simp), if_neg ht, hp, if_neg Bool.false_ne_true]
  dsimp only
  by_cases hinf : m.type = 0x23 ∧ bit m.arg 0 = true
  · rw [if_pos (by simpa using hinf)]
    simp only [if_pos hinf]
    exact modCore_modCore c _ _ _
  · rw [if_neg (by simpa using hinf)]
    simp only [if_neg hinf]
    rfl

/-- Poison in a response raises POISON (R483). -/
theorem coreResponse_poisoned (c : CoreId) (q : FabReq) (m : Msg) (s : State) (hw : waitsFor s.cores[c.val] q.id = true)
    (ht : m.type ≠ 0x25) (hp : bit m.flags 0 = true) : coreResponse c q m s =
      raiseAt c .poison (waitPc s.cores[c.val] q.id) true q.msg.addr (dropReq q.id s) := by
  unfold coreResponse
  rw [hw, if_neg (by simp), if_neg ht, hp, if_pos rfl]

/-- A refusal for another reason than EPOCH ends the request (R474, R483). -/
theorem coreResponse_refused (c : CoreId) (q : FabReq) (m : Msg) (s : State) (hw : waitsFor s.cores[c.val] q.id = true)
    (ht : m.type = 0x25) (ha : m.arg ≠ 4) : coreResponse c q m s = coreReqFails c q s := by
  unfold coreResponse
  have hretry : ¬ (m.arg = 4 && decide (q.retries < 3)) = true := by
    simp only [Bool.and_eq_true, decide_eq_true_eq]
    exact fun h => ha h.1
  rw [hw, if_neg (by simp), if_pos ht, if_neg hretry]

/-- A message for this device, of the right length, at an open port answers request q, for which an instruction of core c
waits. -/
structure RspFor (p : Fin 8) (m : Msg) (s : State) (q : FabReq) (c : CoreId) : Prop where
  atPort : AtOpenPort p m s
  here : m.dst = s.fab.node
  fits : rspOk m = true
  found : (s.fab.reqs.find? fun r => r.id = m.reqId) = some q
  owner : ∃ k, q.owner = .core c k
  waits : waitsFor s.cores[c.val] q.id = true

/-- Once the message has been taken in, the core has its response. -/
theorem RspFor.delivered {p : Fin 8} {m : Msg} {s : State} {q : FabReq} {c : CoreId} (h : RspFor p m s q c)
    (ht : m.type = 0x25 ∨ m.type = rspType q.msg.type) : deliverRsp m (takeIn p m s) = coreResponse c q m (takeIn p m s) := by
  obtain ⟨k, ho⟩ := h.owner
  exact deliverRsp_core (by rw [takeIn_reqs]; exact h.found) ho ht

theorem RspFor.stillWaits {p : Fin 8} {m : Msg} {s : State} {q : FabReq} {c : CoreId} (h : RspFor p m s q c) :
    waitsFor (takeIn p m s).cores[c.val] q.id = true := by
  rw [takeIn_cores]
  exact h.waits

theorem withoutReq_takeIn (id : Word) (p : Fin 8) (m : Msg) (s : State) : withoutReq id (takeIn p m s) = withoutReq id s := by
  rw [withoutReq, takeIn_reqs]
  rfl

/-- The four responses that end a request (R465). -/
def responseForms : List ((Fin 8 → Msg → Instr) × Byte) := [(.wack, 0x21), (.rdata, 0x22), (.atmRsp, 0x23), (.sack, 0x24)]

/-- What each of them does at an open port. -/
theorem response_exec {p : Fin 8} {m : Msg} {s : State} {q : FabReq} {c : CoreId} {y : Fin 8 → Msg → Instr}
    (hy : (y, m.type) ∈ responseForms) (h : RspFor p m s q c) (ht : rspType q.msg.type = m.type) :
    exec (y p m) s = .next (coreResponse c q m (takeIn p m s)) ∧ m.type ≠ 0x25 := by
  obtain ⟨hlive, hat, -⟩ := h.atPort
  have hrun : act (forHere m.type p m s) (arrive p m (rspArrive m)) s = .next (coreResponse c q m (takeIn p m s)) := by
    rw [act, if_pos (by simp [forHere, hlive, hat, h.here]), arrive_open _ h.atPort, rspArrive, if_pos h.fits,
      h.delivered (.inr ht.symm)]
  simp only [responseForms, List.mem_cons, Prod.mk.injEq, List.not_mem_nil, or_false] at hy
  have hno : m.type ≠ 0x25 := by
    rcases hy with ⟨-, hm⟩ | ⟨-, hm⟩ | ⟨-, hm⟩ | ⟨-, hm⟩ <;> rw [hm] <;> decide
  refine ⟨?_, hno⟩
  rcases hy with ⟨rfl, hm⟩ | ⟨rfl, hm⟩ | ⟨rfl, hm⟩ | ⟨rfl, hm⟩ <;> rw [hm] at hrun <;> exact hrun

theorem Freed.same {p : Fin 8} {m : Msg} {s t u : State} (h : Freed p m s t) (hf : u.fab.ports = t.fab.ports) : Freed p m s u := by
  unfold Freed at *
  rw [hf]
  exact h

/-- A response without poison ends its request at the core that waits (R465, R466). -/
theorem response_fills {p : Fin 8} {m : Msg} {s : State} {q : FabReq} {c : CoreId} {y : Fin 8 → Msg → Instr}
    (hy : (y, m.type) ∈ responseForms) (h : RspFor p m s q c) (ht : rspType q.msg.type = m.type) (hp : bit m.flags 0 = false) :
    ∃ t, exec (y p m) s = .next t ∧ Freed p m s t ∧ t.fab.reqs = withoutReq q.id s ∧
      t.cores = (modCore c (fun k => if m.type = 0x23 ∧ bit m.arg 0 = true then (k.answeredBy q.id m).metInf true
        else k.answeredBy q.id m) s).cores := by
  obtain ⟨hexec, hno⟩ := response_exec hy h ht
  rw [coreResponse_fills c q m _ h.stillWaits hno hp] at hexec
  refine ⟨_, hexec, (takeIn_freed p m s).same rfl, withoutReq_takeIn q.id p m s, ?_⟩
  simp only [modCore_cores]
  exact congrArg (fun v : Vector Core 576 => upd v c _) (takeIn_cores p m s)

theorem response_poisoned {p : Fin 8} {m : Msg} {s : State} {q : FabReq} {c : CoreId} {y : Fin 8 → Msg → Instr}
    (hy : (y, m.type) ∈ responseForms) (h : RspFor p m s q c) (ht : rspType q.msg.type = m.type) (hp : bit m.flags 0 = true)
    (hr : s.cores[c.val].st = .running) :
    ∃ t, exec (y p m) s = .next t ∧ t.fab.reqs = withoutReq q.id s ∧ StopsFor c 5 q s t := by
  obtain ⟨hexec, hno⟩ := response_exec hy h ht
  have hcores := takeIn_cores p m s
  rw [coreResponse_poisoned c q m _ h.stillWaits hno hp, hcores] at hexec
  refine ⟨_, hexec, ?_, raiseAt_stopsFor hcores hr rfl⟩
  rw [raiseAt_fab]
  exact withoutReq_takeIn q.id p m s

/-- The request of a core times out (R467). -/
theorem fabRespTimeout_stops {s : State} {q : FabReq} {c : CoreId} {k : QueueId} (hlive : live s = true)
    (hq : (s.fab.reqs.find? fun r => r.id = q.id) = some q) (ho : q.owner = .core c k)
    (hw : waitsFor s.cores[c.val] q.id = true) (hr : s.cores[c.val].st = .running) :
    ∃ t, exec (.fabRespTimeout q.id) s = .next t ∧ t.fab.reqs = withoutReq q.id s ∧ StopsFor c 11 q s t := by
  have harm : exec (.fabRespTimeout q.id) s = execFabRespTimeout q.id s := rfl
  obtain ⟨hfab, hstop⟩ := coreReqFails_stops c q s hw hr
  refine ⟨coreReqFails c q s, ?_, congrArg Fab.reqs hfab, hstop⟩
  rw [harm, execFabRespTimeout]
  simp only [hq, ho, act, if_pos hlive]

/-! ### PROBE (R474) -/

theorem probe_exec {p : Fin 8} {m : Msg} {s : State} (h : AtOpenPort p m s) (ht : m.type = 0x09) (hb : msgBad m = false) :
    exec (.probe p m) s = .next (if m.src = s.fab.node then modPort p (fun x => { x with probes := x.probes + 1 }) (takeIn p m s)
      else portQueue p m (takeIn p m s)) := by
  have harm : exec (.probe p m) s = execProbe p m s := rfl
  have hgo : (live s && m.type = 0x09 && atPort p m s) = true := by simp [h.1, h.2.1, ht]
  rw [harm, execProbe, act, if_pos hgo, arrive_open _ h, probeArrive, if_neg (by simp [hb]), (takeIn_pumped p m s).node]
  rfl

theorem probe_counted {p : Fin 8} {m : Msg} {s : State} (h : AtOpenPort p m s) (ht : m.type = 0x09) (hb : msgBad m = false)
    (hs : m.src = s.fab.node) : ∃ t, exec (.probe p m) s = .next t ∧ Freed p m s t ∧
      t.fab.ports[p.val].probes = s.fab.ports[p.val].probes + 1 := by
  have hport : ∀ (f : Port → Port) (u : State), (modPort p f u).fab.ports[p.val] = f u.fab.ports[p.val] :=
    fun f u => upd_same _ _ _
  have hprobes : (takeIn p m s).fab.ports[p.val].probes = s.fab.ports[p.val].probes := by
    rw [(takeIn_pumped p m s).port p]
    show (tookIn p m s).fab.ports[p.val].probes = _
    rw [tookIn, hport]
  refine ⟨_, (probe_exec h ht hb).trans (by rw [if_pos hs]), ?_, ?_⟩
  · have hfreed := takeIn_freed p m s
    unfold Freed at *
    rw [hport]
    exact hfreed
  · rw [hport, ← hprobes]

theorem probe_returns {p : Fin 8} {m : Msg} {s : State} (h : AtOpenPort p m s) (ht : m.type = 0x09) (hb : msgBad m = false)
    (hs : m.src ≠ s.fab.node) : ∃ t, exec (.probe p m) s = .next t ∧ Leaves p m s t :=
  ⟨_, (probe_exec h ht hb).trans (by rw [if_neg hs]),
    ((takeIn_carries p m s).trans (portQueue_pumped p m _).carries).leaves (portQueue_sent p m _)⟩

theorem probeSend_leaves {p : Fin 8} {s : State} (hlive : live s = true) (hn : s.nuc.restarting = false)
    (hst : portState p s = 1) : ∃ t y, exec (.probeSend p) s = .next t ∧ Leaves p y s t ∧ y.type = 0x09 ∧
      y.src = s.fab.node ∧ y.dst = s.fab.ports[p.val].peerNode ∧ y.payload.length = 64 := by
  have harm : exec (.probeSend p) s = execProbeSend p s := rfl
  have hgo : (live s && !s.nuc.restarting && portState p s = 1) = true := by simp [hlive, hn, hst]
  have hfree : Carries s (takeFree 512 s).2 := .of_ports rfl fun _ h => h
  refine ⟨_, _, harm.trans (by rw [execProbeSend, act, if_pos hgo]),
    (hfree.trans (portQueue_pumped p _ _).carries).leaves (portQueue_sent p _ _), rfl, rfl, rfl, length_leBytes _ _⟩

/-! ### Routing (R469) -/

theorem hops_left {m : Msg} (h : m.hops ≠ 1) : ¬ m.hops - 1 = 0 := by
  intro h0
  exact h (by bv_omega)

/-- A message with hops left, to a node that a route serves, stands at a port with one hop less. -/
theorem routeOut_sent {m : Msg} {s : State} (hm : m.hops ≠ 1) (hp : (pickPort m.dst s).isSome) :
    ∃ q, routeOut m s = (none, portQueue q { m with hops := m.hops - 1 } s) := by
  obtain ⟨q, hq⟩ := Option.isSome_iff_exists.1 hp
  refine ⟨q, ?_⟩
  unfold routeOut
  simp only [if_neg (hops_left hm), hq]

theorem messageRoute_leaves {p : Fin 8} {m : Msg} {s : State} (h : AtOpenPort p m s) (hd : m.dst ≠ s.fab.node)
    (hk : knownType m.type = true) (h8 : m.type ≠ 0x08) (h28 : m.type ≠ 0x28) (h9 : m.type ≠ 0x09) (hm : m.hops ≠ 1)
    (hp : (pickPort m.dst s).isSome) :
    ∃ t q, exec (.messageRoute p m) s = .next t ∧ Leaves q { m with hops := m.hops - 1 } s t ∧ Freed p m s t := by
  have harm : exec (.messageRoute p m) s = execMessageRoute p m s := rfl
  have hgo : (live s && atPort p m s && (m.dst != s.fab.node || !knownType m.type) && m.type != 0x08 && m.type != 0x28 &&
      m.type != 0x09) = true := by
    simp only [Bool.and_eq_true, Bool.or_eq_true, bne_iff_ne]
    exact ⟨⟨⟨⟨⟨h.1, h.2.1⟩, .inl hd⟩, h8⟩, h28⟩, h9⟩
  have hlink : ¬ (m.type = 0x08 || m.type = 0x28 || m.type = 0x09) = true := by
    simp only [Bool.or_eq_true, decide_eq_true_eq, not_or]
    exact ⟨⟨h8, h28⟩, h9⟩
  obtain ⟨q, hq⟩ := routeOut_sent (s := takeIn p m s) hm (by rw [takeIn_pickPort]; exact hp)
  have hpump := portQueue_pumped q { m with hops := m.hops - 1 } (takeIn p m s)
  refine ⟨portQueue q { m with hops := m.hops - 1 } (takeIn p m s), q, ?_,
    ((takeIn_carries p m s).trans hpump.carries).leaves (portQueue_sent q _ _), hpump.freed (takeIn_freed p m s)⟩
  rw [harm, execMessageRoute, act, if_pos hgo, arrive_open _ h, routeArrive, if_pos hk, reroute, if_neg hlink, hq]

/-! ### A coalescing WRITE whose time is up (R118, R466) -/

/-- The request by which a WRITE that closes leaves. -/
def closedReq (c : CoreId) (w : Coalesce) (dom : Byte) (s : State) : FabReq :=
  { id := w.req, owner := .core c .ni, msg := reqMsg dom w.req (writeReq w) s }

/-- The block once the WRITE of a core no longer coalesces, its program noted to have written. -/
def writeClosed (c : CoreId) (s : State) : State := noteCore c (modCore c (fun k => { k with coalesce := none }) s)

theorem writeClosed_core (c : CoreId) (s : State) : (writeClosed c s).cores[c.val] = s.cores[c.val].closed.noted (stampNow s) := by
  unfold writeClosed noteCore
  rw [modCore_cores, upd_same, modCore_cores, upd_same]
  rfl

theorem writeClosed_domain (c : CoreId) (s : State) :
    domainOf (coreInst c (writeClosed c s)) (writeClosed c s) = domainOf (coreInst c s) s := by
  rw [coreInst_same (s := s) c rfl]
  rfl

/-- That block with the request outstanding. -/
def writePending (c : CoreId) (w : Coalesce) (dom : Byte) (s : State) : State :=
  { writeClosed c s with fab := { s.fab with reqs := s.fab.reqs ++ [closedReq c w dom s] } }

theorem closeWrite_bound {c : CoreId} {w : Coalesce} {dom : Byte} {s : State} (hw : s.cores[c.val].coalesce = some w)
    (hd : domainOf (coreInst c s) s = some dom) :
    closeWrite c s = launchReq c (closedReq c w dom s).msg (writePending c w dom s) := by
  rw [← writeClosed_domain] at hd
  unfold writeClosed at hd
  unfold closeWrite
  rw [hw]
  dsimp only
  rw [hd]
  rfl

theorem closeWrite_unbound {c : CoreId} {w : Coalesce} {s : State} (hw : s.cores[c.val].coalesce = some w)
    (hd : domainOf (coreInst c s) s = none) : closeWrite c s =
      raiseAt c .fabric (waitPc (writeClosed c s).cores[c.val] w.req) true (BitVec.ofNat 64 w.addr) (writeClosed c s) := by
  rw [← writeClosed_domain] at hd
  unfold writeClosed at hd
  unfold closeWrite
  rw [hw]
  dsimp only
  rw [hd]
  rfl

theorem launchReq_sent {c : CoreId} {m : Msg} {s : State} (hd : m.dst ≠ s.fab.node) (hm : m.hops ≠ 1)
    (hp : (pickPort m.dst s).isSome) :
    ∃ q, launchReq c m s = portQueue q { m with hops := m.hops - 1 } s := by
  obtain ⟨q, hq⟩ := routeOut_sent hm hp
  refine ⟨q, ?_⟩
  unfold launchReq
  rw [if_neg hd, hq]

theorem coalesceTimeout_sends {c : CoreId} {w : Coalesce} {dom : Byte} {s : State} (hlive : live s = true)
    (hw : s.cores[c.val].coalesce = some w) (h : RouteOpen c w.node dom s) :
    ∃ t q y, exec (.writeCoalesceTimeout c) s = .next t ∧ t.cores[c.val].coalesce = none ∧ Leaves q y s t ∧
      y.type = 0x01 ∧ y.dst = w.node ∧ y.domain = dom ∧ y.addr = BitVec.ofNat 64 w.addr ∧ y.payload = w.data ∧
      y.reqId = w.req ∧ ∃ r ∈ t.fab.reqs, r.id = w.req ∧ r.owner = .core c .ni := by
  have harm : exec (.writeCoalesceTimeout c) s = execWriteCoalesceTimeout c s := rfl
  obtain ⟨hen, hdom, hnode, hhop, hport, -⟩ := h
  have hdomain : domainOf (coreInst c s) s = some dom := by rw [domainOf, if_pos hen, hdom]
  have hclose := closeWrite_bound hw hdomain
  have hpick : pickPort w.node (writePending c w dom s) = pickPort w.node s := pickPort_same w.node rfl rfl rfl rfl rfl
  have hcarry : Carries s (writePending c w dom s) := .of_ports rfl fun _ h => h
  have hmem : closedReq c w dom s ∈ (writePending c w dom s).fab.reqs := List.mem_append_right _ (List.mem_singleton.2 rfl)
  obtain ⟨q, hq⟩ := launchReq_sent (c := c) (m := (closedReq c w dom s).msg) (s := writePending c w dom s) hnode hhop
    (show (pickPort w.node (writePending c w dom s)).isSome by rw [hpick]; exact hport)
  rw [hq] at hclose
  have hpump := portQueue_pumped q { (closedReq c w dom s).msg with hops := (closedReq c w dom s).msg.hops - 1 }
    (writePending c w dom s)
  refine ⟨_, q, _, ?_, ?_, (hcarry.trans hpump.carries).leaves (portQueue_sent q _ _), rfl, rfl, rfl, rfl, rfl, rfl,
    closedReq c w dom s, ?_, rfl, rfl⟩
  · rw [harm, execWriteCoalesceTimeout, act, if_pos hlive, hclose]
  · rw [hpump.cores]
    exact congrArg Core.coalesce (writeClosed_core c s)
  · rw [hpump.reqs]
    exact hmem

theorem coalesceTimeout_unbound {c : CoreId} {w : Coalesce} {s : State} (hlive : live s = true)
    (hw : s.cores[c.val].coalesce = some w) (hdomain : domainOf (coreInst c s) s = none) (hr : s.cores[c.val].st = .running) :
    ∃ t, exec (.writeCoalesceTimeout c) s = .next t ∧ t.cores[c.val].coalesce = none ∧ t.cores[c.val].st = .faulted ∧
      t.cores[c.val].faultCause = 11 ∧ t.cores[c.val].faultAddr = BitVec.ofNat 64 w.addr := by
  have harm : exec (.writeCoalesceTimeout c) s = execWriteCoalesceTimeout c s := rfl
  have hclosed := writeClosed_core c s
  have hclose := closeWrite_unbound hw hdomain
  have hcore := (raiseAt_core c .fabric (waitPc (writeClosed c s).cores[c.val] w.req) true (BitVec.ofNat 64 w.addr)
    (writeClosed c s) (by rw [hclosed]; exact hr)).1
  refine ⟨closeWrite c s, by rw [harm, execWriteCoalesceTimeout, act, if_pos hlive], ?_⟩
  rw [hclose, hcore, hclosed]
  exact ⟨rfl, rfl, rfl, rfl⟩

end Sys2Proof.Machine
end

section
/-! PROOFS. What the QUERYs that wait leave alone as they are served: cores, requests, messages queued and the merge contexts of
other QUERYs (R345, R365 to R379, R470 to R472). -/

namespace Sys2Proof.Machine

open Sys2Proof

/-! ### Merge contexts of other keys -/

/-- A context that no root has opened stands as it was, and none opens. -/
def KeepsMerge (src : BitVec 16) (req : Word) (s t : State) : Prop :=
  (mergeOf src req s = none → mergeOf src req t = none) ∧
    ∀ c, mergeOf src req s = some c → c.root = none → mergeOf src req t = some c

/-- Taking out of a list what is not looked for leaves what a search finds. -/
theorem find?_filter_kept {α : Type} (l : List α) (p k : α → Bool) :
    (l.find? k = none → (l.filter p).find? k = none) ∧
      ∀ x, l.find? k = some x → p x = true → (l.filter p).find? k = some x := by
  induction l with
  | nil => exact ⟨fun _ => rfl, nofun⟩
  | cons y t ih =>
    obtain ⟨ih1, ih2⟩ := ih
    cases hk : k y with
    | true =>
      refine ⟨fun h => by simp [hk] at h, fun x hx hp => ?_⟩
      obtain rfl : y = x := by simpa [hk] using hx
      simp [hp, hk]
    | false =>
      rw [List.find?_cons_of_neg (by simp [hk])]
      cases hp : p y with
      | true => simpa [hp, hk] using And.intro ih1 ih2
      | false => simpa [hp] using And.intro ih1 ih2

/-- Cores and what has been sent stand, no request is added, and the contexts of these keys stand. -/
structure Spares (kept : BitVec 16 → Word → Prop) (s t : State) : Prop where
  cores : t.cores = s.cores
  reqs : ∀ r ∈ t.fab.reqs, r ∈ s.fab.reqs
  carries : Carries s t
  merges : ∀ src req, kept src req → KeepsMerge src req s t

section Serving

variable {kept : BitVec 16 → Word → Prop}

namespace Spares

theorem refl (s : State) : Spares kept s s := ⟨rfl, fun _ h => h, .refl s, fun _ _ _ => ⟨id, fun _ h _ => h⟩⟩

theorem trans {s t u : State} (h : Spares kept s t) (k : Spares kept t u) : Spares kept s u where
  cores := k.cores.trans h.cores
  reqs r hr := h.reqs r (k.reqs r hr)
  carries := h.carries.trans k.carries
  merges src req hk := by
    obtain ⟨h1, h2⟩ := h.merges src req hk
    obtain ⟨k1, k2⟩ := k.merges src req hk
    exact ⟨fun hs => k1 (h1 hs), fun c hs hc => k2 c (h2 c hs hc) hc⟩

theorem of_merges {s t : State} (hc : t.cores = s.cores) (hr : t.fab.reqs = s.fab.reqs) (hp : t.fab.ports = s.fab.ports)
    (ho : ∀ o ∈ s.out, o ∈ t.out) (hm : t.fab.merges = s.fab.merges) : Spares kept s t := by
  refine ⟨hc, fun r h => hr ▸ h, .of_ports hp ho, fun src req _ => ?_⟩
  unfold KeepsMerge mergeOf
  rw [hm]
  exact ⟨id, fun _ h _ => h⟩

/-- A change outside the fabric and the cores. -/
theorem of_fab {s t : State} (hf : t.fab = s.fab) (hc : t.cores = s.cores) (ho : ∀ o ∈ s.out, o ∈ t.out) : Spares kept s t :=
  of_merges hc (by rw [hf]) (by rw [hf]) ho (by rw [hf])

theorem ite {c : Prop} [Decidable c] {s a b : State} (ha : Spares kept s a) (hb : Spares kept s b) :
    Spares kept s (if c then a else b) := by
  split
  · exact ha
  · exact hb

end Spares

theorem msix_out (fn : InstId) (v : Fin 32) (s : State) : ∀ o ∈ s.out, o ∈ (msix fn v s).out := by
  unfold msix
  dsimp only
  split
  · split
    · exact fun _ h => h
    · exact fun _ h => List.mem_append_left _ h
  · exact fun _ h => h

/-- Interrupts, translation and the log keep all that. -/
theorem spares_access : AccessRel (Spares kept) where
  refl := .refl
  trans := .trans
  log _ _ _ := .of_fab rfl rfl fun _ h => h
  mtu _ _ _ := .of_fab rfl rfl fun _ h => h
  dpa _ _ _ := .of_fab rfl rfl fun _ h => h
  host _ _ _ _ := .of_fab rfl rfl fun _ h => List.mem_append_left _ h
  msix fn v s := .of_fab (by rw [msix_frame]) (by rw [msix_frame]) (msix_out fn v s)
  free _ _ := .of_fab rfl rfl fun _ h => h
  lines _ _ _ := .of_fab rfl rfl fun _ h => h
  found _ _ := .of_fab rfl rfl fun _ h => h
  fix a s := .of_fab (by rw [(fixLine_lookedUp a s).1]) (by rw [(fixLine_lookedUp a s).1])
    (by rw [(fixLine_lookedUp a s).1]; exact fun _ h => h)
  bfm _ _ _ _ _ := .of_fab rfl rfl fun _ h => h

/-! ### A walk (R349, R356, R357, R368) -/

theorem countWk_spares (w : Fin 16) (i : Fin 9) (n : Nat) (s : State) : Spares kept s (countWk w i n s) :=
  .of_fab rfl rfl fun _ h => h

theorem wkFault_spares (w : Fin 16) (i : InstId) (reason : Nat) (s : State) : Spares kept s (wkFault w i reason s) := by
  have hwk : ∀ f, Spares kept s (modWk w f s) := fun _ => .of_fab rfl rfl fun _ h => h
  exact (hwk _).trans (spares_access.logBoth _ _ _ _ _ _)

theorem metPoison_spares (c : Query) (a : Walking) : Spares kept a.s (metPoison c a).s :=
  (countWk_spares c.wk 7 1 a.s).trans (wkFault_spares _ _ _ _)

theorem objRead_spares (c : Query) (a n : Nat) (w : Walking) : Spares kept w.s (objRead c a n w).2.2.s := by
  have hread := spares_access (kept := kept).readIva c.who a n w.s
  unfold objRead
  dsimp only
  split
  · exact hread
  · split <;> exact hread

/-- A read that may have met poison, which is noted. -/
theorem objRead_noted_spares (c : Query) (a n : Nat) (w : Walking) (p : Bool) (u : Walking) {d : Option (List Byte)}
    (h : objRead c a n w = (d, p, u)) : Spares kept w.s u.s ∧ Spares kept w.s (if p then metPoison c u else u).s := by
  have hread := objRead_spares (kept := kept) c a n w
  rw [h] at hread
  refine ⟨hread, ?_⟩
  split
  · exact hread.trans (metPoison_spares c u)
  · exact hread

theorem visitNode_spares (c : Query) (n : Nat) (w : Walking) : Spares kept w.s (visitNode c n w).s := by
  unfold visitNode
  split
  · exact .refl _
  dsimp only
  split
  · next h => exact (objRead_noted_spares c _ _ _ _ _ h).2
  · next u h =>
    have h1 := (objRead_noted_spares (kept := kept) c _ _ _ _ _ h).1
    split
    · split
      · next h => exact h1.trans (objRead_noted_spares c _ _ _ _ _ h).2
      · next v h =>
        have h2 := h1.trans (objRead_noted_spares (kept := kept) c _ _ _ _ _ h).1
        exact h2.trans ((countWk_spares c.wk 3 1 v.s).trans (countWk_spares _ _ _ _))
    · exact h1

theorem visitId_spares (c : Query) (w : Walking) (n : Nat) : Spares kept w.s (visitId c w n).s := by
  unfold visitId
  split
  · exact .refl _
  split
  · dsimp only
    split
    · exact .refl _
    · exact wkFault_spares _ _ _ _
  · exact visitNode_spares c n w

theorem visitIds_spares (c : Query) (l : List Nat) (w : Walking) : Spares kept w.s (l.foldl (visitId c) w).s := by
  induction l generalizing w with
  | nil => exact .refl _
  | cons n t ih => exact (visitId_spares c w n).trans (ih _)

theorem expandNode_spares (c : Query) (n : Nat) (w : Walking) : Spares kept w.s (expandNode c n w).s := by
  have hcount := countWk_spares (kept := kept) c.wk 2 1 w.s
  unfold expandNode
  dsimp only
  split
  · next h => exact hcount.trans (objRead_noted_spares c _ _ _ _ _ h).2
  · next h => exact (hcount.trans (objRead_noted_spares c _ _ _ _ _ h).1).trans (visitIds_spares c _ _)

theorem walkLoop_spares (c : Query) (f : Nat) (cut : Option Nat) (w : Walking) : Spares kept w.s (walkLoop c f cut w).2.s := by
  induction f generalizing cut w with
  | zero => exact .refl _
  | succ f ih =>
    unfold walkLoop
    split
    · exact .refl _
    · split
      · exact .refl _
      · next y _ =>
        split
        · exact .refl _
        · exact (expandNode_spares c y.id w).trans (ih _ _)

theorem rerankLoop_spares (c : Query) (l : List Cand) (acc : List Hit) (w : Walking) :
    Spares kept w.s (rerankLoop c l acc w).2.s := by
  induction l generalizing acc w with
  | nil => exact .refl _
  | cons y t ih =>
    unfold rerankLoop
    split
    · exact .refl _
    · split
      · next h => exact (objRead_noted_spares c _ _ _ _ _ h).2.trans (ih _ _)
      · next h => exact (objRead_noted_spares c _ _ _ _ _ h).1.trans (ih _ _)

theorem walkFrom_spares (c : Query) (entries : List Nat) (cut : Option Nat) (skipped : Bool) (s : State) :
    Spares kept s (walkFrom c entries cut skipped s).2 := by
  have hwalk := (visitIds_spares (kept := kept) c entries { s := s }).trans (walkLoop_spares c c.p.maxExp
    (if c.det then none else cut) _)
  unfold walkFrom
  dsimp only
  generalize walkLoop c c.p.maxExp (if c.det then none else cut) (entries.foldl (visitId c) { s := s }) = r at hwalk ⊢
  obtain ⟨stopped, w⟩ := r
  dsimp only at hwalk ⊢
  have hrank : Spares kept s (if c.p.rerank then rerankLoop c ((w.cand.filter fun y => y.returnable).take c.p.rr) [] w
      else ((w.cand.filter fun y => y.returnable).map fun y => y.hit, w)).2.s := by
    split
    · exact hwalk.trans (rerankLoop_spares c _ _ w)
    · exact hwalk
  generalize (if c.p.rerank then rerankLoop c ((w.cand.filter fun y => y.returnable).take c.p.rr) [] w
      else ((w.cand.filter fun y => y.returnable).map fun y => y.hit, w)) = q at hrank ⊢
  obtain ⟨hits, v⟩ := q
  dsimp only at hrank ⊢
  split
  · exact hrank
  · dsimp only
    split
    · exact hrank.trans (countWk_spares _ _ _ _)
    · exact hrank

theorem queryPoison_spares (wk : Fin 16) (i : InstId) (s : State) : Spares kept s (queryPoison wk i s).2 :=
  (countWk_spares wk 7 1 s).trans (wkFault_spares _ _ _ _)

theorem queryRun_spares (who : Who) (wk : Fin 16) (x : Index) (p : Params) (k : Nat) (det : Bool) (q : List Num)
    (seeds : Option (List Nat)) (cut : Option Nat) (skipped : Bool) (s : State) :
    Spares kept s (queryRun who wk x p k det q seeds cut skipped s).2 := by
  have hbook := spares_access (kept := kept).readIva who x.bookBase (256 * x.M * x.slot) s
  unfold queryRun
  dsimp only
  split
  · exact hbook
  split
  · exact hbook.trans (queryPoison_spares _ _ _)
  split
  · exact hbook.trans (walkFrom_spares _ _ _ _ _)
  have hboth := hbook.trans (spares_access (kept := kept).readIva who x.entryBase (4 * p.nEntry) _)
  split
  · exact hboth
  split
  · exact hboth.trans (queryPoison_spares _ _ _)
  · exact hboth.trans (walkFrom_spares _ _ _ _ _)

/-! ### A descriptor ends (R79, R94, R141, R143) -/

theorem pressureUpdate_spares (i : InstId) (s : State) : Spares kept s (pressureUpdate i s) := by
  have hinst : ∀ f u, Spares kept u (modInst i f u) := fun _ _ => .of_fab rfl rfl fun _ h => h
  have hirq : ∀ v u, Spares kept u (if s.inst[i.val].pressureIrqEn = true then msix i v u else u) := fun v u =>
    .ite (spares_access.msix i v u) (.refl u)
  unfold pressureUpdate
  refine .ite ?_ (hinst _ s)
  have hseen := (hinst (fun x => { x with pressure := true, pressureSeen := true }) s).trans (hirq s.inst[i.val].pressureVec _)
  exact .ite hseen ((hseen.trans (hinst _ _)).trans (spares_access.logPf _ _ _ _ _ _))

theorem admission_spares (i : InstId) (s : State) : Spares kept s (admission i s) := by
  have hinst : ∀ f, Spares kept s (modInst i f s) := fun _ => .of_fab rfl rfl fun _ h => h
  unfold admission
  exact .ite ((hinst _).trans (pressureUpdate_spares i _))
    (.ite ((hinst _).trans (pressureUpdate_spares i _)) (pressureUpdate_spares i s))

theorem modItem_spares (d : Nat) (f : Item → Item) (s : State) : Spares kept s (modItem d f s) :=
  .of_fab rfl rfl fun _ h => h

theorem endItem_spares (d : Nat) (result : Dword) (f : Outcomes → Outcomes) (s : State) :
    Spares kept s (endItem d result f s) := by
  unfold endItem
  split
  · exact .refl s
  split
  · exact .refl s
  dsimp only
  split
  · exact modItem_spares _ _ _
  · have hest : ∀ (x : Item) st, Spares kept s (estComplete x st s) := by
      intro x st
      unfold estComplete
      split
      · exact .refl s
      · exact .of_fab rfl rfl fun _ h => h
    have hcq : ∀ (i : InstId) q f (u : State), Spares kept u (modCq i q f u) := fun _ _ _ _ => .of_fab rfl rfl fun _ h => h
    exact (((hest _ _).trans (modItem_spares _ _ _)).trans (hcq _ _ _ _)).trans (admission_spares _ _)

/-! ### A SEARCH ends (R345, R351, R377) -/

/-- Contexts and requests of others stand where some are taken out. -/
theorem filter_spares {s t : State} (p : Merge → Bool) (r : FabReq → Bool) (hc : t.cores = s.cores)
    (hp : t.fab.ports = s.fab.ports) (ho : t.out = s.out) (hm : t.fab.merges = s.fab.merges.filter p)
    (hr : t.fab.reqs = s.fab.reqs.filter r)
    (hkept : ∀ src req, kept src req → ∀ c ∈ s.fab.merges, c.src = src → c.req = req → c.root = none → p c = true) :
    Spares kept s t := by
  refine ⟨hc, fun q hq => ?_, .of_ports hp (fun o h => ho ▸ h), fun src req hk => ?_⟩
  · rw [hr] at hq
    exact List.mem_of_mem_filter hq
  · obtain ⟨h1, h2⟩ := find?_filter_kept s.fab.merges p (fun m => m.src = src && m.req = req)
    unfold KeepsMerge mergeOf
    rw [hm]
    refine ⟨h1, fun c hc hroot => h2 c hc ?_⟩
    have hkey : c.src = src ∧ c.req = req := by simpa using List.find?_some hc
    exact hkept src req hk c (List.mem_of_find?_eq_some hc) hkey.1 hkey.2 hroot

theorem dropSearch_spares (d : Nat) (s : State) : Spares kept s (dropSearch d s) :=
  filter_spares _ _ rfl rfl rfl rfl rfl fun _ _ _ c _ _ _ hroot => by rw [hroot]

theorem dropMerge_spares (src : BitVec 16) (req : Word) (s : State) (h : ¬ kept src req) :
    Spares kept s (dropMerge src req s) := by
  refine filter_spares _ _ rfl rfl rfl rfl rfl fun src' req' hk c _ hs hr _ => ?_
  have hne : ¬ (c.src = src ∧ c.req = req) := fun hsame => h (by rw [← hsame.1, ← hsame.2, hs, hr]; exact hk)
  rw [Bool.not_eq_true', Bool.and_eq_false_iff, decide_eq_false_iff_not, decide_eq_false_iff_not]
  exact not_and_or.1 hne

theorem searchEnd_spares (d : Nat) (f : Outcomes → Outcomes) (s : State) : Spares kept s (searchEnd d f s) :=
  (dropSearch_spares d s).trans (endItem_spares _ _ _ _)

theorem searchFails_spares (d : Nat) (w : Fin 16) (i : InstId) (e : AccErr) (s : State) :
    Spares kept s (searchFails d w i e s) := by
  unfold searchFails
  cases e with
  | stale => exact dropSearch_spares d s
  | mtu k => exact (wkFault_spares w i 3 s).trans (searchEnd_spares _ _ _)
  | engine => exact searchEnd_spares _ _ _

theorem placeFree_spares (q : QueryKey) (b : Bool) (s : State) : Spares kept s (placeFree q b s) := .of_fab rfl rfl fun _ h => h

theorem queryDone_spares (d j : Nat) (s : State) : Spares kept s (queryDone d j s) := by
  unfold queryDone
  dsimp only
  generalize hu : ({ placeFree (.own d j) true s with halo := _, searches := _ } : State) = u
  have hplace : Spares kept s u := by
    rw [← hu]
    exact .of_fab rfl rfl fun _ h => h
  split
  · exact hplace
  split
  · exact hplace.trans (searchEnd_spares _ _ _)
  · exact hplace

theorem writeIva_spares {w : Who} {iva : Nat} {d : List Byte} {p : Bool} {s t : State} {e : Option AccErr} {n : Nat}
    (h : writeIva w iva d p s = (e, n, t)) : Spares kept s t := by
  have hwrite := spares_access (kept := kept).writeIva w iva d p s
  rwa [h] at hwrite

theorem writeResult_spares (d j : Nat) (a : Answer) (shardsExp : Nat) (pois : Bool) (s : State) :
    Spares kept s (writeResult d j a shardsExp pois s) := by
  have hnote : ∀ u, Spares kept u (noteEffect d u) := fun u => modItem_spares d _ u
  unfold writeResult
  split
  · exact .refl s
  dsimp only
  generalize hu : modItem d _ s = u
  have hitem : Spares kept s u := by rw [← hu]; exact modItem_spares d _ s
  split
  · next n v h =>
    have hfail : Spares kept v (if n = 0 then v else noteEffect d v) := .ite (.refl v) (hnote v)
    exact ((hitem.trans (writeIva_spares h)).trans hfail).trans (searchFails_spares _ _ _ _ _)
  · next v h =>
    have hbody := (hitem.trans (writeIva_spares h)).trans (hnote v)
    split
    · next h => exact (hbody.trans (writeIva_spares h)).trans (searchFails_spares _ _ _ _ _)
    · next v' h => exact ((hbody.trans (writeIva_spares h)).trans (hnote v')).trans (queryDone_spares _ _ _)

/-! ### Contexts close (R367, R472) -/

theorem pumped_spares {s t : State} (h : Pumped s t) : Spares kept s t := by
  refine ⟨h.cores, fun r hr => h.reqs ▸ hr, h.carries, fun src req _ => ?_⟩
  unfold KeepsMerge mergeOf
  rw [h.merges]
  exact ⟨id, fun _ h _ => h⟩

theorem sendOn_pumped (p : Fin 8) (m : Msg) (s : State) : Pumped s (sendOn p m s) := by
  unfold sendOn
  split
  · exact portQueue_pumped p m s
  · exact .refl s

theorem rootClose_spares (m : Merge) (d j : Nat) (stop : Bool) (s : State) (h : ¬ kept m.src m.req) :
    Spares kept s (rootClose m d j stop s) := by
  have hdrop := dropMerge_spares m.src m.req s h
  unfold rootClose
  dsimp only
  generalize hu : (if stop && decide (m.ans.shardsAns < m.shardsExp) && !bit m.ans.flags 1 then
    countWk (wkOfQuery d j (dropMerge m.src m.req s)) 6 1 (dropMerge m.src m.req s) else dropMerge m.src m.req s) = u
  have hcount : Spares kept s u := by
    rw [← hu]
    split
    · exact hdrop.trans (countWk_spares _ _ _ _)
    · exact hdrop
  split
  · exact hcount
  · refine hcount.trans (Spares.trans ?_ (writeResult_spares _ _ _ _ _ _))
    split
    · exact (modItem_spares _ _ u).trans (wkFault_spares _ _ _ _)
    · exact .refl u

theorem branchClose_spares (m : Merge) (up : Fin 8) (s : State) (h : ¬ kept m.src m.req) : Spares kept s (branchClose m up s) := by
  unfold branchClose
  exact (dropMerge_spares m.src m.req s h).trans (pumped_spares (sendOn_pumped _ _ _))

theorem mergeCheck_spares (m : Merge) (s : State) (h : ¬ kept m.src m.req) : Spares kept s (mergeCheck m s) := by
  unfold mergeCheck
  split
  · split
    · exact rootClose_spares _ _ _ _ s h
    · exact .refl s
  · split
    · exact branchClose_spares _ _ s h
    · exact .refl s
  · exact .refl s

/-- A change of a context that keeps its key. -/
def KeepsKey (f : Merge → Merge) : Prop := ∀ x, (f x).src = x.src ∧ (f x).req = x.req

theorem mergeAnswer_fields (m : Merge) (a : Answer) : (mergeAnswer m a).src = m.src ∧ (mergeAnswer m a).req = m.req ∧
    (mergeAnswer m a).root = m.root ∧ (mergeAnswer m a).up = m.up ∧ (mergeAnswer m a).branches = m.branches ∧
    (mergeAnswer m a).answered = m.answered + 1 := by
  unfold mergeAnswer
  dsimp only
  split <;> exact ⟨rfl, rfl, rfl, rfl, rfl, rfl⟩

theorem mergeAnswer_keepsKey (a : Answer) : KeepsKey fun x => mergeAnswer x a := fun x =>
  ⟨(mergeAnswer_fields x a).1, (mergeAnswer_fields x a).2.1⟩

theorem mergeOwn_keepsKey (a : Answer) : KeepsKey fun x => mergeOwn x a := mergeAnswer_keepsKey a

/-- The contexts of a key changed. -/
def changeMerges (src : BitVec 16) (req : Word) (f : Merge → Merge) (s : State) : State :=
  { s with fab := { s.fab with merges := s.fab.merges.map fun x => if x.src = src && x.req = req then f x else x } }

theorem mergeUpdate_eq (src : BitVec 16) (req : Word) (f : Merge → Merge) (s : State) : mergeUpdate src req f s =
    match mergeOf src req s with
    | none => s
    | some m => mergeCheck (f m) (changeMerges src req f s) := rfl

/-- What a look-up finds once the contexts of a key have been changed. -/
theorem mergeOf_changeMerges (src src' : BitVec 16) (req req' : Word) (f : Merge → Merge) (hf : KeepsKey f) (s : State) :
    mergeOf src' req' (changeMerges src req f s) =
      (mergeOf src' req' s).map fun x => if x.src = src && x.req = req then f x else x := by
  unfold mergeOf changeMerges
  dsimp only
  rw [List.find?_map]
  congr 2
  funext x
  dsimp only [Function.comp]
  split
  · rw [(hf x).1, (hf x).2]
  · rfl

theorem changeMerges_spares (src : BitVec 16) (req : Word) (f : Merge → Merge) (hf : KeepsKey f) (s : State)
    (h : ¬ kept src req) : Spares kept s (changeMerges src req f s) := by
  refine ⟨rfl, fun _ h => h, .of_ports rfl fun _ h => h, fun src' req' hk => ?_⟩
  have hother : ∀ c, mergeOf src' req' s = some c → ¬ (c.src = src && c.req = req) = true := by
    intro c hc hsame
    have hkey : c.src = src' ∧ c.req = req' := by simpa using List.find?_some hc
    have hown : c.src = src ∧ c.req = req := by simpa using hsame
    exact h (by rw [← hown.1, ← hown.2, hkey.1, hkey.2]; exact hk)
  unfold KeepsMerge
  rw [mergeOf_changeMerges _ _ _ _ f hf]
  refine ⟨fun hs => by rw [hs]; rfl, fun c hs _ => ?_⟩
  rw [hs, Option.map_some, if_neg (hother c hs)]

theorem mergeOf_key {src : BitVec 16} {req : Word} {s : State} {m : Merge} (h : mergeOf src req s = some m) :
    m.src = src ∧ m.req = req := by
  simpa using List.find?_some h

theorem mergeUpdate_spares (src : BitVec 16) (req : Word) (f : Merge → Merge) (hf : KeepsKey f) (s : State)
    (h : ¬ kept src req) : Spares kept s (mergeUpdate src req f s) := by
  rw [mergeUpdate_eq]
  split
  · exact .refl s
  · next m hm =>
    obtain ⟨hs, hr⟩ := mergeOf_key hm
    exact (changeMerges_spares src req f hf s h).trans (mergeCheck_spares _ _ (by rw [(hf m).1, (hf m).2, hs, hr]; exact h))

/-! ### The QUERY of another device (R344, R345, R365) -/

theorem jobEnd_remote_spares (r : HtuReq) (m : Msg) (e : QueryEnd) (s : State) (hm : r.remote = some m)
    (h : ¬ kept m.src m.reqId) : Spares kept s (jobEnd r e s) := by
  unfold jobEnd
  rw [hm]
  exact (placeFree_spares _ _ s).trans (mergeUpdate_spares _ _ _ (mergeOwn_keepsKey _) _ h)

theorem jobRun_remote_spares (r : HtuReq) (m : Msg) (seeds : Option (List Nat)) (skipped : Bool) (s : State)
    (hm : r.remote = some m) (h : ¬ kept m.src m.reqId) : Spares kept s (jobRun r seeds skipped s) :=
  (queryRun_spares _ _ _ _ _ _ _ _ _ _ s).trans (jobEnd_remote_spares r m _ _ hm h)

theorem jobStart_remote_spares (r : HtuReq) (m : Msg) (s : State) (hm : r.remote = some m) (h : ¬ kept m.src m.reqId) :
    Spares kept s (jobStart r s) := by
  unfold jobStart
  split
  · split
    · exact .of_fab rfl rfl fun _ h => h
    · exact jobRun_remote_spares r m _ _ s hm h
  · exact jobRun_remote_spares r m _ _ s hm h

theorem remoteEmpty_spares (m : Msg) (s : State) (h : ¬ kept m.src m.reqId) : Spares kept s (remoteEmpty m s) :=
  mergeUpdate_spares _ _ _ (mergeOwn_keepsKey _) s h

theorem remoteRun_spares (m : Msg) (i : InstId) (wk : Fin 16) (s : State) (h : ¬ kept m.src m.reqId) :
    Spares kept s (remoteRun m i wk s) := by
  have hfail : ∀ reason u, Spares kept u (remoteEmpty m (placeFree (remoteKey m i) false (wkFault wk i reason u))) :=
    fun reason u => ((wkFault_spares wk i reason u).trans (placeFree_spares _ _ _)).trans (remoteEmpty_spares m _ h)
  have hplace : ∀ f, Spares kept s (modWk wk f s) := fun _ => .of_fab rfl rfl fun _ h => h
  unfold remoteRun
  dsimp only
  generalize hr : readIva (wkWho wk i s.inst[i.val].gen) _ 256 _ = xr
  have hread : Spares kept s xr.s := by
    rw [← hr]
    exact (hplace _).trans (spares_access.readIva _ _ _ _)
  split
  · exact hread.trans (hfail 3 _)
  split
  · exact hread.trans (hfail 2 _)
  · exact (hread.trans (spares_access.free 16 _)).trans (jobStart_remote_spares _ m _ rfl h)

theorem remoteTry_spares (s : State) (m : Msg) (h : ¬ kept m.src m.reqId) : Spares kept s (remoteTry s m) := by
  unfold remoteTry
  split
  · exact .refl s
  · exact remoteEmpty_spares m s h
  · dsimp only
    split
    · exact remoteEmpty_spares m s h
    · split
      · exact remoteRun_spares m _ _ s h
      · exact .of_merges rfl rfl rfl (fun _ h => h) rfl

theorem remoteTries_spares (l : List Msg) (s : State) (h : ∀ m ∈ l, ¬ kept m.src m.reqId) :
    Spares kept s (l.foldl remoteTry s) := by
  induction l generalizing s with
  | nil => exact .refl s
  | cons m t ih =>
    exact (remoteTry_spares s m (h m List.mem_cons_self)).trans (ih _ fun x hx => h x (List.mem_cons_of_mem _ hx))

theorem remoteServe_spares (s : State) (h : ∀ m ∈ s.fab.queries, ¬ kept m.src m.reqId) : Spares kept s (remoteServe s) := by
  unfold remoteServe
  split
  · exact .refl s
  · have hclear : Spares kept s { s with fab := { s.fab with queries := [] } } := .of_merges rfl rfl rfl (fun _ h => h) rfl
    exact hclear.trans (remoteTries_spares _ _ h)

end Serving

end Sys2Proof.Machine
end

section
/-! PROOFS. Refusals, QUERY and ANSWER at a port, and the obligation about responses, PROBE, merges and times (R118, R300, R465 to
R472, R474, R483). -/

namespace Sys2Proof.Machine

open Sys2Proof

/-! ### A refused request (R474, R483) -/

theorem refuse_exec {p : Fin 8} {m : Msg} {s : State} {q : FabReq} {c : CoreId} (h : RspFor p m s q c) (ht : m.type = 0x25)
    (ha : m.arg ≠ 4) : exec (.refuse p m) s = .next (remoteServe (coreReqFails c q (takeIn p m s))) := by
  have harm : exec (.refuse p m) s = execRefuse p m s := rfl
  obtain ⟨hlive, hat, -⟩ := h.atPort
  obtain ⟨k, ho⟩ := h.owner
  have hfound : ((takeIn p m s).fab.reqs.find? fun r => r.id = m.reqId) = some q := by rw [takeIn_reqs]; exact h.found
  have harrive : refuseArrive p m (takeIn p m s) = coreReqFails c q (takeIn p m s) := by
    unfold refuseArrive
    simp only [hfound, ho]
    rw [rspArrive, if_pos h.fits, h.delivered (.inl ht), coreResponse_refused c q m _ h.stillWaits ht ha]
  rw [harm, execRefuse, act, if_pos (by simp [forHere, hlive, hat, h.here, ht]), arrive_open _ h.atPort, harrive]

/-- A refusal ends the request, and the QUERYs that wait are served. -/
theorem refuse_stops {p : Fin 8} {m : Msg} {s : State} {q : FabReq} {c : CoreId} (h : RspFor p m s q c) (ht : m.type = 0x25)
    (ha : m.arg ≠ 4) (hr : s.cores[c.val].st = .running) :
    ∃ t, exec (.refuse p m) s = .next t ∧ (∀ r ∈ t.fab.reqs, r ∈ withoutReq q.id s) ∧
      (s.fab.queries = [] → t.fab.reqs = withoutReq q.id s) ∧ StopsFor c 11 q s t := by
  have hcores := takeIn_cores p m s
  obtain ⟨hfab, hstop⟩ := coreReqFails_stops c q (takeIn p m s) h.stillWaits (by rw [hcores]; exact hr)
  have hreqs : (coreReqFails c q (takeIn p m s)).fab.reqs = withoutReq q.id s := by
    rw [hfab]
    exact withoutReq_takeIn q.id p m s
  have hqueries : (coreReqFails c q (takeIn p m s)).fab.queries = s.fab.queries := by
    rw [hfab]
    exact (takeIn_pumped p m s).queries
  have hserve := remoteServe_spares (kept := fun _ _ => False) (coreReqFails c q (takeIn p m s)) fun _ _ => id
  refine ⟨_, refuse_exec h ht ha, fun r hmem => hreqs ▸ hserve.reqs r hmem, fun hnone => ?_, ?_⟩
  · rw [remoteServe, if_pos (hqueries.trans hnone), hreqs]
  · unfold StopsFor at *
    rw [hserve.cores]
    rw [hcores] at hstop
    exact hstop

/-! ### QUERY at a port (R470, R471) -/

/-- A QUERY at an open port, well formed and in time (R460, R470). -/
structure QueryAt (p : Fin 8) (m : Msg) (s : State) : Prop where
  atPort : AtOpenPort p m s
  type : m.type = 0x08
  fits : queryBad m = false
  inTime : passed m.deadline s.eph.now = false

theorem query_exec {p : Fin 8} {m : Msg} {s : State} (h : QueryAt p m s) :
    exec (.query p m) s = .next (queryArrive p m (takeIn p m s)) := by
  have harm : exec (.query p m) s = execQuery p m s := rfl
  obtain ⟨hlive, hat, -⟩ := h.atPort
  rw [harm, execQuery, act, if_pos (by simp [hlive, hat, h.type]), arrive_open _ h.atPort]

/-- Neither the time nor a group's entry changes as a message is taken in. -/
theorem takeIn_group (p : Fin 8) (m : Msg) (s : State) :
    (takeIn p m s).eph = s.eph ∧ (takeIn p m s).fab.mcast = s.fab.mcast := by
  rw [takeIn_only]
  exact ⟨rfl, rfl⟩

theorem answerMsg_empty (m : Msg) (g : BitVec 12) (s : State) : let y := answerMsg m.src m.reqId g m.domain {} 1 0 s
    y.type = 0x28 ∧ y.dst = m.src ∧ y.reqId = m.reqId ∧ y.arg = 0 ∧ y.payload.length = 32 := by
  refine ⟨rfl, rfl, rfl, rfl, ?_⟩
  simp [answerMsg, headerOf, length_leBytes]

theorem sendOn_sent (p : Fin 8) (m : Msg) (s : State) (h : portInService p s = true) : Sent p m (sendOn p m s) := by
  unfold sendOn
  rw [if_pos h]
  exact portQueue_sent p m s

/-- A QUERY whose group does not take it is answered empty at the port where it came in. -/
theorem query_empty {p : Fin 8} {m : Msg} {s : State} (h : QueryAt p m s)
    (hg : groupTakes (bits m.addr 11 0) m.domain s = false) (hp : portInService p s = true) :
    ∃ t y, exec (.query p m) s = .next t ∧ t.fab.merges = s.fab.merges ∧ Leaves p y s t ∧ y.type = 0x28 ∧
      y.dst = m.src ∧ y.reqId = m.reqId ∧ y.arg = 0 ∧ y.payload.length = 32 := by
  obtain ⟨heph, hmcast⟩ := takeIn_group p m s
  have htook := takeIn_pumped p m s
  have hd' : passed m.deadline (takeIn p m s).eph.now = false := by rw [heph]; exact h.inTime
  have hg' : groupTakes (bits m.addr 11 0) m.domain (takeIn p m s) = false := by rw [groupTakes, hmcast]; exact hg
  have hp' : portInService p (takeIn p m s) = true := (htook.portInService p).trans hp
  generalize hy : answerMsg m.src m.reqId (BitVec.ofNat 12 (bits m.addr 11 0)) m.domain {} 1 0 (takeIn p m s) = y
  have hrun : queryArrive p m (takeIn p m s) = sendOn p y (takeIn p m s) := by
    unfold queryArrive
    dsimp only
    rw [h.fits, if_neg Bool.false_ne_true, hd', if_neg Bool.false_ne_true, hg', Bool.not_false, if_pos rfl, hy]
  have hfields := answerMsg_empty m (BitVec.ofNat 12 (bits m.addr 11 0)) (takeIn p m s)
  rw [hy] at hfields
  have hpump := sendOn_pumped p y (takeIn p m s)
  exact ⟨_, y, (query_exec h).trans (congrArg _ hrun), hpump.merges.trans htook.merges,
    ((takeIn_carries p m s).trans hpump.carries).leaves (sendOn_sent p y _ hp'), hfields⟩

/-- One port of a group takes a copy, if it may. -/
def copyStep (m : Msg) (mask : Nat) (except_ : Option (Fin 8)) (r : Nat × State) (p : Fin 8) : Nat × State :=
  if mask.testBit p.val && except_ != some p && portInService p r.2 then (r.1 + 1, portQueue p m r.2) else r

theorem copyStep_pumped (m : Msg) (mask : Nat) (except_ : Option (Fin 8)) (r : Nat × State) (p : Fin 8) :
    Pumped r.2 (copyStep m mask except_ r p).2 ∧ r.1 ≤ (copyStep m mask except_ r p).1 := by
  unfold copyStep
  split
  · exact ⟨portQueue_pumped p m r.2, Nat.le_succ _⟩
  · exact ⟨.refl _, le_rfl⟩

theorem copySteps_pumped (m : Msg) (mask : Nat) (except_ : Option (Fin 8)) (l : List (Fin 8)) (r : Nat × State) :
    Pumped r.2 (l.foldl (copyStep m mask except_) r).2 ∧ r.1 ≤ (l.foldl (copyStep m mask except_) r).1 := by
  induction l generalizing r with
  | nil => exact ⟨.refl _, le_rfl⟩
  | cons p t ih =>
    obtain ⟨h1, h2⟩ := copyStep_pumped m mask except_ r p
    obtain ⟨h3, h4⟩ := ih (copyStep m mask except_ r p)
    exact ⟨h1.trans h3, h2.trans h4⟩

theorem copySteps_sent {m : Msg} {mask : Nat} {except_ : Option (Fin 8)} {p : Fin 8} {l : List (Fin 8)} (hl : p ∈ l)
    {r : Nat × State} (hm : mask.testBit p.val = true) (he : except_ ≠ some p) (hs : portInService p r.2 = true) :
    Sent p m (l.foldl (copyStep m mask except_) r).2 ∧ r.1 < (l.foldl (copyStep m mask except_) r).1 := by
  induction l generalizing r with
  | nil => cases hl
  | cons x t ih =>
    by_cases hx : p = x
    · subst hx
      have htake : copyStep m mask except_ r p = (r.1 + 1, portQueue p m r.2) := by
        unfold copyStep
        rw [if_pos (by simp [hm, he, hs])]
      obtain ⟨h1, h2⟩ := copySteps_pumped m mask except_ t (copyStep m mask except_ r p)
      rw [htake] at h1 h2
      rw [List.foldl_cons, htake]
      exact ⟨h1.carries.2 p m (portQueue_sent p m r.2), h2⟩
    · obtain ⟨h1, h2⟩ := copyStep_pumped m mask except_ r x
      obtain ⟨h3, h4⟩ := ih ((List.mem_cons.1 hl).resolve_left hx) (r := copyStep m mask except_ r x)
        ((h1.portInService p).trans hs)
      exact ⟨h3, h2.trans_lt h4⟩

/-- A QUERY is copied to a port of the mask that is in service. -/
theorem copyQuery_sent {m : Msg} {mask : Nat} {except_ : Option (Fin 8)} {p : Fin 8} {s : State} (hm : mask.testBit p.val = true)
    (he : except_ ≠ some p) (hs : portInService p s = true) :
    Pumped s (copyQuery m mask except_ s).2 ∧ Sent p m (copyQuery m mask except_ s).2 ∧ 0 < (copyQuery m mask except_ s).1 :=
  ⟨(copySteps_pumped m mask except_ _ (0, s)).1, copySteps_sent (List.mem_finRange p) hm he hs⟩

/-- A bit of the low byte of a word. -/
theorem testBit_low (e : Word) (r : Fin 8) (h : bit e r.val = true) : (bits e 7 0).testBit r.val = true := by
  have hlow : bits e 7 0 = e.toNat % 2 ^ 8 := by simp [bits]
  have hbit : e.toNat.testBit r.val = true := h
  rw [hlow, Nat.testBit_mod_two_pow, hbit]
  simp

/-- The context that a QUERY of another device opens at a port where no walk of this device answers. -/
def branchOf (p : Fin 8) (m : Msg) (n : Nat) (s : State) : Merge :=
  { src := m.src, req := m.reqId, up := some p, root := none, group := BitVec.ofNat 12 (bits m.addr 11 0), k := bits m.addr 31 16
    branches := n, answered := 0
    ans := { kind := queryKind (bits m.arg 1 0 = 0) (paramsOf (m.payload.take 64)) }
    shardsExp := (paramsOf (m.payload.take 64)).shardsExp, openedAt := s.eph.ticks
    wait := (paramsOf (m.payload.take 64)).waitTicks }

/-- The block with one context more. -/
def openMerge (c : Merge) (s : State) : State := { s with fab := { s.fab with merges := s.fab.merges ++ [c] } }

/-- The group of a QUERY takes it, for other ports than this device's own walkers, and a context is free (R470, R471). -/
structure Copied (m : Msg) (s : State) : Prop where
  takes : groupTakes (bits m.addr 11 0) m.domain s = true
  fresh : mergeOf m.src m.reqId s = none
  room : s.fab.merges.length < 1024
  notHere : bit (Tab.get 0 s.fab.mcast (bits m.addr 11 0)) 30 = false

/-- The ports of a group. -/
def groupPorts (m : Msg) (s : State) : Nat := bits (Tab.get 0 s.fab.mcast (bits m.addr 11 0)) 7 0

theorem Copied.takeIn {m : Msg} {s : State} (h : Copied m s) (p : Fin 8) : Copied m (takeIn p m s) := by
  obtain ⟨-, hmcast⟩ := takeIn_group p m s
  obtain ⟨htakes, hfresh, hroom, hhere⟩ := h
  have hmerges : (Machine.takeIn p m s).fab.merges = s.fab.merges := (takeIn_pumped p m s).merges
  unfold groupTakes at htakes
  refine ⟨?_, ?_, ?_, ?_⟩
  · rwa [groupTakes, hmcast]
  · rwa [mergeOf, hmerges]
  · rwa [hmerges]
  · rwa [hmcast]

theorem queryArrive_copies {p : Fin 8} {m : Msg} {s : State} (hb : queryBad m = false)
    (hd : passed m.deadline s.eph.now = false) (h : Copied m s) :
    let r := copyQuery m (groupPorts m s) (some p) s
    queryArrive p m s = mergeCheck (branchOf p m r.1 r.2) (openMerge (branchOf p m r.1 r.2) r.2) := by
  have hroom := h.room
  unfold queryArrive
  dsimp only
  rw [hb, if_neg Bool.false_ne_true, hd, if_neg Bool.false_ne_true, h.takes, h.fresh, Bool.not_true, if_neg Bool.false_ne_true,
    Option.isSome_none, if_neg Bool.false_ne_true, if_neg (by omega), h.notHere]
  rfl

/-- A QUERY that its group takes goes to each port of the group in service but its own, and opens a context. -/
theorem query_copied {p r : Fin 8} {m : Msg} {s : State} (h : QueryAt p m s) (hg : Copied m s) (hr : r ≠ p)
    (hmask : bit (Tab.get 0 s.fab.mcast (bits m.addr 11 0)) r.val = true) (hs : portInService r s = true) :
    ∃ t, exec (.query p m) s = .next t ∧ Leaves r m s t ∧ t.fab.merges.length = s.fab.merges.length + 1 := by
  obtain ⟨heph, hmcast⟩ := takeIn_group p m s
  have htook := takeIn_pumped p m s
  have hports : groupPorts m (takeIn p m s) = groupPorts m s := by rw [groupPorts, hmcast]; rfl
  have hrun := queryArrive_copies (p := p) h.fits (by rw [heph]; exact h.inTime) (hg.takeIn p)
  obtain ⟨hpump, hsent, hpos⟩ := copyQuery_sent (m := m) (p := r) (except_ := some p) (s := takeIn p m s)
    (testBit_low _ r hmask) (fun e => hr (Option.some.inj e).symm) ((htook.portInService r).trans hs)
  rw [hports] at hrun
  dsimp only [groupPorts] at hrun
  generalize copyQuery m (bits (Tab.get 0 s.fab.mcast (bits m.addr 11 0)) 7 0) (some p) (takeIn p m s) = v at hrun hpump hsent hpos
  have hopen : mergeCheck (branchOf p m v.1 v.2) (openMerge (branchOf p m v.1 v.2) v.2) = openMerge (branchOf p m v.1 v.2) v.2 :=
    if_neg (Nat.not_le.2 hpos)
  rw [hopen] at hrun
  have hcarry : Carries v.2 (openMerge (branchOf p m v.1 v.2) v.2) := .of_ports rfl fun _ h => h
  refine ⟨_, (query_exec h).trans (congrArg _ hrun),
    (((takeIn_carries p m s).trans hpump.carries).trans hcarry).leaves (hcarry.2 r m hsent), ?_⟩
  show (v.2.fab.merges ++ [_]).length = _
  rw [hpump.merges, htook.merges, List.length_append, List.length_singleton]
  rfl

/-! ### ANSWER at a port (R366, R472) -/

/-- A well formed ANSWER at an open port for a context c that a QUERY from port u has opened; no QUERY that waits has its key
(R460, R472). -/
structure AnswerFor (p : Fin 8) (m : Msg) (s : State) (c : Merge) (u : Fin 8) : Prop where
  atPort : AtOpenPort p m s
  type : m.type = 0x28
  length : m.length.toNat = m.payload.length
  fits : m.payload.length = 32 + 32 * imf m.payload 0 2
  found : mergeOf m.dst m.reqId s = some c
  root : c.root = none
  up : c.up = some u
  alone : ∀ q ∈ s.fab.queries, ¬ (q.src = m.dst ∧ q.reqId = m.reqId)

/-- The merge of an ANSWER into its context. -/
def answered (m : Msg) (x : Merge) : Merge := mergeAnswer x (answerOf m.payload)

theorem answered_fields (m : Msg) (c : Merge) : (answered m c).src = c.src ∧ (answered m c).req = c.req ∧
    (answered m c).root = c.root ∧ (answered m c).up = c.up ∧ (answered m c).branches = c.branches ∧
    (answered m c).answered = c.answered + 1 := mergeAnswer_fields c (answerOf m.payload)

theorem answered_keepsKey (m : Msg) : KeepsKey (answered m) := mergeAnswer_keepsKey (answerOf m.payload)

theorem answer_exec {p u : Fin 8} {m : Msg} {s : State} {c : Merge} (h : AnswerFor p m s c u) :
    exec (.answer p m) s = .next (remoteServe (mergeUpdate m.dst m.reqId (answered m) (takeIn p m s))) := by
  have harm : exec (.answer p m) s = execAnswer p m s := rfl
  obtain ⟨hlive, hat, -⟩ := h.atPort
  have hfit : ¬ (m.length.toNat != m.payload.length || m.payload.length != 32 + 32 * imf m.payload 0 2) = true := by
    simp [h.length, ← h.fits]
  rw [harm, execAnswer, act, if_pos (by simp [hlive, hat, h.type]), arrive_open _ h.atPort, answerArrive, if_neg hfit]
  rfl

/-- The QUERYs that wait leave alone a context that none of them has. -/
theorem serve_keeps {src : BitVec 16} {req : Word} {s : State} (h : ∀ q ∈ s.fab.queries, ¬ (q.src = src ∧ q.reqId = req)) :
    Carries s (remoteServe s) ∧ KeepsMerge src req s (remoteServe s) := by
  have hserve := remoteServe_spares (kept := fun a b => a = src ∧ b = req) s h
  exact ⟨hserve.carries, hserve.merges src req ⟨rfl, rfl⟩⟩

theorem mergeCheck_branch {c : Merge} {u : Fin 8} (hroot : c.root = none) (hup : c.up = some u) (s : State) :
    mergeCheck c s = if c.branches ≤ c.answered then branchClose c u s else s := by
  unfold mergeCheck
  rw [hroot, hup]

theorem mergeUpdate_branch {src : BitVec 16} {req : Word} {f : Merge → Merge} {s : State} {c : Merge} {u : Fin 8}
    (hc : mergeOf src req s = some c) (hroot : (f c).root = none) (hup : (f c).up = some u) : mergeUpdate src req f s =
      if (f c).branches ≤ (f c).answered then branchClose (f c) u (changeMerges src req f s) else changeMerges src req f s := by
  rw [mergeUpdate_eq, hc]
  exact mergeCheck_branch hroot hup _

theorem changeMerges_carries (src : BitVec 16) (req : Word) (f : Merge → Merge) (s : State) :
    Carries s (changeMerges src req f s) := .of_ports rfl fun _ h => h

theorem mergeOf_dropMerge (src : BitVec 16) (req : Word) (s : State) : mergeOf src req (dropMerge src req s) = none := by
  unfold mergeOf dropMerge
  rw [List.find?_eq_none]
  intro x hx
  have hother := (List.mem_filter.1 hx).2
  rwa [Bool.not_eq_true', ← Bool.not_eq_true] at hother

/-- A context that closes leaves no other of its key, and one ANSWER at the port where its QUERY came in. -/
theorem branchClose_leaves (c : Merge) (u : Fin 8) (s : State) (hs : portInService u s = true) :
    ∃ y, Sent u y (branchClose c u s) ∧ Carries s (branchClose c u s) ∧ mergeOf c.src c.req (branchClose c u s) = none ∧
      (branchClose c u s).fab.queries = s.fab.queries ∧ y.type = 0x28 ∧ y.dst = c.src ∧ y.reqId = c.req := by
  have hdrop : Carries s (dropMerge c.src c.req s) := .of_ports rfl fun _ h => h
  have hservice : portInService u (dropMerge c.src c.req s) = true := hs
  have hnone := mergeOf_dropMerge c.src c.req s
  have hqueries : (dropMerge c.src c.req s).fab.queries = s.fab.queries := rfl
  unfold branchClose
  dsimp only
  generalize dropMerge c.src c.req s = v at hdrop hservice hnone hqueries ⊢
  have hpump := sendOn_pumped u (answerMsg c.src c.req c.group (BitVec.ofNat 8 (bits (Tab.get 0 v.fab.mcast c.group.toNat) 23 16))
    c.ans c.k c.shardsExp v) v
  refine ⟨_, sendOn_sent u _ v hservice, hdrop.trans hpump.carries, ?_, hpump.queries.trans hqueries, rfl, rfl, rfl⟩
  rw [mergeOf, hpump.merges]
  exact hnone

/-- An ANSWER that is not the last counts in its context. -/
theorem answer_counted {p u : Fin 8} {m : Msg} {s : State} {c : Merge} (h : AnswerFor p m s c u)
    (hmore : c.answered + 1 < c.branches) :
    ∃ t c', exec (.answer p m) s = .next t ∧ mergeOf m.dst m.reqId t = some c' ∧ c'.answered = c.answered + 1 := by
  have hqueries := (takeIn_pumped p m s).queries
  have hc : mergeOf m.dst m.reqId (takeIn p m s) = some c := by rw [mergeOf, (takeIn_pumped p m s).merges]; exact h.found
  have hexec := answer_exec h
  generalize takeIn p m s = v at hqueries hc hexec
  obtain ⟨-, -, hroot, hup, hbr, hans⟩ := answered_fields m c
  obtain ⟨hsrc, hreq⟩ := mergeOf_key hc
  rw [mergeUpdate_branch hc (hroot.trans h.root) (hup.trans h.up), hbr, hans, if_neg (by omega)] at hexec
  have hchanged : mergeOf m.dst m.reqId (changeMerges m.dst m.reqId (answered m) v) = some (answered m c) := by
    rw [mergeOf_changeMerges _ _ _ _ _ (answered_keepsKey m), hc, Option.map_some, if_pos (by simp [hsrc, hreq])]
  have hkeep := (serve_keeps (s := changeMerges m.dst m.reqId (answered m) v) (src := m.dst) (req := m.reqId)
    fun q hmem => h.alone q (hqueries ▸ hmem)).2.2
  exact ⟨_, _, hexec, hkeep _ hchanged (hroot.trans h.root), hans⟩

/-- The last ANSWER closes its context with one ANSWER upstream. -/
theorem answer_closes {p u : Fin 8} {m : Msg} {s : State} {c : Merge} (h : AnswerFor p m s c u)
    (hlast : c.branches ≤ c.answered + 1) (hs : portInService u s = true) :
    ∃ t y, exec (.answer p m) s = .next t ∧ mergeOf m.dst m.reqId t = none ∧ Leaves u y s t ∧ y.type = 0x28 ∧
      y.dst = c.src ∧ y.reqId = c.req := by
  have htook := takeIn_carries p m s
  have hqueries := (takeIn_pumped p m s).queries
  have hs' := ((takeIn_pumped p m s).portInService u).trans hs
  have hc : mergeOf m.dst m.reqId (takeIn p m s) = some c := by rw [mergeOf, (takeIn_pumped p m s).merges]; exact h.found
  have hexec := answer_exec h
  generalize takeIn p m s = v at htook hqueries hs' hc hexec
  obtain ⟨hsrc', hreq', hroot, hup, hbr, hans⟩ := answered_fields m c
  obtain ⟨hsrc, hreq⟩ := mergeOf_key hc
  rw [mergeUpdate_branch hc (hroot.trans h.root) (hup.trans h.up), hbr, hans, if_pos hlast] at hexec
  have hchange := htook.trans (changeMerges_carries m.dst m.reqId (answered m) v)
  obtain ⟨y, hsent, hcarry, hgone, hclosed, htype, hdst, hid⟩ :=
    branchClose_leaves (answered m c) u (changeMerges m.dst m.reqId (answered m) v) hs'
  rw [hsrc', hreq', hsrc, hreq] at hgone
  obtain ⟨hserve, hnone, -⟩ := serve_keeps (src := m.dst) (req := m.reqId)
    (s := branchClose (answered m c) u (changeMerges m.dst m.reqId (answered m) v))
    fun q hmem => h.alone q (hqueries ▸ hclosed ▸ hmem)
  exact ⟨_, y, hexec, hnone hgone, ((hchange.trans hcarry).trans hserve).leaves (hserve.2 u y hsent), htype,
    hdst.trans hsrc', hid.trans hreq'⟩

/-- Settles O50, clause by clause: what each message, timer and QUERY leaves. -/
theorem fabricResponses : Obligations.FabricResponses := by
  unfold Obligations.FabricResponses
  intro s p m
  refine ⟨?_, ?_, fun h ht hb => ⟨probe_counted h ht hb, probe_returns h ht hb⟩, probeSend_leaves, fun h ht hb hd => ?_, ?_,
    messageRoute_leaves, fun c w dom => coalesceTimeout_sends, fun c w => coalesceTimeout_unbound⟩
  · rintro y ty q c k hy h hd rfl hok hq ho hty hw
    have hrsp : RspFor p m s q c := ⟨h, hd, hok, hq, ⟨k, ho⟩, hw⟩
    exact ⟨response_fills hy hrsp hty, response_poisoned hy hrsp hty⟩
  · intro q c k hlive hq ho hw hr x hx
    have hgone : ∀ r ∈ withoutReq q.id s, r.id ≠ q.id := fun r hmem => of_decide_eq_true (List.mem_filter.1 hmem).2
    rcases hx with rfl | ⟨rfl, h, hd, ht, hok, hid, ha⟩
    · obtain ⟨t, hexec, hreqs, hstop⟩ := fabRespTimeout_stops hlive hq ho hw hr
      exact ⟨t, hexec, fun r hmem => hgone r (hreqs ▸ hmem), fun _ => hreqs, hstop⟩
    · have hrsp : RspFor p m s q c := ⟨h, hd, hok, hid ▸ hq, ⟨k, ho⟩, hw⟩
      obtain ⟨t, hexec, hreqs, hall, hstop⟩ := refuse_stops hrsp ht ha hr
      exact ⟨t, hexec, fun r hmem => hgone r (hreqs r hmem), hall, hstop⟩
  · have hquery : QueryAt p m s := ⟨h, ht, hb, hd⟩
    exact ⟨query_empty hquery, fun hg hm hl h30 r => query_copied hquery ⟨hg, hm, hl, h30⟩⟩
  · intro c u h ht hlen hsize hc hroot hup hq
    have hanswer : AnswerFor p m s c u := ⟨h, ht, hlen, hsize, hc, hroot, hup, hq⟩
    exact ⟨answer_counted hanswer, answer_closes hanswer⟩

end Sys2Proof.Machine
end

section
/-! PROOFS. The canonical form of byte memories: what keeps it. Each function of the model gets one lemma, which follows
its branches and names the lemmas of the functions it calls in the order in which it calls them. -/

namespace Sys2Proof.Machine

open Sys2Proof

-- The short lemmas of these sections are elaborated in turn: all at once they need more threads than fit in memory.
set_option Elab.async false

/-- A next state that a command answers has every byte memory in canonical form. -/
def LeavesWf (o : Out) : Prop := ∀ t, o = .next t → t.memoryWf

namespace State.memoryWf

/-! ### Combinators -/

theorem same {s t : State} (w : s.memoryWf) (hdpa : t.mem.dpa = s.mem.dpa := by rfl) (hhost : t.mem.host = s.mem.host := by rfl)
    (hflash : t.hub.flash = s.hub.flash := by rfl) (hbuf : t.hub.flashBuf = s.hub.flashBuf := by rfl)
    (hcores : t.cores = s.cores := by rfl) : t.memoryWf :=
  State.memoryWf_of_same w hdpa hhost hflash hbuf fun c => by rw [hcores]

theorem ite {p : Prop} [Decidable p] {a b : State} (ha : a.memoryWf) (hb : b.memoryWf) : (if p then a else b).memoryWf := by
  split
  · exact ha
  · exact hb

theorem foldl {α : Type} {f : State → α → State} {l : List α} {s : State} (w : s.memoryWf)
    (hf : ∀ s a, s.memoryWf → (f s a).memoryWf) : (l.foldl f s).memoryWf := by
  induction l generalizing s with
  | nil => exact w
  | cons a t ih => exact ih (hf s a w)

/-- A state that a result ends with, named by the equation of a case split. -/
theorem pair {α : Type} {p : α × State} {x t} (w : p.2.memoryWf) (h : p = (x, t)) : t.memoryWf := by
  subst h
  exact w

theorem triple {α β : Type} {p : α × β × State} {x y t} (w : p.2.2.memoryWf) (h : p = (x, y, t)) : t.memoryWf := by
  subst h
  exact w

theorem read {r : RdRes} {e d p t} (w : r.s.memoryWf) (h : r = ⟨e, d, p, t⟩) : t.memoryWf := by
  subst h
  exact w

theorem walked {α β : Type} {p : α × β × Walking} {x y u} (w : p.2.2.s.memoryWf) (h : p = (x, y, u)) : u.s.memoryWf := by
  subst h
  exact w

theorem updated {α β : Type} {p : α × β × Updating} {x y u} (w : p.2.2.s.memoryWf) (h : p = (x, y, u)) : u.s.memoryWf := by
  subst h
  exact w

/-- A fold over what carries a state. -/
theorem foldlBy {α β : Type} (g : β → State) {f : β → α → β} {l : List α} {b : β} (w : (g b).memoryWf)
    (hf : ∀ b a, (g b).memoryWf → (g (f b a)).memoryWf) : (g (l.foldl f b)).memoryWf := by
  induction l generalizing b with
  | nil => exact w
  | cons a t ih => exact ih (hf b a w)

theorem iter {f : Nat → State → State} {n} {s : State} (w : s.memoryWf) (hf : ∀ i s, s.memoryWf → (f i s).memoryWf) :
    (Machine.iter f n s).memoryWf := by
  induction n with
  | zero => exact w
  | succ n ih => exact hf n _ ih

theorem elim {α : Type} {o : Option α} {f : α → State} {s : State} (w : s.memoryWf) (hf : ∀ a, (f a).memoryWf) :
    (o.elim s f).memoryWf := by
  cases o with
  | none => exact w
  | some a => exact hf a

theorem id {s : State} (w : s.memoryWf) : (id s).memoryWf := w

/-- Bytes taken out of device memory, and any change of its lines. -/
theorem cleared {s : State} {t : State} (w : s.memoryWf) (f : Nat → Bool)
    (hdpa : t.mem.dpa = s.mem.dpa.filter fun e => f e.1) (hhost : t.mem.host = s.mem.host := by rfl)
    (hflash : t.hub.flash = s.hub.flash := by rfl) (hbuf : t.hub.flashBuf = s.hub.flashBuf := by rfl)
    (hcores : t.cores = s.cores := by rfl) : t.memoryWf := by
  obtain ⟨hd, hh, hfl, hb, hc⟩ := w
  refine ⟨?_, by rwa [hhost], by rwa [hflash], by rwa [hbuf], by rwa [hcores]⟩
  rw [hdpa]
  exact Memory.wf_filter 0 f _ hd

theorem next {s : State} (w : s.memoryWf) : LeavesWf (.next s) := by
  rintro t ⟨⟩
  exact w

theorem modCore {c f} {s : State} (w : s.memoryWf) (hf : ∀ k, (f k).mem = k.mem := by exact fun _ => rfl) :
    (Machine.modCore c f s).memoryWf :=
  modCore_memoryWf c f s w (by rw [hf]; exact w.2.2.2.2 c)

theorem modInst {i f} {s : State} (w : s.memoryWf) : (Machine.modInst i f s).memoryWf := w
theorem modPart {n f} {s : State} (w : s.memoryWf) : (Machine.modPart n f s).memoryWf := w
theorem modMtu {i f} {s : State} (w : s.memoryWf) : (Machine.modMtu i f s).memoryWf := w
theorem modDie {d f} {s : State} (w : s.memoryWf) : (Machine.modDie d f s).memoryWf := w
theorem modWk {n f} {s : State} (w : s.memoryWf) : (Machine.modWk n f s).memoryWf := w
theorem modPin {n f} {s : State} (w : s.memoryWf) : (Machine.modPin n f s).memoryWf := w
theorem modPort {p f} {s : State} (w : s.memoryWf) : (Machine.modPort p f s).memoryWf := w
theorem modLane {l f} {s : State} (w : s.memoryWf) : (Machine.modLane l f s).memoryWf := w
theorem modUnit {u f} {s : State} (w : s.memoryWf) : (Machine.modUnit u f s).memoryWf := w
theorem modLog {i f} {s : State} (w : s.memoryWf) : (Machine.modLog i f s).memoryWf := w
theorem modSq {i q f} {s : State} (w : s.memoryWf) : (Machine.modSq i q f s).memoryWf := w
theorem modCq {i q f} {s : State} (w : s.memoryWf) : (Machine.modCq i q f s).memoryWf := w
theorem modLock {n f} {s : State} (w : s.memoryWf) : (Machine.modLock n f s).memoryWf := w
theorem modPool {p f} {s : State} (w : s.memoryWf) : (Machine.modPool p f s).memoryWf := w
theorem modItem {d f} {s : State} (w : s.memoryWf) : (Machine.modItem d f s).memoryWf := w
theorem emit {o} {s : State} (w : s.memoryWf) : (Machine.emit o s).memoryWf := w
theorem takeFree {n} {s : State} (w : s.memoryWf) : (Machine.takeFree n s).2.memoryWf := w
theorem poisonLine {l} {s : State} (w : s.memoryWf) : (Machine.poisonLine l s).memoryWf := w
theorem keepLeaf {i p e} {s : State} (w : s.memoryWf) : (Machine.keepLeaf i p e s).memoryWf := w
theorem recordFault {i n k b a} {s : State} (w : s.memoryWf) : (Machine.recordFault i n k b a s).memoryWf := w
theorem bfmCount {k i h v} {s : State} (w : s.memoryWf) : (Machine.bfmCount k i h v s).memoryWf := w
theorem logFails {i} {s : State} (w : s.memoryWf) : (Machine.logFails i s).memoryWf := w

theorem modMbox {c m f} {s : State} (w : s.memoryWf) : (Machine.modMbox c m f s).memoryWf :=
  modCore w

/-! ### What translation, the log and accesses to memory keep -/

theorem msix {f v} {s : State} (w : s.memoryWf) : (Machine.msix f v s).memoryWf := keepsWf.msix _ _ _ w
theorem putDpa {a d} {s : State} (w : s.memoryWf) : (Machine.putDpa a d s).memoryWf := keepsWf.dpa _ _ _ w
theorem putHost {a d p} {s : State} (w : s.memoryWf) : (Machine.putHost a d p s).memoryWf := keepsWf.host _ _ _ _ w
theorem fixLine {a} {s : State} (w : s.memoryWf) : (Machine.fixLine a s).memoryWf := keepsWf.fix _ _ w
theorem poisonFound {l} {s : State} (w : s.memoryWf) : (Machine.poisonFound l s).memoryWf := keepsWf.poisonFound _ _ w
theorem leafFor {i a} {s : State} (w : s.memoryWf) : (Machine.leafFor i a s).2.memoryWf := keepsWf.leafFor _ _ _ w
theorem translate {i x a} {s : State} (w : s.memoryWf) : (Machine.translate i x a s).2.memoryWf := keepsWf.translate _ _ _ _ w
theorem logWrite {i e n a d u} {s : State} (w : s.memoryWf) : (Machine.logWrite i e n a d u s).2.2.memoryWf :=
  keepsWf.logWrite _ _ _ _ _ _ _ w
theorem logItems {n l} {s : State} (w : s.memoryWf) : (Machine.logItems n l s).memoryWf := keepsWf.logItems _ _ _ w
theorem logOne {i e n a d u} {s : State} (w : s.memoryWf) : (Machine.logOne i e n a d u s).memoryWf :=
  keepsWf.logOne _ _ _ _ _ _ _ w
theorem logPf {e n a d u} {s : State} (w : s.memoryWf) : (Machine.logPf e n a d u s).memoryWf := keepsWf.logPf _ _ _ _ _ _ w
theorem logBoth {i e a d u} {s : State} (w : s.memoryWf) : (Machine.logBoth i e a d u s).memoryWf :=
  keepsWf.logBoth _ _ _ _ _ _ w
theorem findErrors {a} {s : State} (w : s.memoryWf) : (Machine.findErrors a s).memoryWf := keepsWf.findErrors _ _ w
theorem bfmEvent {k i h v} {s : State} (w : s.memoryWf) : (Machine.bfmEvent k i h v s).memoryWf := keepsWf.bfmEvent _ _ _ _ _ w
theorem mtuFault {i n k b a} {s : State} (w : s.memoryWf) : (Machine.mtuFault i n k b a s).memoryWf :=
  keepsWf.mtuFault _ _ _ _ _ _ w
theorem readTarget {i t n} {s : State} (w : s.memoryWf) : (Machine.readTarget i t n s).s.memoryWf := keepsWf.readTarget _ _ _ _ w
theorem readLine {v x a n} {s : State} (w : s.memoryWf) : (Machine.readLine v x a n s).s.memoryWf := keepsWf.readLine _ _ _ _ _ w
theorem readChunks {v l} {r : RdRes} (w : r.s.memoryWf) : (Machine.readChunks v l r).s.memoryWf := keepsWf.readChunks _ _ _ w
theorem readIva {v a n} {s : State} (w : s.memoryWf) : (Machine.readIva v a n s).s.memoryWf := keepsWf.readIva _ _ _ _ w
theorem writeTarget {i t d p} {s : State} (w : s.memoryWf) : (Machine.writeTarget i t d p s).2.memoryWf :=
  keepsWf.writeTarget _ _ _ _ _ w
theorem writeLine {v a d p} {s : State} (w : s.memoryWf) : (Machine.writeLine v a d p s).2.memoryWf :=
  keepsWf.writeLine _ _ _ _ _ w
theorem writeChunks {v p l d n} {s : State} (w : s.memoryWf) : (Machine.writeChunks v p l d n s).2.2.memoryWf :=
  keepsWf.writeChunks _ _ _ _ _ _ w
theorem writeIva {v a d p} {s : State} (w : s.memoryWf) : (Machine.writeIva v a d p s).2.2.memoryWf :=
  keepsWf.writeIva _ _ _ _ _ w

theorem localPut {c a d} {s : State} (w : s.memoryWf) : (Machine.localPut c a d s).memoryWf := localPut_memoryWf c a d s w
theorem localUndefined {c r} {s : State} (w : s.memoryWf) : (Machine.localUndefined c r s).memoryWf := localUndefined_memoryWf c r s w
theorem globalUndefined {c r} {s : State} (w : s.memoryWf) : (Machine.globalUndefined c r s).memoryWf :=
  globalUndefined_memoryWf c r s w
theorem spoilEntry {c e} {s : State} (w : s.memoryWf) : (Machine.spoilEntry c e s).2.memoryWf := spoilEntry_memoryWf c e s w
theorem setQueue {c q l} {s : State} (w : s.memoryWf) : (Machine.setQueue c q l s).memoryWf := setQueue_memoryWf c q l s w
theorem spoilList {c f l} {s : State} (w : s.memoryWf) : (Machine.spoilList c f l s).2.memoryWf := spoilList_memoryWf c f l s w
theorem spoilQueue {c f} {s : State} {q} (w : s.memoryWf) : (Machine.spoilQueue c f s q).memoryWf := spoilQueue_memoryWf c f s q w
theorem freeRaced {q k a d} {s : State} (w : s.memoryWf) : (Machine.freeRaced q k a d s).2.memoryWf :=
  freeRaced_memoryWf q k a d s w
theorem localRead {q c a n} {s : State} (w : s.memoryWf) : (Machine.localRead q c a n s).2.memoryWf := w.freeRaced
theorem localWrite {q c a d} {s : State} (w : s.memoryWf) : (Machine.localWrite q c a d s).memoryWf :=
  localWrite_memoryWf q c a d s w

end State.memoryWf

end Sys2Proof.Machine
end

section
/-! PROOFS. The canonical form of byte memories: accesses, the log and what every command uses. -/

namespace Sys2Proof.Machine

open Sys2Proof

set_option Elab.async false

namespace State.memoryWf

theorem act {c f} {s : State} (w : s.memoryWf) (hf : (f s).memoryWf) : LeavesWf (Machine.act c f s) := (hf.ite w).next

theorem pfIrq {s : State} (w : s.memoryWf) : (Machine.pfIrq s).memoryWf := w.msix

theorem walkMeets {i a} {s : State} (w : s.memoryWf) : (Machine.walkMeets i a s).memoryWf := by
  unfold Machine.walkMeets
  split
  · exact w.bfmEvent.ite w
  · exact w
  · exact w.findErrors

theorem upset {err} {s : State} (w : s.memoryWf) : (Machine.upset err s).memoryWf := by
  unfold Machine.upset
  dsimp only
  split
  · exact w.ite w.same
  · exact w

theorem estComplete {x st} {s : State} (w : s.memoryWf) : (Machine.estComplete x st s).memoryWf := by
  unfold Machine.estComplete
  dsimp only
  split
  · exact w
  · exact w.modInst

theorem pressureUpdate {i} {s : State} (w : s.memoryWf) : (Machine.pressureUpdate i s).memoryWf :=
  ((w.modInst.msix.ite w.modInst).ite (w.modInst.msix.ite w.modInst).modInst.logPf).ite w.modInst

theorem admission {i} {s : State} (w : s.memoryWf) : (Machine.admission i s).memoryWf :=
  w.modInst.pressureUpdate.ite (w.modInst.pressureUpdate.ite w.pressureUpdate)

theorem endItem {d result f} {s : State} (w : s.memoryWf) : (Machine.endItem d result f s).memoryWf := by
  unfold Machine.endItem
  dsimp only
  split
  · exact w
  · exact w.ite (w.modItem.ite w.estComplete.modItem.modCq.admission)

theorem endEarly {d f} {s : State} (w : s.memoryWf) : (Machine.endEarly d f s).memoryWf := by
  unfold Machine.endEarly
  split
  · exact w
  · exact w.endItem

theorem noteEffect {d} {s : State} (w : s.memoryWf) : (Machine.noteEffect d s).memoryWf := w.modItem

theorem ephRaise {n addr detail} {s : State} (w : s.memoryWf) : (Machine.ephRaise n addr detail s).memoryWf :=
  w.same.logPf.pfIrq.ite w.same.logPf

theorem haloRaise {n} {s : State} (w : s.memoryWf) : (Machine.haloRaise n s).memoryWf := w.same.logPf.pfIrq.ite w.same.logPf

theorem tideRaise {n} {s : State} (w : s.memoryWf) : (Machine.tideRaise n s).memoryWf := w.same.logPf.pfIrq.ite w.same.logPf

theorem fabRaise {n detail} {s : State} (w : s.memoryWf) : (Machine.fabRaise n detail s).memoryWf :=
  w.same.logPf.pfIrq.ite w.same.logPf

theorem spRaise {n owner} {s : State} (w : s.memoryWf) : (Machine.spRaise n owner s).memoryWf := by
  unfold Machine.spRaise
  dsimp only
  split
  · exact w.same.logBoth.pfIrq.ite w.same.logBoth
  · exact w.same.logPf.pfIrq.ite w.same.logPf

theorem ringErr {i n isCq q} {s : State} (w : s.memoryWf) : (Machine.ringErr i n isCq q s).memoryWf := w.modInst.logBoth

theorem faultTaken {u cause} {s : State} (w : s.memoryWf) : (Machine.faultTaken u cause s).memoryWf := w.modUnit.logPf

theorem unitFault {u cause} {s : State} (w : s.memoryWf) : (Machine.unitFault u cause s).memoryWf :=
  w.same.same.ite w.same.faultTaken

theorem raiseOne {c cause pc glob addr} {s : State} (w : s.memoryWf) :
    (Machine.raiseOne c cause pc glob addr s).memoryWf := by
  unfold Machine.raiseOne
  dsimp only
  split
  · refine .logBoth ?_
    split
    · exact w.modCore
    · exact w.modCore.modPart
  · exact w

theorem countIssue {c} {s : State} (w : s.memoryWf) : (Machine.countIssue c s).memoryWf :=
  w.modCore (by intro k; split <;> rfl)

theorem barRelease {b c} {s : State} (w : s.memoryWf) : (Machine.barRelease b c s).memoryWf :=
  (w.modCore.countIssue.modCore.ite w.modCore.countIssue.raiseOne).ite w

theorem barCheck {n b} {s : State} (w : s.memoryWf) : (Machine.barCheck n b s).memoryWf := by
  unfold Machine.barCheck
  exact (w.foldl fun _ _ w => w.barRelease).ite w

theorem barriers {n} {s : State} (w : s.memoryWf) : (Machine.barriers n s).memoryWf :=
  w.foldl (fun _ _ w => w.foldl (fun _ _ w => w.barCheck))

theorem leftRunning {c} {s : State} (w : s.memoryWf) : (Machine.leftRunning c s).memoryWf := by
  unfold Machine.leftRunning
  split
  · exact w.barriers
  · exact w

theorem raiseAt {c cause pc glob addr} {s : State} (w : s.memoryWf) : (Machine.raiseAt c cause pc glob addr s).memoryWf :=
  w.raiseOne.leftRunning.ite w

theorem raise {c cause glob addr} {s : State} (w : s.memoryWf) : (Machine.raise c cause glob addr s).memoryWf := w.raiseAt

theorem setS {c r v} {s : State} (w : s.memoryWf) : (Machine.setS c r v s).memoryWf := w.ite w.modCore

theorem setV {c r v} {s : State} (w : s.memoryWf) : (Machine.setV c r v s).memoryWf := w.modCore

theorem setP {c r v} {s : State} (w : s.memoryWf) : (Machine.setP c r v s).memoryWf := w.modCore

theorem setFlags {c f} {s : State} (w : s.memoryWf) : (Machine.setFlags c f s).memoryWf := w.modCore

theorem advance {c} {s : State} (w : s.memoryWf) : (Machine.advance c s).memoryWf :=
  w.countIssue.modCore.ite w.countIssue.raise

theorem noteCore {c} {s : State} (w : s.memoryWf) : (Machine.noteCore c s).memoryWf := w.modCore

theorem branchTo {c t link} {s : State} (w : s.memoryWf) (hlink : ∀ s, State.memoryWf s → (link s).memoryWf) :
    (Machine.branchTo c t link s).memoryWf :=
  w.raise.ite (w.raise.ite (hlink _ w).countIssue.modCore)

theorem coreInstr {c g legal u f} {s : State} (w : s.memoryWf) (hf : (f s).memoryWf) :
    LeavesWf (Machine.coreInstr c g legal u f s) :=
  w.act (w.raise.ite (w.ite (w.advance.ite (hf.ite w))))

theorem enqueue {c q e} {s : State} (w : s.memoryWf) : (Machine.enqueue c q e s).memoryWf :=
  w.modCore (by intro k; dsimp only; split <;> rfl)

theorem issued {c q e} {s : State} (w : s.memoryWf) : (Machine.issued c q e s).memoryWf := w.enqueue.advance.ite w

theorem localUpset {c err} {s : State} (w : s.memoryWf) : (Machine.localUpset c err s).memoryWf := by
  unfold Machine.localUpset
  split
  · exact w.modCore.ite w
  · exact w

theorem localFound {c e} {s : State} (w : s.memoryWf) : (Machine.localFound c e s).memoryWf :=
  w.modCore.logPf.ite w.modCore.modDie

theorem localFind {c a n} {s : State} (w : s.memoryWf) : (Machine.localFind c a n s).memoryWf :=
  w.foldl (fun _ _ w => w.localFound)

theorem arraysUndefined {c} {s : State} (w : s.memoryWf) : (Machine.arraysUndefined c s).memoryWf := by
  unfold Machine.arraysUndefined
  dsimp only
  exact w.takeFree.takeFree.modCore

theorem slotsUndefined {c config rs} {s : State} (w : s.memoryWf) : (Machine.slotsUndefined c config rs s).memoryWf := by
  unfold Machine.slotsUndefined
  dsimp only
  exact w.takeFree.modCore

theorem haccUndefined {c} {s : State} (w : s.memoryWf) : (Machine.haccUndefined c s).memoryWf := by
  unfold Machine.haccUndefined
  dsimp only
  exact w.takeFree.modCore

end State.memoryWf

end Sys2Proof.Machine
end

section
/-! PROOFS. The canonical form of byte memories: rings, records and descriptors. -/

namespace Sys2Proof.Machine

open Sys2Proof

set_option Elab.async false

namespace State.memoryWf

theorem shedEarly {d i} {s : State} (w : s.memoryWf) : (Machine.shedEarly d i s).memoryWf :=
  w.endEarly.modInst.pressureUpdate

theorem shedNow {d} {s : State} (w : s.memoryWf) : (Machine.shedNow d s).memoryWf := w.endEarly

theorem shedReady {s : State} (w : s.memoryWf) : (Machine.shedReady s).memoryWf := w.ite (w.foldl (fun _ _ w => w.shedNow))

theorem readyTest {d} {s : State} (w : s.memoryWf) : (Machine.readyTest d s).memoryWf := by
  unfold Machine.readyTest
  split
  · exact w
  · split
    · exact w.shedReady
    · split
      · exact w
      · exact w.shedEarly.ite w

theorem estWork {x} {s : State} (w : s.memoryWf) : (Machine.estWork x s).memoryWf := by
  unfold Machine.estWork
  split
  · exact w
  · exact w.modInst

theorem makeReady {d} {s : State} (w : s.memoryWf) : (Machine.makeReady d s).memoryWf := by
  unfold Machine.makeReady
  dsimp only
  split
  · exact w
  · exact w.estWork.same.readyTest.admission.ite w

theorem promote {i} {s : State} (w : s.memoryWf) : (Machine.promote i s).memoryWf := w.foldl (fun _ _ w => w.makeReady)

theorem startItem {d} {s : State} (w : s.memoryWf) : (Machine.startItem d s).memoryWf := by
  unfold Machine.startItem
  split
  · exact w
  · exact w.modItem.admission

theorem endInvalid {d} {s : State} (w : s.memoryWf) : (Machine.endInvalid d s).memoryWf := w.endEarly

theorem firstRequests {v l} {s : State} (w : s.memoryWf) : (Machine.firstRequests v l s).2.memoryWf := by
  induction l generalizing s with
  | nil => exact w
  | cons x t ih =>
    unfold Machine.firstRequests
    split
    · next h => exact (w.translate.pair h).mtuFault
    · next h => exact ih (w.translate.pair h)

theorem dispatchStart {d t ok} {s : State} (w : s.memoryWf) : (Machine.dispatchStart d t ok s).memoryWf := by
  unfold Machine.dispatchStart
  dsimp only
  split
  · exact w.startItem.ite w.startItem.same
  · exact w

theorem cqSignal {i q} {s : State} (w : s.memoryWf) : (Machine.cqSignal i q s).memoryWf := w.modCq.msix.ite w

theorem writeRec {i q r} {s : State} (w : s.memoryWf) : (Machine.writeRec i q r s).2.memoryWf := by
  unfold Machine.writeRec
  dsimp only
  split
  · next h => exact (w.writeLine.pair h).modCq.ringErr
  · next h =>
    split
    · exact (w.writeLine.pair h).modCq.cqSignal
    · exact (w.writeLine.pair h).modCq.cqSignal.same.promote

theorem flushHeld {n i q} {s : State} (w : s.memoryWf) : (Machine.flushHeld n i q s).memoryWf := by
  induction n generalizing s with
  | zero => exact w
  | succ n ih =>
    unfold Machine.flushHeld
    dsimp only
    split
    · split
      · split
        · next h => exact ih (w.modCq.writeRec.pair h)
        · next h => exact (w.modCq.writeRec.pair h).modCq
      · split
        · next h => exact ih (w.modCq.writeRec.pair h)
        · next h => exact (w.modCq.writeRec.pair h).modCq
      · exact w
    · exact w

theorem flushCq {i q} {s : State} (w : s.memoryWf) : (Machine.flushCq i q s).memoryWf := w.flushHeld

theorem execCompletionRecord {i q} {s : State} (w : s.memoryWf) : LeavesWf (Machine.execCompletionRecord i q s) := by
  unfold Machine.execCompletionRecord
  split
  · exact w.next
  · exact w.act w.modCq.flushCq

theorem execCqModTimer {i q} {s : State} (w : s.memoryWf) : LeavesWf (Machine.execCqModTimer i q s) := w.act w.cqSignal

theorem execMsixUnmask {fn vec} {s : State} (w : s.memoryWf) : LeavesWf (Machine.execMsixUnmask fn vec s) :=
  w.act (w.same.same.msix.ite w.same)

theorem shadowWrite {i q} {s : State} (w : s.memoryWf) : (Machine.shadowWrite i q s).memoryWf := by
  unfold Machine.shadowWrite
  dsimp only
  split
  · next h => exact (w.modSq.writeLine.pair h).takeFree.mtuFault
  · next h => exact w.modSq.writeLine.pair h

theorem headMoves {i q} {s : State} (w : s.memoryWf) : (Machine.headMoves i q s).memoryWf := w.modSq.shadowWrite.ite w.modSq

theorem acceptDesc {i q raw} {s : State} (w : s.memoryWf) : (Machine.acceptDesc i q raw s).memoryWf :=
  w.same.headMoves.makeReady.ite w.same.headMoves.endInvalid

theorem fetchFail {i q status} {s : State} (w : s.memoryWf) : (Machine.fetchFail i q status s).memoryWf :=
  w.modSq.ringErr.modCq

theorem fetchLoop {i q link n} {s : State} (w : s.memoryWf) : (Machine.fetchLoop i q link n s).memoryWf := by
  induction n generalizing s with
  | zero => exact w
  | succ n ih =>
    unfold Machine.fetchLoop
    dsimp only
    split
    · exact w
    · split
      · next h => exact (w.translate.pair h).mtuFault.fetchFail
      · next t u h =>
        have hread := (w.translate.pair h).readTarget (i := i) (t := t) (n := 64)
        exact hread.emit.fetchFail.ite (hread.emit.fetchFail.ite (hread.fetchFail.ite
          ((hread.emit.ite hread).fetchFail.ite (ih hread.acceptDesc))))

theorem execDescriptorFetch {i q n link} {s : State} (w : s.memoryWf) :
    LeavesWf (Machine.execDescriptorFetch i q n link s) :=
  w.act w.fetchLoop

theorem execHeadShadowWrite {i q} {s : State} (w : s.memoryWf) : LeavesWf (Machine.execHeadShadowWrite i q s) :=
  w.act w.shadowWrite

theorem sqTailDoorbell {i q size v} {s : State} (w : s.memoryWf) : (Machine.sqTailDoorbell i q size v s).memoryWf :=
  w.ringErr.ite (w.ringErr.ite (w.modSq.ringErr.ite w.modSq))

theorem execSqTailDoorbell {i q size v} {s : State} (w : s.memoryWf) : LeavesWf (Machine.execSqTailDoorbell i q size v s) :=
  w.act w.sqTailDoorbell

theorem cqHeadDoorbell {i q size v} {s : State} (w : s.memoryWf) : (Machine.cqHeadDoorbell i q size v s).memoryWf :=
  w.ringErr.ite (w.ringErr.ite (w.modCq.ringErr.ite w.modCq.flushCq))

theorem execCqHeadDoorbell {i q size v} {s : State} (w : s.memoryWf) : LeavesWf (Machine.execCqHeadDoorbell i q size v s) :=
  w.act w.cqHeadDoorbell

theorem sqCtrlWrite {i q v} {s : State} (w : s.memoryWf) : (Machine.sqCtrlWrite i q v s).memoryWf :=
  w.ringErr.ite
    (((w.modSq.modSq.admission.ite w.modSq.ringErr).ite w.modSq).ite (w.ringErr.ite (w.ite (w.modSq.ite w))))

theorem execSqEnable {i q v} {s : State} (w : s.memoryWf) : LeavesWf (Machine.execSqEnable i q v s) := w.act w.sqCtrlWrite

theorem execSqDisable {i q v} {s : State} (w : s.memoryWf) : LeavesWf (Machine.execSqDisable i q v s) := w.act w.sqCtrlWrite

theorem execSqDrainDone {i q} {s : State} (w : s.memoryWf) : LeavesWf (Machine.execSqDrainDone i q s) :=
  w.act w.modSq.admission

theorem cqCtrlWrite {i q v} {s : State} (w : s.memoryWf) : (Machine.cqCtrlWrite i q v s).memoryWf := by
  unfold Machine.cqCtrlWrite
  extract_lets c log2 irqEn vec named s1 s2
  have h2 : s2.memoryWf := w.modCq.cqSignal.ite w.modCq
  exact w.ringErr.ite (w.ringErr.ite (w.ringErr.ite ((h2.ite (h2.modCq.flushCq.ite h2.ringErr)).ite h2.modCq)))

theorem execCqEnable {i q v} {s : State} (w : s.memoryWf) : LeavesWf (Machine.execCqEnable i q v s) := w.act w.cqCtrlWrite

theorem execCqDisable {i q v} {s : State} (w : s.memoryWf) : LeavesWf (Machine.execCqDisable i q v s) := w.act w.cqCtrlWrite

theorem execDescriptorRelease {d} {s : State} (w : s.memoryWf) : LeavesWf (Machine.execDescriptorRelease d s) := by
  unfold Machine.execDescriptorRelease
  split
  · exact w.next
  · exact w.act w.modItem.makeReady.shedReady

theorem execDeadlineExpiry {d} {s : State} (w : s.memoryWf) : LeavesWf (Machine.execDeadlineExpiry d s) := by
  unfold Machine.execDeadlineExpiry
  split
  · exact w.next
  · exact w.act w.shedNow

theorem execDescriptorAged {d} {s : State} (w : s.memoryWf) : LeavesWf (Machine.execDescriptorAged d s) := by
  unfold Machine.execDescriptorAged
  split
  · exact w.next
  · exact w.act w.modItem

theorem execEstimatorWindow {s : State} (w : s.memoryWf) : LeavesWf (Machine.execEstimatorWindow s) := w.act w.same

theorem execPressureTimeout {i} {s : State} (w : s.memoryWf) : LeavesWf (Machine.execPressureTimeout i s) :=
  w.act w.modInst.pressureUpdate

theorem execNop {d} {s : State} (w : s.memoryWf) : LeavesWf (Machine.execNop d s) := w.act w.startItem.endItem

theorem execFence {d} {s : State} (w : s.memoryWf) : LeavesWf (Machine.execFence d s) := by
  unfold Machine.execFence
  split
  · exact w.next
  · exact w.act w.endItem.promote

end State.memoryWf

end Sys2Proof.Machine
end

section
/-! PROOFS. The canonical form of byte memories: fabric messages and mailboxes. -/

namespace Sys2Proof.Machine

open Sys2Proof

set_option Elab.async false

namespace State.memoryWf

theorem sendFlits {l fs} {s : State} (w : s.memoryWf) : (Machine.sendFlits l fs s).memoryWf :=
  w.foldl (fun _ _ w => w.modLane.emit)

theorem portSend {p} {s t : State} (w : s.memoryWf) (h : Machine.portSend p s = some t) : t.memoryWf := by
  unfold Machine.portSend at h
  dsimp only at h
  split at h
  · cases h
  · split at h
    · cases h
    · cases h
      exact w.modPort.modLane.sendFlits.emit

theorem portPump {n p} {s : State} (w : s.memoryWf) : (Machine.portPump n p s).memoryWf := by
  induction n generalizing s with
  | zero => exact w
  | succ n ih =>
    unfold Machine.portPump
    split
    · exact w
    · next h => exact ih (w.portSend h)

theorem portQueue {p m} {s : State} (w : s.memoryWf) : (Machine.portQueue p m s).memoryWf := w.modPort.portPump

theorem routeOut {m} {s : State} (w : s.memoryWf) : (Machine.routeOut m s).2.memoryWf := by
  unfold Machine.routeOut
  dsimp only
  split
  · exact w.fabRaise
  · split
    · exact w
    · exact w.portQueue

theorem dropReq {r} {s : State} (w : s.memoryWf) : (Machine.dropReq r s).memoryWf := w.same

theorem coreReqFails {c q} {s : State} (w : s.memoryWf) : (Machine.coreReqFails c q s).memoryWf :=
  w.dropReq.raiseAt.ite w.dropReq

theorem coreResponse {c q m} {s : State} (w : s.memoryWf) : (Machine.coreResponse c q m s).memoryWf := by
  unfold Machine.coreResponse
  dsimp only
  split
  · exact w.dropReq
  · split
    · split
      · split
        · next h3 => exact w.same.routeOut.pair h3
        · next h3 => exact (w.same.routeOut.pair h3).coreReqFails
      · exact w.coreReqFails
    · exact w.dropReq.raiseAt.ite (w.dropReq.modCore.setFlags.ite w.dropReq.modCore)

theorem deliverRsp {m} {s : State} (w : s.memoryWf) : (Machine.deliverRsp m s).memoryWf := by
  unfold Machine.deliverRsp
  split
  · exact w
  · split
    · exact w.coreResponse.ite w
    · exact w

theorem respond {r} {s : State} (w : s.memoryWf) : (Machine.respond r s).memoryWf := w.deliverRsp.ite w.routeOut

theorem refuse {q code} {s : State} (w : s.memoryWf) : (Machine.refuse q code s).memoryWf := w.respond

theorem recvFinish {c v dest data sender} {s : State} (w : s.memoryWf) :
    (Machine.recvFinish c v dest data sender s).memoryWf :=
  w.localWrite.setS.setP.modCore.advance

theorem recvNothing {c v} {s : State} (w : s.memoryWf) : (Machine.recvNothing c v s).memoryWf := w.setS.setP.modCore.advance

theorem mboxServe {c m} {s : State} (w : s.memoryWf) : (Machine.mboxServe c m s).memoryWf := w.modMbox

theorem recvMbox {c v m g rest} {s : State} (w : s.memoryWf) : (Machine.recvMbox c v m g rest s).memoryWf :=
  w.modMbox.recvFinish.mboxServe.ite w.raise

theorem recvQueue {c v d q e rest} {s : State} (w : s.memoryWf) : (Machine.recvQueue c v d q e rest s).memoryWf :=
  w.modDie.recvFinish.ite w.raise

theorem recvTry {c v wait} {s : State} (w : s.memoryWf) (hwait : ∀ s, State.memoryWf s → (wait s).memoryWf) :
    (Machine.recvTry c v wait s).memoryWf := by
  unfold Machine.recvTry
  split
  · split
    · exact w.recvMbox
    · exact hwait _ w
  · split
    · exact w.recvQueue
    · exact w.recvNothing.ite (hwait _ w)

theorem recvStall {c v} {s : State} (w : s.memoryWf) : (Machine.recvStall c v s).memoryWf := by
  unfold Machine.recvStall
  dsimp only
  split
  · exact w.modCore
  · exact w.modCore.modDie

theorem recvWake {c m} {s : State} (w : s.memoryWf) : (Machine.recvWake c m s).memoryWf := by
  unfold Machine.recvWake
  split
  · exact (w.recvTry (fun _ w => w.id)).ite w
  · exact w

theorem boxMet {c d met go} {s : State} (w : s.memoryWf) (hgo : ∀ s, State.memoryWf s → (go s).memoryWf) :
    (Machine.boxMet c d met go s).memoryWf := by
  unfold Machine.boxMet
  split
  · exact hgo _ w.modDie
  · exact w.logPf.raise
  · exact hgo _ w

theorem pullWake {n d q} {s : State} (w : s.memoryWf) : (Machine.pullWake n d q s).memoryWf := by
  induction n generalizing s with
  | zero => exact w
  | succ n ih =>
    unfold Machine.pullWake
    dsimp only
    split
    · exact w
    · split
      · exact w
      · split
        · exact ih (w.modDie.recvTry fun _ w => w)
        · exact ih w.modDie

theorem countDrop {c} {s : State} (w : s.memoryWf) : (Machine.countDrop c s).memoryWf := w.modCore

theorem mboxStore {c m g stale} {s : State} (w : s.memoryWf) : (Machine.mboxStore c m g stale s).memoryWf :=
  w.countDrop.mboxServe.ite w.modMbox.mboxServe.recvWake

theorem mboxPtrReset {c m} {s : State} (w : s.memoryWf) : (Machine.mboxPtrReset c m s).memoryWf := w.modMbox.raise

theorem ingressServe {n c b} {s : State} (w : s.memoryWf) : (Machine.ingressServe n c b s).memoryWf := by
  induction n generalizing s with
  | zero => exact w
  | succ n ih =>
    unfold Machine.ingressServe
    dsimp only
    split
    · exact ih w.modMbox.same.mboxStore.respond
    · exact w

theorem ingressSend {c m} {s : State} (w : s.memoryWf) : (Machine.ingressSend c m s).memoryWf :=
  w.same.modMbox.mboxServe.ingressServe

theorem ingressRetry {c b} {s : State} (w : s.memoryWf) : (Machine.ingressRetry c b s).memoryWf :=
  w.modMbox.mboxServe.ingressServe

theorem mboxesEnd {c} {s : State} (w : s.memoryWf) : (Machine.mboxesEnd c s).memoryWf :=
  w.foldl (fun _ _ w => w.ingressRetry)

theorem recvInstr {c v met wait} {s : State} (w : s.memoryWf) (hwait : ∀ s, State.memoryWf s → (wait s).memoryWf) :
    LeavesWf (Machine.recvInstr c v met wait s) := by
  unfold Machine.recvInstr
  refine w.coreInstr ?_
  split
  · exact w.raise.ite
      ((w.recvTry (fun _ w => hwait _ w)).ite (w.boxMet (fun _ w => w.recvTry (fun _ w => hwait _ w))))
  · exact
      (w.mboxPtrReset.ite
        ((w.recvTry (fun _ w => hwait _ w)).ite
          (w.boxMet (fun _ w => w.recvTry (fun _ w => hwait _ w))))).ingressRetry

theorem execRecv {c x} {s : State} (w : s.memoryWf) : LeavesWf (Machine.execRecv c x s) :=
  w.recvInstr (fun _ w => w.recvStall)

theorem execRecvnb {c x} {s : State} (w : s.memoryWf) : LeavesWf (Machine.execRecvnb c x s) :=
  w.recvInstr (fun _ w => w.recvNothing)

theorem setStep {src m st} {s : State} (w : s.memoryWf) : (Machine.setStep src m st s).memoryWf := w.modCore

theorem execMbxReservation {src} {s : State} (w : s.memoryWf) : LeavesWf (Machine.execMbxReservation src s) := by
  unfold Machine.execMbxReservation
  dsimp only
  split
  · exact w.next
  · exact w.act (w.setStep.ite w.setStep.modMbox.mboxServe)

theorem execMbxRetryTimer {src} {s : State} (w : s.memoryWf) : LeavesWf (Machine.execMbxRetryTimer src s) := by
  unfold Machine.execMbxRetryTimer
  split
  · exact w.next
  · exact w.act w.setStep

theorem execMbxGrant {src} {s : State} (w : s.memoryWf) : LeavesWf (Machine.execMbxGrant src s) := by
  unfold Machine.execMbxGrant
  split
  · exact w.next
  · exact w.act w.setStep

theorem mbxDeliver {src m mismatch} {s : State} (w : s.memoryWf) : (Machine.mbxDeliver src m mismatch s).memoryWf :=
  w.modCore.modMbox.mboxPtrReset.ite w.modCore.modMbox.mboxStore.ingressRetry

theorem mbxCfgWrite {c m v} {s : State} (w : s.memoryWf) : (Machine.mbxCfgWrite c m v s).memoryWf :=
  w.modMbox.mboxServe.ingressRetry.ite w

theorem execMbxCfgWrite {c m v} {s : State} (w : s.memoryWf) : LeavesWf (Machine.execMbxCfgWrite c m v s) :=
  w.act w.mbxCfgWrite

end State.memoryWf

end Sys2Proof.Machine
end

section
/-! PROOFS. The canonical form of byte memories: remote accesses and locks. -/

namespace Sys2Proof.Machine

open Sys2Proof

set_option Elab.async false

namespace State.memoryWf

theorem atomTarget {i t n f} {s : State} (w : s.memoryWf) : (Machine.atomTarget i t n f s).s.memoryWf := by
  unfold Machine.atomTarget
  dsimp only
  split
  · exact w.readTarget
  · split
    · exact w.readTarget
    · split
      · next h2 => exact w.readTarget.writeTarget.pair h2
      · next h2 => exact w.readTarget.writeTarget.pair h2

theorem atomIva {v iva n f} {s : State} (w : s.memoryWf) : (Machine.atomIva v iva n f s).s.memoryWf := by
  unfold Machine.atomIva
  split
  · exact w.modMtu
  · split
    · next h1 => exact (w.translate.pair h1).mtuFault
    · next h1 => exact (w.translate.pair h1).atomTarget

theorem laddEach {v a l} {r : AtomRes} (w : r.s.memoryWf) : (Machine.laddEach v a l r).s.memoryWf := by
  induction l generalizing a r with
  | nil => exact w
  | cons x t ih =>
    unfold Machine.laddEach
    dsimp only
    split
    · exact ih w.atomIva
    · split
      · exact w.atomIva
      · exact ih w.atomIva

theorem linesPoisoned {v a n} {s : State} (w : s.memoryWf) : (Machine.linesPoisoned v a n s).2.memoryWf := by
  induction n generalizing a s with
  | zero => exact w
  | succ n ih =>
    unfold Machine.linesPoisoned
    split
    · exact w
    · split
      · next h => exact w.translate.pair h
      · next h =>
        split
        · exact w.translate.pair h
        · exact ih (w.translate.pair h)
      · next h =>
        split
        · exact ih (w.translate.pair h)
        · split
          · exact w.translate.pair h
          · dsimp only
            split
            · exact (w.translate.pair h).findErrors
            · exact ih (w.translate.pair h).findErrors

theorem laddMany {v a vs} {s : State} (w : s.memoryWf) : (Machine.laddMany v a vs s).s.memoryWf := by
  unfold Machine.laddMany
  split
  · next h => exact w.linesPoisoned.pair h
  · next h => exact (w.linesPoisoned.pair h).laddEach

theorem logSpread {i lines} {s : State} (w : s.memoryWf) : (Machine.logSpread i lines s).memoryWf := by
  unfold Machine.logSpread
  split
  · exact w
  · exact w.logPf

theorem answerAtom {m ret} {r : AtomRes} (w : r.s.memoryWf) : (Machine.answerAtom m ret r).memoryWf := by
  unfold Machine.answerAtom
  dsimp only
  split
  · exact w.refuse
  · exact w.respond

theorem performSend {m} {s : State} (w : s.memoryWf) : (Machine.performSend m s).memoryWf := by
  unfold Machine.performSend
  split
  · exact w.refuse
  · exact w.ingressSend

theorem releaseSend {m} {s : State} (w : s.memoryWf) : (Machine.releaseSend m s).memoryWf :=
  w.same.performSend.ite w.same.routeOut

theorem barrierArrive {m partIdx} {s : State} (w : s.memoryWf) : (Machine.barrierArrive m partIdx s).memoryWf :=
  w.refuse.ite (w.respond.same.ite (w.respond.same.foldl (fun _ _ w => w.releaseSend)))

theorem performReq {m} {s : State} (w : s.memoryWf) : (Machine.performReq m s).memoryWf := by
  unfold Machine.performReq
  dsimp only
  split
  · exact w.refuse
  · split
    · exact w.refuse
    · split
      · exact w.takeFree.barrierArrive
      · split
        · exact w.refuse
        · split
          · split
            · next h5 => exact (w.writeIva.triple h5).logSpread.refuse
            · next h5 => exact (w.writeIva.triple h5).logSpread.respond
          · split
            · exact w.readIva.refuse
            · exact w.readIva.respond
          · exact w.atomIva.answerAtom
          · exact w.atomIva.answerAtom
          · exact w.laddMany.answerAtom
          · exact w.performSend
          · exact w.refuse

theorem launchReq {c m} {s : State} (w : s.memoryWf) : (Machine.launchReq c m s).memoryWf := by
  unfold Machine.launchReq
  split
  · split
    · split
      · exact w.barrierArrive
      · exact w.refuse
    · exact w.performReq
  · split
    · next h1 => exact w.routeOut.pair h1
    · next h1 => exact (w.routeOut.pair h1).deliverRsp

theorem sendReqs {c q dom l} {s : State} (w : s.memoryWf) : (Machine.sendReqs c q dom l s).memoryWf := by
  induction l generalizing s with
  | nil => exact w
  | cons x t ih =>
    unfold Machine.sendReqs
    exact ih (w.same.ite (noteCore w.same)).launchReq

theorem closeWrite {c} {s : State} (w : s.memoryWf) : (Machine.closeWrite c s).memoryWf := by
  unfold Machine.closeWrite
  split
  · exact w
  · have hclosed := (w.modCore (c := c) (f := fun k => { k with coalesce := none })).noteCore (c := c)
    dsimp only
    split
    · exact hclosed.raiseAt
    · exact launchReq hclosed.same

theorem closing {c f} {s : State} (w : s.memoryWf) (hf : ∀ s, State.memoryWf s → (f s).memoryWf) :
    (Machine.closing c f s).memoryWf :=
  (hf _ w.closeWrite).ite w.closeWrite

theorem execWriteCoalesceTimeout {c} {s : State} (w : s.memoryWf) : LeavesWf (Machine.execWriteCoalesceTimeout c s) :=
  w.act w.closeWrite

theorem execFabRespTimeout {req} {s : State} (w : s.memoryWf) : LeavesWf (Machine.execFabRespTimeout req s) := by
  unfold Machine.execFabRespTimeout
  split
  · exact w.next
  · refine w.act ?_
    split
    · exact w.coreReqFails
    · exact w.dropReq

theorem bfmAlloc {i p} {s : State} (w : s.memoryWf) : (Machine.bfmAlloc i p s).2.memoryWf := by
  unfold Machine.bfmAlloc
  dsimp only
  split
  · exact w.same
  · split
    · exact w.modPool
    · exact w.same

theorem bfmFree {i p h} {s : State} (w : s.memoryWf) : (Machine.bfmFree i p h s).memoryWf := by
  unfold Machine.bfmFree
  dsimp only
  split
  · exact w.bfmEvent
  · split
    · exact w.bfmEvent
    · exact w.bfmEvent.ite (w.modPool.ite (w.bfmEvent.ite w.bfmEvent.logOne))

theorem portRead {i p off n} {s : State} (w : s.memoryWf) : (Machine.portRead i p off n s).2.memoryWf := by
  unfold Machine.portRead
  dsimp only
  split
  · exact w.bfmAlloc
  · split
    · exact w.bfmEvent
    · split
      · exact w
      · exact w

theorem portWrite {i p off d} {s : State} (w : s.memoryWf) : (Machine.portWrite i p off d s).memoryWf :=
  w.bfmFree.ite (w.bfmEvent.ite w)

theorem readLineP {v sized iva n} {s : State} (w : s.memoryWf) : (Machine.readLineP v sized iva n s).s.memoryWf := by
  unfold Machine.readLineP
  dsimp only
  split
  · exact w
  · split
    · next h1 => exact (w.translate.pair h1).mtuFault
    · next h1 =>
      split
      · split
        · exact (w.translate.pair h1).portRead
        · exact (w.translate.pair h1).readTarget
      · exact (w.translate.pair h1).readTarget
    · next h1 => exact (w.translate.pair h1).readTarget

theorem writeLineP {v sized iva data} {s : State} (w : s.memoryWf) : (Machine.writeLineP v sized iva data s).2.memoryWf := by
  unfold Machine.writeLineP
  split
  · exact w.writeLine
  · split
    · next h1 => exact (w.translate.pair h1).mtuFault
    · next h1 =>
      split
      · split
        · exact (w.translate.pair h1).portWrite
        · exact (w.translate.pair h1).writeTarget
      · exact (w.translate.pair h1).writeTarget
    · next h1 => exact (w.translate.pair h1).writeTarget

theorem readChunksP {v sized l} {r : RdRes} (w : r.s.memoryWf) : (Machine.readChunksP v sized l r).s.memoryWf := by
  induction l generalizing r with
  | nil => exact w
  | cons x t ih =>
    unfold Machine.readChunksP
    split
    · next h => exact w.readLineP.read h
    · next h => exact ih (w.readLineP.read h)

theorem writeChunksP {v sized l d} {s : State} (w : s.memoryWf) : (Machine.writeChunksP v sized l d s).2.memoryWf := by
  induction l generalizing d s with
  | nil => exact w
  | cons x t ih =>
    unfold Machine.writeChunksP
    split
    · next h => exact ih (w.writeLineP.pair h)
    · next h => exact w.writeLineP.pair h
    · next h => exact ih (w.writeLineP.pair h)

theorem execAlloc {i p} {s : State} (w : s.memoryWf) : LeavesWf (Machine.execAlloc i p s) := w.act w.bfmAlloc.emit

theorem execFree {i p h} {s : State} (w : s.memoryWf) : LeavesWf (Machine.execFree i p h s) := w.act w.bfmFree

theorem poolCfgWrite {p v} {s : State} (w : s.memoryWf) : (Machine.poolCfgWrite p v s).memoryWf := w.modPool

theorem execPoolEnable {p v} {s : State} (w : s.memoryWf) : LeavesWf (Machine.execPoolEnable p v s) := w.act w.poolCfgWrite

theorem freeBuffersOf {i} {s : State} (w : s.memoryWf) : (Machine.freeBuffersOf i s).memoryWf := w.same.logPf

theorem lacqAnswer {c n sd} {s : State} (w : s.memoryWf) : (Machine.lacqAnswer c n sd s).memoryWf := w.modCore

theorem lockTake {n q} {s : State} (w : s.memoryWf) : (Machine.lockTake n q s).memoryWf := w.modLock

theorem lockServe {f n} {s : State} (w : s.memoryWf) : (Machine.lockServe f n s).memoryWf := by
  induction f generalizing s with
  | zero => exact w
  | succ f ih =>
    unfold Machine.lockServe
    dsimp only
    split
    · exact w
    · exact w
    · exact (ih w.modLock.lacqAnswer).ite w.modLock.lockTake.lacqAnswer

theorem lockServeAll {n} {s : State} (w : s.memoryWf) : (Machine.lockServeAll n s).memoryWf := w.lockServe

theorem lockFree {n} {s : State} (w : s.memoryWf) : (Machine.lockFree n s).memoryWf := w.modLock.lockServeAll

theorem lockOrphan {n} {s : State} (w : s.memoryWf) : (Machine.lockOrphan n s).memoryWf :=
  w.same.logBoth.modLock.lockServeAll

theorem orphanWhere {t} {s : State} (w : s.memoryWf) : (Machine.orphanWhere t s).memoryWf :=
  w.foldl (fun _ _ w => w.lockOrphan)

theorem dropWaiters {t} {s : State} (w : s.memoryWf) : (Machine.dropWaiters t s).memoryWf := w.same

theorem execLacq {c v} {s : State} (w : s.memoryWf) : LeavesWf (Machine.execLacq c v s) := by
  unfold Machine.execLacq
  dsimp only
  refine w.coreInstr ?_
  split
  · exact w.raise.ite
      (w.closing (fun _ w => (w.logBoth.issued.ite (w.issued.ite w.modLock.issued)).ite
        (w.issued.ite w.lockTake.modCore.issued)))
  · exact w.raise

theorem execLrel {c v} {s : State} (w : s.memoryWf) : LeavesWf (Machine.execLrel c v s) := by
  unfold Machine.execLrel
  dsimp only
  refine w.coreInstr ?_
  split
  · exact w.closing (fun _ w => w.lockFree.issued.ite w.same.logBoth.issued)
  · exact w.raise

theorem execLeaseExpiry {n} {s : State} (w : s.memoryWf) : LeavesWf (Machine.execLeaseExpiry n s) := w.act w.lockOrphan

theorem execLockAdmin {d} {s : State} (w : s.memoryWf) : LeavesWf (Machine.execLockAdmin d s) := by
  unfold Machine.execLockAdmin
  dsimp only
  split
  · exact w.next
  · exact w.act (w.startItem.endInvalid.ite (w.startItem.lockFree.noteEffect.ite w.startItem).endItem)

theorem execBfmLkuParityError {what} {s : State} (w : s.memoryWf) : LeavesWf (Machine.execBfmLkuParityError what s) := by
  unfold Machine.execBfmLkuParityError
  dsimp only
  refine w.act ?_
  refine .logPf ?_
  split
  · exact w.modPool
  · exact w.same

end State.memoryWf

end Sys2Proof.Machine
end

section
/-! PROOFS. The canonical form of byte memories: loads, stores and synchronisation of cores. -/

namespace Sys2Proof.Machine

open Sys2Proof

set_option Elab.async false

namespace State.memoryWf

theorem issueRemote {c q a e rs} {s : State} (w : s.memoryWf) : (Machine.issueRemote c q a e rs s).memoryWf := by
  unfold Machine.issueRemote
  dsimp only
  split
  · exact w.raise
  · exact w.closeWrite.ite w.closeWrite.issued.sendReqs

theorem localLoad {c v f a err} {s : State} (w : s.memoryWf) : (Machine.localLoad c v f a err s).memoryWf := by
  unfold Machine.localLoad
  dsimp only
  split
  · exact w.raise
  · exact w.localUpset.localFind.raise.ite
      (w.localUpset.localFind.localRead.setV.ite w.localUpset.localFind.localRead.setS).advance

theorem globalLoad {c v f a} {s : State} (w : s.memoryWf) : (Machine.globalLoad c v f a s).memoryWf := by
  unfold Machine.globalLoad
  dsimp only
  refine w.closing (fun s w => ?_)
  split
  · exact w.readChunksP.issued
  · exact w.readChunksP.raise
  · exact w.readChunksP.raise
  · exact w.readChunksP.raise.ite w.readChunksP.issued

theorem remoteLoad {c v f a} {s : State} (w : s.memoryWf) : (Machine.remoteLoad c v f a s).memoryWf := w.issueRemote

theorem loadInstr {c v ok f err} {s : State} (w : s.memoryWf) : LeavesWf (Machine.loadInstr c v ok f err s) :=
  w.coreInstr (w.upset.localLoad.ite (w.upset.globalLoad.ite w.upset.remoteLoad))

theorem localStore {c a d} {s : State} (w : s.memoryWf) : (Machine.localStore c a d s).memoryWf := by
  unfold Machine.localStore
  split
  · exact w.raise
  · exact w.localWrite.advance

theorem globalStore {c a d} {s : State} (w : s.memoryWf) : (Machine.globalStore c a d s).memoryWf := by
  unfold Machine.globalStore
  dsimp only
  refine w.closing (fun s w => ?_)
  split
  · next h1 => exact (w.writeChunksP.pair h1).raise
  · next h1 => exact (w.writeChunksP.pair h1).raise
  · next h1 => exact (w.writeChunksP.pair h1).issued
  · next h1 => exact (w.writeChunksP.pair h1).noteCore.issued

theorem joinWrite {c node a d} {s : State} (w : s.memoryWf) : (Machine.joinWrite c node a d s).memoryWf :=
  (w.modCore.ite w.closeWrite.same.modCore.enqueue).closeWrite.ite (w.modCore.ite w.closeWrite.same.modCore.enqueue)

theorem remoteStore {c node a d} {s : State} (w : s.memoryWf) : (Machine.remoteStore c node a d s).memoryWf := by
  unfold Machine.remoteStore
  split
  · exact w.raise
  extract_lets r s1 n pc s2 s3
  have h1 : s1.memoryWf := w.ite w.closeWrite
  have h3 : s3.memoryWf := h1.joinWrite.ite h1.joinWrite.joinWrite
  exact h1.ite (h3.advance.ite h3)

theorem storeInstr {c v ok n u d} {s : State} (w : s.memoryWf) : LeavesWf (Machine.storeInstr c v ok n u d s) :=
  w.coreInstr (w.localStore.ite (w.globalStore.ite w.remoteStore))

theorem execBarWindowRead {i off len} {s : State} (w : s.memoryWf) : LeavesWf (Machine.execBarWindowRead i off len s) :=
  w.act (w.emit.ite (w.readChunksP.emit.ite (w.readChunksP.emit.emit.ite w.readChunksP.emit)))

theorem execBarWindowWrite {i off data} {s : State} (w : s.memoryWf) : LeavesWf (Machine.execBarWindowWrite i off data s) :=
  w.act w.writeChunksP

theorem execBar {c v} {s : State} (w : s.memoryWf) : LeavesWf (Machine.execBar c v s) := w.coreInstr w.modCore.leftRunning

theorem launchTake {n d} {s : State} (w : s.memoryWf) : (Machine.launchTake n d s).memoryWf := w.modItem.modPart

theorem logInx {n} {s : State} (w : s.memoryWf) : (Machine.logInx n s).memoryWf := by
  unfold Machine.logInx
  dsimp only
  exact w.takeFree.logBoth.ite w

theorem launchEnd {n f} {s : State} (w : s.memoryWf) : (Machine.launchEnd n f s).memoryWf := by
  unfold Machine.launchEnd
  split
  · exact w
  · exact w.logInx.launchTake.endEarly

theorem orphanCores {n} {s : State} (w : s.memoryWf) : (Machine.orphanCores n s).memoryWf := w.orphanWhere

theorem coreEnded {c} {s : State} (w : s.memoryWf) : (Machine.coreEnded c s).memoryWf := by
  unfold Machine.coreEnded
  dsimp only
  split
  · exact w.mboxesEnd
  · exact w.mboxesEnd.barriers.orphanCores.launchEnd.ite w.mboxesEnd.barriers

theorem exitNow {c word} {s : State} (w : s.memoryWf) : (Machine.exitNow c word s).memoryWf := w.countIssue.modCore.coreEnded

theorem resume {c} {s : State} (w : s.memoryWf) : (Machine.resume c s).memoryWf := by
  unfold Machine.resume
  dsimp only
  split
  · exact w.modCore.advance.ite w
  · exact w.exitNow.ite w
  · exact w

theorem execExit {c v} {s : State} (w : s.memoryWf) : LeavesWf (Machine.execExit c v s) :=
  w.coreInstr (w.closing (fun _ w => w.modCore.resume))

theorem execSyncFence {c v} {s : State} (w : s.memoryWf) : LeavesWf (Machine.execSyncFence c v s) :=
  w.coreInstr (w.closing (fun _ w => w.modCore.resume))

theorem execSyncNop {c v} {s : State} (w : s.memoryWf) : LeavesWf (Machine.execSyncNop c v s) := w.coreInstr w.advance

theorem execGett {c v} {s : State} (w : s.memoryWf) : LeavesWf (Machine.execGett c v s) := w.coreInstr w.setS.setP.advance

theorem execWaitt {c v} {s : State} (w : s.memoryWf) : LeavesWf (Machine.execWaitt c v s) :=
  w.coreInstr (w.setP.advance.ite w.setP.modCore)

theorem execWaittWake {c} {s : State} (w : s.memoryWf) : LeavesWf (Machine.execWaittWake c s) := w.act w.modCore.advance

theorem execTchk {c v} {s : State} (w : s.memoryWf) : LeavesWf (Machine.execTchk c v s) := w.coreInstr w.setP.advance

theorem countSent {c} {s : State} (w : s.memoryWf) : (Machine.countSent c s).memoryWf := w.modCore

theorem sendLocal {c n idx b d} {s : State} (w : s.memoryWf) : (Machine.sendLocal c n idx b d s).memoryWf :=
  (w.closing (fun _ w => w.modCore.noteCore.countSent.advance)).ite w

theorem sendRemote {c a b d} {s : State} (w : s.memoryWf) : (Machine.sendRemote c a b d s).memoryWf :=
  (w.countSent.ite w).issueRemote

theorem execSend {c v} {s : State} (w : s.memoryWf) : LeavesWf (Machine.execSend c v s) := by
  unfold Machine.execSend
  dsimp only
  refine w.coreInstr ?_
  split
  · exact w.raise
  · exact w.raise.ite (w.localFind.raise.ite (w.localFind.localRead.sendRemote.ite w.localFind.localRead.sendLocal))

theorem execMbxData {src ptrMismatch} {s : State} (w : s.memoryWf) : LeavesWf (Machine.execMbxData src ptrMismatch s) := by
  unfold Machine.execMbxData
  split
  · exact w.next
  · exact w.act w.mbxDeliver.resume

theorem writeResults {c e} {s : State} (w : s.memoryWf) : (Machine.writeResults c e s).memoryWf := by
  unfold Machine.writeResults
  dsimp only
  split
  · refine .setP ?_
    refine .modCore ?_
    split
    · exact (w.foldl (fun _ _ w => w.modCore.setS)).modCore.setV
    · exact w.foldl (fun _ _ w => w.modCore.setS)
  · split
    · exact (w.foldl (fun _ _ w => w.modCore.setS)).modCore.setV
    · exact w.foldl (fun _ _ w => w.modCore.setS)

theorem execCoreException {c cause isGlobal addr} {s : State} (w : s.memoryWf) :
    LeavesWf (Machine.execCoreException c cause isGlobal addr s) :=
  w.act w.raise

theorem abandonQueues {c} {s : State} (w : s.memoryWf) : (Machine.abandonQueues c s).memoryWf := by
  unfold Machine.abandonQueues
  extract_lets k es s1 s2 s3 s4
  have h2 : s2.memoryWf := w.modCore.foldl fun _ _ w => w.localUndefined
  have h3 : s3.memoryWf := h2.foldl fun _ _ w => w.slotsUndefined
  have h4 : s4.memoryWf := h3.arraysUndefined.ite h3
  exact h4.haccUndefined.ite h4

theorem takeGrants {n c} {s : State} (w : s.memoryWf) : (Machine.takeGrants n c s).memoryWf := by
  induction n generalizing s with
  | zero => exact w
  | succ n ih =>
    unfold Machine.takeGrants
    split
    · exact w
    · exact ih w.setStep

/-- A change of every core that leaves local memories alone. -/
theorem mapCores {f : Core → Core} {s : State} (w : s.memoryWf) (hf : ∀ k, (f k).mem = k.mem := by exact fun _ => rfl) :
    State.memoryWf { s with cores := s.cores.map f } := by
  refine State.memoryWf_of_same w rfl rfl rfl rfl fun c => ?_
  simp only [Vector.getElem_map, hf]

theorem dropUngranted {c} {s : State} (w : s.memoryWf) : (Machine.dropUngranted c s).memoryWf := by
  unfold Machine.dropUngranted
  exact w.takeGrants.mapCores.modCore

theorem stopCore {c} {s : State} (w : s.memoryWf) : (Machine.stopCore c s).memoryWf := by
  have hstop : State.memoryWf (Machine.modCore c (fun k => { k with st := if k.st = .running then .stopped else k.st, stall := .none })
      (Machine.dropUngranted c (Machine.abandonQueues c s))) := w.abandonQueues.dropUngranted.modCore
  unfold Machine.stopCore
  exact hstop.same.dropWaiters.mboxesEnd

theorem execPartitionStop {n} {s : State} (w : s.memoryWf) : LeavesWf (Machine.execPartitionStop n s) :=
  w.act (w.foldl (fun _ _ w => w.stopCore)).orphanCores.launchEnd

theorem launchCore {n x c} {s : State} (w : s.memoryWf) : (Machine.launchCore n x c s).memoryWf := w.modCore

theorem loadCores {cs a d pois} {s : State} (w : s.memoryWf) : (Machine.loadCores cs a d pois s).memoryWf :=
  w.ite (w.foldl (fun _ _ w => w.localPut.modCore))

theorem loadBlock {v cs iva len dest} {s : State} (w : s.memoryWf) :
    (Machine.loadBlock v cs iva len dest s).2.2.memoryWf := by
  unfold Machine.loadBlock
  dsimp only
  split
  · exact w.readIva
  · exact w.readIva.loadCores

theorem launchFails {n d e} {s : State} (w : s.memoryWf) : (Machine.launchFails n d e s).memoryWf := by
  unfold Machine.launchFails
  exact (w.foldl fun _ _ w => w.modCore).launchTake.endEarly

theorem launchLoad {n x v} {s : State} (w : s.memoryWf) : (Machine.launchLoad n x v s).memoryWf := by
  unfold Machine.launchLoad
  extract_lets cs s1 s2
  have h2 : s2.memoryWf := (w.foldl fun _ _ w => w.launchCore).modPart
  split
  · next h => exact (h2.loadBlock.triple h).launchFails
  next h =>
  have himage := h2.loadBlock.triple h
  extract_lets s3
  have h3 : s3.memoryWf := himage.ite himage.modPart
  split
  · next h => exact (h3.loadBlock.triple h).launchFails
  · next h => exact (h3.loadBlock.triple h).modItem

theorem launchRun {n x} {s : State} (w : s.memoryWf) : (Machine.launchRun n x s).memoryWf := by
  unfold Machine.launchRun
  dsimp only
  split
  · next h => exact (w.takeFree.firstRequests.pair h).endEarly
  · next h => exact (w.takeFree.firstRequests.pair h).launchLoad

theorem execLaunch {d} {s : State} (w : s.memoryWf) : LeavesWf (Machine.execLaunch d s) := by
  unfold Machine.execLaunch
  dsimp only
  split
  · exact w.next
  · exact w.act (w.dispatchStart.endEarly.ite (w.dispatchStart.launchRun.ite w.dispatchStart.endInvalid))

theorem execCtrClear {c} {s : State} (w : s.memoryWf) : LeavesWf (Machine.execCtrClear c s) := w.act w.modCore

end State.memoryWf

end Sys2Proof.Machine
end

section
/-! PROOFS. The canonical form of byte memories: the arrays. -/

namespace Sys2Proof.Machine

open Sys2Proof

set_option Elab.async false

namespace State.memoryWf

theorem logReject {v a e} {s : State} (w : s.memoryWf) : (Machine.logReject v a e s).memoryWf := by
  unfold Machine.logReject
  split
  · exact w
  · exact w
  · exact w.logBoth
  · exact w.logOne

theorem tensorGlobal {v core fmts dest a} {s : State} (w : s.memoryWf) :
    (Machine.tensorGlobal v core fmts dest a s).2.memoryWf := by
  unfold Machine.tensorGlobal
  dsimp only
  split
  · exact w.logReject
  · split
    · exact w.readIva.logReject
    · split
      · exact w.readIva.logReject
      · exact w.readIva

theorem tensorRaise {c o e} {s : State} (w : s.memoryWf) : (Machine.tensorRaise c o e s).memoryWf := by
  unfold Machine.tensorRaise
  dsimp only
  split
  · exact w.raise
  · split
    · exact w.raise
    · exact w
  · refine .raise ?_
    split
    · split
      · exact w.modItem.ite w
      · exact w
    · exact w
  · exact w.raise
  · exact w.raise

theorem tensorCore {c fmts dest o} {s : State} (w : s.memoryWf) : (Machine.tensorCore c fmts dest o s).2.memoryWf := by
  unfold Machine.tensorCore
  dsimp only
  split
  · exact w.tensorGlobal
  · split
    · exact w.logReject
    · split
      · exact w
      · split
        · exact w.localFind.localRead.logReject
        · exact w.localFind.localRead

theorem firstRaised {a b : Raised} {s : State} (ha : (a.2 s).memoryWf) (hb : (b.2 s).memoryWf) :
    ((Machine.firstRaised a b).2 s).memoryWf := by
  unfold Machine.firstRaised
  split
  · exact hb
  · exact ha

theorem tensorRaised {c q o e} {s : State} (w : s.memoryWf) : ((Machine.tensorRaised c q o e).2 s).memoryWf := by
  unfold Machine.tensorRaised
  split
  · exact w.issued
  · exact w.tensorRaise

theorem tensorFetch {c fmts dest bad v} {s : State} (w : s.memoryWf) : (Machine.tensorFetch c fmts dest bad v s).2.memoryWf := by
  unfold Machine.tensorFetch
  split
  · exact w
  · split
    · next h => exact w.tensorCore.pair h
    · next h => exact w.tensorCore.pair h

theorem readUntil {v l} {r : RdRes} (w : r.s.memoryWf) : (Machine.readUntil v l r).s.memoryWf := by
  induction l generalizing r with
  | nil => exact w
  | cons x t ih =>
    unfold Machine.readUntil
    dsimp only
    split
    · exact w.readLine
    · exact ih w.readLine

theorem unitRead {q c loc a n} {s : State} (w : s.memoryWf) : (Machine.unitRead q c loc a n s).s.memoryWf := by
  unfold Machine.unitRead
  dsimp only
  split
  · split
    · exact w.localFind
    · split
      · exact w.localFind
      · exact w.localFind.localRead
  · split
    · split
      · exact w.readUntil
      · exact w.readUntil
    · split
      · exact w.readUntil
      · exact w.readUntil

theorem unitReads {q c loc l} {r : UnitRd} {acc} (w : r.s.memoryWf) : (Machine.unitReads q c loc l r acc).1.s.memoryWf := by
  induction l generalizing r acc with
  | nil => exact w
  | cons x t ih =>
    unfold Machine.unitReads
    dsimp only
    split
    · exact w.unitRead
    · exact ih w.unitRead

theorem elemsRead {c t plane l} {r : UnitRd} {acc} (w : r.s.memoryWf) : (Machine.elemsRead c t plane l r acc).1.s.memoryWf := by
  induction l generalizing r acc with
  | nil => exact w
  | cons n rest ih =>
    unfold Machine.elemsRead
    dsimp only
    split
    · exact w.unitReads
    · exact ih w.unitReads

theorem freeShared {rs} {s : State} (w : s.memoryWf) : (Machine.freeShared rs s).2.memoryWf := by
  unfold Machine.freeShared
  refine foldlBy Prod.snd w fun p r w => ?_
  dsimp only
  split
  · exact w
  · exact w

theorem unitWrites {q c loc l} {s : State} (w : s.memoryWf) : (Machine.unitWrites q c loc l s).2.memoryWf := by
  induction l generalizing s with
  | nil => exact w
  | cons x t ih =>
    unfold Machine.unitWrites
    dsimp only
    split
    · split
      · exact ih w.localWrite
      · exact w
    · split
      · next h =>
        split
        · exact w.writeIva.triple h
        · exact ih (w.writeIva.triple h)
      · next h => exact ih (w.writeIva.triple h).noteCore

theorem probe {v acc l} {s : State} (w : s.memoryWf) : (Machine.probe v acc l s).2.memoryWf := by
  induction l generalizing s with
  | nil => exact w
  | cons x t ih =>
    unfold Machine.probe
    split
    · exact w
    · split
      · next h => exact (w.translate.pair h).mtuFault
      · next h => exact ih (w.translate.pair h)

theorem poisonAfter {c acc glob rs a} {s : State} (w : s.memoryWf) : (Machine.poisonAfter c acc glob rs a s).memoryWf := by
  have hprobe : (if glob then Machine.probe (coreWho c s) acc (rs.flatMap fun r => chunks r.1 r.2) s else (none, s)).2.memoryWf := by
    split
    · exact w.probe
    · exact w
  unfold Machine.poisonAfter
  split
  · next h => exact (hprobe.pair h).raise
  · next h => exact (hprobe.pair h).raise

theorem modSlot {c n f} {s : State} (w : s.memoryWf) : (Machine.modSlot c n f s).memoryWf := w.modCore

theorem putSlot {c n xs} {s : State} (w : s.memoryWf) : (Machine.putSlot c n xs s).memoryWf := w.localPut

theorem putPair {c n xs} {s : State} (w : s.memoryWf) : (Machine.putPair c n xs s).memoryWf := w.putSlot.localPut

theorem slotsFind {c ns} {s : State} (w : s.memoryWf) : (Machine.slotsFind c ns s).memoryWf :=
  w.foldl (fun _ _ w => w.localFind)

theorem slotVals {c n} {s : State} (w : s.memoryWf) : (Machine.slotVals c n s).2.memoryWf := by
  unfold Machine.slotVals
  dsimp only
  split
  · exact w
  · split
    · exact w
    · exact w

theorem clearSlot {c n} {s : State} (w : s.memoryWf) : (Machine.clearSlot c n s).memoryWf :=
  w.putSlot.modSlot.ite w.putSlot.modSlot.putSlot.modSlot

theorem clearPp {c n} {s : State} (w : s.memoryWf) : (Machine.clearPp c n s).memoryWf := w.modSlot

theorem slotUndefined {c n} {s : State} (w : s.memoryWf) : (Machine.slotUndefined c n s).memoryWf := by
  unfold Machine.slotUndefined
  dsimp only
  exact w.localUndefined.takeFree.modSlot

theorem ppBegin {c m} {s : State} (w : s.memoryWf) : (Machine.ppBegin c m s).memoryWf := w.modSlot.ite w.clearPp

theorem ppEnd {c m} {s : State} (w : s.memoryWf) : (Machine.ppEnd c m s).memoryWf := w.modSlot.ite w

theorem handOff {c m steps part accs} {s : State} (w : s.memoryWf) : (Machine.handOff c m steps part accs s).memoryWf :=
  w.putPair.modSlot.modSlot.modCore.setFlags.ite w.putSlot.modSlot.modCore.setFlags

theorem modeUndefined {c m} {s : State} (w : s.memoryWf) : (Machine.modeUndefined c m s).memoryWf :=
  w.foldl (fun _ _ w => w.slotUndefined)

theorem countArray {c cycles products gated} {s : State} (w : s.memoryWf) :
    (Machine.countArray c cycles products gated s).memoryWf :=
  w.modCore (by intro k; split <;> rfl)

theorem operandRead {c o plane rows K} {s : State} (w : s.memoryWf) :
    (Machine.operandRead c o plane rows K s).1.s.memoryWf :=
  w.elemsRead

theorem finish {c q e r} {s : State} (w : s.memoryWf) : (Machine.finish c q e r s).memoryWf := by
  unfold Machine.finish
  split
  · exact w.issued
  · exact w.issued
  · exact w.raise

theorem residueFail {c m col} {s : State} (w : s.memoryWf) : (Machine.residueFail c m col s).memoryWf := by
  unfold Machine.residueFail
  dsimp only
  exact w.modCore.takeFree.modeUndefined.logPf.raise.unitFault.ite w.modCore.takeFree.modeUndefined.logPf.raise

theorem arrayOn {c f} {s : State} (w : s.memoryWf) (hf : ∀ s, State.memoryWf s → (f s).memoryWf) :
    (Machine.arrayOn c f s).memoryWf :=
  w.raise.ite (hf _ w)

theorem addFind {c m} {s : State} (w : s.memoryWf) : (Machine.addFind c m s).memoryWf := w.slotsFind.ite w

theorem mmaRun {c x m a b K rows cols av bv} {s : State} (w : s.memoryWf) :
    (Machine.mmaRun c x m a b K rows cols av bv s).memoryWf :=
  w.countArray.ppBegin.handOff.ppEnd

theorem mmaBody {c x m oa ob ta tb K residue} {s : State} (w : s.memoryWf) :
    (Machine.mmaBody c x m oa ob ta tb K residue s).memoryWf := by
  unfold Machine.mmaBody
  dsimp only
  split
  · exact w.addFind.raise
  · split
    · exact w.addFind.raise
    · split
      · exact w.addFind.operandRead.modeUndefined.finish
      · split
        · exact w.addFind.operandRead.operandRead.modeUndefined.finish
        · split
          · exact w.addFind.operandRead.operandRead.residueFail
          · exact w.addFind.operandRead.operandRead.mmaRun.issued

/-- What a fetch of a tensor that fails raises keeps the form. -/
theorem fetchRaised {c fmts dest bad v} {s t u : State} {x : Raised} (w : u.memoryWf)
    (h : Machine.tensorFetch c fmts dest bad v s = (.error x, t)) (hbad : ∀ s, State.memoryWf s → (bad s).memoryWf) :
    (x.2 u).memoryWf := by
  unfold Machine.tensorFetch at h
  split at h
  · cases h
    exact hbad u w
  · split at h
    · cases h
      exact w.tensorRaised
    · cases h

theorem execMma {c v residue} {s : State} (w : s.memoryWf) : LeavesWf (Machine.execMma c v residue s) := by
  unfold Machine.execMma
  refine w.coreInstr (w.arrayOn fun s w => ?_)
  extract_lets k unit
  have hunit : ∀ s, State.memoryWf s → (unit s).memoryWf := fun _ w => w.raise
  split
  next ra u h =>
  have hu := w.tensorFetch.pair h
  split
  · next hb =>
    have ht := hu.tensorFetch.pair hb
    exact firstRaised (fetchRaised ht h hunit) (fetchRaised ht hb hunit)
  · next hb => exact fetchRaised (hu.tensorFetch.pair hb) h hunit
  · next hb => exact fetchRaised (hu.tensorFetch.pair hb) hb hunit
  · next hb => exact (hu.tensorFetch.pair hb).mmaBody

theorem execMcfg {c v} {s : State} (w : s.memoryWf) : LeavesWf (Machine.execMcfg c v s) :=
  w.coreInstr (w.arrayOn (fun _ w => w.raise.ite w.putSlot.modSlot.clearPp.issued))

end State.memoryWf

end Sys2Proof.Machine
end

section
/-! PROOFS. The canonical form of byte memories: the ledger, tiles and sparse units. -/

namespace Sys2Proof.Machine

open Sys2Proof

set_option Elab.async false

namespace State.memoryWf

theorem drainRun {c o r fmt rnd clear sc t} {s : State} (w : s.memoryWf) :
    (Machine.drainRun c o r fmt rnd clear sc t s).memoryWf := by
  unfold Machine.drainRun
  dsimp only
  split
  · next h => exact ((w.slotVals.freeShared.clearSlot.ite w.slotVals.freeShared).setFlags.unitWrites.pair h).issued
  · next h => exact ((w.slotVals.freeShared.clearSlot.ite w.slotVals.freeShared).setFlags.unitWrites.pair h).raise

theorem drainPoison {c r t} {s : State} (w : s.memoryWf) : (Machine.drainPoison c r t s).memoryWf := by
  unfold Machine.drainPoison
  dsimp only
  split
  · exact w.poisonAfter
  · exact w.raise

theorem execDrain {c v} {s : State} (w : s.memoryWf) : LeavesWf (Machine.execDrain c v s) := by
  unfold Machine.execDrain
  extract_lets fmt rnd n
  refine w.coreInstr ?_
  extract_lets k sc r
  have hunit : ∀ s, State.memoryWf s → (Machine.raise c .unit false 0 s).memoryWf := fun _ w => w.raise
  split
  · next h =>
    have hfind := (w.tensorFetch.pair h).slotsFind (c := c) (ns := readSlots k r)
    exact (firstRaised (fetchRaised hfind h hunit) hfind.drainPoison).ite (fetchRaised hfind h hunit)
  · next h =>
    have hfind := (w.tensorFetch.pair h).slotsFind (c := c) (ns := readSlots k r)
    exact hfind.drainPoison.ite (hfind.raise.ite hfind.drainRun)

theorem redInstr {c v isMax} {s : State} (w : s.memoryWf) : LeavesWf (Machine.redInstr c v isMax s) := by
  unfold Machine.redInstr
  dsimp only
  refine w.coreInstr ?_
  split
  · exact w.slotsFind.raise.ite w.slotsFind.raise
  · split
    · exact w.slotsFind.raise
    · split
      · split
        · exact w.slotsFind.raise
        · split
          · exact w.slotsFind.poisonAfter
          · split
            · next h6 => exact (w.slotsFind.slotVals.takeFree.setFlags.unitWrites.pair h6).issued
            · next h6 => exact (w.slotsFind.slotVals.takeFree.setFlags.unitWrites.pair h6).raise
      · split
        · exact w.slotsFind.raise
        · split
          · exact w.slotsFind.poisonAfter
          · split
            · next h6 => exact (w.slotsFind.slotVals.takeFree.setFlags.unitWrites.pair h6).issued
            · next h6 => exact (w.slotsFind.slotVals.takeFree.setFlags.unitWrites.pair h6).raise

theorem restoreSlot {c d f j} {s : State} (w : s.memoryWf) : (Machine.restoreSlot c d f j s).memoryWf :=
  (w.localPut.clearPp.ite w.localPut).modSlot

theorem restoreImage {c d f n arrays} {s t : State} (w : s.memoryWf) (h : Machine.restoreImage c d f n arrays s = some t) :
    t.memoryWf := by
  unfold Machine.restoreImage at h
  split at h
  · cases h
    have hslots : ((List.range n).foldl (fun s j => Machine.restoreSlot c d f j s) s).memoryWf :=
      w.foldl fun _ _ w => w.restoreSlot
    exact hslots.modCore.ite hslots
  · cases h

theorem ctxInstr {c v f} {s : State} (w : s.memoryWf) (hf : ∀ x0 x1 x2 x3 s, State.memoryWf s → (f x0 x1 x2 x3 s).memoryWf) :
    LeavesWf (Machine.ctxInstr c v f s) := by
  unfold Machine.ctxInstr
  dsimp only
  refine w.coreInstr ?_
  split
  · exact w.raise
  · exact w.raise.ite (w.raise.ite (hf _ _ _ _ _ w))

theorem execCtxsv {c v} {s : State} (w : s.memoryWf) : LeavesWf (Machine.execCtxsv c v s) := by
  unfold Machine.execCtxsv
  dsimp only
  refine w.ctxInstr (fun x0 x1 x2 x3 s w => ?_)
  split
  · exact w.slotsFind.poisonAfter
  · split
    · exact w.slotsFind.issueRemote
    · split
      · next h3 => exact (w.slotsFind.unitWrites.pair h3).issued
      · next h3 => exact (w.slotsFind.unitWrites.pair h3).raise

theorem execCtxld {c v} {s : State} (w : s.memoryWf) : LeavesWf (Machine.execCtxld c v s) := by
  unfold Machine.execCtxld
  refine w.ctxInstr fun f n arr a s w => ?_
  dsimp only
  split
  · exact w.issueRemote
  · split
    · exact w.unitRead.raise
    · split
      · exact w.unitRead.issued
      · split
        · next h => exact (w.unitRead.restoreImage h).issued
        · exact w.unitRead.raise

theorem localAtomic {c m a} {s : State} (w : s.memoryWf) : (Machine.localAtomic c m a s).memoryWf := by
  unfold Machine.localAtomic
  dsimp only
  split
  · exact w.raise
  · exact w.localFind.raise.ite w.localFind.localRead.localWrite.setFlags.issued

theorem globalAtomic {c m a} {s : State} (w : s.memoryWf) : (Machine.globalAtomic c m a s).memoryWf := by
  unfold Machine.globalAtomic
  dsimp only
  split
  · exact w.raise
  · split
    · exact w.atomIva.issued
    · exact w.atomIva.raise
    · exact w.atomIva.raise.ite w.atomIva.noteCore.setFlags.issued

theorem remoteAtomic {c node m a} {s : State} (w : s.memoryWf) : (Machine.remoteAtomic c node m a s).memoryWf :=
  w.raise.ite (w.raise.ite (w.closeWrite.ite w.closeWrite.setFlags.issueRemote))

theorem atomInstr {c v legal regs m} {s : State} (w : s.memoryWf) : LeavesWf (Machine.atomInstr c v legal regs m s) :=
  w.coreInstr (w.localAtomic.ite ((w.closing (fun _ w => w.globalAtomic)).ite w.remoteAtomic))

theorem localLaddt {c a l fl} {s : State} (w : s.memoryWf) : (Machine.localLaddt c a l fl s).2.memoryWf := by
  induction l generalizing a fl s with
  | nil => exact w
  | cons v t ih => exact ih w.localRead.localWrite

theorem execLaddt {c v} {s : State} (w : s.memoryWf) : LeavesWf (Machine.execLaddt c v s) := by
  unfold Machine.execLaddt
  refine w.coreInstr ?_
  extract_lets u k a n vs fl bad
  have hu : u.memoryWf := w.slotsFind
  clear_value u
  refine hu.raise.ite (hu.poisonAfter.ite (hu.raise.ite (hu.raise.ite (hu.raise.ite (ite ?_ (ite ?_ ?_))))))
  · exact hu.localFind.raise.ite hu.localFind.localLaddt.setFlags.issued
  · refine hu.closing fun s w => ?_
    extract_lets r wrote t
    have ht : t.memoryWf := (w.laddMany.noteCore.ite w.laddMany).setFlags
    clear_value t
    split
    · exact ht.issued
    · exact ht.raise
    · exact ht.raise.ite ht.setFlags.issued
  · exact hu.closeWrite.ite hu.closeWrite.setFlags.issueRemote

theorem imageArrives {c e} {s : State} (w : s.memoryWf) : (Machine.imageArrives c e s).memoryWf := by
  unfold Machine.imageArrives
  split
  · split
    · next h => exact w.restoreImage h
    · exact w.raiseAt
  · exact w

theorem spxRecord {c unit reason} {s : State} (w : s.memoryWf) : (Machine.spxRecord c unit reason s).memoryWf := w.modCore

theorem spxRaise {c unit reason glob a} {s : State} (w : s.memoryWf) : (Machine.spxRaise c unit reason glob a s).memoryWf :=
  w.spxRecord.raise

theorem spxFails {c unit x glob a} {s : State} (w : s.memoryWf) : (Machine.spxFails c unit x glob a s).memoryWf := by
  unfold Machine.spxFails
  dsimp only
  exact w.takeFree.spxRecord.raise.ite w.raise

theorem tileDesc {c o check} {s : State} (w : s.memoryWf) : (Machine.tileDesc c o check s).2.memoryWf := by
  unfold Machine.tileDesc
  dsimp only
  split
  · exact w.unitRead
  · split
    · exact w.unitRead
    · split
      · exact w.unitRead
      · exact w.unitRead

theorem tileLoad {c t} {s : State} (w : s.memoryWf) : (Machine.tileLoad c t s).2.memoryWf := by
  unfold Machine.tileLoad
  dsimp only
  split
  · exact w.unitRead
  · split
    · exact w.unitRead
    · dsimp only
      split
      · exact w.unitRead.takeFree
      · exact w.unitRead

theorem countTile {c path t} {s : State} (w : s.memoryWf) : (Machine.countTile c path t s).memoryWf :=
  w.modCore (by intro k; split <;> rfl)

theorem pairRead {c o path check} {s : State} (w : s.memoryWf) : (Machine.pairRead c o path check s).2.memoryWf := by
  unfold Machine.pairRead
  dsimp only
  split
  · next h => exact w.tileDesc.pair h
  · next h =>
    split
    · next h1 => exact (w.tileDesc.pair h).tileDesc.pair h1
    · next h1 =>
      split
      · next h2 => exact ((w.tileDesc.pair h).tileDesc.pair h1).countTile.tileLoad.pair h2
      · next h2 =>
        split
        · exact ((w.tileDesc.pair h).tileDesc.pair h1).countTile.tileLoad.pair h2
        · split
          · next h4 => exact (((w.tileDesc.pair h).tileDesc.pair h1).countTile.tileLoad.pair h2).tileLoad.pair h4
          · next h4 => exact (((w.tileDesc.pair h).tileDesc.pair h1).countTile.tileLoad.pair h2).tileLoad.pair h4

theorem aTileRead {c o half path check} {s : State} (w : s.memoryWf) :
    (Machine.aTileRead c o half path check s).2.memoryWf := by
  unfold Machine.aTileRead
  split
  · exact w.pairRead
  · split
    · next h1 => exact w.tileDesc.pair h1
    · next h1 => exact (w.tileDesc.pair h1).countTile.tileLoad

theorem aTiles {c o half path check n j acc} {s : State} (w : s.memoryWf) :
    (Machine.aTiles c o half path check n j acc s).2.memoryWf := by
  induction n generalizing j acc s with
  | zero => exact w
  | succ n ih =>
    unfold Machine.aTiles
    split
    · next h => exact ih (w.aTileRead.pair h)
    · next h => exact w.aTileRead.pair h

theorem mmasRun {c x m K q cols rowsB ts bv rowOn part} {s : State} (w : s.memoryWf) :
    (Machine.mmasRun c x m K q cols rowsB ts bv rowOn part s).memoryWf := by
  unfold Machine.mmasRun
  dsimp only
  exact (w.takeFree.countArray.modCore (by intro k; split <;> rfl)).ppBegin.handOff.ppEnd

theorem tileFinish {c m e} {s : State} (w : s.memoryWf) : (Machine.tileFinish c m e s).memoryWf := by
  unfold Machine.tileFinish
  split
  · exact w.spxFails
  · exact w.finish

theorem tileFails {c m r} {s : State} (w : s.memoryWf) : (Machine.tileFails c m r s).memoryWf := by
  unfold Machine.tileFails
  split
  · exact w.spxRaise
  · exact w.tileFinish
  · exact w.modeUndefined.tileFinish

theorem maskRead {c v} {s : State} (w : s.memoryWf) : (Machine.maskRead c v s).2.memoryWf := by
  unfold Machine.maskRead
  split
  · exact w
  · split
    · exact w
    · split
      · next h2 => exact w.tileDesc.pair h2
      · next h2 =>
        split
        · next h3 => exact (w.tileDesc.pair h2).tileLoad.pair h3
        · next h3 => exact (w.tileDesc.pair h2).tileLoad.pair h3

theorem mmasBody {c x m va ob tb K se residue} {s : State} (w : s.memoryWf) :
    (Machine.mmasBody c x m va ob tb K se residue s).memoryWf := by
  unfold Machine.mmasBody
  dsimp only
  split
  · exact w.addFind.raise
  split
  · exact w.addFind.spxRaise
  split
  · next h => exact (w.addFind.maskRead.pair h).tileFails
  next h =>
  have hmask := w.addFind.maskRead.pair h
  split
  · exact hmask.spxRaise
  split
  · next h => exact ((hmask.aTiles.pair h).ite (hmask.aTiles.pair h).modeUndefined).tileFails
  next h =>
  have htiles := hmask.aTiles.pair h
  split
  · exact htiles.operandRead.modeUndefined.tileFinish
  split
  · exact htiles.operandRead.residueFail
  · exact htiles.operandRead.mmasRun.issued

theorem execMmas {c op} {s : State} (w : s.memoryWf) : LeavesWf (Machine.execMmas c op s) := by
  unfold Machine.execMmas
  refine w.coreInstr (w.arrayOn fun s w => ?_)
  extract_lets k K unit outside out
  have hunit : ∀ s, State.memoryWf s → (unit s).memoryWf := fun _ w => w.spxRaise
  split
  · next h => exact firstRaised (fetchRaised (w.tensorFetch.pair h) h hunit) (w.tensorFetch.pair h).raise
  · next h => exact (w.tensorFetch.pair h).raise
  · next h => exact fetchRaised (w.tensorFetch.pair h) h hunit
  · next h =>
    have hb := w.tensorFetch.pair h
    split
    · exact (hunit _ hb).ite hb.mmasBody
    · exact hunit _ hb

theorem countSpx {c i n} {s : State} (w : s.memoryWf) : (Machine.countSpx c i n s).memoryWf :=
  w.modCore (by intro k; split <;> rfl)

theorem haccAdd {c key v} {s : State} (w : s.memoryWf) : (Machine.haccAdd c key v s).2.memoryWf := by
  unfold Machine.haccAdd
  dsimp only
  split
  · exact w.setFlags.modCore
  · split
    · exact w.setFlags.modCore
    · split
      · exact w.setFlags
      · split
        · exact w.setFlags
        · exact w.setFlags.writeTarget.modCore.countSpx

theorem haccLanes {c l} {s : State} (w : s.memoryWf) : (Machine.haccLanes c l s).2.memoryWf := by
  induction l generalizing s with
  | nil => exact w
  | cons x t ih =>
    unfold Machine.haccLanes
    split
    · next h => exact w.setFlags.haccAdd.pair h
    · next h => exact ih (w.setFlags.haccAdd.pair h)

theorem isectsFirst {c l} {s : State} (w : s.memoryWf) : (Machine.isectsFirst c l s).2.memoryWf := by
  induction l generalizing s with
  | nil => exact w
  | cons e t ih =>
    unfold Machine.isectsFirst
    dsimp only
    split
    · exact ih w
    · refine ih ?_
      split
      · exact w.takeFree.haccLanes.spxRecord.raiseAt
      · exact w.takeFree.haccLanes

theorem hacBegin {c f} {s : State} (w : s.memoryWf) (hf : ∀ s, State.memoryWf s → (f s).memoryWf) :
    (Machine.hacBegin c f s).memoryWf :=
  (hf _ w.isectsFirst.setQueue).ite w.isectsFirst.setQueue

theorem execHacc {c v} {s : State} (w : s.memoryWf) : LeavesWf (Machine.execHacc c v s) := by
  unfold Machine.execHacc
  dsimp only
  refine w.coreInstr ?_
  refine w.hacBegin (fun s w => ?_)
  split
  · next h2 => exact (w.haccLanes.pair h2).issued
  · next h2 => exact (w.haccLanes.pair h2).spxRaise

theorem execHclr {c v} {s : State} (w : s.memoryWf) : LeavesWf (Machine.execHclr c v s) :=
  w.coreInstr (w.hacBegin (fun _ w => w.modCore.issued))

theorem spillRead {c n} {s : State} (w : s.memoryWf) : (Machine.spillRead c n s).2.2.memoryWf := by
  induction n generalizing s with
  | zero => exact w
  | succ n ih => exact (ih w).readTarget

theorem flushWrite {c o l n} {s : State} (w : s.memoryWf) : (Machine.flushWrite c o l n s).2.2.memoryWf := by
  induction l generalizing n s with
  | nil => exact w
  | cons e t ih =>
    unfold Machine.flushWrite
    split
    · next h => exact ih (w.unitWrites.pair h)
    · next h => exact w.unitWrites.pair h

theorem ringKeep {c rs} {s : State} (w : s.memoryWf) : (Machine.ringKeep c rs s).memoryWf :=
  (w.foldl (fun _ _ w => w.writeTarget)).modCore

theorem execHflush {c v} {s : State} (w : s.memoryWf) : LeavesWf (Machine.execHflush c v s) := by
  unfold Machine.execHflush
  dsimp only
  refine w.coreInstr ?_
  split
  · exact w.spxRaise
  · split
    · exact w.raise
    · split
      · exact w.raise
      · refine w.hacBegin (fun s w => ?_)
        split
        · exact w.spillRead.raise
        · split
          · exact
              (w.spillRead.setFlags.flushWrite.modCore.ite w.spillRead.setFlags.flushWrite.modCore.ringKeep).spxFails
          · exact
              (w.spillRead.setFlags.flushWrite.modCore.ite w.spillRead.setFlags.flushWrite.modCore.ringKeep).issued

theorem streamRead {c o iw count values} {s : State} (w : s.memoryWf) :
    (Machine.streamRead c o iw count values s).1.s.memoryWf := by
  unfold Machine.streamRead
  dsimp only
  split
  · exact w
  · exact w.unitRead

theorem matchWrite {c o l n} {s : State} (w : s.memoryWf) : (Machine.matchWrite c o l n s).2.memoryWf := by
  induction l generalizing n s with
  | nil => exact w
  | cons x t ih =>
    unfold Machine.matchWrite
    split
    · next h => exact ih (w.unitWrites.pair h)
    · next h => exact w.unitWrites.pair h

theorem isectStops {c} {r : UnitRd} (w : r.s.memoryWf) : (Machine.isectStops c r).memoryWf := by
  unfold Machine.isectStops
  split
  · exact w.spxFails
  · exact w.issued

theorem isectRun {c v out key od m va vb rs} {s : State} (w : s.memoryWf) :
    (Machine.isectRun c v out key od m va vb rs s).memoryWf := by
  unfold Machine.isectRun
  extract_lets n u e fin
  have hu : u.memoryWf := w.countSpx.countSpx
  have hfin : ∀ s, State.memoryWf s → (fin s).memoryWf := fun _ w => w.spxRaise.ite w.issued
  split
  · split
    · next h => exact hfin _ (hu.matchWrite.pair h)
    · next h => exact (hu.matchWrite.pair h).spxFails
  · split
    · split
      next t h =>
      have ht : t.memoryWf := by
        refine State.memoryWf.pair ?_ h
        split
        · exact hu.takeFree.spoilQueue
        · exact hu
      split
      · split
        · next h => exact hfin _ (ht.haccLanes.pair h)
        · next h => exact (ht.haccLanes.pair h).spxRaise
      · exact ht.issued
    · exact hfin _ hu

theorem execIsect {c v} {s : State} (w : s.memoryWf) : LeavesWf (Machine.execIsect c v s) := by
  unfold Machine.execIsect
  dsimp only
  refine w.coreInstr ?_
  split
  · exact w.raise.ite
      (w.raise.ite
        (w.raise.ite
          (w.streamRead.isectStops.ite (w.streamRead.streamRead.isectStops.ite w.streamRead.streamRead.isectRun))))
  · exact w.spxRaise

theorem modSet {d b f} {s : State} (w : s.memoryWf) : (Machine.modSet d b f s).memoryWf := w.modDie

theorem sealSet {d b} {s : State} (w : s.memoryWf) : (Machine.sealSet d b s).memoryWf :=
  (w.modSet.foldl (fun _ _ w => w.pullWake)).ite w.modSet

theorem takePost {c} {s : State} (w : s.memoryWf) : (Machine.takePost c s).memoryWf := w.modCore

theorem postStale {c} {s : State} (w : s.memoryWf) : (Machine.postStale c s).memoryWf := w.modMtu

theorem sealHeads {n c} {s : State} (w : s.memoryWf) : (Machine.sealHeads n c s).memoryWf := by
  induction n generalizing s with
  | zero => exact w
  | succ n ih =>
    unfold Machine.sealHeads
    dsimp only
    split
    · exact (ih (w.takePost.sealSet.ite w.takePost.postStale)).ite w
    · exact w

theorem issuePosts {c e ps} {s : State} (w : s.memoryWf) : (Machine.issuePosts c e ps s).memoryWf :=
  w.modCore.issued.sealHeads

theorem cmprRun {c v fmt post body desc rowBase cols} {s : State} (w : s.memoryWf) :
    (Machine.cmprRun c v fmt post body desc rowBase cols s).memoryWf := by
  unfold Machine.cmprRun
  dsimp only
  split
  · next h => exact (((w.foldl (fun _ _ w => w.clearSlot)).ite w).unitWrites.pair h).spxFails
  · next h => exact (((w.foldl (fun _ _ w => w.clearSlot)).ite w).unitWrites.pair h).countSpx.issuePosts

theorem execCmpr {c v} {s : State} (w : s.memoryWf) : LeavesWf (Machine.execCmpr c v s) := by
  unfold Machine.execCmpr
  dsimp only
  refine w.coreInstr ?_
  split
  · exact w.spxRaise.ite (w.spxRaise.ite w.issuePosts)
  · split
    · exact w.slotsFind.raise
    · exact w.slotsFind.raise
    · exact w.slotsFind.poisonAfter.ite
        (w.slotsFind.spxRaise.ite (w.slotsFind.spxRaise.ite (w.slotsFind.spxRaise.ite w.slotsFind.cmprRun)))

theorem execWbPost {c} {s : State} (w : s.memoryWf) : LeavesWf (Machine.execWbPost c s) := by
  unfold Machine.execWbPost
  dsimp only
  split
  · exact w.next
  · exact w.act (w.takePost.modSet.modDie.countSpx.pullWake.ite w.takePost.postStale).sealHeads

theorem execWbPostTimeout {c} {s : State} (w : s.memoryWf) : LeavesWf (Machine.execWbPostTimeout c s) := by
  unfold Machine.execWbPostTimeout
  dsimp only
  split
  · exact w.next
  · exact w.act w.modDie.spxRecord.modCore.raiseAt

theorem addsArrive {c e} {s : State} (w : s.memoryWf) : (Machine.addsArrive c e s).memoryWf := by
  unfold Machine.addsArrive
  split
  · next h => exact w.haccLanes.pair h
  · next h => exact (w.haccLanes.pair h).spxRecord.raiseAt

theorem execDecoupledCompletion {c q} {s : State} (w : s.memoryWf) : LeavesWf (Machine.execDecoupledCompletion c q s) := by
  unfold Machine.execDecoupledCompletion
  split
  · exact w.next
  · exact w.act w.setQueue.imageArrives.addsArrive.writeResults.resume

end State.memoryWf

end Sys2Proof.Machine
end

section
/-! PROOFS. The canonical form of byte memories: walks and searches. -/

namespace Sys2Proof.Machine

open Sys2Proof

set_option Elab.async false

namespace State.memoryWf

theorem countWk {v i n} {s : State} (w : s.memoryWf) : (Machine.countWk v i n s).memoryWf := w.modWk

theorem wkFault {v i reason} {s : State} (w : s.memoryWf) : (Machine.wkFault v i reason s).memoryWf := w.modWk.logBoth

theorem metPoison {c} {a : Walking} (w : a.s.memoryWf) : (Machine.metPoison c a).s.memoryWf := w.countWk.wkFault

theorem objRead {c a n} {v : Walking} (w : v.s.memoryWf) : (Machine.objRead c a n v).2.2.s.memoryWf := by
  unfold Machine.objRead
  dsimp only
  split
  · exact w.readIva
  · split
    · exact w.readIva
    · exact w.readIva

/-- A read that may have met poison, which is noted. -/
theorem noted {p : Bool} {c} {u : Walking} (w : u.s.memoryWf) : (if p then Machine.metPoison c u else u).s.memoryWf := by
  split
  · exact w.metPoison
  · exact w

theorem visitNode {c n} {v : Walking} (w : v.s.memoryWf) : (Machine.visitNode c n v).s.memoryWf := by
  unfold Machine.visitNode
  split
  · exact w
  · have hread {a k} := objRead (c := c) (a := a) (n := k) (v := { v with visited := n :: v.visited }) w
    dsimp only
    split
    · next h => exact (hread.walked h).noted
    · next h =>
      have hnode := hread.walked h
      split
      · split
        · next h => exact (hnode.objRead.walked h).noted
        · next h => exact (hnode.objRead.walked h).countWk.countWk
      · exact hnode

theorem visitId {c} {v : Walking} {n} (w : v.s.memoryWf) : (Machine.visitId c v n).s.memoryWf := by
  unfold Machine.visitId
  split
  · exact w
  · split
    · exact w.ite w.wkFault
    · exact w.visitNode

theorem visitIds {c} {l : List Nat} {v : Walking} (w : v.s.memoryWf) : (l.foldl (Machine.visitId c) v).s.memoryWf :=
  foldlBy Walking.s w fun _ _ w => w.visitId

theorem expandNode {c n} {v : Walking} (w : v.s.memoryWf) : (Machine.expandNode c n v).s.memoryWf := by
  unfold Machine.expandNode
  extract_lets u
  have hread {a k} := objRead (c := c) (a := a) (n := k) (v := u) w.countWk
  split
  · next h => exact (hread.walked h).noted
  · next h => exact (hread.walked h).visitIds

theorem walkLoop {c f cut} {v : Walking} (w : v.s.memoryWf) : (Machine.walkLoop c f cut v).2.s.memoryWf := by
  induction f generalizing cut v with
  | zero => exact w
  | succ f ih =>
    unfold Machine.walkLoop
    split
    · exact w
    · split
      · exact w
      · split
        · exact w
        · exact ih w.expandNode

theorem rerankLoop {c l acc} {v : Walking} (w : v.s.memoryWf) : (Machine.rerankLoop c l acc v).2.s.memoryWf := by
  induction l generalizing acc v with
  | nil => exact w
  | cons y t ih =>
    unfold Machine.rerankLoop
    split
    · exact w
    · split
      · next h => exact ih (w.objRead.walked h).noted
      · next h => exact ih (w.objRead.walked h)

theorem walkFrom {c entries cut skipped} {s : State} (w : s.memoryWf) :
    (Machine.walkFrom c entries cut skipped s).2.memoryWf := by
  unfold Machine.walkFrom
  dsimp only
  have hwalk := (visitIds (c := c) (l := entries) (v := { s := s }) w).walkLoop (c := c) (f := c.p.maxExp)
    (cut := if c.det then none else cut)
  generalize Machine.walkLoop c c.p.maxExp (if c.det then none else cut)
    (entries.foldl (Machine.visitId c) { s := s }) = r at hwalk ⊢
  have hrank : (if c.p.rerank then Machine.rerankLoop c ((r.2.cand.filter fun y => y.returnable).take c.p.rr) [] r.2
      else ((r.2.cand.filter fun y => y.returnable).map fun y => y.hit, r.2)).2.s.memoryWf := by
    split
    · exact hwalk.rerankLoop
    · exact hwalk
  split
  · exact hrank
  · exact hrank.countWk.ite hrank

theorem queryPoison {wk i} {s : State} (w : s.memoryWf) : (Machine.queryPoison wk i s).2.memoryWf := w.countWk.wkFault

theorem queryRun {who wk x p k det q seeds cut skipped} {s : State} (w : s.memoryWf) :
    (Machine.queryRun who wk x p k det q seeds cut skipped s).2.memoryWf := by
  unfold Machine.queryRun
  dsimp only
  split
  · exact w.readIva
  · split
    · exact w.readIva.queryPoison
    · split
      · exact w.readIva.walkFrom
      · split
        · exact w.readIva.readIva
        · split
          · exact w.readIva.readIva.queryPoison
          · exact w.readIva.readIva.walkFrom

theorem dropSearch {d} {s : State} (w : s.memoryWf) : (Machine.dropSearch d s).memoryWf := w.same

theorem searchEnd {d f} {s : State} (w : s.memoryWf) : (Machine.searchEnd d f s).memoryWf := w.dropSearch.endItem

theorem searchFails {d v i e} {s : State} (w : s.memoryWf) : (Machine.searchFails d v i e s).memoryWf := by
  unfold Machine.searchFails
  split
  · exact w.dropSearch
  · exact w.wkFault.searchEnd
  · exact w.searchEnd

theorem searchInvalid {d v i pois} {s : State} (w : s.memoryWf) : (Machine.searchInvalid d v i pois s).memoryWf :=
  w.wkFault.searchEnd

theorem searchStart {x} {s : State} (w : s.memoryWf) : (Machine.searchStart x s).memoryWf := by
  unfold Machine.searchStart
  extract_lets i w0 who
  split
  · exact w.endInvalid
  split
  next first u h =>
  have hu := w.firstRequests.pair h
  extract_lets pr p xr ok
  have hpr : pr.s.memoryWf := hu.readIva
  have hxr : xr.s.memoryWf := hpr.readIva
  split
  · exact (hu.ite hpr).searchFails
  split
  · exact hpr.searchInvalid
  split
  · exact hxr.searchFails
  · exact hxr.searchInvalid.ite (hxr.searchInvalid.ite (hxr.searchEnd.ite hxr.same))

theorem execSearch {d} {s : State} (w : s.memoryWf) : LeavesWf (Machine.execSearch d s) := by
  unfold Machine.execSearch
  split
  · exact w.next
  · exact w.act w.dispatchStart.searchStart

theorem placeFree {q completed} {s : State} (w : s.memoryWf) : (Machine.placeFree q completed s).memoryWf := w.same

theorem queryDone {d j} {s : State} (w : s.memoryWf) : (Machine.queryDone d j s).memoryWf := by
  unfold Machine.queryDone
  dsimp only
  split
  · exact w.same
  · exact w.same.searchEnd.ite w.same

theorem writeResult {d j a shardsExp pois} {s : State} (w : s.memoryWf) :
    (Machine.writeResult d j a shardsExp pois s).memoryWf := by
  unfold Machine.writeResult
  dsimp only
  split
  · exact w
  · split
    · next h1 => exact ((w.modItem.writeIva.triple h1).ite (w.modItem.writeIva.triple h1).noteEffect).searchFails
    · next h1 =>
      split
      · next h2 => exact ((w.modItem.writeIva.triple h1).noteEffect.writeIva.triple h2).searchFails
      · next h2 => exact ((w.modItem.writeIva.triple h1).noteEffect.writeIva.triple h2).noteEffect.queryDone

theorem dropMerge {src req} {s : State} (w : s.memoryWf) : (Machine.dropMerge src req s).memoryWf := w.same

theorem sendOn {p m} {s : State} (w : s.memoryWf) : (Machine.sendOn p m s).memoryWf := w.portQueue.ite w

theorem rootClose {m d j stop} {s : State} (w : s.memoryWf) : (Machine.rootClose m d j stop s).memoryWf := by
  unfold Machine.rootClose
  dsimp only
  split
  · exact w.dropMerge.countWk.ite w.dropMerge
  · exact
      ((w.dropMerge.countWk.ite w.dropMerge).modItem.wkFault.ite (w.dropMerge.countWk.ite w.dropMerge)).writeResult

theorem branchClose {m up} {s : State} (w : s.memoryWf) : (Machine.branchClose m up s).memoryWf := w.dropMerge.sendOn

theorem mergeCheck {m} {s : State} (w : s.memoryWf) : (Machine.mergeCheck m s).memoryWf := by
  unfold Machine.mergeCheck
  split
  · exact w.rootClose.ite w
  · exact w.branchClose.ite w
  · exact w

theorem mergeUpdate {src req f} {s : State} (w : s.memoryWf) : (Machine.mergeUpdate src req f s).memoryWf := by
  unfold Machine.mergeUpdate
  dsimp only
  split
  · exact w
  · exact w.same.mergeCheck

theorem copyQuery {m mask p} {s : State} (w : s.memoryWf) : (Machine.copyQuery m mask p s).2.memoryWf := by
  unfold Machine.copyQuery
  refine foldlBy Prod.snd w fun r p w => ?_
  split
  · exact w.portQueue
  · exact w

theorem queryMsg {dom id r deadline} {s : State} (w : s.memoryWf) : (Machine.queryMsg dom id r deadline s).2.memoryWf := by
  unfold Machine.queryMsg
  dsimp only
  exact w.takeFree

theorem openRoot {r deadline} {s : State} (w : s.memoryWf) : (Machine.openRoot r deadline s).memoryWf := by
  unfold Machine.openRoot
  extract_lets p id f u full v
  have hv : v.memoryWf := (same w).fabRaise.ite (same w)
  clear_value v
  split
  next n t h =>
  have ht : t.memoryWf := by
    refine State.memoryWf.pair ?_ h
    split
    · exact hv
    · split
      · exact hv
      · exact copyQuery (same hv)
  exact ht.same

theorem jobEnd {r e} {s : State} (w : s.memoryWf) : (Machine.jobEnd r e s).memoryWf := by
  unfold Machine.jobEnd
  dsimp only
  split
  · exact w.placeFree.mergeUpdate
  · split
    · exact w.searchFails
    · refine .writeResult ?_
      split
      · exact w.dropMerge
      · exact w
    · split
      · split
        · exact w.mergeUpdate
        · exact w
      · exact w.writeResult

theorem jobRun {r seeds skipped} {s : State} (w : s.memoryWf) : (Machine.jobRun r seeds skipped s).memoryWf :=
  w.queryRun.jobEnd

theorem jobStart {r} {s : State} (w : s.memoryWf) : (Machine.jobStart r s).memoryWf := (w.same.ite w.jobRun).ite w.jobRun

theorem queryStart {x v j wk cut} {s : State} (w : s.memoryWf) : (Machine.queryStart x v j wk cut s).memoryWf := by
  unfold Machine.queryStart
  dsimp only
  split
  · exact w.modWk.readIva.searchFails
  · split
    · exact w.modWk.readIva.searchInvalid
    · split
      · exact w.modWk.readIva.readIva.searchFails
      · exact w.modWk.readIva.readIva.queryPoison.jobEnd.ite
          (w.modWk.readIva.readIva.openRoot.ite w.modWk.readIva.readIva).jobStart

theorem reqCut {r} {s : State} (w : s.memoryWf) : (Machine.reqCut r s).memoryWf := w.same.countWk.jobEnd

theorem remoteEmpty {m} {s : State} (w : s.memoryWf) : (Machine.remoteEmpty m s).memoryWf := w.mergeUpdate

theorem remoteRun {m i wk} {s : State} (w : s.memoryWf) : (Machine.remoteRun m i wk s).memoryWf := by
  unfold Machine.remoteRun
  dsimp only
  exact w.modWk.readIva.wkFault.placeFree.remoteEmpty.ite
    (w.modWk.readIva.wkFault.placeFree.remoteEmpty.ite w.modWk.readIva.takeFree.jobStart)

theorem remoteTry {s : State} {m} (w : s.memoryWf) : (Machine.remoteTry s m).memoryWf := by
  unfold Machine.remoteTry
  dsimp only
  split
  · exact w
  · exact w.remoteEmpty
  · split
    · exact w.remoteEmpty
    · split
      · exact w.remoteRun
      · exact w.same

theorem remoteServe {s : State} (w : s.memoryWf) : (Machine.remoteServe s).memoryWf :=
  w.ite (w.same.foldl (fun _ _ w => w.remoteTry))

theorem queryArrive {p m} {s : State} (w : s.memoryWf) : (Machine.queryArrive p m s).memoryWf :=
  w.refuse.ite
    (w.refuse.ite
      (w.sendOn.ite
        (w.sendOn.ite (w.fabRaise.sendOn.ite (w.copyQuery.same.remoteTry.ite w.copyQuery.same.mergeCheck)))))

theorem answerArrive {m} {s : State} (w : s.memoryWf) : (Machine.answerArrive m s).memoryWf := w.ite w.mergeUpdate

theorem queryRefused {p q code} {s : State} (w : s.memoryWf) : (Machine.queryRefused p q code s).memoryWf :=
  w.same.sendOn.ite w.mergeUpdate

theorem wkWithdraw {wk} {s : State} (w : s.memoryWf) : (Machine.wkWithdraw wk s).memoryWf := by
  unfold Machine.wkWithdraw
  dsimp only
  refine .remoteServe ?_
  refine w.same.foldl (fun s a w => ?_)
  split
  · exact w.ite w.searchEnd
  · exact w

theorem execSearchQueryStart {d wk cut} {s : State} (w : s.memoryWf) :
    LeavesWf (Machine.execSearchQueryStart d wk cut s) := by
  unfold Machine.execSearchQueryStart
  dsimp only
  split
  · refine w.act ?_
    refine .remoteServe ?_
    split
    · exact w.same.queryStart
    · exact w.same.queryStart
  · exact w.next

theorem execQueryStopTime {d j} {s : State} (w : s.memoryWf) : LeavesWf (Machine.execQueryStopTime d j s) := by
  unfold Machine.execQueryStopTime
  split
  · exact w.act ((w.elim fun _ => w.reqCut).elim fun _ => (w.elim fun _ => w.reqCut).rootClose).remoteServe
  · exact w.next

theorem execMergeTimeout {src req} {s : State} (w : s.memoryWf) : LeavesWf (Machine.execMergeTimeout src req s) := by
  unfold Machine.execMergeTimeout
  split
  · exact w.next
  · refine w.act ?_
    split
    · exact w.rootClose.remoteServe
    · exact w.branchClose
    · exact w

theorem execWkCtrClear {v} {s : State} (w : s.memoryWf) : LeavesWf (Machine.execWkCtrClear v s) := w.act w.modWk

theorem updRead {c a n} {u : Updating} (w : u.s.memoryWf) : (Machine.updRead c a n u).2.2.s.memoryWf := by
  unfold Machine.updRead
  dsimp only
  split
  · exact w
  · exact w.readIva

theorem updWrite {c a d} {u : Updating} (w : u.s.memoryWf) : (Machine.updWrite c a d u).s.memoryWf := by
  unfold Machine.updWrite
  dsimp only
  split
  · exact w
  · exact w.writeIva

theorem updStatus {c at_ code} {u : Updating} (w : u.s.memoryWf) : (Machine.updStatus c at_ code u).s.memoryWf := w.updWrite

theorem backEdge {c id} {r : Bool × Updating} {n} (w : r.2.s.memoryWf) : (Machine.backEdge c id r n).2.s.memoryWf := by
  unfold Machine.backEdge
  dsimp only
  split
  · exact w.updRead
  · split
    · exact w.updRead.updWrite
    · exact w.updRead.countWk.countWk.wkFault.ite w.updRead.countWk

theorem backEdges {c id} {l : List Nat} {r : Bool × Updating} (w : r.2.s.memoryWf) :
    (l.foldl (Machine.backEdge c id) r).2.s.memoryWf :=
  foldlBy (fun r : Bool × Updating => r.2.s) w fun _ _ w => w.backEdge

theorem insertApply {c a id nbrs code vec} {u : Updating} (w : u.s.memoryWf) :
    (Machine.insertApply c a id nbrs code vec u).s.memoryWf := by
  unfold Machine.insertApply
  extract_lets u1 u2 slots u3
  have h2 : u2.s.memoryWf := by
    unfold u2
    split
    · exact w.updWrite.updWrite
    · exact w.updWrite
  have h3 : u3.s.memoryWf := h2.updWrite
  clear_value u3
  split
  next dropped u4 h =>
  have h4 : u4.s.memoryWf := by
    obtain rfl : (if c.x.backEdges then nbrs.foldl (Machine.backEdge c id)
      (false, u3) else (false, u3)).2 = u4 := by rw [h]
    split
    · exact backEdges h3
    · exact h3
  dsimp only
  split
  · exact h4.updWrite.updStatus
  · exact h4.updWrite.updStatus

theorem insertEntry {c a e rec_} {u : Updating} (w : u.s.memoryWf) : (Machine.insertEntry c a e rec_ u).s.memoryWf := by
  unfold Machine.insertEntry
  extract_lets id n
  split
  · exact w.updStatus
  split
  · exact updStatus w
  split
  next d _ u1 h =>
  have h1 := w.updRead.updated h
  extract_lets nbrs
  split
  · exact h1
  split
  · exact h1.updStatus
  split
  · exact h1.updStatus
  split
  next u2 h =>
  have h2 := h1.updRead.updated h
  split
  next u3 h =>
  have h3 : u3.s.memoryWf := by
    refine updated ?_ h
    split
    · exact h2.updRead
    · exact h2
  split
  · exact h3
  split
  · exact h3.updStatus
  · exact h3.insertApply

theorem deleteEntry {c at_ e rec_} {u : Updating} (w : u.s.memoryWf) : (Machine.deleteEntry c at_ e rec_ u).s.memoryWf := by
  unfold Machine.deleteEntry
  dsimp only
  split
  · split
    · exact w.updWrite.updStatus
    · exact w.updWrite.updStatus
  · exact w.updStatus

theorem updateEntry {c list} {u : Updating} {i} (w : u.s.memoryWf) : (Machine.updateEntry c list u i).s.memoryWf := by
  unfold Machine.updateEntry
  extract_lets a
  split
  next e pois u1 h =>
  have h1 := w.updRead.updated h
  split
  · exact h1
  split
  · exact h1.updStatus
  split
  · exact h1.updStatus
  split
  next u2 h =>
  have h2 := h1.updRead.updated h
  split
  · exact h2
  split
  · exact updStatus h2.countWk.wkFault
  split
  · exact h2.insertEntry
  · exact h2.deleteEntry

theorem updateRun {x v} {s : State} (w : s.memoryWf) : (Machine.updateRun x v s).memoryWf := by
  unfold Machine.updateRun
  extract_lets i who a
  split
  next first u h =>
  have hu := w.firstRequests.pair h
  extract_lets xr
  have hxr : xr.s.memoryWf := hu.readIva
  clear_value xr
  split
  · refine endItem ?_
    split
    · exact (hu.ite hxr).wkFault
    · exact hu.ite hxr
  split
  · exact hxr.wkFault.endItem
  split
  · exact hxr.endInvalid
  · next c u1 u2 t _ _ _ _ =>
    have h1 : u1.s.memoryWf := foldlBy (b := { s := xr.s }) Updating.s hxr fun _ _ w => w.updateEntry
    have h2 : u2.s.memoryWf := by
      unfold u2
      split
      · exact h1
      · exact h1.updWrite
    have ht : t.memoryWf := by
      unfold t
      split
      · exact h2.wkFault
      · exact h2
    exact (ht.noteEffect.ite ht).endItem

theorem execIndexUpdate {d wk} {s : State} (w : s.memoryWf) : LeavesWf (Machine.execIndexUpdate d wk s) := by
  unfold Machine.execIndexUpdate
  dsimp only
  split
  · exact w.next
  · exact w.act (w.dispatchStart.endInvalid.ite (w.dispatchStart.endItem.ite w.dispatchStart.updateRun))

end State.memoryWf

end Sys2Proof.Machine
end

section
/-! PROOFS. The canonical form of byte memories: the fabric. -/

namespace Sys2Proof.Machine

open Sys2Proof

set_option Elab.async false

namespace State.memoryWf

theorem sendCtl {l f} {s : State} (w : s.memoryWf) : (Machine.sendCtl l f s).memoryWf := w.modLane.emit

theorem announce {p} {s : State} (w : s.memoryWf) : (Machine.announce p s).memoryWf := w.foldl (fun _ _ w => w.sendCtl)

theorem sendCredit {p} {s : State} (w : s.memoryWf) : (Machine.sendCredit p s).memoryWf := by
  unfold Machine.sendCredit
  split
  · exact w
  · exact w.sendCtl

theorem countLane {l k n} {s : State} (w : s.memoryWf) : (Machine.countLane l k n s).memoryWf := w.modLane

theorem pumpPort {p} {s : State} (w : s.memoryWf) : (Machine.pumpPort p s).memoryWf := w.portPump

theorem reroute {m} {s : State} (w : s.memoryWf) : (Machine.reroute m s).memoryWf := by
  unfold Machine.reroute
  split
  · exact w
  · split
    · next h1 => exact w.routeOut.pair h1
    · next h1 => exact (w.routeOut.pair h1).refuse.ite (w.routeOut.pair h1)

theorem portLeaves {p} {s : State} (w : s.memoryWf) : (Machine.portLeaves p s).memoryWf :=
  w.modPort.foldl (fun _ _ w => w.reroute)

theorem laneFall {l} {s : State} (w : s.memoryWf) : (Machine.laneFall l s).memoryWf := by
  unfold Machine.laneFall
  dsimp only
  split
  · refine .fabRaise ?_
    split
    · exact w.modLane
    · exact w.modLane.foldl (fun _ _ w => w.modLane.sendFlits)
  · exact w

theorem execLaneDown {l} {s : State} (w : s.memoryWf) : LeavesWf (Machine.execLaneDown l s) := w.act w.laneFall

theorem execLaneUp {l} {s : State} (w : s.memoryWf) : LeavesWf (Machine.execLaneUp l s) := by
  unfold Machine.execLaneUp
  exact w.act w.modLane.sendCtl.pumpPort

theorem execLaneRejoin {l} {s : State} (w : s.memoryWf) : LeavesWf (Machine.execLaneRejoin l s) := w.act w.modLane.pumpPort

theorem replayFrom {l e} {s : State} (w : s.memoryWf) : (Machine.replayFrom l e s).memoryWf :=
  w.ite (w.modLane.laneFall.fabRaise.ite (w.modLane.sendCtl.foldl (fun _ _ w => w.emit)).countLane)

theorem execReplayTimeout {l} {s : State} (w : s.memoryWf) : LeavesWf (Machine.execReplayTimeout l s) := w.act w.replayFrom

theorem takeAck {l e} {s : State} (w : s.memoryWf) : (Machine.takeAck l e s).memoryWf := w.ite w.modLane.pumpPort

theorem takeReplay {l e} {s : State} (w : s.memoryWf) : (Machine.takeReplay l e s).memoryWf :=
  w.modLane.ite (w.ite (w.modLane.ite w))

theorem takeTrain {l r} {s : State} (w : s.memoryWf) : (Machine.takeTrain l r s).memoryWf :=
  (w.fabRaise.ite w).modLane.modPort

theorem execControlRecord {l good r} {s : State} (w : s.memoryWf) : LeavesWf (Machine.execControlRecord l good r s) := by
  unfold Machine.execControlRecord
  refine w.act ?_
  extract_lets s1 s2 s3 s4
  have h1 : s1.memoryWf := w.takeTrain.ite w
  have h2 : s2.memoryWf := h1.takeAck.ite h1
  have h3 : s3.memoryWf := h2.replayFrom.ite h2
  have h4 : s4.memoryWf := h3.takeReplay.ite h3
  exact h1.ite (h4.modPort.pumpPort.ite h4)

theorem execAckTimer {l} {s : State} (w : s.memoryWf) : LeavesWf (Machine.execAckTimer l s) := w.act w.modLane.sendCtl

theorem flitLost {l} {s : State} (w : s.memoryWf) : (Machine.flitLost l s).memoryWf :=
  w.modPort.ite w.modPort.modLane.sendCtl.countLane

theorem flitIn {l f} {s : State} (w : s.memoryWf) : (Machine.flitIn l f s).memoryWf :=
  w.modLane.modPort.countLane.modLane.sendCtl.ite w.modLane.modPort.countLane

theorem countFec {l f} {s : State} (w : s.memoryWf) : (Machine.countFec l f s).memoryWf := by
  unfold Machine.countFec
  dsimp only
  exact w.takeFree.countLane.countLane.ite (w.takeFree.countLane.countLane.ite w.takeFree.countLane)

theorem execDataFlit {l f} {s : State} (w : s.memoryWf) : LeavesWf (Machine.execDataFlit l f s) :=
  w.act
    (w.countFec.flitLost.ite
      (w.countFec.countLane.flitLost.ite (w.countFec.ite (w.countFec.modLane.ite w.countFec.flitIn))))

theorem execBubble {l nibble afterFirst remoteAhead} {s : State} (w : s.memoryWf) :
    LeavesWf (Machine.execBubble l nibble afterFirst remoteAhead s) :=
  w.act (w.countLane.flitLost.ite (w.countLane.ite w))

theorem execBubbleSend {l} {s : State} (w : s.memoryWf) : LeavesWf (Machine.execBubbleSend l s) := w.act w.modLane.emit

theorem takeIn {p m} {s : State} (w : s.memoryWf) : (Machine.takeIn p m s).memoryWf := w.modPort.sendCredit

theorem arrive {p m f} {s : State} (w : s.memoryWf) (hf : ∀ s, State.memoryWf s → (f s).memoryWf) :
    (Machine.arrive p m f s).memoryWf :=
  w.takeIn.ite ((w.takeIn.fabRaise.refuse.ite w.takeIn.fabRaise).ite (hf _ w.takeIn))

theorem execFabWrite {p m} {s : State} (w : s.memoryWf) : LeavesWf (Machine.execFabWrite p m s) :=
  w.act (w.arrive (fun _ w => w.performReq))

theorem execFabRead {p m} {s : State} (w : s.memoryWf) : LeavesWf (Machine.execFabRead p m s) :=
  w.act (w.arrive (fun _ w => w.performReq))

theorem execFabLadd {p m} {s : State} (w : s.memoryWf) : LeavesWf (Machine.execFabLadd p m s) :=
  w.act (w.arrive (fun _ w => w.performReq))

theorem execFabFadd {p m} {s : State} (w : s.memoryWf) : LeavesWf (Machine.execFabFadd p m s) :=
  w.act (w.arrive (fun _ w => w.performReq))

theorem execFabLaddt {p m} {s : State} (w : s.memoryWf) : LeavesWf (Machine.execFabLaddt p m s) :=
  w.act (w.arrive (fun _ w => w.performReq))

theorem execFabSend {p m} {s : State} (w : s.memoryWf) : LeavesWf (Machine.execFabSend p m s) :=
  w.act (w.arrive (fun _ w => w.performReq))

theorem execBarArrive {p m} {s : State} (w : s.memoryWf) : LeavesWf (Machine.execBarArrive p m s) :=
  w.act (w.arrive (fun _ w => w.performReq))

theorem execQuery {p m} {s : State} (w : s.memoryWf) : LeavesWf (Machine.execQuery p m s) :=
  w.act (w.arrive (fun _ w => w.queryArrive))

theorem probeArrive {p m} {s : State} (w : s.memoryWf) : (Machine.probeArrive p m s).memoryWf :=
  w.refuse.ite (w.modPort.ite w.portQueue)

theorem execProbe {p m} {s : State} (w : s.memoryWf) : LeavesWf (Machine.execProbe p m s) :=
  w.act (w.arrive (fun _ w => w.probeArrive))

theorem execProbeSend {p} {s : State} (w : s.memoryWf) : LeavesWf (Machine.execProbeSend p s) := by
  unfold Machine.execProbeSend
  dsimp only
  exact w.act w.takeFree.portQueue

theorem rspArrive {m} {s : State} (w : s.memoryWf) : (Machine.rspArrive m s).memoryWf := w.deliverRsp.ite w

theorem execWack {p m} {s : State} (w : s.memoryWf) : LeavesWf (Machine.execWack p m s) :=
  w.act (w.arrive (fun _ w => w.rspArrive))

theorem execRdata {p m} {s : State} (w : s.memoryWf) : LeavesWf (Machine.execRdata p m s) :=
  w.act (w.arrive (fun _ w => w.rspArrive))

theorem execAtmRsp {p m} {s : State} (w : s.memoryWf) : LeavesWf (Machine.execAtmRsp p m s) :=
  w.act (w.arrive (fun _ w => w.rspArrive))

theorem execSack {p m} {s : State} (w : s.memoryWf) : LeavesWf (Machine.execSack p m s) :=
  w.act (w.arrive (fun _ w => w.rspArrive))

theorem refuseArrive {p m} {s : State} (w : s.memoryWf) : (Machine.refuseArrive p m s).memoryWf := by
  unfold Machine.refuseArrive
  split
  · split
    · exact w.queryRefused
    · exact w.rspArrive
  · exact w

theorem execRefuse {p m} {s : State} (w : s.memoryWf) : LeavesWf (Machine.execRefuse p m s) :=
  w.act (w.arrive (fun _ w => w.refuseArrive)).remoteServe

theorem execAnswer {p m} {s : State} (w : s.memoryWf) : LeavesWf (Machine.execAnswer p m s) :=
  w.act (w.arrive (fun _ w => w.answerArrive)).remoteServe

theorem routeArrive {m} {s : State} (w : s.memoryWf) : (Machine.routeArrive m s).memoryWf := w.reroute.ite (w.refuse.ite w)

theorem execMessageRoute {p m} {s : State} (w : s.memoryWf) : LeavesWf (Machine.execMessageRoute p m s) :=
  w.act (w.arrive (fun _ w => w.routeArrive))

theorem fabObserve {i} {s : State} (w : s.memoryWf) : (Machine.fabObserve i s).memoryWf := w.same

end State.memoryWf

end Sys2Proof.Machine
end

section
/-! PROOFS. The canonical form of byte memories: Halo. -/

namespace Sys2Proof.Machine

open Sys2Proof

set_option Elab.async false

namespace State.memoryWf

theorem modHalo {f} {s : State} (w : s.memoryWf) : (Machine.modHalo f s).memoryWf := w.same

theorem modLoop {l f} {s : State} (w : s.memoryWf) : (Machine.modLoop l f s).memoryWf := w.modHalo

theorem htuDark {s : State} (w : s.memoryWf) : (Machine.htuDark s).memoryWf := w.modHalo

theorem loopDown {l} {s : State} (w : s.memoryWf) : (Machine.loopDown l s).memoryWf := by
  unfold Machine.loopDown
  dsimp only
  split
  · exact (w.htuDark.ite w).laneFall
  · exact w.htuDark.ite w

theorem htuErrs {s : State} (w : s.memoryWf) : (Machine.htuErrs s).2.memoryWf := w.same

theorem countHalo {k n} {s : State} (w : s.memoryWf) : (Machine.countHalo k n s).memoryWf := w.modHalo

theorem htuVectors {who d inA outA bound n k} {s : State} (w : s.memoryWf) :
    (Machine.htuVectors who d inA outA bound n k s).2.memoryWf := by
  induction n generalizing k s with
  | zero => exact w
  | succ n ih =>
    unfold Machine.htuVectors
    dsimp only
    split
    · exact w.readIva
    · split
      · next h => exact w.readIva.htuErrs.countHalo.writeIva.triple h
      · next h => exact ih (w.readIva.htuErrs.countHalo.writeIva.triple h).modItem.noteEffect.countHalo.modHalo

theorem recharDone {s : State} (w : s.memoryWf) : (Machine.recharDone s).memoryWf := w.modHalo.countHalo

theorem recharTurn {s : State} (w : s.memoryWf) : (Machine.recharTurn s).memoryWf := w.recharDone.ite w

theorem htuEnd {f} {s : State} (w : s.memoryWf) : (Machine.htuEnd f s).memoryWf := by
  unfold Machine.htuEnd
  split
  · exact w
  · exact w.modHalo.endItem.recharTurn

theorem htuGo {s : State} (w : s.memoryWf) : (Machine.htuGo s).memoryWf := by
  unfold Machine.htuGo
  dsimp only
  split
  · exact w
  · split
    · exact w.modHalo
    · split
      · exact w.htuVectors.modHalo
      · exact w.htuVectors.htuEnd
      · exact w.htuVectors.htuEnd

theorem readImage {who a} {s : State} (w : s.memoryWf) : (Machine.readImage who a s).2.memoryWf := by
  unfold Machine.readImage
  dsimp only
  split
  · exact w
  · split
    · exact w.readIva
    · exact w.readIva

theorem loadImage {i gen a d} {s : State} (w : s.memoryWf) : (Machine.loadImage i gen a d s).memoryWf := w.modHalo

theorem htuTake {d} {s : State} (w : s.memoryWf) : (Machine.htuTake d s).memoryWf := w.modHalo.htuGo.ite w.modHalo

theorem htuStart {x} {s : State} (w : s.memoryWf) : (Machine.htuStart x s).memoryWf := by
  unfold Machine.htuStart
  dsimp only
  split
  · exact w.endInvalid
  · split
    · exact w.endItem
    · split
      · exact w.endInvalid
      · split
        · next h3 => exact (w.firstRequests.pair h3).endItem
        · next h3 =>
          split
          · exact (w.firstRequests.pair h3).htuTake
          · split
            · next h5 => exact ((w.firstRequests.pair h3).readImage.pair h5).endItem
            · next h5 => exact ((w.firstRequests.pair h3).readImage.pair h5).endItem
            · next h5 => exact ((w.firstRequests.pair h3).readImage.pair h5).endInvalid
            · next h5 => exact ((w.firstRequests.pair h3).readImage.pair h5).loadImage.htuTake

theorem execHtuRun {d} {s : State} (w : s.memoryWf) : LeavesWf (Machine.execHtuRun d s) := by
  unfold Machine.execHtuRun
  split
  · exact w.next
  · exact w.act w.dispatchStart.htuStart

theorem htuLight {s : State} (w : s.memoryWf) : (Machine.htuLight s).memoryWf :=
  (w.modHalo.ite w.modHalo.modHalo.recharTurn.htuGo).ite w

theorem execHtuMatrixLocked {s : State} (w : s.memoryWf) : LeavesWf (Machine.execHtuMatrixLocked s) :=
  w.act (w.modHalo.countHalo.recharDone.ite w.modHalo.countHalo).htuLight

theorem execHtuRecharacterise {s : State} (w : s.memoryWf) : LeavesWf (Machine.execHtuRecharacterise s) :=
  w.act (w.modHalo.ite w.recharDone)

theorem sketchOuts {l n b} {s : State} (w : s.memoryWf) : (Machine.sketchOuts l n b s).2.memoryWf := by
  induction n generalizing b s with
  | zero => exact w
  | succ n ih => exact ih w.htuErrs

theorem htuServe {r} {s : State} (w : s.memoryWf) : (Machine.htuServe r s).memoryWf := by
  unfold Machine.htuServe
  dsimp only
  split
  · exact w.sketchOuts.readIva.jobEnd
  · exact w.sketchOuts.readIva.queryPoison.jobEnd.ite w.sketchOuts.readIva.jobRun

theorem htuTakeReq {r} {s : State} (w : s.memoryWf) : (Machine.htuTakeReq r s).memoryWf := w.modHalo

theorem execHtuWalkerRequest {s : State} (w : s.memoryWf) : LeavesWf (Machine.execHtuWalkerRequest s) := by
  unfold Machine.execHtuWalkerRequest
  split
  · exact w.next
  · exact w.act w.reqCut.remoteServe
  · refine w.act ?_
    refine .remoteServe ?_
    split
    · exact w.htuTakeReq.jobRun
    · split
      · exact w.htuTakeReq.htuServe
      · split
        · exact w
        · split
          · next h6 => exact (w.readImage.pair h6).loadImage
          · next h6 => exact (w.readImage.pair h6).htuTakeReq.jobEnd
          · next h6 => exact (w.readImage.pair h6).htuTakeReq.jobRun

theorem loopLoses {l st} {s : State} (w : s.memoryWf) : (Machine.loopLoses l st s).memoryWf := w.ite w.modLoop

theorem execLaserOffGrid {n} {s : State} (w : s.memoryWf) : LeavesWf (Machine.execLaserOffGrid n s) :=
  w.act w.haloRaise.loopLoses.loopDown

theorem laserOut {n} {s : State} (w : s.memoryWf) : (Machine.laserOut n s).memoryWf := w.modLoop.modHalo.loopDown

theorem execLaserPowerLow {n} {s : State} (w : s.memoryWf) : LeavesWf (Machine.execLaserPowerLow n s) :=
  w.act w.haloRaise.laserOut

theorem ringLost {r} {s : State} (w : s.memoryWf) : (Machine.ringLost r s).memoryWf := w.haloRaise.loopLoses.loopDown

theorem execRingUnlock {r} {s : State} (w : s.memoryWf) : LeavesWf (Machine.execRingUnlock r s) := w.act w.ringLost

theorem execHeaterAtLimit {l} {s : State} (w : s.memoryWf) : LeavesWf (Machine.execHeaterAtLimit l s) :=
  w.act w.haloRaise.loopLoses.loopDown

theorem htuOut {cause} {s : State} (w : s.memoryWf) : (Machine.htuOut cause s).memoryWf :=
  (w.modHalo.unitFault.htuEnd.foldl (fun _ _ w => w.htuTakeReq.jobRun)).remoteServe

theorem execMonitorStuck {l} {s : State} (w : s.memoryWf) : LeavesWf (Machine.execMonitorStuck l s) := by
  unfold Machine.execMonitorStuck
  dsimp only
  refine w.act ?_
  split
  · exact w.haloRaise.modLoop.laserOut
  · exact w.haloRaise.modLoop.loopDown.ite w.haloRaise.modLoop.haloRaise.htuOut

theorem execHtuLoopUnlock {l} {s : State} (w : s.memoryWf) : LeavesWf (Machine.execHtuLoopUnlock l s) :=
  w.act w.haloRaise.loopLoses.loopDown

theorem execHtuRelockTimeout {s : State} (w : s.memoryWf) : LeavesWf (Machine.execHtuRelockTimeout s) :=
  w.act (w.elim (fun _ => w.modItem)).haloRaise.htuOut

theorem execLoopRelock {l} {s : State} (w : s.memoryWf) : LeavesWf (Machine.execLoopRelock l s) :=
  w.act (w.modLoop.htuLight.ite w.modLoop)

theorem haloDark {s : State} (w : s.memoryWf) : (Machine.haloDark s).memoryWf :=
  w.htuDark.modHalo.foldl (fun _ _ w => w.laneFall)

theorem execLaserOverTemp {s : State} (w : s.memoryWf) : LeavesWf (Machine.execLaserOverTemp s) :=
  w.act w.modHalo.haloRaise.haloDark

theorem execLaserCooledRecalibration {temp} {s : State} (w : s.memoryWf) :
    LeavesWf (Machine.execLaserCooledRecalibration temp s) :=
  w.act w.modHalo

theorem execCalibrationStart {s : State} (w : s.memoryWf) : LeavesWf (Machine.execCalibrationStart s) := w.act w.modHalo

theorem execCalibrationTempReady {temp} {s : State} (w : s.memoryWf) : LeavesWf (Machine.execCalibrationTempReady temp s) :=
  w.act w.modHalo

theorem calHtu {ok} {s : State} (w : s.memoryWf) : (Machine.calHtu ok s).memoryWf :=
  (w.haloRaise.htuOut.ite w.haloRaise.modHalo).ite (w.modHalo.ite w.modHalo)

theorem calEnd {r} {s : State} (w : s.memoryWf) : (Machine.calEnd r s).memoryWf := by
  unfold Machine.calEnd
  extract_lets u h v
  have hu : u.memoryWf := w.modHalo
  clear_value u
  have hv : v.memoryWf := (same hu).iter fun _ _ w => w.haloRaise
  exact (hv.ite hv.calHtu).htuLight

theorem execCalibrationDone {r} {s : State} (w : s.memoryWf) : LeavesWf (Machine.execCalibrationDone r s) := w.act w.calEnd

theorem execCalibrationTempTimeout {s : State} (w : s.memoryWf) : LeavesWf (Machine.execCalibrationTempTimeout s) :=
  w.act w.calEnd

theorem execHaloWarmupTimeout {s : State} (w : s.memoryWf) : LeavesWf (Machine.execHaloWarmupTimeout s) := w.act w.calEnd

end State.memoryWf

end Sys2Proof.Machine
end

section
/-! PROOFS. The canonical form of byte memories: Tide, the sample port and time. -/

namespace Sys2Proof.Machine

open Sys2Proof

set_option Elab.async false

namespace State.memoryWf

theorem modTide {f} {s : State} (w : s.memoryWf) : (Machine.modTide f s).memoryWf := w.same

theorem tideEvaluate {s : State} (w : s.memoryWf) : (Machine.tideEvaluate s).memoryWf := w.modTide.tideRaise.ite w.modTide

theorem execHeaterLoopUpdate {l error drive} {s : State} (w : s.memoryWf) :
    LeavesWf (Machine.execHeaterLoopUpdate l error drive s) := by
  unfold Machine.execHeaterLoopUpdate
  dsimp only
  refine w.act ?_
  refine .tideEvaluate ?_
  split
  · exact
      (w.takeFree.takeFree.modLoop.ite
        (w.takeFree.takeFree.modLoop.loopLoses.loopDown.ite w.takeFree.takeFree.modLoop.ringLost)).modHalo
  · exact
      (w.takeFree.takeFree.modLoop.ite
        (w.takeFree.takeFree.modLoop.loopLoses.loopDown.ite w.takeFree.takeFree.modLoop.ringLost)).modHalo

theorem lowerAll {n} {s : State} (w : s.memoryWf) : (Machine.lowerAll n s).memoryWf := w.modTide

theorem raiseTargets {s : State} (w : s.memoryWf) : (Machine.raiseTargets s).memoryWf := by
  unfold Machine.raiseTargets
  dsimp only
  exact w.foldl (fun _ _ w => w.takeFree.modTide)

theorem thermalStep {s : State} (w : s.memoryWf) : (Machine.thermalStep s).memoryWf := w.modTide.lowerAll

theorem tideThermal {s : State} (w : s.memoryWf) : (Machine.tideThermal s).memoryWf :=
  (w.modTide.ite (w.thermalStep.ite w)).ite (w.modTide.tideRaise.thermalStep.ite w)

theorem tideTargets {s : State} (w : s.memoryWf) : (Machine.tideTargets s).memoryWf :=
  w.tideThermal.lowerAll.ite (w.tideThermal.ite w.tideThermal.raiseTargets)

theorem tidePace {busy} {s : State} {d} (w : s.memoryWf) : (Machine.tidePace busy s d).memoryWf := by
  unfold Machine.tidePace
  dsimp only
  exact w.takeFree.takeFree.modTide

theorem execTideWindow {power busy} {s : State} (w : s.memoryWf) : LeavesWf (Machine.execTideWindow power busy s) :=
  w.act ((w.modTide.modTide.tideRaise.ite w.modTide).tideEvaluate.foldl (fun _ _ w => w.tidePace)).tideTargets

theorem execTideHoldTimeout {d} {s : State} (w : s.memoryWf) : LeavesWf (Machine.execTideHoldTimeout d s) :=
  w.act w.modTide.tideRaise

theorem dvfsStart {d mhz} {s : State} (w : s.memoryWf) : (Machine.dvfsStart d mhz s).memoryWf := w.ite w.modDie.emit

theorem execDvfsChange {d mhz} {s : State} (w : s.memoryWf) : LeavesWf (Machine.execDvfsChange d mhz s) := w.act w.dvfsStart

theorem execDvfsVoltageReached {d} {s : State} (w : s.memoryWf) : LeavesWf (Machine.execDvfsVoltageReached d s) := by
  unfold Machine.execDvfsVoltageReached
  split
  · exact w.next
  · exact w.act w.modDie

theorem execRegulatorTimeout {d} {s : State} (w : s.memoryWf) : LeavesWf (Machine.execRegulatorTimeout d s) :=
  w.act w.modDie.logPf

theorem execPmAlert {s : State} (w : s.memoryWf) : LeavesWf (Machine.execPmAlert s) := w.act (w.iter (fun _ _ w => w.logPf))

theorem modSp {f} {s : State} (w : s.memoryWf) : (Machine.modSp f s).memoryWf := w.same

theorem spHold {s : State} (w : s.memoryWf) : (Machine.spHold s).memoryWf := w.modSp.pfIrq.ite w.modSp

theorem spLossEnd {s : State} (w : s.memoryWf) : (Machine.spLossEnd s).memoryWf := w.modSp.ite w

theorem spLevel {s : State} (w : s.memoryWf) : (Machine.spLevel s).memoryWf :=
  ((w.ite w.spHold).ite (w.modSp.ite w)).spLossEnd

theorem spStore {d v} {s : State} (w : s.memoryWf) : (Machine.spStore d v s).memoryWf := w.modSp.ite w

theorem spFlushAll {flag} {s : State} (w : s.memoryWf) : (Machine.spFlushAll flag s).memoryWf := w.modSp.spLevel

theorem execSpFlush {s : State} (w : s.memoryWf) : LeavesWf (Machine.execSpFlush s) := w.act w.spFlushAll

theorem execQblockPtrMismatch {s : State} (w : s.memoryWf) : LeavesWf (Machine.execQblockPtrMismatch s) :=
  w.act w.spFlushAll.modSp.spRaise

theorem spQbWrite {v} {s : State} (w : s.memoryWf) : (Machine.spQbWrite v s).memoryWf := w.modSp.spLevel.ite w

theorem execSpQbCfgWrite {v} {s : State} (w : s.memoryWf) : LeavesWf (Machine.execSpQbCfgWrite v s) := w.act w.spQbWrite

theorem capArm {x} {s : State} (w : s.memoryWf) : (Machine.capArm x s).memoryWf := by
  unfold Machine.capArm
  dsimp only
  split
  · next h => exact (w.firstRequests.pair h).endEarly
  · next h => exact (w.firstRequests.pair h).modSp

theorem execCapture {d} {s : State} (w : s.memoryWf) : LeavesWf (Machine.execCapture d s) := by
  unfold Machine.execCapture
  dsimp only
  split
  · exact w.next
  · exact w.act (w.startItem.endInvalid.ite (w.startItem.endEarly.ite w.startItem.capArm))

theorem execCaptureShed {d} {s : State} (w : s.memoryWf) : LeavesWf (Machine.execCaptureShed d s) := by
  unfold Machine.execCaptureShed
  dsimp only
  split
  · exact w.next
  · exact w.act w.modSp.endEarly.spRaise

theorem beatLost {v} {s : State} (w : s.memoryWf) : (Machine.beatLost v s).memoryWf :=
  w.modSp.spRaise.ite (w.modSp.modSp.pfIrq.ite w.modSp.modSp)

theorem packEnd {v} {s : State} (w : s.memoryWf) : (Machine.packEnd v s).memoryWf := w.ite (w.spStore.ite w.beatLost)

theorem spClose {s : State} (w : s.memoryWf) : (Machine.spClose s).memoryWf := by
  unfold Machine.spClose
  dsimp only
  split
  · exact w
  · exact w.packEnd.modSp.spLevel

theorem windowTurn {frm} {s : State} (w : s.memoryWf) : (Machine.windowTurn frm s).memoryWf := by
  unfold Machine.windowTurn
  dsimp only
  split
  · split
    · exact w.spClose.ite w
    · exact (w.spClose.ite w).modSp.ite (w.spClose.ite w)
  · exact w.spClose.ite w

theorem execWindowOpen {frm} {s : State} (w : s.memoryWf) : LeavesWf (Machine.execWindowOpen frm s) := w.act w.windowTurn

theorem execWindowClose {s : State} (w : s.memoryWf) : LeavesWf (Machine.execWindowClose s) := w.act w.spClose

theorem execSpClkLoss {s : State} (w : s.memoryWf) : LeavesWf (Machine.execSpClkLoss s) := by
  unfold Machine.execSpClkLoss
  dsimp only
  refine w.act ?_
  split
  · exact w.modSp
  · exact w.modSp.modSp.spRaise.spClose.ite w.modSp.modSp.spRaise

theorem packIn {d b} {s : State} (w : s.memoryWf) : (Machine.packIn d b s).memoryWf := w.modSp.spStore.ite w.modSp

theorem beatIn {v x rise fall} {s : State} (w : s.memoryWf) : (Machine.beatIn v x rise fall s).memoryWf :=
  w.modSp.spClose.ite
    (w.beatLost.ite (w.modSp.modItem.packIn.spLevel.modSp.spClose.ite w.modSp.modItem.packIn.spLevel))

theorem noteFrm {frm} {s : State} (w : s.memoryWf) : (Machine.noteFrm frm s).memoryWf := w.modSp

theorem execSampleBeat {rise fall frm} {s : State} (w : s.memoryWf) : LeavesWf (Machine.execSampleBeat rise fall frm s) := by
  unfold Machine.execSampleBeat
  dsimp only
  refine w.act ?_
  split
  · exact w.modSp.windowTurn.noteFrm.spLossEnd
  · split
    · exact w.modSp.windowTurn.noteFrm.spLossEnd
    · split
      · exact w.modSp.windowTurn.noteFrm.spLossEnd
      · exact w.modSp.windowTurn.noteFrm.spLossEnd.beatIn

theorem capDrop {d} {s : State} (w : s.memoryWf) : (Machine.capDrop d s).memoryWf := w.modSp

theorem capFails {v x e} {s : State} (w : s.memoryWf) : (Machine.capFails v x e s).memoryWf := by
  unfold Machine.capFails
  dsimp only
  split
  · exact w
  · exact (w.spClose.ite w).spFlushAll.capDrop.endItem

theorem modWindow {d f} {s : State} (w : s.memoryWf) : (Machine.modWindow d f s).memoryWf := w.modSp

theorem execCaptureWordDrain {s : State} (w : s.memoryWf) : LeavesWf (Machine.execCaptureWordDrain s) := by
  unfold Machine.execCaptureWordDrain
  dsimp only
  split
  · exact w.next
  · refine w.act ?_
    split
    · split
      · next h3 => exact (w.writeIva.triple h3).capFails
      · next h3 => exact (w.writeIva.triple h3).modSp.modWindow.modItem.spLevel
    · exact w.modSp.spLevel

theorem execCaptureHeaderWrite {s : State} (w : s.memoryWf) : LeavesWf (Machine.execCaptureHeaderWrite s) := by
  unfold Machine.execCaptureHeaderWrite
  split
  · exact w.next
  · refine w.act ?_
    split
    · exact w.capDrop
    · split
      · next h3 => exact (w.writeIva.triple h3).capFails
      · next h3 => exact (w.writeIva.triple h3).capDrop.endItem

theorem capObserve {i} {s : State} (w : s.memoryWf) : (Machine.capObserve i s).memoryWf :=
  w.ite (w.spFlushAll.foldl (fun _ _ w => w.capDrop))

theorem modEph {f} {s : State} (w : s.memoryWf) : (Machine.modEph f s).memoryWf := w.same

theorem ephEnter {st} {s : State} (w : s.memoryWf) : (Machine.ephEnter st s).memoryWf := w.ite w.modEph.ephRaise

theorem ephStep {lin} {s : State} (w : s.memoryWf) : (Machine.ephStep lin s).memoryWf := w.modEph.ephRaise

theorem ephLoad {s : State} (w : s.memoryWf) : (Machine.ephLoad s).memoryWf :=
  w.modEph.ephStep.modEph.ephRaise.ephEnter.ite w.modEph.ephStep.modEph.ephRaise

theorem ppsLose {s : State} (w : s.memoryWf) : (Machine.ppsLose s).memoryWf :=
  w.modEph.ephRaise.ephEnter.ite w.modEph.ephRaise

theorem ephLock {s : State} (w : s.memoryWf) : (Machine.ephLock s).memoryWf := w.ephEnter.ite w

theorem ephRequal {err} {s : State} (w : s.memoryWf) : (Machine.ephRequal err s).memoryWf :=
  w.modEph.modEph.ephLock.ite
    (w.modEph.modEph.ite ((w.modEph.ephStep.ephLock.ite w.modEph.modEph.ephRaise).ite w.modEph.modEph.ephEnter))

theorem ephQualified {s : State} (w : s.memoryWf) : (Machine.ephQualified s).memoryWf :=
  w.ephLoad.ite ((w.ephRequal.ite (w.modEph.ite w)).ite w)

theorem ephJudge {err at_} {s : State} (w : s.memoryWf) : (Machine.ephJudge err at_ s).memoryWf := by
  unfold Machine.ephJudge
  extract_lets s1 s2 s3
  have h2 : s2.memoryWf := w.modEph.modEph
  have h3 : s3.memoryWf := w.modEph.modEph.ephRaise
  exact (h2.ephQualified.ite (h2.modEph.ephQualified.ite h2)).ite ((h3.ppsLose.ite h3.ephQualified).ite h3)

theorem execTodArm {s : State} (w : s.memoryWf) : LeavesWf (Machine.execTodArm s) := w.act w.modEph

theorem execTodCancel {x0} {s : State} (w : s.memoryWf) : LeavesWf (Machine.execTodCancel x0 s) := w.act w.modEph

theorem execPllLock {ppm} {s : State} (w : s.memoryWf) : LeavesWf (Machine.execPllLock ppm s) := w.act w.modEph

theorem execTrefQualify {ppm} {s : State} (w : s.memoryWf) : LeavesWf (Machine.execTrefQualify ppm s) := w.act w.modEph

theorem execTrefLoss {s : State} (w : s.memoryWf) : LeavesWf (Machine.execTrefLoss s) :=
  w.act ((w.modEph.ephRaise.ite w.modEph).ephEnter.ite (w.modEph.ephRaise.ite w.modEph))

theorem execPpsEdge {s : State} (w : s.memoryWf) : LeavesWf (Machine.execPpsEdge s) := by
  unfold Machine.execPpsEdge
  dsimp only
  refine w.act ?_
  split
  · exact w.ephJudge
  · split
    · exact w.modEph
    · exact w.ephJudge

theorem execPpsLoss {s : State} (w : s.memoryWf) : LeavesWf (Machine.execPpsLoss s) := w.act w.ppsLose

theorem execPhaseSlewDone {residual} {s : State} (w : s.memoryWf) : LeavesWf (Machine.execPhaseSlewDone residual s) :=
  w.act (w.modEph.modEph.ephEnter.ite w.modEph)

theorem execHoldLimitExpiry {s : State} (w : s.memoryWf) : LeavesWf (Machine.execHoldLimitExpiry s) := w.act w.ephEnter

theorem evtDrive {n l} {s : State} (w : s.memoryWf) : (Machine.evtDrive n l s).memoryWf := w.modPin.emit

theorem evtDone {d r late} {s : State} (w : s.memoryWf) : (Machine.evtDone d r late s).memoryWf := w.noteEffect.endItem

theorem evtShed {d} {s : State} (w : s.memoryWf) : (Machine.evtShed d s).memoryWf := w.endItem

theorem execEvtAction {pin} {s : State} (w : s.memoryWf) : LeavesWf (Machine.execEvtAction pin s) := by
  unfold Machine.execEvtAction
  dsimp only
  split
  · exact w.next
  · refine w.act ?_
    split
    · exact w.modPin.evtShed
    · split
      · exact w.modPin.evtDrive.evtDone
      · exact w.modPin.evtDrive.evtDone
      · exact w.modPin.evtDrive.evtDone
      · exact w.modPin.evtDrive.modPin.noteEffect
      · exact w.modPin

theorem execEvtPulseFall {pin} {s : State} (w : s.memoryWf) : LeavesWf (Machine.execEvtPulseFall pin s) := by
  unfold Machine.execEvtPulseFall
  dsimp only
  split
  · exact w.next
  · exact w.act w.modPin.evtDrive.evtDone

theorem execEvtHeldExpiry {d} {s : State} (w : s.memoryWf) : LeavesWf (Machine.execEvtHeldExpiry d s) := by
  unfold Machine.execEvtHeldExpiry
  dsimp only
  split
  · exact w.next
  · exact w.act (w.modPin.evtShed.ite w.modPin)

theorem execEvtinEdge {n rising} {s : State} (w : s.memoryWf) : LeavesWf (Machine.execEvtinEdge n rising s) :=
  w.act ((w.same.pfIrq.ite w.same).ite w.same)

end State.memoryWf

end Sys2Proof.Machine
end

section
/-! PROOFS. The canonical form of byte memories: engines and memory upkeep. -/

namespace Sys2Proof.Machine

open Sys2Proof

set_option Elab.async false

namespace State.memoryWf

theorem dmaStart {x c named work} {s : State} (w : s.memoryWf) (hwork : ∀ x0 s, State.memoryWf s → (work x0 s).memoryWf) :
    (Machine.dmaStart x c named work s).memoryWf := by
  unfold Machine.dmaStart
  dsimp only
  split
  · exact w.endEarly
  · split
    · next h1 => exact (w.firstRequests.pair h1).endItem
    · next h1 => exact hwork _ _ (w.firstRequests.pair h1)

theorem freeBytes {n} {s : State} (w : s.memoryWf) : (Machine.freeBytes n s).2.memoryWf := by
  unfold Machine.freeBytes
  dsimp only
  exact w.takeFree

theorem copyChunk {v src dst c} {r : Copy} (w : r.s.memoryWf) : (Machine.copyChunk v src dst c r).s.memoryWf := by
  unfold Machine.copyChunk
  dsimp only
  split
  · exact w
  · split
    · split
      · next h2 => exact w.writeLine.pair h2
      · next h2 => exact w.writeLine.pair h2
    · split
      · exact w.readIva
      · split
        · split
          · next h4 => exact w.readIva.freeBytes.writeLine.pair h4
          · next h4 => exact w.readIva.freeBytes.writeLine.pair h4
        · split
          · next h4 => exact w.readIva.writeLine.pair h4
          · next h4 => exact w.readIva.writeLine.pair h4

theorem chooseChunks {stop l} {s : State} (w : s.memoryWf) : (Machine.chooseChunks stop l s).2.memoryWf := by
  induction l generalizing s with
  | nil => exact w
  | cons c t ih =>
    unfold Machine.chooseChunks
    split
    · exact ih w
    · exact ih w.takeFree

theorem copyChunks {v src dst} {l : List (Nat × Nat)} {r : Copy} (w : r.s.memoryWf) :
    (l.foldl (fun r c => Machine.copyChunk v src dst c r) r).s.memoryWf :=
  foldlBy Copy.s w fun _ _ w => w.copyChunk

theorem copyRun {v src dst n} {r : Copy} (w : r.s.memoryWf) : (Machine.copyRun v src dst n r).s.memoryWf := by
  unfold Machine.copyRun
  split
  · exact w.copyChunks
  · exact copyChunks (w.chooseChunks)

theorem dmaEnd {x result} {r : Copy} (w : r.s.memoryWf) : (Machine.dmaEnd x result r).memoryWf := w.logSpread.endItem

theorem dmaCopyRun {x v} {s : State} (w : s.memoryWf) : (Machine.dmaCopyRun x v s).memoryWf := w.copyRun.dmaEnd

theorem execDmaCopy {d ch err} {s : State} (w : s.memoryWf) : LeavesWf (Machine.execDmaCopy d ch err s) := by
  unfold Machine.execDmaCopy
  split
  · exact w.next
  · exact w.act (w.dispatchStart.upset.dmaStart (fun _ _ w => w.dmaCopyRun))

theorem gatherRun {v dst0 total l dst done} {r : Copy} (w : r.s.memoryWf) :
    (Machine.gatherRun v dst0 total l dst done r).2.s.memoryWf := by
  induction l generalizing dst done r with
  | nil => exact w
  | cons x t ih =>
    unfold Machine.gatherRun
    dsimp only
    split
    · exact w.copyRun
    · exact ih w.copyRun

theorem dmaGatherRun {x v} {s : State} (w : s.memoryWf) : (Machine.dmaGatherRun x v s).memoryWf := by
  unfold Machine.dmaGatherRun
  dsimp only
  split
  · exact w.readIva.endItem
  · exact w.readIva.endItem.ite (w.readIva.endInvalid.ite w.readIva.gatherRun.dmaEnd)

theorem execDmaGather {d ch err} {s : State} (w : s.memoryWf) : LeavesWf (Machine.execDmaGather d ch err s) := by
  unfold Machine.execDmaGather
  split
  · exact w.next
  · exact w.act (w.dispatchStart.upset.dmaStart (fun _ _ w => w.dmaGatherRun))

theorem eventStart {d a pin} {s : State} (w : s.memoryWf) : (Machine.eventStart d a pin s).memoryWf :=
  w.startItem.modPin.ite w.startItem.endInvalid

theorem execEvent {d} {s : State} (w : s.memoryWf) : LeavesWf (Machine.execEvent d s) := by
  unfold Machine.execEvent
  dsimp only
  split
  · exact w.next
  · exact w.act (w.eventStart.ite w.modPin)

theorem execEvtEnqueue {pin} {s : State} (w : s.memoryWf) : LeavesWf (Machine.execEvtEnqueue pin s) := by
  unfold Machine.execEvtEnqueue
  split
  · exact w.next
  · exact w.act w.modPin.eventStart

theorem logBadTables {i} {s : State} (w : s.memoryWf) : (Machine.logBadTables i s).memoryWf :=
  w.foldl (fun _ _ w => w.findErrors.logPf)

theorem scrubNext {pool} {s : State} (w : s.memoryWf) : (Machine.scrubNext pool s).memoryWf := w.same.ite (w.same.ite w.same)

theorem scrubLine {a} {s : State} (w : s.memoryWf) : (Machine.scrubLine a s).memoryWf := by
  unfold Machine.scrubLine
  dsimp only
  split
  · exact w
  · split
    · exact w
    · exact w.same.logPf
    · exact w.same

theorem execScrubRead {pool err} {s : State} (w : s.memoryWf) : LeavesWf (Machine.execScrubRead pool err s) :=
  w.act w.upset.scrubLine.scrubNext

theorem ownerLog {event l i} {s : State} (w : s.memoryWf) : (Machine.ownerLog event l i s).memoryWf :=
  w.logBadTables.foldl (fun _ _ w => w.logOne.ite w)

theorem execPoisonOwnerWalk {line} {s : State} (w : s.memoryWf) : LeavesWf (Machine.execPoisonOwnerWalk line s) := by
  unfold Machine.execPoisonOwnerWalk
  dsimp only
  split
  · exact w.next
  · exact w.act (w.same.foldl (fun _ _ w => w.ownerLog))

theorem execLp5xRetrain {ch ok} {s : State} (w : s.memoryWf) : LeavesWf (Machine.execLp5xRetrain ch ok s) :=
  w.act (w.same.ite (w.same.logPf.unitFault.ite w.same.logPf))

theorem execZqCalibration {ch} {s : State} (w : s.memoryWf) : LeavesWf (Machine.execZqCalibration ch s) := w.act w.id

end State.memoryWf

end Sys2Proof.Machine
end

section
/-! PROOFS. The canonical form of byte memories: Nucleus. -/

namespace Sys2Proof.Machine

open Sys2Proof

set_option Elab.async false

namespace State.memoryWf

theorem modNuc {f} {s : State} (w : s.memoryWf) : (Machine.modNuc f s).memoryWf := w.same

theorem portChanged {p} {s : State} (w : s.memoryWf) : (Machine.portChanged p s).memoryWf := by
  unfold Machine.portChanged
  extract_lets st s1 s2 s3 s4 s5
  have h1 : s1.memoryWf := w.ite w.portLeaves
  have h3 : s3.memoryWf := (h1.modPort.ite h1).announce
  have h4 : s4.memoryWf := (h3.foldl fun _ _ w => w.laneFall).ite h3
  exact h4.fabRaise.pumpPort.ite h4.fabRaise

theorem walkerChanged {v} {s : State} (w : s.memoryWf) : (Machine.walkerChanged v s).memoryWf :=
  w.wkWithdraw.ite w.remoteServe

theorem unitChanged {u} {s : State} (w : s.memoryWf) : (Machine.unitChanged u s).memoryWf := by
  unfold Machine.unitChanged
  split
  · exact w.walkerChanged
  · exact w.portChanged
  · exact w

theorem unitOut {u cause} {s : State} (w : s.memoryWf) : (Machine.unitOut u cause s).memoryWf :=
  w.htuOut.ite w.unitFault.unitChanged

theorem walkerParity {u} {s : State} (w : s.memoryWf) : (Machine.walkerParity u s).memoryWf := by
  unfold Machine.walkerParity
  split
  · exact w.wkFault
  · exact w

theorem execUnitFault {u cause} {s : State} (w : s.memoryWf) : LeavesWf (Machine.execUnitFault u cause s) :=
  w.act w.walkerParity.unitOut

theorem mismatchSet {u} {s : State} (w : s.memoryWf) : (Machine.mismatchSet u s).memoryWf := w.ite w.modUnit.modNuc.logPf

theorem fenceMoved {u} {s : State} (w : s.memoryWf) : (Machine.fenceMoved u s).memoryWf := by
  unfold Machine.fenceMoved
  split
  · exact w.walkerChanged
  · exact w

theorem execStateMismatch {u fence} {s : State} (w : s.memoryWf) : LeavesWf (Machine.execStateMismatch u fence s) :=
  w.act w.modUnit.mismatchSet.fenceMoved

theorem auditUnit {u} {s : State} (w : s.memoryWf) : (Machine.auditUnit u s).memoryWf :=
  w.ite (w.mismatchSet.modUnit.fenceMoved.ite w.mismatchSet)

theorem auditAll {s : State} (w : s.memoryWf) : (Machine.auditAll s).memoryWf := w.foldl (fun _ _ w => w.auditUnit)

theorem execNucleusAudit {s : State} (w : s.memoryWf) : LeavesWf (Machine.execNucleusAudit s) := w.act w.auditAll

theorem nucAnswer {src q r data} {s : State} (w : s.memoryWf) : (Machine.nucAnswer src q r data s).memoryWf := by
  unfold Machine.nucAnswer
  dsimp only
  split
  · exact (w.modNuc.msix.ite w.modNuc).emit
  · exact w.emit
  · exact w.logPf

theorem unitAnswer {src q r u} {s : State} (w : s.memoryWf) : (Machine.unitAnswer src q r u s).memoryWf := w.nucAnswer

theorem forceWalker {v} {s : State} (w : s.memoryWf) : (Machine.forceWalker v s).memoryWf :=
  ((w.foldl (fun _ _ w => w.htuTakeReq.jobEnd)).foldl (fun _ _ w => w.searchEnd)).remoteServe

theorem forceSp {s : State} (w : s.memoryWf) : (Machine.forceSp s).memoryWf :=
  w.spFlushAll.foldl (fun _ _ w => w.capDrop.endItem)

theorem forceEnd {u} {s : State} (w : s.memoryWf) : (Machine.forceEnd u s).memoryWf := by
  unfold Machine.forceEnd
  split
  · exact w.raise
  · exact w.forceWalker
  · exact w.htuEnd.ite (w.forceSp.ite w)

theorem enterState {u st f} {s : State} (w : s.memoryWf) : (Machine.enterState u st f s).memoryWf := w.modUnit

theorem unitSetGo {src q u st ep force} {s : State} (w : s.memoryWf) : (Machine.unitSetGo src q u st ep force s).memoryWf :=
  w.unitAnswer.ite
    (w.unitAnswer.ite
      (w.enterState.forceEnd.unitChanged.unitAnswer.ite
        (w.enterState.unitChanged.modUnit.modNuc.ite w.enterState.unitChanged.unitAnswer)))

theorem reconcileGo {src q u st ep} {s : State} (w : s.memoryWf) : (Machine.reconcileGo src q u st ep s).memoryWf :=
  w.unitAnswer.ite
    ((w.unitAnswer.ite (w.enterState.ite w.enterState.unitChanged).unitAnswer).ite (w.modNuc.ite w.unitAnswer))

theorem nucPerform {src q} {s : State} (w : s.memoryWf) : (Machine.nucPerform src q s).memoryWf := by
  unfold Machine.nucPerform
  dsimp only
  split
  · split
    · exact w.nucAnswer
    · split
      · exact w.nucAnswer
      · exact w.unitAnswer
  · split
    · exact w.nucAnswer
    · split
      · exact w.nucAnswer
      · split
        · exact w.nucAnswer
        · exact w.unitSetGo
  · split
    · exact w.nucAnswer
    · split
      · exact w.nucAnswer
      · split
        · exact w.nucAnswer
        · exact w.reconcileGo
  · exact w.nucAnswer.ite (w.nucAnswer.ite (w.nucAnswer.ite w.modEph.nucAnswer))
  · exact w.nucAnswer.ite w.modNuc.nucAnswer
  · exact w.nucAnswer.ite w.nucAnswer
  · exact w.nucAnswer

theorem nucServe {n} {s : State} (w : s.memoryWf) : (Machine.nucServe n s).memoryWf := by
  induction n generalizing s with
  | zero => exact w
  | succ n ih =>
    unfold Machine.nucServe
    split
    · exact w
    · exact w.ite (ih w.modNuc.nucPerform)

theorem nucNext {s : State} (w : s.memoryWf) : (Machine.nucNext s).memoryWf := w.nucServe

theorem nucArrive {src q} {s : State} (w : s.memoryWf) : (Machine.nucArrive src q s).memoryWf :=
  w.modNuc.ite (w.nucAnswer.ite (w.modNuc.ite w).modNuc.nucNext)

theorem nucCommand {op path q} {s : State} (w : s.memoryWf) : LeavesWf (Machine.nucCommand op path q s) := w.act w.nucArrive

theorem portCommand {p target} {s : State} (w : s.memoryWf) : (Machine.portCommand p target s).memoryWf :=
  w.nucArrive.ite (w.nucArrive.ite (w.nucArrive.ite w))

theorem setEnds {j r} {s : State} (w : s.memoryWf) : (Machine.setEnds j r s).memoryWf := w.modNuc.modUnit.unitAnswer.nucNext

theorem execUnitSetDrainDone {s : State} (w : s.memoryWf) : LeavesWf (Machine.execUnitSetDrainDone s) := by
  unfold Machine.execUnitSetDrainDone
  split
  · exact w.next
  · exact w.act w.setEnds

theorem execUnitSetTimeout {s : State} (w : s.memoryWf) : LeavesWf (Machine.execUnitSetTimeout s) := by
  unfold Machine.execUnitSetTimeout
  split
  · exact w.next
  · exact w.act w.setEnds

theorem channelZero {c} {s : State} (w : s.memoryWf) : (Machine.channelZero c s).memoryWf :=
  w.cleared (fun a => !decide (regionOf s a = .lp5x c)) rfl

theorem checkLeaves {u} {s : State} (w : s.memoryWf) : (Machine.checkLeaves u s).memoryWf := by
  unfold Machine.checkLeaves
  dsimp only
  split
  · exact w.channelZero
  · exact w.modHalo.ite w

theorem unitOpen {u} {s : State} (w : s.memoryWf) : (Machine.unitOpen u s).memoryWf := w.checkLeaves.modUnit.unitChanged

theorem unitFailed {j} {s : State} (w : s.memoryWf) : (Machine.unitFailed j s).memoryWf := w.ite w.modUnit.unitChanged

theorem execReconcileCheckDone {pass} {s : State} (w : s.memoryWf) : LeavesWf (Machine.execReconcileCheckDone pass s) := by
  unfold Machine.execReconcileCheckDone
  dsimp only
  split
  · exact w.next
  · exact w.act (w.modNuc.unitOpen.ite w.modNuc.unitFailed).unitAnswer.nucNext

theorem execSetEndpointId {eid} {s : State} (w : s.memoryWf) : LeavesWf (Machine.execSetEndpointId eid s) :=
  w.act (w.ite w.modNuc).emit

theorem execGetEndpointId {s : State} (w : s.memoryWf) : LeavesWf (Machine.execGetEndpointId s) := w.act w.emit

theorem execGetMctpVersionSupport {msgType} {s : State} (w : s.memoryWf) :
    LeavesWf (Machine.execGetMctpVersionSupport msgType s) :=
  w.act w.emit

theorem execGetMessageTypeSupport {s : State} (w : s.memoryWf) : LeavesWf (Machine.execGetMessageTypeSupport s) :=
  w.act w.emit

theorem execPldmBase {cmd} {s : State} (w : s.memoryWf) : LeavesWf (Machine.execPldmBase cmd s) := w.act w.emit

theorem execGetSensorReading {sensor} {s : State} (w : s.memoryWf) : LeavesWf (Machine.execGetSensorReading sensor s) :=
  w.act w.emit

theorem spdmOver {r} {s : State} (w : s.memoryWf) : LeavesWf (Machine.spdmOver r s) := w.act w.modNuc.emit

theorem dieLimit {k v crit} {s : State} (w : s.memoryWf) : (Machine.dieLimit k v crit s).memoryWf := by
  unfold Machine.dieLimit
  dsimp only
  split
  · exact w.modDie.dvfsStart.ite (w.modDie.ite w)
  · exact w

theorem execSensorSample {k value} {s : State} (w : s.memoryWf) : LeavesWf (Machine.execSensorSample k value s) := by
  unfold Machine.execSensorSample
  split
  · exact w.next
  refine w.act ?_
  extract_lets w0 c0 s1 s2 s3 s4 deg s5
  have h2 : s2.memoryWf := w.modNuc.logPf.ite w.modNuc
  have h4 : s4.memoryWf := (h2.logPf.ite h2).dieLimit
  have h5 : s5.memoryWf := h4.modHalo.ite (h4.modHalo.ite h4)
  exact h5.same

theorem execLogIrqTimer {i} {s : State} (w : s.memoryWf) : LeavesWf (Machine.execLogIrqTimer i s) :=
  w.act (w.modLog.msix.ite w.modLog)

theorem logFailed {s : State} (w : s.memoryWf) : (Machine.logFailed s).memoryWf := w.same.foldl (fun _ _ w => w.logPf)

theorem errLogWrite {i v} {s : State} (w : s.memoryWf) : (Machine.errLogWrite i v s).memoryWf :=
  w.modLog.logFailed.ite w.modLog

theorem execErrLogEnable {i v} {s : State} (w : s.memoryWf) : LeavesWf (Machine.execErrLogEnable i v s) :=
  w.act w.errLogWrite

theorem nucFatal {s : State} (w : s.memoryWf) : (Machine.nucFatal s).memoryWf := w.modNuc.logPf.emit

theorem execNucleusWatchdog {s : State} (w : s.memoryWf) : LeavesWf (Machine.execNucleusWatchdog s) :=
  w.act (w.modNuc.nucFatal.ite w.modNuc.modNuc.logPf)

theorem execNucleusRestart {s : State} (w : s.memoryWf) : LeavesWf (Machine.execNucleusRestart s) :=
  w.act (w.modNuc.foldl (fun _ _ w => w.faultTaken)).auditAll.nucNext

end State.memoryWf

end Sys2Proof.Machine
end

section
/-! PROOFS. The canonical form of byte memories: resets. -/

namespace Sys2Proof.Machine

open Sys2Proof

set_option Elab.async false

namespace State.memoryWf

theorem pairsFresh {lo n} {s : State} (w : s.memoryWf) : (Machine.pairsFresh lo n s).memoryWf := w.same

theorem abortItem {d part} {s : State} (w : s.memoryWf) : (Machine.abortItem d part s).memoryWf := by
  unfold Machine.abortItem
  dsimp only
  split
  · exact w
  · exact (w.ite w.estComplete).modItem.modCq

theorem takeOver {x} {s : State} (w : s.memoryWf) : (Machine.takeOver x s).memoryWf :=
  w.ite (w.modItem.abortItem.ite (w.modItem.abortItem.ite w.modItem.modItem))

theorem evtReset {i} {s : State} (w : s.memoryWf) : (Machine.evtReset i s).memoryWf := w.same

theorem binsReset {i} {s : State} (w : s.memoryWf) : (Machine.binsReset i s).memoryWf := w.same

theorem drainCheck {i} {s : State} (w : s.memoryWf) : (Machine.drainCheck i s).memoryWf := w.modInst.ite w

theorem resetStart {i removing inFlr} {s : State} (w : s.memoryWf) : (Machine.resetStart i removing inFlr s).memoryWf := by
  unfold Machine.resetStart
  refine w.ite ?_
  extract_lets s1 s2 s3 s4 s5 s6 s7 s8
  have h2 : s2.memoryWf := w.modInst.foldl fun _ _ w => w.takeOver
  have h7 : s7.memoryWf := h2.same.dropWaiters.orphanWhere.binsReset.modInst
  have h8 : s8.memoryWf := h7.logBadTables.ite h7
  exact h8.pressureUpdate.drainCheck

theorem execVfFlr {i} {s : State} (w : s.memoryWf) : LeavesWf (Machine.execVfFlr i s) := w.act w.same.resetStart

theorem execPfFlr {s : State} (w : s.memoryWf) : LeavesWf (Machine.execPfFlr s) :=
  w.act (w.same.foldl (fun _ _ w => w.resetStart))

theorem execInstanceReset {i} {s : State} (w : s.memoryWf) : LeavesWf (Machine.execInstanceReset i s) := w.act w.resetStart

theorem execVfEnableClear {s : State} (w : s.memoryWf) : LeavesWf (Machine.execVfEnableClear s) :=
  w.act ((w.same.same.foldl (fun _ _ w => w.resetStart)).ite w.same)

theorem vfReady {s : State} (w : s.memoryWf) : (Machine.vfReady s).memoryWf := (w.foldl (fun _ _ w => w.modInst)).ite w

theorem execVfEnableSet {numVFs} {s : State} (w : s.memoryWf) : LeavesWf (Machine.execVfEnableSet numVFs s) :=
  w.act (w.same.vfReady.ite w.same)

theorem haltCore {c} {s : State} (w : s.memoryWf) : (Machine.haltCore c s).memoryWf :=
  (w.takeGrants.foldl (fun _ _ w => w.countDrop)).stopCore

theorem haltPart {n} {s : State} (w : s.memoryWf) : (Machine.haltPart n s).memoryWf := by
  unfold Machine.haltPart
  dsimp only
  refine .modPart ?_
  refine .foldl ?_ (fun _ _ w => w.haltCore)
  split
  · exact w.logInx.launchTake
  · exact w

theorem execResetHalt {i} {s : State} (w : s.memoryWf) : LeavesWf (Machine.execResetHalt i s) :=
  w.act (w.foldl (fun _ _ w => w.haltPart))

theorem keepResult {x} {s : State} (w : s.memoryWf) : (Machine.keepResult x s).memoryWf := w.modItem

theorem dropRemote {i} {s : State} (w : s.memoryWf) : (Machine.dropRemote i s).memoryWf :=
  w.foldl (fun _ _ w => w.htuTakeReq.jobEnd)

theorem observeAll {i force} {s : State} (w : s.memoryWf) : (Machine.observeAll i force s).memoryWf :=
  ((w.foldl (fun _ _ w => w.keepResult)).foldl
    (fun _ _ w => w.dropSearch)).dropRemote.modHalo.capObserve.fabObserve.remoteServe

theorem execResetObserve {i} {s : State} (w : s.memoryWf) : LeavesWf (Machine.execResetObserve i s) := w.act w.observeAll

theorem drainDone {i d} {s : State} (w : s.memoryWf) : (Machine.drainDone i d s).memoryWf := w.abortItem.modInst.drainCheck

theorem execResetDrainItemDone {i d} {s : State} (w : s.memoryWf) : LeavesWf (Machine.execResetDrainItemDone i d s) := by
  unfold Machine.execResetDrainItemDone
  split
  · exact w.next
  · exact w.act w.drainDone

theorem fabricReset {s : State} (w : s.memoryWf) : (Machine.fabricReset s).memoryWf :=
  (w.same.foldl (fun _ _ w => (w.foldl (fun _ _ w => w.stopCore)).orphanCores.launchEnd)).foldl
    (fun _ _ w => w.searchEnd)

theorem engineReset {e} {s : State} (w : s.memoryWf) : (Machine.engineReset e s).memoryWf := by
  unfold Machine.engineReset
  dsimp only
  split
  · exact w.same
  · exact w.same.forceWalker
  · exact w.same.htuEnd
  · exact w.same.forceSp
  · exact w.same.fabricReset

theorem execResetEscalate {i} {s : State} (w : s.memoryWf) : LeavesWf (Machine.execResetEscalate i s) :=
  w.act
    (((w.foldl (fun _ _ w => w.haltPart)).observeAll.foldl (fun _ _ w => w.logPf.same.engineReset)).foldl
      (fun _ _ w => w.drainDone))

theorem execEngineResetDone {e} {s : State} (w : s.memoryWf) : LeavesWf (Machine.execEngineResetDone e s) :=
  w.act w.same.remoteServe

theorem execEngineResetTimeout {e} {s : State} (w : s.memoryWf) : LeavesWf (Machine.execEngineResetTimeout e s) := by
  unfold Machine.execEngineResetTimeout
  dsimp only
  refine w.act ?_
  refine .foldl ?_ (fun _ _ w => w.endEarly)
  split
  · exact w.same.unitOut
  · exact w.same.foldl (fun _ _ w => w.unitOut)

theorem zeroMemory {i} {s : State} (w : s.memoryWf) : (Machine.zeroMemory i s).memoryWf :=
  w.cleared (fun a => !zeroes s.inst[i.val].zeroList s a) rfl

theorem zeroHtu {i} {s : State} (w : s.memoryWf) : (Machine.zeroHtu i s).memoryWf := w.modHalo.htuLight.ite w

theorem zeroCores {l : List CoreId} {s : State} (w : s.memoryWf) :
    (l.foldl (fun s c => Machine.modCore c zeroCore s) s).memoryWf :=
  w.foldl fun s c w => modCore_memoryWf c zeroCore s w rfl

theorem zeroInst {i} {s : State} (w : s.memoryWf) : (Machine.zeroInst i s).memoryWf := by
  unfold Machine.zeroInst
  exact w.zeroMemory.zeroCores.zeroHtu.modInst.freeBuffersOf

theorem discardRecords {i} {s : State} (w : s.memoryWf) : (Machine.discardRecords i s).memoryWf := w.same.modInst.logBoth

theorem removed {i} {s : State} (w : s.memoryWf) : (Machine.removed i s).memoryWf := by
  unfold Machine.removed
  extract_lets s1 ns s2 fab s3 s4
  have h1 : s1.memoryWf := w.discardRecords.modInst
  have h2 : s2.memoryWf := h1.foldl fun _ _ w => w.pairsFresh
  have h3 : s3.memoryWf := h2.same
  have h4 : s4.memoryWf := h3.modMtu.pairsFresh
  exact h4.modInst.ite h4

theorem pfFlrEnd {s : State} (w : s.memoryWf) : (Machine.pfFlrEnd s).memoryWf :=
  w.ite ((w.same.pairsFresh.foldl (fun _ _ w => w.pairsFresh)).foldl (fun _ _ w => w.removed.ite w.modInst))

theorem execResetZeroingDone {i} {s : State} (w : s.memoryWf) : LeavesWf (Machine.execResetZeroingDone i s) :=
  w.act (w.zeroInst.modInst.pfFlrEnd.ite (w.zeroInst.removed.ite (w.zeroInst.modInst.pfIrq.ite w.zeroInst.modInst)))

theorem partCommit {n v} {s : State} (w : s.memoryWf) : (Machine.partCommit n v s).memoryWf :=
  w.same.ite (w.same.same.ite w.same.modPart)

theorem execPartitionCommit {n v} {s : State} (w : s.memoryWf) : LeavesWf (Machine.execPartitionCommit n v s) :=
  w.act w.partCommit

theorem invalWrite {v} {s : State} (w : s.memoryWf) : (Machine.invalWrite v s).memoryWf := w.same

theorem execMtuInvalGo {v} {s : State} (w : s.memoryWf) : LeavesWf (Machine.execMtuInvalGo v s) := w.act w.invalWrite

theorem execMtuInvalDone {s : State} (w : s.memoryWf) : LeavesWf (Machine.execMtuInvalDone s) := by
  unfold Machine.execMtuInvalDone
  split
  · exact w.next
  · exact w.act w.same.modMtu

end State.memoryWf

end Sys2Proof.Machine
end

section
/-! PROOFS. The canonical form of byte memories: bring-up and the flash. -/

namespace Sys2Proof.Machine

open Sys2Proof

set_option Elab.async false

namespace State.memoryWf

theorem modHub {f} {s : State} (w : s.memoryWf) (hflash : ∀ h, (f h).flash = h.flash := by exact fun _ => rfl)
    (hbuf : ∀ h, (f h).flashBuf = h.flashBuf := by exact fun _ => rfl) : (Machine.modHub f s).memoryWf :=
  State.memoryWf_of_same w rfl rfl (hflash _) (hbuf _) fun _ => rfl

/-- Host memory and the flash outlast a reset, the other memories start empty. -/
theorem blockReset {s : State} (w : s.memoryWf) : (Machine.blockReset s).memoryWf := by
  obtain ⟨-, hhost, hflash, -, -⟩ := w
  exact ⟨rfl, hhost, hflash, rfl, reset_cores_wf⟩

theorem execColdReset {s : State} (w : s.memoryWf) : LeavesWf (Machine.execColdReset s) :=
  (w.foldl (fun _ _ w => w.emit.ite w)).blockReset.next

theorem partReset {cause} {s : State} (w : s.memoryWf) : (Machine.partReset cause s).memoryWf := w.blockReset.same.htuLight

theorem execConventionalReset {cause} {s : State} (w : s.memoryWf) : LeavesWf (Machine.execConventionalReset cause s) := by
  unfold Machine.execConventionalReset
  exact w.act ((w.partReset.modHub).ite w.partReset)

theorem warmReset {s : State} (w : s.memoryWf) : (Machine.warmReset s).memoryWf := by
  have hpart := w.partReset (cause := 4)
  unfold Machine.warmReset
  generalize Machine.partReset 4 s = r at hpart ⊢
  exact hpart.same

theorem hubResetWrite {v} {s : State} (w : s.memoryWf) : (Machine.hubResetWrite v s).memoryWf := w.warmReset.ite w

theorem execWarmReset {v} {s : State} (w : s.memoryWf) : LeavesWf (Machine.execWarmReset v s) := w.act w.hubResetWrite

theorem execRstNRelease {s : State} (w : s.memoryWf) : LeavesWf (Machine.execRstNRelease s) := w.act w.modHub

theorem execPerstNRelease {s : State} (w : s.memoryWf) : LeavesWf (Machine.execPerstNRelease s) := w.act w.modHub

theorem execStage0Done {s : State} (w : s.memoryWf) : LeavesWf (Machine.execStage0Done s) := w.act w.modHub

theorem boardApply {c} {s : State} (w : s.memoryWf) : (Machine.boardApply c s).memoryWf := (w.same.same.ite w.same).modHub

theorem execImageVerified {a b} {s : State} (w : s.memoryWf) : LeavesWf (Machine.execImageVerified a b s) := by
  unfold Machine.execImageVerified
  dsimp only
  refine w.act ?_
  split
  · split
    · exact w.modHub
    · exact w.modHub.modHub.boardApply
  · split
    · split
      · exact w.modHub.modHub
      · exact w.modHub.modHub.modHub.boardApply
    · exact w.modHub.modHub.modHub

theorem execLp5xTrainingDone {fail8533 fail6400} {s : State} (w : s.memoryWf) :
    LeavesWf (Machine.execLp5xTrainingDone fail8533 fail6400 s) :=
  w.act w.same

theorem execLp5xZeroingDone {s : State} (w : s.memoryWf) : LeavesWf (Machine.execLp5xZeroingDone s) :=
  w.act (w.cleared (fun a => !inLp5x s a) rfl)

theorem execComputeBringupDone {failed} {s : State} (w : s.memoryWf) : LeavesWf (Machine.execComputeBringupDone failed s) := by
  obtain ⟨hd, hh, hf, hb, -⟩ := id w
  refine w.act ⟨Memory.wf_filter 0 (inLp5x s) _ hd, hh, hf, hb, fun c => ?_⟩
  simp only [Vector.getElem_ofFn]
  rfl

theorem execUnitsBuilt {ms} {s : State} (w : s.memoryWf) : LeavesWf (Machine.execUnitsBuilt ms s) := w.act w.same.vfReady

theorem execStage3Timeout {s : State} (w : s.memoryWf) : LeavesWf (Machine.execStage3Timeout s) := w.act w.modHub

theorem msixDrain {fn} {s : State} (w : s.memoryWf) : (Machine.msixDrain fn s).memoryWf :=
  w.foldl (fun _ _ w => w.same.msix.ite w)

theorem execConfigRequest {fn write} {s : State} (w : s.memoryWf) : LeavesWf (Machine.execConfigRequest fn write s) := by
  unfold Machine.execConfigRequest
  refine w.act ?_
  split
  · exact w.emit
  · split
    · exact w.emit
    · exact w.same.emit.msixDrain

theorem flashGo {op} {s : State} (w : s.memoryWf) : (Machine.flashGo op s).memoryWf :=
  w.modHub.ite (w.modHub.modHub.ite w.modHub.modHub)

theorem execFlashRead {s : State} (w : s.memoryWf) : LeavesWf (Machine.execFlashRead s) := w.act w.flashGo

theorem execFlashProgram {s : State} (w : s.memoryWf) : LeavesWf (Machine.execFlashProgram s) := w.act w.flashGo

theorem execFlashErase {s : State} (w : s.memoryWf) : LeavesWf (Machine.execFlashErase s) := w.act w.flashGo

/-- What the flash does keeps the form of its contents and its buffer (R567). -/
theorem flashDo {s : State} (w : s.memoryWf) : State.memoryWf (Machine.modHub Machine.flashDo s) := by
  obtain ⟨hd, hh, hf, hb, hc⟩ := w
  have hdone : Memory.wf 0xFF (Machine.flashDo s.hub).flash = true ∧ Memory.wf 0 (Machine.flashDo s.hub).flashBuf = true := by
    unfold Machine.flashDo
    split
    · dsimp only
      exact ⟨hf, Memory.wf_write 0 [] 0 _ rfl⟩
    split
    · dsimp only
      exact ⟨Memory.wf_write 0xFF _ _ _ hf, hb⟩
    · dsimp only
      exact ⟨Memory.wf_fill 0xFF _ _ _ _ hf, hb⟩
  exact ⟨hd, hh, hdone.1, hdone.2, hc⟩

theorem flashFailed {s : State} (w : s.memoryWf) : (Machine.flashFailed s).memoryWf := by
  unfold Machine.flashFailed
  obtain ⟨hd, hh, hf, hb, hc⟩ := w.freeBytes (n := if s.hub.flashOp = 0 then 0 else if s.hub.flashOp = 1 then 4096 else 65536)
  exact ⟨hd, hh, Memory.wf_write 0xFF _ _ _ hf, hb, hc⟩

theorem execFlashOpDone {ok} {s : State} (w : s.memoryWf) : LeavesWf (Machine.execFlashOpDone ok s) := by
  unfold Machine.execFlashOpDone
  exact w.act (w.flashDo.ite w.flashFailed).modHub

theorem execHrefLoss {s : State} (w : s.memoryWf) : LeavesWf (Machine.execHrefLoss s) := by
  unfold Machine.execHrefLoss
  exact w.act (w.modHalo.haloDark.nucFatal.modHub)

theorem execJtagInstruction {j} {s : State} (w : s.memoryWf) : LeavesWf (Machine.execJtagInstruction j s) := by
  unfold Machine.execJtagInstruction
  refine .next ?_
  split
  · exact w.modHub.emit
  · exact w.modHub

end State.memoryWf

end Sys2Proof.Machine
end

section
/-! PROOFS. The canonical form of byte memories: registers and core instructions. -/

namespace Sys2Proof.Machine

open Sys2Proof

set_option Elab.async false

namespace State.memoryWf

theorem ringWrite {r v} {s : State} (w : s.memoryWf) : (Machine.ringWrite r v s).memoryWf := by
  unfold Machine.ringWrite
  dsimp only
  split
  · exact w.sqCtrlWrite
  · exact w.cqCtrlWrite
  · exact w.ringErr.ite w.modCq.cqSignal
  · exact w.modInst
  · exact w

theorem instWrite {r v} {s : State} (w : s.memoryWf) : (Machine.instWrite r v s).memoryWf := by
  unfold Machine.instWrite
  dsimp only
  split
  · exact w.modInst.resetStart.ite w.modInst
  · exact w.modInst
  · exact w.modInst
  · exact w.modInst
  · exact w.modInst.admission
  · exact w.modInst
  · exact w.modInst
  · exact w.same
  · exact w.modMtu.ite w
  · exact w.invalWrite
  · exact w

theorem hubWrite {r v} {s : State} (w : s.memoryWf) : (Machine.hubWrite r v s).memoryWf := by
  unfold Machine.hubWrite
  dsimp only
  split
  · exact w.hubResetWrite
  · exact (w.modHub).flashGo.ite (w.modHub)
  · exact w.modHub
  · obtain ⟨hd, hh, hf, hb, hc⟩ := w
    exact ⟨hd, hh, hf, Memory.wf_write 0 _ _ _ hb, hc⟩
  · exact w

theorem pinIdle {n} {s : State} (w : s.memoryWf) : (Machine.pinIdle n s).memoryWf := w.evtDrive.ite w

theorem timeWrite {r v} {s : State} (w : s.memoryWf) : (Machine.timeWrite r v s).memoryWf := by
  unfold Machine.timeWrite
  dsimp only
  split
  · exact w.modEph
  · exact w.ite w.modEph
  · exact w.ite w.modEph
  · exact w.modEph
  · exact w.modEph
  · exact w.modPin.pinIdle
  · exact w.same
  · exact w.same
  · exact w

theorem memWrite {r v} {s : State} (w : s.memoryWf) : (Machine.memWrite r v s).memoryWf := by
  unfold Machine.memWrite
  dsimp only
  split
  · exact w.poolCfgWrite
  · exact w.same
  · exact w.same
  · exact w.same
  · exact w.same
  · exact w.same
  · exact w

theorem spEnabled {s : State} (w : s.memoryWf) : (Machine.spEnabled s).memoryWf := w.spLevel.ite w.modSp

theorem spWrite {r v} {s : State} (w : s.memoryWf) : (Machine.spWrite r v s).memoryWf := by
  unfold Machine.spWrite
  dsimp only
  split
  · exact (w.ite w.modSp.spEnabled).modSp.spFlushAll.ite (w.ite w.modSp.spEnabled).modSp
  · exact w.spQbWrite
  · exact w.modSp
  · exact w.modSp
  · exact w

theorem nucWrite {r v} {s : State} (w : s.memoryWf) : (Machine.nucWrite r v s).memoryWf := by
  unfold Machine.nucWrite
  split
  · exact w.errLogWrite
  · exact w.modLog
  · exact w.modNuc
  · exact w.modNuc
  · exact w.nucArrive.ite w
  · exact w.modNuc
  · exact w.modNuc
  · exact w

theorem wbRefuse {d} {s : State} (w : s.memoryWf) : (Machine.wbRefuse d s).memoryWf := w.modDie

theorem edgeWrite {d b f} {s : State} (w : s.memoryWf) : (Machine.edgeWrite d b f s).memoryWf :=
  (w.ite w.modDie).wbRefuse.ite ((w.ite w.modDie).modSet.ite (w.ite w.modDie))

theorem dieWrite {r v} {s : State} (w : s.memoryWf) : (Machine.dieWrite r v s).memoryWf := by
  unfold Machine.dieWrite
  dsimp only
  split
  · exact w.modCore (by intro k; dsimp only; split <;> rfl)
  · exact w.mbxCfgWrite
  · exact w.modCore
  · exact w.modCore
  · exact w.modWk
  · exact w.modWk
  · exact w.wbRefuse.ite w.modSet
  · exact w.edgeWrite
  · exact w.edgeWrite
  · exact w.modDie
  · exact w.wbRefuse.ite w.modDie
  · exact w.same
  · exact w

theorem haloWrite {r v} {s : State} (w : s.memoryWf) : (Machine.haloWrite r v s).memoryWf := by
  unfold Machine.haloWrite
  dsimp only
  split
  · exact w.modHalo
  · exact w.modHalo
  · exact w.modHalo
  · exact w.modHalo
  · exact w.modTide
  · exact w.ite w.modTide
  · exact w.ite w.modTide
  · exact w.modTide
  · exact w.modTide
  · exact w

theorem laneAllowed {p} {s : State} (w : s.memoryWf) : (Machine.laneAllowed p s).memoryWf :=
  w.foldl (fun _ _ w => w.laneFall)

theorem portCfgWrite {p v} {s : State} (w : s.memoryWf) : (Machine.portCfgWrite p v s).memoryWf :=
  w.modPort.laneAllowed.portCommand

theorem domainWrite {i v} {s : State} (w : s.memoryWf) : (Machine.domainWrite i v s).memoryWf := w.fabRaise.ite w.same

theorem fabWrite {r v} {s : State} (w : s.memoryWf) : (Machine.fabWrite r v s).memoryWf := by
  unfold Machine.fabWrite
  dsimp only
  split
  · exact w.same
  · exact w.ite w.same
  · exact w.same
  · exact w.same
  · exact w.same
  · exact w.portCfgWrite
  · exact w.domainWrite
  · exact w.same
  · exact w.same
  · exact w

theorem pairStore {p x} {s : State} (w : s.memoryWf) : (Machine.pairStore p x s).memoryWf := by
  unfold Machine.pairStore
  dsimp only
  split
  · exact w.modEph
  · exact w.ringErr.ite w.modSq
  · exact w.ringErr.ite w.modSq
  · exact w.ringErr.ite w.modCq
  · exact w.modMtu
  · exact w.same
  · exact w.same
  · exact w.modLog
  · exact w.wbRefuse.ite w.modDie
  · exact w.same
  · exact w

theorem pairHold {p v} {s : State} (w : s.memoryWf) : (Machine.pairHold p v s).memoryWf := by
  unfold Machine.pairHold
  split
  · exact w.same
  · exact w

theorem pairCommit {p v} {s : State} (w : s.memoryWf) : (Machine.pairCommit p v s).memoryWf := by
  unfold Machine.pairCommit
  dsimp only
  split
  · exact w.partCommit
  · exact w.same.pairStore
  · exact w

theorem regPairRead {p} {s : State} (w : s.memoryWf) : (Machine.regPairRead p s).memoryWf := by
  unfold Machine.regPairRead
  dsimp only
  split
  · exact w.same.same
  · exact w.same.emit

theorem regWrite {r v} {s : State} (w : s.memoryWf) : (Machine.regWrite r v s).memoryWf := by
  unfold Machine.regWrite
  split
  · exact w.pairHold
  · exact w.pairCommit
  · exact w.sqTailDoorbell
  · exact w.cqHeadDoorbell
  · exact w.ringWrite.instWrite.hubWrite.timeWrite.memWrite.spWrite.nucWrite.dieWrite.haloWrite.fabWrite

theorem regOdd {i r v} {s : State} (w : s.memoryWf) : (Machine.regOdd i r v s).memoryWf := by
  unfold Machine.regOdd
  dsimp only
  split
  · exact w.sqTailDoorbell
  · exact w.cqHeadDoorbell
  · exact w.takeFree.takeFree.regWrite.ite w.takeFree.takeFree

theorem writeAt {f a} {s : State} (w : s.memoryWf) (hf : ∀ x0 s, State.memoryWf s → (f x0 s).memoryWf) :
    (Machine.writeAt f a s).memoryWf := by
  unfold Machine.writeAt
  split
  · exact (hf _ _ w).ite w
  · exact w

theorem execRegisterWrite {a size v} {s : State} (w : s.memoryWf) : LeavesWf (Machine.execRegisterWrite a size v s) :=
  ((w.writeAt (fun _ _ w => w.regWrite)).ite (w.foldl (fun _ _ w => w.writeAt (fun _ _ w => w.regOdd)))).next

theorem execRegPairLowRead {a} {s : State} (w : s.memoryWf) : LeavesWf (Machine.execRegPairLowRead a s) := by
  unfold Machine.execRegPairLowRead
  refine w.act ?_
  split
  · exact w.regPairRead.ite w.emit
  · exact w.emit

theorem execRegPairLowWrite {a v} {s : State} (w : s.memoryWf) : LeavesWf (Machine.execRegPairLowWrite a v s) := by
  unfold Machine.execRegPairLowWrite
  split
  · exact w.act w.pairHold
  · exact w.next

theorem execRegPairHighWrite {a v} {s : State} (w : s.memoryWf) : LeavesWf (Machine.execRegPairHighWrite a v s) := by
  unfold Machine.execRegPairHighWrite
  split
  · exact w.act w.pairCommit
  · exact w.next

theorem execEvtinTsRead {n} {s : State} (w : s.memoryWf) : LeavesWf (Machine.execEvtinTsRead n s) := w.act w.regPairRead

theorem execPortTargetWrite {p v} {s : State} (w : s.memoryWf) : LeavesWf (Machine.execPortTargetWrite p v s) :=
  w.act w.portCfgWrite

theorem aluR {op c v} {s : State} (w : s.memoryWf) : LeavesWf (Machine.aluR op c v s) := w.coreInstr w.setS.advance

theorem aluI {ok op c v} {s : State} (w : s.memoryWf) : LeavesWf (Machine.aluI ok op c v s) := w.coreInstr w.setS.advance

theorem execSel {c v} {s : State} (w : s.memoryWf) : LeavesWf (Machine.execSel c v s) := w.coreInstr w.setS.advance

theorem execCmp {c v} {s : State} (w : s.memoryWf) : LeavesWf (Machine.execCmp c v s) := w.coreInstr w.setP.advance

theorem execPlog {c v} {s : State} (w : s.memoryWf) : LeavesWf (Machine.execPlog c v s) := w.coreInstr w.setP.advance

theorem execPmov {c v} {s : State} (w : s.memoryWf) : LeavesWf (Machine.execPmov c v s) := w.coreInstr w.setS.advance

theorem execPset {c v} {s : State} (w : s.memoryWf) : LeavesWf (Machine.execPset c v s) := w.coreInstr w.setP.advance

theorem execRdf {c v} {s : State} (w : s.memoryWf) : LeavesWf (Machine.execRdf c v s) :=
  w.coreInstr (w.setS.modCore.ite w.setS).advance

theorem execCmpi {c v} {s : State} (w : s.memoryWf) : LeavesWf (Machine.execCmpi c v s) := w.coreInstr w.setP.advance

theorem execB {c v} {s : State} (w : s.memoryWf) : LeavesWf (Machine.execB c v s) :=
  w.coreInstr (w.branchTo (fun _ w => w.id))

theorem execBl {c v} {s : State} (w : s.memoryWf) : LeavesWf (Machine.execBl c v s) :=
  w.coreInstr (w.branchTo (fun _ w => w.setS))

theorem execBr {c v} {s : State} (w : s.memoryWf) : LeavesWf (Machine.execBr c v s) :=
  w.coreInstr (w.branchTo (fun _ w => w.id))

theorem execBlr {c v} {s : State} (w : s.memoryWf) : LeavesWf (Machine.execBlr c v s) :=
  w.coreInstr (w.branchTo (fun _ w => w.setS))

theorem execLoop {c v} {s : State} (w : s.memoryWf) : LeavesWf (Machine.execLoop c v s) :=
  w.coreInstr (w.setS.advance.ite (w.branchTo (fun _ w => w.setS)))

theorem vecInstr {n c v ok u f} {s : State} (w : s.memoryWf) : LeavesWf (Machine.vecInstr n c v ok u f s) :=
  w.coreInstr w.same.setV.advance

theorem vecBin {maxType op c v} {s : State} (w : s.memoryWf) : LeavesWf (Machine.vecBin maxType op c v s) := by
  unfold Machine.vecBin
  exact w.vecInstr

theorem vecMinMax {isMax c v} {s : State} (w : s.memoryWf) : LeavesWf (Machine.vecMinMax isMax c v s) := by
  unfold Machine.vecMinMax
  exact w.vecInstr

theorem execVfma {c v} {s : State} (w : s.memoryWf) : LeavesWf (Machine.execVfma c v s) := by
  unfold Machine.execVfma
  exact w.vecInstr

theorem execVcmp {c v} {s : State} (w : s.memoryWf) : LeavesWf (Machine.execVcmp c v s) := w.coreInstr w.setP.advance

theorem execVext {c v} {s : State} (w : s.memoryWf) : LeavesWf (Machine.execVext c v s) := w.coreInstr w.setS.advance

theorem execVrsum {c v} {s : State} (w : s.memoryWf) : LeavesWf (Machine.execVrsum c v s) := w.coreInstr w.setS.advance

end State.memoryWf

end Sys2Proof.Machine
end

section
/-! PROOFS. The canonical form of byte memories: every command. -/

namespace Sys2Proof.Machine

open Sys2Proof

set_option Elab.async false

namespace State.memoryWf

theorem exec {i} {s : State} (w : s.memoryWf) : LeavesWf (Machine.exec i s) := by
  unfold Machine.exec
  split
  · exact w.execRegisterWrite
  · exact w.execRegPairLowRead
  · exact w.execRegPairLowWrite
  · exact w.execRegPairHighWrite
  · exact w.execTodArm
  · exact w.execTodCancel
  · exact w.execPllLock
  · exact w.execTrefQualify
  · exact w.execTrefLoss
  · exact w.execPpsEdge
  · exact w.execPpsLoss
  · exact w.execPhaseSlewDone
  · exact w.execHoldLimitExpiry
  · exact w.execGett
  · exact w.execWaitt
  · exact w.execWaittWake
  · exact w.execTchk
  · exact w.execEvtEnqueue
  · exact w.execEvtHeldExpiry
  · exact w.execEvtAction
  · exact w.execEvtPulseFall
  · exact w.execEvtinEdge
  · exact w.execEvtinTsRead
  · exact w.execSqTailDoorbell
  · exact w.execCqHeadDoorbell
  · exact w.execDescriptorFetch
  · exact w.execHeadShadowWrite
  · exact w.execSqEnable
  · exact w.execSqDisable
  · exact w.execSqDrainDone
  · exact w.execCqEnable
  · exact w.execCqDisable
  · exact w.execCompletionRecord
  · exact w.execCqModTimer
  · exact w.execMsixUnmask
  · exact w.execDescriptorRelease
  · exact w.execDeadlineExpiry
  · exact w.execDescriptorAged
  · exact w.execNop
  · exact w.execFence
  · exact w.execLaunch
  · exact w.execDmaCopy
  · exact w.execDmaGather
  · exact w.execSearch
  · exact w.execSearchQueryStart
  · exact w.execQueryStopTime
  · exact w.execIndexUpdate
  · exact w.execHtuRun
  · exact w.execHtuWalkerRequest
  · exact w.execHtuMatrixLocked
  · exact w.execCapture
  · exact w.execEvent
  · exact w.execLockAdmin
  · exact w.execVfFlr
  · exact w.execPfFlr
  · exact w.execInstanceReset
  · exact w.execVfEnableClear
  · exact w.execVfEnableSet
  · exact w.execResetHalt
  · exact w.execResetObserve
  · exact w.execResetDrainItemDone
  · exact w.execResetEscalate
  · exact w.execEngineResetTimeout
  · exact w.execResetZeroingDone
  · exact w.execPartitionCommit
  · exact w.execEstimatorWindow
  · exact w.execPressureTimeout
  · exact w.execMtuInvalGo
  · exact w.execMtuInvalDone
  · exact w.execBarWindowRead
  · exact w.execBarWindowWrite
  · exact w.aluR
  · exact w.aluR
  · exact w.aluR
  · exact w.aluR
  · exact w.aluR
  · exact w.aluR
  · exact w.aluR
  · exact w.aluR
  · exact w.aluR
  · exact w.aluR
  · exact w.aluR
  · exact w.aluR
  · exact w.aluR
  · exact w.aluR
  · exact w.aluR
  · exact w.execSel
  · exact w.execCmp
  · exact w.execPlog
  · exact w.execPmov
  · exact w.execPset
  · exact w.execRdf
  · exact w.aluI
  · exact w.aluI
  · exact w.aluI
  · exact w.aluI
  · exact w.aluI
  · exact w.aluI
  · exact w.aluI
  · exact w.aluI
  · exact w.aluI
  · exact w.execCmpi
  · exact w.execB
  · exact w.execBl
  · exact w.execBr
  · exact w.execBlr
  · exact w.execLoop
  · exact w.loadInstr
  · exact w.loadInstr
  · exact w.storeInstr
  · exact w.loadInstr
  · exact w.storeInstr
  · exact w.vecBin
  · exact w.vecBin
  · exact w.vecBin
  · exact w.execVfma
  · exact w.vecMinMax
  · exact w.vecMinMax
  · exact w.vecBin
  · exact w.vecBin
  · exact w.vecBin
  · exact w.vecBin
  · exact w.vecBin
  · exact w.vecBin
  · exact w.execVcmp
  · exact w.vecInstr
  · exact w.vecInstr
  · exact w.vecInstr
  · exact w.execVext
  · exact w.vecInstr
  · exact w.vecInstr
  · exact w.execVrsum
  · exact w.execMma
  · exact w.execMmas
  · exact w.execMcfg
  · exact w.execDrain
  · exact w.redInstr
  · exact w.redInstr
  · exact w.execCtxsv
  · exact w.execCtxld
  · exact w.execIsect
  · exact w.execHacc
  · exact w.execHflush
  · exact w.execHclr
  · exact w.execCmpr
  · exact w.execWbPost
  · exact w.execWbPostTimeout
  · exact w.execSend
  · exact w.execRecv
  · exact w.execRecvnb
  · exact w.execMbxReservation
  · exact w.execMbxGrant
  · exact w.execMbxRetryTimer
  · exact w.execMbxData
  · exact w.execMbxCfgWrite
  · exact w.execSyncNop
  · exact w.execSyncFence
  · exact w.execBar
  · exact w.execExit
  · exact w.execLacq
  · exact w.execLrel
  · exact w.atomInstr
  · exact w.atomInstr
  · exact w.execLaddt
  · exact w.execDecoupledCompletion
  · exact w.execCoreException
  · exact w.execPartitionStop
  · exact w.execCtrClear
  · exact w.execWkCtrClear
  · exact w.execScrubRead
  · exact w.execPoisonOwnerWalk
  · exact w.execLp5xRetrain
  · exact w.execZqCalibration
  · exact w.execAlloc
  · exact w.execFree
  · exact w.execPoolEnable
  · exact w.execLeaseExpiry
  · exact w.execBfmLkuParityError
  · exact w.execHeaterLoopUpdate
  · exact w.execCalibrationStart
  · exact w.execCalibrationDone
  · exact w.execHtuRecharacterise
  · exact w.execLaserOffGrid
  · exact w.execLaserPowerLow
  · exact w.execRingUnlock
  · exact w.execHeaterAtLimit
  · exact w.execMonitorStuck
  · exact w.execHtuLoopUnlock
  · exact w.execHtuRelockTimeout
  · exact w.execLoopRelock
  · exact w.execLaserOverTemp
  · exact w.execTideWindow
  · exact w.execTideHoldTimeout
  · exact w.execDvfsChange
  · exact w.execDvfsVoltageReached
  · exact w.execRegulatorTimeout
  · exact w.execPmAlert
  · exact w.execDataFlit
  · exact w.execBubbleSend
  · exact w.execBubble
  · exact w.execControlRecord
  · exact w.execAckTimer
  · exact w.execReplayTimeout
  · exact w.execFabWrite
  · exact w.execFabRead
  · exact w.execFabLadd
  · exact w.execFabFadd
  · exact w.execFabLaddt
  · exact w.execFabSend
  · exact w.execBarArrive
  · exact w.execQuery
  · exact w.execProbe
  · exact w.execWack
  · exact w.execRdata
  · exact w.execAtmRsp
  · exact w.execSack
  · exact w.execRefuse
  · exact w.execAnswer
  · exact w.execMergeTimeout
  · exact w.execFabRespTimeout
  · exact w.execWriteCoalesceTimeout
  · exact w.execLaneUp
  · exact w.execLaneDown
  · exact w.execLaneRejoin
  · exact w.execPortTargetWrite
  · exact w.execProbeSend
  · exact w.execWindowOpen
  · exact w.execWindowClose
  · exact w.execCaptureHeaderWrite
  · exact w.execCaptureShed
  · exact w.execSpClkLoss
  · exact w.execSpFlush
  · exact w.execQblockPtrMismatch
  · exact w.execSpQbCfgWrite
  · exact w.nucCommand
  · exact w.nucCommand
  · exact w.execUnitSetDrainDone
  · exact w.execUnitSetTimeout
  · exact w.nucCommand
  · exact w.execReconcileCheckDone
  · exact w.nucCommand
  · exact w.nucCommand
  · exact w.nucCommand
  · exact w.execSetEndpointId
  · exact w.execGetEndpointId
  · exact w.execGetMctpVersionSupport
  · exact w.execGetMessageTypeSupport
  · exact w.execPldmBase
  · exact w.execGetSensorReading
  · exact w.spdmOver
  · exact w.spdmOver
  · exact w.spdmOver
  · exact w.spdmOver
  · exact w.spdmOver
  · exact w.spdmOver
  · exact w.spdmOver
  · exact w.execUnitFault
  · exact w.execStateMismatch
  · exact w.execNucleusAudit
  · exact w.execSensorSample
  · exact w.execLogIrqTimer
  · exact w.execErrLogEnable
  · exact w.execNucleusWatchdog
  · exact w.execNucleusRestart
  · exact w.execColdReset
  · exact w.execConventionalReset
  · exact w.execWarmReset
  · exact w.execConfigRequest
  · exact w.execStage0Done
  · exact w.execImageVerified
  · exact w.execLp5xTrainingDone
  · exact w.execLp5xZeroingDone
  · exact w.execComputeBringupDone
  · exact w.execUnitsBuilt
  · exact w.execStage3Timeout
  · exact w.execCalibrationTempTimeout
  · exact w.execHaloWarmupTimeout
  · exact w.execFlashRead
  · exact w.execFlashProgram
  · exact w.execFlashErase
  · exact w.execFlashOpDone
  · exact w.execHrefLoss
  · exact w.execSampleBeat
  · exact w.execCaptureWordDrain
  · exact w.execMessageRoute
  · exact w.execEngineResetDone
  · exact w.execLaserCooledRecalibration
  · exact w.execCalibrationTempReady
  · exact w.execRstNRelease
  · exact w.execPerstNRelease
  · exact w.execJtagInstruction

end State.memoryWf

end Sys2Proof.Machine
end

section
/-! PROOFS. Every byte memory keeps its canonical form. -/

namespace Sys2Proof.Machine

open Sys2Proof

/-- A tick of CK_RT touches no byte memory, and a command answers with a state in canonical form
(`State.memoryWf.exec`). -/
theorem step_leavesWf {s : State} (w : s.memoryWf) : LeavesWf (step s) := by
  unfold step
  split
  · exact State.memoryWf.next (w.same.ite w)
  · exact State.memoryWf.exec w.same

/-- Settles O4: what a step leaves is what its command leaves, and each command keeps the form of every byte memory. -/
theorem memoryWfStep : Obligations.MemoryWfStep := by
  unfold Obligations.MemoryWfStep
  intro s t w h
  exact step_leavesWf w t h

end Sys2Proof.Machine
end

section
/-! PROOFS. Serving a mailbox: what it grants, what waits, when it is open (R165, R166, R171, R179). -/

namespace Sys2Proof.Machine

open Sys2Proof

/-- A mailbox that has been served: levelled, and then granted what it allows. -/
def Mbox.served (running : Bool) (x : Mbox) : Mbox := mboxGrant running (mboxLevel x).waiting.length (mboxLevel x)

theorem mboxServe_eq (c : CoreId) (m : Fin 8) (s : State) :
    mboxServe c m s = modMbox c m (Mbox.served (decide (s.cores[c.val].st = .running))) s := rfl

theorem modMbox_congr {c : CoreId} {m : Fin 8} {f g : Mbox → Mbox} {s : State}
    (h : f (s.cores[c.val].mbox[m.val]) = g (s.cores[c.val].mbox[m.val])) : modMbox c m f s = modMbox c m g s := by
  unfold modMbox
  exact modCore_congr (by simp only [upd_congr h])

theorem modMbox_self (c : CoreId) (m : Fin 8) (f : Mbox → Mbox) (s : State)
    (h : f (s.cores[c.val].mbox[m.val]) = s.cores[c.val].mbox[m.val]) : modMbox c m f s = s := by
  unfold modMbox
  rw [modCore_congr (g := fun k => k) (by simp only [upd_self _ m f h])]
  exact modCore_self c s

theorem modMbox_box (c : CoreId) (m : Fin 8) (f : Mbox → Mbox) (s : State) :
    (modMbox c m f s).cores[c.val].mbox[m.val] = f (s.cores[c.val].mbox[m.val]) := by
  simp only [modMbox_cores, upd_same]

/-- Where no message of another node waits for the mailbox, a look at what waits serves it. -/
theorem ingressRetry_served (c : CoreId) (m : Fin 8) (s : State)
    (h : ∀ g ∈ s.fab.ingress, sendDest g s = some c → sendBox g ≠ m) : ingressRetry c m s = mboxServe c m s := by
  have hmine : (s.fab.ingress.filter fun g => sendDest g s == some c && sendBox g == m) = [] := by
    rw [List.filter_eq_nil_iff]
    intro g hg
    simpa using h g hg
  unfold ingressRetry
  simp only [hmine, List.drop_nil, List.take_nil, List.map_nil, List.length_nil]
  rw [modMbox_self c m _ s (by simp only [List.append_nil])]
  rfl

/-! ### Levels (R166) -/

/-- A mailbox that its marks and its fill agree with: closed at hw, open at lw. -/
def Mbox.Levelled (x : Mbox) : Prop :=
  (x.hw.toNat ≤ mboxFill x → x.closed = true) ∧ (mboxFill x ≤ x.lw.toNat → x.closed = false)

theorem mboxLevel_eq (x : Mbox) :
    mboxLevel x =
      { x with closed := if x.hw.toNat ≤ mboxFill x then true else if mboxFill x ≤ x.lw.toNat then false else x.closed } := by
  unfold mboxLevel
  dsimp only
  split
  · rfl
  · split <;> rfl

theorem mboxLevel_fill (x : Mbox) : mboxFill (mboxLevel x) = mboxFill x := by
  rw [mboxLevel_eq]
  rfl

theorem mboxLevel_levelled (x : Mbox) (h : x.lw.toNat < x.hw.toNat) : (mboxLevel x).Levelled := by
  unfold Mbox.Levelled
  rw [mboxLevel_fill, mboxLevel_eq]
  refine ⟨fun hhw => if_pos hhw, fun hlw => ?_⟩
  simp only at hlw
  dsimp only
  rw [if_neg (by omega), if_pos hlw]

/-- A mailbox whose flag agrees with its marks is levelled as it stands. -/
theorem mboxLevel_of_levelled (x : Mbox) (h : x.Levelled) : mboxLevel x = x := by
  obtain ⟨hhw, hlw⟩ := h
  unfold mboxLevel
  dsimp only
  split
  · next hf => rw [← hhw hf]
  · split
    · next hf => rw [← hlw hf]
    · rfl

/-! ### Grants (R165, R171) -/

/-- What granting leaves of a mailbox: the marks and the messages stand, and what waits joins what is granted in order. -/
structure Mbox.GrantsTo (x y : Mbox) : Prop where
  hw : y.hw = x.hw
  lw : y.lw = x.lw
  msgs : y.msgs = x.msgs
  granted : x.granted <+: y.granted
  order : x.granted ++ x.waiting = y.granted ++ y.waiting

theorem Mbox.GrantsTo.refl (x : Mbox) : x.GrantsTo x := ⟨rfl, rfl, rfl, List.prefix_rfl, rfl⟩

theorem Mbox.GrantsTo.trans {x y z : Mbox} (h : x.GrantsTo y) (k : y.GrantsTo z) : x.GrantsTo z :=
  ⟨k.hw.trans h.hw, k.lw.trans h.lw, k.msgs.trans h.msgs, h.granted.trans k.granted, h.order.trans k.order⟩

/-- The oldest reservation that waits is granted. -/
theorem Mbox.grantsTo_oldest {x : Mbox} {r : Resv} {t : List Resv} (h : x.waiting = r :: t) :
    x.GrantsTo { x with waiting := t, granted := x.granted ++ [r] } :=
  ⟨rfl, rfl, rfl, List.prefix_append _ _, by simp [h]⟩

theorem mboxLevel_grantsTo (x : Mbox) : x.GrantsTo (mboxLevel x) := by
  rw [mboxLevel_eq]
  exact ⟨rfl, rfl, rfl, List.prefix_rfl, rfl⟩

theorem mboxGrant_grantsTo (running : Bool) (n : Nat) (x : Mbox) : x.GrantsTo (mboxGrant running n x) := by
  induction n generalizing x with
  | zero => exact .refl x
  | succ n ih =>
    unfold mboxGrant
    split
    · exact .refl x
    · next r t hw =>
      have hr := Mbox.grantsTo_oldest hw
      split
      · exact hr.trans (ih _)
      · split
        · exact (hr.trans (mboxLevel_grantsTo _)).trans (ih _)
        · exact .refl x

theorem Mbox.served_grantsTo (running : Bool) (x : Mbox) : x.GrantsTo (x.served running) :=
  (mboxLevel_grantsTo x).trans (mboxGrant_grantsTo running _ _)

/-- A running core's mailbox stays levelled as it grants. -/
theorem mboxGrant_levelled (n : Nat) (x : Mbox) (hm : x.lw.toNat < x.hw.toNat) (h : x.Levelled) :
    (mboxGrant true n x).Levelled := by
  induction n generalizing x with
  | zero => exact h
  | succ n ih =>
    unfold mboxGrant
    split
    · exact h
    · next r t hw =>
      rw [if_neg (by decide)]
      split
      · obtain ⟨hhw, hlw, -⟩ := mboxLevel_grantsTo { x with waiting := t, granted := x.granted ++ [r] }
        exact ih _ (by rw [hhw, hlw]; exact hm) (mboxLevel_levelled _ hm)
      · exact h

theorem Mbox.served_levelled (x : Mbox) (hm : x.lw.toNat < x.hw.toNat) : (x.served true).Levelled := by
  obtain ⟨hhw, hlw, -⟩ := mboxLevel_grantsTo x
  exact mboxGrant_levelled _ _ (by rw [hhw, hlw]; exact hm) (mboxLevel_levelled x hm)

/-- A mailbox in which nothing waits is only levelled. -/
theorem Mbox.served_of_none (running : Bool) (x : Mbox) (h : x.waiting = []) : x.served running = mboxLevel x := by
  unfold Mbox.served
  rw [show (mboxLevel x).waiting = [] by rw [mboxLevel_eq]; exact h]
  rfl

/-- The mailbox of a core that does not run grants all that waits (R171). -/
theorem mboxGrant_all (n : Nat) (x : Mbox) (h : x.waiting.length ≤ n) :
    (mboxGrant false n x).granted = x.granted ++ x.waiting ∧ (mboxGrant false n x).waiting = [] := by
  induction n generalizing x with
  | zero =>
    have hnone := List.eq_nil_of_length_eq_zero (Nat.le_zero.mp h)
    exact ⟨by simp [mboxGrant, hnone], hnone⟩
  | succ n ih =>
    unfold mboxGrant
    split
    · next hw => exact ⟨by simp [hw], hw⟩
    · next r t hw =>
      rw [if_pos (by decide)]
      obtain ⟨hg, hn⟩ := ih { x with waiting := t, granted := x.granted ++ [r] } (by simpa [hw] using h)
      exact ⟨by rw [hg, hw]; simp, hn⟩

theorem Mbox.served_all (x : Mbox) : (x.served false).granted = x.granted ++ x.waiting ∧ (x.served false).waiting = [] := by
  obtain ⟨hg, hn⟩ := mboxGrant_all _ (mboxLevel x) (Nat.le_refl _)
  exact ⟨hg.trans (mboxLevel_grantsTo x).order.symm, hn⟩

end Sys2Proof.Machine
end

section
/-! PROOFS. The watermarks of a mailbox (R179, R187). -/

namespace Sys2Proof.Machine

open Sys2Proof

/-- The value that a write gives a mark. -/
theorem ofNat_bits (v : Word) (hi lo n : Nat) (h : hi + 1 - lo = n) : BitVec.ofNat n (bits v hi lo) = v.extractLsb' lo n := by
  subst h
  apply BitVec.eq_of_toNat_eq
  simp [bits]

/-- A mailbox with new watermarks. -/
def Mbox.marked (v : Word) (x : Mbox) : Mbox := { x with hw := v.extractLsb' 16 7, lw := v.extractLsb' 0 7 }

theorem extractLsb'_toNat_bits (v : Word) (hi lo n : Nat) (h : hi + 1 - lo = n) : (v.extractLsb' lo n).toNat = bits v hi lo := by
  subst h
  simp [bits]

/-- A write of watermarks with lw below hw serves the mailbox twice: as the marks change, and as what waits is looked at. -/
theorem mbxCfgWrite_served (c : CoreId) (m : Fin 8) (v : Word) (s : State) (h : bits v 6 0 < bits v 22 16)
    (hin : ∀ g ∈ s.fab.ingress, sendDest g s = some c → sendBox g ≠ m) :
    mbxCfgWrite c m v s = modMbox c m (fun x =>
      ((x.marked v).served (decide (s.cores[c.val].st = .running))).served (decide (s.cores[c.val].st = .running))) s := by
  have hserve := ingressRetry_served c m (mboxServe c m (modMbox c m (Mbox.marked v) s)) hin
  unfold mbxCfgWrite
  simp only [ofNat_bits v 22 16 7 rfl, ofNat_bits v 6 0 7 rfl, extractLsb'_toNat_bits v 22 16 7 rfl, extractLsb'_toNat_bits v 6 0 7 rfl]
  rw [if_pos h]
  refine hserve.trans ?_
  simp only [mboxServe_eq, modMbox_modMbox, modMbox_cores, upd_same]

/-- A write that leaves lw not below hw is ignored. -/
theorem mbxCfgWrite_ignored (c : CoreId) (m : Fin 8) (v : Word) (s : State) (h : bits v 22 16 ≤ bits v 6 0) :
    mbxCfgWrite c m v s = s := by
  unfold mbxCfgWrite
  simp only [ofNat_bits v 22 16 7 rfl, ofNat_bits v 6 0 7 rfl, extractLsb'_toNat_bits v 22 16 7 rfl, extractLsb'_toNat_bits v 6 0 7 rfl]
  exact if_neg (by omega)

/-- Settles O25: the mailbox with its new marks is levelled and served; serving keeps the marks and the messages, and grants
in order. -/
theorem mailboxWatermarks : Obligations.MailboxWatermarks := by
  unfold Obligations.MailboxWatermarks
  intro c m v s hlive
  have hexec : exec (.mbxCfgWrite c m v) s = .next (mbxCfgWrite c m v s) := by
    show act (live s) (mbxCfgWrite c m v) s = _
    rw [hlive, act_true]
  have hhw := extractLsb'_toNat_bits v 22 16 7 rfl
  have hlw := extractLsb'_toNat_bits v 6 0 7 rfl
  rw [hexec]
  refine ⟨fun hlt hin => ⟨fun hnone => ?_, ?_⟩, fun hle => ?_⟩
  · rw [mbxCfgWrite_served c m v s hlt hin]
    congr 1
    refine modMbox_congr ?_
    rw [Mbox.served_of_none _ (Mbox.marked v _) hnone, Mbox.served_of_none _ _ (by rw [mboxLevel_eq]; exact hnone),
      mboxLevel_of_levelled _ (mboxLevel_levelled _ (hlw ▸ hhw ▸ hlt)), mboxLevel_eq]
    simp only [Mbox.marked, hhw, hlw]
    rfl
  · refine ⟨_, rfl, ?_⟩
    rw [mbxCfgWrite_served c m v s hlt hin]
    dsimp only
    rw [modMbox_box]
    generalize s.cores[c.val].mbox[m.val] = x
    generalize hy : Mbox.served _ (Mbox.served _ (x.marked v)) = y
    have hg : (x.marked v).GrantsTo y := hy ▸ (Mbox.served_grantsTo _ _).trans (Mbox.served_grantsTo _ _)
    refine ⟨by rw [hg.hw]; exact hhw, by rw [hg.lw]; exact hlw, hg.granted, hg.msgs, hg.order, fun hr => ?_⟩
    obtain ⟨hhw2, hlw2, -⟩ := Mbox.served_grantsTo true (x.marked v)
    have hlev : y.Levelled := by
      rw [← hy, decide_eq_true hr]
      refine Mbox.served_levelled _ ?_
      rw [hhw2, hlw2]
      exact hlw ▸ hhw ▸ hlt
    exact ⟨fun h => hlev.1 (by rw [hg.hw]; exact hhw.le.trans h), fun h => hlev.2 (by rw [hg.lw]; exact h.trans hlw.ge)⟩
  · rw [mbxCfgWrite_ignored c m v s hle]

end Sys2Proof.Machine
end

section
/-! PROOFS. The journeys of a message (R165, R166, R170, R171, R185). -/

namespace Sys2Proof.Machine

open Sys2Proof

/-! ### What a change of one core keeps of every core -/

/-- What a change of a core keeps of that core, it keeps of every core. -/
theorem modCore_keeps {β : Type} (g : Core → β) (c d : CoreId) (f : Core → Core) (s : State) (h : ∀ k, g (f k) = g k) :
    g (modCore c f s).cores[d.val] = g s.cores[d.val] := by
  rw [modCore_cores]
  by_cases e : d = c
  · subst e
    rw [upd_same, h]
  · rw [upd_other _ _ _ _ d.isLt fun q => e (Fin.ext q)]

theorem modMbox_keeps {β : Type} (g : Core → β) (c d : CoreId) (m : Fin 8) (f : Mbox → Mbox) (s : State)
    (h : ∀ k b, g (k.withBoxes b) = g k) : g (modMbox c m f s).cores[d.val] = g s.cores[d.val] :=
  modCore_keeps g c d _ s fun k => h k (upd k.mbox m f)

theorem modMbox_sendBuf (c d : CoreId) (m : Fin 8) (f : Mbox → Mbox) (s : State) :
    (modMbox c m f s).cores[d.val].sendBuf = s.cores[d.val].sendBuf := modMbox_keeps Core.sendBuf c d m f s fun _ _ => rfl

theorem modMbox_st (c d : CoreId) (m : Fin 8) (f : Mbox → Mbox) (s : State) :
    (modMbox c m f s).cores[d.val].st = s.cores[d.val].st := modMbox_keeps Core.st c d m f s fun _ _ => rfl

theorem modMbox_msgDrop (c d : CoreId) (m : Fin 8) (f : Mbox → Mbox) (s : State) :
    (modMbox c m f s).cores[d.val].msgDrop = s.cores[d.val].msgDrop := modMbox_keeps Core.msgDrop c d m f s fun _ _ => rfl

theorem modMbox_stall (c d : CoreId) (m : Fin 8) (f : Mbox → Mbox) (s : State) :
    (modMbox c m f s).cores[d.val].stall = s.cores[d.val].stall := modMbox_keeps Core.stall c d m f s fun _ _ => rfl

/-- An exception of another core leaves alone one that waits at no barrier. -/
theorem raise_keepsCore {c k : CoreId} (e : c ≠ k) (cause : Cause) (glob : Bool) (addr : Dword) (s : State)
    (h : ∀ b, s.cores[c.val].stall ≠ .bar b) : KeepsCore c s (raise k cause glob addr s) := by
  unfold raise raiseAt
  split
  · have hone := raiseOne_keepsCore e cause s.cores[k.val].pc glob addr s
    exact hone.trans (leftRunning_keepsCore c k _ (by rw [hone.1]; exact h))
  · exact .refl c s

/-- A core that waits on nothing, or that raises, waits on nothing after the exception. -/
theorem raise_stall (c k : CoreId) (cause : Cause) (glob : Bool) (addr : Dword) (s : State) (hr : s.cores[k.val].st = .running)
    (h : s.cores[c.val].stall = .none) : (raise k cause glob addr s).cores[c.val].stall = .none := by
  by_cases e : c = k
  · subst e
    rw [(raise_core c cause glob addr s hr).1]
    rfl
  · rw [(raise_keepsCore e cause glob addr s (by simp [h])).1, h]

/-! ### The send buffer (R165) -/

/-- A core with this send buffer. -/
def Core.sends (k : Core) (l : List OutMsg) : Core := { k with sendBuf := l }

theorem modCore_sends_keeps {β : Type} (g : Core → β) (c d : CoreId) (l : Core → List OutMsg) (s : State)
    (h : ∀ k l, g (Core.sends k l) = g k) : g (modCore c (fun k => k.sends (l k)) s).cores[d.val] = g s.cores[d.val] :=
  modCore_keeps g c d _ s fun k => h k _

theorem modCore_sends_st (c d : CoreId) (l : Core → List OutMsg) (s : State) :
    (modCore c (fun k => k.sends (l k)) s).cores[d.val].st = s.cores[d.val].st :=
  modCore_sends_keeps Core.st c d l s fun _ _ => rfl

theorem modCore_sends_mbox (c d : CoreId) (l : Core → List OutMsg) (s : State) :
    (modCore c (fun k => k.sends (l k)) s).cores[d.val].mbox = s.cores[d.val].mbox :=
  modCore_sends_keeps Core.mbox c d l s fun _ _ => rfl

/-- The oldest message of a send buffer takes a step. -/
theorem setStep_oldest (c : CoreId) (m : OutMsg) (st : SendStep) (rest : List OutMsg) (s : State)
    (h : s.cores[c.val].sendBuf = m :: rest) :
    setStep c m st s = modCore c (fun k => k.sends ({ m with step := st } :: rest)) s := by
  unfold setStep
  refine modCore_congr ?_
  simp only [h, modFirst, beq_self_eq_true, if_true]
  rfl

/-- The reservation of a message of these bytes by this core. -/
def reservation (c : CoreId) (m : OutMsg) : Resv := ⟨some c, (m.data.length + 63) / 64⟩

/-- A mailbox in which a reservation waits last. -/
def Mbox.waits (r : Resv) (x : Mbox) : Mbox := { x with waiting := x.waiting ++ [r] }

/-- The state in which the oldest message has made its reservation. -/
def reserved (c : CoreId) (m : OutMsg) (rest : List OutMsg) (s : State) : State :=
  modMbox m.dest m.mbox (fun x => (x.waits (reservation c m)).served (decide (s.cores[m.dest.val].st = .running)))
    (modCore c (fun k => k.sends ({ m with step := .reserved } :: rest)) s)

section
variable {c : CoreId} {s : State} {m : OutMsg} {rest : List OutMsg} (hlive : live s = true)
  (hbuf : s.cores[c.val].sendBuf = m :: rest)
include hlive hbuf

theorem exec_mbxReservation (hnew : m.step = .new) :
    exec (.mbxReservation c) s =
      .next (if 32 ≤ (s.cores[m.dest.val].mbox[m.mbox.val]).waiting.length then
        modCore c (fun k => k.sends ({ m with step := .retry } :: rest)) s else reserved c m rest s) := by
  have hmay : mayReserve [] s.cores[c.val].sendBuf = some m := by
    rw [hbuf]
    simp [mayReserve, hnew]
  show execMbxReservation c s = _
  unfold execMbxReservation
  rw [hmay]
  simp only [hlive, act_true, setStep_oldest c m _ rest s hbuf, mboxServe_eq, modMbox_modMbox, modMbox_st]
  rw [modCore_sends_st]
  rfl

theorem exec_mbxRetryTimer (hretry : m.step = .retry) :
    exec (.mbxRetryTimer c) s = .next (modCore c (fun k => k.sends ({ m with step := .new } :: rest)) s) := by
  show execMbxRetryTimer c s = _
  unfold execMbxRetryTimer
  rw [hbuf, List.find?_cons_of_pos (by simpa using hretry)]
  simp only [hlive, act_true, setStep_oldest c m _ rest s hbuf]

theorem exec_mbxGrant (hres : m.step = .reserved) (hgrant : grantedTo c m.dest m.mbox s < grantsTo c m.dest m.mbox s) :
    exec (.mbxGrant c) s = .next (modCore c (fun k => k.sends ({ m with step := .granted } :: rest)) s) := by
  show execMbxGrant c s = _
  unfold execMbxGrant
  rw [hbuf, List.find?_cons_of_pos (by simp [hres, hgrant])]
  simp only [hlive, act_true, setStep_oldest c m _ rest s hbuf]

theorem exec_mbxData (hgranted : m.step = .granted) (mismatch : Bool) :
    exec (.mbxData c mismatch) s = .next (resume c (mbxDeliver c m mismatch s)) := by
  show execMbxData c mismatch s = _
  unfold execMbxData
  rw [hbuf, List.find?_cons_of_pos (by simpa using hgranted)]
  simp only [hlive, act_true]

end

theorem reserved_sendBuf (c : CoreId) (m : OutMsg) (rest : List OutMsg) (s : State) :
    (reserved c m rest s).cores[c.val].sendBuf = { m with step := .reserved } :: rest := by
  unfold reserved
  rw [modMbox_sendBuf, modCore_cores, upd_same]
  rfl

theorem reserved_box (c : CoreId) (m : OutMsg) (rest : List OutMsg) (s : State) :
    (reserved c m rest s).cores[m.dest.val].mbox[m.mbox.val] =
      ((s.cores[m.dest.val].mbox[m.mbox.val]).waits (reservation c m)).served (decide (s.cores[m.dest.val].st = .running)) := by
  unfold reserved
  rw [modMbox_box, modCore_sends_mbox]

/-! ### What a reservation meets (R165, R166) -/

/-- The open mailbox of a running core grants the oldest reservation if it fits. -/
theorem mboxGrant_fits (n : Nat) (x : Mbox) {r : Resv} {t : List Resv} (hw : x.waiting = r :: t) (hopen : x.closed = false)
    (hroom : mboxFill x + r.words ≤ 64) :
    mboxGrant true (n + 1) x = mboxGrant true n (mboxLevel { x with waiting := t, granted := x.granted ++ [r] }) := by
  rw [mboxGrant]
  split
  · next h => cases hw.symm.trans h
  · next h =>
    cases hw.symm.trans h
    rw [if_neg (by decide), if_pos (by simp [hopen, hroom])]

/-- An open mailbox with room grants the only reservation at once. -/
theorem Mbox.served_open (x : Mbox) (r : Resv) (hnone : x.waiting = []) (hopen : x.closed = false) (hhw : mboxFill x < x.hw.toNat)
    (hroom : mboxFill x + r.words ≤ 64) :
    ((x.waits r).served true).granted = x.granted ++ [r] ∧ ((x.waits r).served true).waiting = [] ∧
      ((x.waits r).served true).msgs = x.msgs := by
  have hlevel : mboxLevel (x.waits r) = x.waits r :=
    mboxLevel_of_levelled _ ⟨fun h => absurd h (Nat.not_le.mpr hhw), fun _ => hopen⟩
  have hwait : (x.waits r).waiting = [r] := by simp [Mbox.waits, hnone]
  have hserve : (x.waits r).served true = mboxLevel { x with waiting := [], granted := x.granted ++ [r] } := by
    unfold Mbox.served
    rw [hlevel, hwait]
    exact mboxGrant_fits 0 (x.waits r) hwait hopen hroom
  rw [hserve, mboxLevel_eq]
  exact ⟨rfl, rfl, rfl⟩

/-- The closed mailbox of a running core grants nothing. -/
theorem mboxGrant_closed (n : Nat) (x : Mbox) (h : x.closed = true) : mboxGrant true n x = x := by
  cases n with
  | zero => rfl
  | succ n =>
    unfold mboxGrant
    split
    · rfl
    · simp [h]

/-- A closed mailbox above its lower mark lets a reservation wait. -/
theorem Mbox.served_closed (x : Mbox) (r : Resv) (hclosed : x.closed = true) (hlw : x.lw.toNat < mboxFill x) :
    ((x.waits r).served true).granted = x.granted ∧ ((x.waits r).served true).waiting = x.waiting ++ [r] := by
  have hlevel : mboxLevel (x.waits r) = x.waits r :=
    mboxLevel_of_levelled _ ⟨fun _ => hclosed, fun h => absurd h (Nat.not_le.mpr hlw)⟩
  unfold Mbox.served
  rw [hlevel]
  rw [mboxGrant_closed _ (x.waits r) hclosed]
  exact ⟨rfl, rfl⟩

/-! ### The data of a message (R166, R170, R171, R185) -/

/-- The state in which the oldest message has left the send buffer and has taken up its grant. -/
def departed (c : CoreId) (m : OutMsg) (s : State) : State :=
  modMbox m.dest m.mbox (fun x =>
      match takeFirst (fun r : Resv => r.src == some c) x.granted with
      | some (_, g) => { x with granted := g }
      | none => x)
    (modCore c (fun k => k.sends (k.sendBuf.erase m)) s)

theorem departed_sendBuf (c : CoreId) (m : OutMsg) (rest : List OutMsg) (s : State) (h : s.cores[c.val].sendBuf = m :: rest) :
    (departed c m s).cores[c.val].sendBuf = rest := by
  unfold departed
  rw [modMbox_sendBuf, modCore_cores, upd_same]
  simp [h, Core.sends]

theorem departed_box (c : CoreId) (m : OutMsg) (s : State) :
    ((departed c m s).cores[m.dest.val].mbox[m.mbox.val]).msgs = (s.cores[m.dest.val].mbox[m.mbox.val]).msgs ∧
      ((departed c m s).cores[m.dest.val].mbox[m.mbox.val]).ptrResets = (s.cores[m.dest.val].mbox[m.mbox.val]).ptrResets := by
  unfold departed
  rw [modMbox_box, modCore_sends_mbox]
  split <;> exact ⟨rfl, rfl⟩

theorem departed_keeps {β : Type} (g : Core → β) (c d : CoreId) (m : OutMsg) (s : State) (hb : ∀ k b, g (k.withBoxes b) = g k)
    (hs : ∀ k l, g (Core.sends k l) = g k) : g (departed c m s).cores[d.val] = g s.cores[d.val] := by
  unfold departed
  rw [modMbox_keeps g _ d _ _ _ hb, modCore_sends_keeps g c d _ s hs]

theorem departed_stall (c d : CoreId) (m : OutMsg) (s : State) : (departed c m s).cores[d.val].stall = s.cores[d.val].stall :=
  departed_keeps Core.stall c d m s (fun _ _ => rfl) fun _ _ => rfl

theorem departed_st (c d : CoreId) (m : OutMsg) (s : State) : (departed c m s).cores[d.val].st = s.cores[d.val].st :=
  departed_keeps Core.st c d m s (fun _ _ => rfl) fun _ _ => rfl

theorem departed_freeze (c d : CoreId) (m : OutMsg) (s : State) :
    (departed c m s).cores[d.val].ctrFreeze = s.cores[d.val].ctrFreeze :=
  departed_keeps Core.ctrFreeze c d m s (fun _ _ => rfl) fun _ _ => rfl

theorem departed_msgDrop (c d : CoreId) (m : OutMsg) (s : State) :
    (departed c m s).cores[d.val].msgDrop = s.cores[d.val].msgDrop :=
  departed_keeps Core.msgDrop c d m s (fun _ _ => rfl) fun _ _ => rfl

/-! A discarded message changes a count. -/

theorem countDrop_keeps {β : Type} (g : Core → β) (c d : CoreId) (s : State) (h : ∀ k n, g { k with msgDrop := n } = g k) :
    g (countDrop c s).cores[d.val] = g s.cores[d.val] :=
  modCore_keeps g c d _ s fun k => h k (if k.ctrFreeze then k.msgDrop else k.msgDrop + 1)

theorem countDrop_sendBuf (c d : CoreId) (s : State) : (countDrop c s).cores[d.val].sendBuf = s.cores[d.val].sendBuf :=
  countDrop_keeps Core.sendBuf c d s fun _ _ => rfl

theorem countDrop_stall (c d : CoreId) (s : State) : (countDrop c s).cores[d.val].stall = s.cores[d.val].stall :=
  countDrop_keeps Core.stall c d s fun _ _ => rfl

theorem countDrop_mbox (c d : CoreId) (s : State) : (countDrop c s).cores[d.val].mbox = s.cores[d.val].mbox :=
  countDrop_keeps Core.mbox c d s fun _ _ => rfl

theorem countDrop_msgDrop (c : CoreId) (s : State) (h : s.cores[c.val].ctrFreeze = false) :
    (countDrop c s).cores[c.val].msgDrop = s.cores[c.val].msgDrop + 1 := by
  unfold countDrop
  rw [modCore_cores, upd_same]
  simp [h]

theorem recvWake_going (c : CoreId) (m : Fin 8) (s : State) (h : s.cores[c.val].stall = .none) : recvWake c m s = s := by
  unfold recvWake
  rw [h]

/-- Data that is stored joins a mailbox of a running core that waits on nothing. -/
theorem mboxStore_stored (c : CoreId) (m : Fin 8) (g : MboxMsg) (s : State) (hr : s.cores[c.val].st = .running)
    (hs : s.cores[c.val].stall = .none) :
    mboxStore c m g false s = modMbox c m (fun x => ({ x with msgs := x.msgs ++ [g] } : Mbox).served true) s := by
  have hserve : mboxServe c m (modMbox c m (fun x => { x with msgs := x.msgs ++ [g] }) s) =
      modMbox c m (fun x => ({ x with msgs := x.msgs ++ [g] } : Mbox).served true) s := by
    rw [mboxServe_eq, modMbox_modMbox, modMbox_st, hr]
    rfl
  unfold mboxStore
  rw [if_neg (by simp [hr]), hserve, recvWake_going _ _ _ (by rw [modMbox_stall, hs])]

/-- Data that is old, or whose core does not run, is discarded. -/
theorem mboxStore_discarded (c : CoreId) (m : Fin 8) (g : MboxMsg) (stale : Bool) (s : State)
    (h : s.cores[c.val].st ≠ .running ∨ stale = true) : mboxStore c m g stale s = mboxServe c m (countDrop c s) := by
  unfold mboxStore
  rw [if_pos (by rcases h with h | h <;> simp [h])]

theorem mbxDeliver_data (c : CoreId) (m : OutMsg) (s : State) :
    mbxDeliver c m false s =
      ingressRetry m.dest m.mbox (mboxStore m.dest m.mbox ⟨BitVec.ofNat 16 (senderIndex c s), m.data⟩
        (s.inst[(coreInst m.dest s).val].gen != m.gen) (departed c m s)) := rfl

theorem mbxDeliver_mismatch (c : CoreId) (m : OutMsg) (s : State) :
    mbxDeliver c m true s = mboxPtrReset m.dest m.mbox (departed c m s) := rfl

/-- A mailbox that a change has been served after, twice. -/
theorem Mbox.served_served_msgs (p q : Bool) (x : Mbox) : ((x.served p).served q).msgs = x.msgs :=
  (Mbox.served_grantsTo q _).msgs.trans (Mbox.served_grantsTo p x).msgs

section
variable {c : CoreId} {s : State} {m : OutMsg} (hin : s.fab.ingress = []) (hd : s.cores[m.dest.val].stall = .none)
  (hc : s.cores[c.val].stall = .none)
include hin hc

section
include hd

/-- The data of a message of the present generation joins the mailbox of a running core. -/
theorem mbxDeliver_stored (hr : s.cores[m.dest.val].st = .running) (hgen : s.inst[(coreInst m.dest s).val].gen = m.gen) :
    ∃ f : Mbox → Mbox, (∀ x, (f x).msgs = x.msgs ++ [⟨BitVec.ofNat 16 (senderIndex c s), m.data⟩]) ∧
      resume c (mbxDeliver c m false s) = modMbox m.dest m.mbox f (departed c m s) := by
  have hst := (departed_st c m.dest m s).trans hr
  have hstall := (departed_stall c m.dest m s).trans hd
  rw [mbxDeliver_data, hgen, bne_self_eq_false, mboxStore_stored _ _ _ _ hst hstall,
    ingressRetry_served _ _ _ (by simp [departed, hin]), mboxServe_eq, modMbox_modMbox,
    resume_going _ _ (by rw [modMbox_stall, departed_stall, hc])]
  exact ⟨_, fun x => Mbox.served_served_msgs _ _ _, rfl⟩

end

/-- The data of a message that is old, or whose core does not run, is counted and discarded. -/
theorem mbxDeliver_discarded
    (h : s.cores[m.dest.val].st ≠ .running ∨ s.inst[(coreInst m.dest s).val].gen ≠ m.gen) :
    ∃ f : Mbox → Mbox, (∀ x, (f x).msgs = x.msgs) ∧
      resume c (mbxDeliver c m false s) = modMbox m.dest m.mbox f (countDrop m.dest (departed c m s)) := by
  have hold : (departed c m s).cores[m.dest.val].st ≠ .running ∨ (s.inst[(coreInst m.dest s).val].gen != m.gen) = true := by
    rw [departed_st]
    simpa using h
  rw [mbxDeliver_data, mboxStore_discarded _ _ _ _ _ hold, mboxServe_eq,
    ingressRetry_served _ _ _ (by simp [departed, countDrop, hin]), mboxServe_eq, modMbox_modMbox,
    resume_going _ _ (by rw [modMbox_stall, countDrop_stall, departed_stall, hc])]
  exact ⟨_, fun x => Mbox.served_served_msgs _ _ _, rfl⟩

end

/-- Pointers that differ empty the mailbox, which counts it, and its core raises. -/
theorem mboxPtrReset_core (c : CoreId) (m : Fin 8) (s : State) (hr : s.cores[c.val].st = .running) :
    ((mboxPtrReset c m s).cores[c.val].mbox[m.val]).msgs = [] ∧
      ((mboxPtrReset c m s).cores[c.val].mbox[m.val]).ptrResets = satInc (s.cores[c.val].mbox[m.val]).ptrResets ∧
      (mboxPtrReset c m s).cores[c.val].st = .faulted ∧ (mboxPtrReset c m s).cores[c.val].faultCause = 9 := by
  have hcore := (raise_core c .mbxPtr false 0
    (modMbox c m (fun x => { x with msgs := [], closed := false, ptrResets := satInc x.ptrResets }) s)
    (by rw [modMbox_st, hr])).1
  unfold mboxPtrReset
  rw [hcore]
  simp only [faultCore, Vector.getElem_map, modMbox_box]
  have hkeep (n x) := mboxGrant_keeps false n x
  refine ⟨(hkeep _ _).1, (hkeep _ _).2, trivial, rfl⟩

/-- Settles O24: each leg is what its command does to the send buffer and to the mailbox that its oldest message names. -/
theorem messageJourney : Obligations.MessageJourney := by
  unfold Obligations.MessageJourney
  intro c s m rest hlive hbuf
  have hreserve : m.step = .new → (s.cores[m.dest.val].mbox[m.mbox.val]).waiting.length < 32 →
      exec (.mbxReservation c) s = .next (reserved c m rest s) := fun hnew hroom => by
    rw [exec_mbxReservation hlive hbuf hnew, if_neg (by omega)]
  have hsent := reserved_sendBuf c m rest s
  have hbox := reserved_box c m rest s
  refine ⟨fun hnew hr hnone hopen hhw hroom => ?_, fun hnew hr hwait hclosed hlw => ?_, fun hnew hr hwait => ?_,
    fun hnew hfull => ?_, exec_mbxRetryTimer hlive hbuf, exec_mbxGrant hlive hbuf, fun hstep hin hd hc => ⟨?_, ?_, ?_⟩⟩
  · refine ⟨_, hreserve hnew (by simp [hnone]), hsent, ?_⟩
    rw [hbox, decide_eq_true hr]
    exact Mbox.served_open _ (reservation c m) hnone hopen hhw hroom
  · refine ⟨_, hreserve hnew hwait, hsent, ?_⟩
    rw [hbox, decide_eq_true hr]
    exact Mbox.served_closed _ (reservation c m) hclosed hlw
  · refine ⟨_, hreserve hnew hwait, hsent, ?_⟩
    rw [hbox, decide_eq_false hr]
    obtain ⟨hg, hn⟩ := Mbox.served_all ((s.cores[m.dest.val].mbox[m.mbox.val]).waits (reservation c m))
    exact ⟨hg.trans (List.append_assoc _ _ _).symm, hn⟩
  · rw [exec_mbxReservation hlive hbuf hnew, if_pos hfull]
    rfl
  all_goals rw [exec_mbxData hlive hbuf hstep]
  · intro hr hgen
    obtain ⟨f, hmsgs, hdeliver⟩ := mbxDeliver_stored hin hd hc hr hgen
    refine ⟨_, rfl, ?_, ?_⟩
    · rw [hdeliver, modMbox_sendBuf, departed_sendBuf c m rest s hbuf]
    · rw [hdeliver, modMbox_box, hmsgs, (departed_box c m s).1]
  · intro hdrop
    obtain ⟨f, hmsgs, hdeliver⟩ := mbxDeliver_discarded hin hc hdrop
    refine ⟨_, rfl, ?_, ?_, fun hfreeze => ?_⟩
    · rw [hdeliver, modMbox_sendBuf, countDrop_sendBuf, departed_sendBuf c m rest s hbuf]
    · rw [hdeliver, modMbox_box, hmsgs, countDrop_mbox, (departed_box c m s).1]
    · rw [hdeliver, modMbox_msgDrop, countDrop_msgDrop _ _ (by rw [departed_freeze, hfreeze]), departed_msgDrop]
  · intro hr
    obtain ⟨hmsgs, hptr, hst, hcause⟩ := mboxPtrReset_core m.dest m.mbox (departed c m s) ((departed_st c m.dest m s).trans hr)
    have hgoing : (mboxPtrReset m.dest m.mbox (departed c m s)).cores[c.val].stall = .none :=
      raise_stall _ _ _ _ _ _ (by rw [modMbox_st, departed_st, hr]) (by rw [modMbox_stall, departed_stall, hc])
    rw [mbxDeliver_mismatch, resume_going _ _ hgoing]
    exact ⟨_, rfl, hmsgs, by rw [hptr, (departed_box c m s).2], hst, hcause⟩

end Sys2Proof.Machine
end

section
/-! PROOFS. Loads from local memory, and the errors that they find (R155 to R157, R196 to R198, R209, R211, R218, R387 to
R389). -/

namespace Sys2Proof.Machine

open Sys2Proof

/-! ### An error that a read meets (R387, R388) -/

/-- An error that a command meets in local memory leaves device memory alone. -/
theorem upset_local {err : Option LineErr} {l : Nat} {unc : Bool} (h : err = none ∨ MeetsError err l unc) (s : State) :
    upset err s = s := by
  rcases h with rfl | rfl <;> rfl

/-- No other error of the core lies in line l. -/
def NoErrorIn (k : Core) (l : Nat) : Prop := ∀ e ∈ k.latent, e.1 ≠ l

theorem NoErrorIn.filter {k : Core} {l : Nat} (h : NoErrorIn k l) : k.latent.filter (fun x => x.1 ≠ l) = k.latent :=
  List.filter_eq_self.2 fun e he => decide_eq_true (h e he)

/-- A core with an error in line l. -/
def Core.upset (k : Core) (l : Nat) (unc : Bool) : Core := { k with latent := (l, unc) :: k.latent }

/-- In a line that had no error, a read finds the one put there, and no other. -/
theorem localFind_upset (c : CoreId) (a n l : Nat) (unc : Bool) (s : State) (hl : linesOf a n = [l])
    (hclean : NoErrorIn s.cores[c.val] l) :
    localFind c a n (localUpset c (some { loc := true, line := l, unc := unc }) s) =
      localFound c (l, unc) (modCore c (fun k => k.upset l unc) s) := by
  have hput : localUpset c (some { loc := true, line := l, unc := unc }) s = modCore c (fun k => k.upset l unc) s :=
    modCore_congr (by rw [hclean.filter]; rfl)
  have hfound : (s.cores[c.val].upset l unc).latent.filter (fun e => (linesOf a n).contains e.1) = [(l, unc)] := by
    unfold Core.upset
    rw [hl, List.filter_cons_of_pos (by simp), List.filter_eq_nil_iff.2]
    intro e he
    simpa using hclean e he
  rw [hput]
  unfold localFind
  simp only [modCore_cores, upd_same, hfound, List.foldl_cons, List.foldl_nil]

/-- A correctable error is counted, and the core is as it was. -/
theorem localFound_corrected (c : CoreId) (l : Nat) (s : State) (hclean : NoErrorIn s.cores[c.val] l) :
    localFound c (l, false) (modCore c (fun k => k.upset l false) s) =
      modDie (coreDie c) (fun d => { d with sramCe := satInc d.sramCe }) s := by
  have hfix : (s.cores[c.val].upset l false).latent.filter (fun x => x.1 ≠ l) = s.cores[c.val].latent := by
    unfold Core.upset
    rw [List.filter_cons_of_neg (by simp), hclean.filter]
  unfold localFound
  rw [modCore_modCore, modCore_congr (g := fun k => k) (by dsimp only; rw [hfix]; rfl), modCore_self]
  rfl

/-- What a load finds on its way where its line is clean but for a correctable error. -/
theorem localFind_corrected (c : CoreId) (a n l : Nat) (err : Option LineErr) (s : State) (hl : linesOf a n = [l])
    (hclean : CleanLines s.cores[c.val] a n) (herr : err = none ∨ MeetsError err l false) :
    localFind c a n (localUpset c err s) = corrected c err s := by
  have hlatent : NoErrorIn s.cores[c.val] l := (hclean l (by simp [hl])).2
  rcases herr with rfl | rfl
  · exact localFind_clean c a n s hclean
  · rw [localFind_upset c a n l false s hl hlatent, localFound_corrected c l s hlatent]
    rfl

theorem addLine_self (ls : List Nat) (l : Nat) : l ∈ addLine ls l := by
  induction ls with
  | nil => exact List.mem_singleton_self l
  | cons y t ih =>
    unfold addLine
    split
    · exact List.mem_cons_self
    · split
      · next h => exact h ▸ List.mem_cons_self
      · exact List.mem_cons_of_mem _ ih

/-- An error that cannot be corrected poisons its line. -/
theorem localFound_poisons (c : CoreId) (l : Nat) (s : State) : l ∈ (localFound c (l, true) s).cores[c.val].poisoned := by
  unfold localFound
  rw [if_pos rfl, (onlyAccess.logPf 0x0500 0xFF 0 0 c.val _).1]
  simp only [modCore_cores, upd_same, if_true]
  exact addLine_self _ _

/-- What a load finds on its way where its line is clean but for an error that cannot be corrected. -/
theorem localFind_poisons (c : CoreId) (a n l : Nat) (err : Option LineErr) (s : State) (hl : linesOf a n = [l])
    (hclean : NoErrorIn s.cores[c.val] l) (herr : MeetsError err l true) :
    ErrorsFound s.cores[c.val] (localFind c a n (localUpset c err s)).cores[c.val] ∧
      l ∈ (localFind c a n (localUpset c err s)).cores[c.val].poisoned := by
  cases herr
  rw [localFind_upset c a n l true s hl hclean]
  have hput : ErrorsFound s.cores[c.val] (modCore c (fun k => k.upset l true) s).cores[c.val] := by
    rw [modCore_cores, upd_same]
    exact ⟨rfl, fun _ h => h⟩
  exact ⟨hput.trans (localFound_core c _ _), localFound_poisons c l _⟩

/-! ### The front end reads (R211, R218) -/

/-- What the front end reads, and what the read leaves. -/
theorem localRead_front (c : CoreId) (a n : Nat) (s : State) :
    ∃ d f, localRead none c a n s = (d, { s with free := f }) ∧ FrontReads c a n d f s := by
  have hlen : (localBytes s.cores[c.val] a n).length = n := Memory.length_read _ _ _ _
  have hbyte : ∀ i < n, (localBytes s.cores[c.val] a n).getD i 0 = Memory.get 0 s.cores[c.val].mem (a + i) := fun i hi => by
    rw [List.getD_eq_getElem _ _ (by rw [hlen]; exact hi)]
    exact Memory.getElem_read _ _ _ _ _ _
  unfold localRead freeRaced
  split
  · next hr =>
    refine ⟨_, _, rfl, by simpa using hlen, fun i hi hfree => ?_, fun h => absurd hr (by rw [hlen, h]; decide)⟩
    rw [← hbyte i hi]
    simp only [List.getD_eq_getElem?_getD, List.getElem?_mapIdx]
    rw [List.getElem?_eq_getElem (by rw [hlen]; exact hi)]
    simp [hfree]
  · exact ⟨_, _, rfl, hlen, fun i hi _ => hbyte i hi, fun _ => rfl⟩

theorem corrected_cores (c : CoreId) (err : Option LineErr) (s : State) : (corrected c err s).cores = s.cores := by
  unfold corrected
  split <;> rfl

theorem corrected_free (c : CoreId) (err : Option LineErr) (s : State) : (corrected c err s).free = s.free := by
  unfold corrected
  split <;> rfl

theorem FrontReads.corrected {c : CoreId} {a n f : Nat} {d : List Byte} {err : Option LineErr} {s : State}
    (h : FrontReads c a n d f (corrected c err s)) : FrontReads c a n d f s := by
  unfold FrontReads at *
  rwa [corrected_cores, corrected_free] at h

/-! ### A load (R196, R197, R208) -/

/-- The core that has taken what it loads into its register. -/
def Core.loads (w : MFmt) (f : LoadForm) (d : List Byte) (k : Core) : Core :=
  if f.vec then k.putV w.t (BitVec.ofNat 512 (leNat d)) else k.putS w.t (scalarOf f.signed d)

theorem Core.loads_pc (w : MFmt) (f : LoadForm) (d : List Byte) (k : Core) : (k.loads w f d).pc = k.pc := by
  unfold Core.loads Core.putS
  split
  · rfl
  · split <;> rfl

/-- A load in local space issues where its registers are free and the slot it names is settled. -/
theorem loadInstr_local (c : CoreId) (w : MFmt) (ok : Bool) (f : LoadForm) (err : Option LineErr) (l : Nat) (unc : Bool) (s : State)
    (h : Executes c w.g s) (hok : ok = true) (hsp : w.sp = 0) (hn : w.n = 0) (herr : err = none ∨ MeetsError err l unc)
    (hslot : SlotsSettled s.cores[c.val] [((address c w s).toNat - 0x1C0000) / 4096] false)
    (hnp : NotPending s.cores[c.val] (loadRegs w f.vec) (if f.vec then [w.t] else []) []) :
    loadInstr c w ok f err s = .next (localLoad c w f (address c w s) err s) := by
  have hlegal : (ok && mSpaceOk w) = true := by rw [hok, mSpaceOk_of w (.inl hsp) hn]; rfl
  have hu : (if f.vec then { s := mUse w, v := [w.t] } else { s := w.t :: mUse w } : Use) =
      { s := loadRegs w f.vec, v := if f.vec then [w.t] else [] } := by
    unfold loadRegs
    split <;> rfl
  have hz : noHazard s.cores[c.val] (mQueue s.cores[c.val] w f.n
      (accUse s.cores[c.val] w f.n { s := loadRegs w f.vec, v := if f.vec then [w.t] else [] })) = true := by
    rw [mQueue, if_pos hsp, accUse]
    split
    · exact noHazard_of_ready _ _ hnp (fun _ h => by cases h) hslot
    · exact noHazard_of_ready _ _ hnp (fun _ h => by cases h) (slotsAwaited_none _ _ rfl rfl)
  unfold loadInstr
  dsimp only
  rw [hu, hlegal, coreInstr_executes c w.g _ _ s h hz, upset_local herr, if_pos hsp]
  rfl

/-- Loads of n bytes from a line that is clean, but for an error that is corrected, take what the front end reads. -/
theorem localLoad_clean (c : CoreId) (w : MFmt) (n : Nat) (a : Dword) (err : Option LineErr) (s : State) (hl : NotLast c s)
    (hcheck : localCheck a n n true = none) (hlines : linesOf a.toNat n = [a.toNat / 64])
    (hclean : CleanLines s.cores[c.val] a.toNat n) (herr : err = none ∨ MeetsError err (a.toNat / 64) false) :
    ∃ d m, FrontReads c a.toNat n d m s ∧ ∀ f : LoadForm, f.n = n →
      localLoad c w f a err s = { modCore c (fun k => (k.loads w f d).issued) (corrected c err s) with free := m } := by
  obtain ⟨d, m, hread, hfront⟩ := localRead_front c a.toNat n (corrected c err s)
  have hpoison : localPoison (corrected c err s).cores[c.val] a.toNat n = false := by
    rw [corrected_cores]
    exact localPoison_clean _ _ _ hclean
  refine ⟨d, m, hfront.corrected, fun f hf => ?_⟩
  subst hf
  have hput : (if f.vec then setV c w.t (BitVec.ofNat 512 (leNat d)) { corrected c err s with free := m }
      else setS c w.t (scalarOf f.signed d) { corrected c err s with free := m }) =
      modCore c (Core.loads w f d) { corrected c err s with free := m } := by
    unfold Core.loads
    split
    · rw [setV_eq]
    · rw [setS_eq]
  have hlast : NotLast c { corrected c err s with free := m } := hl.same (corrected_cores c err s)
  unfold localLoad
  rw [hcheck]
  dsimp only
  rw [localFind_corrected c _ _ _ err s hlines hclean herr, hpoison, hread]
  dsimp only
  rw [if_neg Bool.false_ne_true, hput, advance_modCore c _ _ hlast (Core.loads_pc w f d _)]
  rfl

/-- A load from a line whose error cannot be corrected poisons it and raises POISON. -/
theorem localLoad_uncorrected (c : CoreId) (w : MFmt) (f : LoadForm) (a : Dword) (err : Option LineErr) (s : State)
    (hr : s.cores[c.val].st = .running) (hcheck : localCheck a f.n f.n true = none)
    (hlines : linesOf a.toNat f.n = [a.toNat / 64]) (hclean : NoErrorIn s.cores[c.val] (a.toNat / 64))
    (herr : MeetsError err (a.toNat / 64) true) :
    Faulted c 5 false a s (localLoad c w f a err s) ∧ a.toNat / 64 ∈ (localLoad c w f a err s).cores[c.val].poisoned := by
  obtain ⟨⟨hkeep, -⟩, hmem⟩ := localFind_poisons c a.toNat f.n _ err s hlines hclean herr
  unfold localLoad
  rw [hcheck]
  dsimp only
  generalize localFind c a.toNat f.n (localUpset c err s) = u at hkeep hmem ⊢
  have hpoison : localPoison u.cores[c.val] a.toNat f.n = true := by
    rw [localPoison, hlines]
    simpa using hmem
  have hcore := (raise_core c .poison false a u (by rw [hkeep]; exact hr)).1
  rw [if_pos hpoison]
  refine ⟨faulted_of_core hcore rfl ?_ ?_ ?_ ?_ ?_, ?_⟩
  case refine_6 =>
    rw [hcore]
    exact hmem
  all_goals rw [hkeep]

/-- The registers of a load in local space. -/
theorem loadRegs_near (w : MFmt) (vec : Bool) (h : w.sp = 0) : loadRegs w vec = if vec then [w.a] else [w.t, w.a] := by
  unfold loadRegs
  rw [mUse_near w (by rw [h]; decide)]

theorem NotPending.of_mem {k : Core} {rs vs rs' vs' : List (BitVec 5)} {ps ps' : List (BitVec 3)} (h : NotPending k rs vs ps)
    (hr : rs' ⊆ rs) (hv : vs' ⊆ vs) (hp : ps' ⊆ ps) : NotPending k rs' vs' ps' := by
  obtain ⟨h1, h2, h3⟩ := h
  exact ⟨fun r q => h1 r (hr q), fun r q => h2 r (hv q), fun r q => h3 r (hp q)⟩

/-- A line is clean for the bytes of an access that lie in it where it is clean for its first. -/
theorem CleanLines.of_first {k : Core} {a n : Nat} (h : CleanLines k a 1) (hlines : linesOf a n = [a / 64]) : CleanLines k a n := by
  unfold CleanLines at *
  rw [hlines]
  rwa [linesOf_one a 1 (by decide) (by omega)] at h

section
variable {c : CoreId} {w : MFmt} {s : State} (h : Executes c w.g s) (hsp : w.sp = 0) (hn : w.n = 0)
  (hslot : SlotsSettled s.cores[c.val] [((address c w s).toNat - 0x1C0000) / 4096] false)
include h hsp hn hslot

theorem exec_ld_local {err : Option LineErr} {l : Nat} {unc : Bool} (signed : Bool) (hx : w.x.toNat < 4)
    (herr : err = none ∨ MeetsError err l unc) (hnp : NotPending s.cores[c.val] [w.t, w.a] [] []) :
    exec (if signed then .lds c w err else .ld c w err) s =
      .next (localLoad c w { n := 2 ^ w.x.toNat, signed := signed, vec := false } (address c w s) err s) := by
  have hload := loadInstr_local c w _ { n := 2 ^ w.x.toNat, signed := signed, vec := false } err l unc s h (only_scalar w hx) hsp hn
    herr hslot (by rw [loadRegs_near w false hsp]; exact hnp)
  rw [← scalarSize_eq w hx] at hload ⊢
  cases signed <;> exact hload

theorem exec_vld_local {err : Option LineErr} {l : Nat} {unc : Bool} (hx : w.x = 0) (herr : err = none ∨ MeetsError err l unc)
    (hnp : NotPending s.cores[c.val] [w.a] [w.t] []) :
    exec (.vld c w err) s = .next (localLoad c w { n := 64, signed := false, vec := true } (address c w s) err s) :=
  loadInstr_local c w _ _ err l unc s h (decide_eq_true hx) hsp hn herr hslot (by rw [loadRegs_near w true hsp]; exact hnp)

end

/-- Settles O13: each form issues, reads the one line that its bytes lie in, and finds at most the error it meets there. -/
theorem localLoads : Obligations.LocalLoads := by
  unfold Obligations.LocalLoads
  intro c w s h hl hsp hn hclean hslot
  have hr := executes_running h
  have hlines (k : Nat) (hk : k ≤ 6) (ha : (address c w s).toNat % 2 ^ k = 0) :
      linesOf (address c w s).toNat (2 ^ k) = [(address c w s).toNat / 64] :=
    linesOf_one _ _ (Nat.two_pow_pos k) (aligned_in_line _ k hk ha)
  have hnoerr : NoErrorIn s.cores[c.val] ((address c w s).toNat / 64) :=
    (hclean _ (by rw [linesOf_one _ 1 (by decide) (by omega)]; exact List.mem_singleton_self _)).2
  refine ⟨fun err herr => ⟨fun n hsize hx ha hin hnp => ?_, fun hx ha hin hnp => ?_⟩, fun err n x herr ha hin hnp hform => ?_⟩
  · subst hsize
    have hone := hlines _ (by omega) ha
    obtain ⟨d, m, hfront, hload⟩ := localLoad_clean c w _ (address c w s) err s hl (localCheck_loadable _ _ ha hin) hone
      (hclean.of_first hone) herr
    have hld := exec_ld_local h hsp hn hslot false hx herr hnp
    have hlds := exec_ld_local h hsp hn hslot true hx herr hnp
    rw [hload _ rfl] at hld hlds
    refine ⟨d, m, hfront, hld, ?_⟩
    unfold Core.loads at hlds
    rw [scalarOf_true_of_length d _ hfront.1] at hlds
    exact hlds
  · have hone := hlines 6 (by decide) ha
    obtain ⟨d, m, hfront, hload⟩ := localLoad_clean c w 64 (address c w s) err s hl (localCheck_loadable _ _ ha hin) hone
      (hclean.of_first hone) herr
    exact ⟨d, m, hfront, by rw [exec_vld_local h hsp hn hslot hx herr hnp, hload _ rfl]; rfl⟩
  · have hpoisons (f : LoadForm) (hf : f.n = n) (hone : linesOf (address c w s).toNat n = [(address c w s).toNat / 64]) :=
      localLoad_uncorrected c w f (address c w s) err s hr (hf ▸ localCheck_loadable _ _ ha hin) (hf ▸ hone) hnoerr herr
    rcases hform with ⟨hx, rfl, hx'⟩ | ⟨hx, rfl, rfl⟩
    · have hregs : NotPending s.cores[c.val] [w.t, w.a] [] [] := hnp.of_mem (List.Subset.refl _) (List.nil_subset _) (List.nil_subset _)
      have hone := hlines _ (by omega) ha
      rcases hx' with rfl | rfl
      · exact ⟨_, exec_ld_local h hsp hn hslot false hx (.inr herr) hregs, hpoisons _ rfl hone⟩
      · exact ⟨_, exec_ld_local h hsp hn hslot true hx (.inr herr) hregs, hpoisons _ rfl hone⟩
    · exact ⟨_, exec_vld_local h hsp hn hslot hx (.inr herr) (hnp.of_mem (by simp) (List.Subset.refl _) (List.nil_subset _)),
        hpoisons _ rfl (hlines 6 (by decide) ha)⟩

end Sys2Proof.Machine
end

section
/-! PROOFS. What the end of a program leaves alone: mailboxes that are served, SACKs, locks that pass on (R166, R171, R403 to
R407, R466). -/

namespace Sys2Proof.Machine

open Sys2Proof

/-! ### What others may change of a core that has ended -/

/-- The core is as it was but for its mailboxes, the messages it has discarded, and the answers that its entries wait for. -/
def Core.AnsweredAs (k k' : Core) : Prop :=
  k' = { k with mbox := k'.mbox, msgDrop := k'.msgDrop, ni := k'.ni, arr := k'.arr, orphan := k'.orphan } ∧
    (k.ni = [] → k'.ni = []) ∧ (k.arr = [] → k'.arr = [])

theorem Core.AnsweredAs.refl (k : Core) : k.AnsweredAs k := ⟨rfl, id, id⟩

theorem Core.AnsweredAs.trans {k k' k'' : Core} (h : k.AnsweredAs k') (h' : k'.AnsweredAs k'') : k.AnsweredAs k'' := by
  obtain ⟨h1, h2, h3⟩ := h
  obtain ⟨h4, h5, h6⟩ := h'
  refine ⟨?_, h5 ∘ h2, h6 ∘ h3⟩
  rw [h4, h1]

/-- What an answer does not touch stands. -/
theorem Core.AnsweredAs.keeps {β : Type} (g : Core → β) {k k' : Core} (h : k.AnsweredAs k')
    (hg : ∀ k m d ni arr o, g { k with mbox := m, msgDrop := d, ni := ni, arr := arr, orphan := o } = g k := by
      exact fun _ _ _ _ _ _ => rfl) : g k' = g k := by
  obtain ⟨h1, -⟩ := h
  rw [h1, hg]

/-- Descriptors and partitions are as they were, and the cores but for what others may change. -/
structure OnlyAnswers (s t : State) : Prop where
  work : KeepsWork s t
  parts : t.parts = s.parts
  core : ∀ k : CoreId, s.cores[k.val].AnsweredAs t.cores[k.val]

theorem OnlyAnswers.refl (s : State) : OnlyAnswers s s := ⟨.refl s, rfl, fun _ => .refl _⟩

theorem OnlyAnswers.trans {s t u : State} (h : OnlyAnswers s t) (k : OnlyAnswers t u) : OnlyAnswers s u :=
  ⟨h.work.trans k.work, k.parts.trans h.parts, fun c => (h.core c).trans (k.core c)⟩

/-- So are the locks, and whether a core has met one that was ORPHANED. -/
structure OnlyServes (s t : State) : Prop extends OnlyAnswers s t where
  lku : t.lku = s.lku
  orphan : ∀ k : CoreId, t.cores[k.val].orphan = s.cores[k.val].orphan

theorem OnlyServes.refl (s : State) : OnlyServes s s := ⟨.refl s, rfl, fun _ => rfl⟩

theorem OnlyServes.trans {s t u : State} (h : OnlyServes s t) (k : OnlyServes t u) : OnlyServes s u :=
  ⟨h.toOnlyAnswers.trans k.toOnlyAnswers, k.lku.trans h.lku, fun c => (k.orphan c).trans (h.orphan c)⟩

theorem OnlyServes.of_cores {s t : State} (hwork : KeepsWork s t) (hparts : t.parts = s.parts) (hlku : t.lku = s.lku)
    (hcores : t.cores = s.cores) : OnlyServes s t :=
  ⟨⟨hwork, hparts, fun k => by rw [hcores]; exact .refl _⟩, hlku, fun k => by rw [hcores]⟩

theorem OnlyServes.of_access {s t : State} (h : OnlyAccess s t) : OnlyServes s t :=
  .of_cores (.of_access h) (by rw [h.1]) (by rw [h.1]) (by rw [h.1])

theorem OnlyServes.of_lanes {s t : State} (h : OnlyLanes s t) : OnlyServes s t := by
  obtain ⟨h, -⟩ := h
  have hinst : t.inst = s.inst := by rw [h]
  exact .of_cores ⟨by rw [h], by rw [h], by rw [h], fun i => by rw [hinst], fun i => by rw [hinst]⟩
    (by rw [h]) (by rw [h]) (by rw [h])

/-- A change of the fabric's own state. -/
theorem OnlyServes.fab (f : Fab) (s : State) : OnlyServes s { s with fab := f } :=
  .of_cores ⟨rfl, rfl, rfl, fun _ => rfl, fun _ => rfl⟩ rfl rfl rfl

theorem OnlyAnswers.modCore (c : CoreId) (f : Core → Core) (s : State) (h : s.cores[c.val].AnsweredAs (f s.cores[c.val])) :
    OnlyAnswers s (modCore c f s) := by
  refine ⟨⟨rfl, rfl, rfl, fun _ => rfl, fun _ => rfl⟩, rfl, fun k => ?_⟩
  rw [modCore_cores]
  by_cases e : k = c
  · subst e
    rwa [upd_same]
  · rw [upd_other _ _ _ _ k.isLt fun q => e (Fin.ext q)]
    exact .refl _

theorem OnlyServes.modCore (c : CoreId) (f : Core → Core) (s : State) (h : s.cores[c.val].AnsweredAs (f s.cores[c.val]))
    (ho : ∀ k, (f k).orphan = k.orphan) : OnlyServes s (modCore c f s) :=
  ⟨.modCore c f s h, rfl, fun k => modCore_keeps Core.orphan c k f s ho⟩

theorem OnlyServes.modMbox (c : CoreId) (m : Fin 8) (f : Mbox → Mbox) (s : State) : OnlyServes s (modMbox c m f s) :=
  .modCore c _ s ⟨rfl, id, id⟩ fun _ => rfl

theorem OnlyServes.countDrop (c : CoreId) (s : State) : OnlyServes s (countDrop c s) :=
  .modCore c _ s ⟨rfl, id, id⟩ fun _ => rfl

/-! ### SACKs (R463, R465, R466) -/

theorem OnlyServes.pfIrq (s : State) : OnlyServes s (pfIrq s) :=
  .of_cores (msix_keepsWork _ _ _) (by rw [Machine.pfIrq, msix_frame]) (by rw [Machine.pfIrq, msix_frame])
    (by rw [Machine.pfIrq, msix_frame])

theorem OnlyServes.fabRaise (n detail : Nat) (s : State) : OnlyServes s (fabRaise n detail s) := by
  unfold Machine.fabRaise
  extract_lets f s1 s2
  have h1 : OnlyServes s s1 := .fab _ s
  have h : OnlyServes s s2 := h1.trans (.of_access (onlyAccess.logPf _ _ _ _ _ s1))
  split
  · exact h.trans (.pfIrq s2)
  · exact h

theorem OnlyServes.routeOut (m : Msg) (s : State) : OnlyServes s (routeOut m s).2 := by
  unfold Machine.routeOut
  dsimp only
  split
  · exact .fabRaise 5 0 s
  · split
    · exact .refl s
    · exact .of_lanes (portQueue_onlyLanes _ _ _)

/-- The bytes of an answer that reach no entry. -/
theorem fillParts_nil (r : Word) (d : List Byte) : fillParts r d [] = [] := rfl

/-- A SACK that no error marks fills what waits for it. -/
theorem OnlyServes.deliverSack (m : Msg) (s : State) (ht : m.type = 0x24) (hf : bit m.flags 0 = false) :
    OnlyServes s (deliverRsp m s) := by
  have hrefused : ¬ m.type = 0x25 := by rw [ht]; decide
  have hatomic : ¬ (m.type = 0x23 && bit m.arg 0) = true := by simp [ht]
  unfold deliverRsp
  split
  · exact .refl s
  · next q _ =>
    split
    · next c _ _ =>
      split
      · unfold coreResponse
        simp only [if_neg hrefused, hf, hatomic, Bool.false_eq_true, if_false]
        split
        · exact .fab _ s
        · refine (OnlyServes.fab _ s).trans (.modCore c _ _ ⟨rfl, fun h => ?_, fun h => ?_⟩ fun _ => rfl)
          · rw [h, fillParts_nil]
          · rw [h, fillParts_nil]
      · exact .refl s
    · exact .refl s

theorem OnlyServes.respondSack (g : Msg) (s : State) : OnlyServes s (respond (rspMsg g 0x24 0 0 0 [] s) s) := by
  unfold respond
  split
  · exact .deliverSack _ s rfl (show bit (0 : Byte) 0 = false by decide)
  · exact .routeOut _ s

/-! ### The mailboxes of a core that has ended (R171, R466) -/

theorem OnlyServes.mboxServe (c : CoreId) (m : Fin 8) (s : State) : OnlyServes s (mboxServe c m s) := by
  rw [mboxServe_eq]
  exact .modMbox c m _ s

theorem OnlyServes.st {s t : State} (h : OnlyServes s t) (c : CoreId) : t.cores[c.val].st = s.cores[c.val].st :=
  (h.core c).keeps Core.st

theorem OnlyServes.ingressServe (n : Nat) (c : CoreId) (b : Fin 8) (s : State) (hr : s.cores[c.val].st ≠ .running) :
    OnlyServes s (ingressServe n c b s) := by
  induction n generalizing s with
  | zero => exact .refl s
  | succ n ih =>
    unfold Machine.ingressServe
    split
    · next r gs m rest _ _ =>
      extract_lets s1 fab s2 s3
      have h2 : OnlyServes s s2 := (OnlyServes.modMbox c b _ s).trans (.fab _ s1)
      have h3 : OnlyServes s s3 := by
        refine h2.trans ?_
        unfold s3
        rw [mboxStore_discarded c b _ false s2 (.inl (by rw [h2.st]; exact hr))]
        exact (OnlyServes.countDrop c s2).trans (.mboxServe c b _)
      have h4 := h3.trans (OnlyServes.respondSack m s3)
      exact h4.trans (ih _ (by rw [h4.st]; exact hr))
    · exact .refl s

theorem OnlyServes.ingressRetry (c : CoreId) (b : Fin 8) (s : State) (hr : s.cores[c.val].st ≠ .running) :
    OnlyServes s (ingressRetry c b s) := by
  unfold Machine.ingressRetry
  extract_lets mine x have_ room more s1
  have h := (OnlyServes.modMbox c b _ s : OnlyServes s s1).trans (.mboxServe c b s1)
  exact h.trans (.ingressServe _ c b _ (by rw [h.st]; exact hr))

theorem OnlyServes.mboxesEnd (c : CoreId) (s : State) (hr : s.cores[c.val].st ≠ .running) : OnlyServes s (mboxesEnd c s) := by
  unfold Machine.mboxesEnd
  induction List.finRange 8 generalizing s with
  | nil => exact .refl s
  | cons b t ih =>
    have h := OnlyServes.ingressRetry c b s hr
    exact h.trans (ih _ (by rw [h.st]; exact hr))

/-! ### Locks that pass on (R404 to R407) -/

theorem OnlyAnswers.locks (l : Lku) (s : State) : OnlyAnswers s { s with lku := l } :=
  ⟨⟨rfl, rfl, rfl, fun _ => rfl, fun _ => rfl⟩, rfl, fun _ => .refl _⟩

theorem OnlyAnswers.lacqAnswer (c : CoreId) (n : Fin 4096) (sd : Nat) (s : State) : OnlyAnswers s (lacqAnswer c n sd s) :=
  .modCore c _ s ⟨rfl, fun h => by simp only [h, Machine.lacqAnswer.go], id⟩

theorem OnlyAnswers.lockServe (f : Nat) (n : Fin 4096) (s : State) : OnlyAnswers s (lockServe f n s) := by
  induction f generalizing s with
  | zero => exact .refl s
  | succ f ih =>
    unfold Machine.lockServe
    dsimp only
    split
    · exact .refl s
    · exact .refl s
    · split
      · exact (OnlyAnswers.locks _ s).trans ((OnlyAnswers.lacqAnswer _ n 2 _).trans (ih _))
      · exact (OnlyAnswers.locks _ s).trans ((OnlyAnswers.locks _ _).trans (.lacqAnswer _ n _ _))

theorem OnlyAnswers.lockOrphan (n : Fin 4096) (s : State) : OnlyAnswers s (lockOrphan n s) := by
  unfold Machine.lockOrphan
  extract_lets l lku s1 s2
  have h1 : OnlyAnswers s s1 := .locks _ s
  have h2 : OnlyAnswers s s2 := h1.trans (OnlyServes.of_access (onlyAccess.logBoth _ _ _ _ _ s1)).toOnlyAnswers
  exact h2.trans ((OnlyAnswers.locks _ s2).trans (.lockServe _ n _))

theorem OnlyAnswers.orphanWhere (p : Lock → Bool) (s : State) : OnlyAnswers s (orphanWhere p s) := by
  unfold Machine.orphanWhere
  induction locksWhere p s generalizing s with
  | nil => exact .refl s
  | cons n t ih => exact (OnlyAnswers.lockOrphan n s).trans (ih _)

/-- Where no lock passes the test, none is orphaned. -/
theorem orphanWhere_none (p : Lock → Bool) (s : State) (h : ∀ n : Fin 4096, p s.lku.locks[n.val] = false) :
    orphanWhere p s = s := by
  unfold orphanWhere locksWhere
  rw [List.filter_eq_nil_iff.2 fun n _ => by rw [h n]; exact Bool.false_ne_true]
  rfl

theorem OnlyAnswers.orphanCores (n : Fin 64) (s : State) : OnlyAnswers s (orphanCores n s) := .orphanWhere _ s

end Sys2Proof.Machine
end

section
/-! PROOFS. The end of a program's LAUNCH (R26, R44, R162). -/

namespace Sys2Proof.Machine

open Sys2Proof

theorem endItem_parts (d : Nat) (result : Dword) (f : Outcomes → Outcomes) (s : State) :
    (endItem d result f s).parts = s.parts := by
  have hest : ∀ y st (u : State), (estComplete y st u).parts = u.parts := by
    intro y st u
    unfold estComplete
    split <;> rfl
  have hadm : ∀ i (u : State), (admission i u).parts = u.parts := by
    intro i u
    obtain ⟨sq, p, seen, at_, h, -⟩ := admission_eq i u
    rw [h.1]
    rfl
  unfold endItem
  split
  · rfl
  split
  · rfl
  · dsimp only
    split
    · rfl
    · rw [hadm]
      exact hest _ _ _

theorem endEarly_cores (d : Nat) (f : Outcomes → Outcomes) (s : State) : (endEarly d f s).cores = s.cores := by
  unfold endEarly
  split
  · rfl
  · exact endItem_cores _ _ _ _

theorem endEarly_parts (d : Nat) (f : Outcomes → Outcomes) (s : State) : (endEarly d f s).parts = s.parts := by
  unfold endEarly
  split
  · rfl
  · exact endItem_parts _ _ _ _

theorem logInx_onlyAccess (n : Fin 64) (s : State) : OnlyAccess s (logInx n s) := by
  unfold logInx
  split
  · dsimp only
    exact OnlyAccess.trans (.of_eq rfl) (onlyAccess.logBoth _ _ _ _ _ _)
  · exact .of_eq rfl

theorem launchTake_cores (n : Fin 64) (d : Nat) (s : State) : (launchTake n d s).cores = s.cores := by
  simp only [launchTake, modPart_cores, modItem_cores]

theorem launchEnd_cores (n : Fin 64) (f : Outcomes → Outcomes) (s : State) : (launchEnd n f s).cores = s.cores := by
  unfold launchEnd
  split
  · rfl
  · rw [endEarly_cores, launchTake_cores, (logInx_onlyAccess n s).1]

/-- The partition runs no program once its LAUNCH has completed. -/
theorem launchEnd_item (n : Fin 64) (f : Outcomes → Outcomes) (s : State) : ((launchEnd n f s).parts[n.val]).item = none := by
  unfold launchEnd
  split
  · next h => exact h
  · rw [endEarly_parts]
    simp only [launchTake, modPart, upd_same]

/-- A LAUNCH completes with what its program has brought it. -/
theorem launchEnd_completes (n : Fin 64) (f : Outcomes → Outcomes) (d : Nat) (x : Item) (s : State)
    (hitem : s.parts[n.val].item = some d) (hx : findItem d s = some x) (hst : x.stage = .running) (hr : x.resetHead = none) :
    Completes d (statusOf (endedItem (launchFold n (logInx n s) x) (launchFold n (logInx n s) x).result f
        (launchTake n d (logInx n s))).out)
      (launchFold n (logInx n s) x).result s (launchEnd n f s) := by
  have hfound : findItem d (launchTake n d (logInx n s)) = some (launchFold n (logInx n s) x) := by
    have htake : findItem d (launchTake n d (logInx n s)) = findItem d (modItem d (launchFold n (logInx n s)) (logInx n s)) :=
      findItem_items (by simp only [launchTake, modPart_items])
    rw [htake, findItem_modItem d (launchFold n (logInx n s)) _ (fun _ h => h),
      findItem_items (KeepsWork.of_access (logInx_onlyAccess n s)).items, hx]
    rfl
  obtain ⟨-, hdone⟩ := endItem_completes d (launchFold n (logInx n s) x).result f _ _ hfound (by simp [launchFold, hst]) hr
  unfold launchEnd
  rw [hitem]
  dsimp only
  unfold endEarly
  rw [hfound]
  exact hdone.earlier hx hfound rfl rfl rfl rfl

end Sys2Proof.Machine
end

section
/-! PROOFS. EXIT (R162, R163, R172, R466). -/

namespace Sys2Proof.Machine

open Sys2Proof

/-! ### Barriers at which no core waits (R172) -/

theorem barRelease_idle (b : Fin 4) (c : CoreId) (s : State) (h : s.cores[c.val].stall ≠ .bar b) : barRelease b c s = s := by
  unfold barRelease
  exact if_neg h

/-- Where no core of a partition waits at a barrier, a look at its barriers releases none. -/
theorem barriers_idle (n : Fin 64) (s : State) (h : ∀ k ∈ coresOf n s, ∀ b, s.cores[k.val].stall ≠ .bar b) :
    barriers n s = s := by
  have hcheck : ∀ b, barCheck n b s = s := by
    intro b
    unfold barCheck
    dsimp only
    split
    · generalize coresOf n s = ks at h
      induction ks with
      | nil => rfl
      | cons k t ih =>
        rw [List.foldl_cons, barRelease_idle b k s (h k List.mem_cons_self b)]
        exact ih fun k hk => h k (List.mem_cons_of_mem _ hk)
    · rfl
  unfold barriers
  generalize List.range 4 = rounds
  exact foldl_still _ s rounds fun _ => foldl_still _ s _ hcheck

/-! ### The core that leaves (R162) -/

/-- A core that has left by EXIT with this word. -/
def Core.exits (word : Word) (k : Core) : Core := { k.issued with st := .exited, stall := .none, exitWord := word }

/-- What EXIT does not touch stands. -/
theorem Core.exits_keeps {β : Type} (g : Core → β) (word : Word) (k : Core)
    (hg : ∀ (k : Core) st stall w cnt arr pc,
      g { k with st := st, stall := stall, exitWord := w, cnt := cnt, arrCnt := arr, pc := pc } = g k := by
        exact fun _ _ _ _ _ _ _ => rfl) : g (k.exits word) = g k := by
  unfold Core.exits Core.issued
  split
  · exact hg k .exited .none word k.cnt k.arrCnt _
  · exact hg k .exited .none word _ _ _

theorem exitNow_eq (c : CoreId) (word : Word) (s : State) :
    exitNow c word (modCore c (fun k => { k with stall := .exit word }) s) = coreEnded c (modCore c (Core.exits word) s) := by
  unfold exitNow countIssue
  rw [modCore_modCore, modCore_modCore]
  refine congrArg (coreEnded c) (modCore_congr ?_)
  unfold Core.exits Core.issued
  dsimp only
  split <;> rfl

/-- An EXIT at issue: it leaves where the queues are done, and waits otherwise. -/
theorem resume_exit (c : CoreId) (word : Word) (s : State) :
    resume c (modCore c (fun k => { k with stall := .exit word }) s) =
      if queuesDone 0 s.cores[c.val] then coreEnded c (modCore c (Core.exits word) s)
      else modCore c (fun k => { k with stall := .exit word }) s := by
  rw [← exitNow_eq]
  unfold resume
  simp only [modCore_cores, upd_same]
  rfl

theorem exit_executes (c : CoreId) (w : RFmt) (s : State) (h : Executes c w.g s) (hd : w.d = 0) (hb : w.b = 0) (hc : w.c = 0)
    (hx : w.x = 0) (hn : NotPending s.cores[c.val] [w.a] [] []) :
    exec (.exit c w) s = .next (closing c (fun u =>
      resume c (modCore c (fun k => { k with stall := .exit ((sreg s.cores[c.val] w.a).setWidth 32) }) u)) s) := by
  have harm : exec (.exit c w) s = execExit c w s := rfl
  rw [harm, execExit, coreInstr_front c w.g _ _ _ _ _ s h (by simp [hd, hb, hc, hx]) hn]

/-- Queues that are done leave no WRITE that coalesces. -/
theorem queuesDone_all {k : Core} (h : queuesDone 0 k = true) : k.ni = [] ∧ k.coalesce = none := by
  unfold queuesDone at h
  simp only [if_true, Bool.and_eq_true, Bool.or_eq_true, List.isEmpty_iff, Option.isNone_iff_eq_none] at h
  obtain ⟨⟨⟨⟨hni, -⟩, -⟩, -⟩, -⟩ := h
  obtain ⟨⟨hempty, -⟩, hcoalesce⟩ := hni.resolve_left (by decide)
  exact ⟨hempty, hcoalesce⟩

/-- After a core has ended, it stands as it was but for what others may change. -/
theorem coreEnded_core (c : CoreId) (s : State) (hr : s.cores[c.val].st ≠ .running) (hs : s.cores[c.val].stall = .none) :
    s.cores[c.val].AnsweredAs (coreEnded c s).cores[c.val] := by
  have hbox := (OnlyServes.mboxesEnd c s hr).core c
  have hstall : (mboxesEnd c s).cores[c.val].stall = .none := (hbox.keeps Core.stall).trans hs
  unfold coreEnded
  dsimp only
  split
  · exact hbox
  · next n _ =>
    obtain ⟨hbar, -⟩ := barriers_keepsCore c n (mboxesEnd c s) (by simp [hstall])
    split
    · have horphan := (OnlyAnswers.orphanCores n (barriers n (mboxesEnd c s))).core c
      have hlaunch : (launchEnd n id (orphanCores n (barriers n (mboxesEnd c s)))).cores[c.val] =
          (orphanCores n (barriers n (mboxesEnd c s))).cores[c.val] := by simp only [launchEnd_cores]
      rw [hbar] at horphan
      rw [hlaunch]
      exact hbox.trans horphan
    · rw [hbar]
      exact hbox

/-- Where the core was the only one of its partition, met no fault and held no lock, its end is that of its LAUNCH. -/
theorem coreEnded_alone (c : CoreId) (n : Fin 64) (s : State) (hr : s.cores[c.val].st ≠ .running)
    (hs : s.cores[c.val].stall = .none) (hp : partOf c s = some n) (hc : coresOf n s = [c])
    (hf : s.parts[n.val].firstFault = none)
    (hl : ∀ k : Fin 4096, s.lku.locks[k.val].st = .held → s.lku.locks[k.val].core ≠ c) :
    coreEnded c s = launchEnd n id (mboxesEnd c s) := by
  have hserves := OnlyServes.mboxesEnd c s hr
  have hcores : coresOf n (mboxesEnd c s) = [c] := (coresOf_same n hserves.parts).trans hc
  have hpart : partOf c (mboxesEnd c s) = some n := by
    rw [← hp]
    unfold partOf
    rw [hserves.parts]
  have hbar : barriers n (mboxesEnd c s) = mboxesEnd c s := by
    refine barriers_idle n _ fun k hk b => ?_
    rw [hcores] at hk
    rw [List.mem_singleton.1 hk, (hserves.core c).keeps Core.stall, hs]
    simp
  have hlocks : orphanCores n (mboxesEnd c s) = mboxesEnd c s := by
    refine orphanWhere_none _ _ fun k => ?_
    have hk := hl k
    rw [hserves.lku, hcores]
    simpa using hk
  unfold coreEnded
  simp only [hpart, hbar, hcores, hserves.parts, hf, hlocks]
  rw [if_pos (by simp [hserves.st, hr])]

end Sys2Proof.Machine
end

section
/-! PROOFS. How programs end: the LAUNCH of an EXIT, exceptions, the stop of a partition (R162, R163, R172, R184, R466). -/

namespace Sys2Proof.Machine

open Sys2Proof

/-! ### The LAUNCH of a core that has left (R162) -/

theorem launchFold_same {s t : State} (n : Fin 64) (x : Item) (hp : t.parts = s.parts) (hc : t.cores = s.cores) :
    launchFold n t x = launchFold n s x := by
  unfold launchFold
  simp only [coresOf_same n hp, hp, hc]

/-- A LAUNCH whose only core has left by EXIT and met nothing (R162). -/
def Item.exited (k : Core) (x : Item) : Item :=
  { x with result := BitVec.ofNat 64 (k.exitWord.toNat + 0xFFFF * 2 ^ 32), last := k.last, out := { effect := k.last.isSome } }

/-- What a core alone in its partition, which has left by EXIT and met nothing, brings its LAUNCH. -/
theorem launchFold_exited (n : Fin 64) (c : CoreId) (s : State) (x : Item) (hc : coresOf n s = [c])
    (h0 : coreAt s.parts[n.val] 0 = c) (hst : s.cores[c.val].st = .exited) (hff : s.parts[n.val].firstFault = none)
    (hev : s.cores[c.val].everFlags = 0) (horph : s.cores[c.val].orphan = false) (hfv : s.cores[c.val].faultValid = false)
    (hout : x.out = {}) (hlast : x.last = none) :
    launchFold n s x = x.exited s.cores[c.val] := by
  unfold launchFold Item.exited
  simp only [hc, h0, hst, hff, hev, horph, hfv, hout, hlast, List.map_cons, List.map_nil, List.any_cons, List.any_nil,
    List.foldl_cons, List.foldl_nil, if_true, Option.elim, laterStamp, bne_self_eq_false, Bool.false_and, Bool.or_false,
    Bool.false_or]

/-- A descriptor that met nothing but an effect in time ends with the status OK. -/
theorem statusOf_inTime (x : Item) (r : Dword) (e : Bool) (s : State) (hout : x.out = { effect := e })
    (hrel : beforeRelease x = false) (hp : passed x.deadline (doneAt x s).rts = false) :
    statusOf (endedItem x r id s).out = 0x00 := by
  have hlate : endsLate x { effect := e } (doneAt x s).rts = false := by
    unfold endsLate
    rw [hrel, hp, Bool.or_false, Bool.and_false]
  unfold endedItem
  simp only [hout, id, hlate]
  rfl

/-- The LAUNCH of a core alone in its partition, which has left by EXIT in time and met nothing, completes OK. -/
theorem launchEnd_ok (n : Fin 64) (c : CoreId) (d : Nat) (x : Item) (s₀ s : State) (hc : coresOf n s = [c])
    (h0 : coreAt s.parts[n.val] 0 = c) (hst : s.cores[c.val].st = .exited) (hff : s.parts[n.val].firstFault = none)
    (hev : s.cores[c.val].everFlags = 0) (horph : s.cores[c.val].orphan = false) (hfv : s.cores[c.val].faultValid = false)
    (hitem : s.parts[n.val].item = some d) (hx : findItem d s = some x) (hrun : x.stage = .running) (hfresh : Fresh x s₀)
    (htime : s.eph = s₀.eph) (hlast : ∀ m, s.cores[c.val].last = some m → passed x.deadline m.rts = false) :
    Completes d 0x00 (BitVec.ofNat 64 (s.cores[c.val].exitWord.toNat + 0xFFFF * 2 ^ 32)) s (launchEnd n id s) := by
  obtain ⟨hout, hnone, -, hreset, -, hnow, hrel⟩ := hfresh
  have hlog := (logInx_onlyAccess n s).1
  have hfold : launchFold n (logInx n s) x = x.exited s.cores[c.val] :=
    (launchFold_same n x (by rw [hlog]) (by rw [hlog])).trans (launchFold_exited n c s x hc h0 hst hff hev horph hfv hout hnone)
  have hdone := launchEnd_completes n id d x s hitem hx hrun hreset
  rw [hfold, statusOf_inTime (x.exited s.cores[c.val]) _ _ _ rfl hrel ?_] at hdone
  · exact hdone
  · unfold doneAt Item.exited
    dsimp only
    cases hm : s.cores[c.val].last with
    | some m => exact hlast m hm
    | none =>
      have heph : (launchTake n d (logInx n s)).eph = s.eph := by
        simp only [launchTake, modPart_eph, modItem_eph]
        rw [hlog]
      unfold stampNow
      rw [heph, htime]
      exact hnow

/-- An EXIT whose queues are done: the core leaves with its word. -/
theorem exit_done (c : CoreId) (w : RFmt) (s : State) (h : Executes c w.g s) (hd : w.d = 0) (hb : w.b = 0) (hc : w.c = 0)
    (hx : w.x = 0) (hn : NotPending s.cores[c.val] [w.a] [] []) (hq : queuesDone 0 s.cores[c.val] = true) :
    exec (.exit c w) s = .next (coreEnded c (modCore c (Core.exits ((sreg s.cores[c.val] w.a).setWidth 32)) s)) := by
  rw [exit_executes c w s h hd hb hc hx hn, closing_none c _ s (queuesDone_all hq).2 (executes_running h), resume_exit, if_pos hq]

/-- An EXIT of a core whose WRITE coalesces: the WRITE leaves, and the EXIT waits for its answer. -/
theorem closing_exit (c : CoreId) (word : Word) (g : Coalesce) (dom : Byte) (s : State) (hr : s.cores[c.val].st = .running)
    (hg : s.cores[c.val].coalesce = some g) (h : RouteOpen c g.node dom s) (hni : s.cores[c.val].ni ≠ []) :
    ∃ t, closing c (fun s => resume c (modCore c (fun k => { k with stall := .exit word }) s)) s = t ∧
      t.fab.reqs = [{ id := g.req, owner := .core c .ni, msg := reqMsg dom g.req (writeReq g) s }] ∧
      t.cores = (modCore c (fun k => { k.noted (stampNow s) with coalesce := none, stall := .exit word }) s).cores := by
  have hw := closeWrite_open c g dom s hg h
  have hcore : (closeWrite c s).cores[c.val] = s.cores[c.val].closed.noted (stampNow s) := by
    simp only [hw.cores, modCore_cores, upd_same]
  have hwait : ¬ queuesDone 0 (closeWrite c s).cores[c.val] = true := fun hq => hni (by
    have hnone := (queuesDone_all hq).1
    rwa [hcore] at hnone)
  refine ⟨_, rfl, ?_⟩
  unfold closing
  rw [if_pos (by rw [hcore]; exact hr)]
  beta_reduce
  rw [resume_exit, if_neg hwait]
  refine ⟨hw.reqs, ?_⟩
  simp only [modCore_cores, hw.cores, upd_upd]
  rfl

/-- What EXIT leaves of its core, and of its LAUNCH. -/
theorem exited_ends (c : CoreId) (word : Word) (s : State) :
    let t := coreEnded c (modCore c (Core.exits word) s)
    t.cores[c.val].st = .exited ∧ t.cores[c.val].exitWord = word ∧ t.cores[c.val].s = s.cores[c.val].s ∧
      t.cores[c.val].mem = s.cores[c.val].mem := by
  have hself : (modCore c (Core.exits word) s).cores[c.val] = s.cores[c.val].exits word := by rw [modCore_cores, upd_same]
  have hend := coreEnded_core c (modCore c (Core.exits word) s) (by rw [hself]; simp [Core.exits]) (by rw [hself]; rfl)
  rw [hself] at hend
  exact ⟨hend.keeps Core.st, hend.keeps Core.exitWord, (hend.keeps Core.s).trans (Core.exits_keeps Core.s word _),
    (hend.keeps Core.mem).trans (Core.exits_keeps Core.mem word _)⟩

/-- The LAUNCH of a partition of one core, by its EXIT. -/
theorem exited_completes (c : CoreId) (n : Fin 64) (word : Word) (d : Nat) (x : Item) (s : State) (hc : coresOf n s = [c])
    (hp : partOf c s = some n) (h0 : coreAt s.parts[n.val] 0 = c) (hitem : s.parts[n.val].item = some d)
    (hff : s.parts[n.val].firstFault = none) (hx : findItem d s = some x) (hrun : x.stage = .running) (hfresh : Fresh x s)
    (hev : s.cores[c.val].everFlags = 0) (horph : s.cores[c.val].orphan = false) (hfv : s.cores[c.val].faultValid = false)
    (hlast : ∀ m, s.cores[c.val].last = some m → passed x.deadline m.rts = false)
    (hl : ∀ k : Fin 4096, s.lku.locks[k.val].st = .held → s.lku.locks[k.val].core ≠ c) :
    Completes d 0x00 (BitVec.ofNat 64 (word.toNat + 0xFFFF * 2 ^ 32)) s (coreEnded c (modCore c (Core.exits word) s)) := by
  have hself : (modCore c (Core.exits word) s).cores[c.val] = s.cores[c.val].exits word := by rw [modCore_cores, upd_same]
  have hst : (modCore c (Core.exits word) s).cores[c.val].st ≠ .running := by rw [hself]; simp [Core.exits]
  rw [coreEnded_alone c n _ hst (by rw [hself]; rfl) hp hc hff hl]
  obtain ⟨⟨hwork, hparts, hanswered⟩, -, horphan⟩ := OnlyServes.mboxesEnd c _ hst
  have hcore := hanswered c
  have hmet := horphan c
  rw [hself] at hcore hmet
  generalize mboxesEnd c (modCore c (Core.exits word) s) = u at hwork hparts hcore hmet ⊢
  have hfound : findItem d u = some x := (findItem_items hwork.items).trans hx
  have hkept : u.cores[c.val].last = s.cores[c.val].last :=
    (hcore.keeps Core.last).trans (Core.exits_keeps Core.last word _)
  have hdone := launchEnd_ok n c d x s u ((coresOf_same n hparts).trans hc) (by rw [hparts]; exact h0)
    (hcore.keeps Core.st) (by rw [hparts]; exact hff)
    (((hcore.keeps Core.everFlags).trans (Core.exits_keeps Core.everFlags word _)).trans hev)
    ((hmet.trans (Core.exits_keeps Core.orphan word _)).trans horph)
    (((hcore.keeps Core.faultValid).trans (Core.exits_keeps Core.faultValid word _)).trans hfv)
    (by rw [hparts]; exact hitem) hfound hrun hfresh hwork.eph (by rw [hkept]; exact hlast)
  rw [show u.cores[c.val].exitWord = word from hcore.keeps Core.exitWord] at hdone
  exact hdone.earlier hx hfound rfl rfl rfl rfl

/-! ### Exceptions (R162, R184) -/

theorem modPart_keeps {β : Type} (g : Part → β) (n : Fin 64) (f : Part → Part) (s : State) (h : ∀ p, g (f p) = g p)
    (j : Fin 64) : g (modPart n f s).parts[j.val] = g s.parts[j.val] := by
  rw [modPart_parts]
  by_cases e : j = n
  · subst e
    rw [upd_same, h]
  · rw [upd_other _ _ _ _ j.isLt fun q => e (Fin.ext q)]

/-- A partition that has seen an exception of core c at this time (R162). -/
def Part.faulted (c : CoreId) (now : Nat) (fabric : Bool) (p : Part) : Part :=
  if faultsFirst p c now then { p with firstFault := some c, faultAt := now, fabricFirst := fabric } else p

/-- An exception changes no partition's place. -/
theorem Part.faulted_keeps {β : Type} (g : Part → β) (c : CoreId) (now : Nat) (fabric : Bool) (p : Part)
    (h : ∀ (p : Part) o t b, g { p with firstFault := o, faultAt := t, fabricFirst := b } = g p := by exact fun _ _ _ _ => rfl) :
    g (p.faulted c now fabric) = g p := by
  unfold Part.faulted
  split
  · exact h p _ _ _
  · rfl

/-- What an exception of a core of partition n leaves, but for the log and the barriers. -/
def faultedIn (c : CoreId) (n : Fin 64) (cause : Cause) (glob : Bool) (a : Dword) (s : State) : State :=
  modPart n (Part.faulted c s.eph.ticks (cause = .fabric)) (modCore c (faultCore cause s.cores[c.val].pc glob a) s)

theorem raiseOne_access (c : CoreId) (n : Fin 64) (cause : Cause) (glob : Bool) (a : Dword) (s : State)
    (hr : s.cores[c.val].st = .running) (hp : partOf c s = some n) :
    OnlyAccess (faultedIn c n cause glob a s) (raiseOne c cause s.cores[c.val].pc glob a s) := by
  have hp' : partOf c (modCore c (faultCore cause s.cores[c.val].pc glob a) s) = some n := hp
  unfold raiseOne
  rw [if_pos hr]
  dsimp only
  rw [hp']
  exact onlyAccess.logBoth _ _ _ _ _ _

/-- Partitions keep their places in an exception. -/
theorem faultedIn_part (c : CoreId) (n : Fin 64) (cause : Cause) (glob : Bool) (a : Dword) (s : State) :
    partOf c (faultedIn c n cause glob a s) = partOf c s ∧ coresOf n (faultedIn c n cause glob a s) = coresOf n s := by
  have key {β : Type} (g : Part → β) (h) (j : Fin 64) : g (faultedIn c n cause glob a s).parts[j.val] = g s.parts[j.val] :=
    modPart_keeps g n _ _ (fun p => Part.faulted_keeps g c s.eph.ticks (cause = .fabric) p h) j
  have hvalid := key Part.valid fun _ _ _ _ => rfl
  have hx := key Part.gx0 fun _ _ _ _ => rfl
  have hy := key Part.gy0 fun _ _ _ _ => rfl
  have hw := key Part.width fun _ _ _ _ => rfl
  have hh := key Part.height fun _ _ _ _ => rfl
  unfold partOf coresOf
  simp only [hvalid, hx, hy, hw, hh, and_self]

theorem faultedIn_stall (c k : CoreId) (n : Fin 64) (cause : Cause) (glob : Bool) (a : Dword) (s : State) (b : Fin 4)
    (h : s.cores[k.val].stall ≠ .bar b) : (faultedIn c n cause glob a s).cores[k.val].stall ≠ .bar b := by
  unfold faultedIn
  simp only [modPart_cores, modCore_cores]
  by_cases e : k = c
  · subst e
    rw [upd_same]
    simp [faultCore]
  · rwa [upd_other _ _ _ _ k.isLt fun q => e (Fin.ext q)]

/-- The first exception in a partition in which no core waits at a barrier is remembered. -/
theorem raise_first (c : CoreId) (n : Fin 64) (cause : Cause) (glob : Bool) (a : Dword) (s : State)
    (hr : s.cores[c.val].st = .running) (hp : partOf c s = some n) (hff : s.parts[n.val].firstFault = none)
    (hbar : ∀ k ∈ coresOf n s, ∀ b, s.cores[k.val].stall ≠ .bar b) :
    (raise c cause glob a s).parts[n.val].firstFault = some c := by
  have hone := (raiseOne_access c n cause glob a s hr hp).1
  obtain ⟨hpart, hcores⟩ := faultedIn_part c n cause glob a s
  unfold raise raiseAt
  rw [if_pos hr]
  generalize raiseOne c cause s.cores[c.val].pc glob a s = u at hone ⊢
  have hparts : u.parts = (faultedIn c n cause glob a s).parts := by rw [hone]
  have hpu : partOf c u = some n := by
    rw [← hp, ← hpart]
    unfold partOf
    rw [hparts]
  have hidle : barriers n u = u := by
    refine barriers_idle n u fun k hk b => ?_
    rw [coresOf_same n hparts, hcores] at hk
    have hstall := faultedIn_stall c k n cause glob a s b (hbar k hk b)
    rw [hone]
    exact hstall
  unfold leftRunning
  rw [hpu]
  dsimp only
  rw [hidle, hparts]
  unfold faultedIn
  rw [modPart_parts, upd_same]
  have hfirst : faultsFirst s.parts[n.val] c s.eph.ticks = true := by
    unfold faultsFirst
    rw [hff]
  show (Part.faulted c s.eph.ticks _ s.parts[n.val]).firstFault = _
  unfold Part.faulted
  rw [if_pos hfirst]

end Sys2Proof.Machine
end

section
/-! PROOFS. The stop of a partition (R162, R171, R184, R404, R407), and the end of programs. -/

namespace Sys2Proof.Machine

open Sys2Proof

/-! ### Abandoned work (R184, R217) -/

/-- Core c alone may differ, in what abandoned work may have written. -/
structure Scrambles (c : CoreId) (s t : State) : Prop where
  rest : t = { s with cores := t.cores, free := t.free }
  other : ∀ k : CoreId, k ≠ c → t.cores[k.val] = s.cores[k.val]
  self : t.cores[c.val] = { s.cores[c.val] with
    mem := t.cores[c.val].mem, slots := t.cores[c.val].slots, ledger := t.cores[c.val].ledger
    foldSteps := t.cores[c.val].foldSteps, hacc := t.cores[c.val].hacc }

theorem Scrambles.refl (c : CoreId) (s : State) : Scrambles c s s := ⟨rfl, fun _ _ => rfl, rfl⟩

theorem Scrambles.trans {c : CoreId} {s t u : State} (h : Scrambles c s t) (k : Scrambles c t u) : Scrambles c s u := by
  obtain ⟨h1, h2, h3⟩ := h
  obtain ⟨k1, k2, k3⟩ := k
  refine ⟨?_, fun j hj => (k2 j hj).trans (h2 j hj), ?_⟩
  · rw [k1, h1]
  · rw [k3, h3]

theorem modCore_other (c k : CoreId) (f : Core → Core) (s : State) (h : k ≠ c) :
    (modCore c f s).cores[k.val] = s.cores[k.val] := by
  rw [modCore_cores, upd_other _ _ _ _ k.isLt fun q => h (Fin.ext q)]

theorem modCore_this (c : CoreId) (f : Core → Core) (s : State) : (modCore c f s).cores[c.val] = f s.cores[c.val] := by
  rw [modCore_cores, upd_same]

/-- A change of the parts of core c that abandoned work may have written, some free values taken. -/
theorem Scrambles.modCore (c : CoreId) (f : Core → Core) (n : Nat) (s : State)
    (h : ∀ k, f k = { k with mem := (f k).mem, slots := (f k).slots, ledger := (f k).ledger
                             foldSteps := (f k).foldSteps, hacc := (f k).hacc } := by exact fun _ => rfl) :
    Scrambles c s (modCore c f { s with free := n }) := by
  refine ⟨rfl, fun k hk => modCore_other c k f _ hk, ?_⟩
  rw [modCore_this]
  exact h s.cores[c.val]

theorem Scrambles.foldl {α : Type} (c : CoreId) (f : State → α → State) (hf : ∀ s a, Scrambles c s (f s a)) (l : List α)
    (s : State) : Scrambles c s (l.foldl f s) := by
  induction l generalizing s with
  | nil => exact .refl c s
  | cons a t ih => exact (hf s a).trans (ih _)

/-- A core whose queued work has been abandoned. -/
def Core.abandoned (k : Core) : Core :=
  { k with arr := [], spx := [], hac := [], ocu := [], ni := [], posts := [], coalesce := none, pendS := 0, pendV := 0, pendP := 0
           arrived := 0 }

theorem abandonQueues_scrambles (c : CoreId) (s : State) : Scrambles c (modCore c Core.abandoned s) (abandonQueues c s) := by
  unfold abandonQueues
  extract_lets k es s1 s2 s3 s4
  have h2 : Scrambles c s1 s2 := .foldl c _ (fun s r => .modCore c _ _ s) _ s1
  have h3 : Scrambles c s1 s3 := h2.trans (.foldl c _ (fun s e => .modCore c _ _ s) _ s2)
  have h4 : Scrambles c s1 s4 := by
    refine h3.trans ?_
    unfold s4
    split
    · exact .modCore c _ _ s3
    · exact .refl c s3
  refine Scrambles.trans h4 ?_
  split
  · exact .modCore c _ _ s4
  · exact .refl c s4

/-! ### A core that stops (R171, R184, R404) -/

theorem takeGrants_sends (n : Nat) (c : CoreId) (s : State) : ∃ l, takeGrants n c s = modCore c (fun k => k.sends l) s := by
  induction n generalizing s with
  | zero => exact ⟨_, (modCore_self c s).symm.trans (modCore_congr rfl)⟩
  | succ n ih =>
    unfold takeGrants
    split
    · exact ⟨_, (modCore_self c s).symm.trans (modCore_congr rfl)⟩
    · next m _ =>
      obtain ⟨l, hl⟩ := ih (setStep c m .granted s)
      refine ⟨l, ?_⟩
      rw [hl, setStep, modCore_modCore]
      rfl

/-- A core that has stopped: it runs no more, waits on nothing, and its queues are empty. -/
structure Core.Stopped (k k' : Core) : Prop where
  st : k'.st = if k.st = .running then .stopped else k.st
  stall : k'.stall = .none
  arr : k'.arr = []
  spx : k'.spx = []
  hac : k'.hac = []
  ocu : k'.ocu = []
  ni : k'.ni = []

theorem Core.Stopped.answered {k k' k'' : Core} (h : k.Stopped k') (h' : k'.AnsweredAs k'') : k.Stopped k'' :=
  ⟨(h'.keeps Core.st).trans h.st, (h'.keeps Core.stall).trans h.stall, h'.2.2 h.arr, (h'.keeps Core.spx).trans h.spx,
    (h'.keeps Core.hac).trans h.hac, (h'.keeps Core.ocu).trans h.ocu, h'.2.1 h.ni⟩

theorem Core.Stopped.after {k k' k'' : Core} (h : k.AnsweredAs k') (h' : k'.Stopped k'') : k.Stopped k'' :=
  ⟨by rw [h'.st, h.keeps Core.st], h'.stall, h'.arr, h'.spx, h'.hac, h'.ocu, h'.ni⟩

theorem Core.Stopped.not_running {k k' : Core} (h : k.Stopped k') : k'.st ≠ .running := by
  rw [h.st]
  split
  · decide
  · next hr => exact hr

theorem Core.Stopped.not_exited {k k' : Core} (h : k.Stopped k') (h0 : k.st ≠ .exited) : k'.st ≠ .exited := by
  rw [h.st]
  split
  · decide
  · exact h0

theorem Core.Stopped.trans {k k' k'' : Core} (h : k.Stopped k') (h' : k'.Stopped k'') : k.Stopped k'' := by
  refine ⟨?_, h'.stall, h'.arr, h'.spx, h'.hac, h'.ocu, h'.ni⟩
  rw [h'.st, if_neg h.not_running, h.st]

/-- Core c has stopped; descriptors and partitions are as they were, and so are other cores but for what it may change there. -/
structure Stops (c : CoreId) (s t : State) : Prop where
  work : KeepsWork s t
  parts : t.parts = s.parts
  other : ∀ k : CoreId, k ≠ c → s.cores[k.val].AnsweredAs t.cores[k.val]
  self : s.cores[c.val].Stopped t.cores[c.val]

/-- A stop after which others have changed the cores no further than they may. -/
theorem Stops.answered {c : CoreId} {s t u : State} (h : Stops c s t) (k : OnlyAnswers t u) : Stops c s u :=
  ⟨h.work.trans k.work, k.parts.trans h.parts, fun j hj => (h.other j hj).trans (k.core j), h.self.answered (k.core c)⟩

/-- What remains of a mailbox when the reservations of a core are discarded. -/
def Core.unreserved (c : CoreId) (k : Core) : Core :=
  { k with mbox := k.mbox.map fun m => { m with waiting := m.waiting.filter fun r => r.src != some c } }

/-- The messages of a core that are not granted are discarded, and so are their reservations. -/
theorem dropUngranted_cores (c : CoreId) (s : State) :
    dropUngranted c s = { s with cores := (dropUngranted c s).cores } ∧
      (∀ k : CoreId, k ≠ c → (dropUngranted c s).cores[k.val] = s.cores[k.val].unreserved c) ∧
      ∃ l, (dropUngranted c s).cores[c.val] = (s.cores[c.val].unreserved c).sends l := by
  obtain ⟨l, hl⟩ := takeGrants_sends s.cores[c.val].sendBuf.length c s
  unfold dropUngranted
  dsimp only
  rw [hl]
  refine ⟨rfl, fun k hk => ?_, l.filter fun m => m.step = .granted, ?_⟩
  · rw [modCore_other c k _ _ hk]
    simp only [Vector.getElem_map, modCore_other c k _ _ hk]
    rfl
  · rw [modCore_this]
    simp only [Vector.getElem_map, modCore_this]
    rfl

/-- A core that no longer runs, its queues empty. -/
def Core.halts (k : Core) : Core := { k with st := if k.st = .running then .stopped else k.st, stall := .none }

/-- What a stop does before the mailboxes of the core discard. -/
theorem stopCore_eq (c : CoreId) (s : State) : ∃ v, stopCore c s = mboxesEnd c v ∧
    v.cores = (modCore c Core.halts (dropUngranted c (abandonQueues c s))).cores ∧
    KeepsWork (dropUngranted c (abandonQueues c s)) v ∧ v.parts = (dropUngranted c (abandonQueues c s)).parts := by
  unfold stopCore
  generalize dropUngranted c (abandonQueues c s) = a
  exact ⟨_, rfl, rfl, ⟨rfl, rfl, rfl, fun _ => rfl, fun _ => rfl⟩, rfl⟩

/-- Only cores and the count of free values may differ. -/
theorem KeepsWork.of_rest {s t : State} (h : t = { s with cores := t.cores, free := t.free }) :
    KeepsWork s t ∧ t.parts = s.parts := by
  have hinst : t.inst = s.inst := by rw [h]
  exact ⟨⟨by rw [h], by rw [h], by rw [h], fun i => by rw [hinst], fun i => by rw [hinst]⟩, by rw [h]⟩

/-- A core that stops: RUNNING becomes STOPPED, and what it has queued is abandoned. -/
theorem stopCore_stops (c : CoreId) (s : State) : Stops c s (stopCore c s) := by
  obtain ⟨v, hv, hcores, hwork, hparts⟩ := stopCore_eq c s
  obtain ⟨hrest, hother, hself⟩ := abandonQueues_scrambles c s
  obtain ⟨hdrop, hdother, l, hdself⟩ := dropUngranted_cores c (abandonQueues c s)
  rw [hv]
  generalize abandonQueues c s = a at *
  generalize dropUngranted c a = b at *
  obtain ⟨awork, aparts⟩ := KeepsWork.of_rest hrest
  have hb : b = { a with cores := b.cores, free := b.free } := hdrop.trans (by rw [hdrop])
  obtain ⟨bwork, bparts⟩ := KeepsWork.of_rest hb
  have hthis : v.cores[c.val] = ((a.cores[c.val].unreserved c).sends l).halts := by
    simp only [hcores, modCore_this, hdself]
  rw [modCore_this] at hself
  have hstop : Stops c s v := by
    have swork : KeepsWork s (modCore c Core.abandoned s) := ⟨rfl, rfl, rfl, fun _ => rfl, fun _ => rfl⟩
    have sparts : (modCore c Core.abandoned s).parts = s.parts := rfl
    refine ⟨swork.trans (awork.trans (bwork.trans hwork)), hparts.trans (bparts.trans (aparts.trans sparts)),
      fun k hk => ?_, ?_⟩
    · have hk' : v.cores[k.val] = s.cores[k.val].unreserved c := by
        simp only [hcores, modCore_other c k _ _ hk, hdother k hk, hother k hk]
      rw [hk']
      exact ⟨rfl, id, id⟩
    · rw [hthis, hself]
      exact ⟨rfl, rfl, rfl, rfl, rfl, rfl, rfl⟩
  exact hstop.answered (OnlyServes.mboxesEnd c v hstop.self.not_running).toOnlyAnswers

/-- Each core of a list stops, and the others stand but for what these may change. -/
theorem stopAll (ks : List CoreId) (s : State) :
    KeepsWork s (ks.foldl (fun s c => stopCore c s) s) ∧ (ks.foldl (fun s c => stopCore c s) s).parts = s.parts ∧
      (∀ k : CoreId, k ∈ ks → s.cores[k.val].Stopped (ks.foldl (fun s c => stopCore c s) s).cores[k.val]) ∧
      ∀ k : CoreId, k ∉ ks → s.cores[k.val].AnsweredAs (ks.foldl (fun s c => stopCore c s) s).cores[k.val] := by
  induction ks generalizing s with
  | nil => exact ⟨.refl s, rfl, fun k hk => (List.not_mem_nil hk).elim, fun k _ => .refl _⟩
  | cons c t ih =>
    obtain ⟨hwork, hparts, hother, hself⟩ := stopCore_stops c s
    obtain ⟨iwork, iparts, iin, iout⟩ := ih (stopCore c s)
    rw [List.foldl_cons]
    refine ⟨hwork.trans iwork, iparts.trans hparts, fun k hk => ?_, fun k hk => ?_⟩
    · by_cases e : k = c
      · subst e
        by_cases ht : k ∈ t
        · exact hself.trans (iin k ht)
        · exact hself.answered (iout k ht)
      · exact .after (hother k e) (iin k ((List.mem_cons.1 hk).resolve_left e))
    · obtain ⟨e, ht⟩ := not_or.1 (mt List.mem_cons.2 hk)
      exact (hother k e).trans (iout k ht)

/-! ### The LAUNCH of a partition that stops (R162, R184) -/

/-- The outcome that the stop adds (R184). -/
def stopOutcome (fabric : Bool) (o : Outcomes) : Outcomes :=
  { o with fabricUnreach := o.fabricUnreach || fabric, coreFault := o.coreFault || !fabric }

theorem statusOf_stopped (n : Fin 64) (s u : State) (x : Item) (r : Dword) (fabric : Bool) (hout : x.out = {}) :
    statusOf (endedItem (launchFold n s x) r (stopOutcome fabric) u).out = if fabric then 0x21 else 0x14 := by
  unfold endedItem launchFold stopOutcome statusOf
  cases fabric <;> simp [hout]

theorem launchFold_faulted (n : Fin 64) (f e : CoreId) (s : State) (x : Item) (he : coreAt s.parts[n.val] 0 = e)
    (h0 : s.cores[e.val].st ≠ .exited) (hff : s.parts[n.val].firstFault = some f) :
    (launchFold n s x).result = BitVec.ofNat 64 (f.val * 2 ^ 32) := by
  unfold launchFold
  simp only [he, if_neg h0, hff, Option.elim, Nat.zero_add]

/-- The stop of a partition: each of its cores stops, and the LAUNCH completes with the first fault. -/
theorem partitionStop_ends (n : Fin 64) (f e : CoreId) (d : Nat) (x : Item) (s : State) (hff : s.parts[n.val].firstFault = some f)
    (hitem : s.parts[n.val].item = some d) (hx : findItem d s = some x) (hrun : x.stage = .running) (hfresh : Fresh x s)
    (he : coreAt s.parts[n.val] 0 = e) (h0 : s.cores[e.val].st ≠ .exited) (hlive : live s = true) :
    ∃ t, exec (.partitionStop n) s = .next t ∧ t.parts[n.val].item = none ∧
      (∀ k ∈ coresOf n s, s.cores[k.val].Stopped t.cores[k.val]) ∧
      Completes d (if s.parts[n.val].fabricFirst then 0x21 else 0x14) (BitVec.ofNat 64 (f.val * 2 ^ 32)) s t := by
  obtain ⟨hwork, hparts, hin, hnotin⟩ := stopAll (coresOf n s) s
  have hexec : exec (.partitionStop n) s = .next (launchEnd n (stopOutcome s.parts[n.val].fabricFirst)
      (orphanCores n ((coresOf n s).foldl (fun s c => stopCore c s) s))) := by
    show execPartitionStop n s = _
    unfold execPartitionStop act
    rw [if_pos (by simp [hlive, hff, hitem])]
    rfl
  rw [hexec]
  generalize (coresOf n s).foldl (fun s c => stopCore c s) s = u at hwork hparts hin hnotin ⊢
  obtain ⟨owork, oparts, ocore⟩ := OnlyAnswers.orphanCores n u
  generalize orphanCores n u = v at owork oparts ocore ⊢
  have hvparts := oparts.trans hparts
  have hfound : findItem d v = some x := (findItem_items (owork.items.trans hwork.items)).trans hx
  have hv0 : v.cores[e.val].st ≠ .exited := by
    rw [(ocore e).keeps Core.st]
    by_cases hk : e ∈ coresOf n s
    · exact (hin e hk).not_exited h0
    · rwa [(hnotin e hk).keeps Core.st]
  obtain ⟨hout, -, -, hreset, -⟩ := hfresh
  have hdone := launchEnd_completes n (stopOutcome s.parts[n.val].fabricFirst) d x v (by rw [hvparts]; exact hitem)
    hfound hrun hreset
  have hfold : launchFold n (logInx n v) x = launchFold n v x := by
    have hlog := (logInx_onlyAccess n v).1
    have hlogParts := congrArg State.parts hlog
    have hlogCores := congrArg State.cores hlog
    exact launchFold_same n x hlogParts hlogCores
  rw [hfold, statusOf_stopped _ _ _ _ _ _ hout,
    launchFold_faulted n f e v x (by rw [hvparts]; exact he) hv0 (by rw [hvparts]; exact hff)] at hdone
  refine ⟨_, rfl, launchEnd_item n _ v, fun k hk => ?_, hdone.earlier hx hfound rfl rfl rfl rfl⟩
  simp only [launchEnd_cores]
  exact (hin k hk).answered (ocore k)

/-- Settles O29. An EXIT waits for its queues and then leaves its core EXITED; the LAUNCH of the last core, or of the stop after
an exception, completes with what the cores have brought it. -/
theorem programEnds : Obligations.ProgramEnds := by
  unfold Obligations.ProgramEnds
  intro s n hlive
  refine ⟨fun c w h hd hb hc hx hn => ⟨fun g dom hg hroute hni => ?_, fun hq => ?_, fun hnone hq => ?_⟩,
    fun c cause glob a hr => ?_, fun f d x hff hitem hx hrun hfresh h0 => ?_⟩
  · obtain ⟨t, ht, hreqs, hcores⟩ := closing_exit c ((sreg s.cores[c.val] w.a).setWidth 32) g dom s (executes_running h) hg
      hroute hni
    refine ⟨t, reqMsg dom g.req (writeReq g) s, ?_, hreqs, rfl, rfl, rfl, rfl, rfl, hcores⟩
    rw [exit_executes c w s h hd hb hc hx hn, ht]
  · obtain ⟨hst, hword, hregs, hmem⟩ := exited_ends c ((sreg s.cores[c.val] w.a).setWidth 32) s
    exact ⟨_, exit_done c w s h hd hb hc hx hn hq, hst, hword, hregs, hmem, fun d x => exited_completes c n _ d x s⟩
  · rw [exit_executes c w s h hd hb hc hx hn, closing_none c _ s hnone (executes_running h), resume_exit,
      if_neg (by rw [hq]; decide)]
  · refine ⟨raise c cause glob a s, ?_, raise_faulted c cause _ glob a s hr rfl, raise_first c n cause glob a s hr⟩
    show execCoreException c cause glob a s = _
    unfold execCoreException act
    rw [if_pos (by simp [hlive, hr])]
  · obtain ⟨t, ht, hnone, hstopped, hdone⟩ := partitionStop_ends n f _ d x s hff hitem hx hrun hfresh rfl h0 hlive
    refine ⟨t, ht, hnone, fun k hk => ?_, hdone⟩
    obtain ⟨hst, hstall, harr, hspx, hhac, hocu, hni⟩ := hstopped k hk
    exact ⟨hst, hstall, harr, hspx, hhac, hocu, hni⟩

end Sys2Proof.Machine
end
